-- ==== Sys2Proof/Word.lean ====
section
/-! DEFINITION. The words of the part: bytes, 32- and 64-bit words, 32-byte sectors, and the bodies of the 128-bit
instruction words (R127). -/

namespace Sys2Proof

/-- One byte. -/
abbrev Byte := BitVec 8
/-- A 32-bit word: a scratchpad word, an accumulator element, a short register. -/
abbrev Word32 := BitVec 32
/-- A register's contents; a 32-bit register (R7) keeps its upper half zero. -/
abbrev Word := BitVec 64
/-- One 32-byte sector, byte 0 in bits [7:0] (R5). -/
abbrev Sector := BitVec 256
/-- Bits [121:0] of a 128-bit instruction word: everything but the opcode (R127). -/
abbrev Body := BitVec 122
/-- A SHA-512 value. -/
abbrev Hash := BitVec 512

/-- A physical core index: row × 64 + column (R13). -/
abbrev CoreId := Fin 2304
/-- A compute die Q0–Q3 (R14). -/
abbrev Die := Fin 4
/-- A partition context (R18, R187). -/
abbrev Ctx := Fin 8
/-- A PCI Express function: 0 physical, 1–8 virtual (R394). -/
abbrev Fn := Fin 9
/-- A Nirlo port N00–N31. -/
abbrev Port := Fin 32
/-- A Nirlo port group; group g serves ports 4g to 4g + 3 (R254). -/
abbrev Group := Fin 8
/-- A device rank (R243). -/
abbrev Rank := BitVec 10

end Sys2Proof
end

