-- ==== Sys2Proof/Syntax.lean ====
section
/-! DEFINITION. The commands of the block: one constructor of `Instr` for every row of spec/opcode_table.json, with the
row's operands, and the types of those operands. Where an operand stands for something only the surroundings decide
(a measured temperature, what an ECC check found, a message's contents), the command carries it. -/

namespace Sys2Proof

/-- The two instruction streams of a core (R121). -/
inductive Strm where
  | access | execute
  deriving DecidableEq, Repr

/-- The execute units (R121). -/
inductive ExecUnit where
  | array | vector | topk | compressor | store
  deriving DecidableEq, Repr

/-- What the SECDED check of a read found (R177, R219). -/
inductive Ecc where
  | clean | corrected | uncorrectable
  deriving DecidableEq, Repr

/-- Who performs a register access (R331 CFG_ERR.SRC): the host through a function, a core program, firmware, the manager. -/
inductive Writer where
  | host (fn : Fn) | core | firmware | manager
  deriving DecidableEq, Repr

/-- How a CXL request ended (R226). -/
inductive ReachStatus where
  /-- Data, or a write's completion. -/
  | ok
  /-- As `ok`, with a corrected event that the device reports. -/
  | corrected
  /-- A poisoned response or an error status. -/
  | failed
  deriving DecidableEq, Repr

/-- A Nirlo message (R238): its head, its virtual channel (R237: 0 SIG, 1 LCR, 2 RED, 3 BULK) and its sectors. NSEC_M1
of a read request tells how many sectors it asks for. A byte-enabled write (R293) names its bytes in `be`. -/
structure Msg where
  dst : Rank
  srcDev : Rank
  srcCore : BitVec 12
  kind : BitVec 4
  tag : BitVec 12
  flags : BitVec 16
  addr : BitVec 48
  vc : BitVec 2
  nsecM1 : BitVec 6 := 0
  data : List Sector
  be : List Word32 := []
  deriving DecidableEq, Repr

/-- Kinds whose head is followed by sectors (R238): write, read data, reduction sector, chain partial. -/
def kindCarries (k : BitVec 4) : Bool := k == 0 || k == 2 || k == 4 || k == 5

/-- A slot of a flit (R237), with its virtual channel: up to four heads, messages without their sectors; or two sectors of
the message whose head came last on the channel. -/
inductive Slot where
  | empty
  | heads (vc : BitVec 2) (l : List Msg)
  | data (vc : BitVec 2) (x y : Sector)
  | control (w : BitVec 512)
  deriving DecidableEq, Repr

/-- A flit (R237): header fields, four slots, the CRC; and as the receiver sees it the corrected and uncorrectable FEC
codewords that carried it (R236). -/
structure Flit where
  seq : BitVec 12
  ack : BitVec 12
  nak : Bool
  crVc : BitVec 2
  crN : BitVec 7
  slots : List Slot
  crc : Word32
  fecCorr : BitVec 8 := 0
  fecUnc : BitVec 8 := 0
  deriving DecidableEq, Repr

/-- The start message of a step (R260), with the manager's image measurement, which a device compares with its own (R280). -/
structure StartMsg where
  step : BitVec 64
  attempt : BitVec 16
  t0 : BitVec 64
  evalDue : Bool
  replay : Bool
  prevApplied : Bool
  meas : Hash
  deriving DecidableEq, Repr

/-- A lateness entry (R272). -/
structure LateEntry where
  rank : Rank
  event : BitVec 8
  phase : BitVec 8
  tag : BitVec 12
  sectors : BitVec 32
  ticks : BitVec 32
  deriving DecidableEq, Repr

/-- A device's verify report (R266, R267), as it reaches the manager: what the
detectors read before apply, and at the end of the step NF_APPLY with the device's lateness entries (R271, R272). -/
structure VerifyReport where
  nfPos : BitVec 64
  nfNeg : BitVec 64
  nfNan : BitVec 64
  nfApply : BitVec 64
  maxExp : BitVec 8
  gnorm : BitVec 32
  predSkip : BitVec 64
  predAudit : BitVec 64
  predMiss : BitVec 64
  predOver : BitVec 64
  cmprDrop : BitVec 64 := 0
  /-- Of the report at the step's end (R258, R271, R279): the device is unsynchronised, was throttled, does not reproduce
  its cycles, had its evaluation fail; its firmware versions and its disabled-unit map. -/
  unsync : Bool := false
  throttled : Bool := false
  irrepro : Bool := false
  evalFailed : Bool := false
  fw : Word := 0
  dum : BitVec 2304 := 0
  /-- The device's lateness entries, in its report at the step's end; a step attestation of the device waits (R384). -/
  late : List LateEntry
  attest : Bool := false
  deriving DecidableEq, Repr

/-- What a repeat message asks for (R264, R269): the step again, the step cleared away, or a halt. -/
inductive RepeatKind where
  | again | skip | halt
  deriving DecidableEq, Repr

/-- A device's report to the manager (R263). -/
inductive ReportKind where
  /-- A core halted by a class 1, 2 or 4 error. -/
  | coreError
  /-- The second-path check found a difference (R297). -/
  | mismatch
  /-- A contribution lost to a link failure or held past the exchange hard deadline. -/
  | lostContribution
  deriving DecidableEq, Repr

/-- One stream's program in an image (R317): the core by its logical index, instructions, pointer entries and descriptors of
each bank, as (bank × table size + index, value), and the entry bank. -/
structure StreamImage where
  core : CoreId
  stream : Strm
  code : List (Nat × BitVec 128)
  ptrs : List (Nat × BitVec 64)
  descs : List (Nat × Sector)
  entry : Bool
  deriving DecidableEq, Repr

/-- A reduction entry of an image's MESH section (R211, R317): router by its logical index, entry, and the inputs by where
their sectors come from: the router's own core, or another logical core. -/
structure RedImage where
  core : CoreId
  entry : Fin 64
  fmt : BitVec 2
  tag : BitVec 12
  toChain : Bool
  group : Group
  inputs : List (Option CoreId)
  deriving DecidableEq, Repr

/-- The body of one section of an image (R317), one constructor per TYPE, and one for what the loader does not know. Core
windows, scratchpads and pointers name cores by their logical index; resources as R320 check 8 names them. The byte form of
the bodies is no part of the spec, so the load's completion carries their contents. -/
inductive SectionBody where
  /-- Occupied logical cores. -/
  | grid (cores : List CoreId)
  | streams (l : List StreamImage)
  | spmap (l : List Byte)
  /-- Register writes: device address, value. -/
  | regs (l : List (Nat × Word))
  /-- With the landing entries bound (die × 2048 + entry), for R199. -/
  | pennant (l : List (Nat × Word)) (landings : List Nat)
  /-- With the depth of the hoist tree, and this device's own depth on it (R257). -/
  | hoist (l : List (Nat × Word)) (treeDepth depth : Nat)
  | mesh (l : List (Nat × Word)) (reds : List RedImage)
  /-- With pseudo-channels, and aperture segments as 16 × port + segment. -/
  | tiers (l : List (Nat × Word)) (channels segments : List Nat)
  /-- With ports, and the group's manager coordinate as a rank (R246). -/
  | nirlo (l : List (Nat × Word)) (ports : List Nat) (manager : Rank)
  | plan (l : List (Nat × Word))
  /-- With each exchange's chain entries (port group × 64 + entry) and its policy (R298): 0 WAIT, 1 DEFER, 2 DROP. -/
  | exch (l : List (Nat × Word)) (policies : List (Nat × Fin 3))
  /-- PRED's parameter sectors: device address and byte. -/
  | pred (l : List (Nat × Byte))
  | eval (l : List StreamImage) (spmap : List Byte)
  /-- Initial contents of regions: device address and byte. -/
  | data (l : List (Nat × Byte))
  | unknown
  deriving DecidableEq, Repr

/-- What a stack or a device tells of itself at training, and what its training finds (R228): its identification, its
temperature in °C, the training values. -/
structure Trained where
  ident : Word
  temp : Byte
  values : Word
  deriving DecidableEq, Repr

/-- What a Nirlo port's lane training ends with (R228, R245): how many lanes locked, the temperature in °C and the training
values. -/
structure LaneTraining where
  locked : Fin 9
  temp : Byte
  values : Word
  deriving DecidableEq, Repr

/-- What a start step reports (R366, R369). -/
inductive StepResult where
  /-- The step completed with nothing to report. -/
  | done
  /-- Step 5: the crystals are measured and judged; whether XB is present (R334, R335). -/
  | clocks (xbPresent : Bool)
  /-- Step 8: the eight stacks, with none for one that fails; the reach ports that trained, with rate, width and capacity in
  GiB. -/
  | training (perStack : List (Option Trained)) (reach : List (Fin 4 × Trained × BitVec 4 × BitVec 5 × BitVec 10))
  /-- Step 9: every enabled core passed its self-test. -/
  | selfTest (ok : Bool)
  /-- A failure with its error code and, for clock and power errors, the unit their record names. -/
  | failed (code : BitVec 16) (unit : Byte)
  deriving DecidableEq, Repr

/-- The commands: one constructor per row of spec/opcode_table.json, in the table's order. -/
inductive Instr where
  -- the streams' own instructions
  | halt (c : CoreId) (t : Strm) (w : Body)
  | loop (c : CoreId) (t : Strm) (w : Body)
  | endl (c : CoreId) (t : Strm) (w : Body)
  | cset (c : CoreId) (t : Strm) (w : Body)
  | cadd (c : CoreId) (t : Strm) (w : Body)
  | cmpb (c : CoreId) (t : Strm) (w : Body)
  | sig (c : CoreId) (t : Strm) (w : Body)
  | wait (c : CoreId) (t : Strm) (w : Body)
  -- access-stream instructions
  | ldq (c : CoreId) (t : Strm) (w : Body)
  | ldx (c : CoreId) (t : Strm) (w : Body)
  | stq (c : CoreId) (t : Strm) (w : Body)
  | fill (c : CoreId) (t : Strm) (w : Body)
  | copy (c : CoreId) (t : Strm) (w : Body)
  | send (c : CoreId) (t : Strm) (w : Body)
  | hoist (c : CoreId) (t : Strm) (w : Body)
  | syncq (c : CoreId) (t : Strm) (w : Body)
  -- execute-stream instructions
  | mmf (c : CoreId) (t : Strm) (w : Body)
  | mmt (c : CoreId) (t : Strm) (w : Body)
  | mmo (c : CoreId) (t : Strm) (w : Body)
  | scan (c : CoreId) (t : Strm) (w : Body)
  | prr (c : CoreId) (t : Strm) (w : Body)
  | pred (c : CoreId) (t : Strm) (w : Body)
  | aclr (c : CoreId) (t : Strm) (w : Body)
  | vop (c : CoreId) (t : Strm) (w : Body)
  | red (c : CoreId) (t : Strm) (w : Body)
  | topk (c : CoreId) (t : Strm) (w : Body)
  | cvt (c : CoreId) (t : Strm) (w : Body)
  | sta (c : CoreId) (t : Strm) (w : Body)
  | cmpr (c : CoreId) (t : Strm) (w : Body)
  -- events of a core
  | instructionFinish (c : CoreId) (u : ExecUnit)
  | fillCopyEngineDone (c : CoreId)
  | readDataReturn (id : Nat)
  | writeAck (id : Nat)
  | queueDeadlock (c : CoreId)
  | coreStart (c : CoreId) (who : Writer)
  | coreStop (c : CoreId) (who : Writer)
  | queueClear (c : CoreId) (who : Writer)
  | imemLoadStart (c : CoreId) (t : Strm) (who : Writer) (v : Word32)
  | imemLoadDone (c : CoreId) (t : Strm)
  -- counter clears
  | arrayCntClr (c : CoreId)
  | nfCntClr (c : CoreId)
  | maskCntClr (c : CoreId)
  | spCntClr (c : CoreId)
  | mrCntClr (c : CoreId)
  | detCntClr (c : CoreId)
  | nearCntClr (h : Fin 8)
  | rchCntClr (n : Fin 4)
  | nrlCntClr (p : Port)
  | nrlChCntClr (g : Group)
  | xchCntClr (g : Group)
  | expCntClr (c : CoreId)
  | pwrCntClr
  -- registers and scratchpads
  | registerWrite (who : Writer) (addr : BitVec 48) (wide : Bool) (v : Word)
  | spPatrol (c : CoreId) (bank : Fin 64) (word : Fin 4) (e : Ecc)
  | remoteSpRequest (id : Nat) (e : Ecc)
  | coreScrubDone (c : CoreId)
  -- pennants and hoists
  | pennantOp (id : Nat)
  | pennantWake (c : CoreId) (t : Strm)
  | pennantForward (id : Nat)
  | penHostSig (fn : Fn) (v : Word32)
  | remoteSignal (p : Port) (m : Msg)
  | landingNotice (src : Rank) (core : BitVec 12)
  | hoistArrival (id : Nat)
  | hoistRelease (c : CoreId) (t : Strm)
  | hoistDeparture (id : Nat)
  | deviceArrival (h : Fin 64) (round : Word32)
  | deviceFinished (h : Fin 64) (round : Word32)
  | crossDeviceRelease (h : Fin 64) (round : Word32)
  -- mesh
  | redSector (router : CoreId) (port : Fin 7) (tag : BitVec 12) (addr : BitVec 48) (data : Sector)
  | flitLate (router : CoreId) (bulk : Bool) (waited : BitVec 16)
  -- memory tiers
  | nearRequest (id : Nat) (e : Ecc)
  | nearPatrol (h : Fin 8) (pc : Fin 32) (e : Ecc) (dieCorr : BitVec 16)
  | tierWindow
  | reachRequest (id : Nat)
  | reachCompletion (id : Nat) (st : ReachStatus)
  | reachTimeout (id : Nat)
  | reachLinkDown (n : Fin 4)
  | nearMarginStart (h : Fin 8) (v : Word32)
  | nearMarginDone (h : Fin 8) (pass : BitVec 6) (errs : BitVec 16)
  | rchMarginStart (n : Fin 4) (v : Word32)
  | rchMarginDone (n : Fin 4) (pass : BitVec 6) (errs : BitVec 16)
  | nearScrubDone (s : Fin 8)
  | reachScrubDone (n : Fin 4)
  -- Nirlo links
  | flitReceive (p : Port) (f : Flit)
  | linkAckTimeout (p : Port)
  | laneLockLoss (p : Port)
  | capabilityExchange (p : Port) (word : Word)
  | nrlTrain (p : Port)
  | nrlMarginStart (p : Port) (v : Word32)
  | nrlMarginDone (p : Port) (pass : BitVec 6) (errs : BitVec 16)
  | passThrough (p : Port) (m : Msg)
  | nirloWriteMessage (p : Port) (m : Msg)
  | nirloReadRequest (p : Port) (m : Msg)
  | nirloReadData (p : Port) (m : Msg)
  -- the tick
  | timeSyncMessage (offset : BitVec 8)
  | tickSyncExchange
  | tickUnsyncTimeout
  -- chains and the exchange
  | chainPartial (p : Port) (m : Msg)
  | chainLocalSector (g : Group) (tag : BitVec 12) (addr : BitVec 48) (data : Sector)
  | chainDeadline (g : Group) (c : Fin 64)
  | shareSlot (g : Group) (c : Fin 64) (addr : BitVec 48) (x0 x1 x2 x3 : Sector)
  | settleSlot (g : Group) (c : Fin 64) (addr : BitVec 48) (sum : Sector)
  | checkSlot (g : Group) (c : Fin 64) (addr : BitVec 48) (hold : Sector)
  | checkCompare (g : Group) (c : Fin 64) (slot : Nat) (sum : Sector) (flag : Bool)
  -- step control
  | stepStartMessage (m : StartMsg)
  | stepT0
  | softDeadline (ph : Fin 6)
  | hardTimeout (ph : Fin 6)
  | deviceReport (rank : Rank) (k : ReportKind)
  | verifyReport (rank : Rank) (r : VerifyReport)
  | repeatMessage (k : RepeatKind)
  | quiescentReport (rank : Rank)
  | resumeMessage
  | reloadDone
  | groupRecordHash (grp : Fin 16) (h : Hash)
  | stepRun (v : Bool)
  | stepSingle
  | stepHaltNow
  -- expert routing
  | routeWindowWrite (c : CoreId) (off : BitVec 21) (data : Sector) (be : Word32)
  | routeBuild (c : CoreId)
  | routeBuildDone (c : CoreId)
  | combineHeader (c : CoreId) (lane : Fin 64) (data : Sector)
  | combineRowSector (c : CoreId) (lane : Fin 64) (off : BitVec 21) (data : Sector)
  -- image and profiles
  | imageLoadStart (who : Writer) (part : Ctx)
  | imageLoadDone (img : List SectionBody)
  | profileSwitchCmd (sel : Fin 4) (groupRuns : Bool)
  -- clocks and power
  | patternBoundary
  | muster
  | oppSettle (q : Die)
  | railSettleTimeout (q : Die)
  | powerMeasure (avg1us avg10ms : BitVec 16)
  | powerCapStep (raise : Bool)
  | thermalSample (temps : List Byte)
  | thermalCapStep (q : Die) (raise : Bool)
  | pmbusPoll (r : Fin 10) (answered fault pgood : Bool) (mv : BitVec 12)
  | vcoreToleranceTrip (q : Die) (high : Bool)
  | phaseLimitTrip (q : Die) (pp : Fin 24)
  | clockLoss (xb : Bool)
  | powerStateEntry
  | powerStateExit
  | latTolWrite (who : Writer) (fn : Fn) (ns : Word32)
  | hostLinkDown
  -- resets and starts
  | powerOnReset (a0 a1 a2 a3 : Byte)
  | rstNAssert
  | rstNRelease (a0 a1 a2 a3 : Byte)
  | perstNAssert
  | watchdogExpiry
  | inbandReset
  | hostWarmReset
  | coreArrayReset
  | partitionReset (p : Ctx)
  | securityViolation
  | startStepDone (r : StepResult)
  | xtalSettleExpiry (xb : Bool)
  | xtalJudgeWindow (count : BitVec 16)
  | xtalJudgeTimeout (xb : Bool)
  | pllLockTimeout (n : Fin 16)
  | railPgoodTimeout (vcore : Bool) (r : Fin 10)
  | bootGo
  | startRetry
  | recoveryRestart
  | fscClr
  -- security and debug
  | attest (fn : Fn)
  | stepAttestRequest (fn : Fn)
  | stepAttestRun
  | stepAttestDone (ue : Bool)
  | newChallenge
  | challengeExpiry
  | installBurgee
  | keyInstall
  | keyRevoke
  | lifecycleTransition
  | debugUnlock
  | dbgObserve
  | dbgClose
  | dbgHalt (c : CoreId)
  | dbgStep (c : CoreId) (t : Strm)
  | dbgResume (c : CoreId)
  | dbgRead
  | dbgWrite
  | dbgapAccess (dr : BitVec 81)
  | tapReset
  -- host interface
  | hostBar2Read (fn : Fn) (off : BitVec 48) (len : Fin 4097)
  | hostBar2Write (fn : Fn) (off : BitVec 48) (data : List Byte)
  | ringDoorbell (fn : Fn) (prod : BitVec 16)
  | ringConsWrite (fn : Fn) (err : Bool) (cons : BitVec 16)
  | openAbi (fn : Fn)
  | dma (fn : Fn)
  | dmaDone (ch : Fin 16)
  | partCreate (fn : Fn)
  | partKill (fn : Fn)
  | partKillDone (p : Ctx)
  | vaonLoss
  | perstNRelease
  | laneTrainingDone (p : Port) (lanes : LaneTraining)
  | hostLinkUp (flit : Bool) (rate : BitVec 4) (width : BitVec 5)
  | hostBar0Read (fn : Fn) (off : BitVec 29) (len : Fin 9)
  | configurationRequest (fn : Fn) (d3hot : Option Bool) (bar2 : Option (Fin 12))
  | powerStateEntryDone
  | tickAlignmentMessage (down : Bool) (tick : Word)
  | profileCheckRequest (sel : Fin 4) (go : Bool)
  | profileCheckReport (rank : Rank) (sel : Fin 4) (valid : Bool)
  | stepAttestReport (rank : Rank)
  | updateIr (code : Byte)
  deriving DecidableEq, Repr

end Sys2Proof
end

