-- ==== Sys2Proof/WellFormed.lean ====
section
/-! DEFINITION. Which commands are well formed. The operand types bound almost everything; what is left is how many
sectors, slots, readings or bytes a command brings. -/

namespace Sys2Proof

/-- A message brings the sectors its NSEC_M1 names, with byte enables for all of them or for none; heads of KIND 3 and 6
carry none and their NSEC_M1 is 0 (R238). -/
def msgWf (m : Msg) : Bool :=
  (if kindCarries m.kind then m.data.length == m.nsecM1.toNat + 1 else m.data.isEmpty)
    && ((m.kind != 3 && m.kind != 6) || m.nsecM1 == 0)
    && (m.be.isEmpty || m.be.length == m.data.length)

/-- A head (R238): a message without its sectors. -/
def headWf (m : Msg) : Bool :=
  m.data.isEmpty && ((m.kind != 3 && m.kind != 6) || m.nsecM1 == 0)
    && (m.be.isEmpty || (kindCarries m.kind && m.be.length == m.nsecM1.toNat + 1))

/-- A head slot holds one to four heads, of which only the last has sectors to follow (R237). -/
def slotWf (x : Slot) : Bool :=
  match x with
  | .heads _ l => decide (1 ≤ l.length) && decide (l.length ≤ 4) && l.all headWf && l.dropLast.all fun m => !kindCarries m.kind
  | .empty => true
  | .data _ _ _ => true
  | .control _ => true

/-- A flit has four slots (R237). -/
def flitWf (f : Flit) : Bool := f.slots.length == 4 && f.slots.all slotWf

/-- Step 8 trains eight stacks (R228). -/
def stepResultWf (r : StepResult) : Bool :=
  match r with
  | .training perStack _ => perStack.length == 8
  | .done => true
  | .clocks _ => true
  | .selfTest _ => true
  | .failed .. => true

/-- Well-formed commands. -/
def Instr.wellFormed (i : Instr) : Bool :=
  match i with
  | .flitReceive _ f => flitWf f
  | .remoteSignal _ m => msgWf m && m.kind == 3
  | .chainPartial _ m => msgWf m && m.kind == 5
  | .nirloWriteMessage _ m => msgWf m && (m.kind == 0 || m.kind == 4)
  | .nirloReadRequest _ m => msgWf m && m.kind == 1
  | .nirloReadData _ m => msgWf m && m.kind == 2
  | .passThrough _ m => msgWf m
  -- 72 island sensors and 24 uncore sensors (R347)
  | .thermalSample ts => ts.length == 96
  | .startStepDone r => stepResultWf r
  -- one write request of the host carries 1 to 4,096 bytes
  | .hostBar2Write _ _ bs => decide (1 ≤ bs.length) && decide (bs.length ≤ 4096)
  | .hostBar2Read _ _ len => decide (1 ≤ len.val)
  | .hostBar0Read _ _ len => decide (1 ≤ len.val)
  | _ => true

end Sys2Proof
end

