-- ==== Sys2Proof/Machine/Float.lean ====
section
/-! DEFINITION. Numbers of the part (R75–R93): formats, exact values, the one rounding of R80, and the operations that
IEEE 754 defines, each exact and then rounded once. Bit patterns are natural numbers below 2^width. -/

namespace Sys2Proof.Machine

/-- An exact value: NaN, a signed infinity, or ±m·2^e (m = 0 is a signed zero). -/
inductive Num where
  | nan
  | inf (neg : Bool)
  | fin (neg : Bool) (m : Nat) (e : Int)
  deriving DecidableEq, Repr

/-- The shape of an IEEE 754 format (R75): exponent bits, fraction bits. The bias is 2^(ebits-1) - 1. -/
structure FFmt where
  ebits : Nat
  frac : Nat
  deriving DecidableEq, Repr

namespace FFmt

def f8e4 : FFmt := ⟨4, 3⟩
def f8e5 : FFmt := ⟨5, 2⟩
def fp16 : FFmt := ⟨5, 10⟩
def bf16 : FFmt := ⟨8, 7⟩
def fp32 : FFmt := ⟨8, 23⟩
/-- The array's internal partial format (R48). -/
def f20 : FFmt := ⟨8, 11⟩

def bias (f : FFmt) : Nat := 2 ^ (f.ebits - 1) - 1
/-- Exponent of the last place of subnormals. -/
def qmin (f : FFmt) : Int := 1 - (f.bias : Int) - (f.frac : Int)
/-- Bits of +infinity. -/
def infBits (f : FFmt) : Nat := (2 ^ f.ebits - 1) * 2 ^ f.frac
/-- Bits of the default NaN (R75, R82). -/
def nanBits (f : FFmt) : Nat := f.infBits + 2 ^ (f.frac - 1)
def signBit (f : FFmt) : Nat := 2 ^ (f.ebits + f.frac)
/-- The bits of a value with its sign. -/
def withSign (f : FFmt) (neg : Bool) (b : Nat) : Nat := if neg then f.signBit + b else b

end FFmt

/-- The value of a magnitude pattern with `frac` fraction bits and last subnormal place `qmin`. -/
def magNum (neg : Bool) (frac : Nat) (qmin : Int) (mag : Nat) : Num :=
  let ex := mag / 2 ^ frac
  if ex = 0 then .fin neg mag qmin
  else .fin neg (2 ^ frac + mag % 2 ^ frac) (qmin + (ex : Int) - 1)

/-- The value of a bit pattern (R75). -/
def FFmt.decode (f : FFmt) (b : Nat) : Num :=
  let neg := (b / f.signBit) % 2 == 1
  let mag := b % f.signBit
  if mag < f.infBits then magNum neg f.frac f.qmin mag
  else if mag = f.infBits then .inf neg else .nan

/-- m·2^sh rounded to an integer, to nearest with ties to even (R80). -/
def rneShift (m : Nat) (sh : Int) : Nat :=
  match sh with
  | .ofNat k => m * 2 ^ k
  | .negSucc k =>
    let d := 2 ^ (k + 1)
    let q := m / d
    let r := m % d
    if d < 2 * r then q + 1 else if 2 * r = d then q + q % 2 else q

/-- The rounded magnitude pattern of m·2^e with the exponent unbounded above (R80, R81). -/
def roundMag (frac : Nat) (qmin : Int) (m : Nat) (e : Int) : Nat :=
  if m = 0 then 0 else
    let q := max qmin ((m.log2 : Int) + e - (frac : Int))
    (q - qmin).toNat * 2 ^ frac + rneShift m (e - q)

/-- The one rounding of an operation into a format: to nearest, ties to even, overflow to the infinity of the sign,
NaN to the default NaN (R80–R82). -/
def FFmt.round (f : FFmt) : Num → Nat
  | .nan => f.nanBits
  | .inf neg => f.withSign neg f.infBits
  | .fin neg m e => f.withSign neg (min f.infBits (roundMag f.frac f.qmin m e))

namespace Num

/-- Whether a value is finite. -/
def isFinite : Num → Bool
  | .fin .. => true
  | _ => false

def isNan : Num → Bool
  | .nan => true
  | _ => false

def neg : Num → Num
  | .nan => .nan
  | .inf n => .inf !n
  | .fin n m e => .fin (!n) m e

def abs : Num → Num
  | .nan => .nan
  | .inf _ => .inf false
  | .fin _ m e => .fin false m e

/-- The signed integer of a finite value at exponent `q` no larger than its own. -/
def intAt (neg : Bool) (m : Nat) (e q : Int) : Int :=
  let v : Int := (m * 2 ^ (e - q).toNat : Nat)
  if neg then -v else v

/-- The exact sum (R82, R83). -/
def add : Num → Num → Num
  | .nan, _ => .nan
  | _, .nan => .nan
  | .inf a, .inf b => if a = b then .inf a else .nan
  | .inf a, .fin .. => .inf a
  | .fin .., .inf b => .inf b
  | .fin na ma ea, .fin nb mb eb =>
    let q := min ea eb
    let s := intAt na ma ea q + intAt nb mb eb q
    if s = 0 then .fin (na && nb) 0 q else .fin (decide (s < 0)) s.natAbs q

def sub (a b : Num) : Num := add a (neg b)

/-- The exact product (R82, R83). -/
def mul : Num → Num → Num
  | .nan, _ => .nan
  | _, .nan => .nan
  | .inf a, .inf b => .inf (a != b)
  | .inf a, .fin nb mb _ => if mb = 0 then .nan else .inf (a != nb)
  | .fin na ma _, .inf b => if ma = 0 then .nan else .inf (na != b)
  | .fin na ma ea, .fin nb mb eb => .fin (na != nb) (ma * mb) (ea + eb)

/-- The quotient, exact or with a sticky last bit far below any rounding place. -/
def div : Num → Num → Num
  | .nan, _ => .nan
  | _, .nan => .nan
  | .inf _, .inf _ => .nan
  | .inf a, .fin nb _ _ => .inf (a != nb)
  | .fin na _ _, .inf b => .fin (na != b) 0 0
  | .fin na ma ea, .fin nb mb eb =>
    if mb = 0 then (if ma = 0 then .nan else .inf (na != nb))
    else
      let k : Nat := 96
      let n := ma * 2 ^ k
      let st := if n % mb = 0 then 0 else 1
      .fin (na != nb) (2 * (n / mb) + st) (ea - eb - (k : Int) - 1)

/-- Integer square root, by bits from the top: fuel is the number of result bits. -/
def isqrtGo : Nat → Nat → Nat → Nat
  | 0, _, r => r
  | k + 1, n, r => let c := r + 2 ^ k; isqrtGo k n (if c * c ≤ n then c else r)

def isqrt (n : Nat) : Nat := isqrtGo (n.log2 / 2 + 1) n 0

/-- The square root, exact or with a sticky last bit far below any rounding place. -/
def sqrt : Num → Num
  | .nan => .nan
  | .inf neg => if neg then .nan else .inf false
  | .fin neg m e =>
    if m = 0 then .fin neg 0 e
    else if neg then .nan
    else
      let odd := (e % 2).toNat
      let n := m * 2 ^ (odd + 96)
      let r := isqrt n
      let st := if r * r = n then 0 else 1
      .fin false (2 * r + st) ((e - (odd : Int) - 96) / 2 - 1)

/-- 1/√a (R135 RSQ: IEEE 754-2019 rSqrt): rSqrt(±0) is the infinity of the sign. -/
def rsqrt : Num → Num
  | .nan => .nan
  | .inf neg => if neg then .nan else .fin false 0 0
  | .fin neg m e =>
    if m = 0 then .inf neg
    else if neg then .nan
    else
      -- 1/(m·2^e) = 2^(-e)/m, with e made even: m·2^odd · 2^(e-odd)
      let odd := (e % 2).toNat
      let mm := m * 2 ^ odd
      let k := 2 * (mm.log2 + 64)
      let q := 2 ^ k / mm
      let r := isqrt q
      let st := if r * r * mm = 2 ^ k then 0 else 1
      .fin false (2 * r + st) (-((e - (odd : Int)) / 2) - ((k / 2 : Nat) : Int) - 1)

/-- a < b under IEEE 754 (R84): false with a NaN. -/
def lt (a b : Num) : Bool :=
  match a, b with
  | .nan, _ => false
  | _, .nan => false
  | .inf n, .inf m => n && !m
  | .inf n, .fin .. => n
  | .fin .., .inf m => !m
  | .fin na ma ea, .fin nb mb eb =>
    let q := min ea eb
    decide (intAt na ma ea q < intAt nb mb eb q)

/-- a = b under IEEE 754 (R84): −0 equals +0, a NaN equals nothing. -/
def eqv (a b : Num) : Bool :=
  match a, b with
  | .nan, _ => false
  | _, .nan => false
  | .inf n, .inf m => n == m
  | .fin na ma ea, .fin nb mb eb =>
    let q := min ea eb
    decide (intAt na ma ea q = intAt nb mb eb q)
  | _, _ => false

/-- Whether a value is a zero of either sign. -/
def isZero : Num → Bool
  | .fin _ m _ => m == 0
  | _ => false

def signOf : Num → Bool
  | .nan => false
  | .inf n => n
  | .fin n _ _ => n

/-- Total order used by maximum and minimum (R92): −0 below +0. -/
def ltTot (a b : Num) : Bool := a.lt b || (a.isZero && b.isZero && a.signOf && !b.signOf)

/-- ⌊log₂⌋ of a finite non-zero magnitude. -/
def log2 : Num → Int
  | .fin _ m e => (m.log2 : Int) + e
  | _ => 0

/-- Scaling by a power of two. -/
def scale (k : Int) : Num → Num
  | .fin n m e => .fin n m (e + k)
  | x => x

/-- A signed integer as a value. -/
def ofInt (i : Int) : Num := .fin (decide (i < 0)) i.natAbs 0

/-- The value rounded to an integer, ties to even. -/
def toIntRne : Num → Int
  | .fin n m e => let r := rneShift m e; if n then -(r : Int) else (r : Int)
  | _ => 0

end Num

/-- A sum of two fp32 patterns, rounded to fp32. -/
def f32Add (a b : Nat) : Nat := FFmt.fp32.round (.add (FFmt.fp32.decode a) (FFmt.fp32.decode b))
def f32Sub (a b : Nat) : Nat := FFmt.fp32.round (.sub (FFmt.fp32.decode a) (FFmt.fp32.decode b))
def f32Mul (a b : Nat) : Nat := FFmt.fp32.round (.mul (FFmt.fp32.decode a) (FFmt.fp32.decode b))
/-- Fused multiply-add, rounded once (R85). -/
def f32Fma (a b c : Nat) : Nat :=
  FFmt.fp32.round (.add (.mul (FFmt.fp32.decode a) (FFmt.fp32.decode b)) (FFmt.fp32.decode c))

/-- Maximum of R92 over fp32 patterns; NaN gives the default NaN. -/
def f32Max (a b : Nat) : Nat :=
  let x := FFmt.fp32.decode a
  let y := FFmt.fp32.decode b
  if x.isNan || y.isNan then FFmt.fp32.nanBits else if x.ltTot y then b else a
/-- Minimum of R92. -/
def f32Min (a b : Nat) : Nat :=
  let x := FFmt.fp32.decode a
  let y := FFmt.fp32.decode b
  if x.isNan || y.isNan then FFmt.fp32.nanBits else if y.ltTot x then b else a

/-- Rank key of R93 as an integer: equal keys are equal values of the key, larger is higher. -/
def rankKey (magnitude : Bool) (x : Num) : Int :=
  -- fp32 patterns order finite magnitudes; two sentinel places above them hold infinity and NaN
  match x with
  | .nan => 2 ^ 33
  | .inf n => if n && !magnitude then -(2 ^ 32) else 2 ^ 32
  | .fin n m e =>
    let k : Int := (roundMag 23 (-149) m e : Nat)
    if n && !magnitude then -k else k

/-! The functions of R136, on fp32 patterns. -/

/-- Horner step of R136: p = fma(p, f, c) over the coefficients given. -/
def hornerF32 (f : Nat) : List Nat → Nat → Nat
  | [], p => p
  | c :: cs, p => hornerF32 f cs (f32Fma p f c)

/-- The value of exp2 before its last rounding: p·2^n of R136. -/
def exp2Num (x : Nat) : Num :=
  if (FFmt.fp32.decode x).isNan then .nan else
    let lo := FFmt.fp32.round (Num.ofInt (-160))
    let hi := FFmt.fp32.round (Num.ofInt 160)
    let x1 := f32Min (f32Max x lo) hi
    let n := (FFmt.fp32.decode x1).toIntRne
    let f := FFmt.fp32.round (.sub (FFmt.fp32.decode x1) (Num.ofInt n))
    let p := hornerF32 f [0x3AAEC3FF, 0x3C1D955B, 0x3D635847, 0x3E75FDF0, 0x3F317218, 0x3F800000] 0x39218489
    (FFmt.fp32.decode p).scale n

def f32Exp2 (x : Nat) : Nat := FFmt.fp32.round (exp2Num x)
/-- exp(x) = exp2(x × L) (R136). -/
def f32Exp (x : Nat) : Nat := f32Exp2 (f32Mul x 0x3FB8AA3B)
def f32Rcp (x : Nat) : Nat := FFmt.fp32.round (.div (Num.ofInt 1) (FFmt.fp32.decode x))
def f32Neg (x : Nat) : Nat := FFmt.fp32.round (FFmt.fp32.decode x).neg
/-- sigm(x) = RCP(1 + exp(−x)) (R136). -/
def f32Sigm (x : Nat) : Nat := f32Rcp (f32Add 0x3F800000 (f32Exp (f32Neg x)))
/-- tanh(x) = fma(2, sigm(2x), −1) (R136). -/
def f32Tanh (x : Nat) : Nat := f32Fma 0x40000000 (f32Sigm (f32Mul 0x40000000 x)) 0xBF800000

/-! Format codes (R78) and conversions (R86–R91). -/

/-- Bits of one element of a format code. -/
def fmtBits (c : Nat) : Nat :=
  match c with
  | 0x2 => 16 | 0x3 => 16 | 0x4 => 32 | 0xF => 32
  | 0x5 => 4 | 0xC => 4 | 0xA => 6 | 0xB => 6
  | _ => 8

/-- Formats with a scale or exponent byte per 32-element block: b4 and the MX codes. -/
def fmtBlock (c : Nat) : Bool := c == 5 || (8 ≤ c && c ≤ 0xD)

/-- The IEEE shape behind a code that has one; OFP8 E5M2 is f8e5 in every bit (R79). -/
def fmtIeee (c : Nat) : Option FFmt :=
  match c with
  | 0 => some .f8e4 | 1 => some .f8e5 | 2 => some .bf16 | 3 => some .fp16 | 4 => some .fp32 | 7 => some .f8e5
  | _ => none

/-- The seven formats whose every pair converts (R87): codes 0–4, 6 and 7. -/
def fmtFree (c : Nat) : Bool := c ≤ 4 || c == 6 || c == 7

/-- A pair that names no conversion (R87): equal formats, or OFP8 E5M2 beside f8e5. -/
def fmtPlain (s d : Nat) : Bool := s == d || (s == 1 && d == 7) || (s == 7 && d == 1)

/-- A supported conversion pair or a plain move (R87). -/
def convPairOk (s d : Nat) : Bool :=
  s == d || (fmtFree s && fmtFree d)
    || (fmtBlock s && (d == 2 || d == 4)) || (fmtBlock d && (s == 2 || s == 4))

/-- Two's complement of `w` bits. -/
def sext (w b : Nat) : Int := if b < 2 ^ (w - 1) then (b : Int) else (b : Int) - 2 ^ w

/-- Value of an OFP8 E4M3 pattern (R79). -/
def e4m3Num (b : Nat) : Num :=
  if b % 128 = 127 then .nan else magNum (b / 128 == 1) 3 (-9) (b % 128)

/-- Value of one element pattern before its block scale (R76, R79). -/
def elemNum (c b : Nat) : Num :=
  match c with
  | 0x5 => Num.ofInt (sext 4 b)
  | 0x6 => e4m3Num b
  | 0x8 => e4m3Num b
  | 0x9 => FFmt.f8e5.decode b
  | 0xA => magNum (b / 32 == 1) 3 (-3) (b % 32)
  | 0xB => magNum (b / 32 == 1) 2 (-4) (b % 32)
  | 0xC => magNum (b / 8 == 1) 1 (-1) (b % 8)
  | 0xD => (Num.ofInt (sext 8 b)).scale (-6)
  | 0xE => Num.ofInt (sext 8 b)
  | 0xF => Num.ofInt (sext 32 b)
  | _ =>
    match fmtIeee c with
    | some f => f.decode b
    | none => .nan

/-- Value of an element of a format, with its block's byte (ignored where the format has none): R76, R89. -/
def fmtNum (c : Nat) (scale b : Nat) : Num :=
  if fmtBlock c then
    if scale = 255 then .nan else (elemNum c b).scale ((scale : Int) - 127)
  else elemNum c b

/-- Rounding into a format that carries no block byte: codes 0–4, 6, 7 (R80, R81, R88). -/
def fmtRound (c : Nat) (x : Num) : Nat :=
  if c = 6 then
    match x with
    | .fin n m e =>
      let r := roundMag 3 (-9) m e
      if 0x7F ≤ r then 0x7F else if n then 128 + r else r
    | _ => 0x7F
  else
    match fmtIeee c with
    | some f => f.round x
    | none => 0

/-- emax of an MX element type (R79). -/
def mxEmax (c : Nat) : Int :=
  match c with
  | 0x8 => 8 | 0x9 => 15 | 0xA => 2 | 0xB => 4 | 0xC => 2 | _ => 0

/-- One MX element: the quotient rounded to the element grid, saturated (R90 steps 4 and 5). -/
def mxElem (c : Nat) (x : Num) : Nat :=
  let go (frac : Nat) (qmin : Int) (top sign : Nat) : Nat :=
    match x with
    | .fin n m e => (if n then sign else 0) + min top (roundMag frac qmin m e)
    | _ => 0
  match c with
  | 0x8 => go 3 (-9) 0x7E 0x80
  | 0x9 => go 2 (-16) 0x7B 0x80
  | 0xA => go 3 (-3) 0x1F 0x20
  | 0xB => go 2 (-4) 0x1F 0x20
  | 0xC => go 1 (-1) 0x7 0x8
  | _ => let i := max (-127) (min 127 (x.scale 6).toIntRne); (i % 256).toNat

/-- Largest ⌊log₂⌋ of the non-zero values of a block, none when all are zero. -/
def amaxLog (xs : List Num) : Option Int :=
  xs.foldl (fun o x => if x.isZero then o else
    match o with
    | none => some x.log2
    | some l => some (max l x.log2)) none

/-- A b4 or MX block stored from exact values: block byte and elements (R90, R91). -/
def blockStore (c : Nat) (xs : List Num) : Nat × List Nat :=
  if xs.any (fun x => !x.isFinite) then (255, xs.map fun _ => 0)
  else if c = 5 then
    match amaxLog xs with
    | none => (0, xs.map fun _ => 0)
    | some l =>
      let e := max 0 (min 254 (l + 125))
      (e.toNat, xs.map fun x => ((max (-8) (min 7 (x.scale (127 - e)).toIntRne)) % 16).toNat)
  else
    let xx := match amaxLog xs with
      | none => -127
      | some l => max (-127) (min 127 (l - mxEmax c))
    ((xx + 127).toNat, xs.map fun x => mxElem c (x.scale (-xx)))

/-- Whether a stored element is an infinity (some true: −∞), a NaN, or finite, for the counters of R94. -/
def fmtSpecial (c b : Nat) : Num := if fmtBlock c then .fin false 0 0 else elemNum c b

/-- The elements of one block-aligned run converted: at most 32 source patterns with their block byte, to patterns and
a block byte (R86–R91). A plain move copies the bits. -/
def convRun (s d : Nat) (scale : Nat) (es : List Nat) : Nat × List Nat :=
  if fmtPlain s d then (scale, es)
  else if fmtBlock d then
    let r := blockStore d (es.map (fmtNum s scale) ++ List.replicate (32 - es.length) (.fin false 0 0))
    (r.1, r.2.take es.length)
  else (0, es.map fun b => fmtRound d (fmtNum s scale b))

/-- Elements `i < n` of a little-endian bit string. -/
def unpackBits (w n N : Nat) : List Nat := (List.range n).map fun i => N / 2 ^ (w * i) % 2 ^ w

/-- A little-endian bit string of elements. -/
def packBits (w : Nat) : List Nat → Nat
  | [] => 0
  | e :: es => e % 2 ^ w + 2 ^ w * packBits w es

/-- Sectors as one bit string. -/
def sectorsBits : List Sector → Nat
  | [] => 0
  | s :: ss => s.toNat + 2 ^ 256 * sectorsBits ss

/-- The first `n` sectors of a bit string. -/
def bitsSectors (n N : Nat) : List Sector := (List.range n).map fun i => BitVec.ofNat 256 (N / 2 ^ (256 * i))

end Sys2Proof.Machine
end

