-- ==== Sys2Proof/Config.lean ====
section
/-! DEFINITION. What stands beside the state: the shape of a register's description (R7, R8), the algorithms the
spec names and does not lay down, and the free values. -/

namespace Sys2Proof

namespace Machine

/-- The access codes of register fields (R8). -/
inductive Access where
  | ro | rw | w1c | wo | rws | rwh | rwc
  deriving DecidableEq, Repr

/-- What a register's static and held fields are static with respect to: the "block" of R325. -/
inductive Owner where
  /-- A unit of one core: runs while that core has a stream in state 1. -/
  | coreUnit
  /-- A core-window register static with respect to the partition that owns the core (R199, R200). -/
  | corePart
  /-- A shared pennant record: the partition its PEN_CFG names. -/
  | penRecord
  /-- A pennant translation entry: the partition of its context. -/
  | xlt
  /-- A landing entry: the partition that bound it (R199). -/
  | land
  /-- A hoist record: the partition its HST_CFG names. -/
  | hoistRecord
  /-- A hoist translation entry: the partition of its context. -/
  | hxlt
  /-- An interleave set: the partition its CTX names, and its outstanding requests (R325). -/
  | nearSet
  /-- A near-memory controller. -/
  | near
  /-- An aperture segment: the partition its CTX names. -/
  | rchSeg
  /-- A reach port. -/
  | reach
  /-- A Nirlo port group: the partition that owns its ports (R254). -/
  | nirlo
  /-- The step controller: static fields against the partition, held fields against the step in progress. -/
  | step
  /-- The image block's static fields: the partition the load group targets. -/
  | image
  /-- CLK_EN_ISL: each bit's own island (R339). -/
  | clkEnIsl
  /-- CLK_EN_UNC: each bit's own block (R339). -/
  | clkEnUnc
  /-- HOST_DMA_MAP: each channel (R409). -/
  | dmaMap
  /-- A block that always runs (R325). -/
  | always
  deriving DecidableEq, Repr

/-- The boundary at which a held field takes effect (R326). -/
inductive Boundary where
  | none | patrolRow | window | step | nirloStep | pattern | dmaIdle
  deriving DecidableEq, Repr

/-- The place of a field within its register: lowest bit and width. -/
structure FieldPos where
  lo : Nat
  width : Nat
  deriving DecidableEq, Repr

/-- One field of a register: its place, its access code and its reset value. -/
structure FieldSpec where
  lo : Nat
  width : Nat
  access : Access
  reset : Nat
  deriving DecidableEq, Repr

/-- One register, or a family of like registers at regular strides. -/
structure RegSpec where
  name : String
  base : Nat
  dims : List (Nat × Nat)
  bytes : Nat
  owner : Owner
  boundary : Boundary
  block : Nat
  fields : List FieldSpec
  deriving DecidableEq, Repr

end Machine

namespace Config

/-- SHA-512, which the spec names (R318, R377) and takes from outside: a byte string to its 64-byte value.
DEDUCED: log entry 10. -/
opaque sha512 : List Byte → Hash

/-- CRC-32 over a flit's bytes (R237): the spec names it and lays down no polynomial. DEDUCED: log entry 10. -/
opaque crc32 : List Byte → Word32

/-- The check word of retained training values (R228): unit, values, identification, temperature. The spec lays down no form.
DEDUCED: log entry 10. -/
opaque trainCheck : Nat → Word → Word → Nat → Word32

/-- Ed25519 verification (R318, R371, R377): public key, message, signature. DEDUCED: log entry 10. -/
opaque ed25519Verify : BitVec 256 → List Byte → Hash → Bool

/-- Ed25519 signing by the private key the enclave holds (R383): private key, message. DEDUCED: log entry 10. -/
opaque ed25519Sign : BitVec 256 → List Byte → Hash

/-- The public key of an Ed25519 private key (R376, R377). DEDUCED: log entry 10. -/
opaque ed25519Public : BitVec 256 → BitVec 256

/-- The Garsor public key whose SHA-512 a fuse hash is (R377): neither firmware nor a burgee carries it.
DEDUCED: log entry 10. -/
opaque fusedKey : Hash → BitVec 256

/-- The n-th free 256-bit value: what the enclave's random source delivers (R376, R381). No value is chosen.
DESIGN CHOICE: log entry 9. -/
opaque freeWord : Nat → BitVec 256

/-- The n-th free natural number: a progress count the spec leaves open (bytes moved by an aborted DMA, R406).
DESIGN CHOICE: log entry 9. -/
opaque freeNat : Nat → Nat

/-- How many groups a top manager coordinates (R255: up to 16); no register of the part holds it.
DEDUCED: log entry 11. -/
opaque groupCount : Nat

/-- Whether a top manager stands above this group's manager (R255, R256); no register of the part holds it.
DEDUCED: log entry 11. -/
opaque topManaged : Bool

end Config

end Sys2Proof
end

