-- ==== Sys2Proof/Machine/RegTable.lean ====
section
/-! DEFINITION. The registers of the part, register by register as the chapters of the spec list them: their device
addresses (R11, R12 and each chapter's offsets), their fields, access codes (R8) and reset values. -/

namespace Sys2Proof.Machine

namespace Reg

/-- array configuration (R73). -/
def ARRAY_CFG (i0 : Nat) : Nat := 0x30000003000 + i0 * 0x10000
/-- array status (R73). -/
def ARRAY_STAT (i0 : Nat) : Nat := 0x30000003004 + i0 * 0x10000
/-- active cycles (R73). -/
def ARRAY_ACT (i0 : Nat) : Nat := 0x30000003008 + i0 * 0x10000
/-- useful MACs (R73). -/
def ARRAY_USEFUL (i0 : Nat) : Nat := 0x30000003010 + i0 * 0x10000
/-- operand-feed stalls (R73). -/
def ARRAY_STALL_FEED (i0 : Nat) : Nat := 0x30000003018 + i0 * 0x10000
/-- window-load stalls (R73). -/
def ARRAY_STALL_WIN (i0 : Nat) : Nat := 0x3000000301c + i0 * 0x10000
/-- interlock and write-out stalls (R73). -/
def ARRAY_STALL_ACC (i0 : Nat) : Nat := 0x30000003020 + i0 * 0x10000
/-- accumulator protection (R73). -/
def ACC_ECC (i0 : Nat) : Nat := 0x30000003024 + i0 * 0x10000
/-- location of the uncorrectable word (R73). -/
def ACC_UE_LOC (i0 : Nat) : Nat := 0x30000003028 + i0 * 0x10000
/-- array control (R73). -/
def ARRAY_CTL (i0 : Nat) : Nat := 0x3000000302c + i0 * 0x10000
/-- +infinity written (R95). -/
def NF_POS_INF (i0 : Nat) : Nat := 0x30000003100 + i0 * 0x10000
/-- −infinity written (R95). -/
def NF_NEG_INF (i0 : Nat) : Nat := 0x30000003104 + i0 * 0x10000
/-- NaN written (R95). -/
def NF_NAN (i0 : Nat) : Nat := 0x30000003108 + i0 * 0x10000
/-- first non-finite event (R95). -/
def NF_FIRST (i0 : Nat) : Nat := 0x3000000310c + i0 * 0x10000
/-- non-finite counter control (R95). -/
def NF_CTL (i0 : Nat) : Nat := 0x30000003110 + i0 * 0x10000
/-- non-zeros dropped by capped compression (R120). -/
def CMPR_DROP (i0 : Nat) : Nat := 0x30000003200 + i0 * 0x10000
/-- exact-mode strips capped (R120). -/
def CMPR_EXACT_CAP (i0 : Nat) : Nat := 0x30000003204 + i0 * 0x10000
/-- entries swapped (R120). -/
def PRR_SWAPS (i0 : Nat) : Nat := 0x30000003208 + i0 * 0x10000
/-- strips replaced (R120). -/
def PRR_FLIPS (i0 : Nat) : Nat := 0x3000000320c + i0 * 0x10000
/-- stale candidates skipped (R120). -/
def PRR_STALE (i0 : Nat) : Nat := 0x30000003210 + i0 * 0x10000
/-- NaN candidates (R120). -/
def PRR_NAN_CAND (i0 : Nat) : Nat := 0x30000003214 + i0 * 0x10000
/-- skipped rows (R120). -/
def PRED_SKIP (i0 : Nat) : Nat := 0x30000003218 + i0 * 0x10000
/-- audited rows (R120). -/
def PRED_AUDIT (i0 : Nat) : Nat := 0x30000003220 + i0 * 0x10000
/-- audited misses (R120). -/
def PRED_MISS (i0 : Nat) : Nat := 0x30000003228 + i0 * 0x10000
/-- band rows (R120). -/
def PRED_BAND (i0 : Nat) : Nat := 0x3000000322c + i0 * 0x10000
/-- active rows not computed (R120). -/
def PRED_OVER (i0 : Nat) : Nat := 0x30000003230 + i0 * 0x10000
/-- prediction state (R120). -/
def PRED_STAT (i0 : Nat) : Nat := 0x30000003234 + i0 * 0x10000
/-- counter control (R120). -/
def MASK_CTL (i0 : Nat) : Nat := 0x30000003238 + i0 * 0x10000
/-- core control (R150). -/
def CORE_CTL (i0 : Nat) : Nat := 0x30000000000 + i0 * 0x10000
/-- queue occupancy (R150). -/
def QUEUE_STAT (i0 : Nat) : Nat := 0x30000000008 + i0 * 0x10000
/-- stream control (R150). -/
def STRM_CTL (i0 i1 : Nat) : Nat := 0x30000000100 + i0 * 0x10000 + i1 * 0x100
/-- stream status (R150). -/
def STRM_STAT (i0 i1 : Nat) : Nat := 0x30000000104 + i0 * 0x10000 + i1 * 0x100
/-- error record (R150). -/
def STRM_ERR (i0 i1 : Nat) : Nat := 0x30000000108 + i0 * 0x10000 + i1 * 0x100
/-- error detail (R150). -/
def STRM_ERR_DETAIL (i0 i1 : Nat) : Nat := 0x30000000110 + i0 * 0x10000 + i1 * 0x100
/-- counters (R150). -/
def CNT (i0 i1 i2 : Nat) : Nat := 0x30000000120 + i0 * 0x10000 + i1 * 0x100 + i2 * 0x4
/-- comparator references (R150). -/
def COMP_REF (i0 i1 i2 : Nat) : Nat := 0x30000000140 + i0 * 0x10000 + i1 * 0x100 + i2 * 0x4
/-- comparator configuration (R150). -/
def COMP_CFG (i0 i1 : Nat) : Nat := 0x30000000150 + i0 * 0x10000 + i1 * 0x100
/-- loader source (R150). -/
def IMEM_LD_SRC (i0 i1 : Nat) : Nat := 0x30000000160 + i0 * 0x10000 + i1 * 0x100
/-- loader control (R150). -/
def IMEM_LD_CTL (i0 i1 : Nat) : Nat := 0x30000000168 + i0 * 0x10000 + i1 * 0x100
/-- loader status (R150). -/
def IMEM_LD_STAT (i0 i1 : Nat) : Nat := 0x3000000016c + i0 * 0x10000 + i1 * 0x100
/-- scratchpad configuration (R182). -/
def SP_CFG (i0 : Nat) : Nat := 0x30000003300 + i0 * 0x10000
/-- scratchpad protection (R182). -/
def SP_ECC (i0 : Nat) : Nat := 0x30000003304 + i0 * 0x10000
/-- location of the uncorrectable word (R182). -/
def SP_UE_LOC (i0 : Nat) : Nat := 0x30000003308 + i0 * 0x10000
/-- bank-conflict cycles (R182). -/
def SP_CONF (i0 i1 : Nat) : Nat := 0x30000003310 + i0 * 0x10000 + i1 * 0x4
/-- patrol progress (R182). -/
def SP_PATROL (i0 : Nat) : Nat := 0x30000003324 + i0 * 0x10000
/-- scrub status (R182). -/
def SP_SCRUB (i0 : Nat) : Nat := 0x30000003328 + i0 * 0x10000
/-- scratchpad counter control (R182). -/
def SP_CTL (i0 : Nat) : Nat := 0x3000000332c + i0 * 0x10000
/-- shared pennant value (R199). -/
def PEN_VAL (i0 i1 : Nat) : Nat := 0x38000000000 + i0 * 0x80000 + i1 * 0x40
/-- shared pennant configuration (R199). -/
def PEN_CFG (i0 i1 : Nat) : Nat := 0x38000000008 + i0 * 0x80000 + i1 * 0x40
/-- waiter count (R199). -/
def PEN_WAIT (i0 i1 : Nat) : Nat := 0x3800000000c + i0 * 0x80000 + i1 * 0x40
/-- first waiters (R199). -/
def PEN_WAITER (i0 i1 i2 : Nat) : Nat := 0x38000000010 + i0 * 0x80000 + i1 * 0x40 + i2 * 0x4
/-- last signaller (R199). -/
def PEN_LAST (i0 i1 : Nat) : Nat := 0x38000000030 + i0 * 0x80000 + i1 * 0x40
/-- tick of last signal (R199). -/
def PEN_TICK (i0 i1 : Nat) : Nat := 0x38000000038 + i0 * 0x80000 + i1 * 0x40
/-- pennant translation entry (R199). -/
def PEN_XLT (i0 i1 : Nat) : Nat := 0x38000200000 + i0 * 0x4000 + i1 * 0x4
/-- landing entry (R199). -/
def LAND (i0 i1 : Nat) : Nat := 0x38000220000 + i0 * 0x4000 + i1 * 0x8
/-- pennant error record (R199). -/
def PEN_ERR : Nat := 0x38000300000
/-- pending-table occupancy (R199). -/
def PEN_PEND : Nat := 0x38000300008
/-- host signal (R199). -/
def PEN_HOST_SIG : Nat := 0x38000300010
/-- local pennant value (R200). -/
def LPEN_VAL (i0 i1 : Nat) : Nat := 0x30000003400 + i0 * 0x10000 + i1 * 0x10
/-- local pennant state (R200). -/
def LPEN_STAT (i0 i1 : Nat) : Nat := 0x30000003408 + i0 * 0x10000 + i1 * 0x10
/-- tick of last local signal (R200). -/
def LPEN_TICK (i0 i1 : Nat) : Nat := 0x3000000340c + i0 * 0x10000 + i1 * 0x10
/-- sequence entry (R200). -/
def SEQ (i0 i1 : Nat) : Nat := 0x30000003800 + i0 * 0x10000 + i1 * 0x8
/-- hoist binding entry (R200). -/
def HBIND (i0 i1 i2 : Nat) : Nat := 0x30000003880 + i0 * 0x10000 + i1 * 0x40 + i2 * 0x8
/-- hoist configuration (R201). -/
def HST_CFG (i0 i1 : Nat) : Nat := 0x38000400000 + i0 * 0x2000 + i1 * 0x20
/-- hoist configuration (R201). -/
def XH_CFG (i0 : Nat) : Nat := 0x38000420000 + i0 * 0x20
/-- rounds released (R201). -/
def HST_RELEASED (i0 i1 : Nat) : Nat := 0x38000400004 + i0 * 0x2000 + i1 * 0x20
/-- rounds released (R201). -/
def XH_RELEASED (i0 : Nat) : Nat := 0x38000420004 + i0 * 0x20
/-- slot state (R201). -/
def HST_SLOT (i0 i1 i2 : Nat) : Nat := 0x38000400008 + i0 * 0x2000 + i1 * 0x20 + i2 * 0x4
/-- slot state (R201). -/
def XH_SLOT (i0 i1 : Nat) : Nat := 0x38000420008 + i0 * 0x20 + i1 * 0x4
/-- root slot state (R201). -/
def XH_ROOT (i0 i1 : Nat) : Nat := 0x38000420010 + i0 * 0x20 + i1 * 0x4
/-- root device count (R201). -/
def XH_DEVS (i0 : Nat) : Nat := 0x38000420018 + i0 * 0x20
/-- hoist translation entry (R201). -/
def HST_XLT (i0 i1 : Nat) : Nat := 0x38000410000 + i0 * 0x400 + i1 * 0x4
/-- lateness thresholds (R215). -/
def MESH_CFG : Nat := 0x38004000000
/-- mesh error record (R215). -/
def MESH_ERR : Nat := 0x38004000008
/-- late hops (R215). -/
def MR_LATE (i0 : Nat) : Nat := 0x30000003900 + i0 * 0x10000
/-- router counter control (R215). -/
def MR_CTL (i0 : Nat) : Nat := 0x30000003904 + i0 * 0x10000
/-- next-hop table (R215). -/
def MR_NEXT (i0 i1 : Nat) : Nat := 0x30000003a00 + i0 * 0x10000 + i1 * 0x4
/-- reduction entry (R215). -/
def MR_RTAG (i0 i1 : Nat) : Nat := 0x30000004000 + i0 * 0x10000 + i1 * 0x8
/-- controller status (R234). -/
def NEAR_STAT (i0 : Nat) : Nat := 0x38001000000 + i0 * 0x100000
/-- controller protection (R234). -/
def NEAR_ECC (i0 : Nat) : Nat := 0x38001000004 + i0 * 0x100000
/-- uncorrectable sector (R234). -/
def NEAR_UE_ADDR (i0 : Nat) : Nat := 0x38001000008 + i0 * 0x100000
/-- on-die corrections (R234). -/
def NEAR_DIE_CORR (i0 : Nat) : Nat := 0x38001000010 + i0 * 0x100000
/-- capped windows (R234). -/
def NEAR_LCR_CAPPED (i0 : Nat) : Nat := 0x38001000014 + i0 * 0x100000
/-- patrol progress (R234). -/
def NEAR_PATROL (i0 : Nat) : Nat := 0x38001000018 + i0 * 0x100000
/-- controller control (R234). -/
def NEAR_CTL (i0 : Nat) : Nat := 0x3800100001c + i0 * 0x100000
/-- margining control (R234). -/
def NEAR_MRG_CTL (i0 : Nat) : Nat := 0x38001000100 + i0 * 0x100000
/-- margining status (R234). -/
def NEAR_MRG_STAT (i0 : Nat) : Nat := 0x38001000104 + i0 * 0x100000
/-- interleave set (R234). -/
def NEAR_SET_CFG (i0 : Nat) : Nat := 0x38001080000 + i0 * 0x10
/-- set scrub (R234). -/
def NEAR_SCRUB (i0 : Nat) : Nat := 0x38001080008 + i0 * 0x10
/-- channel list (R234). -/
def NEAR_SET_LIST (i0 i1 : Nat) : Nat := 0x38001081000 + i0 * 0x100 + i1 * 0x4
/-- reach port status (R234). -/
def RCH_STAT (i0 : Nat) : Nat := 0x38002000000 + i0 * 0x100000
/-- reach protection (R234). -/
def RCH_ECC (i0 : Nat) : Nat := 0x38002000004 + i0 * 0x100000
/-- failing address (R234). -/
def RCH_UE_ADDR (i0 : Nat) : Nat := 0x38002000008 + i0 * 0x100000
/-- partition weights (R234). -/
def RCH_ARB (i0 : Nat) : Nat := 0x38002000010 + i0 * 0x100000
/-- capped windows (R234). -/
def RCH_LCR_CAPPED (i0 : Nat) : Nat := 0x38002000014 + i0 * 0x100000
/-- port counter control (R234). -/
def RCH_CTL (i0 : Nat) : Nat := 0x38002000018 + i0 * 0x100000
/-- aperture segment (R234). -/
def RCH_SEG (i0 i1 : Nat) : Nat := 0x38002000100 + i0 * 0x100000 + i1 * 0x4
/-- port scrub (R234). -/
def RCH_SCRUB (i0 : Nat) : Nat := 0x38002000200 + i0 * 0x100000
/-- lane margining control (R234). -/
def RCH_MRG_CTL (i0 : Nat) : Nat := 0x38002000300 + i0 * 0x100000
/-- lane margining status (R234). -/
def RCH_MRG_STAT (i0 : Nat) : Nat := 0x38002000304 + i0 * 0x100000
/-- latency-critical descriptors (R234). -/
def TIER_LCR (i0 i1 : Nat) : Nat := 0x30000004400 + i0 * 0x10000 + i1 * 0x4
/-- port status (R254). -/
def NRL_STAT (i0 i1 : Nat) : Nat := 0x38003000000 + i0 * 0x100000 + i1 * 0x1000
/-- peer capability word (R254). -/
def NRL_CAP_PEER (i0 i1 : Nat) : Nat := 0x38003000008 + i0 * 0x100000 + i1 * 0x1000
/-- link counters (R254). -/
def NRL_FEC_CORR (i0 i1 : Nat) : Nat := 0x38003000010 + i0 * 0x100000 + i1 * 0x1000
/-- link counters (R254). -/
def NRL_FEC_UNC (i0 i1 : Nat) : Nat := 0x38003000014 + i0 * 0x100000 + i1 * 0x1000
/-- link counters (R254). -/
def NRL_REPLAY (i0 i1 : Nat) : Nat := 0x38003000018 + i0 * 0x100000 + i1 * 0x1000
/-- link counters (R254). -/
def NRL_LOST (i0 i1 : Nat) : Nat := 0x3800300001c + i0 * 0x100000 + i1 * 0x1000
/-- sender credits (R254). -/
def NRL_CRED (i0 i1 : Nat) : Nat := 0x38003000020 + i0 * 0x100000 + i1 * 0x1000
/-- port error record (R254). -/
def NRL_ERR (i0 i1 : Nat) : Nat := 0x38003000028 + i0 * 0x100000 + i1 * 0x1000
/-- port control (R254). -/
def NRL_CTL (i0 i1 : Nat) : Nat := 0x38003000030 + i0 * 0x100000 + i1 * 0x1000
/-- eye margining control (R254). -/
def NRL_MRG_CTL (i0 i1 : Nat) : Nat := 0x38003000100 + i0 * 0x100000 + i1 * 0x1000
/-- eye margining status (R254). -/
def NRL_MRG_STAT (i0 i1 : Nat) : Nat := 0x38003000104 + i0 * 0x100000 + i1 * 0x1000
/-- own capability word (R254). -/
def NRL_CAP_LOCAL (i0 : Nat) : Nat := 0x38003008000 + i0 * 0x100000
/-- direction groups (R254). -/
def NRL_DG_MAP (i0 : Nat) : Nat := 0x38003008008 + i0 * 0x100000
/-- torus extents (R254). -/
def NRL_TORUS (i0 : Nat) : Nat := 0x38003008010 + i0 * 0x100000
/-- chain counters (R254). -/
def NRL_CH_CNT (i0 : Nat) : Nat := 0x38003008018 + i0 * 0x100000
/-- chain counter control (R254). -/
def NRL_CH_CTL (i0 : Nat) : Nat := 0x38003008020 + i0 * 0x100000
/-- chain entry (R254). -/
def NRL_CHAIN (i0 i1 : Nat) : Nat := 0x38003009000 + i0 * 0x100000 + i1 * 0x10
/-- chain entry (R254). -/
def NRL_CHAIN_DL (i0 i1 : Nat) : Nat := 0x38003009008 + i0 * 0x100000 + i1 * 0x10
/-- step control (R281). -/
def STEP_CTL : Nat := 0x38005000000
/-- step status (R281). -/
def STEP_STAT : Nat := 0x38005000004
/-- step number (R281). -/
def STEP_NUM : Nat := 0x38005000008
/-- tick counter (R281). -/
def TICK : Nat := 0x38005000010
/-- tick synchronisation (R281). -/
def TICK_SYNC : Nat := 0x38005000018
/-- evaluation interval (R281). -/
def EVAL_CFG : Nat := 0x38005000020
/-- start lead and repeat limit (R281). -/
def REPEAT_CFG : Nat := 0x38005000024
/-- detector policies (R281). -/
def DET_POLICY : Nat := 0x38005000028
/-- detector limits (R281). -/
def NF_LIMIT : Nat := 0x3800500002c
/-- detector limits (R281). -/
def MAXEXP_LIMIT : Nat := 0x38005000030
/-- detector limits (R281). -/
def GNORM_LIMIT : Nat := 0x38005000034
/-- loss comparator parameters (R281). -/
def LOSS_ALPHA : Nat := 0x38005000038
/-- loss comparator parameters (R281). -/
def LOSS_K2 : Nat := 0x3800500003c
/-- loss warm-up (R281). -/
def LOSS_WARMUP : Nat := 0x38005000040
/-- loss scalar address (R281). -/
def LOSS_ADDR : Nat := 0x38005000048
/-- loss comparator state (R281). -/
def LOSS_MEAN : Nat := 0x38005000050
/-- loss comparator state (R281). -/
def LOSS_VAR : Nat := 0x38005000054
/-- loss comparator state (R281). -/
def LOSS_N : Nat := 0x38005000058
/-- step information block (R281). -/
def INFO_ADDR : Nat := 0x38005000060
/-- record ring (R281). -/
def REC_BASE : Nat := 0x38005000068
/-- record ring size (R281). -/
def REC_CFG : Nat := 0x38005000070
/-- record ring head (R281). -/
def REC_HEAD : Nat := 0x38005000074
/-- seed base (R281). -/
def GROUP_SEED : Nat := 0x38005000078
/-- step pennant (R281). -/
def STEP_PEN_ID : Nat := 0x38005000080
/-- quiescence discards (R281). -/
def STEP_QDROP : Nat := 0x38005000084
/-- phase deadlines (R281). -/
def PLAN_DL (i0 : Nat) : Nat := 0x38005000100 + i0 * 0x10
/-- phase hoist (R281). -/
def PLAN_HST (i0 : Nat) : Nat := 0x38005000108 + i0 * 0x10
/-- step error record (R281). -/
def STEP_ERR : Nat := 0x38005000200
/-- largest exponent (R282). -/
def MAXEXP (i0 : Nat) : Nat := 0x30000003120 + i0 * 0x10000
/-- gradient sum of squares (R282). -/
def GNORM (i0 : Nat) : Nat := 0x30000003124 + i0 * 0x10000
/-- detector control (R282). -/
def DET_CTL (i0 : Nat) : Nat := 0x30000003128 + i0 * 0x10000
/-- share counters (R301). -/
def XCH_CNT0 (i0 : Nat) : Nat := 0x38003008028 + i0 * 0x100000
/-- lateness and settle counters (R301). -/
def XCH_CNT1 (i0 : Nat) : Nat := 0x38003008030 + i0 * 0x100000
/-- check counters (R301). -/
def XCH_CHK (i0 : Nat) : Nat := 0x38003008038 + i0 * 0x100000
/-- share stage counter control (R301). -/
def XCH_CTL (i0 : Nat) : Nat := 0x38003008040 + i0 * 0x100000
/-- exchange extension of chain entry c (R301). -/
def XCH_CFG (i0 i1 : Nat) : Nat := 0x3800300a000 + i0 * 0x100000 + i1 * 0x80
/-- exchange bases (R301). -/
def XCH_LOC (i0 i1 : Nat) : Nat := 0x3800300a008 + i0 * 0x100000 + i1 * 0x80
/-- exchange bases (R301). -/
def XCH_XIN (i0 i1 : Nat) : Nat := 0x3800300a010 + i0 * 0x100000 + i1 * 0x80
/-- exchange bases (R301). -/
def XCH_UPD (i0 i1 : Nat) : Nat := 0x3800300a018 + i0 * 0x100000 + i1 * 0x80
/-- exchange bases (R301). -/
def XCH_HOLD (i0 i1 : Nat) : Nat := 0x3800300a020 + i0 * 0x100000 + i1 * 0x80
/-- exchange bases (R301). -/
def XCH_SUM (i0 i1 : Nat) : Nat := 0x3800300a028 + i0 * 0x100000 + i1 * 0x80
/-- exchange bases (R301). -/
def XCH_FLAG (i0 i1 : Nat) : Nat := 0x3800300a030 + i0 * 0x100000 + i1 * 0x80
/-- exchange bases (R301). -/
def XCH_AGV (i0 i1 : Nat) : Nat := 0x3800300a038 + i0 * 0x100000 + i1 * 0x80
/-- exchange bases (R301). -/
def XCH_AGI (i0 i1 : Nat) : Nat := 0x3800300a040 + i0 * 0x100000 + i1 * 0x80
/-- route configuration (R314). -/
def RT_CFG (i0 : Nat) : Nat := 0x30000004800 + i0 * 0x10000
/-- route pennants (R314). -/
def RT_PEN (i0 : Nat) : Nat := 0x30000004804 + i0 * 0x10000
/-- route offsets (R314). -/
def RT_WIN (i0 : Nat) : Nat := 0x30000004808 + i0 * 0x10000
/-- route offsets (R314). -/
def RT_LIST (i0 : Nat) : Nat := 0x3000000480c + i0 * 0x10000
/-- route offsets (R314). -/
def RT_HDR (i0 : Nat) : Nat := 0x30000004810 + i0 * 0x10000
/-- route offsets (R314). -/
def RT_CMAP (i0 : Nat) : Nat := 0x30000004814 + i0 * 0x10000
/-- route status (R314). -/
def RT_STAT (i0 : Nat) : Nat := 0x30000004818 + i0 * 0x10000
/-- route counters (R314). -/
def RT_CNT (i0 : Nat) : Nat := 0x30000004820 + i0 * 0x10000
/-- combine configuration (R314). -/
def CB_CFG (i0 : Nat) : Nat := 0x30000004840 + i0 * 0x10000
/-- combine local pennants (R314). -/
def CB_PEN (i0 : Nat) : Nat := 0x30000004844 + i0 * 0x10000
/-- credit pennants (R314). -/
def CB_CRED (i0 : Nat) : Nat := 0x30000004848 + i0 * 0x10000
/-- combine offsets (R314). -/
def CB_HDR (i0 : Nat) : Nat := 0x3000000484c + i0 * 0x10000
/-- combine offsets (R314). -/
def CB_ROWS (i0 : Nat) : Nat := 0x30000004850 + i0 * 0x10000
/-- combine counters (R314). -/
def CB_CNT (i0 : Nat) : Nat := 0x30000004858 + i0 * 0x10000
/-- combine error record (R314). -/
def CB_ERR (i0 : Nat) : Nat := 0x30000004860 + i0 * 0x10000
/-- lane states (R314). -/
def CB_LANE (i0 i1 : Nat) : Nat := 0x30000004880 + i0 * 0x10000 + i1 * 0x4
/-- routing counter control (R314). -/
def EXP_CTL (i0 : Nat) : Nat := 0x300000048a0 + i0 * 0x10000
/-- image load control (R331). -/
def IMG_CTL : Nat := 0x38006000000
/-- image source (R331). -/
def IMG_SRC : Nat := 0x38006000008
/-- resident copy (R331). -/
def IMG_RES : Nat := 0x38006000010
/-- image status (R331). -/
def IMG_STAT : Nat := 0x38006000018
/-- supported format versions (R331). -/
def IMG_FMT_RANGE : Nat := 0x3800600001c
/-- device rank (R331). -/
def IMG_RANK : Nat := 0x38006000020
/-- image measurement (R331). -/
def IMG_MEAS (i0 : Nat) : Nat := 0x38006000040 + i0 * 0x8
/-- profile status (R331). -/
def PROF_STAT : Nat := 0x38006000080
/-- profile command (R331). -/
def PROF_CMD : Nat := 0x38006000084
/-- configuration error record (R331). -/
def CFG_ERR : Nat := 0x38006000088
/-- configuration error address (R331). -/
def CFG_ERR_ADDR : Nat := 0x38006000090
/-- clock status (R354). -/
def CLK_STAT : Nat := 0x38007000000
/-- crystal comparison (R354). -/
def CLK_XB_PPM : Nat := 0x38007000004
/-- gating behaviour (R354). -/
def CLK_CFG : Nat := 0x38007000008
/-- island enables (R354). -/
def CLK_EN_ISL : Nat := 0x38007000010
/-- further enables (R354). -/
def CLK_EN_UNC : Nat := 0x38007000018
/-- island frequency caps (R354). -/
def ISL_CAP (i0 : Nat) : Nat := 0x38007000020 + i0 * 0x4
/-- clock error record (R354). -/
def CLK_ERR : Nat := 0x38007000048
/-- power state (R354). -/
def PWR_STAT : Nat := 0x38007100000
/-- idle hold (R354). -/
def PWR_CFG : Nat := 0x38007100004
/-- latency tolerances (R354). -/
def LAT_TOL (i0 : Nat) : Nat := 0x38007100010 + i0 * 0x4
/-- package power limit (R354). -/
def PWR_LIMIT : Nat := 0x38007100040
/-- package power (R354). -/
def PWR_MEAS : Nat := 0x38007100044
/-- throttle drops (R354). -/
def PWR_THROT : Nat := 0x38007100048
/-- die operating point (R354). -/
def DIE_OPP (i0 : Nat) : Nat := 0x38007100050 + i0 * 0x4
/-- thermal threshold (R354). -/
def THERM_CFG : Nat := 0x38007100060
/-- hottest sensor (R354). -/
def THERM_MAX : Nat := 0x38007100064
/-- phases of die q (R354). -/
def PH_CFG (i0 : Nat) : Nat := 0x38007100070 + i0 * 0x4
/-- PMBus rail r (R354). -/
def RAIL_STAT (i0 : Nat) : Nat := 0x38007100090 + i0 * 0x4
/-- power error record (R354). -/
def PWR_ERR : Nat := 0x380071000c0
/-- power counter control (R354). -/
def PWR_CTL : Nat := 0x380071000c8
/-- reset and start status (R375). -/
def RST_STAT : Nat := 0x38007200000
/-- reset commands (R375). -/
def RST_CMD : Nat := 0x38007200004
/-- reset configuration (R375). -/
def RST_CFG : Nat := 0x38007200008
/-- latched strap (R375). -/
def STRAP : Nat := 0x3800720000c
/-- running firmware (R375). -/
def FW_VER : Nat := 0x38007200010
/-- start error record (R375). -/
def RST_ERR : Nat := 0x38007200018
/-- last start duration (R375). -/
def START_TIME : Nat := 0x38007200020
/-- security status (R393). -/
def SEC_STAT : Nat := 0x38008000000
/-- serial (R393). -/
def SEC_SERIAL (i0 : Nat) : Nat := 0x38008000008 + i0 * 0x8
/-- enclave command (R393). -/
def SEC_CMD : Nat := 0x38008000020
/-- command argument (R393). -/
def SEC_ARG : Nat := 0x38008000028
/-- command status (R393). -/
def SEC_CMD_STAT : Nat := 0x38008000030
/-- challenge (R393). -/
def SEC_CHAL (i0 : Nat) : Nat := 0x38008000040 + i0 * 0x8
/-- step attestation status (R393). -/
def SA_STAT : Nat := 0x38008000060
/-- step attestation hash (R393). -/
def SA_HASH (i0 : Nat) : Nat := 0x38008000080 + i0 * 0x8
/-- burgee (R393). -/
def SEC_BURGEE (i0 : Nat) : Nat := 0x38008001000 + i0 * 0x8
/-- owner slot s (R393). -/
def SEC_KEY_PUB (i0 i1 : Nat) : Nat := 0x38008001100 + i0 * 0x40 + i1 * 0x8
/-- owner slot s (R393). -/
def SEC_KEY (i0 : Nat) : Nat := 0x38008001120 + i0 * 0x40
/-- measurement entry i (R393). -/
def SEC_MLOG (i0 i1 : Nat) : Nat := 0x38008001200 + i0 * 0x40 + i1 * 0x8
/-- debug status (R393). -/
def DBG_STAT : Nat := 0x38009000000
/-- debug control (R393). -/
def DBG_CTL : Nat := 0x38009000004
/-- core control under Full (R393). -/
def DBG_CORE : Nat := 0x38009000010
/-- debug address (R393). -/
def DBG_ADDR : Nat := 0x38009000018
/-- debug data (R393). -/
def DBG_DATA : Nat := 0x38009000020
/-- debug access (R393). -/
def DBG_ACC : Nat := 0x38009000024
/-- function status (R409). -/
def HF_STAT (i0 : Nat) : Nat := 0x3800a010000 + i0 * 0x10000
/-- ring base (R409). -/
def HF_RING_BASE (i0 i1 : Nat) : Nat := 0x3800a010100 + i0 * 0x10000 + i1 * 0x20
/-- ring configuration (R409). -/
def HF_RING_CFG (i0 i1 : Nat) : Nat := 0x3800a010108 + i0 * 0x10000 + i1 * 0x20
/-- ring indices (R409). -/
def HF_RING_PROD (i0 i1 : Nat) : Nat := 0x3800a01010c + i0 * 0x10000 + i1 * 0x20
/-- ring indices (R409). -/
def HF_RING_CONS (i0 i1 : Nat) : Nat := 0x3800a010110 + i0 * 0x10000 + i1 * 0x20
/-- BAR2 window (R409). -/
def HF_BAR2_BASE (i0 : Nat) : Nat := 0x3800a010200 + i0 * 0x10000
/-- dropped records (R409). -/
def HF_ERR_LOST (i0 : Nat) : Nat := 0x3800a010208 + i0 * 0x10000
/-- supported ABI (R409). -/
def HOST_ABI_RANGE : Nat := 0x3800a0f0000
/-- start count (R409). -/
def HOST_BOOT_ID : Nat := 0x3800a0f0004
/-- channel assignment (R409). -/
def HOST_DMA_MAP : Nat := 0x3800a0f0008
/-- link status (R409). -/
def HOST_LINK : Nat := 0x3800a0f0010
/-- partition state (R409). -/
def PART_STAT (i0 : Nat) : Nat := 0x3800a0f0100 + i0 * 0x4

end Reg

namespace Fld

def ARRAY_CFG_PROMOTE_EVERY : FieldPos := ⟨0, 2⟩
def ARRAY_STAT_BUSY : FieldPos := ⟨31, 1⟩
def ARRAY_STAT_MODE : FieldPos := ⟨28, 3⟩
def ARRAY_STAT_SETS_DONE : FieldPos := ⟨0, 24⟩
def ARRAY_ACT_ACT : FieldPos := ⟨0, 64⟩
def ARRAY_USEFUL_USEFUL : FieldPos := ⟨0, 64⟩
def ARRAY_STALL_FEED_CYCLES : FieldPos := ⟨0, 32⟩
def ARRAY_STALL_WIN_CYCLES : FieldPos := ⟨0, 32⟩
def ARRAY_STALL_ACC_CYCLES : FieldPos := ⟨0, 32⟩
def ACC_ECC_UE : FieldPos := ⟨31, 1⟩
def ACC_ECC_CORR_CNT : FieldPos := ⟨0, 16⟩
def ACC_UE_LOC_FILE : FieldPos := ⟨14, 2⟩
def ACC_UE_LOC_ROW : FieldPos := ⟨8, 5⟩
def ACC_UE_LOC_COL : FieldPos := ⟨0, 8⟩
def ARRAY_CTL_CNT_CLR : FieldPos := ⟨0, 1⟩
def NF_POS_INF_COUNT : FieldPos := ⟨0, 32⟩
def NF_NEG_INF_COUNT : FieldPos := ⟨0, 32⟩
def NF_NAN_COUNT : FieldPos := ⟨0, 32⟩
def NF_FIRST_VALID : FieldPos := ⟨31, 1⟩
def NF_FIRST_KIND : FieldPos := ⟨29, 2⟩
def NF_FIRST_UNIT : FieldPos := ⟨26, 3⟩
def NF_FIRST_STREAM : FieldPos := ⟨25, 1⟩
def NF_FIRST_BANK : FieldPos := ⟨24, 1⟩
def NF_FIRST_INDEX : FieldPos := ⟨0, 11⟩
def NF_CTL_CNT_CLR : FieldPos := ⟨0, 1⟩
def CMPR_DROP_COUNT : FieldPos := ⟨0, 32⟩
def CMPR_EXACT_CAP_COUNT : FieldPos := ⟨0, 32⟩
def PRR_SWAPS_COUNT : FieldPos := ⟨0, 32⟩
def PRR_FLIPS_COUNT : FieldPos := ⟨0, 32⟩
def PRR_STALE_COUNT : FieldPos := ⟨0, 32⟩
def PRR_NAN_CAND_COUNT : FieldPos := ⟨0, 32⟩
def PRED_SKIP_COUNT : FieldPos := ⟨0, 64⟩
def PRED_AUDIT_COUNT : FieldPos := ⟨0, 64⟩
def PRED_MISS_COUNT : FieldPos := ⟨0, 32⟩
def PRED_BAND_DROP : FieldPos := ⟨16, 16⟩
def PRED_BAND_DONE : FieldPos := ⟨0, 16⟩
def PRED_OVER_COUNT : FieldPos := ⟨0, 32⟩
def PRED_STAT_ARMED : FieldPos := ⟨31, 1⟩
def PRED_STAT_ARMED_MASK : FieldPos := ⟨16, 8⟩
def PRED_STAT_SLOTS : FieldPos := ⟨0, 9⟩
def MASK_CTL_CNT_CLR : FieldPos := ⟨0, 1⟩
def CORE_CTL_QCLR : FieldPos := ⟨2, 1⟩
def CORE_CTL_STOP : FieldPos := ⟨1, 1⟩
def CORE_CTL_START : FieldPos := ⟨0, 1⟩
def QUEUE_STAT_QR1 : FieldPos := ⟨44, 8⟩
def QUEUE_STAT_QR0 : FieldPos := ⟨36, 8⟩
def QUEUE_STAT_QA3 : FieldPos := ⟨27, 9⟩
def QUEUE_STAT_QA2 : FieldPos := ⟨18, 9⟩
def QUEUE_STAT_QA1 : FieldPos := ⟨9, 9⟩
def QUEUE_STAT_QA0 : FieldPos := ⟨0, 9⟩
def STRM_CTL_ABANK : FieldPos := ⟨0, 1⟩
def STRM_STAT_STATE : FieldPos := ⟨30, 2⟩
def STRM_STAT_DEPTH : FieldPos := ⟨27, 3⟩
def STRM_STAT_WAITON : FieldPos := ⟨23, 4⟩
def STRM_STAT_INDEX : FieldPos := ⟨0, 11⟩
def STRM_ERR_VALID : FieldPos := ⟨31, 1⟩
def STRM_ERR_BANK : FieldPos := ⟨27, 1⟩
def STRM_ERR_INDEX : FieldPos := ⟨16, 11⟩
def STRM_ERR_CODE : FieldPos := ⟨0, 16⟩
def STRM_ERR_DETAIL_DETAIL : FieldPos := ⟨0, 64⟩
def CNT_VALUE : FieldPos := ⟨0, 32⟩
def COMP_REF_REF : FieldPos := ⟨0, 32⟩
def COMP_CFG_REL3 : FieldPos := ⟨21, 3⟩
def COMP_CFG_CSEL3 : FieldPos := ⟨18, 3⟩
def COMP_CFG_REL2 : FieldPos := ⟨15, 3⟩
def COMP_CFG_CSEL2 : FieldPos := ⟨12, 3⟩
def COMP_CFG_REL1 : FieldPos := ⟨9, 3⟩
def COMP_CFG_CSEL1 : FieldPos := ⟨6, 3⟩
def COMP_CFG_REL0 : FieldPos := ⟨3, 3⟩
def COMP_CFG_CSEL0 : FieldPos := ⟨0, 3⟩
def IMEM_LD_SRC_SRC : FieldPos := ⟨0, 48⟩
def IMEM_LD_CTL_START : FieldPos := ⟨31, 1⟩
def IMEM_LD_CTL_TARGET : FieldPos := ⟨27, 2⟩
def IMEM_LD_CTL_BANK : FieldPos := ⟨26, 1⟩
def IMEM_LD_CTL_COUNT : FieldPos := ⟨11, 12⟩
def IMEM_LD_CTL_FIRST : FieldPos := ⟨0, 11⟩
def IMEM_LD_STAT_READY1 : FieldPos := ⟨3, 1⟩
def IMEM_LD_STAT_READY0 : FieldPos := ⟨2, 1⟩
def IMEM_LD_STAT_ERR : FieldPos := ⟨1, 1⟩
def IMEM_LD_STAT_BUSY : FieldPos := ⟨0, 1⟩
def SP_CFG_PATROL_EN : FieldPos := ⟨0, 1⟩
def SP_ECC_UE : FieldPos := ⟨31, 1⟩
def SP_ECC_UE_SRC : FieldPos := ⟨28, 3⟩
def SP_ECC_CORR_CNT : FieldPos := ⟨0, 16⟩
def SP_UE_LOC_WORD : FieldPos := ⟨2, 19⟩
def SP_CONF_CYCLES : FieldPos := ⟨0, 32⟩
def SP_PATROL_SWEEPS : FieldPos := ⟨11, 21⟩
def SP_PATROL_ROW : FieldPos := ⟨0, 11⟩
def SP_SCRUB_BUSY : FieldPos := ⟨31, 1⟩
def SP_SCRUB_DONE : FieldPos := ⟨30, 1⟩
def SP_SCRUB_ROW : FieldPos := ⟨0, 12⟩
def SP_CTL_CNT_CLR : FieldPos := ⟨0, 1⟩
def PEN_VAL_VALUE : FieldPos := ⟨0, 48⟩
def PEN_CFG_ALLOC : FieldPos := ⟨31, 1⟩
def PEN_CFG_CTX : FieldPos := ⟨28, 3⟩
def PEN_CFG_KIND : FieldPos := ⟨27, 1⟩
def PEN_WAIT_NWAIT : FieldPos := ⟨0, 13⟩
def PEN_WAITER_VALID : FieldPos := ⟨31, 1⟩
def PEN_WAITER_STREAM : FieldPos := ⟨30, 1⟩
def PEN_WAITER_MODE : FieldPos := ⟨28, 2⟩
def PEN_WAITER_CORE : FieldPos := ⟨0, 12⟩
def PEN_LAST_VALID : FieldPos := ⟨31, 1⟩
def PEN_LAST_STREAM : FieldPos := ⟨30, 1⟩
def PEN_LAST_DEV : FieldPos := ⟨20, 10⟩
def PEN_LAST_HOST : FieldPos := ⟨19, 1⟩
def PEN_LAST_CORE : FieldPos := ⟨0, 12⟩
def PEN_TICK_TICK : FieldPos := ⟨0, 64⟩
def PEN_XLT_VALID : FieldPos := ⟨31, 1⟩
def PEN_XLT_DIE : FieldPos := ⟨13, 2⟩
def PEN_XLT_INDEX : FieldPos := ⟨0, 13⟩
def LAND_VALID : FieldPos := ⟨63, 1⟩
def LAND_SRC_DEV : FieldPos := ⟨53, 10⟩
def LAND_SRC_CORE : FieldPos := ⟨41, 12⟩
def LAND_PEND : FieldPos := ⟨32, 9⟩
def LAND_LANDED : FieldPos := ⟨0, 32⟩
def PEN_ERR_VALID : FieldPos := ⟨63, 1⟩
def PEN_ERR_DEV : FieldPos := ⟨53, 10⟩
def PEN_ERR_CORE : FieldPos := ⟨41, 12⟩
def PEN_ERR_HOST : FieldPos := ⟨40, 1⟩
def PEN_ERR_PEN : FieldPos := ⟨16, 12⟩
def PEN_ERR_CODE : FieldPos := ⟨0, 16⟩
def PEN_PEND_Q3 : FieldPos := ⟨24, 8⟩
def PEN_PEND_Q2 : FieldPos := ⟨16, 8⟩
def PEN_PEND_Q1 : FieldPos := ⟨8, 8⟩
def PEN_PEND_Q0 : FieldPos := ⟨0, 8⟩
def PEN_HOST_SIG_OP : FieldPos := ⟨31, 1⟩
def PEN_HOST_SIG_CTX : FieldPos := ⟨28, 3⟩
def PEN_HOST_SIG_PEN : FieldPos := ⟨16, 12⟩
def PEN_HOST_SIG_AMOUNT : FieldPos := ⟨0, 16⟩
def LPEN_VAL_VALUE : FieldPos := ⟨0, 48⟩
def LPEN_STAT_KIND : FieldPos := ⟨31, 1⟩
def LPEN_STAT_WAIT_A : FieldPos := ⟨30, 1⟩
def LPEN_STAT_WAIT_E : FieldPos := ⟨29, 1⟩
def LPEN_STAT_LAST_VALID : FieldPos := ⟨28, 1⟩
def LPEN_STAT_LAST_STREAM : FieldPos := ⟨27, 1⟩
def LPEN_TICK_TICK : FieldPos := ⟨0, 32⟩
def SEQ_VALID : FieldPos := ⟨63, 1⟩
def SEQ_DEV : FieldPos := ⟨32, 10⟩
def SEQ_WSEQ : FieldPos := ⟨0, 32⟩
def HBIND_VALID : FieldPos := ⟨63, 1⟩
def HBIND_SCOPE : FieldPos := ⟨62, 1⟩
def HBIND_WAIT : FieldPos := ⟨61, 1⟩
def HBIND_HID : FieldPos := ⟨53, 8⟩
def HBIND_ROUND : FieldPos := ⟨0, 32⟩
def HST_CFG_ALLOC : FieldPos := ⟨31, 1⟩
def HST_CFG_CTX : FieldPos := ⟨28, 3⟩
def HST_CFG_ROOT : FieldPos := ⟨27, 1⟩
def HST_CFG_WCOUNT : FieldPos := ⟨13, 13⟩
def HST_CFG_COUNT : FieldPos := ⟨0, 13⟩
def XH_CFG_ALLOC : FieldPos := ⟨31, 1⟩
def XH_CFG_CTX : FieldPos := ⟨28, 3⟩
def XH_CFG_ROOT : FieldPos := ⟨27, 1⟩
def XH_CFG_WCOUNT : FieldPos := ⟨13, 13⟩
def XH_CFG_COUNT : FieldPos := ⟨0, 13⟩
def HST_RELEASED_RELEASED : FieldPos := ⟨0, 32⟩
def XH_RELEASED_RELEASED : FieldPos := ⟨0, 32⟩
def HST_SLOT_INUSE : FieldPos := ⟨31, 1⟩
def HST_SLOT_REL : FieldPos := ⟨30, 1⟩
def HST_SLOT_DEP_PEND : FieldPos := ⟨16, 14⟩
def HST_SLOT_ARRIVED : FieldPos := ⟨0, 14⟩
def XH_SLOT_INUSE : FieldPos := ⟨31, 1⟩
def XH_SLOT_REL : FieldPos := ⟨30, 1⟩
def XH_SLOT_DEP_PEND : FieldPos := ⟨16, 14⟩
def XH_SLOT_ARRIVED : FieldPos := ⟨0, 14⟩
def XH_ROOT_INUSE : FieldPos := ⟨31, 1⟩
def XH_ROOT_REL : FieldPos := ⟨30, 1⟩
def XH_ROOT_DEV_FIN : FieldPos := ⟨11, 11⟩
def XH_ROOT_DEV_ARR : FieldPos := ⟨0, 11⟩
def XH_DEVS_DEV_COUNT : FieldPos := ⟨0, 11⟩
def HST_XLT_VALID : FieldPos := ⟨31, 1⟩
def HST_XLT_DIE : FieldPos := ⟨8, 2⟩
def HST_XLT_INDEX : FieldPos := ⟨0, 8⟩
def MESH_CFG_BULK_LATE_THR : FieldPos := ⟨12, 12⟩
def MESH_CFG_RED_LATE_THR : FieldPos := ⟨0, 12⟩
def MESH_ERR_VALID : FieldPos := ⟨63, 1⟩
def MESH_ERR_DIE : FieldPos := ⟨61, 2⟩
def MESH_ERR_CORE : FieldPos := ⟨49, 12⟩
def MESH_ERR_TAG : FieldPos := ⟨37, 12⟩
def MESH_ERR_CODE : FieldPos := ⟨0, 16⟩
def MR_LATE_COUNT : FieldPos := ⟨0, 32⟩
def MR_CTL_CNT_CLR : FieldPos := ⟨0, 1⟩
def MR_NEXT_HOP : FieldPos := ⟨0, 32⟩
def MR_RTAG_VALID : FieldPos := ⟨63, 1⟩
def MR_RTAG_FMT : FieldPos := ⟨61, 2⟩
def MR_RTAG_NIN : FieldPos := ⟨58, 3⟩
def MR_RTAG_IN0 : FieldPos := ⟨55, 3⟩
def MR_RTAG_IN1 : FieldPos := ⟨52, 3⟩
def MR_RTAG_IN2 : FieldPos := ⟨49, 3⟩
def MR_RTAG_IN3 : FieldPos := ⟨46, 3⟩
def MR_RTAG_IN4 : FieldPos := ⟨43, 3⟩
def MR_RTAG_TAG : FieldPos := ⟨28, 12⟩
def MR_RTAG_TO_CHAIN : FieldPos := ⟨19, 1⟩
def MR_RTAG_GROUP : FieldPos := ⟨16, 3⟩
def MR_RTAG_DONE : FieldPos := ⟨0, 16⟩
def NEAR_STAT_TRAINED : FieldPos := ⟨31, 1⟩
def NEAR_STAT_SELFREF : FieldPos := ⟨30, 1⟩
def NEAR_STAT_TRAIN_SRC : FieldPos := ⟨28, 2⟩
def NEAR_STAT_TEMP : FieldPos := ⟨0, 8⟩
def NEAR_ECC_UE : FieldPos := ⟨31, 1⟩
def NEAR_ECC_UE_SRC : FieldPos := ⟨30, 1⟩
def NEAR_ECC_UE_PC : FieldPos := ⟨16, 5⟩
def NEAR_ECC_CORR_CNT : FieldPos := ⟨0, 16⟩
def NEAR_UE_ADDR_ADDR : FieldPos := ⟨0, 48⟩
def NEAR_DIE_CORR_COUNT : FieldPos := ⟨0, 32⟩
def NEAR_LCR_CAPPED_COUNT : FieldPos := ⟨0, 32⟩
def NEAR_PATROL_SWEEPS : FieldPos := ⟨26, 6⟩
def NEAR_PATROL_SECTOR : FieldPos := ⟨0, 26⟩
def NEAR_CTL_PATROL_EN : FieldPos := ⟨1, 1⟩
def NEAR_CTL_CNT_CLR : FieldPos := ⟨0, 1⟩
def NEAR_MRG_CTL_START : FieldPos := ⟨31, 1⟩
def NEAR_MRG_CTL_KIND : FieldPos := ⟨29, 2⟩
def NEAR_MRG_CTL_DIR : FieldPos := ⟨28, 1⟩
def NEAR_MRG_CTL_STEPS : FieldPos := ⟨16, 6⟩
def NEAR_MRG_CTL_PC : FieldPos := ⟨0, 5⟩
def NEAR_MRG_STAT_BUSY : FieldPos := ⟨31, 1⟩
def NEAR_MRG_STAT_DONE : FieldPos := ⟨30, 1⟩
def NEAR_MRG_STAT_REFUSED : FieldPos := ⟨29, 1⟩
def NEAR_MRG_STAT_PASS : FieldPos := ⟨16, 6⟩
def NEAR_MRG_STAT_ERRS : FieldPos := ⟨0, 16⟩
def NEAR_SET_CFG_VALID : FieldPos := ⟨63, 1⟩
def NEAR_SET_CFG_CTX : FieldPos := ⟨60, 3⟩
def NEAR_SET_CFG_LOG2N : FieldPos := ⟨56, 4⟩
def NEAR_SET_CFG_BASE : FieldPos := ⟨48, 8⟩
def NEAR_SCRUB_BUSY : FieldPos := ⟨31, 1⟩
def NEAR_SCRUB_DONE : FieldPos := ⟨30, 1⟩
def NEAR_SCRUB_MIB : FieldPos := ⟨0, 20⟩
def NEAR_SET_LIST_PC3 : FieldPos := ⟨24, 8⟩
def NEAR_SET_LIST_PC2 : FieldPos := ⟨16, 8⟩
def NEAR_SET_LIST_PC1 : FieldPos := ⟨8, 8⟩
def NEAR_SET_LIST_PC0 : FieldPos := ⟨0, 8⟩
def RCH_STAT_LINK_UP : FieldPos := ⟨31, 1⟩
def RCH_STAT_DEV_OK : FieldPos := ⟨30, 1⟩
def RCH_STAT_RATE : FieldPos := ⟨26, 4⟩
def RCH_STAT_WIDTH : FieldPos := ⟨21, 5⟩
def RCH_STAT_CAP_GIB : FieldPos := ⟨0, 10⟩
def RCH_ECC_UE : FieldPos := ⟨31, 1⟩
def RCH_ECC_UE_KIND : FieldPos := ⟨29, 2⟩
def RCH_ECC_CORR_CNT : FieldPos := ⟨0, 16⟩
def RCH_UE_ADDR_ADDR : FieldPos := ⟨0, 48⟩
def RCH_ARB_W : FieldPos := ⟨0, 32⟩
def RCH_LCR_CAPPED_COUNT : FieldPos := ⟨0, 32⟩
def RCH_CTL_CNT_CLR : FieldPos := ⟨0, 1⟩
def RCH_SEG_VALID : FieldPos := ⟨31, 1⟩
def RCH_SEG_CTX : FieldPos := ⟨28, 3⟩
def RCH_SEG_SCRUB : FieldPos := ⟨27, 1⟩
def RCH_SEG_DSEG : FieldPos := ⟨0, 5⟩
def RCH_SCRUB_BUSY : FieldPos := ⟨31, 1⟩
def RCH_SCRUB_DONE : FieldPos := ⟨30, 1⟩
def RCH_SCRUB_SEG : FieldPos := ⟨14, 4⟩
def RCH_SCRUB_MIB : FieldPos := ⟨0, 14⟩
def RCH_MRG_CTL_START : FieldPos := ⟨31, 1⟩
def RCH_MRG_CTL_SIDE : FieldPos := ⟨30, 1⟩
def RCH_MRG_CTL_KIND : FieldPos := ⟨29, 1⟩
def RCH_MRG_CTL_DIR : FieldPos := ⟨28, 1⟩
def RCH_MRG_CTL_STEPS : FieldPos := ⟨16, 6⟩
def RCH_MRG_CTL_LANE : FieldPos := ⟨0, 4⟩
def RCH_MRG_STAT_BUSY : FieldPos := ⟨31, 1⟩
def RCH_MRG_STAT_DONE : FieldPos := ⟨30, 1⟩
def RCH_MRG_STAT_REFUSED : FieldPos := ⟨29, 1⟩
def RCH_MRG_STAT_PASS : FieldPos := ⟨16, 6⟩
def RCH_MRG_STAT_ERRS : FieldPos := ⟨0, 16⟩
def TIER_LCR_MASK : FieldPos := ⟨0, 32⟩
def NRL_STAT_STATE : FieldPos := ⟨29, 3⟩
def NRL_STAT_VER : FieldPos := ⟨27, 2⟩
def NRL_STAT_LANES : FieldPos := ⟨23, 4⟩
def NRL_STAT_INSERV : FieldPos := ⟨22, 1⟩
def NRL_STAT_FEAT : FieldPos := ⟨10, 12⟩
def NRL_CAP_PEER_CAP : FieldPos := ⟨0, 64⟩
def NRL_FEC_CORR_COUNT : FieldPos := ⟨0, 32⟩
def NRL_FEC_UNC_COUNT : FieldPos := ⟨0, 32⟩
def NRL_REPLAY_COUNT : FieldPos := ⟨0, 32⟩
def NRL_LOST_COUNT : FieldPos := ⟨0, 32⟩
def NRL_CRED_BULK : FieldPos := ⟨30, 10⟩
def NRL_CRED_RED : FieldPos := ⟨20, 10⟩
def NRL_CRED_LCR : FieldPos := ⟨11, 9⟩
def NRL_CRED_SIG : FieldPos := ⟨0, 7⟩
def NRL_ERR_VALID : FieldPos := ⟨63, 1⟩
def NRL_ERR_TAG : FieldPos := ⟨36, 12⟩
def NRL_ERR_TICK : FieldPos := ⟨16, 20⟩
def NRL_ERR_CODE : FieldPos := ⟨0, 16⟩
def NRL_CTL_RETRAIN_EN : FieldPos := ⟨3, 1⟩
def NRL_CTL_DISABLE : FieldPos := ⟨2, 1⟩
def NRL_CTL_TRAIN : FieldPos := ⟨1, 1⟩
def NRL_CTL_CNT_CLR : FieldPos := ⟨0, 1⟩
def NRL_MRG_CTL_START : FieldPos := ⟨31, 1⟩
def NRL_MRG_CTL_KIND : FieldPos := ⟨30, 1⟩
def NRL_MRG_CTL_DIR : FieldPos := ⟨29, 1⟩
def NRL_MRG_CTL_EYE : FieldPos := ⟨27, 2⟩
def NRL_MRG_CTL_STEPS : FieldPos := ⟨16, 6⟩
def NRL_MRG_CTL_LANE : FieldPos := ⟨0, 3⟩
def NRL_MRG_STAT_BUSY : FieldPos := ⟨31, 1⟩
def NRL_MRG_STAT_DONE : FieldPos := ⟨30, 1⟩
def NRL_MRG_STAT_REFUSED : FieldPos := ⟨29, 1⟩
def NRL_MRG_STAT_PASS : FieldPos := ⟨16, 6⟩
def NRL_MRG_STAT_ERRS : FieldPos := ⟨0, 16⟩
def NRL_CAP_LOCAL_VMAX : FieldPos := ⟨60, 4⟩
def NRL_CAP_LOCAL_VMIN : FieldPos := ⟨56, 4⟩
def NRL_CAP_LOCAL_FEAT : FieldPos := ⟨44, 12⟩
def NRL_CAP_LOCAL_ROLE : FieldPos := ⟨42, 2⟩
def NRL_CAP_LOCAL_COORD : FieldPos := ⟨0, 40⟩
def NRL_DG_MAP_PORT : FieldPos := ⟨0, 16⟩
def NRL_TORUS_W : FieldPos := ⟨33, 11⟩
def NRL_TORUS_Z : FieldPos := ⟨22, 11⟩
def NRL_TORUS_Y : FieldPos := ⟨11, 11⟩
def NRL_TORUS_X : FieldPos := ⟨0, 11⟩
def NRL_CH_CNT_CH_OVF : FieldPos := ⟨42, 22⟩
def NRL_CH_CNT_CH_SKIP : FieldPos := ⟨21, 21⟩
def NRL_CH_CNT_CH_LATE : FieldPos := ⟨0, 21⟩
def NRL_CH_CTL_CNT_CLR : FieldPos := ⟨0, 1⟩
def NRL_CHAIN_VALID : FieldPos := ⟨63, 1⟩
def NRL_CHAIN_FMT : FieldPos := ⟨61, 2⟩
def NRL_CHAIN_POS : FieldPos := ⟨59, 2⟩
def NRL_CHAIN_LATE : FieldPos := ⟨58, 1⟩
def NRL_CHAIN_TAG : FieldPos := ⟨46, 12⟩
def NRL_CHAIN_LTAG : FieldPos := ⟨34, 12⟩
def NRL_CHAIN_NEXT_DEV : FieldPos := ⟨24, 10⟩
def NRL_CHAIN_DL_DEADLINE : FieldPos := ⟨0, 32⟩
def NRL_CHAIN_DL_NSEC : FieldPos := ⟨32, 24⟩
def STEP_CTL_RUN : FieldPos := ⟨31, 1⟩
def STEP_CTL_SINGLE : FieldPos := ⟨30, 1⟩
def STEP_CTL_HALT_NOW : FieldPos := ⟨29, 1⟩
def STEP_CTL_ROLE : FieldPos := ⟨27, 2⟩
def STEP_CTL_REPLAY : FieldPos := ⟨26, 1⟩
def STEP_STAT_PHASE : FieldPos := ⟨29, 3⟩
def STEP_STAT_ATTEMPT : FieldPos := ⟨25, 4⟩
def STEP_STAT_HALTED : FieldPos := ⟨24, 1⟩
def STEP_STAT_THROTTLED : FieldPos := ⟨23, 1⟩
def STEP_STAT_REPEATS : FieldPos := ⟨0, 16⟩
def STEP_NUM_STEP : FieldPos := ⟨0, 64⟩
def TICK_TICK : FieldPos := ⟨0, 64⟩
def TICK_SYNC_UNSYNC : FieldPos := ⟨31, 1⟩
def TICK_SYNC_DEPTH : FieldPos := ⟨8, 10⟩
def TICK_SYNC_OFFSET : FieldPos := ⟨0, 8⟩
def EVAL_CFG_E : FieldPos := ⟨0, 32⟩
def REPEAT_CFG_START_LEAD : FieldPos := ⟨16, 16⟩
def REPEAT_CFG_REPEAT_MAX : FieldPos := ⟨0, 4⟩
def DET_POLICY_LOSS : FieldPos := ⟨6, 2⟩
def DET_POLICY_GNORM : FieldPos := ⟨4, 2⟩
def DET_POLICY_MAXEXP : FieldPos := ⟨2, 2⟩
def DET_POLICY_NF : FieldPos := ⟨0, 2⟩
def NF_LIMIT_LIMIT : FieldPos := ⟨0, 32⟩
def MAXEXP_LIMIT_LIMIT : FieldPos := ⟨0, 8⟩
def GNORM_LIMIT_LIMIT : FieldPos := ⟨0, 32⟩
def LOSS_ALPHA_VALUE : FieldPos := ⟨0, 32⟩
def LOSS_K2_VALUE : FieldPos := ⟨0, 32⟩
def LOSS_WARMUP_WARMUP : FieldPos := ⟨0, 16⟩
def LOSS_ADDR_ADDR : FieldPos := ⟨0, 48⟩
def LOSS_MEAN_VALUE : FieldPos := ⟨0, 32⟩
def LOSS_VAR_VALUE : FieldPos := ⟨0, 32⟩
def LOSS_N_VALUE : FieldPos := ⟨0, 32⟩
def INFO_ADDR_ADDR : FieldPos := ⟨0, 48⟩
def REC_BASE_ADDR : FieldPos := ⟨0, 48⟩
def REC_CFG_SLOTS : FieldPos := ⟨0, 16⟩
def REC_HEAD_WRAPS : FieldPos := ⟨16, 16⟩
def REC_HEAD_NEXT : FieldPos := ⟨0, 16⟩
def GROUP_SEED_HI : FieldPos := ⟨32, 32⟩
def GROUP_SEED_LO : FieldPos := ⟨0, 32⟩
def STEP_PEN_ID_VALID : FieldPos := ⟨31, 1⟩
def STEP_PEN_ID_PEN : FieldPos := ⟨0, 12⟩
def STEP_QDROP_COUNT : FieldPos := ⟨0, 32⟩
def PLAN_DL_HARD : FieldPos := ⟨32, 32⟩
def PLAN_DL_SOFT : FieldPos := ⟨0, 32⟩
def PLAN_HST_VALID : FieldPos := ⟨31, 1⟩
def PLAN_HST_HID : FieldPos := ⟨0, 6⟩
def STEP_ERR_VALID : FieldPos := ⟨63, 1⟩
def STEP_ERR_DEV : FieldPos := ⟨53, 10⟩
def STEP_ERR_STEP : FieldPos := ⟨16, 37⟩
def STEP_ERR_CODE : FieldPos := ⟨0, 16⟩
def MAXEXP_EXP : FieldPos := ⟨0, 8⟩
def GNORM_VALUE : FieldPos := ⟨0, 32⟩
def DET_CTL_GNORM_EN : FieldPos := ⟨1, 1⟩
def DET_CTL_CNT_CLR : FieldPos := ⟨0, 1⟩
def XCH_CNT0_HELD : FieldPos := ⟨42, 22⟩
def XCH_CNT0_VOID : FieldPos := ⟨21, 21⟩
def XCH_CNT0_LFLAG : FieldPos := ⟨0, 21⟩
def XCH_CNT1_DEFER : FieldPos := ⟨42, 22⟩
def XCH_CNT1_DROP : FieldPos := ⟨21, 21⟩
def XCH_CNT1_SETTLED : FieldPos := ⟨0, 21⟩
def XCH_CHK_CMP : FieldPos := ⟨42, 22⟩
def XCH_CHK_MIS : FieldPos := ⟨21, 21⟩
def XCH_CHK_SKIP : FieldPos := ⟨0, 21⟩
def XCH_CTL_CNT_CLR : FieldPos := ⟨0, 1⟩
def XCH_CFG_MODE : FieldPos := ⟨62, 2⟩
def XCH_CFG_POLICY : FieldPos := ⟨61, 1⟩
def XCH_CFG_H : FieldPos := ⟨56, 4⟩
def XCH_CFG_K_M1 : FieldPos := ⟨52, 4⟩
def XCH_CFG_CHK_LOG2 : FieldPos := ⟨48, 4⟩
def XCH_CFG_STAG : FieldPos := ⟨36, 12⟩
def XCH_CFG_DONE_EN : FieldPos := ⟨35, 1⟩
def XCH_CFG_DONE_PEN : FieldPos := ⟨23, 12⟩
def XCH_LOC_BASE : FieldPos := ⟨0, 48⟩
def XCH_XIN_BASE : FieldPos := ⟨0, 48⟩
def XCH_UPD_BASE : FieldPos := ⟨0, 48⟩
def XCH_HOLD_BASE : FieldPos := ⟨0, 48⟩
def XCH_SUM_BASE : FieldPos := ⟨0, 48⟩
def XCH_FLAG_BASE : FieldPos := ⟨0, 48⟩
def XCH_AGV_BASE : FieldPos := ⟨0, 48⟩
def XCH_AGI_BASE : FieldPos := ⟨0, 48⟩
def RT_CFG_EN : FieldPos := ⟨31, 1⟩
def RT_CFG_NEXP_M1 : FieldPos := ⟨26, 5⟩
def RT_CFG_KSEL_M1 : FieldPos := ⟨23, 3⟩
def RT_CFG_C_LANE_M1 : FieldPos := ⟨15, 8⟩
def RT_CFG_NTOK_M1 : FieldPos := ⟨7, 8⟩
def RT_PEN_OPEN : FieldPos := ⟨6, 6⟩
def RT_PEN_DONE : FieldPos := ⟨0, 6⟩
def RT_WIN_OFFSET : FieldPos := ⟨0, 21⟩
def RT_LIST_OFFSET : FieldPos := ⟨0, 21⟩
def RT_HDR_OFFSET : FieldPos := ⟨0, 21⟩
def RT_CMAP_OFFSET : FieldPos := ⟨0, 21⟩
def RT_STAT_BUSY : FieldPos := ⟨31, 1⟩
def RT_STAT_WRITTEN : FieldPos := ⟨16, 12⟩
def RT_STAT_EPOCH : FieldPos := ⟨0, 16⟩
def RT_CNT_OVF : FieldPos := ⟨32, 32⟩
def RT_CNT_NOCH : FieldPos := ⟨0, 32⟩
def CB_CFG_EN : FieldPos := ⟨31, 1⟩
def CB_CFG_NEXP_M1 : FieldPos := ⟨26, 5⟩
def CB_CFG_C_LANE_M1 : FieldPos := ⟨18, 8⟩
def CB_CFG_ROW_SEC_M1 : FieldPos := ⟨12, 6⟩
def CB_PEN_OPEN : FieldPos := ⟨18, 6⟩
def CB_PEN_CLOSE : FieldPos := ⟨12, 6⟩
def CB_PEN_ARR_B : FieldPos := ⟨6, 6⟩
def CB_PEN_ARR_A : FieldPos := ⟨0, 6⟩
def CB_CRED_CRED_B : FieldPos := ⟨12, 12⟩
def CB_CRED_CRED_A : FieldPos := ⟨0, 12⟩
def CB_HDR_OFFSET : FieldPos := ⟨0, 21⟩
def CB_ROWS_OFFSET : FieldPos := ⟨0, 21⟩
def CB_CNT_DSEC : FieldPos := ⟨32, 32⟩
def CB_CNT_STALE : FieldPos := ⟨0, 32⟩
def CB_ERR_VALID : FieldPos := ⟨63, 1⟩
def CB_ERR_LANE : FieldPos := ⟨32, 6⟩
def CB_ERR_EPOCH : FieldPos := ⟨16, 16⟩
def CB_ERR_CODE : FieldPos := ⟨0, 16⟩
def CB_LANE_S : FieldPos := ⟨0, 32⟩
def EXP_CTL_CNT_CLR : FieldPos := ⟨0, 1⟩
def IMG_CTL_START : FieldPos := ⟨31, 1⟩
def IMG_CTL_PART : FieldPos := ⟨0, 3⟩
def IMG_SRC_ADDR : FieldPos := ⟨0, 48⟩
def IMG_RES_ADDR : FieldPos := ⟨0, 48⟩
def IMG_STAT_STATE : FieldPos := ⟨29, 3⟩
def IMG_STAT_FOLDED : FieldPos := ⟨28, 1⟩
def IMG_STAT_KEY_SLOT : FieldPos := ⟨26, 2⟩
def IMG_STAT_SIGNED : FieldPos := ⟨25, 1⟩
def IMG_STAT_RES_64K : FieldPos := ⟨16, 9⟩
def IMG_STAT_CODE : FieldPos := ⟨0, 16⟩
def IMG_FMT_RANGE_MAJOR_MIN : FieldPos := ⟨24, 8⟩
def IMG_FMT_RANGE_MAJOR_MAX : FieldPos := ⟨16, 8⟩
def IMG_FMT_RANGE_MINOR_MAX : FieldPos := ⟨0, 16⟩
def IMG_RANK_RANK : FieldPos := ⟨0, 10⟩
def IMG_MEAS_MEAS : FieldPos := ⟨0, 64⟩
def PROF_STAT_ACTIVE : FieldPos := ⟨30, 2⟩
def PROF_STAT_PENDING : FieldPos := ⟨29, 1⟩
def PROF_STAT_NEXT : FieldPos := ⟨27, 2⟩
def PROF_STAT_BY_CMD : FieldPos := ⟨26, 1⟩
def PROF_STAT_VALID : FieldPos := ⟨0, 4⟩
def PROF_CMD_GO : FieldPos := ⟨31, 1⟩
def PROF_CMD_SEL : FieldPos := ⟨0, 2⟩
def CFG_ERR_VALID : FieldPos := ⟨31, 1⟩
def CFG_ERR_SRC : FieldPos := ⟨29, 2⟩
def CFG_ERR_CODE : FieldPos := ⟨0, 16⟩
def CFG_ERR_ADDR_ADDR : FieldPos := ⟨0, 48⟩
def CLK_STAT_XA_OK : FieldPos := ⟨31, 1⟩
def CLK_STAT_XB_OK : FieldPos := ⟨30, 1⟩
def CLK_STAT_XA_MODE : FieldPos := ⟨29, 1⟩
def CLK_STAT_XB_MODE : FieldPos := ⟨28, 1⟩
def CLK_STAT_MUSTER_DONE : FieldPos := ⟨27, 1⟩
def CLK_STAT_PLL_LOCK : FieldPos := ⟨0, 16⟩
def CLK_XB_PPM_PPM : FieldPos := ⟨0, 16⟩
def CLK_CFG_GATE_ERR_COMPAT : FieldPos := ⟨0, 1⟩
def CLK_EN_ISL_ISL : FieldPos := ⟨0, 64⟩
def CLK_EN_UNC_PG : FieldPos := ⟨20, 8⟩
def CLK_EN_UNC_REACH : FieldPos := ⟨16, 4⟩
def CLK_EN_UNC_NEAR : FieldPos := ⟨8, 8⟩
def CLK_EN_UNC_ISL_HI : FieldPos := ⟨0, 8⟩
def ISL_CAP_CAP : FieldPos := ⟨0, 32⟩
def CLK_ERR_VALID : FieldPos := ⟨63, 1⟩
def CLK_ERR_UNIT : FieldPos := ⟨32, 4⟩
def CLK_ERR_CODE : FieldPos := ⟨0, 16⟩
def PWR_STAT_STATE : FieldPos := ⟨29, 3⟩
def PWR_STAT_ALLOWED : FieldPos := ⟨26, 3⟩
def PWR_STAT_ENTERING : FieldPos := ⟨25, 1⟩
def PWR_CFG_IDLE_HOLD : FieldPos := ⟨0, 16⟩
def LAT_TOL_NS : FieldPos := ⟨0, 32⟩
def PWR_LIMIT_LIMIT_W : FieldPos := ⟨0, 12⟩
def PWR_MEAS_AVG_10MS : FieldPos := ⟨16, 16⟩
def PWR_MEAS_AVG_1US : FieldPos := ⟨0, 16⟩
def PWR_THROT_THERMAL : FieldPos := ⟨16, 16⟩
def PWR_THROT_LIMIT : FieldPos := ⟨0, 16⟩
def DIE_OPP_OVR : FieldPos := ⟨28, 4⟩
def DIE_OPP_TARGET : FieldPos := ⟨24, 3⟩
def DIE_OPP_SETTLED : FieldPos := ⟨20, 3⟩
def DIE_OPP_CAP : FieldPos := ⟨16, 3⟩
def DIE_OPP_CAP_BY : FieldPos := ⟨14, 2⟩
def DIE_OPP_RAMPING : FieldPos := ⟨13, 1⟩
def DIE_OPP_VCORE_MV : FieldPos := ⟨0, 10⟩
def THERM_CFG_TRIP_C : FieldPos := ⟨8, 8⟩
def THERM_CFG_THROTTLE_C : FieldPos := ⟨0, 8⟩
def THERM_MAX_SENSOR : FieldPos := ⟨16, 7⟩
def THERM_MAX_PEAK_C : FieldPos := ⟨8, 8⟩
def THERM_MAX_TEMP_C : FieldPos := ⟨0, 8⟩
def PH_CFG_PHASES : FieldPos := ⟨8, 5⟩
def PH_CFG_OCP_A : FieldPos := ⟨0, 8⟩
def RAIL_STAT_ON : FieldPos := ⟨31, 1⟩
def RAIL_STAT_PGOOD : FieldPos := ⟨30, 1⟩
def RAIL_STAT_FAULT : FieldPos := ⟨29, 1⟩
def RAIL_STAT_MV : FieldPos := ⟨0, 12⟩
def PWR_ERR_VALID : FieldPos := ⟨63, 1⟩
def PWR_ERR_WHERE : FieldPos := ⟨32, 8⟩
def PWR_ERR_CODE : FieldPos := ⟨0, 16⟩
def PWR_CTL_CNT_CLR : FieldPos := ⟨0, 1⟩
def RST_STAT_STARTED : FieldPos := ⟨31, 1⟩
def RST_STAT_RECOVERY : FieldPos := ⟨30, 1⟩
def RST_STAT_UNTESTED : FieldPos := ⟨29, 1⟩
def RST_STAT_WARM : FieldPos := ⟨28, 1⟩
def RST_STAT_STEP : FieldPos := ⟨24, 4⟩
def RST_STAT_FSC : FieldPos := ⟨22, 2⟩
def RST_STAT_CAUSE : FieldPos := ⟨18, 4⟩
def RST_CMD_WARM : FieldPos := ⟨31, 1⟩
def RST_CMD_CORE_ARRAY : FieldPos := ⟨30, 1⟩
def RST_CMD_PART_RST : FieldPos := ⟨29, 1⟩
def RST_CMD_RESTART : FieldPos := ⟨28, 1⟩
def RST_CMD_BOOT_GO : FieldPos := ⟨27, 1⟩
def RST_CMD_FSC_CLR : FieldPos := ⟨26, 1⟩
def RST_CMD_PART : FieldPos := ⟨0, 3⟩
def RST_CFG_INBAND_EN : FieldPos := ⟨2, 1⟩
def RST_CFG_PERST_SCOPE : FieldPos := ⟨0, 2⟩
def STRAP_A : FieldPos := ⟨24, 8⟩
def STRAP_CODE : FieldPos := ⟨20, 4⟩
def FW_VER_ENC : FieldPos := ⟨48, 16⟩
def FW_VER_SUP : FieldPos := ⟨32, 16⟩
def FW_VER_PWR : FieldPos := ⟨16, 16⟩
def FW_VER_STEPPING : FieldPos := ⟨0, 16⟩
def RST_ERR_VALID : FieldPos := ⟨63, 1⟩
def RST_ERR_STEP : FieldPos := ⟨56, 4⟩
def RST_ERR_CODE : FieldPos := ⟨0, 16⟩
def START_TIME_US : FieldPos := ⟨0, 32⟩
def SEC_STAT_LC : FieldPos := ⟨30, 2⟩
def SEC_STAT_ID_KEY : FieldPos := ⟨29, 1⟩
def SEC_STAT_BURGEE : FieldPos := ⟨28, 1⟩
def SEC_STAT_KEYS : FieldPos := ⟨24, 4⟩
def SEC_STAT_UNTESTED : FieldPos := ⟨23, 1⟩
def SEC_STAT_RET_SCRUB_DONE : FieldPos := ⟨22, 1⟩
def SEC_STAT_VIOL_CNT : FieldPos := ⟨8, 8⟩
def SEC_SERIAL_SERIAL : FieldPos := ⟨0, 64⟩
def SEC_CMD_GO : FieldPos := ⟨31, 1⟩
def SEC_CMD_PART : FieldPos := ⟨4, 3⟩
def SEC_CMD_OP : FieldPos := ⟨0, 4⟩
def SEC_ARG_ADDR : FieldPos := ⟨0, 48⟩
def SEC_CMD_STAT_BUSY : FieldPos := ⟨31, 1⟩
def SEC_CMD_STAT_DONE : FieldPos := ⟨30, 1⟩
def SEC_CMD_STAT_FAIL : FieldPos := ⟨29, 1⟩
def SEC_CMD_STAT_CODE : FieldPos := ⟨0, 16⟩
def SEC_CHAL_CHAL : FieldPos := ⟨0, 64⟩
def SA_STAT_PENDING : FieldPos := ⟨31, 1⟩
def SA_STAT_BUSY : FieldPos := ⟨30, 1⟩
def SA_STAT_DONE : FieldPos := ⟨29, 1⟩
def SA_STAT_PART : FieldPos := ⟨0, 3⟩
def SA_HASH_HASH : FieldPos := ⟨0, 64⟩
def SEC_BURGEE_DATA : FieldPos := ⟨0, 64⟩
def SEC_KEY_PUB_PUB : FieldPos := ⟨0, 64⟩
def SEC_KEY_VALID : FieldPos := ⟨31, 1⟩
def SEC_KEY_ROLE : FieldPos := ⟨0, 3⟩
def SEC_MLOG_MEAS : FieldPos := ⟨0, 64⟩
def DBG_STAT_LEVEL : FieldPos := ⟨30, 2⟩
def DBG_STAT_PART : FieldPos := ⟨27, 3⟩
def DBG_STAT_LOCKED : FieldPos := ⟨26, 1⟩
def DBG_STAT_FAILS : FieldPos := ⟨22, 4⟩
def DBG_CTL_OBSERVE : FieldPos := ⟨31, 1⟩
def DBG_CTL_CLOSE : FieldPos := ⟨30, 1⟩
def DBG_CORE_HALT : FieldPos := ⟨31, 1⟩
def DBG_CORE_STEP : FieldPos := ⟨30, 1⟩
def DBG_CORE_RESUME : FieldPos := ⟨29, 1⟩
def DBG_CORE_STREAM : FieldPos := ⟨28, 1⟩
def DBG_CORE_DONE : FieldPos := ⟨27, 1⟩
def DBG_CORE_CORE : FieldPos := ⟨0, 12⟩
def DBG_ADDR_ADDR : FieldPos := ⟨0, 48⟩
def DBG_DATA_DATA : FieldPos := ⟨0, 32⟩
def DBG_ACC_GO : FieldPos := ⟨31, 1⟩
def DBG_ACC_WRITE : FieldPos := ⟨30, 1⟩
def DBG_ACC_DONE : FieldPos := ⟨29, 1⟩
def DBG_ACC_REFUSED : FieldPos := ⟨28, 1⟩
def DBG_ACC_CODE : FieldPos := ⟨0, 16⟩
def HF_STAT_OPEN : FieldPos := ⟨31, 1⟩
def HF_STAT_FN : FieldPos := ⟨16, 4⟩
def HF_STAT_ABI : FieldPos := ⟨0, 16⟩
def HF_RING_BASE_BASE : FieldPos := ⟨0, 64⟩
def HF_RING_CFG_EN : FieldPos := ⟨31, 1⟩
def HF_RING_CFG_LOG2 : FieldPos := ⟨0, 5⟩
def HF_RING_PROD_INDEX : FieldPos := ⟨0, 16⟩
def HF_RING_CONS_INDEX : FieldPos := ⟨0, 16⟩
def HF_BAR2_BASE_BASE : FieldPos := ⟨0, 48⟩
def HF_ERR_LOST_COUNT : FieldPos := ⟨0, 32⟩
def HOST_ABI_RANGE_MIN : FieldPos := ⟨16, 16⟩
def HOST_ABI_RANGE_MAX : FieldPos := ⟨0, 16⟩
def HOST_BOOT_ID_COUNT : FieldPos := ⟨0, 32⟩
def HOST_DMA_MAP_CH15 : FieldPos := ⟨0, 64⟩
def HOST_LINK_UP : FieldPos := ⟨31, 1⟩
def HOST_LINK_FLIT : FieldPos := ⟨30, 1⟩
def HOST_LINK_RATE : FieldPos := ⟨26, 4⟩
def HOST_LINK_WIDTH : FieldPos := ⟨21, 5⟩
def PART_STAT_STATE : FieldPos := ⟨30, 2⟩
def PART_STAT_VF : FieldPos := ⟨26, 4⟩

end Fld

/-- Registers of chapter 3 (spec/03_tensor_array.md). -/
def regsArray : List RegSpec :=
  [ { name := "ARRAY_CFG", base := 0x30000003000, dims := [(0x10000, 2304)], bytes := 4, owner := .coreUnit, boundary := .none, block := 0x2,
      fields := [⟨0, 2, .rws, 2⟩] },
    { name := "ARRAY_STAT", base := 0x30000003004, dims := [(0x10000, 2304)], bytes := 4, owner := .coreUnit, boundary := .none, block := 0x2,
      fields := [⟨31, 1, .ro, 0⟩, ⟨28, 3, .ro, 0⟩, ⟨0, 24, .ro, 0⟩] },
    { name := "ARRAY_ACT", base := 0x30000003008, dims := [(0x10000, 2304)], bytes := 8, owner := .coreUnit, boundary := .none, block := 0x2,
      fields := [⟨0, 64, .ro, 0⟩] },
    { name := "ARRAY_USEFUL", base := 0x30000003010, dims := [(0x10000, 2304)], bytes := 8, owner := .coreUnit, boundary := .none, block := 0x2,
      fields := [⟨0, 64, .ro, 0⟩] },
    { name := "ARRAY_STALL_FEED", base := 0x30000003018, dims := [(0x10000, 2304)], bytes := 4, owner := .coreUnit, boundary := .none, block := 0x2,
      fields := [⟨0, 32, .ro, 0⟩] },
    { name := "ARRAY_STALL_WIN", base := 0x3000000301c, dims := [(0x10000, 2304)], bytes := 4, owner := .coreUnit, boundary := .none, block := 0x2,
      fields := [⟨0, 32, .ro, 0⟩] },
    { name := "ARRAY_STALL_ACC", base := 0x30000003020, dims := [(0x10000, 2304)], bytes := 4, owner := .coreUnit, boundary := .none, block := 0x2,
      fields := [⟨0, 32, .ro, 0⟩] },
    { name := "ACC_ECC", base := 0x30000003024, dims := [(0x10000, 2304)], bytes := 4, owner := .coreUnit, boundary := .none, block := 0x2,
      fields := [⟨31, 1, .w1c, 0⟩, ⟨0, 16, .ro, 0⟩] },
    { name := "ACC_UE_LOC", base := 0x30000003028, dims := [(0x10000, 2304)], bytes := 4, owner := .coreUnit, boundary := .none, block := 0x2,
      fields := [⟨14, 2, .ro, 0⟩, ⟨8, 5, .ro, 0⟩, ⟨0, 8, .ro, 0⟩] },
    { name := "ARRAY_CTL", base := 0x3000000302c, dims := [(0x10000, 2304)], bytes := 4, owner := .coreUnit, boundary := .none, block := 0x2,
      fields := [⟨0, 1, .wo, 0⟩] } ]

/-- Registers of chapter 4 (spec/04_number_formats.md). -/
def regsNumbers : List RegSpec :=
  [ { name := "NF_POS_INF", base := 0x30000003100, dims := [(0x10000, 2304)], bytes := 4, owner := .coreUnit, boundary := .none, block := 0x2,
      fields := [⟨0, 32, .ro, 0⟩] },
    { name := "NF_NEG_INF", base := 0x30000003104, dims := [(0x10000, 2304)], bytes := 4, owner := .coreUnit, boundary := .none, block := 0x2,
      fields := [⟨0, 32, .ro, 0⟩] },
    { name := "NF_NAN", base := 0x30000003108, dims := [(0x10000, 2304)], bytes := 4, owner := .coreUnit, boundary := .none, block := 0x2,
      fields := [⟨0, 32, .ro, 0⟩] },
    { name := "NF_FIRST", base := 0x3000000310c, dims := [(0x10000, 2304)], bytes := 4, owner := .coreUnit, boundary := .none, block := 0x2,
      fields := [⟨31, 1, .ro, 0⟩, ⟨29, 2, .ro, 0⟩, ⟨26, 3, .ro, 0⟩, ⟨25, 1, .ro, 0⟩, ⟨24, 1, .ro, 0⟩, ⟨0, 11, .ro, 0⟩] },
    { name := "NF_CTL", base := 0x30000003110, dims := [(0x10000, 2304)], bytes := 4, owner := .coreUnit, boundary := .none, block := 0x2,
      fields := [⟨0, 1, .wo, 0⟩] } ]

/-- Registers of chapter 5 (spec/05_mask_evolution.md). -/
def regsMask0 : List RegSpec :=
  [ { name := "CMPR_DROP", base := 0x30000003200, dims := [(0x10000, 2304)], bytes := 4, owner := .coreUnit, boundary := .none, block := 0x2,
      fields := [⟨0, 32, .ro, 0⟩] },
    { name := "CMPR_EXACT_CAP", base := 0x30000003204, dims := [(0x10000, 2304)], bytes := 4, owner := .coreUnit, boundary := .none, block := 0x2,
      fields := [⟨0, 32, .ro, 0⟩] },
    { name := "PRR_SWAPS", base := 0x30000003208, dims := [(0x10000, 2304)], bytes := 4, owner := .coreUnit, boundary := .none, block := 0x2,
      fields := [⟨0, 32, .ro, 0⟩] },
    { name := "PRR_FLIPS", base := 0x3000000320c, dims := [(0x10000, 2304)], bytes := 4, owner := .coreUnit, boundary := .none, block := 0x2,
      fields := [⟨0, 32, .ro, 0⟩] },
    { name := "PRR_STALE", base := 0x30000003210, dims := [(0x10000, 2304)], bytes := 4, owner := .coreUnit, boundary := .none, block := 0x2,
      fields := [⟨0, 32, .ro, 0⟩] },
    { name := "PRR_NAN_CAND", base := 0x30000003214, dims := [(0x10000, 2304)], bytes := 4, owner := .coreUnit, boundary := .none, block := 0x2,
      fields := [⟨0, 32, .ro, 0⟩] },
    { name := "PRED_SKIP", base := 0x30000003218, dims := [(0x10000, 2304)], bytes := 8, owner := .coreUnit, boundary := .none, block := 0x2,
      fields := [⟨0, 64, .ro, 0⟩] },
    { name := "PRED_AUDIT", base := 0x30000003220, dims := [(0x10000, 2304)], bytes := 8, owner := .coreUnit, boundary := .none, block := 0x2,
      fields := [⟨0, 64, .ro, 0⟩] },
    { name := "PRED_MISS", base := 0x30000003228, dims := [(0x10000, 2304)], bytes := 4, owner := .coreUnit, boundary := .none, block := 0x2,
      fields := [⟨0, 32, .ro, 0⟩] },
    { name := "PRED_BAND", base := 0x3000000322c, dims := [(0x10000, 2304)], bytes := 4, owner := .coreUnit, boundary := .none, block := 0x2,
      fields := [⟨16, 16, .ro, 0⟩, ⟨0, 16, .ro, 0⟩] } ]

/-- Registers of chapter 5 (spec/05_mask_evolution.md). -/
def regsMask1 : List RegSpec :=
  [ { name := "PRED_OVER", base := 0x30000003230, dims := [(0x10000, 2304)], bytes := 4, owner := .coreUnit, boundary := .none, block := 0x2,
      fields := [⟨0, 32, .ro, 0⟩] },
    { name := "PRED_STAT", base := 0x30000003234, dims := [(0x10000, 2304)], bytes := 4, owner := .coreUnit, boundary := .none, block := 0x2,
      fields := [⟨31, 1, .ro, 0⟩, ⟨16, 8, .ro, 0⟩, ⟨0, 9, .ro, 0⟩] },
    { name := "MASK_CTL", base := 0x30000003238, dims := [(0x10000, 2304)], bytes := 4, owner := .coreUnit, boundary := .none, block := 0x2,
      fields := [⟨0, 1, .wo, 0⟩] } ]

/-- Registers of chapter 6 (spec/06_core_streams.md). -/
def regsStreams0 : List RegSpec :=
  [ { name := "CORE_CTL", base := 0x30000000000, dims := [(0x10000, 2304)], bytes := 4, owner := .coreUnit, boundary := .none, block := 0x1,
      fields := [⟨2, 1, .wo, 0⟩, ⟨1, 1, .wo, 0⟩, ⟨0, 1, .wo, 0⟩] },
    { name := "QUEUE_STAT", base := 0x30000000008, dims := [(0x10000, 2304)], bytes := 8, owner := .coreUnit, boundary := .none, block := 0x1,
      fields := [⟨44, 8, .ro, 0⟩, ⟨36, 8, .ro, 0⟩, ⟨27, 9, .ro, 0⟩, ⟨18, 9, .ro, 0⟩, ⟨9, 9, .ro, 0⟩, ⟨0, 9, .ro, 0⟩] },
    { name := "STRM_CTL", base := 0x30000000100, dims := [(0x10000, 2304), (0x100, 2)], bytes := 4, owner := .coreUnit, boundary := .none, block := 0x1,
      fields := [⟨0, 1, .rws, 0⟩] },
    { name := "STRM_STAT", base := 0x30000000104, dims := [(0x10000, 2304), (0x100, 2)], bytes := 4, owner := .coreUnit, boundary := .none, block := 0x1,
      fields := [⟨30, 2, .ro, 0⟩, ⟨27, 3, .ro, 0⟩, ⟨23, 4, .ro, 0⟩, ⟨0, 11, .ro, 0⟩] },
    { name := "STRM_ERR", base := 0x30000000108, dims := [(0x10000, 2304), (0x100, 2)], bytes := 4, owner := .coreUnit, boundary := .none, block := 0x1,
      fields := [⟨31, 1, .w1c, 0⟩, ⟨27, 1, .ro, 0⟩, ⟨16, 11, .ro, 0⟩, ⟨0, 16, .ro, 0⟩] },
    { name := "STRM_ERR_DETAIL", base := 0x30000000110, dims := [(0x10000, 2304), (0x100, 2)], bytes := 8, owner := .coreUnit, boundary := .none, block := 0x1,
      fields := [⟨0, 64, .ro, 0⟩] },
    { name := "CNT", base := 0x30000000120, dims := [(0x10000, 2304), (0x100, 2), (0x4, 8)], bytes := 4, owner := .coreUnit, boundary := .none, block := 0x1,
      fields := [⟨0, 32, .rws, 0⟩] },
    { name := "COMP_REF", base := 0x30000000140, dims := [(0x10000, 2304), (0x100, 2), (0x4, 4)], bytes := 4, owner := .coreUnit, boundary := .none, block := 0x1,
      fields := [⟨0, 32, .rws, 0⟩] },
    { name := "COMP_CFG", base := 0x30000000150, dims := [(0x10000, 2304), (0x100, 2)], bytes := 4, owner := .coreUnit, boundary := .none, block := 0x1,
      fields := [⟨21, 3, .rws, 0⟩, ⟨18, 3, .rws, 0⟩, ⟨15, 3, .rws, 0⟩, ⟨12, 3, .rws, 0⟩, ⟨9, 3, .rws, 0⟩, ⟨6, 3, .rws, 0⟩, ⟨3, 3, .rws, 0⟩, ⟨0, 3, .rws, 0⟩] },
    { name := "IMEM_LD_SRC", base := 0x30000000160, dims := [(0x10000, 2304), (0x100, 2)], bytes := 8, owner := .coreUnit, boundary := .none, block := 0x1,
      fields := [⟨0, 48, .rw, 0⟩] } ]

/-- Registers of chapter 6 (spec/06_core_streams.md). -/
def regsStreams1 : List RegSpec :=
  [ { name := "IMEM_LD_CTL", base := 0x30000000168, dims := [(0x10000, 2304), (0x100, 2)], bytes := 4, owner := .coreUnit, boundary := .none, block := 0x1,
      fields := [⟨31, 1, .wo, 0⟩, ⟨27, 2, .rw, 0⟩, ⟨26, 1, .rw, 0⟩, ⟨11, 12, .rw, 0⟩, ⟨0, 11, .rw, 0⟩] },
    { name := "IMEM_LD_STAT", base := 0x3000000016c, dims := [(0x10000, 2304), (0x100, 2)], bytes := 4, owner := .coreUnit, boundary := .none, block := 0x1,
      fields := [⟨3, 1, .ro, 0⟩, ⟨2, 1, .ro, 0⟩, ⟨1, 1, .w1c, 0⟩, ⟨0, 1, .ro, 0⟩] } ]

/-- Registers of chapter 8 (spec/08_scratchpad.md). -/
def regsScratch : List RegSpec :=
  [ { name := "SP_CFG", base := 0x30000003300, dims := [(0x10000, 2304)], bytes := 4, owner := .coreUnit, boundary := .patrolRow, block := 0x8,
      fields := [⟨0, 1, .rwh, 1⟩] },
    { name := "SP_ECC", base := 0x30000003304, dims := [(0x10000, 2304)], bytes := 4, owner := .coreUnit, boundary := .none, block := 0x8,
      fields := [⟨31, 1, .w1c, 0⟩, ⟨28, 3, .ro, 0⟩, ⟨0, 16, .ro, 0⟩] },
    { name := "SP_UE_LOC", base := 0x30000003308, dims := [(0x10000, 2304)], bytes := 4, owner := .coreUnit, boundary := .none, block := 0x8,
      fields := [⟨2, 19, .ro, 0⟩] },
    { name := "SP_CONF", base := 0x30000003310, dims := [(0x10000, 2304), (0x4, 5)], bytes := 4, owner := .coreUnit, boundary := .none, block := 0x8,
      fields := [⟨0, 32, .ro, 0⟩] },
    { name := "SP_PATROL", base := 0x30000003324, dims := [(0x10000, 2304)], bytes := 4, owner := .coreUnit, boundary := .none, block := 0x8,
      fields := [⟨11, 21, .ro, 0⟩, ⟨0, 11, .ro, 0⟩] },
    { name := "SP_SCRUB", base := 0x30000003328, dims := [(0x10000, 2304)], bytes := 4, owner := .coreUnit, boundary := .none, block := 0x8,
      fields := [⟨31, 1, .ro, 0⟩, ⟨30, 1, .ro, 0⟩, ⟨0, 12, .ro, 0⟩] },
    { name := "SP_CTL", base := 0x3000000332c, dims := [(0x10000, 2304)], bytes := 4, owner := .coreUnit, boundary := .none, block := 0x8,
      fields := [⟨0, 1, .wo, 0⟩] } ]

/-- Registers of chapter 9 (spec/09_pennants_and_hoists.md). -/
def regsPennants0 : List RegSpec :=
  [ { name := "PEN_VAL", base := 0x38000000000, dims := [(0x80000, 4), (0x40, 8192)], bytes := 8, owner := .penRecord, boundary := .none, block := 0x10,
      fields := [⟨0, 48, .rws, 0⟩] },
    { name := "PEN_CFG", base := 0x38000000008, dims := [(0x80000, 4), (0x40, 8192)], bytes := 4, owner := .penRecord, boundary := .none, block := 0x10,
      fields := [⟨31, 1, .rws, 0⟩, ⟨28, 3, .rws, 0⟩, ⟨27, 1, .rws, 0⟩] },
    { name := "PEN_WAIT", base := 0x3800000000c, dims := [(0x80000, 4), (0x40, 8192)], bytes := 4, owner := .penRecord, boundary := .none, block := 0x10,
      fields := [⟨0, 13, .ro, 0⟩] },
    { name := "PEN_WAITER", base := 0x38000000010, dims := [(0x80000, 4), (0x40, 8192), (0x4, 8)], bytes := 4, owner := .penRecord, boundary := .none, block := 0x10,
      fields := [⟨31, 1, .ro, 0⟩, ⟨30, 1, .ro, 0⟩, ⟨28, 2, .ro, 0⟩, ⟨0, 12, .ro, 0⟩] },
    { name := "PEN_LAST", base := 0x38000000030, dims := [(0x80000, 4), (0x40, 8192)], bytes := 4, owner := .penRecord, boundary := .none, block := 0x10,
      fields := [⟨31, 1, .ro, 0⟩, ⟨30, 1, .ro, 0⟩, ⟨20, 10, .ro, 0⟩, ⟨19, 1, .ro, 0⟩, ⟨0, 12, .ro, 0⟩] },
    { name := "PEN_TICK", base := 0x38000000038, dims := [(0x80000, 4), (0x40, 8192)], bytes := 8, owner := .penRecord, boundary := .none, block := 0x10,
      fields := [⟨0, 64, .ro, 0⟩] },
    { name := "PEN_XLT", base := 0x38000200000, dims := [(0x4000, 8), (0x4, 4096)], bytes := 4, owner := .xlt, boundary := .none, block := 0x10,
      fields := [⟨31, 1, .rws, 0⟩, ⟨13, 2, .rws, 0⟩, ⟨0, 13, .rws, 0⟩] },
    { name := "LAND", base := 0x38000220000, dims := [(0x4000, 4), (0x8, 2048)], bytes := 8, owner := .land, boundary := .none, block := 0x10,
      fields := [⟨63, 1, .rws, 0⟩, ⟨53, 10, .rws, 0⟩, ⟨41, 12, .rws, 0⟩, ⟨32, 9, .ro, 0⟩, ⟨0, 32, .ro, 0⟩] },
    { name := "PEN_ERR", base := 0x38000300000, dims := [], bytes := 8, owner := .always, boundary := .none, block := 0x10,
      fields := [⟨63, 1, .w1c, 0⟩, ⟨53, 10, .ro, 0⟩, ⟨41, 12, .ro, 0⟩, ⟨40, 1, .ro, 0⟩, ⟨16, 12, .ro, 0⟩, ⟨0, 16, .ro, 0⟩] },
    { name := "PEN_PEND", base := 0x38000300008, dims := [], bytes := 4, owner := .always, boundary := .none, block := 0x10,
      fields := [⟨24, 8, .ro, 0⟩, ⟨16, 8, .ro, 0⟩, ⟨8, 8, .ro, 0⟩, ⟨0, 8, .ro, 0⟩] } ]

/-- Registers of chapter 9 (spec/09_pennants_and_hoists.md). -/
def regsPennants1 : List RegSpec :=
  [ { name := "PEN_HOST_SIG", base := 0x38000300010, dims := [], bytes := 4, owner := .always, boundary := .none, block := 0x10,
      fields := [⟨31, 1, .wo, 0⟩, ⟨28, 3, .wo, 0⟩, ⟨16, 12, .wo, 0⟩, ⟨0, 16, .wo, 0⟩] },
    { name := "LPEN_VAL", base := 0x30000003400, dims := [(0x10000, 2304), (0x10, 64)], bytes := 8, owner := .corePart, boundary := .none, block := 0x10,
      fields := [⟨0, 48, .rws, 0⟩] },
    { name := "LPEN_STAT", base := 0x30000003408, dims := [(0x10000, 2304), (0x10, 64)], bytes := 4, owner := .corePart, boundary := .none, block := 0x10,
      fields := [⟨31, 1, .rws, 0⟩, ⟨30, 1, .ro, 0⟩, ⟨29, 1, .ro, 0⟩, ⟨28, 1, .ro, 0⟩, ⟨27, 1, .ro, 0⟩] },
    { name := "LPEN_TICK", base := 0x3000000340c, dims := [(0x10000, 2304), (0x10, 64)], bytes := 4, owner := .corePart, boundary := .none, block := 0x10,
      fields := [⟨0, 32, .ro, 0⟩] },
    { name := "SEQ", base := 0x30000003800, dims := [(0x10000, 2304), (0x8, 16)], bytes := 8, owner := .corePart, boundary := .none, block := 0x10,
      fields := [⟨63, 1, .rws, 0⟩, ⟨32, 10, .rws, 0⟩, ⟨0, 32, .ro, 0⟩] },
    { name := "HBIND", base := 0x30000003880, dims := [(0x10000, 2304), (0x40, 2), (0x8, 8)], bytes := 8, owner := .corePart, boundary := .none, block := 0x11,
      fields := [⟨63, 1, .rws, 0⟩, ⟨62, 1, .rws, 0⟩, ⟨61, 1, .rws, 0⟩, ⟨53, 8, .rws, 0⟩, ⟨0, 32, .ro, 0⟩] },
    { name := "HST_CFG", base := 0x38000400000, dims := [(0x2000, 4), (0x20, 256)], bytes := 4, owner := .hoistRecord, boundary := .none, block := 0x11,
      fields := [⟨31, 1, .rws, 0⟩, ⟨28, 3, .rws, 0⟩, ⟨27, 1, .rws, 0⟩, ⟨13, 13, .rws, 0⟩, ⟨0, 13, .rws, 0⟩] },
    { name := "XH_CFG", base := 0x38000420000, dims := [(0x20, 64)], bytes := 4, owner := .hoistRecord, boundary := .none, block := 0x11,
      fields := [⟨31, 1, .rws, 0⟩, ⟨28, 3, .rws, 0⟩, ⟨27, 1, .rws, 0⟩, ⟨13, 13, .rws, 0⟩, ⟨0, 13, .rws, 0⟩] },
    { name := "HST_RELEASED", base := 0x38000400004, dims := [(0x2000, 4), (0x20, 256)], bytes := 4, owner := .hoistRecord, boundary := .none, block := 0x11,
      fields := [⟨0, 32, .ro, 0⟩] },
    { name := "XH_RELEASED", base := 0x38000420004, dims := [(0x20, 64)], bytes := 4, owner := .hoistRecord, boundary := .none, block := 0x11,
      fields := [⟨0, 32, .ro, 0⟩] } ]

/-- Registers of chapter 9 (spec/09_pennants_and_hoists.md). -/
def regsPennants2 : List RegSpec :=
  [ { name := "HST_SLOT", base := 0x38000400008, dims := [(0x2000, 4), (0x20, 256), (0x4, 2)], bytes := 4, owner := .hoistRecord, boundary := .none, block := 0x11,
      fields := [⟨31, 1, .ro, 0⟩, ⟨30, 1, .ro, 0⟩, ⟨16, 14, .ro, 0⟩, ⟨0, 14, .ro, 0⟩] },
    { name := "XH_SLOT", base := 0x38000420008, dims := [(0x20, 64), (0x4, 2)], bytes := 4, owner := .hoistRecord, boundary := .none, block := 0x11,
      fields := [⟨31, 1, .ro, 0⟩, ⟨30, 1, .ro, 0⟩, ⟨16, 14, .ro, 0⟩, ⟨0, 14, .ro, 0⟩] },
    { name := "XH_ROOT", base := 0x38000420010, dims := [(0x20, 64), (0x4, 2)], bytes := 4, owner := .hoistRecord, boundary := .none, block := 0x11,
      fields := [⟨31, 1, .ro, 0⟩, ⟨30, 1, .ro, 0⟩, ⟨11, 11, .ro, 0⟩, ⟨0, 11, .ro, 0⟩] },
    { name := "XH_DEVS", base := 0x38000420018, dims := [(0x20, 64)], bytes := 4, owner := .hoistRecord, boundary := .none, block := 0x11,
      fields := [⟨0, 11, .rws, 0⟩] },
    { name := "HST_XLT", base := 0x38000410000, dims := [(0x400, 8), (0x4, 256)], bytes := 4, owner := .hxlt, boundary := .none, block := 0x11,
      fields := [⟨31, 1, .rws, 0⟩, ⟨8, 2, .rws, 0⟩, ⟨0, 8, .rws, 0⟩] } ]

/-- Registers of chapter 10 (spec/10_mesh.md). -/
def regsMesh : List RegSpec :=
  [ { name := "MESH_CFG", base := 0x38004000000, dims := [], bytes := 4, owner := .always, boundary := .window, block := 0x15,
      fields := [⟨12, 12, .rwh, 0x40⟩, ⟨0, 12, .rwh, 0x20⟩] },
    { name := "MESH_ERR", base := 0x38004000008, dims := [], bytes := 8, owner := .always, boundary := .none, block := 0x15,
      fields := [⟨63, 1, .w1c, 0⟩, ⟨61, 2, .ro, 0⟩, ⟨49, 12, .ro, 0⟩, ⟨37, 12, .ro, 0⟩, ⟨0, 16, .ro, 0⟩] },
    { name := "MR_LATE", base := 0x30000003900, dims := [(0x10000, 2304)], bytes := 4, owner := .corePart, boundary := .none, block := 0x9,
      fields := [⟨0, 32, .ro, 0⟩] },
    { name := "MR_CTL", base := 0x30000003904, dims := [(0x10000, 2304)], bytes := 4, owner := .corePart, boundary := .none, block := 0x9,
      fields := [⟨0, 1, .wo, 0⟩] },
    { name := "MR_NEXT", base := 0x30000003a00, dims := [(0x10000, 2304), (0x4, 320)], bytes := 4, owner := .corePart, boundary := .none, block := 0x9,
      fields := [⟨0, 32, .rws, 0xffffffff⟩] },
    { name := "MR_RTAG", base := 0x30000004000, dims := [(0x10000, 2304), (0x8, 64)], bytes := 8, owner := .corePart, boundary := .none, block := 0x9,
      fields := [⟨63, 1, .rws, 0⟩, ⟨61, 2, .rws, 0⟩, ⟨58, 3, .rws, 0⟩, ⟨55, 3, .rws, 0⟩, ⟨52, 3, .rws, 0⟩, ⟨49, 3, .rws, 0⟩, ⟨46, 3, .rws, 0⟩, ⟨43, 3, .rws, 0⟩, ⟨28, 12, .rws, 0⟩, ⟨19, 1, .rws, 0⟩, ⟨16, 3, .rws, 0⟩, ⟨0, 16, .ro, 0⟩] } ]

/-- Registers of chapter 11 (spec/11_memory_tiers.md). -/
def regsTiers0 : List RegSpec :=
  [ { name := "NEAR_STAT", base := 0x38001000000, dims := [(0x100000, 8)], bytes := 4, owner := .near, boundary := .none, block := 0x12,
      fields := [⟨31, 1, .ro, 0⟩, ⟨30, 1, .ro, 0⟩, ⟨28, 2, .ro, 0⟩, ⟨0, 8, .ro, 0⟩] },
    { name := "NEAR_ECC", base := 0x38001000004, dims := [(0x100000, 8)], bytes := 4, owner := .near, boundary := .none, block := 0x12,
      fields := [⟨31, 1, .w1c, 0⟩, ⟨30, 1, .ro, 0⟩, ⟨16, 5, .ro, 0⟩, ⟨0, 16, .ro, 0⟩] },
    { name := "NEAR_UE_ADDR", base := 0x38001000008, dims := [(0x100000, 8)], bytes := 8, owner := .near, boundary := .none, block := 0x12,
      fields := [⟨0, 48, .ro, 0⟩] },
    { name := "NEAR_DIE_CORR", base := 0x38001000010, dims := [(0x100000, 8)], bytes := 4, owner := .near, boundary := .none, block := 0x12,
      fields := [⟨0, 32, .ro, 0⟩] },
    { name := "NEAR_LCR_CAPPED", base := 0x38001000014, dims := [(0x100000, 8)], bytes := 4, owner := .near, boundary := .none, block := 0x12,
      fields := [⟨0, 32, .ro, 0⟩] },
    { name := "NEAR_PATROL", base := 0x38001000018, dims := [(0x100000, 8)], bytes := 4, owner := .near, boundary := .none, block := 0x12,
      fields := [⟨26, 6, .ro, 0⟩, ⟨0, 26, .ro, 0⟩] },
    { name := "NEAR_CTL", base := 0x3800100001c, dims := [(0x100000, 8)], bytes := 4, owner := .near, boundary := .window, block := 0x12,
      fields := [⟨1, 1, .rwh, 1⟩, ⟨0, 1, .wo, 0⟩] },
    { name := "NEAR_MRG_CTL", base := 0x38001000100, dims := [(0x100000, 8)], bytes := 4, owner := .near, boundary := .none, block := 0x12,
      fields := [⟨31, 1, .wo, 0⟩, ⟨29, 2, .rw, 0⟩, ⟨28, 1, .rw, 0⟩, ⟨16, 6, .rw, 0⟩, ⟨0, 5, .rw, 0⟩] },
    { name := "NEAR_MRG_STAT", base := 0x38001000104, dims := [(0x100000, 8)], bytes := 4, owner := .near, boundary := .none, block := 0x12,
      fields := [⟨31, 1, .ro, 0⟩, ⟨30, 1, .w1c, 0⟩, ⟨29, 1, .w1c, 0⟩, ⟨16, 6, .ro, 0⟩, ⟨0, 16, .ro, 0⟩] },
    { name := "NEAR_SET_CFG", base := 0x38001080000, dims := [(0x10, 8)], bytes := 8, owner := .nearSet, boundary := .none, block := 0x12,
      fields := [⟨63, 1, .rws, 0⟩, ⟨60, 3, .rws, 0⟩, ⟨56, 4, .rws, 0⟩, ⟨48, 8, .rws, 0⟩] } ]

/-- Registers of chapter 11 (spec/11_memory_tiers.md). -/
def regsTiers1 : List RegSpec :=
  [ { name := "NEAR_SCRUB", base := 0x38001080008, dims := [(0x10, 8)], bytes := 4, owner := .nearSet, boundary := .none, block := 0x12,
      fields := [⟨31, 1, .ro, 0⟩, ⟨30, 1, .ro, 0⟩, ⟨0, 20, .ro, 0⟩] },
    { name := "NEAR_SET_LIST", base := 0x38001081000, dims := [(0x100, 8), (0x4, 64)], bytes := 4, owner := .nearSet, boundary := .none, block := 0x12,
      fields := [⟨24, 8, .rws, 0⟩, ⟨16, 8, .rws, 0⟩, ⟨8, 8, .rws, 0⟩, ⟨0, 8, .rws, 0⟩] },
    { name := "RCH_STAT", base := 0x38002000000, dims := [(0x100000, 4)], bytes := 4, owner := .reach, boundary := .none, block := 0x13,
      fields := [⟨31, 1, .ro, 0⟩, ⟨30, 1, .ro, 0⟩, ⟨26, 4, .ro, 0⟩, ⟨21, 5, .ro, 0⟩, ⟨0, 10, .ro, 0⟩] },
    { name := "RCH_ECC", base := 0x38002000004, dims := [(0x100000, 4)], bytes := 4, owner := .reach, boundary := .none, block := 0x13,
      fields := [⟨31, 1, .w1c, 0⟩, ⟨29, 2, .ro, 0⟩, ⟨0, 16, .ro, 0⟩] },
    { name := "RCH_UE_ADDR", base := 0x38002000008, dims := [(0x100000, 4)], bytes := 8, owner := .reach, boundary := .none, block := 0x13,
      fields := [⟨0, 48, .ro, 0⟩] },
    { name := "RCH_ARB", base := 0x38002000010, dims := [(0x100000, 4)], bytes := 4, owner := .reach, boundary := .window, block := 0x13,
      fields := [⟨0, 32, .rwh, 0x11111111⟩] },
    { name := "RCH_LCR_CAPPED", base := 0x38002000014, dims := [(0x100000, 4)], bytes := 4, owner := .reach, boundary := .none, block := 0x13,
      fields := [⟨0, 32, .ro, 0⟩] },
    { name := "RCH_CTL", base := 0x38002000018, dims := [(0x100000, 4)], bytes := 4, owner := .reach, boundary := .none, block := 0x13,
      fields := [⟨0, 1, .wo, 0⟩] },
    { name := "RCH_SEG", base := 0x38002000100, dims := [(0x100000, 4), (0x4, 16)], bytes := 4, owner := .rchSeg, boundary := .none, block := 0x13,
      fields := [⟨31, 1, .rws, 0⟩, ⟨28, 3, .rws, 0⟩, ⟨27, 1, .ro, 0⟩, ⟨0, 5, .rws, 0⟩] },
    { name := "RCH_SCRUB", base := 0x38002000200, dims := [(0x100000, 4)], bytes := 4, owner := .reach, boundary := .none, block := 0x13,
      fields := [⟨31, 1, .ro, 0⟩, ⟨30, 1, .ro, 0⟩, ⟨14, 4, .ro, 0⟩, ⟨0, 14, .ro, 0⟩] } ]

/-- Registers of chapter 11 (spec/11_memory_tiers.md). -/
def regsTiers2 : List RegSpec :=
  [ { name := "RCH_MRG_CTL", base := 0x38002000300, dims := [(0x100000, 4)], bytes := 4, owner := .reach, boundary := .none, block := 0x13,
      fields := [⟨31, 1, .wo, 0⟩, ⟨30, 1, .rw, 0⟩, ⟨29, 1, .rw, 0⟩, ⟨28, 1, .rw, 0⟩, ⟨16, 6, .rw, 0⟩, ⟨0, 4, .rw, 0⟩] },
    { name := "RCH_MRG_STAT", base := 0x38002000304, dims := [(0x100000, 4)], bytes := 4, owner := .reach, boundary := .none, block := 0x13,
      fields := [⟨31, 1, .ro, 0⟩, ⟨30, 1, .w1c, 0⟩, ⟨29, 1, .w1c, 0⟩, ⟨16, 6, .ro, 0⟩, ⟨0, 16, .ro, 0⟩] },
    { name := "TIER_LCR", base := 0x30000004400, dims := [(0x10000, 2304), (0x4, 2)], bytes := 4, owner := .coreUnit, boundary := .none, block := 0x1,
      fields := [⟨0, 32, .rw, 0⟩] } ]

/-- Registers of chapter 12 (spec/12_nirlo_links.md). -/
def regsNirlo0 : List RegSpec :=
  [ { name := "NRL_STAT", base := 0x38003000000, dims := [(0x100000, 8), (0x1000, 4)], bytes := 4, owner := .nirlo, boundary := .none, block := 0x14,
      fields := [⟨29, 3, .ro, 0⟩, ⟨27, 2, .ro, 0⟩, ⟨23, 4, .ro, 0⟩, ⟨22, 1, .ro, 0⟩, ⟨10, 12, .ro, 0⟩] },
    { name := "NRL_CAP_PEER", base := 0x38003000008, dims := [(0x100000, 8), (0x1000, 4)], bytes := 8, owner := .nirlo, boundary := .none, block := 0x14,
      fields := [⟨0, 64, .ro, 0⟩] },
    { name := "NRL_FEC_CORR", base := 0x38003000010, dims := [(0x100000, 8), (0x1000, 4)], bytes := 4, owner := .nirlo, boundary := .none, block := 0x14,
      fields := [⟨0, 32, .ro, 0⟩] },
    { name := "NRL_FEC_UNC", base := 0x38003000014, dims := [(0x100000, 8), (0x1000, 4)], bytes := 4, owner := .nirlo, boundary := .none, block := 0x14,
      fields := [⟨0, 32, .ro, 0⟩] },
    { name := "NRL_REPLAY", base := 0x38003000018, dims := [(0x100000, 8), (0x1000, 4)], bytes := 4, owner := .nirlo, boundary := .none, block := 0x14,
      fields := [⟨0, 32, .ro, 0⟩] },
    { name := "NRL_LOST", base := 0x3800300001c, dims := [(0x100000, 8), (0x1000, 4)], bytes := 4, owner := .nirlo, boundary := .none, block := 0x14,
      fields := [⟨0, 32, .ro, 0⟩] },
    { name := "NRL_CRED", base := 0x38003000020, dims := [(0x100000, 8), (0x1000, 4)], bytes := 8, owner := .nirlo, boundary := .none, block := 0x14,
      fields := [⟨30, 10, .ro, 0⟩, ⟨20, 10, .ro, 0⟩, ⟨11, 9, .ro, 0⟩, ⟨0, 7, .ro, 0⟩] },
    { name := "NRL_ERR", base := 0x38003000028, dims := [(0x100000, 8), (0x1000, 4)], bytes := 8, owner := .nirlo, boundary := .none, block := 0x14,
      fields := [⟨63, 1, .w1c, 0⟩, ⟨36, 12, .ro, 0⟩, ⟨16, 20, .ro, 0⟩, ⟨0, 16, .ro, 0⟩] },
    { name := "NRL_CTL", base := 0x38003000030, dims := [(0x100000, 8), (0x1000, 4)], bytes := 4, owner := .nirlo, boundary := .nirloStep, block := 0x14,
      fields := [⟨3, 1, .rw, 1⟩, ⟨2, 1, .rwh, 0⟩, ⟨1, 1, .wo, 0⟩, ⟨0, 1, .wo, 0⟩] },
    { name := "NRL_MRG_CTL", base := 0x38003000100, dims := [(0x100000, 8), (0x1000, 4)], bytes := 4, owner := .nirlo, boundary := .none, block := 0x14,
      fields := [⟨31, 1, .wo, 0⟩, ⟨30, 1, .rw, 0⟩, ⟨29, 1, .rw, 0⟩, ⟨27, 2, .rw, 0⟩, ⟨16, 6, .rw, 0⟩, ⟨0, 3, .rw, 0⟩] } ]

/-- Registers of chapter 12 (spec/12_nirlo_links.md). -/
def regsNirlo1 : List RegSpec :=
  [ { name := "NRL_MRG_STAT", base := 0x38003000104, dims := [(0x100000, 8), (0x1000, 4)], bytes := 4, owner := .nirlo, boundary := .none, block := 0x14,
      fields := [⟨31, 1, .ro, 0⟩, ⟨30, 1, .w1c, 0⟩, ⟨29, 1, .w1c, 0⟩, ⟨16, 6, .ro, 0⟩, ⟨0, 16, .ro, 0⟩] },
    { name := "NRL_CAP_LOCAL", base := 0x38003008000, dims := [(0x100000, 8)], bytes := 8, owner := .nirlo, boundary := .none, block := 0x14,
      fields := [⟨60, 4, .ro, 2⟩, ⟨56, 4, .ro, 1⟩, ⟨44, 12, .ro, 0x7f⟩, ⟨42, 2, .rws, 0⟩, ⟨0, 40, .rws, 0⟩] },
    { name := "NRL_DG_MAP", base := 0x38003008008, dims := [(0x100000, 8)], bytes := 4, owner := .nirlo, boundary := .none, block := 0x14,
      fields := [⟨0, 16, .rws, 0⟩] },
    { name := "NRL_TORUS", base := 0x38003008010, dims := [(0x100000, 8)], bytes := 8, owner := .nirlo, boundary := .none, block := 0x14,
      fields := [⟨33, 11, .rws, 1⟩, ⟨22, 11, .rws, 1⟩, ⟨11, 11, .rws, 1⟩, ⟨0, 11, .rws, 1⟩] },
    { name := "NRL_CH_CNT", base := 0x38003008018, dims := [(0x100000, 8)], bytes := 8, owner := .nirlo, boundary := .none, block := 0x14,
      fields := [⟨42, 22, .ro, 0⟩, ⟨21, 21, .ro, 0⟩, ⟨0, 21, .ro, 0⟩] },
    { name := "NRL_CH_CTL", base := 0x38003008020, dims := [(0x100000, 8)], bytes := 4, owner := .nirlo, boundary := .none, block := 0x14,
      fields := [⟨0, 1, .wo, 0⟩] },
    { name := "NRL_CHAIN", base := 0x38003009000, dims := [(0x100000, 8), (0x10, 64)], bytes := 8, owner := .nirlo, boundary := .nirloStep, block := 0x14,
      fields := [⟨63, 1, .rws, 0⟩, ⟨61, 2, .rws, 0⟩, ⟨59, 2, .rws, 0⟩, ⟨58, 1, .rwh, 0⟩, ⟨46, 12, .rws, 0⟩, ⟨34, 12, .rws, 0⟩, ⟨24, 10, .rws, 0⟩] },
    { name := "NRL_CHAIN_DL", base := 0x38003009008, dims := [(0x100000, 8), (0x10, 64)], bytes := 8, owner := .nirlo, boundary := .nirloStep, block := 0x14,
      fields := [⟨0, 32, .rwh, 0⟩, ⟨32, 24, .rws, 0⟩] } ]

/-- Registers of chapter 13 (spec/13_step_control_and_determinism.md). -/
def regsSteps0 : List RegSpec :=
  [ { name := "STEP_CTL", base := 0x38005000000, dims := [], bytes := 4, owner := .step, boundary := .step, block := 0x16,
      fields := [⟨31, 1, .rwh, 0⟩, ⟨30, 1, .wo, 0⟩, ⟨29, 1, .wo, 0⟩, ⟨27, 2, .ro, 0⟩, ⟨26, 1, .ro, 0⟩] },
    { name := "STEP_STAT", base := 0x38005000004, dims := [], bytes := 4, owner := .step, boundary := .step, block := 0x16,
      fields := [⟨29, 3, .ro, 0⟩, ⟨25, 4, .ro, 0⟩, ⟨24, 1, .ro, 0⟩, ⟨23, 1, .ro, 0⟩, ⟨0, 16, .ro, 0⟩] },
    { name := "STEP_NUM", base := 0x38005000008, dims := [], bytes := 8, owner := .step, boundary := .step, block := 0x16,
      fields := [⟨0, 64, .rws, 0⟩] },
    { name := "TICK", base := 0x38005000010, dims := [], bytes := 8, owner := .step, boundary := .step, block := 0x16,
      fields := [⟨0, 64, .ro, 0⟩] },
    { name := "TICK_SYNC", base := 0x38005000018, dims := [], bytes := 4, owner := .step, boundary := .step, block := 0x16,
      fields := [⟨31, 1, .ro, 0⟩, ⟨8, 10, .ro, 0⟩, ⟨0, 8, .ro, 0⟩] },
    { name := "EVAL_CFG", base := 0x38005000020, dims := [], bytes := 4, owner := .step, boundary := .step, block := 0x16,
      fields := [⟨0, 32, .rwh, 0⟩] },
    { name := "REPEAT_CFG", base := 0x38005000024, dims := [], bytes := 4, owner := .step, boundary := .step, block := 0x16,
      fields := [⟨16, 16, .rwh, 0x1f4⟩, ⟨0, 4, .rwh, 3⟩] },
    { name := "DET_POLICY", base := 0x38005000028, dims := [], bytes := 4, owner := .step, boundary := .step, block := 0x16,
      fields := [⟨6, 2, .rwh, 1⟩, ⟨4, 2, .rwh, 1⟩, ⟨2, 2, .rwh, 1⟩, ⟨0, 2, .rwh, 1⟩] },
    { name := "NF_LIMIT", base := 0x3800500002c, dims := [], bytes := 4, owner := .step, boundary := .step, block := 0x16,
      fields := [⟨0, 32, .rwh, 0⟩] },
    { name := "MAXEXP_LIMIT", base := 0x38005000030, dims := [], bytes := 4, owner := .step, boundary := .step, block := 0x16,
      fields := [⟨0, 8, .rwh, 0xfe⟩] } ]

/-- Registers of chapter 13 (spec/13_step_control_and_determinism.md). -/
def regsSteps1 : List RegSpec :=
  [ { name := "GNORM_LIMIT", base := 0x38005000034, dims := [], bytes := 4, owner := .step, boundary := .step, block := 0x16,
      fields := [⟨0, 32, .rwh, 0x7f800000⟩] },
    { name := "LOSS_ALPHA", base := 0x38005000038, dims := [], bytes := 4, owner := .step, boundary := .step, block := 0x16,
      fields := [⟨0, 32, .rwh, 0x3c800000⟩] },
    { name := "LOSS_K2", base := 0x3800500003c, dims := [], bytes := 4, owner := .step, boundary := .step, block := 0x16,
      fields := [⟨0, 32, .rwh, 0x42100000⟩] },
    { name := "LOSS_WARMUP", base := 0x38005000040, dims := [], bytes := 4, owner := .step, boundary := .step, block := 0x16,
      fields := [⟨0, 16, .rwh, 0x10⟩] },
    { name := "LOSS_ADDR", base := 0x38005000048, dims := [], bytes := 8, owner := .step, boundary := .step, block := 0x16,
      fields := [⟨0, 48, .rws, 0⟩] },
    { name := "LOSS_MEAN", base := 0x38005000050, dims := [], bytes := 4, owner := .step, boundary := .step, block := 0x16,
      fields := [⟨0, 32, .ro, 0⟩] },
    { name := "LOSS_VAR", base := 0x38005000054, dims := [], bytes := 4, owner := .step, boundary := .step, block := 0x16,
      fields := [⟨0, 32, .ro, 0⟩] },
    { name := "LOSS_N", base := 0x38005000058, dims := [], bytes := 4, owner := .step, boundary := .step, block := 0x16,
      fields := [⟨0, 32, .ro, 0⟩] },
    { name := "INFO_ADDR", base := 0x38005000060, dims := [], bytes := 8, owner := .step, boundary := .step, block := 0x16,
      fields := [⟨0, 48, .rws, 0⟩] },
    { name := "REC_BASE", base := 0x38005000068, dims := [], bytes := 8, owner := .step, boundary := .step, block := 0x16,
      fields := [⟨0, 48, .rws, 0⟩] } ]

/-- Registers of chapter 13 (spec/13_step_control_and_determinism.md). -/
def regsSteps2 : List RegSpec :=
  [ { name := "REC_CFG", base := 0x38005000070, dims := [], bytes := 4, owner := .step, boundary := .step, block := 0x16,
      fields := [⟨0, 16, .rws, 0⟩] },
    { name := "REC_HEAD", base := 0x38005000074, dims := [], bytes := 4, owner := .step, boundary := .step, block := 0x16,
      fields := [⟨16, 16, .ro, 0⟩, ⟨0, 16, .ro, 0⟩] },
    { name := "GROUP_SEED", base := 0x38005000078, dims := [], bytes := 8, owner := .step, boundary := .step, block := 0x16,
      fields := [⟨32, 32, .rws, 0⟩, ⟨0, 32, .rws, 0⟩] },
    { name := "STEP_PEN_ID", base := 0x38005000080, dims := [], bytes := 4, owner := .step, boundary := .step, block := 0x16,
      fields := [⟨31, 1, .rws, 0⟩, ⟨0, 12, .rws, 0⟩] },
    { name := "STEP_QDROP", base := 0x38005000084, dims := [], bytes := 4, owner := .step, boundary := .step, block := 0x16,
      fields := [⟨0, 32, .ro, 0⟩] },
    { name := "PLAN_DL", base := 0x38005000100, dims := [(0x10, 6)], bytes := 8, owner := .step, boundary := .step, block := 0x16,
      fields := [⟨32, 32, .rwh, 0xffffffff⟩, ⟨0, 32, .rwh, 0xffffffff⟩] },
    { name := "PLAN_HST", base := 0x38005000108, dims := [(0x10, 6)], bytes := 4, owner := .step, boundary := .step, block := 0x16,
      fields := [⟨31, 1, .rwh, 0⟩, ⟨0, 6, .rwh, 0⟩] },
    { name := "STEP_ERR", base := 0x38005000200, dims := [], bytes := 8, owner := .step, boundary := .step, block := 0x16,
      fields := [⟨63, 1, .w1c, 0⟩, ⟨53, 10, .ro, 0⟩, ⟨16, 37, .ro, 0⟩, ⟨0, 16, .ro, 0⟩] },
    { name := "MAXEXP", base := 0x30000003120, dims := [(0x10000, 2304)], bytes := 4, owner := .coreUnit, boundary := .none, block := 0x2,
      fields := [⟨0, 8, .ro, 0⟩] },
    { name := "GNORM", base := 0x30000003124, dims := [(0x10000, 2304)], bytes := 4, owner := .coreUnit, boundary := .none, block := 0x2,
      fields := [⟨0, 32, .ro, 0⟩] } ]

/-- Registers of chapter 13 (spec/13_step_control_and_determinism.md). -/
def regsSteps3 : List RegSpec :=
  [ { name := "DET_CTL", base := 0x30000003128, dims := [(0x10000, 2304)], bytes := 4, owner := .coreUnit, boundary := .none, block := 0x2,
      fields := [⟨1, 1, .rws, 0⟩, ⟨0, 1, .wo, 0⟩] } ]

/-- Registers of chapter 14 (spec/14_gradient_exchange.md). -/
def regsExchange0 : List RegSpec :=
  [ { name := "XCH_CNT0", base := 0x38003008028, dims := [(0x100000, 8)], bytes := 8, owner := .nirlo, boundary := .none, block := 0x14,
      fields := [⟨42, 22, .ro, 0⟩, ⟨21, 21, .ro, 0⟩, ⟨0, 21, .ro, 0⟩] },
    { name := "XCH_CNT1", base := 0x38003008030, dims := [(0x100000, 8)], bytes := 8, owner := .nirlo, boundary := .none, block := 0x14,
      fields := [⟨42, 22, .ro, 0⟩, ⟨21, 21, .ro, 0⟩, ⟨0, 21, .ro, 0⟩] },
    { name := "XCH_CHK", base := 0x38003008038, dims := [(0x100000, 8)], bytes := 8, owner := .nirlo, boundary := .none, block := 0x14,
      fields := [⟨42, 22, .ro, 0⟩, ⟨21, 21, .ro, 0⟩, ⟨0, 21, .ro, 0⟩] },
    { name := "XCH_CTL", base := 0x38003008040, dims := [(0x100000, 8)], bytes := 4, owner := .nirlo, boundary := .none, block := 0x14,
      fields := [⟨0, 1, .wo, 0⟩] },
    { name := "XCH_CFG", base := 0x3800300a000, dims := [(0x100000, 8), (0x80, 64)], bytes := 8, owner := .nirlo, boundary := .nirloStep, block := 0x14,
      fields := [⟨62, 2, .rws, 0⟩, ⟨61, 1, .rwh, 0⟩, ⟨56, 4, .rws, 0⟩, ⟨52, 4, .rws, 0⟩, ⟨48, 4, .rws, 6⟩, ⟨36, 12, .rws, 0⟩, ⟨35, 1, .rws, 0⟩, ⟨23, 12, .rws, 0⟩] },
    { name := "XCH_LOC", base := 0x3800300a008, dims := [(0x100000, 8), (0x80, 64)], bytes := 8, owner := .nirlo, boundary := .none, block := 0x14,
      fields := [⟨0, 48, .rws, 0⟩] },
    { name := "XCH_XIN", base := 0x3800300a010, dims := [(0x100000, 8), (0x80, 64)], bytes := 8, owner := .nirlo, boundary := .none, block := 0x14,
      fields := [⟨0, 48, .rws, 0⟩] },
    { name := "XCH_UPD", base := 0x3800300a018, dims := [(0x100000, 8), (0x80, 64)], bytes := 8, owner := .nirlo, boundary := .none, block := 0x14,
      fields := [⟨0, 48, .rws, 0⟩] },
    { name := "XCH_HOLD", base := 0x3800300a020, dims := [(0x100000, 8), (0x80, 64)], bytes := 8, owner := .nirlo, boundary := .none, block := 0x14,
      fields := [⟨0, 48, .rws, 0⟩] },
    { name := "XCH_SUM", base := 0x3800300a028, dims := [(0x100000, 8), (0x80, 64)], bytes := 8, owner := .nirlo, boundary := .none, block := 0x14,
      fields := [⟨0, 48, .rws, 0⟩] } ]

/-- Registers of chapter 14 (spec/14_gradient_exchange.md). -/
def regsExchange1 : List RegSpec :=
  [ { name := "XCH_FLAG", base := 0x3800300a030, dims := [(0x100000, 8), (0x80, 64)], bytes := 8, owner := .nirlo, boundary := .none, block := 0x14,
      fields := [⟨0, 48, .rws, 0⟩] },
    { name := "XCH_AGV", base := 0x3800300a038, dims := [(0x100000, 8), (0x80, 64)], bytes := 8, owner := .nirlo, boundary := .none, block := 0x14,
      fields := [⟨0, 48, .rws, 0⟩] },
    { name := "XCH_AGI", base := 0x3800300a040, dims := [(0x100000, 8), (0x80, 64)], bytes := 8, owner := .nirlo, boundary := .none, block := 0x14,
      fields := [⟨0, 48, .rws, 0⟩] } ]

/-- Registers of chapter 15 (spec/15_expert_routing.md). -/
def regsRouting0 : List RegSpec :=
  [ { name := "RT_CFG", base := 0x30000004800, dims := [(0x10000, 2304)], bytes := 4, owner := .corePart, boundary := .none, block := 0x9,
      fields := [⟨31, 1, .rws, 0⟩, ⟨26, 5, .rws, 0⟩, ⟨23, 3, .rws, 0⟩, ⟨15, 8, .rws, 0⟩, ⟨7, 8, .rws, 0⟩] },
    { name := "RT_PEN", base := 0x30000004804, dims := [(0x10000, 2304)], bytes := 4, owner := .corePart, boundary := .none, block := 0x9,
      fields := [⟨6, 6, .rws, 0⟩, ⟨0, 6, .rws, 0⟩] },
    { name := "RT_WIN", base := 0x30000004808, dims := [(0x10000, 2304)], bytes := 4, owner := .corePart, boundary := .none, block := 0x9,
      fields := [⟨0, 21, .rws, 0⟩] },
    { name := "RT_LIST", base := 0x3000000480c, dims := [(0x10000, 2304)], bytes := 4, owner := .corePart, boundary := .none, block := 0x9,
      fields := [⟨0, 21, .rws, 0⟩] },
    { name := "RT_HDR", base := 0x30000004810, dims := [(0x10000, 2304)], bytes := 4, owner := .corePart, boundary := .none, block := 0x9,
      fields := [⟨0, 21, .rws, 0⟩] },
    { name := "RT_CMAP", base := 0x30000004814, dims := [(0x10000, 2304)], bytes := 4, owner := .corePart, boundary := .none, block := 0x9,
      fields := [⟨0, 21, .rws, 0⟩] },
    { name := "RT_STAT", base := 0x30000004818, dims := [(0x10000, 2304)], bytes := 4, owner := .corePart, boundary := .none, block := 0x9,
      fields := [⟨31, 1, .ro, 0⟩, ⟨16, 12, .ro, 0⟩, ⟨0, 16, .ro, 0⟩] },
    { name := "RT_CNT", base := 0x30000004820, dims := [(0x10000, 2304)], bytes := 8, owner := .corePart, boundary := .none, block := 0x9,
      fields := [⟨32, 32, .ro, 0⟩, ⟨0, 32, .ro, 0⟩] },
    { name := "CB_CFG", base := 0x30000004840, dims := [(0x10000, 2304)], bytes := 4, owner := .corePart, boundary := .none, block := 0x9,
      fields := [⟨31, 1, .rws, 0⟩, ⟨26, 5, .rws, 0⟩, ⟨18, 8, .rws, 0⟩, ⟨12, 6, .rws, 0⟩] },
    { name := "CB_PEN", base := 0x30000004844, dims := [(0x10000, 2304)], bytes := 4, owner := .corePart, boundary := .none, block := 0x9,
      fields := [⟨18, 6, .rws, 0⟩, ⟨12, 6, .rws, 0⟩, ⟨6, 6, .rws, 0⟩, ⟨0, 6, .rws, 0⟩] } ]

/-- Registers of chapter 15 (spec/15_expert_routing.md). -/
def regsRouting1 : List RegSpec :=
  [ { name := "CB_CRED", base := 0x30000004848, dims := [(0x10000, 2304)], bytes := 4, owner := .corePart, boundary := .none, block := 0x9,
      fields := [⟨12, 12, .rws, 0⟩, ⟨0, 12, .rws, 0⟩] },
    { name := "CB_HDR", base := 0x3000000484c, dims := [(0x10000, 2304)], bytes := 4, owner := .corePart, boundary := .none, block := 0x9,
      fields := [⟨0, 21, .rws, 0⟩] },
    { name := "CB_ROWS", base := 0x30000004850, dims := [(0x10000, 2304)], bytes := 4, owner := .corePart, boundary := .none, block := 0x9,
      fields := [⟨0, 21, .rws, 0⟩] },
    { name := "CB_CNT", base := 0x30000004858, dims := [(0x10000, 2304)], bytes := 8, owner := .corePart, boundary := .none, block := 0x9,
      fields := [⟨32, 32, .ro, 0⟩, ⟨0, 32, .ro, 0⟩] },
    { name := "CB_ERR", base := 0x30000004860, dims := [(0x10000, 2304)], bytes := 8, owner := .corePart, boundary := .none, block := 0x9,
      fields := [⟨63, 1, .w1c, 0⟩, ⟨32, 6, .ro, 0⟩, ⟨16, 16, .ro, 0⟩, ⟨0, 16, .ro, 0⟩] },
    { name := "CB_LANE", base := 0x30000004880, dims := [(0x10000, 2304), (0x4, 8)], bytes := 4, owner := .corePart, boundary := .none, block := 0x9,
      fields := [⟨0, 32, .ro, 0⟩] },
    { name := "EXP_CTL", base := 0x300000048a0, dims := [(0x10000, 2304)], bytes := 4, owner := .corePart, boundary := .none, block := 0x9,
      fields := [⟨0, 1, .wo, 0⟩] } ]

/-- Registers of chapter 16 (spec/16_fabric_image_and_profiles.md). -/
def regsImage0 : List RegSpec :=
  [ { name := "IMG_CTL", base := 0x38006000000, dims := [], bytes := 4, owner := .image, boundary := .none, block := 0x17,
      fields := [⟨31, 1, .wo, 0⟩, ⟨0, 3, .rwc, 0⟩] },
    { name := "IMG_SRC", base := 0x38006000008, dims := [], bytes := 8, owner := .image, boundary := .none, block := 0x17,
      fields := [⟨0, 48, .rwc, 0⟩] },
    { name := "IMG_RES", base := 0x38006000010, dims := [], bytes := 8, owner := .image, boundary := .none, block := 0x17,
      fields := [⟨0, 48, .rws, 0⟩] },
    { name := "IMG_STAT", base := 0x38006000018, dims := [], bytes := 4, owner := .image, boundary := .none, block := 0x17,
      fields := [⟨29, 3, .ro, 0⟩, ⟨28, 1, .ro, 0⟩, ⟨26, 2, .ro, 0⟩, ⟨25, 1, .ro, 0⟩, ⟨16, 9, .ro, 0⟩, ⟨0, 16, .ro, 0⟩] },
    { name := "IMG_FMT_RANGE", base := 0x3800600001c, dims := [], bytes := 4, owner := .image, boundary := .none, block := 0x17,
      fields := [⟨24, 8, .ro, 2⟩, ⟨16, 8, .ro, 2⟩, ⟨0, 16, .ro, 1⟩] },
    { name := "IMG_RANK", base := 0x38006000020, dims := [], bytes := 4, owner := .image, boundary := .none, block := 0x17,
      fields := [⟨0, 10, .rws, 0⟩] },
    { name := "IMG_MEAS", base := 0x38006000040, dims := [(0x8, 8)], bytes := 8, owner := .image, boundary := .none, block := 0x17,
      fields := [⟨0, 64, .ro, 0⟩] },
    { name := "PROF_STAT", base := 0x38006000080, dims := [], bytes := 4, owner := .image, boundary := .none, block := 0x17,
      fields := [⟨30, 2, .ro, 0⟩, ⟨29, 1, .ro, 0⟩, ⟨27, 2, .ro, 0⟩, ⟨26, 1, .ro, 0⟩, ⟨0, 4, .ro, 0⟩] },
    { name := "PROF_CMD", base := 0x38006000084, dims := [], bytes := 4, owner := .image, boundary := .none, block := 0x17,
      fields := [⟨31, 1, .wo, 0⟩, ⟨0, 2, .wo, 0⟩] },
    { name := "CFG_ERR", base := 0x38006000088, dims := [], bytes := 4, owner := .image, boundary := .none, block := 0x17,
      fields := [⟨31, 1, .w1c, 0⟩, ⟨29, 2, .ro, 0⟩, ⟨0, 16, .ro, 0⟩] } ]

/-- Registers of chapter 16 (spec/16_fabric_image_and_profiles.md). -/
def regsImage1 : List RegSpec :=
  [ { name := "CFG_ERR_ADDR", base := 0x38006000090, dims := [], bytes := 8, owner := .image, boundary := .none, block := 0x17,
      fields := [⟨0, 48, .ro, 0⟩] } ]

/-- Registers of chapter 17 (spec/17_clocks_and_power.md). -/
def regsClock0 : List RegSpec :=
  [ { name := "CLK_STAT", base := 0x38007000000, dims := [], bytes := 4, owner := .always, boundary := .none, block := 0x18,
      fields := [⟨31, 1, .ro, 0⟩, ⟨30, 1, .ro, 0⟩, ⟨29, 1, .ro, 0⟩, ⟨28, 1, .ro, 0⟩, ⟨27, 1, .ro, 0⟩, ⟨0, 16, .ro, 0⟩] },
    { name := "CLK_XB_PPM", base := 0x38007000004, dims := [], bytes := 4, owner := .always, boundary := .none, block := 0x18,
      fields := [⟨0, 16, .ro, 0⟩] },
    { name := "CLK_CFG", base := 0x38007000008, dims := [], bytes := 4, owner := .always, boundary := .none, block := 0x18,
      fields := [⟨0, 1, .rw, 0⟩] },
    { name := "CLK_EN_ISL", base := 0x38007000010, dims := [], bytes := 8, owner := .clkEnIsl, boundary := .none, block := 0x18,
      fields := [⟨0, 64, .rws, 0⟩] },
    { name := "CLK_EN_UNC", base := 0x38007000018, dims := [], bytes := 4, owner := .clkEnUnc, boundary := .none, block := 0x18,
      fields := [⟨20, 8, .rws, 0⟩, ⟨16, 4, .rws, 0⟩, ⟨8, 8, .rws, 0⟩, ⟨0, 8, .rws, 0⟩] },
    { name := "ISL_CAP", base := 0x38007000020, dims := [(0x4, 9)], bytes := 4, owner := .always, boundary := .none, block := 0x18,
      fields := [⟨0, 32, .rw, 0⟩] },
    { name := "CLK_ERR", base := 0x38007000048, dims := [], bytes := 8, owner := .always, boundary := .none, block := 0x18,
      fields := [⟨63, 1, .w1c, 0⟩, ⟨32, 4, .ro, 0⟩, ⟨0, 16, .ro, 0⟩] },
    { name := "PWR_STAT", base := 0x38007100000, dims := [], bytes := 4, owner := .always, boundary := .none, block := 0x19,
      fields := [⟨29, 3, .ro, 0⟩, ⟨26, 3, .ro, 0⟩, ⟨25, 1, .ro, 0⟩] },
    { name := "PWR_CFG", base := 0x38007100004, dims := [], bytes := 4, owner := .always, boundary := .none, block := 0x19,
      fields := [⟨0, 16, .rw, 0xa⟩] },
    { name := "LAT_TOL", base := 0x38007100010, dims := [(0x4, 9)], bytes := 4, owner := .always, boundary := .none, block := 0x19,
      fields := [⟨0, 32, .rw, 0⟩] } ]

/-- Registers of chapter 17 (spec/17_clocks_and_power.md). -/
def regsClock1 : List RegSpec :=
  [ { name := "PWR_LIMIT", base := 0x38007100040, dims := [], bytes := 4, owner := .step, boundary := .step, block := 0x19,
      fields := [⟨0, 12, .rwh, 0⟩] },
    { name := "PWR_MEAS", base := 0x38007100044, dims := [], bytes := 4, owner := .always, boundary := .none, block := 0x19,
      fields := [⟨16, 16, .ro, 0⟩, ⟨0, 16, .ro, 0⟩] },
    { name := "PWR_THROT", base := 0x38007100048, dims := [], bytes := 4, owner := .always, boundary := .none, block := 0x19,
      fields := [⟨16, 16, .ro, 0⟩, ⟨0, 16, .ro, 0⟩] },
    { name := "DIE_OPP", base := 0x38007100050, dims := [(0x4, 4)], bytes := 4, owner := .always, boundary := .pattern, block := 0x19,
      fields := [⟨28, 4, .rwh, 0⟩, ⟨24, 3, .ro, 0⟩, ⟨20, 3, .ro, 0⟩, ⟨16, 3, .ro, 7⟩, ⟨14, 2, .ro, 0⟩, ⟨13, 1, .ro, 0⟩, ⟨0, 10, .ro, 0⟩] },
    { name := "THERM_CFG", base := 0x38007100060, dims := [], bytes := 4, owner := .always, boundary := .none, block := 0x19,
      fields := [⟨8, 8, .ro, 0x78⟩, ⟨0, 8, .rw, 0x64⟩] },
    { name := "THERM_MAX", base := 0x38007100064, dims := [], bytes := 4, owner := .always, boundary := .none, block := 0x19,
      fields := [⟨16, 7, .ro, 0⟩, ⟨8, 8, .ro, 0⟩, ⟨0, 8, .ro, 0⟩] },
    { name := "PH_CFG", base := 0x38007100070, dims := [(0x4, 4)], bytes := 4, owner := .always, boundary := .none, block := 0x19,
      fields := [⟨8, 5, .rws, 0⟩, ⟨0, 8, .rws, 0x3c⟩] },
    { name := "RAIL_STAT", base := 0x38007100090, dims := [(0x4, 10)], bytes := 4, owner := .always, boundary := .none, block := 0x19,
      fields := [⟨31, 1, .ro, 0⟩, ⟨30, 1, .ro, 0⟩, ⟨29, 1, .ro, 0⟩, ⟨0, 12, .ro, 0⟩] },
    { name := "PWR_ERR", base := 0x380071000c0, dims := [], bytes := 8, owner := .always, boundary := .none, block := 0x19,
      fields := [⟨63, 1, .w1c, 0⟩, ⟨32, 8, .ro, 0⟩, ⟨0, 16, .ro, 0⟩] },
    { name := "PWR_CTL", base := 0x380071000c8, dims := [], bytes := 4, owner := .always, boundary := .none, block := 0x19,
      fields := [⟨0, 1, .wo, 0⟩] } ]

/-- Registers of chapter 18 (spec/18_reset_and_start.md). -/
def regsStart : List RegSpec :=
  [ { name := "RST_STAT", base := 0x38007200000, dims := [], bytes := 4, owner := .always, boundary := .none, block := 0x1a,
      fields := [⟨31, 1, .ro, 0⟩, ⟨30, 1, .ro, 0⟩, ⟨29, 1, .ro, 0⟩, ⟨28, 1, .ro, 0⟩, ⟨24, 4, .ro, 0⟩, ⟨22, 2, .ro, 0⟩, ⟨18, 4, .ro, 0⟩] },
    { name := "RST_CMD", base := 0x38007200004, dims := [], bytes := 4, owner := .always, boundary := .none, block := 0x1a,
      fields := [⟨31, 1, .wo, 0⟩, ⟨30, 1, .wo, 0⟩, ⟨29, 1, .wo, 0⟩, ⟨28, 1, .wo, 0⟩, ⟨27, 1, .wo, 0⟩, ⟨26, 1, .wo, 0⟩, ⟨0, 3, .wo, 0⟩] },
    { name := "RST_CFG", base := 0x38007200008, dims := [], bytes := 4, owner := .always, boundary := .none, block := 0x1a,
      fields := [⟨2, 1, .rw, 0⟩, ⟨0, 2, .rw, 0⟩] },
    { name := "STRAP", base := 0x3800720000c, dims := [], bytes := 4, owner := .always, boundary := .none, block := 0x1a,
      fields := [⟨24, 8, .ro, 0⟩, ⟨20, 4, .ro, 0⟩] },
    { name := "FW_VER", base := 0x38007200010, dims := [], bytes := 8, owner := .always, boundary := .none, block := 0x1a,
      fields := [⟨48, 16, .ro, 0⟩, ⟨32, 16, .ro, 0⟩, ⟨16, 16, .ro, 0⟩, ⟨0, 16, .ro, 0xa1⟩] },
    { name := "RST_ERR", base := 0x38007200018, dims := [], bytes := 8, owner := .always, boundary := .none, block := 0x1a,
      fields := [⟨63, 1, .w1c, 0⟩, ⟨56, 4, .ro, 0⟩, ⟨0, 16, .ro, 0⟩] },
    { name := "START_TIME", base := 0x38007200020, dims := [], bytes := 4, owner := .always, boundary := .none, block := 0x1a,
      fields := [⟨0, 32, .ro, 0⟩] } ]

/-- Registers of chapter 19 (spec/19_security_and_debug.md). -/
def regsSecurity0 : List RegSpec :=
  [ { name := "SEC_STAT", base := 0x38008000000, dims := [], bytes := 4, owner := .always, boundary := .none, block := 0x1b,
      fields := [⟨30, 2, .ro, 0⟩, ⟨29, 1, .ro, 0⟩, ⟨28, 1, .ro, 0⟩, ⟨24, 4, .ro, 0⟩, ⟨23, 1, .ro, 0⟩, ⟨22, 1, .ro, 0⟩, ⟨8, 8, .ro, 0⟩] },
    { name := "SEC_SERIAL", base := 0x38008000008, dims := [(0x8, 2)], bytes := 8, owner := .always, boundary := .none, block := 0x1b,
      fields := [⟨0, 64, .ro, 0⟩] },
    { name := "SEC_CMD", base := 0x38008000020, dims := [], bytes := 4, owner := .always, boundary := .none, block := 0x1b,
      fields := [⟨31, 1, .wo, 0⟩, ⟨4, 3, .rw, 0⟩, ⟨0, 4, .rw, 0⟩] },
    { name := "SEC_ARG", base := 0x38008000028, dims := [], bytes := 8, owner := .always, boundary := .none, block := 0x1b,
      fields := [⟨0, 48, .rw, 0⟩] },
    { name := "SEC_CMD_STAT", base := 0x38008000030, dims := [], bytes := 4, owner := .always, boundary := .none, block := 0x1b,
      fields := [⟨31, 1, .ro, 0⟩, ⟨30, 1, .w1c, 0⟩, ⟨29, 1, .w1c, 0⟩, ⟨0, 16, .ro, 0⟩] },
    { name := "SEC_CHAL", base := 0x38008000040, dims := [(0x8, 4)], bytes := 8, owner := .always, boundary := .none, block := 0x1b,
      fields := [⟨0, 64, .ro, 0⟩] },
    { name := "SA_STAT", base := 0x38008000060, dims := [], bytes := 4, owner := .always, boundary := .none, block := 0x1b,
      fields := [⟨31, 1, .ro, 0⟩, ⟨30, 1, .ro, 0⟩, ⟨29, 1, .w1c, 0⟩, ⟨0, 3, .ro, 0⟩] },
    { name := "SA_HASH", base := 0x38008000080, dims := [(0x8, 8)], bytes := 8, owner := .always, boundary := .none, block := 0x1b,
      fields := [⟨0, 64, .ro, 0⟩] },
    { name := "SEC_BURGEE", base := 0x38008001000, dims := [(0x8, 24)], bytes := 8, owner := .always, boundary := .none, block := 0x1b,
      fields := [⟨0, 64, .ro, 0⟩] },
    { name := "SEC_KEY_PUB", base := 0x38008001100, dims := [(0x40, 4), (0x8, 4)], bytes := 8, owner := .always, boundary := .none, block := 0x1b,
      fields := [⟨0, 64, .ro, 0⟩] } ]

/-- Registers of chapter 19 (spec/19_security_and_debug.md). -/
def regsSecurity1 : List RegSpec :=
  [ { name := "SEC_KEY", base := 0x38008001120, dims := [(0x40, 4)], bytes := 4, owner := .always, boundary := .none, block := 0x1b,
      fields := [⟨31, 1, .ro, 0⟩, ⟨0, 3, .ro, 0⟩] },
    { name := "SEC_MLOG", base := 0x38008001200, dims := [(0x40, 14), (0x8, 8)], bytes := 8, owner := .always, boundary := .none, block := 0x1b,
      fields := [⟨0, 64, .ro, 0⟩] },
    { name := "DBG_STAT", base := 0x38009000000, dims := [], bytes := 4, owner := .always, boundary := .none, block := 0x1c,
      fields := [⟨30, 2, .ro, 0⟩, ⟨27, 3, .ro, 0⟩, ⟨26, 1, .ro, 0⟩, ⟨22, 4, .ro, 0⟩] },
    { name := "DBG_CTL", base := 0x38009000004, dims := [], bytes := 4, owner := .always, boundary := .none, block := 0x1c,
      fields := [⟨31, 1, .wo, 0⟩, ⟨30, 1, .wo, 0⟩] },
    { name := "DBG_CORE", base := 0x38009000010, dims := [], bytes := 4, owner := .always, boundary := .none, block := 0x1c,
      fields := [⟨31, 1, .wo, 0⟩, ⟨30, 1, .wo, 0⟩, ⟨29, 1, .wo, 0⟩, ⟨28, 1, .rw, 0⟩, ⟨27, 1, .ro, 0⟩, ⟨0, 12, .rw, 0⟩] },
    { name := "DBG_ADDR", base := 0x38009000018, dims := [], bytes := 8, owner := .always, boundary := .none, block := 0x1c,
      fields := [⟨0, 48, .rw, 0⟩] },
    { name := "DBG_DATA", base := 0x38009000020, dims := [], bytes := 4, owner := .always, boundary := .none, block := 0x1c,
      fields := [⟨0, 32, .rw, 0⟩] },
    { name := "DBG_ACC", base := 0x38009000024, dims := [], bytes := 4, owner := .always, boundary := .none, block := 0x1c,
      fields := [⟨31, 1, .wo, 0⟩, ⟨30, 1, .rw, 0⟩, ⟨29, 1, .ro, 0⟩, ⟨28, 1, .w1c, 0⟩, ⟨0, 16, .ro, 0⟩] } ]

/-- Registers of chapter 20 (spec/20_host_interface.md). -/
def regsHostIf0 : List RegSpec :=
  [ { name := "HF_STAT", base := 0x3800a010000, dims := [(0x10000, 9)], bytes := 4, owner := .always, boundary := .none, block := 0x1d,
      fields := [⟨31, 1, .ro, 0⟩, ⟨16, 4, .ro, 0⟩, ⟨0, 16, .ro, 0⟩] },
    { name := "HF_RING_BASE", base := 0x3800a010100, dims := [(0x10000, 9), (0x20, 3)], bytes := 8, owner := .always, boundary := .none, block := 0x1d,
      fields := [⟨0, 64, .rw, 0⟩] },
    { name := "HF_RING_CFG", base := 0x3800a010108, dims := [(0x10000, 9), (0x20, 3)], bytes := 4, owner := .always, boundary := .none, block := 0x1d,
      fields := [⟨31, 1, .rw, 0⟩, ⟨0, 5, .rw, 4⟩] },
    { name := "HF_RING_PROD", base := 0x3800a01010c, dims := [(0x10000, 9), (0x20, 3)], bytes := 4, owner := .always, boundary := .none, block := 0x1d,
      fields := [⟨0, 16, .rw, 0⟩] },
    { name := "HF_RING_CONS", base := 0x3800a010110, dims := [(0x10000, 9), (0x20, 3)], bytes := 4, owner := .always, boundary := .none, block := 0x1d,
      fields := [⟨0, 16, .rw, 0⟩] },
    { name := "HF_BAR2_BASE", base := 0x3800a010200, dims := [(0x10000, 9)], bytes := 8, owner := .always, boundary := .none, block := 0x1d,
      fields := [⟨0, 48, .rw, 0⟩] },
    { name := "HF_ERR_LOST", base := 0x3800a010208, dims := [(0x10000, 9)], bytes := 4, owner := .always, boundary := .none, block := 0x1d,
      fields := [⟨0, 32, .ro, 0⟩] },
    { name := "HOST_ABI_RANGE", base := 0x3800a0f0000, dims := [], bytes := 4, owner := .always, boundary := .none, block := 0x1d,
      fields := [⟨16, 16, .ro, 0x100⟩, ⟨0, 16, .ro, 0x202⟩] },
    { name := "HOST_BOOT_ID", base := 0x3800a0f0004, dims := [], bytes := 4, owner := .always, boundary := .none, block := 0x1d,
      fields := [⟨0, 32, .ro, 0⟩] },
    { name := "HOST_DMA_MAP", base := 0x3800a0f0008, dims := [], bytes := 8, owner := .dmaMap, boundary := .dmaIdle, block := 0x1d,
      fields := [⟨0, 64, .rwh, 0⟩] } ]

/-- Registers of chapter 20 (spec/20_host_interface.md). -/
def regsHostIf1 : List RegSpec :=
  [ { name := "HOST_LINK", base := 0x3800a0f0010, dims := [], bytes := 4, owner := .always, boundary := .none, block := 0x1d,
      fields := [⟨31, 1, .ro, 0⟩, ⟨30, 1, .ro, 0⟩, ⟨26, 4, .ro, 0⟩, ⟨21, 5, .ro, 0⟩] },
    { name := "PART_STAT", base := 0x3800a0f0100, dims := [(0x4, 8)], bytes := 4, owner := .always, boundary := .none, block := 0x1d,
      fields := [⟨30, 2, .ro, 0⟩, ⟨26, 4, .ro, 0⟩] } ]

/-- Every register of the part. -/
def regTable : List RegSpec :=
  regsArray ++ regsNumbers ++ regsMask0 ++ regsMask1 ++ regsStreams0 ++ regsStreams1 ++ regsScratch ++ regsPennants0 ++ regsPennants1 ++ regsPennants2 ++ regsMesh ++ regsTiers0 ++ regsTiers1 ++ regsTiers2 ++ regsNirlo0 ++ regsNirlo1 ++ regsSteps0 ++ regsSteps1 ++ regsSteps2 ++ regsSteps3 ++ regsExchange0 ++ regsExchange1 ++ regsRouting0 ++ regsRouting1 ++ regsImage0 ++ regsImage1 ++ regsClock0 ++ regsClock1 ++ regsStart ++ regsSecurity0 ++ regsSecurity1 ++ regsHostIf0 ++ regsHostIf1

end Sys2Proof.Machine
end

