-- ==== Sys2Proof/Machine/State.lean ====
section
/-! DEFINITION. The state of one device: every register (a sparse map over device addresses), every memory, the cores
with their streams, queues and units, what is in flight, the tables of the banks, the ports and controllers, and the
queue of commands that wait. All plain data. Register contents live in `regs`; the structures below hold what the
spec gives the machine beside its registers. -/

namespace Sys2Proof.Machine

/-- No command of this block ends in a fault: the spec gives every event an effect (an error is recorded in registers,
and a core that halts is a state, R149). Raised by nobody. DEDUCED: log entry 103. -/
inductive Fault where
  deriving DecidableEq, Repr

/-- The one refusal. DEDUCED: log entry 103. -/
inductive Refusal where
  /-- A command whose meaning has not been written: raised by an arm of `exec` only. Safe: the model stops. -/
  | notModelled (mnemonic : String)
  deriving DecidableEq, Repr

/-- A sparse map: keys strictly rising, an unlisted key reads as the map's own default. -/
abbrev SMap (α : Type) := List (Nat × α)

/-- Memory as (address, byte) cells in one canonical form: addresses strictly rising, no cell equal to 0. -/
abbrev Mem := List Host.Cell

/-- An address descriptor after decoding (R151): base, counts and signed byte steps, dimension 0 first. -/
structure Desc where
  base : Nat
  c0 : Nat
  c1 : Nat
  c2 : Nat
  c3 : Nat
  s0 : Int
  s1 : Int
  s2 : Int
  s3 : Int
  /-- Tier reads through it are latency-critical (R221). -/
  lcr : Bool := false
  deriving DecidableEq, Repr

/-- A span of the ordering rules (R122, R69): lowest and highest byte, in device addresses; accumulator columns are
named past the device address space (`accSpan`). -/
structure Span where
  lo : Nat
  hi : Nat
  deriving DecidableEq, Repr

/-- A hardware loop that is open (R142): index of the first body instruction, index of its ENDL, iterations left,
index counter (0 none). -/
structure LoopFrame where
  first : Nat
  endIdx : Nat
  left : Nat
  ctr : Nat
  deriving DecidableEq, Repr

/-- One occupied sector of a queue (R124): reserved for load group `gid`, or filled. -/
inductive QSlot where
  | reserved (gid : Nat)
  | filled (d : Sector)
  deriving DecidableEq, Repr

/-- A group of source sectors of LDQ or LDX whose elements fill whole queue sectors (R155): its queue, the formats, how
many source sectors carry elements, how many elements, the sectors delivered so far by position. Positions from `nData`
on are scale sectors; `scaleAt` gives for each 32-element block the scale sector's position and byte. -/
structure LoadGroup where
  gid : Nat
  /-- The instruction it belongs to, and where that stands (R95). -/
  iid : Nat
  bank : Nat
  index : Nat
  q : Nat
  sfmt : Nat
  qfmt : Nat
  nData : Nat
  nElem : Nat
  nOut : Nat
  nSrc : Nat
  scaleAt : List (Nat × Nat)
  got : SMap Sector
  deriving DecidableEq, Repr

/-- Which move an access stream is issuing piece by piece: SEND from a queue or along a descriptor, FILL and COPY that
reach outside the core's scratchpad (R175). -/
inductive MoveKind where
  | ldq | ldx | stq | sendq | send | fill | copy
  deriving DecidableEq, Repr

/-- A move that has issued some of its sector requests and waits for queue space or data (R121, R125). -/
structure Move where
  kind : MoveKind
  iid : Nat
  bank : Nat
  index : Nat
  q : Nat
  sfmt : Nat
  qfmt : Nat
  /-- Source (LDQ, SEND), region (LDX) or destination (STQ, FILL, COPY) descriptor. -/
  desc : Desc
  /-- Scale or exponent descriptor (LDQ), index descriptor (LDX), source (COPY). -/
  sdesc : Option Desc
  /-- Sectors of the sequence it walks: the next one, and their number. -/
  pos : Nat
  total : Nat
  /-- The index sector that LDX read last, and its number (R158); the sector that FILL writes. -/
  index1 : Option (Nat × Sector)
  value : Sector
  /-- Destination address and rank, channel and tag (SEND). -/
  dst : Nat
  dev : Nat
  vc : Nat
  rtag : Nat
  deriving DecidableEq, Repr

/-- Why a stream does not take its next instruction. -/
inductive Hold where
  | free
  /-- The instruction (opcode, body) has not issued; it is tried again when something changes. -/
  | issue (op : Nat) (w : Body)
  /-- A move that has issued in part. -/
  | move (m : Move)
  /-- Its signal, instruction `iid`, is on the way to a shared bank of this device (R184). -/
  | signal (iid : Nat)
  /-- A waiter, registered or on its way to the bank (R185). -/
  | pennant
  /-- Waits for the release of its arrival at a hoist, for that round (R195). -/
  | hoist (key round : Nat)
  deriving DecidableEq, Repr

/-- An instruction-memory load in progress (R145), as its START described it. -/
structure LoadJob where
  src : Nat
  target : Nat
  bank : Nat
  count : Nat
  first : Nat
  deriving DecidableEq, Repr

/-- What one stream holds beside its registers. -/
structure StreamState where
  /-- Instructions, pointer entries, descriptors; key bank × table size + index (R128). -/
  imem : SMap (BitVec 128)
  ptrs : SMap (BitVec 64)
  descs : SMap Sector
  load : Option LoadJob
  /-- Open loops, innermost first (R142). -/
  loops : List LoopFrame
  hold : Hold
  /-- The stream has issued index 2,047 and not branched back (R143). -/
  pastEnd : Bool
  /-- A stop takes effect at the next instruction boundary (R150, R149), leaving this state. -/
  stopReq : Option Nat
  /-- DBG_CORE.STEP lets exactly one instruction through (R386). -/
  stepping : Bool
  deriving DecidableEq, Repr

/-- One window's entries in order row × 32 + slot: codes, value patterns, and each row's block exponent (R44). -/
structure Window where
  codes : List Nat
  vals : List Nat
  exps : List Nat
  deriving DecidableEq, Repr

/-- One strip-column of a row map (R115): compute and audit masks, and whether it is computed. -/
structure PredCol where
  compute : Word32
  audit : Word32
  computed : Bool
  deriving DecidableEq, Repr

/-- The armed PRED row map (R115, R116): first strip, T, activity threshold, column slots per window, and for each strip
whether it is still armed with its columns in ascending order. -/
structure PredMap where
  strip0 : Nat
  t : Nat
  actThr : Nat
  slots : Nat
  strips : List (Bool × List PredCol)
  deriving DecidableEq, Repr

/-- An instruction in an execute unit, its operands resolved at issue. An array instruction runs in parts: the sets of MMF
and MMT, the windows of MMO and SCAN, the strips of PRR. -/
structure Job where
  iid : Nat
  op : Nat
  body : Body
  index : Nat
  bank : Nat
  /-- C0–C7 at issue (R129). -/
  ctrs : List Nat
  /-- Resolved descriptors and pointers, in the order the instruction's meaning names them. -/
  descs : List Desc
  ptrs : List Nat
  reads : List Span
  writes : List Span
  /-- Queues it takes from. -/
  queues : List Nat
  started : Bool
  /-- Strip headers read so far, and the error (code, detail) that ends it once its results have left. -/
  hdrs : List Sector
  fail : Option (Nat × Nat)
  /-- Parts behind it: sets of MMF, strips loaded by MMT, windows of MMO and SCAN, strips of PRR. -/
  part : Nat
  /-- A window of MMO stands in the write-out buffer, not yet written (R58); the header of a strip that PRR has rewritten is
  not yet written (R104). -/
  drain : Bool
  /-- Candidates that SCAN has passed to the top-k unit (R99); swaps of the strip that PRR flips (R104). -/
  cands : List (Nat × Nat)
  /-- MMF runs in predicted mode (R116): activity threshold and columns of its strip. -/
  pred : Option (Nat × List PredCol)
  /-- Queue sectors still to take, in order: queue and count. -/
  takes : List (Nat × Nat)
  /-- Sectors taken, newest first, and the queues they came from. -/
  got : List Sector
  took : List Nat
  /-- The results stand; sectors for a return queue may still wait for space. -/
  computed : Bool
  outs : List (Nat × Sector)
  deriving DecidableEq, Repr

/-- One execute unit (R121): the instruction it runs and the one it holds. -/
structure UnitState where
  run : Option Job
  wait : Option Job
  deriving DecidableEq, Repr

/-- Spans of an access-stream instruction that has not completed (R122, R123). -/
structure Flight where
  iid : Nat
  /-- Where the instruction stands (R149). -/
  index : Nat
  bank : Nat
  reads : List Span
  writes : List Span
  deriving DecidableEq, Repr

/-- Whose accesses a core makes: those of an instruction that a stream tries to issue, or of one that has issued. -/
inductive FeedKey where
  | issue (t : Strm)
  | job (iid : Nat)
  deriving DecidableEq, Repr

/-- What has become of a sector outside the core's scratchpad that a unit asked for (R176); or that a corrected word of the
own scratchpad or accumulator has been counted (R177, R68). -/
inductive FeedData where
  | asked
  | data (d : Sector)
  | bad (code detail : Nat)
  | counted
  deriving DecidableEq, Repr

/-- A sector that a unit asked for, or a word it has counted, by address. -/
structure Feed where
  key : FeedKey
  addr : Nat
  data : FeedData
  deriving DecidableEq, Repr

/-- What the fill and copy engine runs (R175): the instruction and where it stands, the source of a COPY, the destination,
the sector a FILL writes, sectors written so far. -/
structure EngineJob where
  iid : Nat
  index : Nat
  bank : Nat
  src : Option Desc
  dst : Desc
  value : Sector
  pos : Nat
  deriving DecidableEq, Repr

/-- What the route and combine units of a core hold (R302–R309). -/
structure RouteState where
  /-- Entries of the build that collects, by number. -/
  entries : SMap Word32
  /-- A build is being processed, and the bytes it writes, by scratchpad offset. -/
  busy : Bool
  writes : List (Nat × List Byte)
  /-- Sectors that wait to be taken: those in the route window, and those in the combine unit's slots and rows, each as
  scratchpad offset, data and byte enables, oldest first. -/
  winq : List (Nat × Sector × Word32)
  combq : List (Nat × Sector × Word32)
  /-- Of a lane that receives, discards or has landed: its epoch, and row sectors so far. -/
  lanes : SMap (Nat × Nat)
  /-- OPEN - CLOSE exceeds 32,768, and that has been logged. -/
  span : Bool
  deriving DecidableEq, Repr

/-- What one core holds beside its registers and scratchpad. -/
structure Core where
  a : StreamState
  e : StreamState
  /-- Accumulator file, key row × 256 + column (R68). -/
  acc : SMap Word32
  /-- Side tags of columns (R160). -/
  side : SMap Bool
  /-- Slot accumulators, key row × 32 + slot (R57). -/
  slots : SMap Word32
  /-- MMO write-out buffer (R58). -/
  wout : SMap Word32
  /-- Window registers of the array (R45): the set being streamed and the set being loaded, up to four windows each. -/
  winRun : List Window
  winLoad : List Window
  /-- Uncorrectable words, and words with one wrong bit (R68): accumulator file, slot accumulators, write-out buffer (key
  file × 2^20 + index). -/
  accUe : List Nat
  accWeak : List Nat
  /-- Queues QA0–QA3, QR0, QR1 by number 0–5, oldest sector first. -/
  queues : SMap (List QSlot)
  groups : List LoadGroup
  flights : List Flight
  /-- Units by number: 0 array, 1 vector, 2 top-k, 3 compressor, 4 store. -/
  units : SMap UnitState
  engine : Option EngineJob
  /-- Sectors asked for from outside the core's scratchpad, and whose accesses are being made. -/
  feeds : List Feed
  now : FeedKey
  pred : Option PredMap
  /-- The execute stream has halted before the instruction of this number: PRED's map ends with the ones before (R116). -/
  disarmAt : Option Nat
  route : RouteState
  /-- Number of the next instruction the core issues, both streams counted together. -/
  nextIid : Nat
  /-- Number of the next load group. -/
  nextGid : Nat
  /-- The core runs its scrub (R180). -/
  scrubbing : Bool
  deriving DecidableEq, Repr

/-- What a request of a core does when it is served. -/
inductive ReqKind where
  /-- A read whose data goes to position `pos` of load group `gid`. -/
  | read (gid pos : Nat)
  /-- A read whose data a unit or a move of the core waits for. -/
  | feed (key : FeedKey)
  /-- A write of the enabled bytes. -/
  | write (d : Sector) (be : Word32)
  deriving DecidableEq, Repr

/-- Where a request stands. -/
inductive ReqStage where
  | issued
  | served (d : Sector)
  /-- With the CXL device (R225). -/
  | deviceWait
  /-- A write lost with its link (R226). -/
  | lost
  deriving DecidableEq, Repr

/-- Where a request is served. -/
inductive ReqPath where
  | near | reach | remote
  deriving DecidableEq, Repr

/-- One sector request in flight from an access stream. -/
structure Req where
  id : Nat
  core : Nat
  iid : Nat
  path : ReqPath
  addr : Nat
  /-- Rides the LCR channel (R221). -/
  lcr : Bool
  /-- Sector of a SEND: counted at the landing table (R191). -/
  sent : Bool
  kind : ReqKind
  stage : ReqStage
  /-- The other sector of its granule, with which it makes one transfer (R225). -/
  mate : Option Nat := none
  deriving DecidableEq, Repr

/-- A stream of this device. -/
structure StreamId where
  core : Nat
  strm : Strm
  deriving DecidableEq, Repr

/-- Who signalled (R186): device rank, core and stream, or the host. -/
structure Signaller where
  dev : Nat
  core : Nat
  strm : Nat
  host : Bool
  deriving DecidableEq, Repr

/-- A WAIT registered at a bank (R185). For MODE 1, the key of PEN2 and the values that PEN and PEN2 held since the
WAIT issued, as far as this bank knows them. -/
structure Waiter where
  who : StreamId
  mode : Nat
  imm : Nat
  pen2 : Nat
  vals1 : List Nat
  vals2 : List Nat
  deriving DecidableEq, Repr

/-- A message to a shared bank of this device. -/
inductive PenOp where
  /-- A SIG of a stream that holds until it is applied, with its number, index and bank, by which an error of it is recorded. -/
  | sig (who : StreamId) (op amount iid index bank : Nat)
  /-- A registration. -/
  | wait (w : Waiter)
  /-- A remote signal that has left the pending table, or a part-internal signal; errors go to PEN_ERR. -/
  | remote (src : Signaller) (op amount vid : Nat)
  /-- A SIG with SCOPE 2 to the own rank, on its way to the pending table (R190). -/
  | toPending (src : Signaller) (vid op amount wseq : Nat)
  deriving DecidableEq, Repr

/-- A message on the way to a shared pennant (key die × 8192 + index). -/
structure PenMsg where
  id : Nat
  pen : Nat
  op : PenOp
  deriving DecidableEq, Repr

/-- A forwarded change of PEN2 on its way to the bank of PEN (R186). -/
structure PenForward where
  id : Nat
  pen : Nat
  who : StreamId
  value : Nat
  deriving DecidableEq, Repr

/-- A held remote signal (R192). -/
structure PendSig where
  src : Signaller
  vid : Nat
  op : Nat
  amount : Nat
  wseq : Nat
  ctx : Nat
  deriving DecidableEq, Repr

/-- A hoist message inside the device (R195): an arrival or a departure of a participant. Hoist keys: die × 256 + h for
die hoists, 1024 + c for cross-device hoists. -/
structure HoistMsg where
  id : Nat
  hoist : Nat
  who : StreamId
  round : Nat
  arrive : Bool
  waits : Bool
  deriving DecidableEq, Repr

/-- A release on its way to a waiting participant. -/
structure HoistRel where
  hoist : Nat
  who : StreamId
  round : Nat
  deriving DecidableEq, Repr

/-- What leaves the device. DESIGN CHOICE: log entry 106. -/
inductive OutMsg where
  /-- An MSI-X vector of a function (R399). -/
  | msix (fn vec : Nat)
  /-- The completion of a host read or configuration request: 0 success, 1 Unsupported Request, 2 Completer Abort,
  3 Request Retry Status. -/
  | completion (fn status : Nat) (data : List Byte)
  /-- A flit that a port sends (R237). -/
  | flit (port : Nat) (f : Flit)
  /-- Step control (R260–R264, R256): the start message, a repeat, skip or halt, a resume; a device's reports; the hash of a
  group's record, its own or the one passed on. -/
  | stepStart (m : StartMsg)
  | stepRepeat (k : RepeatKind)
  | stepResume
  | verifyReport (rank : Nat) (r : VerifyReport)
  | quiescentReport (rank : Nat)
  | deviceReport (rank : Nat) (k : ReportKind)
  | recordHash (grp : Option Nat) (h : Hash)
  /-- Profile switches (R324): the manager's request, or with the flag its command to switch; a device's answer. -/
  | profileCheck (sel : Nat) (go : Bool)
  | profileReport (rank sel : Nat) (valid : Bool)
  /-- A device's step attestation is complete (R384). -/
  | attestReport (rank : Nat)
  /-- KIND 7 messages (R257): an exchange with the parent, a tick on its way up or down the tree. -/
  | tickSync
  | tickAlign (down : Bool) (tick : Nat)
  /-- The capability word of a port to its peer (R245). -/
  | capability (port : Nat) (word : Word)
  /-- A message of a cross-device hoist on the tree (R196): 0 device arrival, 1 round finished, 2 release. -/
  | hoist (kind h round : Nat)
  deriving DecidableEq, Repr

/-- A write of held or committed fields that waits for its boundary (R326): register, fields' mask, value. -/
structure HeldWrite where
  addr : Nat
  mask : Word
  value : Word
  deriving DecidableEq, Repr

/-- Where a RED sector, or a part of a sum, came from: device rank, core, and the SEND's number on this device. -/
structure RedSrc where
  dev : Nat
  core : Nat
  iid : Nat
  deriving DecidableEq, Repr

/-- A RED sector on its way to a router's port (R211): router, port it arrives on, what it carries, and whose sectors it
holds, for landing and completion (R123, R191). -/
structure RedFlit where
  router : Nat
  port : Nat
  tag : Nat
  addr : Nat
  data : Sector
  srcs : List RedSrc
  /-- A sum that a root entry sends to a port group's stop (R213). -/
  chain : Option Nat := none
  deriving DecidableEq, Repr

/-- A write that has arrived and waits for its pseudo-channel's margining run to end (R229); whose sectors land with it, by
device rank and core (R191), and the host function that posted it (R403). -/
structure Parked where
  addr : Nat
  data : Sector
  be : Word32
  srcs : List (Nat × Nat)
  fn : Option Nat
  deriving DecidableEq, Repr

/-- One sector waiting in a reduction entry's input buffer (R212). -/
structure RedIn where
  addr : Nat
  data : Sector
  srcs : List RedSrc
  deriving DecidableEq, Repr

/-- A flit the sender keeps until an ACK covers it (R239). -/
structure TxFlit where
  seq : Nat
  slots : List Slot
  /-- Credits it returns: virtual channel and number. -/
  crVc : Nat
  crN : Nat
  replays : Nat
  /-- It carries slots of a message that bears data of the step. -/
  carries : Bool
  deriving DecidableEq, Repr

/-- What a Nirlo port holds beside its registers (R239, R240). -/
structure PortState where
  txSeq : Nat
  retry : List TxFlit
  /-- Messages that wait for credits or for the link, oldest first. -/
  txq : List Msg
  /-- By VC the message whose head has gone out, and its sectors that have not. -/
  part : SMap (Msg × List Sector)
  /-- Flits sent modulo 8, and the last one was of SIG (R206, R240). -/
  frame : Nat
  lastSig : Bool
  /-- Last in-order sequence number received; 4,095 right after training. -/
  rxSeq : Nat
  /-- A NAK is standing. -/
  nak : Bool
  /-- Slots received and not yet drained, by VC (R240). -/
  rxHeld : SMap Nat
  /-- By VC the heads of each head slot received whose messages have not left, oldest slot first. -/
  runs : SMap (List Nat)
  /-- By VC the message whose sectors are coming in. -/
  asm : SMap Msg
  /-- Credits to return, by VC. -/
  credOut : SMap Nat
  /-- A margining run's port retrains (R252). -/
  margined : Bool
  /-- Messages received for the next stage, oldest first. -/
  rx : List Msg
  deriving DecidableEq, Repr

/-- What the share stage keeps of a slot until its commit (R291): 0 void, 1 locally flagged, 2 quantised; its block, its
scale exponent s + 133, and the four sectors of x. -/
structure SlotIn where
  how : Nat
  blk : Nat
  scale : Nat
  xs : List Sector
  deriving DecidableEq, Repr

/-- One input sector of a chain entry (R249, R250): its position k, address, elements, overflow flag, and for a local
sector of a share-mode entry its slot, of a check-mode entry its slot's number. -/
structure ChainIn where
  pos : Nat
  addr : Nat
  data : Sector
  flag : Bool
  slot : Option SlotIn
  number : Nat
  /-- First position and number of sectors of the message that brought it (R293). -/
  batch : Nat × Nat
  deriving DecidableEq, Repr

/-- A check sum at the tail of a check chain that waits for its comparison (R297). -/
structure CheckIn where
  slot : Nat
  sum : Sector
  flag : Bool
  deriving DecidableEq, Repr

/-- What a chain entry holds in an attempt of a step (R249, R251, R296, R297). -/
structure ChainState where
  /-- Incoming partials and local sectors that wait for their partners, oldest first. -/
  inq : List ChainIn
  locq : List ChainIn
  /-- Positions given to partials and to local sectors so far. -/
  nIn : Nat
  nLoc : Nat
  /-- Positions whose local sector has arrived. -/
  arrived : List Nat
  /-- The deadline has passed. -/
  passed : Bool
  /-- Positions passed over (R251), and how many in this step (R272). -/
  skipped : List Nat
  nSkip : Nat
  /-- EVENT 2: the deadline passed with a local sector outstanding; ticks to the last such arrival. -/
  late : Bool
  lateTicks : Nat
  /-- Tail of a check chain: sums that wait, and slots whose SUM and FLAG have been written in this attempt. -/
  checks : List CheckIn
  sums : List Nat
  flags : List Nat
  /-- Tail of a share chain: flag bytes of a message that has not gone whole (R293). -/
  flagOut : List (Nat × Bool)
  /-- The message that is partly in: its first position, its sectors, and how many are still out (R249). -/
  inMsg : Option (Nat × Nat × Nat)
  deriving DecidableEq, Repr

/-- What a device holds of the step it runs (R259, R260, R264). -/
structure StepRun where
  /-- The start message is in and T0 has not come. -/
  waiting : Bool
  t0 : Nat
  evalDue : Bool
  /-- Phase it is in, in the order of R19 from 0; 6 for none. -/
  cur : Nat
  /-- Phases whose hoist has released, and phases past their soft deadline. -/
  done : List Nat
  missed : List Nat
  late : List LateEntry
  /-- Non-finite total of apply (R266). -/
  nfApply : Nat
  /-- The verify report of this attempt has left. -/
  verified : Bool
  quiescent : Bool
  /-- The quiescent report has left. -/
  quiet : Bool
  /-- Cores to start again after the reload. -/
  restart : List Nat
  /-- T0 has come while a muster was owed (R338). -/
  t0Held : Bool
  /-- SEED1 of the step, as the port groups hold it (R296). -/
  seed1 : Word32
  deriving DecidableEq, Repr

/-- What the manager is doing. -/
inductive MgrState where
  /-- No step of its own is under way. -/
  | idle
  | run
  /-- A repeat is under way (R264). -/
  | repeating
  /-- A skipped step is being cleared away (R269). -/
  | skipping
  deriving DecidableEq, Repr

/-- What the verdict of a step found (R268, R269): combined report, loss and comparator state as the check saw them,
trips, action. -/
structure Verdict where
  sum : VerifyReport
  loss : Word32
  mean : Word32
  var : Word32
  trips : Nat
  action : Nat
  deriving DecidableEq, Repr

/-- What of a step its record shows though the boundary changes it (R271): replay mode, profile, power limit, and whether
evaluate was in the plan. -/
structure Shown where
  replay : Bool
  profile : Nat
  limit : Nat
  evalRan : Bool
  deriving DecidableEq, Repr

/-- What the manager holds of the group's step (R255, R263–R273). -/
structure Manager where
  state : MgrState
  step : Nat
  attempt : Nat
  t0 : Nat
  evalDue : Bool
  /-- REPEAT_CAUSE bits, and how many causes the step has had. -/
  causes : Nat
  nCause : Nat
  /-- Reports before apply and at the step's end, by rank. -/
  dets : SMap VerifyReport
  ends : SMap VerifyReport
  /-- Ranks that have reported quiescent. -/
  quiet : List Nat
  /-- The verify round whose release waits for the verdict: hoist and round. -/
  verify : Option (Nat × Nat)
  verdict : Option Verdict
  evalFailed : Bool
  /-- SINGLE: one step is to run. -/
  single : Bool
  /-- The next step's start message is due and waits for what holds it (R256, R384). -/
  due : Bool
  prevApplied : Bool
  prevNf : Nat
  /-- Hash of the last record (R273). -/
  prevHash : Hash
  /-- Under a top manager (R256): hashes of the groups' records in the order they came, and a step has ended that not
  every group has applied or skipped. -/
  groups : List (Nat × Hash)
  lockstep : Bool
  /-- What each device has reported of its firmware versions and its disabled-unit map (R271). -/
  known : SMap (Word × BitVec 2304)
  shown : Option Shown
  /-- Ranks whose step attestation is complete (R384). -/
  attested : List Nat
  /-- Something of R279 has happened in this step. -/
  irrepro : Bool
  /-- HALT_NOW came once apply had begun: the group halts at the step boundary. -/
  haltReq : Bool
  /-- A profile switch asked for (R324), and the devices' answers by rank. -/
  profile : Option Nat
  checks : SMap Bool
  /-- Under a top manager: its ring of the groups' hashes, newest step first (R256). -/
  ring : List (List Hash)
  deriving DecidableEq, Repr

/-- One DMA channel (R402). -/
structure DmaJob where
  fn : Nat
  tag : Nat
  vec : Nat
  irq : Bool
  toDevice : Bool
  pen : Option Nat
  len : Nat
  host : Nat
  dev : Nat
  ctx : Nat
  /-- It stops with this status when it ends, having moved so many bytes. -/
  status : Nat
  moved : Nat
  deriving DecidableEq, Repr

/-- A completion that waits for space in its ring (R399). -/
structure PendingCpl where
  fn : Nat
  tag : Nat
  status : Nat
  op : Nat
  result : Nat
  irq : Bool
  vec : Nat
  deriving DecidableEq, Repr

/-- A partition being killed (R406). -/
structure KillState where
  /-- Requests to complete: function, tag, IRQ, vector. -/
  cpls : List PendingCpl
  release : Bool
  start : Nat
  deriving DecidableEq, Repr

/-- A program as the part holds it: core by its physical index (R4). -/
structure Program where
  core : Nat
  stream : Strm
  code : List (Nat × BitVec 128)
  ptrs : List (Nat × BitVec 64)
  descs : List (Nat × Sector)
  entry : Bool
  deriving DecidableEq, Repr

/-- What the sections of an image that apply to this device hold together (R316, R317), cores by their physical index. -/
structure ImageBody where
  /-- Occupied cores, in ascending logical index (R13, R267). -/
  placement : List Nat
  streams : List Program
  /-- Register writes in the order of the sections; those of REGS, PENNANT and HOIST, which the resident copy repeats (R321). -/
  regs : List (Nat × Word)
  resident : List (Nat × Word)
  /-- Regions of DATA and PRED: device address and byte. -/
  data : List (Nat × Byte)
  reds : List (Nat × RedImage)
  landings : List Nat
  channels : List Nat
  segments : List Nat
  ports : List Nat
  manager : Nat
  treeDepth : Nat
  depth : Nat
  /-- Evaluation programs (R270), and the scratchpad maps of the image and of its evaluation. -/
  eval : List Program
  spmap : List Byte
  evalMap : List Byte
  /-- Chain entries (group × 64 + c) of the exchanges with their policy (R298): 0 WAIT, 1 DEFER, 2 DROP. -/
  exchange : List (Nat × Nat)
  deriving DecidableEq, Repr

/-- An image load in progress (R319): its partition, its address in near memory, or its place and length in boot flash. -/
structure ImgLoad where
  part : Nat
  src : Nat
  flash : Option (Nat × Nat)
  deriving DecidableEq, Repr

/-- A profile record as the part reads it (R323): OPP_PHASE by phase × 4 + die, OPP_MAX by die. -/
structure Profile where
  role : Nat
  replay : Bool
  imgSrc : Nat
  limit : Nat
  latTol : Nat
  imgOff : Nat
  imgLen : Nat
  imgHash : Hash
  opp : List Nat
  oppMax : List Nat
  deriving DecidableEq, Repr

/-- What the power controller holds beside its registers (R337, R342–R352). -/
structure Power where
  /-- Caps of the power and of the thermal response by die; 7 does not limit. -/
  capPwr : List Nat
  capTherm : List Nat
  /-- By die: a sensor at or above the throttle temperature; every sensor 5 °C below it. -/
  hot : List Bool
  cool : List Bool
  /-- The last power measurement exceeds a bound; its 10 ms average is below 0.95 PL. -/
  excess : Bool
  low : Bool
  /-- Consecutive polls a rail has not answered. -/
  missed : List Nat
  /-- OPP whose frequency an island runs at, by island (R343); unlisted 0. -/
  islOpp : SMap Nat
  /-- A frequency has changed since the last muster; a muster is owed (R338). -/
  moved : Bool
  mustering : Bool
  /-- The first drop of this step has been logged: power, temperature. -/
  loggedPwr : Bool
  loggedTherm : Bool
  /-- VCOREq and VSRAMq that the sequencer of each die commands, mV (R341, R344). -/
  coreMv : List Nat
  sramMv : List Nat
  /-- A trip stands (R352): 0 none, 1 thermal, 2 rail. The PWM outputs are at mid level. -/
  trip : Nat
  pwmMid : Bool
  /-- THERMTRIP_N is driven low. -/
  thermTrip : Bool
  /-- XA, XB lost (R352). -/
  xaLost : Bool
  xbLost : Bool
  /-- A wake is under way, and the accesses it holds, oldest first (R349). -/
  waking : Bool
  /-- The wake reversed an entry that was not complete. -/
  reversed : Bool
  asleep : List Instr
  deriving DecidableEq, Repr

/-- The boot-flash header as a start uses it (R364), or the no-flash defaults (R365). -/
structure FlashHdr where
  /-- Judging modes: comparison (R334). -/
  xaComp : Bool
  xbComp : Bool
  xaSettle : Nat
  xbSettle : Nat
  rank : Nat
  /-- Offset and length of ENC, SUP, PWR and the manifest. -/
  fwLoc : List (Nat × Nat)
  profOff : List Nat
  pmbAddr : List Nat
  phases : List Nat
  ocpA : List Nat
  deriving DecidableEq, Repr

/-- What the always-on store keeps of a unit's last training (R228): its values, check word, identification and temperature. -/
structure Retained where
  values : Word
  check : Word32
  ident : Word
  temp : Nat
  deriving DecidableEq, Repr

/-- What the reset controller and a start hold (R355–R370). -/
structure Boot where
  /-- VAON is below its threshold (Off), or RST_N is asserted. -/
  off : Bool
  held : Bool
  /-- The start in progress, or the last one, is warm. -/
  warm : Bool
  /-- A header copy was correct; what the start uses. -/
  hdrOk : Bool
  hdr : FlashHdr
  /-- The host path of R366 is under way. -/
  hostPath : Bool
  /-- The start leads to recovery (R370). -/
  recovering : Bool
  /-- Step 10 waits for the host's load. -/
  waitImage : Bool
  /-- A failed start waits to begin again (R369). -/
  retry : Bool
  /-- The supervisor watchdog runs (R356). -/
  watchdog : Bool
  /-- Consecutive comparison windows in bounds (R334). -/
  windows : Nat
  /-- A comparison window has ended since judging began (R335). -/
  judged : Bool
  /-- Training values that the always-on store holds (R228): of stacks 0–7, reach ports 8–11, Nirlo ports 12–43. -/
  kept : SMap Retained
  /-- The committed load group (R328): partition and address of the last load from memory (R368). -/
  lastImg : Option (Nat × Nat)
  /-- PWR_ERR holds a record from before the reset (R354). -/
  pwrCopy : Bool
  deriving DecidableEq, Repr

/-- What the enclave and the debug block hold beside their registers (R376–R389). -/
structure Enclave where
  /-- Private identity key (R377). -/
  idKey : Option (BitVec 256)
  /-- Hashes of Garsor's firmware, manufacturing and return keys, and the manufacturer identity, from fuses. -/
  fwKey : Hash
  mfgKey : Hash
  retKey : Hash
  mfrId : Nat
  /-- Hash of the last step record (R273), number of the last step completed (R383). -/
  lastRec : Hash
  lastStep : Nat
  /-- The step attestation asked for: its 64-byte list and its regions; the last one of each context (R383, R384). -/
  saList : List Byte
  saRegs : List (Nat × Nat)
  attested : SMap (Hash × List Byte)
  /-- SEC_CHAL holds a live challenge (R381). -/
  live : Bool
  /-- Owner slot that unlocked the debug session; a session has halted a core or written data since the last load. -/
  session : Option Nat
  touched : Bool
  /-- TAP: instruction, last read data, last access refused (R389). -/
  tapIr : Nat
  tapData : Word32
  tapRefused : Bool
  deriving DecidableEq, Repr

/-- The device. -/
structure State where
  /-- Register contents by device address; an unlisted register reads as its reset value. -/
  regs : SMap Word
  /-- Held writes (R326) and low halves of split writes (R327). -/
  held : List HeldWrite
  lowHalf : SMap Word32
  /-- Near memory by pseudo-channel × 2^31 + address within it (R217). -/
  near : Mem
  /-- Reach device memory by port × 2^39 + device physical address (R224). -/
  reach : Mem
  /-- Scratchpads by core × 2^21 + offset (R169). -/
  spad : Mem
  /-- Host memory, as far as rings and DMA reach it (R398, R402). -/
  hostMem : Mem
  /-- Boot flash and boot buffer (R364, R366). -/
  flash : Mem
  bootBuf : Mem
  /-- Uncorrectable scratchpad words (address / 4 of `spad`) and near sectors (address / 32 of `near`); and those with one
  wrong bit, which a read corrects (R177, R219). -/
  spUe : List Nat
  nearUe : List Nat
  spWeak : List Nat
  nearWeak : List Nat
  /-- Sectors (address / 32 of `reach`) that the device answers with poison or an error status (0), or not at all (1) (R226). -/
  reachUe : SMap Nat
  cores : SMap Core
  /-- Sector requests in flight, and the number of the next in-flight message of any kind. -/
  reqs : List Req
  /-- Latency-critical reads served in this 1 µs window, by pseudo-channel; those and all transfers of a reach port, by
  port × 8 + context (R222, R227). -/
  lcrWin : SMap Nat
  rchWin : SMap (Nat × Nat)
  /-- After the cap: the side served last was a latency-critical read, by pseudo-channel and by port × 8 + context. The
  partition whose turn it is at a reach port, and the transfers left to it, by port (R227). -/
  lcrLast : SMap Bool
  rchLast : SMap Bool
  rchTurn : SMap (Nat × Nat)
  /-- Pseudo-channels being margined, by stack (R229); interleave sets whose scrub waits for one (R232). -/
  nearMargin : SMap Nat
  nearWait : List Nat
  /-- Writes that wait for a margining run to end (R229), oldest first; and host and Nirlo reads that wait with them. -/
  parked : List Parked
  margHeld : List Instr
  nextId : Nat
  /-- Pennants: messages to banks, forwarded changes, waiters by pennant, wakes under way, pending tables by die,
  landing notices under way by rank × 4096 + core, owners of landing entries. -/
  penMsgs : List PenMsg
  penFwds : List PenForward
  penTable : SMap (List Waiter)
  penWakes : List StreamId
  pendTab : SMap (List PendSig)
  notices : SMap Nat
  landOwner : SMap Nat
  /-- Hoists: messages, releases under way, rounds finished. -/
  hoistMsgs : List HoistMsg
  hoistRels : List HoistRel
  hoistFin : SMap Nat
  rootFin : SMap Nat
  /-- Device arrivals that the root's back-pressure holds: cross-device hoist and round (R196). -/
  rootHeld : List (Nat × Nat)
  /-- Contexts killed since their last load or creation (R197). -/
  killed : List Nat
  /-- Mesh: RED sectors under way, reduction buffers by (core × 64 + entry) × 8 + input. -/
  redFlits : List RedFlit
  redBuf : SMap (List RedIn)
  /-- Sums on their way to a chain entry (R213); `router` holds the port group. -/
  chainIn : List RedFlit
  /-- Nirlo ports and chain entries (group × 64 + entry). -/
  ports : SMap PortState
  /-- Direction groups that have logged E_LINK_UNREACH in this step (R248). -/
  unreach : List Nat
  chains : SMap ChainState
  /-- Owners: island, pseudo-channel, port, reach segment (16n + i) to context. -/
  islOwner : SMap Nat
  pcOwner : SMap Nat
  portOwner : SMap Nat
  segOwner : SMap Nat
  /-- Host: command entries waiting by function, DMA channels, completions waiting, kills. -/
  cmdq : SMap (List (List Byte))
  dmaCh : SMap (List DmaJob)
  cpls : List PendingCpl
  kills : SMap KillState
  /-- Completion rings whose PHASE is 0 (R399), functions in D3hot, BAR2 sizes by function as log2 of GiB (R397). -/
  cplPhase : List Nat
  d3 : List Nat
  bar2 : SMap Nat
  /-- A step of the group is in progress, from T0 to the step boundary (R325); what the device and, on the manager, what
  the manager holds of it; the rank of the image's manager coordinate, and the depth of the hoist tree. -/
  stepActive : Bool
  run : StepRun
  mgr : Manager
  managerRank : Nat
  treeDepth : Nat
  /-- The tick: 0 counts, 1 is held for the next period, 2 advances by 2; tick of the last correction; largest tick
  received at alignment (R257). -/
  tickFix : Nat
  tickFixed : Nat
  alignMax : Nat
  /-- The profile in force (R323), and the power controller. -/
  profile : Option Profile
  power : Power
  boot : Boot
  enclave : Enclave
  /-- Images as loaded, by context. -/
  images : SMap ImageBody
  /-- The load in progress; contexts whose last load failed in its commit (R321). -/
  imgLoad : Option ImgLoad
  imgFailed : List Nat
  /-- Next-hop tables stand as firmware built them at the last image load (R209), but for entries written since. -/
  routed : Bool
  /-- Physical cores this part has disabled (R3, R4). -/
  disabled : List Nat
  /-- What has left the device, newest first. -/
  out : List OutMsg
  /-- The number of the next free value (the model's own field). -/
  free : Nat
  /-- Commands that wait, first in, first out. -/
  pending : List Instr
  deriving DecidableEq, Repr

/-! Reset. -/

/-- A stream stopped, with nothing loaded. DESIGN CHOICE: log entry 6; DEDUCED: log entry 13. -/
def StreamState.reset : StreamState :=
  { imem := [], ptrs := [], descs := [], load := none, loops := [], hold := .free, pastEnd := false, stopReq := none,
    stepping := false }

def RouteState.reset : RouteState :=
  { entries := [], busy := false, writes := [], winq := [], combq := [], lanes := [], span := false }

/-- A core that nothing has touched: no program, zero accumulators, empty queues, idle units.
DESIGN CHOICE: log entry 6. -/
def Core.reset : Core :=
  { a := .reset, e := .reset, acc := [], side := [], slots := [], wout := [], winRun := [], winLoad := []
    accUe := [], accWeak := [], queues := [],
    groups := [], flights := [], units := [], engine := none, feeds := [], now := .job 0, pred := none, disarmAt := none
    route := .reset, nextIid := 0,
    nextGid := 0, scrubbing := false }

def Power.reset : Power :=
  { capPwr := [7, 7, 7, 7], capTherm := [7, 7, 7, 7], hot := [false, false, false, false]
    cool := [false, false, false, false], excess := false, low := false, missed := List.replicate 10 0, islOpp := []
    moved := false, mustering := false, coreMv := [0, 0, 0, 0], sramMv := [0, 0, 0, 0], loggedPwr := false, loggedTherm := false, trip := 0, pwmMid := true, thermTrip := false, xaLost := false
    xbLost := false, waking := false, reversed := false, asleep := [] }

def FlashHdr.defaults : FlashHdr :=
  { xaComp := true, xbComp := true, xaSettle := 1, xbSettle := 1, rank := 0, fwLoc := [], profOff := []
    pmbAddr := (List.range 10).map fun r => 0x40 + r, phases := [12, 12, 12, 12], ocpA := [60, 60, 60, 60] }

def Boot.reset : Boot :=
  { off := false, held := false, warm := false, hdrOk := false, hdr := .defaults, hostPath := false, recovering := false
    waitImage := false, retry := false, watchdog := false, windows := 0, judged := false, kept := [], lastImg := none, pwrCopy := false }

def StepRun.reset : StepRun :=
  { waiting := false, t0 := 0, evalDue := false, cur := 6, done := [], missed := [], late := [], nfApply := 0
    verified := false, quiescent := false, quiet := false, restart := [], t0Held := false, seed1 := 0 }

def Manager.reset : Manager :=
  { state := .idle, step := 0, attempt := 0, t0 := 0, evalDue := false, causes := 0, nCause := 0, dets := [], ends := []
    quiet := [], verify := none, verdict := none, evalFailed := false, single := false, due := false
    prevApplied := true, prevNf := 0, prevHash := 0, groups := [], lockstep := false, known := [], shown := none, attested := [], irrepro := false, haltReq := false
    profile := none, checks := [], ring := [] }

/-- DESIGN CHOICE: log entry 8. -/
def Enclave.reset : Enclave :=
  { idKey := none, fwKey := 0, mfgKey := 0, retKey := 0, mfrId := 0, lastRec := 0, lastStep := 0, saList := [], saRegs := []
    attested := [], live := false, session := none, touched := false, tapIr := 1, tapData := 0, tapRefused := false }

/-- The device right after power-on reset, at step 1 of its cold start (R355, R366): every register at its reset value,
every memory empty. Logical row 35 of the grid is disabled; the fuses hold no key and the Manufacture state.
DESIGN CHOICE: log entries 4, 5, 7, 8, 9. -/
def State.reset : State :=
  { regs := [(Reg.RST_STAT, 0x0100_0000)], held := [], lowHalf := []
    near := [], reach := [], spad := [], hostMem := [], flash := [], bootBuf := [], spUe := [], nearUe := []
    spWeak := [], nearWeak := [], reachUe := [], lcrLast := [], rchLast := [], rchTurn := []
    cores := [], reqs := [], lcrWin := [], rchWin := [], nearMargin := [], nearWait := [], parked := [], margHeld := [], nextId := 0
    penMsgs := [], penFwds := [], penTable := [], penWakes := [], pendTab := [], notices := [], landOwner := []
    hoistMsgs := [], hoistRels := [], hoistFin := [], rootFin := [], rootHeld := [], killed := [], redFlits := [], redBuf := [], chainIn := []
    ports := [], unreach := [], chains := [], islOwner := [], pcOwner := [], portOwner := [], segOwner := []
    cmdq := [], dmaCh := [], cpls := [], kills := [], cplPhase := [], d3 := [], bar2 := []
    stepActive := false, run := .reset, mgr := .reset, managerRank := 0, treeDepth := 0, tickFix := 0, tickFixed := 0
    alignMax := 0, profile := none, power := .reset, boot := .reset, enclave := .reset, images := [], imgLoad := none
    imgFailed := [], routed := false, disabled := (List.range 64).map (2240 + ·), out := [], free := 0, pending := [] }

end Sys2Proof.Machine
end

