-- ==== Sys2Proof/Machine/Ops.lean ====
section
/-! DEFINITION. The named operations every meaning is written with: sparse maps and memory, registers and their fields,
the address map, ownership, error records (R404), and the halting of a core (R149). -/

namespace Sys2Proof.Machine

open Sys2Proof

/-! Sparse maps. -/

def mfind {α : Type} : SMap α → Nat → Option α
  | [], _ => none
  | (j, v) :: m, k => if k < j then none else if k = j then some v else mfind m k

def mget {α : Type} (m : SMap α) (d : α) (k : Nat) : α := (mfind m k).getD d

def mset {α : Type} : SMap α → Nat → α → SMap α
  | [], k, v => [(k, v)]
  | (j, w) :: m, k, v => if k < j then (k, v) :: (j, w) :: m else if k = j then (k, v) :: m else (j, w) :: mset m k v

def mdel {α : Type} : SMap α → Nat → SMap α
  | [], _ => []
  | (j, w) :: m, k => if k < j then (j, w) :: m else if k = j then m else (j, w) :: mdel m k

/-- Keys above `k`, strictly rising. -/
def mwfFrom {α : Type} (k : Nat) : SMap α → Bool
  | [] => true
  | (j, _) :: m => decide (k < j) && mwfFrom j m

/-- Keys strictly rising. -/
def mwf {α : Type} : SMap α → Bool
  | [] => true
  | (j, _) :: m => mwfFrom j m

/-- The values of a map changed. -/
def mmap {α β : Type} (f : α → β) (m : SMap α) : SMap β := m.map fun e => (e.1, f e.2)

/-- Keeps the entries whose key passes. -/
def mfilter {α : Type} (p : Nat → Bool) (m : SMap α) : SMap α := m.filter fun e => p e.1

/-! Memory: an unlisted byte reads as 0, and a cell that holds 0 is not listed. -/

/-- DESIGN CHOICE: log entry 5. -/
def memGet (m : Mem) (a : Nat) : Byte := mget m 0 a

def memSet (m : Mem) (a : Nat) (b : Byte) : Mem := if b = 0 then mdel m a else mset m a b

/-- The canonical form of a memory. -/
def Memory.wf (m : Mem) : Bool := mwf m && m.all fun c => c.2 != 0

/-- `n` bytes from `a`, least significant first, as a number. -/
def memNat (m : Mem) (a : Nat) : Nat → Nat
  | 0 => 0
  | n + 1 => (memGet m a).toNat + 256 * memNat m (a + 1) n

/-- `n` bytes from `a`. -/
def memBytes (m : Mem) (a n : Nat) : List Byte := (List.range n).map fun i => memGet m (a + i)

/-- Bytes written in ascending address. -/
def memPut (m : Mem) (a : Nat) : List Byte → Mem
  | [] => m
  | b :: bs => memPut (memSet m a b) (a + 1) bs

/-- The low `n` bytes of a number, little-endian. -/
def natBytes (v : Nat) : Nat → List Byte
  | 0 => []
  | n + 1 => BitVec.ofNat 8 v :: natBytes (v / 256) n

/-- Bytes to a number, little-endian. -/
def bytesNat : List Byte → Nat
  | [] => 0
  | b :: bs => b.toNat + 256 * bytesNat bs

/-- `n` bytes zeroed from `a`. -/
def memClear (m : Mem) (a n : Nat) : Mem := m.filter fun c => decide (c.1 < a) || decide (a + n ≤ c.1)

/-- The enabled bytes of a sector written: `i` counts up from byte `32 - n`. -/
def memPutBe (m : Mem) (a : Nat) (d be : Nat) : Nat → Mem
  | 0 => m
  | n + 1 =>
    let i := 31 - n
    memPutBe (if be / 2 ^ i % 2 = 1 then memSet m (a + i) (BitVec.ofNat 8 (d / 256 ^ i)) else m) a d be n

/-- A sector at `a`. -/
def memSector (m : Mem) (a : Nat) : Sector := BitVec.ofNat 256 (memNat m a 32)

/-- Every byte enabled. -/
def beAll : Word32 := BitVec.allOnes 32

/-! Registers. -/

/-- Indices of an address below a register family's base, outer dimension first, and the byte within the register. -/
def dimIndex : List (Nat × Nat) → Nat → Option (List Nat × Nat)
  | [], off => some ([], off)
  | (stride, count) :: ds, off =>
    if off / stride < count then
      match dimIndex ds (off % stride) with
      | some (is, r) => some (off / stride :: is, r)
      | none => none
    else none

/-- Whether an address lies in a register family: its indices and the byte within the register. -/
def RegSpec.locate (r : RegSpec) (a : Nat) : Option (List Nat × Nat) :=
  if a < r.base then none else
    match dimIndex r.dims (a - r.base) with
    | some (is, b) => if b < r.bytes then some (is, b) else none
    | none => none

def regFindIn : List RegSpec → Nat → Option (RegSpec × List Nat × Nat)
  | [], _ => none
  | r :: rs, a =>
    match r.locate a with
    | some (is, b) => some (r, is, b)
    | none => regFindIn rs a

/-- The register at a device address: its description, indices and the byte within it. -/
def regFind (a : Nat) : Option (RegSpec × List Nat × Nat) := regFindIn regTable a

/-- The reset value a description gives. DESIGN CHOICE: log entry 4. -/
def RegSpec.resetWord (r : RegSpec) (is : List Nat) : Word :=
  let v := r.fields.foldl (fun v f => v + f.reset * 2 ^ f.lo) 0
  -- HF_STAT.FN reads the page's own function (R409)
  BitVec.ofNat 64 (if r.name = "HF_STAT" then v + (is.headD 0) * 2 ^ 16 else v)

/-- The reset value of the register at an address. -/
def regReset (a : Nat) : Word :=
  match regFind a with
  | some (r, is, _) => r.resetWord is
  | none => 0

namespace State

/-- A register's contents. -/
def reg (s : State) (a : Nat) : Word :=
  match mfind s.regs a with
  | some v => v
  | none => regReset a

def setReg (s : State) (a : Nat) (v : Word) : State := { s with regs := mset s.regs a v }

/-- Registers back at their reset values. -/
def unsetRegs (s : State) (p : Nat → Bool) : State := { s with regs := s.regs.filter fun e => !p e.1 }

end State

/-- A field of a word. -/
def wordFld (w : Word) (f : FieldPos) : Nat := w.toNat / 2 ^ f.lo % 2 ^ f.width

/-- A word with a field replaced. -/
def wordSet (w : Word) (f : FieldPos) (v : Nat) : Word :=
  BitVec.ofNat 64 (w.toNat / 2 ^ (f.lo + f.width) * 2 ^ (f.lo + f.width) + v % 2 ^ f.width * 2 ^ f.lo
    + w.toNat % 2 ^ f.lo)

namespace State

/-- A field of a register. -/
def fld (s : State) (a : Nat) (f : FieldPos) : Nat := wordFld (s.reg a) f

def setFld (s : State) (a : Nat) (f : FieldPos) (v : Nat) : State := s.setReg a (wordSet (s.reg a) f v)

def flag (s : State) (a : Nat) (f : FieldPos) : Bool := s.fld a f != 0

/-- A saturating counter (R74). -/
def bump (s : State) (a : Nat) (f : FieldPos) (n : Nat) : State :=
  s.setFld a f (min (2 ^ f.width - 1) (s.fld a f + n))

/-- A counter modulo its width. -/
def addMod (s : State) (a : Nat) (f : FieldPos) (n : Nat) : State := s.setFld a f (s.fld a f + n)

/-- Several fields cleared. -/
def clearFlds (s : State) (xs : List (Nat × FieldPos)) : State := xs.foldl (fun s x => s.setFld x.1 x.2 0) s

/-- The tick (R257). -/
def tick (s : State) : Nat := (s.reg Reg.TICK).toNat

/-- The device's own rank (R316). -/
def rank (s : State) : Nat := s.fld Reg.IMG_RANK Fld.IMG_RANK_RANK

/-- A message sent out. DESIGN CHOICE: log entry 106. -/
def emit (s : State) (m : OutMsg) : State := { s with out := m :: s.out }

end State

/-! The address map (R11) and the grid (R13–R15). -/

def coreRow (c : Nat) : Nat := c / 64
def coreCol (c : Nat) : Nat := c % 64
/-- Die of a physical core (R14). -/
def coreDie (c : Nat) : Nat := (if coreCol c < 32 then 0 else 1) + (if coreRow c < 18 then 0 else 2)
/-- Island of a physical core (R15). -/
def coreIsland (c : Nat) : Nat := coreRow c / 4 * 8 + coreCol c / 8
/-- Die whose clock an island takes: the upper die for row band 4 (R15). -/
def islandDie (i : Nat) : Nat := (if i % 8 < 4 then 0 else 1) + (if i / 8 ≤ 4 then 0 else 2)

def nearTop : Nat := 0x0080_0000_0000
def reachBase : Nat := 0x0100_0000_0000
def spadBase : Nat := 0x0200_0000_0000
def ctrlBase : Nat := 0x0300_0000_0000
def globalBase : Nat := 0x0380_0000_0000
def nCores : Nat := 2304

/-- Device address of an offset in a core's scratchpad. -/
def spadAddr (c off : Nat) : Nat := spadBase + c * 0x20_0000 + off

/-- Stream number of a stream. -/
def sidx : Strm → Nat
  | .access => 0
  | .execute => 1

namespace State

/-- Context of the partition that owns a core (R18). -/
def coreCtx (s : State) (c : Nat) : Option Nat := mfind s.islOwner (coreIsland c)

/-- DESIGN CHOICE: log entry 7. -/
def coreEnabled (s : State) (c : Nat) : Bool := decide (c < nCores) && !s.disabled.contains c

/-- An island's clock is enabled (R339, R354). -/
def islEnabled (s : State) (i : Nat) : Bool :=
  if i < 64 then (s.reg Reg.CLK_EN_ISL).toNat / 2 ^ i % 2 == 1
  else (s.reg Reg.CLK_EN_UNC).toNat / 2 ^ (i - 64) % 2 == 1

/-- The clock of a further block is enabled: bit `b` of CLK_EN_UNC. -/
def uncEnabled (s : State) (b : Nat) : Bool := (s.reg Reg.CLK_EN_UNC).toNat / 2 ^ b % 2 == 1

/-- Enabled cores of a context, in ascending physical index: every core of its islands. -/
def ctxCores (s : State) (x : Nat) : List Nat :=
  (List.range nCores).filter fun c => s.coreEnabled c && s.coreCtx c == some x

/-- Whether a partition exists (PART_STAT.STATE, R409). -/
def partExists (s : State) (x : Nat) : Bool := s.fld (Reg.PART_STAT x) Fld.PART_STAT_STATE != 0

end State

/-! Cores. -/

def Core.strm (k : Core) : Strm → StreamState
  | .access => k.a
  | .execute => k.e

def Core.setStrm (k : Core) (t : Strm) (x : StreamState) : Core :=
  match t with
  | .access => { k with a := x }
  | .execute => { k with e := x }

namespace State

def core (s : State) (c : Nat) : Core := mget s.cores Core.reset c
def setCore (s : State) (c : Nat) (k : Core) : State := { s with cores := mset s.cores c k }
def modCore (s : State) (c : Nat) (f : Core → Core) : State := s.setCore c (f (s.core c))
def strm (s : State) (c : Nat) (t : Strm) : StreamState := (s.core c).strm t
def modStrm (s : State) (c : Nat) (t : Strm) (f : StreamState → StreamState) : State :=
  s.modCore c fun k => k.setStrm t (f (k.strm t))

/-- STRM_STAT.STATE (R150): 0 stopped, 1 running, 2 halted by HALT, 3 halted by error. -/
def strmState (s : State) (c : Nat) (t : Strm) : Nat := s.fld (Reg.STRM_STAT c (sidx t)) Fld.STRM_STAT_STATE
def setStrmState (s : State) (c : Nat) (t : Strm) (v : Nat) : State :=
  s.setFld (Reg.STRM_STAT c (sidx t)) Fld.STRM_STAT_STATE v
/-- DEDUCED: log entry 15. -/
def setWaitOn (s : State) (c : Nat) (t : Strm) (v : Nat) : State :=
  s.setFld (Reg.STRM_STAT c (sidx t)) Fld.STRM_STAT_WAITON v
def strmIndex (s : State) (c : Nat) (t : Strm) : Nat := s.fld (Reg.STRM_STAT c (sidx t)) Fld.STRM_STAT_INDEX
def strmBank (s : State) (c : Nat) (t : Strm) : Nat := s.fld (Reg.STRM_CTL c (sidx t)) Fld.STRM_CTL_ABANK

/-- A core with a stream in state 1 (R325). -/
def coreRuns (s : State) (c : Nat) : Bool := s.strmState c .access == 1 || s.strmState c .execute == 1

/-- Cores with a stream in state 1, found among the registers that hold something (STRM_STAT resets to state 0). -/
def runningCores (s : State) : List Nat :=
  s.regs.filterMap fun e =>
    if ctrlBase ≤ e.1 ∧ e.1 < ctrlBase + nCores * 0x1_0000
        ∧ (e.1 % 0x1_0000 = 0x104 ∨ e.1 % 0x1_0000 = 0x204) ∧ wordFld e.2 Fld.STRM_STAT_STATE = 1
    then some ((e.1 - ctrlBase) / 0x1_0000) else none

/-- Any core of a partition has a stream in state 1 (R325). -/
def partRuns (s : State) (x : Nat) : Bool := s.runningCores.any fun c => s.coreCtx c == some x

end State

/-! Rings in host memory and the error records (R398, R399, R404). -/

/-- Size of a ring (R409: LOG2 4 to 16, other values taken as 4). -/
def ringSize (s : State) (f r : Nat) : Nat :=
  let l := s.fld (Reg.HF_RING_CFG f r) Fld.HF_RING_CFG_LOG2
  2 ^ (if 4 ≤ l ∧ l ≤ 16 then l else 4)

def ringEn (s : State) (f r : Nat) : Bool := s.flag (Reg.HF_RING_CFG f r) Fld.HF_RING_CFG_EN

/-- A ring is full when PROD + 1 equals CONS (R398). DEDUCED: log entry 105. -/
def ringFull (s : State) (f r : Nat) : Bool :=
  (s.fld (Reg.HF_RING_PROD f r) Fld.HF_RING_PROD_INDEX + 1) % ringSize s f r
    == s.fld (Reg.HF_RING_CONS f r) Fld.HF_RING_CONS_INDEX

/-- One entry written by the part at its producer index, which advances. -/
def ringPut (s : State) (f r esz : Nat) (bs : List Byte) : State :=
  let p := s.fld (Reg.HF_RING_PROD f r) Fld.HF_RING_PROD_INDEX
  let a := (s.reg (Reg.HF_RING_BASE f r)).toNat + p * esz
  { s with hostMem := memPut s.hostMem a bs }.setFld (Reg.HF_RING_PROD f r) Fld.HF_RING_PROD_INDEX
    ((p + 1) % ringSize s f r)

/-- The 32 bytes of an error record (R404); 0xFF and 0xFFFF stand for no context and no core. -/
def errBytes (s : State) (code ctx core detail : Nat) : List Byte :=
  natBytes code 2 ++ natBytes ctx 1 ++ natBytes 0 1 ++ natBytes core 2 ++ natBytes s.rank 2 ++ natBytes s.tick 8
    ++ natBytes detail 8 ++ natBytes (s.reg Reg.STEP_NUM).toNat 8

/-- A record into one function's error ring: dropped and counted while the ring is full; E_RING_OVF goes first once
there is space again (R404). A ring not in use takes nothing. DEDUCED: log entry 105. -/
def errRingPut (s : State) (f : Nat) (bs : List Byte) : State :=
  if !ringEn s f 2 then s
  else if ringFull s f 2 then s.bump (Reg.HF_ERR_LOST f) Fld.HF_ERR_LOST_COUNT 1
  else
    let lost := s.fld (Reg.HF_ERR_LOST f) Fld.HF_ERR_LOST_COUNT
    let s1 := if lost = 0 then s else
      (ringPut (s.setFld (Reg.HF_ERR_LOST f) Fld.HF_ERR_LOST_COUNT 0) f 2 32
        (errBytes s 0x7746 0xFF 0xFFFF lost)).emit (.msix f 0)
    if ringFull s1 f 2 then s1.bump (Reg.HF_ERR_LOST f) Fld.HF_ERR_LOST_COUNT 1
    else (ringPut s1 f 2 32 bs).emit (.msix f 0)

/-- An error reported to the supervisor becomes one record (R404): to the physical function, and to the open virtual
function of the partition it names. DEDUCED: log entry 105. -/
def State.report (s : State) (code : Nat) (ctx : Option Nat) (core : Option Nat) (detail : Nat) : State :=
  let bs := errBytes s code (ctx.getD 0xFF) (core.getD 0xFFFF) detail
  let s := errRingPut s 0 bs
  match ctx with
  | none => s
  | some x =>
    let vf := s.fld (Reg.PART_STAT x) Fld.PART_STAT_VF
    if vf ≠ 0 ∧ s.flag (Reg.HF_STAT vf) Fld.HF_STAT_OPEN then errRingPut s vf bs else s

/-! Halting (R149). -/

/-- A stream stops now, in the state given: what it holds is dropped, with its waiter at any bank.
DEDUCED: log entry 14. -/
def State.stopStream (s : State) (c : Nat) (t : Strm) (st : Nat) : State :=
  let who : StreamId := ⟨c, t⟩
  let gone (f : Feed) : Bool := match (s.strm c t).hold with
    | .move m => f.key == .job m.iid
    | _ => f.key == .issue t
  let s := s.modStrm c t fun x => { x with hold := .free, stopReq := none, stepping := x.stepping && st == 2 }
  let s := if (s.core c).feeds.any gone then s.modCore c fun k => { k with feeds := k.feeds.filter fun f => !gone f } else s
  let s := { s with
    penMsgs := s.penMsgs.filter fun m => (match m.op with
      | .wait w => w.who != who
      | _ => true)
    penTable := mmap (fun (ws : List Waiter) => ws.filter fun w => w.who != who) s.penTable
    penFwds := s.penFwds.filter fun f => f.who != who
    penWakes := s.penWakes.filter fun w => w != who }
  let s := if t = .execute ∧ 2 ≤ st ∧ (s.core c).disarmAt = none then
    s.modCore c fun k => { k with disarmAt := some k.nextIid } else s
  (s.setWaitOn c t 0).setStrmState c t st

/-- A stream stops at its next instruction boundary (R149, R150): at once unless it is within a move's requests.
DEDUCED: log entry 14. -/
def State.stopAtBoundary (s : State) (c : Nat) (t : Strm) (st : Nat) : State :=
  match (s.strm c t).hold with
  | .move _ => s.modStrm c t fun x => { x with stopReq := some st }
  | _ => s.stopStream c t st

def otherStrm : Strm → Strm
  | .access => .execute
  | .execute => .access

/-- Work issued after instruction `iid` stops (R149): unserved requests and jobs of units. The requests that `iid` itself
made before it failed stand (R154). DEDUCED: log entry 18. -/
def State.dropAfter (s : State) (c iid : Nat) : State :=
  let keep (o : Option Job) : Option Job := match o with
    | some j => if j.iid < iid then some j else none
    | none => none
  let s := { s with reqs := s.reqs.filter fun r => r.core != c || decide (r.iid ≤ iid) || r.stage != ReqStage.issued }
  s.modCore c fun k =>
    { k with
      units := mmap (fun (u : UnitState) => { run := keep u.run, wait := keep u.wait }) k.units
      flights := k.flights.filter fun f => decide (f.iid < iid)
      feeds := k.feeds.filter fun f => (match f.key with
        | .job i => decide (i < iid)
        | .issue _ => true)
      engine := k.engine.filter fun j => decide (j.iid < iid) }

/-- The error record of a stream (R150): the first is kept while VALID is 1. -/
def State.recordStrmErr (s : State) (c : Nat) (t : Strm) (code index bank detail : Nat) : State :=
  let a := Reg.STRM_ERR c (sidx t)
  if s.flag a Fld.STRM_ERR_VALID then s
  else
    (s.setReg a (BitVec.ofNat 64 (2 ^ 31 + bank % 2 * 2 ^ 27 + index % 2048 * 2 ^ 16 + code))).setReg
      (Reg.STRM_ERR_DETAIL c (sidx t)) (BitVec.ofNat 64 detail)

/-- XB is there and judged stable (R335): the port PLL runs. -/
def State.xbOk (s : State) : Bool := s.flag Reg.CLK_STAT Fld.CLK_STAT_XB_OK

/-- The partition whose cores run the group's steps: the one that owns the lowest Nirlo port that is owned, or the
lowest partition that exists (R242, R255). DEDUCED: log entry 52. -/
def State.stepCtx (s : State) : Option Nat :=
  match s.portOwner with
  | (_, x) :: _ => some x
  | [] => (List.range 8).find? s.partExists

/-- The step in progress is this context's (R254). -/
def State.inStep (s : State) (x : Option Nat) : Bool := s.stepActive && x.isSome && x == s.stepCtx

/-- What is for this context is discarded: the step's partition is quiescent (R264). -/
def State.quiets (s : State) (x : Option Nat) : Bool := s.run.quiescent && x.isSome && x == s.stepCtx

/-- A core error of class 1, 2 or 4 in the step's partition is reported to the manager (R263).
DEDUCED: log entry 18. -/
def State.stepCoreError (s : State) (c code : Nat) : State :=
  if s.stepActive && [1, 2, 4].contains (code / 4096) && (s.coreCtx c).isSome && s.coreCtx c == s.stepCtx then
    s.emit (.deviceReport s.rank .coreError)
  else s

/-- An error that halts a core (R149): recorded in the raising stream, reported to the supervisor; the raising stream
stops, the other stops at its boundary, both show state 3, and later work stops. -/
def State.haltCore (s : State) (c : Nat) (t : Strm) (iid code index bank detail : Nat) : State :=
  let s := s.recordStrmErr c t code index bank detail
  let s := s.dropAfter c iid
  let s := s.stopStream c t 3
  let s := match (s.strm c (otherStrm t)).hold with
    | .move m => if m.iid < iid then s.modStrm c (otherStrm t) fun x => { x with stopReq := some 3 }
                 else s.stopStream c (otherStrm t) 3
    | _ => s.stopStream c (otherStrm t) 3
  (s.report code (s.coreCtx c) (some c) detail).stepCoreError c code

/-! Wakes (R349) and what a step's timing does not reproduce (R279). -/

/-- What replay mode cannot reproduce has happened to a context in this step (R279); what befalls another context than the
step's does not count. -/
def State.irrepro (s : State) (x : Option Nat) : State :=
  if s.inStep x then { s with mgr := { s.mgr with irrepro := true } } else s

/-- PWR_STAT.STATE: 0 Active, 1 Idle, 2 Gated, 3 Retain, 4 Deep. -/
def State.pwrState (s : State) : Nat := s.fld Reg.PWR_STAT Fld.PWR_STAT_STATE

/-- A wake begins (R349): an entry in progress is reversed. -/
def State.wake (s : State) : State :=
  if s.pwrState = 0 then s
  else
    { s.setFld Reg.PWR_STAT Fld.PWR_STAT_ENTERING 0 with power := { s.power with
        waking := true, reversed := s.power.reversed || s.flag Reg.PWR_STAT Fld.PWR_STAT_ENTERING } }

/-- A host access that wakes the part is held until the exit (R349); in Active it is served. -/
def State.awake (s : State) (i : Instr) (f : State → State) : State :=
  if s.pwrState = 0 then f s
  else { s.wake with power := { s.wake.power with asleep := s.power.asleep ++ [i] } }

/-- A host's access to a core of a partition: it may wake the part, and its timing does not reproduce.
DEDUCED: log entry 82. -/
def State.asked (s : State) (who : Writer) (c : Nat) (i : Instr) (f : State → State) : State :=
  match who with
  | .host _ => s.awake i fun s => (f s).irrepro (s.coreCtx c)
  | _ => f s

end Sys2Proof.Machine
end

