-- ==== Sys2Proof/Machine/Regs.lean ====
section
/-! DEFINITION. Writing and reading registers by their access classes: R7, R8, R325–R329. -/

namespace Sys2Proof.Machine

open Sys2Proof

def writerCode : Writer → Nat
  | .host _ => 0
  | .core => 1
  | .firmware => 2
  | .manager => 3

/-- A configuration error (R329, R331): the first is kept while VALID is 1; every one is reported.
DEDUCED: log entry 66. -/
def State.cfgError (s : State) (who : Writer) (code addr : Nat) : State :=
  let s := if s.flag Reg.CFG_ERR Fld.CFG_ERR_VALID then s
    else (s.setReg Reg.CFG_ERR (BitVec.ofNat 64 (2 ^ 31 + writerCode who * 2 ^ 29 + code))).setReg Reg.CFG_ERR_ADDR
      (BitVec.ofNat 64 addr)
  let c := (addr - ctrlBase) / 0x1_0000
  if ctrlBase ≤ addr ∧ c < nCores then s.report code (s.coreCtx c) (some c) addr else s.report code none none addr

/-- E_CFG_LIVE of a block (R329): class 7, cause 0x3F. DEDUCED: log entry 78. -/
def cfgLive (block : Nat) : Nat := 0x7000 + block * 64 + 0x3F

/-- Context of a shared pennant's owner, where it is allocated (R199). -/
def State.penOwner (s : State) (die n : Nat) : Option Nat :=
  if s.flag (Reg.PEN_CFG die n) Fld.PEN_CFG_ALLOC then some (s.fld (Reg.PEN_CFG die n) Fld.PEN_CFG_CTX) else none

def State.hstOwner (s : State) (a : Nat) : Option Nat :=
  if s.flag a Fld.HST_CFG_ALLOC then some (s.fld a Fld.HST_CFG_CTX) else none

/-- Context of an interleave set, where it is valid (R217). -/
def State.setOwner (s : State) (n : Nat) : Option Nat :=
  if s.flag (Reg.NEAR_SET_CFG n) Fld.NEAR_SET_CFG_VALID then some (s.fld (Reg.NEAR_SET_CFG n) Fld.NEAR_SET_CFG_CTX)
  else none

def State.segCtx (s : State) (n i : Nat) : Option Nat :=
  if s.flag (Reg.RCH_SEG n i) Fld.RCH_SEG_VALID then some (s.fld (Reg.RCH_SEG n i) Fld.RCH_SEG_CTX) else none

/-- Context that owns a port group: that of the first of its ports that is owned (R242, R254).
DEDUCED: log entry 52. -/
def State.groupCtx (s : State) (g : Nat) : Option Nat :=
  ((List.range 4).filterMap fun p => mfind s.portOwner (4 * g + p)).head?

/-- Pseudo-channel of entry `i` of a set's channel list (R234). -/
def State.setEntry (s : State) (n i : Nat) : Nat := (s.reg (Reg.NEAR_SET_LIST n (i / 4))).toNat / 256 ^ (i % 4) % 256

/-- Pseudo-channels of a set: 2^LOG2N entries of its list; LOG2N 9 to 15 make it invalid (R217). -/
def State.setChannels (s : State) (n : Nat) : List Nat :=
  let l := s.fld (Reg.NEAR_SET_CFG n) Fld.NEAR_SET_CFG_LOG2N
  if 8 < l then [] else (List.range (2 ^ l)).map (s.setEntry n)

/-- A context of the near or reach blocks runs (R325): a core of it runs, or a request of it or a DMA command is
outstanding. -/
def State.tierRuns (s : State) (path : ReqPath) (x : Nat) : Bool :=
  s.partRuns x || (s.reqs.any fun r => r.path == path && s.coreCtx r.core == some x)
    || s.dmaCh.any fun (e : Nat × List DmaJob) =>
      e.2.any fun j => j.ctx == x && (if path = .near then decide (j.dev < reachBase) else decide (reachBase < j.dev + j.len))

/-- DEDUCED: log entry 78. -/
def optRuns (s : State) (o : Option Nat) : Bool :=
  match o with
  | some x => s.partRuns x
  | none => false

/-- Whether a register's owning block runs (R325), for its static fields. IMG_RES and IMG_RANK are static against the partition
of the committed load group (R328, R331), though R325 has the IMAGE block always run. DEDUCED: log entries 52, 78. -/
def State.ownerRuns (s : State) (r : RegSpec) (is : List Nat) : Bool :=
  let i0 := is.headD 0
  let i1 := is.getD 1 0
  match r.owner with
  | .coreUnit => s.coreRuns i0
  | .corePart => optRuns s (s.coreCtx i0)
  | .penRecord => optRuns s (s.penOwner i0 i1)
  | .xlt => s.partRuns i0
  | .land => optRuns s (mfind s.landOwner (i0 * 2048 + i1))
  | .hoistRecord =>
    if r.name.startsWith "XH" then optRuns s (s.hstOwner (Reg.XH_CFG i0)) else optRuns s (s.hstOwner (Reg.HST_CFG i0 i1))
  | .hxlt => s.partRuns i0
  | .nearSet =>
    match s.setOwner i0 with
    | some x => s.tierRuns .near x
    | none => false
  | .near => (List.range 8).any fun n =>
      match s.setOwner n with
      | some x => s.tierRuns .near x && (s.setChannels n).any fun pc => pc / 32 == i0
      | none => false
  | .rchSeg =>
    match s.segCtx i0 i1 with
    | some x => s.tierRuns .reach x
    | none => false
  | .reach => (List.range 16).any fun i =>
      match s.segCtx i0 i with
      | some x => s.tierRuns .reach x
      | none => false
  | .nirlo => optRuns s (s.groupCtx i0)
  | .step => optRuns s s.stepCtx
  | .image => optRuns s (s.boot.lastImg.map (·.1))
  | .clkEnIsl => false
  | .clkEnUnc => false
  | .dmaMap => true
  | .always => true

/-- Whether a register's held fields wait (R326): the block runs, or for STEP and the port groups a step is in progress
(R254, R281), or for HOST_DMA_MAP the channel is busy (applied per channel at idle, R409). -/
def State.heldWaits (s : State) (r : RegSpec) (is : List Nat) : Bool :=
  match r.boundary with
  | .step => s.stepActive
  | .nirloStep => s.inStep (s.groupCtx (is.headD 0))
  | .patrolRow => s.coreRuns (is.headD 0)
  | .window => if r.name = "MESH_CFG" then true else s.ownerRuns r is
  | .pattern => true
  | .dmaIdle => true
  | .none => false

/-- Mask of the fields of one class. -/
def accMask (r : RegSpec) (p : Access → Bool) : Nat :=
  r.fields.foldl (fun m f => if p f.access then m + (2 ^ f.width - 1) * 2 ^ f.lo else m) 0

/-- Bits under a mask replaced. -/
def maskPut (old mask new : Word) : Word := (old &&& ~~~mask) ||| (new &&& mask)

/-- A held write: a later one before the boundary replaces the bits it names. DEDUCED: log entry 77. -/
def State.hold (s : State) (a : Nat) (mask v : Word) : State :=
  match s.held.find? fun h => h.addr == a with
  | some h =>
    { s with held := s.held.map fun x =>
        if x.addr == h.addr then ⟨a, h.mask ||| mask, maskPut h.value mask v⟩ else x }
  | none => { s with held := s.held ++ [⟨a, mask, v &&& mask⟩] }

/-- Held writes of the registers that pass take effect (R326). -/
def State.applyHeld (s : State) (p : RegSpec → List Nat → Bool) : State :=
  let take (h : HeldWrite) : Bool := match regFind h.addr with
    | some (r, is, _) => p r is
    | none => false
  let s1 := (s.held.filter take).foldl (fun s h => s.setReg h.addr (maskPut (s.reg h.addr) h.mask h.value)) s
  { s1 with held := s.held.filter fun h => !take h }

/-- Bits that take a write at once wait no longer. -/
def State.unhold (s : State) (a : Nat) (mask : Word) : State :=
  let rest (h : HeldWrite) : Option HeldWrite :=
    if h.addr ≠ a then some h
    else if h.mask &&& ~~~mask = 0 then none
    else some ⟨a, h.mask &&& ~~~mask, h.value &&& ~~~mask⟩
  if mask = 0 then s else { s with held := s.held.filterMap rest }

/-- One write of a whole register by its classes (R7, R8, R326), whose value in effect is `old`. Fields with a command of
their own (WO, and those listed in `keep`) are not written here. A held field that takes the write at once drops what was
held before. RWC fields are stored as written; what has been committed stands elsewhere (R328). -/
def State.putReg (s : State) (who : Writer) (a : Nat) (r : RegSpec) (is : List Nat) (old v : Word) (keep : Nat) : State :=
  let drop := BitVec.ofNat 64 keep
  let m (p : Access → Bool) : Word := BitVec.ofNat 64 (accMask r p) &&& ~~~drop
  let mRws := m fun x => x == .rws
  let live := s.ownerRuns r is
  let bad := live && (old &&& mRws) != (v &&& mRws)
  let mRwh := m fun x => x == .rwh
  let wait := mRwh != 0 && s.heldWaits r is
  let mNow := (m fun x => x == .rw || x == .rwc) ||| (if live then 0 else mRws) ||| (if wait then 0 else mRwh)
  let mClr := m (fun x => x == .w1c) &&& v
  let s := s.setReg a (maskPut old mNow v &&& ~~~mClr)
  let s := if wait then s.hold a mRwh v else s.unhold a mRwh
  if bad then s.cfgError who (cfgLive r.block) a else s

/-- A register's fields that the image loader sets (R7, R8): no reserved bit, no field that only the part writes. -/
def State.imgPut (s : State) (a : Nat) (v : Word) : State :=
  match regFind a with
  | some (r, _, 0) =>
    s.setReg a (maskPut (s.reg a) (BitVec.ofNat 64 (accMask r fun x => x == .rw || x == .rws || x == .rwh || x == .rwc)) v)
  | _ => s

def State.imgPuts (s : State) (l : List (Nat × Word)) : State := l.foldl (fun s w => s.imgPut w.1 w.2) s

/-- A register as a read returns it (R8, R326): held fields read as last written, write-only fields as zero. -/
def State.getReg (s : State) (a : Nat) : Word :=
  match s.held.find? fun h => h.addr == a with
  | some h => maskPut (s.reg a) h.mask h.value
  | none => s.reg a

end Sys2Proof.Machine
end

