-- ==== Sys2Proof/Machine/Memory.lean ====
section
/-! DEFINITION. Where a sector lies and how it is reached: the decode of the tiers (R217, R224), the checks of R154,
the mesh stops and routes (R204, R209, R210), protected reads and writes of sectors (R170, R177, R178, R218–R220), and the
sectors that a core asks for outside its own scratchpad (R176). -/

namespace Sys2Proof.Machine

open Sys2Proof

inductive Space where
  | near | reach | spad
  deriving DecidableEq, Repr

/-- A sector's place: its memory, its key there, its device address. -/
structure Loc where
  space : Space
  key : Nat
  addr : Nat
  deriving DecidableEq, Repr

namespace State

/-- Whether a set decodes an address (R217). -/
def setCovers (s : State) (n a : Nat) : Bool :=
  let w := Reg.NEAR_SET_CFG n
  let l := s.fld w Fld.NEAR_SET_CFG_LOG2N
  let b := s.fld w Fld.NEAR_SET_CFG_BASE * 2 ^ 31
  s.flag w Fld.NEAR_SET_CFG_VALID && decide (l ≤ 8) && decide (b ≤ a) && decide (a < b + 2 ^ l * 2 ^ 31)

/-- The set that decodes a near address: the lowest valid one that covers it (R217). -/
def nearSetOf (s : State) (a : Nat) : Option Nat := (List.range 8).find? fun n => s.setCovers n a

/-- Pseudo-channel and address within it (R217). -/
def nearDecode (s : State) (n a : Nat) : Nat × Nat :=
  let w := Reg.NEAR_SET_CFG n
  let l := s.fld w Fld.NEAR_SET_CFG_LOG2N
  let off := a - s.fld w Fld.NEAR_SET_CFG_BASE * 2 ^ 31
  let g := off / 512
  let i := (g ^^^ (g / 2 ^ l)) % 2 ^ l
  (s.setEntry n i, g / 2 ^ l * 512 + off % 512)

/-- Port, aperture segment and device physical address of a reach address (R224), where the segment is valid and its
device segment lies within the device. -/
def reachDecode (s : State) (a : Nat) : Option (Nat × Nat × Nat) :=
  let o := a - reachBase
  let n := o / 2 ^ 38
  let i := o % 2 ^ 38 / 2 ^ 34
  let dpa := s.fld (Reg.RCH_SEG n i) Fld.RCH_SEG_DSEG * 2 ^ 34 + o % 2 ^ 34
  if s.flag (Reg.RCH_SEG n i) Fld.RCH_SEG_VALID ∧ dpa < s.fld (Reg.RCH_STAT n) Fld.RCH_STAT_CAP_GIB * 2 ^ 30
  then some (n, i, dpa) else none

/-- The place of a sector and the context that owns it, where it exists (R154). A disabled core's scratchpad does not. -/
def place (s : State) (a : Nat) : Option (Loc × Option Nat) :=
  if a < nearTop then
    match s.nearSetOf a with
    | some n =>
      let (pc, pa) := s.nearDecode n a
      some (⟨.near, pc * 2 ^ 31 + pa, a⟩, s.setOwner n)
    | none => none
  else if reachBase ≤ a ∧ a < spadBase then
    match s.reachDecode a with
    | some (n, i, dpa) => some (⟨.reach, n * 2 ^ 39 + dpa, a⟩, s.segCtx n i)
    | none => none
  else if spadBase ≤ a ∧ a < spadBase + nCores * 0x20_0000 then
    let c := (a - spadBase) / 0x20_0000
    if s.coreEnabled c then some (⟨.spad, a - spadBase, a⟩, s.coreCtx c) else none
  else none

/-- The check of R154 for a requester in a context. -/
def locate (s : State) (ctx : Option Nat) (a : Nat) : Option Loc :=
  match s.place a, ctx with
  | some (l, some o), some x => if o = x then some l else none
  | _, _ => none

end State

/-! Stops and routes. -/

/-- Router of perimeter position `e` of a die (R204). -/
def stopRouter (die e : Nat) : Nat :=
  let col := if e ≤ 31 then 31 - e else 0
  let row := if e ≤ 31 then 0 else e - 32
  let col := if die % 2 = 0 then col else 63 - col
  let row := if die / 2 = 0 then row else 35 - row
  row * 64 + col

/-- The units of the stops (R204): near stacks 0–7, reach ports 8–11, Nirlo groups 12–19, host port 20, side
controllers 21. -/
def unitStops (u : Nat) : List (Nat × Nat) :=
  let r (die lo n : Nat) := (List.range n).map fun k => (die, lo + k)
  if u < 8 then r (u / 2) (if u % 2 = 0 then 22 else 0) 13
  else if u < 12 then r (u - 8) 44 3
  else if u < 20 then r ((u - 12) / 2) (if u % 2 = 0 then 35 else 13) 9
  else if u = 20 then r 0 47 2
  else r 0 49 1

/-- Number of a stop as a destination of MR_NEXT (R215). -/
def stopDest (p : Nat × Nat) : Nat := nCores + 50 * p.1 + p.2

/-- Number of the stop at a router's perimeter port (R204, R215): code 5, at a corner the one on the edge along a row; code 6
a corner's other one. -/
def stopAt (router code : Nat) : Option Nat :=
  let die := coreDie router
  let col := if die % 2 = 0 then coreCol router else 63 - coreCol router
  let row := if die / 2 = 0 then coreRow router else 35 - coreRow router
  let e (n : Nat) : Option Nat := some (stopDest (die, n))
  if row = 0 ∧ code = 5 then e (31 - col)
  else if col = 0 ∧ (if row = 0 then code = 6 else code = 5) then e (32 + row)
  else none

inductive Walk where
  /-- Arrives after so many hops, seam crossings counted as three. -/
  | arrives (hops : Nat)
  /-- A next-hop entry on the way is marked unreachable. -/
  | unreachable
  /-- A table written by hand never delivers it (R209). -/
  | lost
  deriving DecidableEq, Repr

/-- The neighbouring router in a direction: 1 north, 2 east, 3 south, 4 west; and the hops it counts. -/
def neighbour (router d : Nat) : Option (Nat × Nat) :=
  let r := coreRow router
  let c := coreCol router
  match d with
  | 1 => if r = 0 then none else some (router - 64, if r = 18 then 3 else 1)
  | 2 => if c = 63 then none else some (router + 1, if c = 31 then 3 else 1)
  | 3 => if r = 35 then none else some (router + 64, if r = 17 then 3 else 1)
  | 4 => if c = 0 then none else some (router - 1, if c = 32 then 3 else 1)
  | _ => none

/-! The next-hop tables as firmware builds them at an image load (R209). -/

/-- The routers of the die's banks, which carry their bank's traffic even where their core is disabled (R429). -/
def bankRouters : List Nat := [527, 560, 1743, 1776]

/-- A route may end at a router. -/
def State.endsAt (s : State) (d : Nat) : Bool := s.coreEnabled d || bankRouters.contains d

/-- A route to `d` may go through a router, or end there. -/
def State.carries (s : State) (d r : Nat) : Bool := if r = d then s.endsAt d else s.coreEnabled r

/-- The move of the dimension order: along the row, then along the column. -/
def orderMove (r d : Nat) : Nat :=
  if coreCol r < coreCol d then 2 else if coreCol d < coreCol r then 4 else if coreRow d < coreRow r then 1 else 3

/-- No router that the dimension order enters on the way is disabled. -/
def State.orderFree (s : State) (d : Nat) : Nat → Nat → Bool
  | 0, _ => false
  | fuel + 1, r =>
    if r = d then true
    else
      match neighbour r (orderMove r d) with
      | some (n, _) => s.carries d n && s.orderFree d fuel n
      | none => false

/-- Hops of the routers that are exactly `k` from `d`, entered where they are reached; the others as before. -/
def State.spreadAt (s : State) (d k : Nat) (dist : Array (Option Nat)) : Array (Option Nat) :=
  Array.ofFn (n := nCores) fun r =>
    match dist.getD r.val none with
    | some h => some h
    | none =>
      if r.val = d then (if k = 0 then some 0 else none)
      else if [1, 2, 3, 4].any fun e =>
          match neighbour r.val e with
          | some (n, w) => s.carries d n && dist.getD n none == some (k - w) && decide (w ≤ k)
          | none => false
        then some k else none

/-- Hops to `d` along routers that are not disabled, until `r` has its count. -/
def State.spread (s : State) (d r : Nat) : Nat → Nat → Array (Option Nat) → Array (Option Nat)
  | 0, _, dist => dist
  | fuel + 1, k, dist => if (dist.getD r none).isSome then dist else s.spread d r fuel (k + 1) (s.spreadAt d k dist)

/-- The first move, in the order east, west, north, south, on a shortest path that avoids every disabled router; 7 where
there is none. A move that leaves the dimension order takes the detour class, bit 3. -/
def State.detour (s : State) (r d : Nat) : Nat :=
  let dist := s.spread d r (3 * nCores) 0 #[]
  match dist.getD r none with
  | none => 7
  | some h =>
    match [2, 4, 1, 3].find? fun e =>
        match neighbour r e with
        | some (n, w) => s.carries d n && (dist.getD n none).any fun x => x + w == h
        | none => false with
    | some e => e + if e = orderMove r d then 0 else 8
    | none => 7

/-- The entry that firmware builds at a router for a destination (R209, R215): a core, or a stop of a die.
DEDUCED: log entry 38. -/
def State.builtHop (s : State) (router dest : Nat) : Nat :=
  let stop := dest - nCores
  let d := if dest < nCores then dest else stopRouter (stop / 50) (stop % 50)
  if nCores + 200 ≤ dest then 15
  else if !s.endsAt d then 7
  else if router = d then (if dest < nCores then 0 else if stop % 50 = 32 then 6 else 5)
  else if s.orderFree d 100 router then orderMove router d
  else s.detour router d

/-- The next-hop entry of a router for a destination (R215): as written, else as built at the last load, else its reset
value. DEDUCED: log entry 38. -/
def State.hopEntry (s : State) (router dest : Nat) : Nat :=
  match mfind s.regs (Reg.MR_NEXT router (dest / 8)) with
  | some w => w.toNat / 16 ^ (dest % 8) % 16
  | none => if s.routed then s.builtHop router dest else 15

def State.nextHop (s : State) (router dest : Nat) : Nat := s.hopEntry router dest % 8

/-- A word of MR_NEXT. -/
def State.hopWord (s : State) (router w : Nat) : Word :=
  BitVec.ofNat 64 (((List.range 8).map fun i => s.hopEntry router (8 * w + i) * 16 ^ i).sum)

/-- An address of MR_NEXT. -/
def isRoute (a : Nat) : Bool :=
  decide (ctrlBase ≤ a ∧ a < globalBase ∧ 0x3A00 ≤ a % 0x1_0000 ∧ a % 0x1_0000 < 0x3F00)

/-- The static route, hop by hop through the tables as they stand (R209, R210). A table written by hand may lead to another
router's core or stop. DEDUCED: log entry 38. -/
def State.walk (s : State) (dest : Nat) : Nat → Nat → Nat → Walk
  | 0, _, _ => .lost
  | fuel + 1, router, h =>
    match s.nextHop router dest with
    | 0 => if dest = router then .arrives h else .lost
    | 7 => .unreachable
    | 5 => if stopAt router 5 = some dest then .arrives (h + 1) else .lost
    | 6 =>
      match stopAt router 6 with
      | none => .unreachable
      | some p => if p = dest then .arrives (h + 1) else .lost
    | d =>
      match neighbour router d with
      | some (r, k) => s.walk dest fuel r (h + k)
      | none => .lost

def State.route (s : State) (router dest : Nat) : Walk := if dest = router then .arrives 0 else s.walk dest 5000 router 0

/-- Hops of the dimension order, seam crossings counted as three. -/
def orderHops (r d : Nat) : Nat :=
  let dist (a b : Nat) : Nat := max a b - min a b
  dist (coreCol r) (coreCol d) + (if coreCol r / 32 = coreCol d / 32 then 0 else 2)
    + dist (coreRow r) (coreRow d) + (if coreRow r / 18 = coreRow d / 18 then 0 else 2)

/-- Hops of the route that firmware builds from a router to another (R209), where there is one. -/
def State.builtHops (s : State) (r d : Nat) : Option Nat :=
  if !s.endsAt d then none
  else if r = d then some 0
  else if s.orderFree d 100 r then some (orderHops r d)
  else (s.spread d r (3 * nCores) 0 #[]).getD r none

/-- The stop a request uses: fewest hops of the routes that firmware builds, ties to the lowest position; no table written
later moves the choice (R204). -/
def State.stopFor (s : State) (router u : Nat) : Option (Nat × Nat) :=
  ((unitStops u).foldl (fun (b : Option (Nat × Nat × Nat)) p =>
    match s.builtHops router (stopRouter p.1 p.2), b with
    | some h, some (_, _, h') => if h < h' then some (p.1, p.2, h) else b
    | some h, none => some (p.1, p.2, h)
    | none, _ => b) none).map fun x => (x.1, x.2.1)

/-- The route of a core's sector to the core or unit that holds its place (R204, R209): a tier's controller by its stop, a
core's own scratchpad without the mesh. -/
def State.secRoute (s : State) (c : Nat) (l : Loc) : Walk :=
  let stop (u : Nat) : Walk :=
    match s.stopFor c u with
    | some p => s.route c (stopDest p)
    | none => .unreachable
  match l.space with
  | .spad => s.route c (l.key / 0x20_0000)
  | .near => stop (l.key / 2 ^ 31 / 32)
  | .reach => stop (8 + l.key / 2 ^ 39)

/-- Whether a core's sector for a place can be sent: no unreachable next hop on its route (R210). DEDUCED: log entry 38. -/
def State.routeOk (s : State) (c : Nat) (l : Loc) : Bool := s.secRoute c l != .unreachable

/-! Reads and writes of sectors. -/

/-- A core's scratchpad that scrubs answers reads with +0 and discards writes (R181). -/
def State.scrubs (s : State) (c : Nat) : Bool := (s.core c).scrubbing

/-- A place in a block whose clock is not enabled (R339, R340): the core's island, the stack's controller, the port. -/
def State.gated (s : State) (l : Loc) : Bool :=
  match l.space with
  | .near => !s.uncEnabled (8 + l.key / 2 ^ 31 / 32)
  | .reach => !s.uncEnabled (16 + l.key / 2 ^ 39)
  | .spad => !s.islEnabled (coreIsland (l.key / 0x20_0000))

/-- A sector as a read finds it; a gated block reads as +0 (R340). -/
def State.rdLoc (s : State) (l : Loc) : Sector :=
  if s.gated l then 0 else
  match l.space with
  | .near => memSector s.near l.key
  | .reach => memSector s.reach l.key
  | .spad => if s.scrubs (l.key / 0x20_0000) then 0 else memSector s.spad l.key

/-- Device address of the uncorrectable word or sector that a read of this sector meets. -/
def State.ueLoc (s : State) (l : Loc) : Option Nat :=
  if s.gated l then none else
  match l.space with
  | .near => if s.nearUe.contains (l.key / 32) then some l.addr else none
  | .reach => if (mfind s.reachUe (l.key / 32)).isSome then some l.addr else none
  | .spad =>
    if s.scrubs (l.key / 0x20_0000) then none
    else ((List.range 8).find? fun i => s.spUe.contains (l.key / 4 + i)).map fun i => l.addr + 4 * i

/-- Words with one wrong bit that a read of this sector corrects (R177, R219): a near sector counts as one. -/
def State.weakIn (s : State) (l : Loc) : Nat :=
  if s.gated l then 0 else
  match l.space with
  | .near => if s.nearWeak.contains (l.key / 32) then 1 else 0
  | .reach => 0
  | .spad =>
    if s.scrubs (l.key / 0x20_0000) then 0
    else ((List.range 8).filter fun i => s.spWeak.contains (l.key / 4 + i)).length

/-- Errors corrected on a read are counted where the sector lies (R177, R219). -/
def State.corrects (s : State) (l : Loc) (n : Nat) : State :=
  if n = 0 then s else
  match l.space with
  | .near => s.bump (Reg.NEAR_ECC (l.key / 2 ^ 31 / 32)) Fld.NEAR_ECC_CORR_CNT n
  | .reach => s
  | .spad => s.bump (Reg.SP_ECC (l.key / 0x20_0000)) Fld.SP_ECC_CORR_CNT n

/-- A place in a region that is being scrubbed: only full debug reads it (R232). DEDUCED: log entries 46, 99. -/
def State.scrubHides (s : State) (l : Loc) : Bool :=
  match l.space with
  | .near => (List.range 8).any fun n =>
      (s.flag (Reg.NEAR_SCRUB n) Fld.NEAR_SCRUB_BUSY || s.nearWait.contains n)
        && (s.setChannels n).contains (l.key / 2 ^ 31)
  | .reach => match s.reachDecode l.addr with
    | some (n, i, _) => s.flag (Reg.RCH_SEG n i) Fld.RCH_SEG_SCRUB
    | none => false
  | .spad => false

/-- A sector as its memory answers a read, with what the read corrects counted (R177, R219): none over an uncorrectable word;
a region that is being scrubbed answers +0 (R232). -/
def State.takeLoc (s : State) (l : Loc) : State × Option Sector :=
  if (s.ueLoc l).isSome then (s, none)
  else if s.scrubHides l then (s, some 0)
  else (s.corrects l (s.weakIn l), some (s.rdLoc l))

/-- A place in a pseudo-channel that is being margined, which serves nothing (R229). -/
def State.margined (s : State) (l : Loc) : Bool :=
  l.space == .near && mfind s.nearMargin (l.key / 2 ^ 31 / 32) == some (l.key / 2 ^ 31 % 32)

/-- Byte enables of word `i` of a sector. -/
def wordBe (be : Word32) (i : Nat) : Nat := be.toNat / 16 ^ i % 16

/-! The route window and the combine region (R302, R307). -/

/-- Entries of a build: NTOK × KSEL. -/
def State.routeCount (s : State) (c : Nat) : Nat :=
  (s.fld (Reg.RT_CFG c) Fld.RT_CFG_NTOK_M1 + 1) * (s.fld (Reg.RT_CFG c) Fld.RT_CFG_KSEL_M1 + 1)

/-- Bytes of the sector at a scratchpad offset that lie in the core's route window. -/
def State.windowBe (s : State) (c off : Nat) : Word32 :=
  if s.flag (Reg.RT_CFG c) Fld.RT_CFG_EN then
    let w := s.fld (Reg.RT_WIN c) Fld.RT_WIN_OFFSET
    let e := w + 4 * s.routeCount c
    if off + 32 ≤ w ∨ e ≤ off then 0
    else BitVec.ofNat 32 ((List.range 32).foldl (fun m i => if w ≤ off + i ∧ off + i < e then m + 2 ^ i else m) 0)
  else 0

def State.combNexp (s : State) (c : Nat) : Nat := s.fld (Reg.CB_CFG c) Fld.CB_CFG_NEXP_M1 + 1

/-- Row sectors of a lane: C_LANE × ROW_SEC. -/
def State.combRows (s : State) (c : Nat) : Nat :=
  (s.fld (Reg.CB_CFG c) Fld.CB_CFG_C_LANE_M1 + 1) * (s.fld (Reg.CB_CFG c) Fld.CB_CFG_ROW_SEC_M1 + 1)

/-- A scratchpad offset lies in the core's answer-header slots or lane rows, and its combine unit is on.
DEDUCED: log entry 73. -/
def State.inCombine (s : State) (c off : Nat) : Bool :=
  s.flag (Reg.CB_CFG c) Fld.CB_CFG_EN &&
    (let h := s.fld (Reg.CB_HDR c) Fld.CB_HDR_OFFSET
     let r := s.fld (Reg.CB_ROWS c) Fld.CB_ROWS_OFFSET
     let n := 2 * s.combNexp c
     (decide (h ≤ off) && decide (off < h + 32 * n)) || (decide (r ≤ off) && decide (off < r + 32 * n * s.combRows c)))

/-- A sector waits for the route unit. DEDUCED: log entry 73. -/
def State.pushWindow (s : State) (c off : Nat) (d : Sector) (be : Word32) : State :=
  if be = 0 then s
  else s.modCore c fun k => { k with route := { k.route with winq := k.route.winq ++ [(off, d, be)] } }

/-- A sector write with byte enables (R167, R170, R218): the second part names an uncorrectable word or sector that a
merge read met, and the write is then discarded (R178, R220). A merge read corrects and counts; what is written is right
again. -/
def State.stLoc (s : State) (l : Loc) (d : Sector) (be : Word32) : State × Option Nat :=
  if s.gated l then (s, none) else
  match l.space with
  | .reach => ({ s with
      reach := memPutBe s.reach l.key d.toNat be.toNat 32
      reachUe := if be = beAll then mdel s.reachUe (l.key / 32) else s.reachUe }, none)
  | .near =>
    let k := l.key / 32
    if be ≠ beAll ∧ be ≠ 0 ∧ s.nearUe.contains k then (s, some l.addr)
    else
      let s := if be = beAll ∨ be = 0 then s else s.corrects l (s.weakIn l)
      ({ s with
          near := memPutBe s.near l.key d.toNat be.toNat 32
          nearUe := if be = 0 then s.nearUe else s.nearUe.filter (· != k)
          nearWeak := if be = 0 then s.nearWeak else s.nearWeak.filter (· != k) }, none)
  | .spad =>
    let c := l.key / 0x20_0000
    if s.scrubs c then (s, none)
    else
      let win := be &&& s.windowBe c (l.key % 0x20_0000)
      let s := s.pushWindow c (l.key % 0x20_0000) d win
      let be := be &&& ~~~win
      let merges (i : Nat) : Bool := wordBe be i != 0 && wordBe be i != 15
      match (List.range 8).find? fun i => merges i && s.spUe.contains (l.key / 4 + i) with
      | some i => (s, some (l.addr + 4 * i))
      | none =>
        let s := s.corrects l ((List.range 8).filter fun i => merges i && s.spWeak.contains (l.key / 4 + i)).length
        let whole (w : Nat) : Bool := decide (l.key / 4 ≤ w) && decide (w < l.key / 4 + 8) && wordBe be (w - l.key / 4) == 15
        let some_ (w : Nat) : Bool := decide (l.key / 4 ≤ w) && decide (w < l.key / 4 + 8) && wordBe be (w - l.key / 4) != 0
        ({ s with
            spad := memPutBe s.spad l.key d.toNat be.toNat 32
            spUe := s.spUe.filter fun w => !whole w
            spWeak := s.spWeak.filter fun w => !some_ w },
          none)

/-- An uncorrectable scratchpad word is recorded (R182): SP_UE_LOC only when UE goes from 0 to 1.
DESIGN CHOICE: log entry 39. -/
def State.noteSpUe (s : State) (c src off : Nat) : State :=
  let a := Reg.SP_ECC c
  if s.flag a Fld.SP_ECC_UE then s
  else ((s.setFld a Fld.SP_ECC_UE 1).setFld a Fld.SP_ECC_UE_SRC src).setReg (Reg.SP_UE_LOC c)
    (BitVec.ofNat 64 (off / 4 * 4))

/-- An uncorrectable near sector is recorded (R220, R234). -/
def State.noteNearUe (s : State) (pc src addr : Nat) : State :=
  let a := Reg.NEAR_ECC (pc / 32)
  if s.flag a Fld.NEAR_ECC_UE then s
  else (((s.setFld a Fld.NEAR_ECC_UE 1).setFld a Fld.NEAR_ECC_UE_SRC src).setFld a Fld.NEAR_ECC_UE_PC (pc % 32)).setReg
    (Reg.NEAR_UE_ADDR (pc / 32)) (BitVec.ofNat 64 addr)

/-- E_MEM_UE or E_REACH_LINK on a reach port is recorded (R226, R234): kind 0 error, 1 timeout, 2 link down. -/
def State.noteReachUe (s : State) (n kind addr : Nat) : State :=
  let a := Reg.RCH_ECC n
  if s.flag a Fld.RCH_ECC_UE then s
  else ((s.setFld a Fld.RCH_ECC_UE 1).setFld a Fld.RCH_ECC_UE_KIND kind).setReg (Reg.RCH_UE_ADDR n)
    (BitVec.ofNat 64 addr)

/-- The record of an uncorrectable read met at a place by scratchpad port `src` (R182). -/
def State.noteUe (s : State) (l : Loc) (src addr : Nat) : State :=
  match l.space with
  | .spad => s.noteSpUe (l.key / 0x20_0000) src (addr % 0x20_0000)
  | .near => s.noteNearUe (l.key / 2 ^ 31) 0 l.addr
  | .reach => s.noteReachUe (l.key / 2 ^ 39) (mget s.reachUe 0 (l.key / 32)) l.addr

/-- E_MEM_UE of a place (R178, R233). -/
def ueCode (l : Loc) : Nat :=
  match l.space with
  | .spad => 0x4201
  | .near => 0x4481
  | .reach => 0x44C1

/-- A write that arrives through the mesh: the combine unit takes what is for its lanes (R307), the rest is stored. -/
def State.meshTry (s : State) (l : Loc) (d : Sector) (be : Word32) : State × Option Nat :=
  let c := l.key / 0x20_0000
  let off := l.key % 0x20_0000
  if l.space = .spad ∧ ¬ s.gated l ∧ ¬ s.scrubs c ∧ s.inCombine c off then
    (s.modCore c fun k => { k with route := { k.route with combq := k.route.combq ++ [(off, d, be)] } }, none)
  else s.stLoc l d be

/-- Whether the link of a reach port is up. -/
def State.reachUp (s : State) (n : Nat) : Bool := s.flag (Reg.RCH_STAT n) Fld.RCH_STAT_LINK_UP

/-- A place behind a reach link that is down; a port whose clock is not enabled answers before its link (R340). -/
def State.cutOff (s : State) (l : Loc) : Bool := l.space == .reach && !s.gated l && !s.reachUp (l.key / 2 ^ 39)

/-- The context that owns a place. -/
def State.locCtx (s : State) (l : Loc) : Option Nat := (s.place l.addr).bind (·.2)

/-- A landing notice under way (R191). -/
def State.notice (s : State) (dev core : Nat) : State :=
  let k := dev * 4096 + core
  { s with notices := mset s.notices k (mget s.notices 0 k + 1) }

/-- A write of no core's instruction reaches the memory that holds its sector, and the sectors in it land (R191): it waits
while the pseudo-channel is margined (R229); one lost with its link or discarded over an uncorrectable word is recorded and
reported, and lands nothing (R220, R226). -/
def State.meshSt (s : State) (l : Loc) (d : Sector) (be : Word32) (srcs : List (Nat × Nat) := [])
    (fn : Option Nat := none) : State :=
  if s.cutOff l then (s.noteReachUe (l.key / 2 ^ 39) 2 l.addr).report 0x34C4 (s.locCtx l) none l.addr
  else if s.margined l then { s with parked := s.parked ++ [⟨l.addr, d, be, srcs, fn⟩] }
  else
    match s.meshTry l d be with
    | (s, none) => srcs.foldl (fun s x => s.notice x.1 x.2) s
    | (s, some u) => (s.noteUe l 4 u).report (ueCode l) (s.locCtx l) none u

/-- A sector as the host port or a Nirlo port reads it, what the read corrects counted: none, recorded, where it cannot be
corrected or its link is down (R220, R226); a region that is being scrubbed answers +0. DEDUCED: log entry 99. -/
def State.meshRead (s : State) (l : Loc) : State × Option Sector :=
  if s.cutOff l then (s.noteReachUe (l.key / 2 ^ 39) 2 l.addr, none)
  else
    match s.takeLoc l, s.ueLoc l with
    | (s, none), u => (s.noteUe l 4 (u.getD l.addr), none)
    | r, _ => r

/-- Sectors so read, up to the first that fails. -/
def State.meshReads (s : State) : List Loc → State × List Byte × Option Loc
  | [] => (s, [], none)
  | l :: ls =>
    match s.meshRead l with
    | (s, none) => (s, [], some l)
    | (s, some d) => let r := s.meshReads ls; (r.1, natBytes d.toNat 32 ++ r.2.1, r.2.2)

/-- A host or Nirlo access waits while a pseudo-channel that it reads is being margined (R229). -/
def State.holdFor (s : State) (i : Instr) (ls : List Loc) (f : State) : State :=
  if ls.any s.margined then { s with margHeld := s.margHeld ++ [i] } else f

/-- Code of a class 1 error of a stream with the given cause (R147). -/
def strmCode (t : Strm) (cause : Nat) : Nat := 0x1000 + sidx t * 64 + cause

/-- A failed access: code, detail, and the place to record. -/
structure AccErr where
  code : Nat
  detail : Nat
  note : Option (Loc × Nat)
  deriving DecidableEq, Repr

/-- Whether a core may reach a sector: R154, then R210, then R340. -/
def State.reachSec (s : State) (c : Nat) (t : Strm) (a : Nat) : Except AccErr Loc :=
  match s.locate (s.coreCtx c) a with
  | none => .error ⟨strmCode t 0x0B, a, none⟩
  | some l =>
    if !s.routeOk c l then .error ⟨strmCode t 0x0C, a, none⟩
    else if s.gated l && s.flag Reg.CLK_CFG Fld.CLK_CFG_GATE_ERR_COMPAT then .error ⟨strmCode t 0x0D, a, none⟩
    else .ok l

/-! What a core asks for outside its own scratchpad (R176). -/

/-- A request leaves for the memory that holds a sector. -/
def State.request (s : State) (c iid : Nat) (l : Loc) (lcr sent : Bool) (k : ReqKind) : State :=
  let path : ReqPath := match l.space with
    | .near => .near
    | .reach => .reach
    | .spad => .remote
  { s with
    reqs := s.reqs ++ [{ id := s.nextId, core := c, iid := iid, path := path, addr := l.addr, lcr := lcr, sent := sent,
                         kind := k, stage := .issued }]
    nextId := s.nextId + 1 }

/-- A place in the core's own scratchpad. -/
def Loc.own (l : Loc) (c : Nat) : Bool := l.space == .spad && l.key / 0x20_0000 == c

/-- The accesses made from here on are those of `key`. -/
def State.accessing (s : State) (c : Nat) (key : FeedKey) : State := s.modCore c fun k => { k with now := key }

/-- Number of the instruction whose accesses are made. -/
def State.nowIid (s : State) (c : Nat) : Nat :=
  match (s.core c).now with
  | .issue _ => (s.core c).nextIid
  | .job i => i

/-- What has become of a sector, or of a word to count, for the accesses that are made. -/
def State.feedOf (s : State) (c a : Nat) : Option FeedData :=
  ((s.core c).feeds.find? fun f => f.key == (s.core c).now && f.addr == a).map (·.data)

def State.addFeed (s : State) (c a : Nat) (d : FeedData) : State :=
  s.modCore c fun k => { k with feeds := k.feeds ++ [⟨k.now, a, d⟩] }

/-- An answer for a sector that was asked for; one that nothing waits for any longer is dropped. -/
def State.fillFeed (s : State) (c : Nat) (key : FeedKey) (a : Nat) (d : FeedData) : State :=
  s.modCore c fun k => { k with
    feeds := k.feeds.map fun f => if f.key = key ∧ f.addr = a then { f with data := d } else f }

/-- What was asked for under a key is used up. -/
def State.dropFeeds (s : State) (c : Nat) (key : FeedKey) : State :=
  if (s.core c).feeds.any fun f => f.key == key then
    s.modCore c fun k => { k with feeds := k.feeds.filter fun f => f.key != key }
  else s

/-- Not an error: the access waits for the sector at this address, asked for as latency-critical or not. -/
def askErr (a : Nat) (lcr : Bool) : AccErr := ⟨0, a + (if lcr then 2 ^ 48 else 0), none⟩

/-- Not an error: the access corrects words of this sector, which are to be counted. -/
def countErr (l : Loc) : AccErr := ⟨0, l.addr, some (l, 0)⟩

/-- The access is to be made again once what it asks for has come. -/
def AccErr.asks (e : AccErr) : Bool := e.code == 0

/-- A sector read by a unit of core `c`, under the accesses made now: its own scratchpad at once, any other memory through a
request (R176); `src` is the scratchpad port. DEDUCED: log entry 107. -/
def State.readSec (s : State) (c : Nat) (t : Strm) (src a : Nat) (lcr : Bool := false) : Except AccErr Sector :=
  match s.reachSec c t a with
  | .error e => .error e
  | .ok l =>
    if l.own c then
      match s.ueLoc l with
      | some d => .error ⟨ueCode l, d, some (l, src)⟩
      | none => if s.weakIn l = 0 ∨ s.feedOf c a = some .counted then .ok (s.rdLoc l) else .error (countErr l)
    else
      match s.feedOf c a with
      | some (.data d) => .ok d
      | some (.bad code detail) => .error ⟨code, detail, none⟩
      | _ => if s.cutOff l then .error ⟨0x34C4, a, some (l, 2)⟩ else .error (askErr a (lcr || l.space == .spad))

/-- A sector written by a unit of core `c`: at once in its own scratchpad, a request elsewhere (R176). -/
def State.writeSec (s : State) (c : Nat) (t : Strm) (src a : Nat) (d : Sector) (be : Word32) : Except AccErr State :=
  match s.reachSec c t a with
  | .error e => .error e
  | .ok l =>
    if l.own c then
      match s.stLoc l d be with
      | (_, some u) => .error ⟨ueCode l, u, some (l, src)⟩
      | (s', none) => .ok s'
    else if s.cutOff l then .error ⟨0x34C4, a, some (l, 2)⟩
    else .ok (s.request c (s.nowIid c) l false false (.write d be))

/-- What an access asks for: a request for the sector, or its corrected words counted. -/
def State.askFor (s : State) (c : Nat) (e : AccErr) : State :=
  match e.note with
  | some (l, _) => (s.corrects l (s.weakIn l)).addFeed c l.addr .counted
  | none =>
    let a := e.detail % 2 ^ 48
    match s.feedOf c a, s.locate (s.coreCtx c) a with
    | none, some l => (s.request c (s.nowIid c) l (2 ^ 48 ≤ e.detail) false (.feed (s.core c).now)).addFeed c a .asked
    | _, _ => s

/-- A sector that a core's port has read once the row that names the access comes: no request is modelled. -/
def State.fetchSec (s : State) (c : Nat) (t : Strm) (src a : Nat) : State × Except AccErr Sector :=
  match s.reachSec c t a with
  | .error e => (s, .error e)
  | .ok l =>
    if s.cutOff l then (s, .error ⟨0x34C4, a, some (l, 2)⟩)
    else
      match s.takeLoc l, s.ueLoc l with
      | (s, some d), _ => (s, .ok d)
      | (s, none), u => (s, .error ⟨ueCode l, u.getD l.addr, some (l, if l.own c then src else 4)⟩)

/-- A sector wherever it lies, without checks: what a unit looks up to learn the extent of its own later accesses. -/
def State.rdAt (s : State) (a : Nat) : Sector :=
  match s.place a with
  | some (l, _) => s.rdLoc l
  | none => 0

/-- What a failed access leaves in the records of the memory it met. -/
def State.noteErr (s : State) (e : AccErr) : State :=
  match e.note with
  | some (l, src) => if e.code = 0x34C4 then s.noteReachUe (l.key / 2 ^ 39) 2 e.detail else s.noteUe l src e.detail
  | none => s

/-- Bytes read through a core's port, sector by sector. -/
def State.readBytes (s : State) (c : Nat) (t : Strm) (src : Nat) : Nat → Nat → Except AccErr (List Sector)
  | _, 0 => .ok []
  | a, n + 1 =>
    match s.readSec c t src a with
    | .error e => .error e
    | .ok d =>
      match s.readBytes c t src (a + 32) n with
      | .error e => .error e
      | .ok ds => .ok (d :: ds)

end Sys2Proof.Machine
end

