-- ==== Sys2Proof/Machine/Operands.lean ====
section
/-! DEFINITION. The operands of instructions: fields of the instruction word (R127), pointers, descriptors and their
sector sequences (R129, R151–R154), elements of runs (R428), operand specifiers (R134), and which streams allow which
opcode (R130–R132). -/

namespace Sys2Proof.Machine

open Sys2Proof

/-- Bits [hi:lo] of an instruction word (R5, R127). -/
def bits (w : Body) (hi lo : Nat) : Nat := w.toNat / 2 ^ lo % 2 ^ (hi - lo + 1)

/-- One bit of an instruction word. -/
def bit1 (w : Body) (i : Nat) : Bool := w.toNat / 2 ^ i % 2 == 1

/-- The streams that allow an opcode and its reserved bits (R130–R132): access, execute, reserved ranges. -/
def opInfo (op : Nat) : Option (Bool × Bool × List (Nat × Nat)) :=
  match op with
  | 0x01 => some (true, true, [(120, 0)])
  | 0x02 => some (true, true, [(79, 0)])
  | 0x03 => some (true, true, [(121, 0)])
  | 0x04 => some (true, true, [(111, 32)])
  | 0x05 => some (true, true, [(114, 32)])
  | 0x06 => some (true, true, [(107, 0)])
  | 0x07 => some (true, true, [(85, 0)])
  | 0x08 => some (true, true, [(90, 48)])
  | 0x10 => some (true, false, [(98, 0)])
  | 0x11 => some (true, false, [(74, 0)])
  | 0x12 => some (true, false, [(104, 0)])
  | 0x13 => some (true, false, [(113, 32)])
  | 0x14 => some (true, false, [(105, 0)])
  | 0x15 => some (true, false, [(74, 0)])
  | 0x16 => some (true, false, [(112, 0)])
  | 0x17 => some (true, false, [(117, 0)])
  | 0x20 => some (false, true, [(3, 0)])
  | 0x21 => some (false, true, [(4, 0)])
  | 0x22 => some (false, true, [])
  | 0x23 => some (false, true, [])
  | 0x24 => some (false, true, [(60, 0)])
  | 0x25 => some (false, true, [(63, 0)])
  | 0x26 => some (false, true, [(104, 0)])
  | 0x28 => some (false, true, [(43, 32)])
  | 0x29 => some (false, true, [(47, 0)])
  | 0x2A => some (false, true, [(39, 0)])
  | 0x2B => some (false, true, [(63, 0)])
  | 0x2C => some (false, true, [(45, 0)])
  | 0x2D => some (false, true, [(13, 0)])
  | _ => none

def opAllowed (op : Nat) (t : Strm) : Bool :=
  match opInfo op, t with
  | some (a, _, _), .access => a
  | some (_, e, _), .execute => e
  | none, _ => false

def opReservedOk (op : Nat) (w : Body) : Bool :=
  match opInfo op with
  | some (_, _, rs) => rs.all fun r => bits w r.1 r.2 == 0
  | none => false

/-! Pointers and counters. -/

namespace State

/-- Counter Ck of a stream (R140). -/
def cnt (s : State) (c : Nat) (t : Strm) (k : Nat) : Nat := (s.reg (Reg.CNT c (sidx t) k)).toNat

/-- Ck for a field where 0 means "no effect" (R129). -/
def cntAdj (s : State) (c : Nat) (t : Strm) (k : Nat) : Nat := if k = 0 then 0 else s.cnt c t k

/-- Pointer entry of the active bank (R128). -/
def ptr (s : State) (c : Nat) (t : Strm) (i : Nat) : Nat := (mget (s.strm c t).ptrs 0 (s.strmBank c t * 32 + i)).toNat

def ptrAddr (s : State) (c : Nat) (t : Strm) (i : Nat) : Nat := s.ptr c t i % 2 ^ 48
def ptrDev (s : State) (c : Nat) (t : Strm) (i : Nat) : Nat := s.ptr c t i / 2 ^ 48 % 1024

/-- Descriptor entry of the active bank. -/
def descEntry (s : State) (c : Nat) (t : Strm) (i : Nat) : Sector := mget (s.strm c t).descs 0 (s.strmBank c t * 32 + i)

end State

/-! Descriptors. -/

/-- A descriptor word (R151), its base advanced by 32 × `adv` modulo 2^48 (R129). -/
def descOf (d : Sector) (adv : Nat) : Desc :=
  let n := d.toNat
  let f (w hi lo : Nat) : Nat := n / 2 ^ (64 * w + lo) % 2 ^ (hi - lo + 1)
  { base := (f 0 47 0 + 32 * adv) % 2 ^ 48
    c0 := f 0 63 48 + 1, c1 := f 1 63 48 + 1, c2 := f 1 47 32 + 1, c3 := f 2 63 48 + 1
    s0 := sext 32 (f 1 31 0), s1 := sext 32 (f 2 31 0), s2 := sext 32 (f 3 31 0), s3 := sext 32 (f 3 63 32) }

/-- A descriptor's tier reads are latency-critical (R221): bit `i` of the stream's mask. -/
def State.lcrOf (s : State) (c : Nat) (t : Strm) (i : Nat) : Bool :=
  (s.reg (Reg.TIER_LCR c (sidx t))).toNat / 2 ^ i % 2 == 1

/-- The descriptor an instruction names, with its base advance (R129) and its mark (R221). -/
def State.desc (s : State) (c : Nat) (t : Strm) (i bx : Nat) : Desc :=
  { descOf (s.descEntry c t i) (s.cntAdj c t bx) with lcr := s.lcrOf c t i }

namespace Desc

/-- Sectors of the sequence (R152). -/
def total (d : Desc) : Nat := d.c0 * d.c1 * d.c2 * d.c3
/-- Runs (R428). -/
def runs (d : Desc) : Nat := d.c1 * d.c2 * d.c3
/-- Sector `n` of the sequence, dimension 0 innermost, modulo 2^48 (R152). -/
def sector (d : Desc) (n : Nat) : Nat :=
  let i0 := n % d.c0
  let i1 := n / d.c0 % d.c1
  let i2 := n / d.c0 / d.c1 % d.c2
  let i3 := n / d.c0 / d.c1 / d.c2
  (((d.base : Int) + i0 * d.s0 + i1 * d.s1 + i2 * d.s2 + i3 * d.s3) % (2 ^ 48 : Int)).toNat

/-- The first misaligned value in the order of R153, as the 64-bit detail. -/
def misaligned (d : Desc) : Option Nat :=
  let u (i : Int) : Nat := (i % (2 ^ 64 : Int)).toNat
  ([(d.base : Int), d.s0, d.s1, d.s2, d.s3].find? fun v => v % 32 != 0).map u

/-- Lowest and highest offset from the base. -/
def reachLo (d : Desc) : Int :=
  let m (c : Nat) (s : Int) : Int := min 0 (((c : Int) - 1) * s)
  m d.c0 d.s0 + m d.c1 d.s1 + m d.c2 d.s2 + m d.c3 d.s3
def reachHi (d : Desc) : Int :=
  let m (c : Nat) (s : Int) : Int := max 0 (((c : Int) - 1) * s)
  m d.c0 d.s0 + m d.c1 d.s1 + m d.c2 d.s2 + m d.c3 d.s3

/-- Lowest and highest sector over the wrapped addresses (R154): by the corners where nothing wraps, otherwise over
the whole sequence. -/
def ends (d : Desc) : Nat × Nat :=
  let lo := (d.base : Int) + d.reachLo
  let hi := (d.base : Int) + d.reachHi
  if 0 ≤ lo ∧ hi < 2 ^ 48 then (lo.toNat, hi.toNat)
  else (List.range d.total).foldl (fun e n => (min e.1 (d.sector n), max e.2 (d.sector n))) (d.base, d.base)

/-- The span that R122 orders. -/
def span (d : Desc) : Span := ⟨d.ends.1, d.ends.2 + 31⟩

end Desc

/-- Whether two spans meet. -/
def Span.meets (a b : Span) : Bool := decide (a.lo ≤ b.hi) && decide (b.lo ≤ a.hi)

/-- The checks of a descriptor at issue: alignment (R153), then the ends of its span, the lowest first (R154). -/
def State.checkDesc (s : State) (c : Nat) (t : Strm) (d : Desc) : Except AccErr Unit :=
  match d.misaligned with
  | some v => .error ⟨strmCode t 0x01, v, none⟩
  | none =>
    let e := d.ends
    match s.locate (s.coreCtx c) e.1 with
    | none => .error ⟨strmCode t 0x0B, e.1, none⟩
    | some _ =>
      match s.locate (s.coreCtx c) e.2 with
      | none => .error ⟨strmCode t 0x0B, e.2, none⟩
      | some _ => .ok ()

/-- A pointer operand's address, a multiple of 32 (R129). -/
def State.checkPtr (s : State) (c : Nat) (t : Strm) (i : Nat) : Except AccErr Nat :=
  let a := s.ptrAddr c t i
  if a % 32 = 0 then .ok a else .error ⟨strmCode t 0x01, a, none⟩

/-- An error without a detail. -/
def plainErr (code : Nat) : AccErr := ⟨code, 0, none⟩
def fieldErr (t : Strm) : AccErr := plainErr (strmCode t 0x05)
def shapeErr (t : Strm) : AccErr := plainErr (strmCode t 0x0A)
def convErr (t : Strm) : AccErr := plainErr (strmCode t 0x03)

/-- A condition, or an error. -/
def need (b : Bool) (e : AccErr) : Except AccErr Unit := if b then .ok () else .error e

/-! Elements. -/

/-- Elements `p0 .. p0 + n - 1` of run `j` of a dense operand (R428): patterns of `w` bits; a position past the run
reads +0 and makes no access. -/
def State.runElems (s : State) (c : Nat) (t : Strm) (src : Nat) (d : Desc) (w j p0 n : Nat) :
    Except AccErr (List Nat) :=
  let per := 256 / w
  let len := d.c0 * per
  let last := min (p0 + n) len
  if last ≤ p0 then .ok (List.replicate n 0)
  else
    let k0 := p0 / per
    let k1 := (last + per - 1) / per
    let step := (List.range (k1 - k0)).foldl (fun (r : Except AccErr (List Sector)) k =>
      match r with
      | .error e => .error e
      | .ok ds =>
        match s.readSec c t src (d.sector (j * d.c0 + k0 + k)) d.lcr with
        | .error e => .error e
        | .ok x => .ok (x :: ds)) (.ok [])
    match step with
    | .error e => .error e
    | .ok ds =>
      let es := unpackBits w ((k1 - k0) * per) (sectorsBits ds.reverse)
      .ok (((es.drop (p0 - k0 * per)).take (last - p0)) ++ List.replicate (n - (last - p0)) 0)

/-- Sectors `k0 .. k0 + n - 1` of a sequence read through a core's port. -/
def State.readSeq (s : State) (c : Nat) (t : Strm) (src : Nat) (d : Desc) (k0 n : Nat) :
    Except AccErr (List Sector) :=
  ((List.range n).foldl (fun (r : Except AccErr (List Sector)) k =>
    match r with
    | .error e => .error e
    | .ok ds =>
      match s.readSec c t src (d.sector (k0 + k)) d.lcr with
      | .error e => .error e
      | .ok x => .ok (x :: ds)) (.ok [])).map List.reverse

/-- Writes of sectors in order, each with its byte enables: the state after the last that went through, and the error
that stopped them (R154). -/
def State.writeAll (s : State) (c : Nat) (t : Strm) (src : Nat) : List (Nat × Sector × Word32) → State × Option AccErr
  | [] => (s, none)
  | (a, d, be) :: ws =>
    match s.writeSec c t src a d be with
    | .error e => (s, some e)
    | .ok s' => s'.writeAll c t src ws

/-- Byte enables of the first `n` bytes. -/
def beFirst (n : Nat) : Word32 := BitVec.ofNat 32 (2 ^ min n 32 - 1)

/-- A byte stream of `nbytes` bytes laid along a sequence from its start: whole sectors, the last one by byte enables
(R134). -/
def seqWrites (d : Desc) (nbytes N : Nat) : List (Nat × Sector × Word32) :=
  (List.range ((nbytes + 31) / 32)).map fun k =>
    (d.sector k, BitVec.ofNat 256 (N / 2 ^ (256 * k)), beFirst (nbytes - 32 * k))

/-! Operand specifiers of the vector and top-k units (R134). -/

inductive Opd where
  | desc (i : Nat)
  | queue (q : Nat)
  | imm
  | none
  /-- A specifier with a bit set that must be zero. -/
  | bad
  deriving DecidableEq, Repr

/-- A source specifier. -/
def srcOpd (b : Nat) : Opd :=
  match b / 64 with
  | 0 => if b % 64 < 32 then .desc (b % 32) else .bad
  | 1 => if b % 64 < 4 then .queue (b % 4) else .bad
  | 2 => if b % 64 = 0 then .imm else .bad
  | _ => if b % 64 = 0 then .none else .bad

/-- A destination specifier; queue numbers 4 and 5 are QR0 and QR1. -/
def dstOpd (b : Nat) : Opd :=
  match b / 64 with
  | 0 => if b % 64 < 32 then .desc (b % 32) else .bad
  | 1 => if b % 64 < 2 then .queue (4 + b % 2) else .bad
  | _ => .bad

end Sys2Proof.Machine
end

