-- ==== Sys2Proof/Machine/Pennant.lean ====
section
/-! DEFINITION. Pennants and hoists at their banks: values and signallers (R183–R186), translation (R187), the pending
and landing tables (R190–R192), the host's signals (R189), hoists and cross-device hoists (R194–R196), and what a kill
does to them (R197). -/

namespace Sys2Proof.Machine

open Sys2Proof

/-! Resuming a stream. -/

/-- A stream that held goes on: nothing holds it. -/
def State.resume (s : State) (c : Nat) (t : Strm) : State :=
  (s.modStrm c t fun x => { x with hold := .free }).setWaitOn c t 0

/-- Index of the instruction a stream issued last. -/
def State.lastIndex (s : State) (c : Nat) (t : Strm) : Nat := (s.strmIndex c t + 2047) % 2048

/-! Pennants. Keys: die × 8192 + index for shared pennants, 32768 + core × 64 + n for local ones. -/

def localKey (c n : Nat) : Nat := 32768 + c * 64 + n
def isLocalPen (k : Nat) : Bool := decide (32768 ≤ k)
def localCore (k : Nat) : Nat := (k - 32768) / 64
def localNum (k : Nat) : Nat := (k - 32768) % 64

def penValReg (k : Nat) : Nat :=
  if isLocalPen k then Reg.LPEN_VAL (localCore k) (localNum k) else Reg.PEN_VAL (k / 8192) (k % 8192)

namespace State

/-- Whether a pennant is of the counting kind (R183). -/
def penCounting (s : State) (k : Nat) : Bool :=
  if isLocalPen k then s.flag (Reg.LPEN_STAT (localCore k) (localNum k)) Fld.LPEN_STAT_KIND
  else s.flag (Reg.PEN_CFG (k / 8192) (k % 8192)) Fld.PEN_CFG_KIND

/-- A pennant's value: 48 bits, or 32 of a counting one. -/
def penVal (s : State) (k : Nat) : Nat :=
  (s.reg (penValReg k)).toNat % (if s.penCounting k then 2 ^ 32 else 2 ^ 48)

def setPenVal (s : State) (k v : Nat) : State := s.setReg (penValReg k) (BitVec.ofNat 64 v)

end State

/-- What a signal makes of a value, or the cause of its refusal (R183): 1 over, 2 under, 3 kind. -/
def penApply (counting : Bool) (v op amount : Nat) : Except Nat Nat :=
  let limit := if counting then 2 ^ 32 - 1 else 2 ^ 48 - 1
  if op = 0 then (if limit < v + amount then .error 1 else .ok (v + amount))
  else if !counting then .error 3
  else if v < amount then .error 2 else .ok (v - amount)

/-- The last signaller and its tick (R184, R186). -/
def State.penStamp (s : State) (k : Nat) (src : Signaller) : State :=
  if isLocalPen k then
    let a := Reg.LPEN_STAT (localCore k) (localNum k)
    ((s.setFld a Fld.LPEN_STAT_LAST_VALID 1).setFld a Fld.LPEN_STAT_LAST_STREAM src.strm).setReg
      (Reg.LPEN_TICK (localCore k) (localNum k)) (BitVec.ofNat 64 (s.tick % 2 ^ 32))
  else
    let w := 2 ^ 31 + (if src.host then 2 ^ 19 else src.strm % 2 * 2 ^ 30 + src.dev % 1024 * 2 ^ 20 + src.core % 4096)
    (s.setReg (Reg.PEN_LAST (k / 8192) (k % 8192)) (BitVec.ofNat 64 w)).setReg (Reg.PEN_TICK (k / 8192) (k % 8192))
      (BitVec.ofNat 64 s.tick)

/-- Condition of a waiter at a value (R185). -/
def Waiter.holds (w : Waiter) (v : Nat) : Bool :=
  match w.mode with
  | 1 => w.vals1.any fun p => w.vals2.any fun q => decide ((p + 2 ^ 48 - q) % 2 ^ 48 < w.imm)
  | _ => decide (w.imm ≤ v)

/-- A waiter is served: at a local pennant its stream resumes, at a shared one a wake leaves (R184, R429). -/
def State.penWake (s : State) (k : Nat) (who : StreamId) : State :=
  if isLocalPen k then s.resume who.core who.strm else { s with penWakes := s.penWakes ++ [who] }

/-- Waiters of MODE 0 and 1 whose condition holds at the value leave the table. -/
def servePlain (v : Nat) : List Waiter → List Waiter × List StreamId
  | [] => ([], [])
  | w :: ws =>
    let r := servePlain v ws
    if w.mode ≠ 2 ∧ w.holds v then (r.1, w.who :: r.2) else (w :: r.1, r.2)

/-- Waiters of MODE 2 are served strictly in arrival order (R185): those left, those served, and the value left. -/
def serveTakes : Nat → List Waiter → List Waiter × List StreamId × Nat
  | v, [] => ([], [], v)
  | v, w :: ws =>
    if w.mode = 2 then
      if w.imm ≤ v then let r := serveTakes (v - w.imm) ws; (r.1, w.who :: r.2.1, r.2.2) else (w :: ws, [], v)
    else let r := serveTakes v ws; (w :: r.1, r.2)

/-- The waiters of a pennant evaluated at its present value. -/
def State.penServe (s : State) (k : Nat) : State :=
  let v := s.penVal k
  let p := servePlain v (mget s.penTable [] k)
  let q := serveTakes v p.1
  let s := if q.2.2 = v then s else s.setPenVal k q.2.2
  let s := { s with penTable := if q.1.isEmpty then mdel s.penTable k else mset s.penTable k q.1 }
  (p.2 ++ q.2.1).foldl (fun s who => s.penWake k who) s

def samePlace (k k2 : Nat) : Bool := isLocalPen k || k / 8192 == k2 / 8192

/-- What a MODE 1 waiter at pennant `k` learns when pennant `ch` takes the value `v`. -/
def Waiter.learn (k ch v : Nat) (w : Waiter) : Waiter :=
  if w.mode = 1 then
    { w with
      vals1 := if k = ch then w.vals1 ++ [v] else w.vals1
      vals2 := if w.pen2 = ch ∧ samePlace k ch then w.vals2 ++ [v] else w.vals2 }
  else w

/-- A MODE 1 waiter at pennant `k` that learns of pennant `ch` only by a forwarded change (R186). -/
def Waiter.afar (k ch : Nat) (w : Waiter) : Bool := w.mode == 1 && w.pen2 == ch && !samePlace k ch

/-- Waiters, registered or on their way, to whom a change is forwarded: the pennant they wait at, and who they are. -/
def State.afarWaiters (s : State) (ch : Nat) : List (Nat × StreamId) :=
  (s.penTable.flatMap fun (e : Nat × List Waiter) => (e.2.filter (Waiter.afar e.1 ch)).map fun w => (e.1, w.who))
    ++ (s.penMsgs.flatMap fun (m : PenMsg) => match m.op with
      | .wait w => if w.afar m.pen ch then [(m.pen, w.who)] else []
      | _ => [])

/-- What a message on its way to a bank carries after a change of pennant `ch`. -/
def PenMsg.learn (ch v : Nat) (m : PenMsg) : PenMsg :=
  match m.op with
  | .wait w => { m with op := .wait (w.learn m.pen ch v) }
  | _ => m

/-- Forwarded changes, numbered from `n`. -/
def forwards (v : Nat) : Nat → List (Nat × StreamId) → List PenForward
  | _, [] => []
  | n, x :: xs => ⟨n, x.1, x.2, v⟩ :: forwards v (n + 1) xs

/-- The change of a pennant reaches its waiters, those that name it as PEN2, and, across dies, the forwarded changes of
R186. -/
def State.penChanged (s : State) (ch : Nat) : State :=
  let v := s.penVal ch
  let fwds := forwards v s.nextId (s.afarWaiters ch)
  let s := { s with
    penTable := s.penTable.map fun (e : Nat × List Waiter) => (e.1, e.2.map (Waiter.learn e.1 ch v))
    penMsgs := s.penMsgs.map (PenMsg.learn ch v)
    penFwds := s.penFwds ++ fwds
    nextId := s.nextId + fwds.length }
  let s := s.penServe ch
  let others := s.penTable.filter fun (e : Nat × List Waiter) =>
    e.1 != ch && e.2.any fun w => w.mode == 1 && w.pen2 == ch
  others.foldl (fun s e => s.penServe e.1) s

/-- A signal applied at its pennant, or the cause of its refusal. -/
def State.penSignal (s : State) (k : Nat) (src : Signaller) (op amount : Nat) : Except Nat State :=
  match penApply (s.penCounting k) (s.penVal k) op amount with
  | .error e => .error e
  | .ok v =>
    let s := (s.setPenVal k v).penStamp k src
    .ok (if amount = 0 then s else s.penChanged k)

/-- Translation of a virtual identifier in a context (R187). DEDUCED: log entry 32. -/
def State.penTranslate (s : State) (ctx : Option Nat) (v : Nat) : Option Nat :=
  match ctx with
  | none => none
  | some x =>
    let a := Reg.PEN_XLT x v
    let d := s.fld a Fld.PEN_XLT_DIE
    let i := s.fld a Fld.PEN_XLT_INDEX
    if s.flag a Fld.PEN_XLT_VALID ∧ s.penOwner d i = some x then some (d * 8192 + i) else none

/-- Code of a pennant error of class 1 (R198). -/
def penCode (cause : Nat) : Nat := 0x1400 + cause

/-- PEN_ERR (R199): the first record is kept while VALID is 1; every error is reported. DEDUCED: log entry 32. -/
def State.penErr (s : State) (code : Nat) (src : Signaller) (vid : Nat) (ctx : Option Nat) : State :=
  let w := 2 ^ 63 + (if src.host then 2 ^ 40 else src.dev % 1024 * 2 ^ 53 + src.core % 4096 * 2 ^ 41) + vid % 4096 * 2 ^ 16
    + code
  let s := if s.flag Reg.PEN_ERR Fld.PEN_ERR_VALID then s else s.setReg Reg.PEN_ERR (BitVec.ofNat 64 w)
  s.report code ctx none (BitVec.ofNat 64 w).toNat

/-- A signal that halts nothing: refused, it is recorded in PEN_ERR (R188, R189). -/
def State.penQuiet (s : State) (k : Nat) (src : Signaller) (op amount vid : Nat) (ctx : Option Nat) : State :=
  match s.penSignal k src op amount with
  | .ok s => s
  | .error e => s.penErr (penCode e) src vid ctx

/-! Landing and pending tables. -/

/-- The landing entry bound to a source: die and entry, the lowest that matches (R191). -/
def State.landEntry (s : State) (dev core : Nat) : Option (Nat × Nat) :=
  ((s.regs.find? fun e =>
    decide (Reg.LAND 0 0 ≤ e.1) && decide (e.1 < Reg.LAND 4 0) && wordFld e.2 Fld.LAND_VALID == 1
      && wordFld e.2 Fld.LAND_SRC_DEV == dev && wordFld e.2 Fld.LAND_SRC_CORE == core).map fun e =>
    ((e.1 - Reg.LAND 0 0) / 0x4000, (e.1 - Reg.LAND 0 0) % 0x4000 / 8))

/-- A held signal may be applied (R192). DEDUCED: log entry 35. -/
def landedFor (landed wseq : Nat) : Bool := decide ((landed + 2 ^ 32 - wseq % 2 ^ 32) % 2 ^ 32 < 2 ^ 31)

/-- A signal that has left the pending table of a die: translated, then applied there or sent to its pennant's die.
DEDUCED: log entry 32. -/
def State.pendApply (s : State) (die : Nat) (p : PendSig) : State :=
  match s.penTranslate (some p.ctx) p.vid with
  | none => s.penErr (penCode 4) p.src p.vid (some p.ctx)
  | some k =>
    if k / 8192 = die then s.penQuiet k p.src p.op p.amount p.vid (some p.ctx)
    else { s with
      penMsgs := s.penMsgs ++ [⟨s.nextId, k, .remote p.src p.op p.amount p.vid⟩], nextId := s.nextId + 1 }

/-- Signals of one source leave the table in their order of arrival, as far as their sectors have landed.
DEDUCED: log entry 35. -/
def State.pendDrain (die e : Nat) : Nat → State → State
  | 0, s => s
  | fuel + 1, s =>
    let dev := s.fld (Reg.LAND die e) Fld.LAND_SRC_DEV
    let core := s.fld (Reg.LAND die e) Fld.LAND_SRC_CORE
    let tab := mget s.pendTab [] die
    match tab.find? fun p => p.src.dev == dev && p.src.core == core with
    | none => s
    | some p =>
      if landedFor (s.fld (Reg.LAND die e) Fld.LAND_LANDED) p.wseq then
        State.pendDrain die e fuel ({ s with pendTab := mset s.pendTab die (tab.erase p) }.pendApply die p)
      else s

def noSignaller : Signaller := ⟨0, 0, 0, false⟩

/-- A remote signal enters its source's home die, or is discarded where its source has no entry (R192) or its context has
been killed (R197). The last case, a full table, leaves it where it is. -/
def State.pendEnter (s : State) (p : PendSig) : Option State :=
  if s.killed.contains p.ctx then some (s.penErr (penCode 4) p.src p.vid (some p.ctx))
  else
  match s.landEntry p.src.dev p.src.core with
  | none => some (s.penErr 0x7406 p.src p.vid (some p.ctx))
  | some (die, e) =>
    let tab := mget s.pendTab [] die
    if 256 ≤ tab.length then none
    else some (State.pendDrain die e 257 { s with pendTab := mset s.pendTab die (tab ++ [p]) })

/-- A landing notice arrives: LANDED advances (R191), and held signals may leave. -/
def State.landed (s : State) (dev core : Nat) : State :=
  let k := dev * 4096 + core
  let n := mget s.notices 0 k
  if n = 0 then s
  else
    let s := { s with notices := if n = 1 then mdel s.notices k else mset s.notices k (n - 1) }
    match s.landEntry dev core with
    | none => if dev = s.rank then s else s.penErr 0x7406 ⟨dev, core, 0, false⟩ 0 none
    | some (die, e) => State.pendDrain die e 257 (s.addMod (Reg.LAND die e) Fld.LAND_LANDED 1)

/-- LAND.PEND as a read returns it. DEDUCED: log entry 35. -/
def State.landPend (s : State) (die e : Nat) : Nat :=
  ((mget s.pendTab [] die).filter fun p => p.src.dev == s.fld (Reg.LAND die e) Fld.LAND_SRC_DEV
    && p.src.core == s.fld (Reg.LAND die e) Fld.LAND_SRC_CORE).length

/-! Messages at the banks. -/

/-- A message reaches its bank (R184): a SIG of a stream, a registration, a signal that has left a pending table, or a
SIG with SCOPE 2 to the own rank. -/
def State.penArrive (s : State) (id : Nat) : State :=
  match s.penMsgs.find? fun m => m.id == id with
  | none => s
  | some m =>
    let s0 := s
    let s := { s with penMsgs := s.penMsgs.filter fun x => x.id != id }
    match m.op with
    | .sig who op amount iid index bank =>
      match s.penSignal m.pen ⟨s.rank, who.core, sidx who.strm, false⟩ op amount with
      | .ok t => if (s.strm who.core who.strm).hold = .signal iid then t.resume who.core who.strm else t
      | .error e =>
        -- a core that is being cleared halts no more
        if (s.core who.core).scrubbing then s else s.haltCore who.core who.strm iid (penCode e) index bank 0
    | .wait w =>
      let s := { s with penTable := mset s.penTable m.pen (mget s.penTable [] m.pen ++ [w]) }
      s.penServe m.pen
    | .remote src op amount vid => s.penQuiet m.pen src op amount vid (s.penOwner (m.pen / 8192) (m.pen % 8192))
    | .toPending src vid op amount wseq =>
      match s.pendEnter ⟨src, vid, op, amount, wseq, (s.coreCtx src.core).getD 8⟩ with
      | some s => s
      | none => s0

/-- A wake reaches its stream, which resumes (R185). -/
def State.penWoken (s : State) (c : Nat) (t : Strm) : State :=
  if s.penWakes.contains ⟨c, t⟩ then ({ s with penWakes := s.penWakes.erase ⟨c, t⟩ }).resume c t else s

/-- A forwarded change of PEN2 arrives at the bank of PEN (R186). -/
def State.penForwarded (s : State) (id : Nat) : State :=
  match s.penFwds.find? fun f => f.id == id with
  | none => s
  | some f =>
    let add (w : Waiter) : Waiter := if w.who = f.who then { w with vals2 := w.vals2 ++ [f.value] } else w
    let s := { s with
      penFwds := s.penFwds.filter fun x => x.id != id
      penTable := mset s.penTable f.pen ((mget s.penTable [] f.pen).map add)
      penMsgs := s.penMsgs.map fun (m : PenMsg) => match m.op with
        | .wait w => if m.pen = f.pen then { m with op := .wait (add w) } else m
        | _ => m }
    s.penServe f.pen

/-- The host's signal (R189): `ctx` is the context it acts in. -/
def State.penHost (s : State) (ctx : Option Nat) (v : Word32) : State :=
  let w := v.setWidth 64
  let vid := wordFld w Fld.PEN_HOST_SIG_PEN
  let src : Signaller := ⟨0, 0, 0, true⟩
  match (if ctx.any s.killed.contains then none else s.penTranslate ctx vid) with
  | none => s.penErr (penCode 4) src vid ctx
  | some k => s.penQuiet k src (wordFld w Fld.PEN_HOST_SIG_OP) (wordFld w Fld.PEN_HOST_SIG_AMOUNT) vid ctx

/-! Hoists. Keys: die × 256 + index for die hoists, 1024 + index for cross-device hoists. -/

def hstBase (k : Nat) : Nat := if k < 1024 then Reg.HST_CFG (k / 256) (k % 256) else Reg.XH_CFG (k - 1024)
def hstReleased (k : Nat) : Nat := hstBase k + 4
def hstSlot (k round : Nat) : Nat := hstBase k + 8 + 4 * (round % 2)

/-- The hoist a stream names in its context (R194). -/
def State.hoistTranslate (s : State) (ctx : Option Nat) (cross : Bool) (hid : Nat) : Option Nat :=
  match ctx with
  | none => none
  | some x =>
    let k :=
      if cross then some (1024 + hid)
      else
        let a := Reg.HST_XLT x hid
        if s.flag a Fld.HST_XLT_VALID then some (s.fld a Fld.HST_XLT_DIE * 256 + s.fld a Fld.HST_XLT_INDEX) else none
    match k with
    | some k => if s.hstOwner (hstBase k) = some x then some k else none
    | none => none

/-- The binding of a stream to a hoist (R194): the lowest entry that names it. DEDUCED: log entry 36. -/
def State.hoistBinding (s : State) (c : Nat) (t : Strm) (cross : Bool) (hid : Nat) : Option Nat :=
  ((List.range 8).map fun e => Reg.HBIND c (sidx t) e).find? fun a =>
    s.flag a Fld.HBIND_VALID && s.flag a Fld.HBIND_SCOPE == cross && s.fld a Fld.HBIND_HID == hid

/-- Rounds of a hoist that have finished, modulo 2^32. -/
def State.hoistDone (s : State) (k : Nat) : Nat := mget s.hoistFin 0 k

/-- A round number is at least two past the finished ones (R195). DEDUCED: log entry 36. -/
def roundBlocked (round fin : Nat) : Bool :=
  let d := (round + 2 ^ 32 - fin % 2 ^ 32) % 2 ^ 32
  decide (2 ≤ d) && decide (d < 2 ^ 31)

/-- A round is one of the two that may be in flight. DEDUCED: log entry 36. -/
def roundOpen (round fin : Nat) : Bool := decide ((round + 2 ^ 32 - fin % 2 ^ 32) % 2 ^ 32 < 2)

/-- A slot that is released and fully departed frees (R195); a cross-device round is then reported finished (R196). -/
def State.hoistFree (s : State) (k round : Nat) : State :=
  let a := hstSlot k round
  if s.flag a Fld.HST_SLOT_INUSE ∧ s.flag a Fld.HST_SLOT_REL ∧ s.fld a Fld.HST_SLOT_DEP_PEND = 0 then
    let s := s.setFld a Fld.HST_SLOT_INUSE 0
    let s := { s with hoistFin := mset s.hoistFin k ((round + 1) % 2 ^ 32) }
    if k < 1024 then s else s.emit (.hoist 1 (k - 1024) round)
  else s

/-- The streams of this device that wait for a release. -/
def State.hoistWaiters (s : State) (k round : Nat) : List StreamId :=
  s.cores.flatMap fun e =>
    (if e.2.a.hold = .hoist k round then [⟨e.1, .access⟩] else [])
      ++ (if e.2.e.hold = .hoist k round then [⟨e.1, .execute⟩] else [])

/-- A round is released: its slot, the count of rounds, and a release to every arrive-and-wait participant (R195). -/
def State.hoistRelease (s : State) (k round : Nat) : State :=
  let s := s.setFld (hstSlot k round) Fld.HST_SLOT_REL 1
  let s := s.setReg (hstReleased k) (BitVec.ofNat 64 ((round + 1) % 2 ^ 32))
  let s := { s with hoistRels := s.hoistRels ++ (s.hoistWaiters k round).map fun w => (⟨k, w, round⟩ : HoistRel) }
  s.hoistFree k round

/-- An arrival reaches the hoist (R195). -/
def State.hoistArrive (s : State) (k round : Nat) : State :=
  let a := hstSlot k round
  let cfg := hstBase k
  let s := if s.flag a Fld.HST_SLOT_INUSE then s
    else s.setReg a (BitVec.ofNat 64 (2 ^ 31 + s.fld cfg Fld.HST_CFG_WCOUNT * 2 ^ 16))
  let s := s.addMod a Fld.HST_SLOT_ARRIVED 1
  if s.fld a Fld.HST_SLOT_ARRIVED = s.fld cfg Fld.HST_CFG_COUNT then
    if k < 1024 then s.hoistRelease k round else s.emit (.hoist 0 (k - 1024) round)
  else s

/-- A hoist message arrives: an arrival that the back-pressure of R195 lets in, or a departure. -/
def State.hoistMsg (s : State) (id : Nat) (arrive : Bool) : State :=
  match s.hoistMsgs.find? fun m => m.id == id && m.arrive == arrive with
  | none => s
  | some m =>
    if m.arrive && roundBlocked m.round (s.hoistDone m.hoist) then s
    else
      let s := { s with hoistMsgs := s.hoistMsgs.filter fun x => x.id != id }
      if m.arrive then s.hoistArrive m.hoist m.round
      else
        let a := hstSlot m.hoist m.round
        let n := s.fld a Fld.HST_SLOT_DEP_PEND
        (s.setFld a Fld.HST_SLOT_DEP_PEND (n - 1)).hoistFree m.hoist m.round

/-- A release reaches its participant, which departs and resumes (R195). -/
def State.hoistReleased (s : State) (c : Nat) (t : Strm) : State :=
  match s.hoistRels.find? fun r => r.who == (⟨c, t⟩ : StreamId) with
  | none => s
  | some r =>
    let s := { s with
      hoistRels := s.hoistRels.erase r
      hoistMsgs := s.hoistMsgs ++ [(⟨s.nextId, r.hoist, r.who, r.round, false, true⟩ : HoistMsg)]
      nextId := s.nextId + 1 }
    s.resume c t

/-- Whether this device is the root of a cross-device hoist (R196). -/
def State.hoistRoot (s : State) (h : Nat) : Bool := s.flag (Reg.XH_CFG h) Fld.XH_CFG_ROOT

/-- A release down the tree (R196): the local round is released and the message goes on. -/
def State.crossRelease (s : State) (h round : Nat) : State :=
  let k := 1024 + h
  let s := s.emit (.hoist 2 h round)
  if roundOpen round (s.hoistDone k) ∧ s.flag (hstSlot k round) Fld.HST_SLOT_INUSE
      ∧ ¬ s.flag (hstSlot k round) Fld.HST_SLOT_REL then s.hoistRelease k round
  else s

/-- A round is complete at the root: the release goes down (R196). -/
def State.rootRelease (s : State) (h round : Nat) : State :=
  (s.setFld (Reg.XH_ROOT h (round % 2)) Fld.XH_ROOT_REL 1).crossRelease h round

/-- On the manager, the verify phase's hoist releases only after the verdict (R269): a step that is skipped or halted enters
no apply phase on any device. DESIGN CHOICE: log entry 60. -/
def State.holdsVerify (s : State) (h : Nat) : Bool :=
  s.mgr.state == .run && s.stepActive && !s.run.done.contains 3 && s.flag (Reg.PLAN_HST 3) Fld.PLAN_HST_VALID
    && s.fld (Reg.PLAN_HST 3) Fld.PLAN_HST_HID == h
    && (List.range 3).all fun p => !s.flag (Reg.PLAN_HST p) Fld.PLAN_HST_VALID || s.run.done.contains p

/-- A device arrival on the tree (R196): counted at the root, which holds one that is two rounds ahead there, passed on
elsewhere. -/
def State.deviceArrive (s : State) (h round : Nat) : State :=
  if !s.hoistRoot h then s.emit (.hoist 0 h round)
  else if roundBlocked round (mget s.rootFin 0 h) then { s with rootHeld := s.rootHeld ++ [(h, round)] }
  else
    let a := Reg.XH_ROOT h (round % 2)
    let n := s.fld (Reg.XH_DEVS h) Fld.XH_DEVS_DEV_COUNT
    let s := if s.flag a Fld.XH_ROOT_INUSE then s else s.setReg a (BitVec.ofNat 64 (2 ^ 31 + n * 2 ^ 11))
    let s := s.addMod a Fld.XH_ROOT_DEV_ARR 1
    if s.fld a Fld.XH_ROOT_DEV_ARR = n ∧ 1 ≤ n ∧ n ≤ 1024 then
      if s.holdsVerify h then { s with mgr := { s.mgr with verify := some (h, round) } } else s.rootRelease h round
    else s

/-- A device's report that it has finished a round (R196). -/
def State.deviceFinish (s : State) (h round : Nat) : State :=
  if !s.hoistRoot h then s.emit (.hoist 1 h round)
  else
    let a := Reg.XH_ROOT h (round % 2)
    let n := s.fld a Fld.XH_ROOT_DEV_FIN
    let s := s.setFld a Fld.XH_ROOT_DEV_FIN (n - 1)
    if s.flag a Fld.XH_ROOT_INUSE ∧ s.flag a Fld.XH_ROOT_REL ∧ n ≤ 1 then
      { (s.setFld a Fld.XH_ROOT_INUSE 0) with rootFin := mset s.rootFin h ((round + 1) % 2 ^ 32) }
    else s

/-! Kill and reset (R197). -/

/-- Hoists of a context back at round 0 with both slots free. -/
def State.hoistsKilled (s : State) (x : Nat) : State :=
  let keys := (s.regs.filterMap fun e =>
    if Reg.HST_CFG 0 0 ≤ e.1 ∧ e.1 < Reg.HST_CFG 4 0 ∧ (e.1 - Reg.HST_CFG 0 0) % 0x20 = 0
        ∧ wordFld e.2 Fld.HST_CFG_ALLOC = 1 ∧ wordFld e.2 Fld.HST_CFG_CTX = x then
      some ((e.1 - Reg.HST_CFG 0 0) / 0x2000 * 256 + (e.1 - Reg.HST_CFG 0 0) % 0x2000 / 0x20)
    else none) ++ (((List.range 64).map fun h => 1024 + h).filter fun k => s.hstOwner (hstBase k) == some x)
  let s := keys.foldl (fun s k =>
    let s := ((s.setReg (hstReleased k) 0).setReg (hstSlot k 0) 0).setReg (hstSlot k 1) 0
    let s := { s with hoistFin := mdel s.hoistFin k }
    if k < 1024 then s
    else { (s.setReg (Reg.XH_ROOT (k - 1024) 0) 0).setReg (Reg.XH_ROOT (k - 1024) 1) 0 with
      rootFin := mdel s.rootFin (k - 1024) }) s
  { s with
    rootHeld := s.rootHeld.filter fun e => !keys.contains (1024 + e.1)
    hoistMsgs := s.hoistMsgs.filter fun m => !keys.contains m.hoist
    hoistRels := s.hoistRels.filter fun m => !keys.contains m.hoist }

/-- What a kill, or a reset that clears the cores given, does to the pennants and hoists of a context (R197). -/
def State.penKilled (s : State) (x : Nat) (cores : List Nat) : State :=
  let mine (k : Nat) : Bool :=
    if isLocalPen k then cores.contains (localCore k) else s.penOwner (k / 8192) (k % 8192) == some x
  -- values: local pennants of the cores, shared pennants of the context, WSEQ and hoist rounds of the cores
  let clear (e : Nat × Word) : Nat × Word :=
    let off := (e.1 - ctrlBase) % 0x1_0000
    let inCore := decide (ctrlBase ≤ e.1) && decide (e.1 < ctrlBase + nCores * 0x1_0000)
      && cores.contains ((e.1 - ctrlBase) / 0x1_0000)
    if inCore && decide (0x3400 ≤ off) && decide (off < 0x3800) && off % 16 == 0 then (e.1, 0)
    else if inCore && decide (0x3800 ≤ off) && decide (off < 0x3880) then (e.1, wordSet e.2 Fld.SEQ_WSEQ 0)
    else if inCore && decide (0x3880 ≤ off) && decide (off < 0x3900) then (e.1, wordSet e.2 Fld.HBIND_ROUND 0)
    else if decide (Reg.PEN_VAL 0 0 ≤ e.1) && decide (e.1 < Reg.PEN_VAL 4 0) && decide ((e.1 - Reg.PEN_VAL 0 0) % 0x40 = 0)
        && s.penOwner ((e.1 - Reg.PEN_VAL 0 0) / 0x8_0000) ((e.1 - Reg.PEN_VAL 0 0) % 0x8_0000 / 0x40) == some x then
      (e.1, 0)
    else if decide (Reg.LAND 0 0 ≤ e.1) && decide (e.1 < Reg.LAND 4 0)
        && mfind s.landOwner ((e.1 - Reg.LAND 0 0) / 0x4000 * 2048 + (e.1 - Reg.LAND 0 0) % 0x4000 / 8) == some x then
      (e.1, wordSet e.2 Fld.LAND_LANDED 0)
    else e
  let s1 := { s with regs := s.regs.map clear }
  let ownLand (p : PendSig) : Bool :=
    match s.landEntry p.src.dev p.src.core with
    | some (d, e) => mfind s.landOwner (d * 2048 + e) == some x
    | none => false
  let s2 := { s1 with
    penTable := s1.penTable.filter fun e => !mine e.1
    penMsgs := s1.penMsgs.filter fun (m : PenMsg) => (match m.op with
      | .toPending src _ _ _ _ => s.coreCtx src.core != some x
      | _ => !mine m.pen)
    penFwds := s1.penFwds.filter fun f => !mine f.pen
    penWakes := s1.penWakes.filter fun w => !cores.contains w.core
    pendTab := mmap (fun (l : List PendSig) => l.filter fun p => p.ctx != x && !ownLand p) s1.pendTab }
  let s3 := s2.hoistsKilled x
  { s3 with
    hoistMsgs := s3.hoistMsgs.filter fun m => !cores.contains m.who.core
    hoistRels := s3.hoistRels.filter fun m => !cores.contains m.who.core }

end Sys2Proof.Machine
end

