-- ==== Sys2Proof/Machine/Combine.lean ====
section
/-! DEFINITION. The combine unit of a core (R307–R311, R313): epochs, lanes, arrivals and credits. -/

namespace Sys2Proof.Machine

open Sys2Proof

/-- CB_ERR (R313): the first record is kept while VALID is 1; every error is reported. -/
def State.combErr (s : State) (c code lane epoch : Nat) : State :=
  let a := Reg.CB_ERR c
  let w := 2 ^ 63 + lane % 64 * 2 ^ 32 + epoch % 2 ^ 16 * 2 ^ 16 + code
  let s := if s.flag a Fld.CB_ERR_VALID then s else s.setReg a (BitVec.ofNat 64 w)
  s.report code (s.coreCtx c) (some c) (BitVec.ofNat 64 w).toNat

/-- A local pennant of the core raised by one of its units, recorded with LAST_STREAM 0 (R314).
DEDUCED: log entry 73. -/
def State.raiseLocal (s : State) (c n lane epoch : Nat) : State :=
  match s.penSignal (localKey c n) ⟨s.rank, c, 0, false⟩ 0 1 with
  | .ok s => s
  | .error _ => s.combErr c 0x7245 lane epoch

/-- A lane's state: 0 IDLE, 1 RECEIVING, 2 DISCARDING, 3 LANDED. -/
def State.laneState (s : State) (c lane : Nat) : Nat :=
  s.fld (Reg.CB_LANE c (lane / 8)) ⟨4 * (lane % 8), 4⟩

def State.setLaneState (s : State) (c lane v : Nat) : State :=
  s.setFld (Reg.CB_LANE c (lane / 8)) ⟨4 * (lane % 8), 4⟩ v

def State.setLane (s : State) (c lane : Nat) (x : Option (Nat × Nat)) : State :=
  s.modCore c fun k => { k with route := { k.route with lanes := match x with
    | some v => mset k.route.lanes lane v
    | none => mdel k.route.lanes lane } }

def State.lane (s : State) (c lane : Nat) : Nat × Nat := mget (s.core c).route.lanes (0, 0) lane

/-- Half of the batch a lane serves. -/
def State.laneHalf (s : State) (c lane : Nat) : Nat := lane / s.combNexp c

def State.combOpen (s : State) (c : Nat) : Nat := s.penVal (localKey c (s.fld (Reg.CB_PEN c) Fld.CB_PEN_OPEN))
/-- DEDUCED: log entry 73. -/
def State.combClose (s : State) (c : Nat) : Nat := s.penVal (localKey c (s.fld (Reg.CB_PEN c) Fld.CB_PEN_CLOSE))

/-- OPEN - CLOSE exceeds 32,768 (R308). DEDUCED: log entry 73. -/
def State.spanExceeded (s : State) (c : Nat) : Bool := decide (s.combClose c + 32768 < s.combOpen c)

/-- An epoch is live for a half (R308). -/
def State.epochLive (s : State) (c half e : Nat) : Bool :=
  let o := s.combOpen c % 2 ^ 16
  let k := s.combClose c % 2 ^ 16
  !s.spanExceeded c && decide ((e + 2 ^ 16 - k) % 2 ^ 16 < (o + 2 ^ 16 - k) % 2 ^ 16) && e % 2 == half

/-- Arrival of a lane: 1 to ARRIVE of its half. DESIGN CHOICE: log entry 34. -/
def State.arrival (s : State) (c lane epoch : Nat) : State :=
  s.raiseLocal c (s.fld (Reg.CB_PEN c) (if s.laneHalf c lane = 0 then Fld.CB_PEN_ARR_A else Fld.CB_PEN_ARR_B)) lane epoch

/-- Credit of a lane: 1 to CRED of its half, a shared counting pennant of the core's context. The unit is no stream: the
stream that PEN_LAST shows is a free value. DESIGN CHOICE: log entry 34. -/
def State.credit (s : State) (c lane epoch : Nat) : State :=
  let vid := s.fld (Reg.CB_CRED c) (if s.laneHalf c lane = 0 then Fld.CB_CRED_CRED_A else Fld.CB_CRED_CRED_B)
  let src : Signaller := ⟨s.rank, c, Config.freeNat s.free % 2, false⟩
  let s := { s with free := s.free + 1 }
  match s.penTranslate (s.coreCtx c) vid with
  | none => s.combErr c 0x7245 lane epoch
  | some k =>
    match s.penSignal k src 0 1 with
    | .ok s => s
    | .error _ => s.combErr c 0x7245 lane epoch

/-- A lane whose epoch has closed moves on (R309). -/
def State.laneCheck (s : State) (c lane : Nat) : State :=
  let x := s.lane c lane
  if s.epochLive c (s.laneHalf c lane) x.1 then s
  else
    match s.laneState c lane with
    | 1 => (s.setLaneState c lane 2).bump (Reg.CB_CNT c) Fld.CB_CNT_STALE 1
    | 3 => ((s.setLaneState c lane 0).setLane c lane none).credit c lane x.1
    | _ => s

/-- Liveness evaluated again (R309), after OPEN or CLOSE may have changed. -/
def State.epochs (s : State) (c : Nat) : State :=
  if !s.flag (Reg.CB_CFG c) Fld.CB_CFG_EN then s
  else
    let k := s.core c
    let wide := s.spanExceeded c
    let s := if wide && !k.route.span then s.combErr c 0x7244 0 0 else s
    let s := if wide = k.route.span then s
      else s.modCore c fun k => { k with route := { k.route with span := wide } }
    (k.route.lanes.map (·.1)).foldl (fun s l => s.laneCheck c l) s

/-- EN may stand only where the header slots and the combine region lie in the scratchpad (R313). -/
def State.combineCheck (s : State) (c : Nat) : State :=
  if !s.flag (Reg.CB_CFG c) Fld.CB_CFG_EN then s
  else
    let n := 2 * s.combNexp c
    if s.fld (Reg.CB_HDR c) Fld.CB_HDR_OFFSET + 32 * n ≤ 0x20_0000
        ∧ s.fld (Reg.CB_ROWS c) Fld.CB_ROWS_OFFSET + 32 * n * s.combRows c ≤ 0x20_0000 then s
    else (s.setFld (Reg.CB_CFG c) Fld.CB_CFG_EN 0).combErr c 0x7243 0 0

end Sys2Proof.Machine
end

