-- ==== Sys2Proof/Machine/Link.lean ====
section
/-! DEFINITION. What a Nirlo port holds and sends: slots, credits and flits (R237–R240), routes between devices (R242–R244)
and lost messages (R248). -/

namespace Sys2Proof.Machine

open Sys2Proof

def PortState.reset : PortState :=
  { txSeq := 0, retry := [], txq := [], part := [], frame := 0, lastSig := false, rxSeq := 4095, nak := false, rxHeld := []
    runs := [], asm := [], credOut := [], margined := false, rx := [] }

/-- Registers of port `p` of the device. -/
def nrlStat (p : Nat) : Nat := Reg.NRL_STAT (p / 4) (p % 4)
def nrlCred (p : Nat) : Nat := Reg.NRL_CRED (p / 4) (p % 4)
def nrlLost (p : Nat) : Nat := Reg.NRL_LOST (p / 4) (p % 4)
def nrlReplay (p : Nat) : Nat := Reg.NRL_REPLAY (p / 4) (p % 4)
def nrlErr (p : Nat) : Nat := Reg.NRL_ERR (p / 4) (p % 4)

namespace State

def port (s : State) (p : Nat) : PortState := mget s.ports PortState.reset p
def setPort (s : State) (p : Nat) (x : PortState) : State := { s with ports := mset s.ports p x }

/-- NRL_STAT.STATE: 0 DOWN, 1 TRAINING, 2 capability exchange, 3 UP, 4 FAULT, 5 TEST, 6 OUT. -/
def portState (s : State) (p : Nat) : Nat := s.fld (nrlStat p) Fld.NRL_STAT_STATE
def setPortState (s : State) (p v : Nat) : State := s.setFld (nrlStat p) Fld.NRL_STAT_STATE v
def portInServ (s : State) (p : Nat) : Bool := s.flag (nrlStat p) Fld.NRL_STAT_INSERV

/-- The context in which a port's traffic is handled (R242). DEDUCED: log entry 53. -/
def portCtx (s : State) (p : Nat) : Option Nat := mfind s.portOwner p

/-- Direction group of a port, where it has one (NRL_DG_MAP). -/
def portDir (s : State) (p : Nat) : Option Nat :=
  let v := (s.reg (Reg.NRL_DG_MAP (p / 4))).toNat / 16 ^ (p % 4) % 16
  if 8 ≤ v then some (v % 8) else none

/-- Ports of a partition's direction group, ascending. -/
def dirPorts (s : State) (x : Option Nat) (d : Nat) : List Nat :=
  (List.range 32).filter fun p => s.portDir p == some d && s.portCtx p == x && x.isSome

/-- The torus as the partition's first port group gives it (NRL_TORUS): extents of w, z, y, x. -/
def torus (s : State) (x : Option Nat) : List Nat :=
  let g := match (List.range 32).find? fun p => s.portCtx p == x && x.isSome with
    | some p => p / 4
    | none => 0
  let a := Reg.NRL_TORUS g
  [s.fld a Fld.NRL_TORUS_W, s.fld a Fld.NRL_TORUS_Z, s.fld a Fld.NRL_TORUS_Y, s.fld a Fld.NRL_TORUS_X]

end State

/-- Coordinate of a rank (R243), w first. -/
def coordOf (ext : List Nat) (rank : Nat) : List Nat :=
  let e (i : Nat) : Nat := max 1 (ext.getD i 1)
  [rank / e 3 / e 2 / e 1, rank / e 3 / e 2 % e 1, rank / e 3 % e 2, rank % e 3]

/-- The direction group a message takes (R244): first dimension that differs, the shorter way, + when equal. -/
def dirTo (ext : List Nat) (src dst : Nat) : Option Nat :=
  let a := coordOf ext src
  let b := coordOf ext dst
  (List.range 4).findSome? fun i =>
    let e := max 1 (ext.getD i 1)
    let d := (b.getD i 0 + e - a.getD i 0 % e) % e
    if d = 0 then none else some (2 * i + (if d ≤ e - d then 0 else 1))

/-- Slots of a message (R237): a head slot, and a data slot for every two sectors. -/
def msgSlots (m : Msg) : Nat := 1 + (m.data.length + 1) / 2

/-- A message that carries data of the step: a write, a reduction sector or a chain partial. -/
def isContribution (m : Msg) : Bool := m.kind == 0 || m.kind == 4 || m.kind == 5

def vcCredit (vc : Nat) : FieldPos :=
  match vc with
  | 0 => Fld.NRL_CRED_SIG
  | 1 => Fld.NRL_CRED_LCR
  | 2 => Fld.NRL_CRED_RED
  | _ => Fld.NRL_CRED_BULK

/-! The form of a flit (R237, R238). -/

/-- The 128 bits of a head. -/
def headNat (m : Msg) : Nat :=
  m.dst.toNat * 2 ^ 118 + m.srcDev.toNat * 2 ^ 108 + m.srcCore.toNat * 2 ^ 96 + m.kind.toNat * 2 ^ 92 + m.nsecM1.toNat * 2 ^ 86
    + m.tag.toNat * 2 ^ 74 + m.flags.toNat * 2 ^ 58 + m.addr.toNat

def slotVc (x : Slot) : Nat :=
  match x with
  | .heads vc _ => vc.toNat
  | .data vc _ _ => vc.toNat
  | .empty => 0
  | .control _ => 0

/-- STYPE of a slot. -/
def slotType (x : Slot) : Nat :=
  match x with
  | .empty => 0
  | .heads _ _ => 1
  | .data _ _ _ => 2
  | .control _ => 3

/-- The 64 bytes of a slot. -/
def slotBytes (x : Slot) : List Byte :=
  match x with
  | .empty => natBytes 0 64
  | .heads _ l => (l.flatMap (fun m => natBytes (headNat m) 16) ++ natBytes 0 64).take 64
  | .data _ a b => natBytes a.toNat 32 ++ natBytes b.toNat 32
  | .control w => natBytes w.toNat 64

/-- The header's 64 bits. -/
def flitHeader (f : Flit) : Nat :=
  let each (g : Slot → Nat) : Nat := (List.range 4).foldl (fun v i => v + g (f.slots.getD i .empty) * 4 ^ i) 0
  f.seq.toNat + f.ack.toNat * 2 ^ 12 + (if f.nak then 2 ^ 24 else 0) + f.crVc.toNat * 2 ^ 25 + f.crN.toNat * 2 ^ 27
    + each slotVc * 2 ^ 34 + each slotType * 2 ^ 42

/-- Bytes 0 to 263, over which the CRC goes. -/
def flitBytes (f : Flit) : List Byte := natBytes (flitHeader f) 8 ++ f.slots.flatMap slotBytes

def sealFlit (f : Flit) : Flit := { f with crc := Config.crc32 (flitBytes f) }

/-- The CRC check (R239). -/
def crcOk (f : Flit) : Bool := Config.crc32 (flitBytes f) == f.crc

/-- A slot that takes room in a receive buffer (R240). -/
def slotUsed (x : Slot) : Bool := slotType x == 1 || slotType x == 2

/-! What a port sends. -/

/-- Heads that share a slot (R237): up to four of the channel's waiting messages, of which only the last brings sectors;
and the messages that are left. -/
def takeHeads (vc : Nat) : Nat → List Msg → List Msg × List Msg
  | _, [] => ([], [])
  | n, m :: l =>
    if n = 0 then ([], m :: l)
    else if m.vc.toNat ≠ vc then let r := takeHeads vc n l; (r.1, m :: r.2)
    else if m.data.isEmpty then let r := takeHeads vc (n - 1) l; (m :: r.1, r.2)
    else ([m], l)

/-- A flit in the making: its slots, the messages left, the message partly sent, and whether data of the step is in it. -/
structure TxWork where
  slots : List Slot
  txq : List Msg
  part : Option (Msg × List Sector)
  carries : Bool
  deriving DecidableEq, Repr

/-- Up to so many slots of a channel. -/
def flitSlots (vc : Nat) : Nat → TxWork → TxWork
  | 0, w => w
  | n + 1, w =>
    match w.part with
    | some (m, a :: l) =>
      flitSlots vc n { w with
        slots := w.slots ++ [.data (BitVec.ofNat 2 vc) a (l.headD 0)]
        part := if l.length ≤ 1 then none else some (m, l.drop 1), carries := w.carries || isContribution m }
    | _ =>
      match takeHeads vc 4 w.txq with
      | ([], _) => w
      | (h :: hs, rest) =>
        let last := hs.getLastD h
        flitSlots vc n { w with
          slots := w.slots ++ [.heads (BitVec.ofNat 2 vc) ((h :: hs).map fun m => { m with data := [] })]
          txq := rest, part := if last.data.isEmpty then none else some (last, last.data)
          carries := w.carries || (h :: hs).any isContribution }

/-- The virtual channel that the next flit serves (R206, R240): the first flit of a frame BULK, the others in the order SIG,
LCR, RED, BULK, but SIG not twice in succession while LCR waits. DESIGN CHOICE: log entry 47. -/
def pickVc (frame : Nat) (lastSig : Bool) (ready : List Nat) : Option Nat :=
  if frame = 0 ∧ 3 ∈ ready then some 3
  else if lastSig ∧ 0 ∈ ready ∧ 1 ∈ ready then some 1
  else (List.range 4).find? ready.contains

/-- Receive buffer of a virtual channel (R240). -/
def vcBuffer (vc : Nat) : Nat :=
  match vc with
  | 0 => 64
  | 1 => 256
  | _ => 512

namespace State

/-- The port's error record (R254), and its report (R253). -/
def portErr (s : State) (p code tag : Nat) : State :=
  let a := nrlErr p
  let w := 2 ^ 63 + tag % 4096 * 2 ^ 36 + s.tick % 2 ^ 20 * 2 ^ 16 + code
  let s := if s.flag a Fld.NRL_ERR_VALID then s else s.setReg a (BitVec.ofNat 64 w)
  s.report code (s.portCtx p) none (BitVec.ofNat 64 w).toNat

/-- A device's report to the manager (R263), while a step is in progress. DEDUCED: log entry 50. -/
def deviceReport (s : State) (k : ReportKind) : State :=
  if s.stepActive then s.emit (.deviceReport s.rank k) else s

/-- A message discarded at a port, its slots counted (R248); a lost contribution is reported (R263).
DEDUCED: log entry 50. -/
def portLose (s : State) (p : Nat) (m : Msg) : State :=
  let s := s.bump (nrlLost p) Fld.NRL_LOST_COUNT (msgSlots m)
  if isContribution m then s.deviceReport .lostContribution else s

/-- Whether a port can take a message whole: link up, credits for its slots, room in the retry buffer (R239, R240). -/
def portReady (s : State) (p : Nat) (m : Msg) : Bool :=
  s.portState p == 3 && decide (msgSlots m ≤ s.fld (nrlCred p) (vcCredit m.vc.toNat))
    && decide ((s.port p).retry.length + (msgSlots m + 3) / 4 ≤ 512)

/-- What a port tells with every flit (R237): the last in-order number received and whether a NAK stands. -/
def portFlit (s : State) (p : Nat) (t : TxFlit) : Flit :=
  sealFlit { seq := BitVec.ofNat 12 t.seq, ack := BitVec.ofNat 12 (s.port p).rxSeq, nak := (s.port p).nak
             crVc := BitVec.ofNat 2 t.crVc, crN := BitVec.ofNat 7 t.crN, slots := t.slots, crc := 0 }

/-- A control flit: it carries an ACK or NAK where nothing else goes out. DESIGN CHOICE: log entry 47. -/
def portTell (s : State) (p : Nat) : State :=
  s.emit (.flit p (s.portFlit p ⟨((s.port p).txSeq + 4095) % 4096, List.replicate 4 (.control 0), 0, 0, 0, false⟩))

/-- The next flit of a port: slots of one virtual channel, as far as its credits go, and credits to return. It is numbered
and kept for retry. DESIGN CHOICE: log entry 47. -/
def portSend (s : State) (p : Nat) (vc : Option Nat) : State :=
  let q := s.port p
  let w : TxWork := match vc with
    | some v => flitSlots v (min 4 (s.fld (nrlCred p) (vcCredit v))) ⟨[], q.txq, mfind q.part v, false⟩
    | none => ⟨[], q.txq, none, false⟩
  let cr := q.credOut.headD (0, 0)
  let n := min 127 cr.2
  let t : TxFlit := ⟨q.txSeq, (w.slots ++ List.replicate 4 Slot.empty).take 4, cr.1, n, 0, w.carries⟩
  let s := s.setPort p { q with
    txSeq := (q.txSeq + 1) % 4096, retry := q.retry ++ [t], txq := w.txq
    part := match vc, w.part with
      | some v, some x => mset q.part v x
      | some v, none => mdel q.part v
      | none, _ => q.part
    frame := (q.frame + 1) % 8, lastSig := vc == some 0
    credOut := if cr.2 ≤ n then mdel q.credOut cr.1 else mset q.credOut cr.1 (cr.2 - n) }
  let s := match vc with
    | some v => s.setFld (nrlCred p) (vcCredit v) (s.fld (nrlCred p) (vcCredit v) - w.slots.length)
    | none => s
  s.emit (.flit p (s.portFlit p t))

/-- Virtual channels of a port with something to send and a credit for it. -/
def portVcs (s : State) (p : Nat) : List Nat :=
  let q := s.port p
  (List.range 4).filter fun v =>
    ((mfind q.part v).isSome || q.txq.any fun m => m.vc.toNat == v) && s.fld (nrlCred p) (vcCredit v) != 0

/-- Flits go out while the link is up and clocked, its retry buffer has room, and there is something to send or a credit to
return. -/
def portDrain (p : Nat) : Nat → State → State
  | 0, s => s
  | fuel + 1, s =>
    let q := s.port p
    if s.portState p ≠ 3 ∨ s.power.xbLost ∨ 512 ≤ q.retry.length then s
    else
      match pickVc q.frame q.lastSig (s.portVcs p) with
      | some v => portDrain p fuel (s.portSend p (some v))
      | none => if q.credOut.isEmpty then s else portDrain p fuel (s.portSend p none)

/-- A message given to a port: discarded where the port is in FAULT or OUT (R248), else sent when it can be. -/
def portGive (s : State) (p : Nat) (m : Msg) : State :=
  if s.portState p = 4 ∨ s.portState p = 6 then s.portLose p m
  else
    let q := s.port p
    portDrain p 16 (s.setPort p { q with txq := q.txq ++ [m] })

/-- The ports of the direction that a message to a rank takes (R244). -/
def nirloPorts (s : State) (x : Option Nat) (dst : Nat) : Option (Nat × List Nat) :=
  (dirTo (s.torus x) s.rank dst).map fun d => (d, s.dirPorts x d)

/-- The port among those in service that carries a core's messages to a rank (R244). -/
def nirloPort (s : State) (x : Option Nat) (dst core : Nat) : Option Nat :=
  (s.nirloPorts x dst).bind fun e =>
    let up := e.2.filter s.portInServ
    up[(core + dst) % up.length]?

/-- A message for another rank leaves by the ports of its partition's direction group (R244); with none in service it is
discarded and counted, and E_LINK_UNREACH is logged once per step (R248). DEDUCED: log entry 50. -/
def nirloSend (s : State) (x : Option Nat) (m : Msg) : State :=
  match s.nirloPorts x m.dst.toNat, s.nirloPort x m.dst.toNat m.srcCore.toNat with
  | none, _ => s
  | some _, some p => s.portGive p m
  | some (d, ps), none =>
    let s := match ps with
      | p :: _ => s.portLose p m
      | [] => if isContribution m then s.deviceReport .lostContribution else s
    let k := x.getD 8 * 8 + d
    if s.unreach.contains k then s
    else
      let s := { s with unreach := k :: s.unreach }
      match ps with
      | p :: _ => s.portErr p 0x3505 0
      | [] => s.report 0x3505 x none d

/-- Slots of a received message have drained: their credits go back with the next flit (R240). -/
def creditBack (s : State) (p vc n : Nat) : State :=
  if n = 0 then s
  else
    let q := s.port p
    portDrain p 8 (s.setPort p { q with
      rxHeld := mset q.rxHeld vc (mget q.rxHeld 0 vc - n), credOut := mset q.credOut vc (mget q.credOut 0 vc + n) })

/-- A received message is taken: its data slots drain, and its head slot with the last of the messages it named (R240).
DESIGN CHOICE: log entry 47. -/
def rxTake (s : State) (p : Nat) (m : Msg) : State :=
  let q := s.port p
  let vc := m.vc.toNat
  let run := mget q.runs [] vc
  let s := s.setPort p { q with
    rx := q.rx.erase m
    runs := match run with
      | [] => q.runs
      | n :: ns => mset q.runs vc (if n ≤ 1 then ns else (n - 1) :: ns) }
  s.creditBack p vc ((m.data.length + 1) / 2 + (if run.headD 2 ≤ 1 then 1 else 0))

/-- A received message keeps only its sectors from the `n`-th on: those before have entered their chain entry (R249). -/
def rxKeep (s : State) (p : Nat) (m rest : Msg) : State :=
  let q := s.port p
  (s.setPort p { q with rx := q.rx.replace m rest }).creditBack p m.vc.toNat
    ((m.data.length + 1) / 2 - (rest.data.length + 1) / 2)

/-- Whether a message is the oldest received on its virtual channel at a port, and the port's logic is clocked. Chain partials
hold up only those of their own tag (R249). -/
def rxFirst (s : State) (p : Nat) (m : Msg) : Bool :=
  !s.power.xbLost
    && ((s.port p).rx.find? fun x => x.vc == m.vc && !(x.kind == 5 && (m.kind != 5 || x.tag != m.tag))) == some m

/-- A core's messages that wait for a port (R123: not yet handed over). -/
def txWaiting (s : State) (c : Nat) : Bool :=
  let mine (m : Msg) : Bool := m.srcDev.toNat == s.rank && m.srcCore.toNat == c
  s.ports.any fun (e : Nat × PortState) => e.2.txq.any mine || e.2.part.any fun x => mine x.2.1

end State

end Sys2Proof.Machine
end

