-- ==== Sys2Proof/Machine/Mesh.lean ====
section
/-! DEFINITION. The mesh's reduction trees (R211–R213), lateness counters (R208) and error record (R215). -/

namespace Sys2Proof.Machine

open Sys2Proof

/-- MESH_ERR (R215): the first record is kept while VALID is 1. -/
def State.meshErr (s : State) (router tag code : Nat) : State :=
  let w := 2 ^ 63 + coreDie router * 2 ^ 61 + router * 2 ^ 49 + tag % 4096 * 2 ^ 37 + code
  let s := if s.flag Reg.MESH_ERR Fld.MESH_ERR_VALID then s else s.setReg Reg.MESH_ERR (BitVec.ofNat 64 w)
  s.report code none (some router) (BitVec.ofNat 64 w).toNat

/-- A reduction entry (R215). -/
structure RedEntry where
  t : Nat
  fmt : Nat
  ins : List Nat
  toChain : Bool
  group : Nat
  deriving DecidableEq, Repr

def State.redEntryAt (s : State) (router t tag : Nat) : Option RedEntry :=
  let a := Reg.MR_RTAG router t
  let nin := s.fld a Fld.MR_RTAG_NIN
  let fmt := s.fld a Fld.MR_RTAG_FMT
  if s.flag a Fld.MR_RTAG_VALID ∧ s.fld a Fld.MR_RTAG_TAG = tag ∧ fmt ≠ 3 ∧ 1 ≤ nin ∧ nin ≤ 5 then
    some ⟨t, fmt, ([s.fld a Fld.MR_RTAG_IN0, s.fld a Fld.MR_RTAG_IN1, s.fld a Fld.MR_RTAG_IN2, s.fld a Fld.MR_RTAG_IN3,
      s.fld a Fld.MR_RTAG_IN4]).take nin, s.flag a Fld.MR_RTAG_TO_CHAIN, s.fld a Fld.MR_RTAG_GROUP⟩
  else none

/-- The lowest valid entry with a tag (R211). -/
def State.redEntry (s : State) (router tag : Nat) : Option RedEntry :=
  (List.range 64).findSome? fun t => s.redEntryAt router t tag

/-- Element-by-element sum of two sectors in a reduction format: 0 fp32, 1 bf16, 2 int32 modulo 2^32; and whether an
int32 partial left the int32 range (R212). The int32 running totals are exact integers beside the sectors. -/
def redElem (fmt a b : Nat) : Nat :=
  match fmt with
  | 0 => f32Add a b
  | 1 => FFmt.bf16.round (.add (FFmt.bf16.decode a) (FFmt.bf16.decode b))
  | _ => (a + b) % 2 ^ 32

def redWidth (fmt : Nat) : Nat := if fmt = 1 then 16 else 32

def redAdd (fmt : Nat) (a b : Sector) : Sector :=
  let w := redWidth fmt
  let n := 256 / w
  let xs := unpackBits w n a.toNat
  let ys := unpackBits w n b.toNat
  BitVec.ofNat 256 (packBits w ((List.zip xs ys).map fun p => redElem fmt p.1 p.2))

/-- Whether any partial sum of an int32 reduction, in ascending input index, leaves the int32 range (R212). -/
def redOverflow (ds : List Sector) : Bool :=
  (List.range 8).any fun e =>
    let vs := ds.map fun d => sext 32 (d.toNat / 2 ^ (32 * e) % 2 ^ 32)
    (vs.foldl (fun (r : Int × Bool) v =>
      let t := r.1 + v
      (t, r.2 || decide (t < -(2 ^ 31)) || decide (2 ^ 31 ≤ t))) (0, false)).2

def redSumAll (fmt : Nat) : List Sector → Sector
  | [] => 0
  | d :: ds => ds.foldl (redAdd fmt) d

/-- Destination of a device address for a sector at a router: a core, or a stop of its unit (R204). -/
def State.destOf (s : State) (router a : Nat) : Option Nat :=
  match s.place a with
  | some (l, _) =>
    match l.space with
    | .spad => some (l.key / 0x20_0000)
    | .near => (s.stopFor router (l.key / 2 ^ 31 / 32)).map stopDest
    | .reach => (s.stopFor router (8 + l.key / 2 ^ 39)).map stopDest
  | none => none

/-- The port a sector arrives on at the neighbour it was sent to. -/
def oppositePort (d : Nat) : Nat :=
  match d with
  | 1 => 3
  | 2 => 4
  | 3 => 1
  | _ => 2

/-- A sector of RED written at its destination (R167, R213), and its parts landed (R191). DEDUCED: log entry 37. -/
def State.redDeliver (s : State) (addr : Nat) (data : Sector) (srcs : List RedSrc) : State :=
  match s.place addr with
  | some (l, _) => s.meshSt l data beAll (srcs.map fun x => (x.dev, x.core))
  | none => s

/-- Where a sector of RED goes from a router: a root's sum for a chain to the stop of its port group (R213), any other to its
address. -/
def State.redDest (s : State) (f : RedFlit) : Option Nat :=
  match f.chain with
  | some g => (s.stopFor f.router (12 + g)).map stopDest
  | none => s.destOf f.router f.addr

/-- A RED sector at its destination: the chain entry's group takes a sum sent to it, memory any other. -/
def State.redEnd (s : State) (f : RedFlit) : State :=
  match f.chain with
  | some g => { s with chainIn := s.chainIn ++ [{ f with router := g, port := 5 }] }
  | none => s.redDeliver f.addr f.data f.srcs

/-- A RED sector sent on from a router along its route; a table written by hand may lose it (R209). -/
def State.redForward (s : State) (f : RedFlit) : State :=
  match s.redDest f with
  | none => s
  | some dest =>
    if dest = f.router then s.redEnd f
    else
      match s.nextHop f.router dest with
      | 0 => s
      | 7 => s
      | 5 => if stopAt f.router 5 = some dest then s.redEnd f else s
      | 6 => if stopAt f.router 6 = some dest then s.redEnd f else s
      | d =>
        match neighbour f.router d with
        | some (r, _) => { s with redFlits := s.redFlits ++ [{ f with router := r, port := oppositePort d }] }
        | none => s

def redKey (router t i : Nat) : Nat := (router * 64 + t) * 8 + i

/-- An entry whose every input holds a sector adds them and sends the sum (R212, R213). DEDUCED: log entry 37. -/
def State.redFire (s : State) (router tag : Nat) (e : RedEntry) : State :=
  let keys := (List.range e.ins.length).map fun i => redKey router e.t i
  let heads := keys.filterMap fun k => (mget s.redBuf [] k).head?
  if heads.length ≠ keys.length then s
  else
    let s := { s with redBuf := keys.foldl (fun b k =>
      let rest := (mget b [] k).tail
      if rest.isEmpty then mdel b k else mset b k rest) s.redBuf }
    let ds := heads.map (·.data)
    let addr := (heads.head?.map (·.addr)).getD 0
    let s := if heads.any fun h => h.addr != addr then s.meshErr router tag 0x7542 else s
    let s := if e.fmt = 2 ∧ redOverflow ds then s.meshErr router tag 0x2543 else s
    let s := s.addMod (Reg.MR_RTAG router e.t) Fld.MR_RTAG_DONE 1
    let srcs := heads.flatMap (·.srcs)
    s.redForward ⟨router, 0, tag, addr, redSumAll e.fmt ds, srcs, if e.toChain then some e.group else none⟩

/-- A RED sector arrives at a router on a port (R211). DEDUCED: log entry 37. -/
def State.redArrive (s : State) (f : RedFlit) : State :=
  match s.redEntry f.router f.tag with
  | none => s.redForward f
  | some e =>
    match e.ins.findIdx? (· == f.port) with
    | none => (s.meshErr f.router f.tag 0x7541).redForward f
    | some i =>
      let k := redKey f.router e.t i
      ({ s with redBuf := mset s.redBuf k (mget s.redBuf [] k ++ [(⟨f.addr, f.data, f.srcs⟩ : RedIn)]) }).redFire f.router f.tag e

/-- A sector that would join a full input buffer waits where it is (R212). -/
def State.redFull (s : State) (f : RedFlit) : Bool :=
  match s.redEntry f.router f.tag with
  | none => false
  | some e =>
    match e.ins.findIdx? (· == f.port) with
    | none => false
    | some i => decide (8 ≤ (mget s.redBuf [] (redKey f.router e.t i)).length)

/-- The sector of RED that an event names: the first of its kind at that port. -/
def State.redAt (s : State) (router port tag addr : Nat) (data : Sector) : Option RedFlit :=
  s.redFlits.find? fun f => f.router == router && f.port == port && f.tag == tag && f.addr == addr && f.data == data

/-- A sector that came to the port before goes first: one of the same tag, or one for the same destination that no full buffer
holds back (R205, R212). DEDUCED: log entry 37. -/
def State.redBehind (s : State) (f : RedFlit) : Bool :=
  (s.redFlits.takeWhile (· != f)).any fun g =>
    g.router == f.router && g.port == f.port && (g.tag == f.tag || (!s.redFull g && s.redDest g == s.redDest f))

/-- RED_SECTOR: the sector under way arrives, in its turn. -/
def State.redSector (s : State) (router port tag addr : Nat) (data : Sector) : State :=
  match s.redAt router port tag addr data with
  | none => s
  | some f => if s.redFull f || s.redBehind f then s else { s with redFlits := s.redFlits.erase f }.redArrive f

/-- Whether a SEND of this device still has sectors on RED, under way or waiting in an entry (R123). -/
def State.redWaiting (s : State) (c iid : Nat) : Bool :=
  let mine (l : List RedSrc) : Bool := l.any fun x => x.dev == s.rank && x.core == c && x.iid == iid
  (s.redFlits.any fun f => mine f.srcs) || (s.chainIn.any fun f => mine f.srcs)
    || s.redBuf.any fun (e : Nat × List RedIn) => e.2.any fun x => mine x.srcs

/-- FLIT_LATE (R208): a flit of RED or BULK that waited beyond its threshold is counted. DEDUCED: log entry 37. -/
def State.flitLate (s : State) (router : Nat) (bulk : Bool) (waited : Nat) : State :=
  let thr := s.fld Reg.MESH_CFG (if bulk then Fld.MESH_CFG_BULK_LATE_THR else Fld.MESH_CFG_RED_LATE_THR)
  if thr < waited then s.bump (Reg.MR_LATE router) Fld.MR_LATE_COUNT 1 else s

end Sys2Proof.Machine
end

