-- ==== Sys2Proof/Machine/Flags.lean ====
section
/-! DEFINITION. The flags of the arithmetic: the non-finite counters (R94, R95) and the detector inputs MAXEXP and
GNORM (R266). -/

namespace Sys2Proof.Machine

open Sys2Proof

/-- Which instruction wrote the elements, as NF_FIRST records it (R95). -/
structure NfFrom where
  unit : Nat
  strm : Nat
  bank : Nat
  index : Nat
  deriving DecidableEq, Repr

/-- Biased fp32 exponent of a value widened to fp32 (R266). -/
def biasedExp (x : Num) : Nat := FFmt.fp32.round x / 2 ^ 23 % 256

/-- Code of the first non-finite element, for NF_FIRST. -/
def nfKind : List Num → Option Nat
  | [] => none
  | .inf false :: _ => some 0
  | .inf true :: _ => some 1
  | .nan :: _ => some 2
  | .fin .. :: xs => nfKind xs

/-- The elements that R94 examines, in NF_FIRST's order: counted where non-finite, taken into MAXEXP where finite. -/
def State.examine (s : State) (c : Nat) (w : NfFrom) (xs : List Num) : State :=
  let s := s.bump (Reg.NF_POS_INF c) Fld.NF_POS_INF_COUNT (xs.count (.inf false))
  let s := s.bump (Reg.NF_NEG_INF c) Fld.NF_NEG_INF_COUNT (xs.count (.inf true))
  let s := s.bump (Reg.NF_NAN c) Fld.NF_NAN_COUNT (xs.count .nan)
  let s := match nfKind xs with
    | some k =>
      if s.flag (Reg.NF_FIRST c) Fld.NF_FIRST_VALID then s
      else s.setReg (Reg.NF_FIRST c)
        (BitVec.ofNat 64 (2 ^ 31 + k * 2 ^ 29 + w.unit % 8 * 2 ^ 26 + w.strm % 2 * 2 ^ 25 + w.bank % 2 * 2 ^ 24
          + w.index % 2048))
    | none => s
  let m := xs.foldl (fun m x => if x.isFinite then max m (biasedExp x) else m) 0
  if m ≤ s.fld (Reg.MAXEXP c) Fld.MAXEXP_EXP then s else s.setFld (Reg.MAXEXP c) Fld.MAXEXP_EXP m

/-- The values a conversion writes that R94 and R266 examine: those whose source was finite; an element of a block
format enters only where its widened value is finite. -/
def convExamined (s d : Nat) (scaleIn scaleOut : Nat) (src dst : List Nat) : List Num :=
  if fmtPlain s d then []
  else
    (List.zip src dst).filterMap fun (a, b) =>
      if (fmtNum s scaleIn a).isFinite then
        let v := fmtNum d scaleOut b
        if fmtBlock d then (if (FFmt.fp32.decode (FFmt.fp32.round v)).isFinite then some v else none) else some v
      else none

/-- GNORM takes the square of every element written out, in order, while it is enabled (R266). -/
def State.addGnorm (s : State) (c : Nat) (xs : List Nat) : State :=
  if s.flag (Reg.DET_CTL c) Fld.DET_CTL_GNORM_EN then
    let v := xs.foldl (fun g x => f32Add g (f32Mul x x)) (s.fld (Reg.GNORM c) Fld.GNORM_VALUE)
    s.setFld (Reg.GNORM c) Fld.GNORM_VALUE v
  else s

end Sys2Proof.Machine
end

