-- ==== Sys2Proof/Machine/Array.lean ====
section
/-! DEFINITION. The tensor array: strip sets and headers (R30, R38, R39), windows (R25–R28, R33), the products MMF, MMT
and MMO (R44–R64) and ACLR (R70). Each instruction has its checks at issue, a plan made when it starts (headers, queue
sectors it will take), and a computation made when it has taken them. -/

namespace Sys2Proof.Machine

open Sys2Proof

/-! Strip sets and headers. -/

/-- The eight words of a strip-set descriptor (R38). -/
structure SetDesc where
  hdr : Nat
  code : Nat
  val : Nat
  exp : Nat
  opt : List Nat
  optFmt : List Nat
  nopt : Nat
  count : Nat
  deriving DecidableEq, Repr

def setOfBits (n : Nat) : SetDesc :=
  let w (k : Nat) : Nat := n / 2 ^ (64 * k) % 2 ^ 64
  let f (hi lo : Nat) : Nat := w 7 / 2 ^ lo % 2 ^ (hi - lo + 1)
  { hdr := w 0, code := w 1, val := w 2, exp := w 3, opt := [w 4, w 5, w 6]
    optFmt := [f 7 4, f 11 8, f 15 12], nopt := f 3 0, count := f 47 24 }

/-- A strip header (R30). -/
structure Hdr where
  vfmt : Nat
  cls : Nat
  prrS : Nat
  rowsM1 : Nat
  kTail : Nat
  kGroups : Nat
  maskGen : Nat
  winBase : Nat
  deriving DecidableEq, Repr

def hdrOf (d : Sector) : Hdr :=
  let n := d.toNat
  let f (w hi lo : Nat) : Nat := n / 2 ^ (64 * w + lo) % 2 ^ (hi - lo + 1)
  { vfmt := if f 0 55 52 ≤ 5 then f 0 55 52 else 0
    cls := min 4 (f 0 47 45), prrS := f 0 44 40, rowsM1 := f 0 36 32, kTail := f 0 31 28, kGroups := f 0 27 0
    maskGen := f 1 55 40, winBase := f 1 39 0 }

namespace Hdr

/-- N, the strip's class. -/
def n (h : Hdr) : Nat := 2 ^ h.cls
/-- The reduction length (R30). -/
def klen (h : Hdr) : Nat :=
  if h.kGroups = 0 then 0 else (h.kGroups - 1) * 16 + (if h.kTail = 0 then 16 else h.kTail)
/-- W, the strip's windows at class `n` (R26). -/
def windows (h : Hdr) (n : Nat) : Nat := (h.kGroups * n + 31) / 32

end Hdr

/-- The checks of R39 at issue; `vals`: values are used; `opts`: the optimizer streams are used. -/
def SetDesc.check (d : SetDesc) (vals opts : Bool) : Except AccErr Unit :=
  let used := [d.hdr, d.code] ++ (if vals then [d.val] else []) ++ (if opts then d.opt.take d.nopt else [])
  match used.find? fun b => b % 32 != 0 with
  | some b => .error ⟨strmCode .execute 0x01, b, none⟩
  | none =>
    let okFmt : Bool := (List.range (min 3 d.nopt)).all fun i =>
      let f := d.optFmt.getD i 0
      if i = 0 then f == 4 else f == 2 || f == 3 || f == 4
    if d.nopt ≤ 3 ∧ okFmt then .ok () else .error (plainErr (strmCode .execute 0x02))

/-- The bits of the strip-set descriptor that a pointer field names, read by port `src`. -/
def loadSet (s : State) (c src p : Nat) : Except AccErr Nat :=
  match s.checkPtr c .execute p with
  | .error e => .error e
  | .ok a => (s.readBytes c .execute src a 2).map sectorsBits

/-- A strip set as the array's instructions read it, with the checks of R39. -/
def readSet (s : State) (c : Nat) (p : Nat) (vals : Bool) : Except AccErr SetDesc :=
  match loadSet s c 0 p with
  | .error e => .error e
  | .ok n => ((setOfBits n).check vals false).map fun _ => setOfBits n

/-- Address of strip `st`'s header (R30): the plain sum; past the device address space R154 finds it. -/
def SetDesc.hdrAddr (d : SetDesc) (st : Nat) : Nat := d.hdr + 32 * st

/-- A strip's header, and the late check of EXP_BASE on a b4 strip (R39). DESIGN CHOICE: log entry 108. -/
def readHdr (s : State) (c src : Nat) (d : SetDesc) (st : Nat) : Except AccErr Sector :=
  match s.readSec c .execute src (d.hdrAddr st) with
  | .error e => .error e
  | .ok x => if (hdrOf x).vfmt = 5 ∧ d.exp % 32 ≠ 0 then .error ⟨strmCode .execute 0x01, d.exp, none⟩ else .ok x

/-- Code of an error of the tensor array (R72, R119). -/
def arrErr (cls cause : Nat) : AccErr := plainErr (cls * 0x1000 + 2 * 64 + cause)

/-! Operand paths (R47). -/

inductive Path where
  | p8 | pb4 | p16
  deriving DecidableEq, Repr

def pathOf (vfmt ofmt : Nat) : Option Path :=
  if vfmt ≤ 1 ∧ ofmt ≤ 1 then some .p8
  else if vfmt = 5 ∧ ofmt ≤ 1 then some .pb4
  else if (vfmt = 2 ∨ vfmt = 3) ∧ (ofmt = 2 ∨ ofmt = 3) then some .p16
  else none

/-- The path's partial format (R48, R61). -/
def Path.part : Path → FFmt
  | .p16 => .fp32
  | _ => .f20

/-- Sectors of values per window (R45). -/
def valSectors (vfmt : Nat) : Nat := if vfmt = 5 then 16 else if vfmt ≤ 1 then 32 else 64

/-- Queue sectors of one window of a product that reads values. -/
def windowTakes (qc qv qe vfmt : Nat) : List (Nat × Nat) :=
  [(qc, 16), (qv, valSectors vfmt)] ++ (if vfmt = 5 then [(qe, 1)] else [])

/-- Queue sectors of one window. -/
def windowLen (vfmt : Nat) : Nat := 16 + valSectors vfmt + (if vfmt = 5 then 1 else 0)

/-- A window of a product that reads values (R44, R45). -/
def windowOf (vfmt : Nat) (ds : List Sector) : Window :=
  let nv := valSectors vfmt
  { codes := unpackBits 4 1024 (sectorsBits (ds.take 16))
    vals := unpackBits (fmtBits vfmt) 1024 (sectorsBits ((ds.drop 16).take nv))
    exps := if vfmt = 5 then unpackBits 8 32 (sectorsBits ((ds.drop (16 + nv)).take 1)) else [] }

/-- Whether slot (r, t) of window `w` is enabled (R33), read at class `n`: gives its group within the window and its
position in the reduction. -/
def slotPos (h : Hdr) (n w r t code : Nat) : Option Nat :=
  let e := w * 32 + t
  let p := 16 * (e / n) + code
  if r ≤ h.rowsM1 ∧ e < h.kGroups * n ∧ p < h.klen then some p else none

/-- A balanced tree over its inputs (R60): a node with one absent child passes the other. -/
def treeLevel (pf : FFmt) : List (Option Nat) → List (Option Nat)
  | a :: b :: rest =>
    (match a, b with
      | some x, some y => some (pf.round (.add (pf.decode x) (pf.decode y)))
      | some x, none => some x
      | none, y => y) :: treeLevel pf rest
  | l => l

/-- The tree over 2^k inputs. -/
def tree (pf : FFmt) : Nat → List (Option Nat) → Option Nat
  | 0, l => (l.headD none)
  | k + 1, l => tree pf k (treeLevel pf l)

/-- One more partial joined to a set's running partial (R61). -/
def joinPart (pf : FFmt) (acc x : Option Nat) : Option Nat :=
  match acc, x with
  | some a, some b => some (pf.round (.add (pf.decode a) (pf.decode b)))
  | none, b => b
  | a, none => a

/-- Promotion of a partial to fp32 (R48). -/
def promote (p : Path) (b : Nat) : Nat := if p = .p16 then b else b * 2 ^ 12

/-- The product of a slot (R49). -/
def slotProduct (p : Path) (vfmt ofmt scale v x : Nat) : Nat :=
  p.part.round (.mul (fmtNum vfmt scale v) (fmtNum ofmt 0 x))

/-! Accumulator access. -/

/-- A window of an instruction that reads only codes. -/
def codeWindow (ds : List Sector) : Window := ⟨unpackBits 4 1024 (sectorsBits ds), [], []⟩

def accKey (row col : Nat) : Nat := row * 256 + col
/-- Key of an uncorrectable word: 0 accumulator file, 1 slot accumulators, 2 write-out buffer (R73). -/
def accUeKey (file idx : Nat) : Nat := file * 2 ^ 20 + idx

/-- Span of accumulator columns, past the device address space, for the interlock of R69. -/
def accSpan (lo hi : Nat) : Span := ⟨2 ^ 48 + lo, 2 ^ 48 + hi⟩

/-- An uncorrectable accumulator word that is read (R68). DESIGN CHOICE: log entry 23. -/
def State.noteAccUe (s : State) (c file row col : Nat) : State :=
  if s.flag (Reg.ACC_ECC c) Fld.ACC_ECC_UE then s
  else (s.setFld (Reg.ACC_ECC c) Fld.ACC_ECC_UE 1).setReg (Reg.ACC_UE_LOC c)
    (BitVec.ofNat 64 (file * 2 ^ 14 + row * 2 ^ 8 + col))

/-- The records a failed access leaves: those of the memories, or ACC_ECC for an accumulator word (port 99). -/
def State.noteAny (s : State) (c : Nat) (e : AccErr) : State :=
  match e.note with
  | some (l, 99) =>
    let file := l.key / 2 ^ 20
    let i := l.key % 2 ^ 20
    if file = 0 then s.noteAccUe c 0 (i / 256) (i % 256) else s.noteAccUe c file (i / 32) (i % 32)
  | _ => s.noteErr e

/-- E_ACC_UE of an accumulator element, under a unit's block (R68, R119). DEDUCED: log entry 22. -/
def accUeErr (block row col : Nat) : AccErr := ⟨0x2000 + block * 64 + 5, 0, some (⟨.spad, accKey row col, 0⟩, 99)⟩

/-- Accumulator elements written: (row, column, fp32). A written word is correctable again. -/
def State.putAcc (s : State) (c : Nat) (xs : List (Nat × Nat × Nat)) : State :=
  s.modCore c fun k =>
    { k with
      acc := xs.foldl (fun m x => mset m (accKey x.1 x.2.1) (BitVec.ofNat 32 x.2.2)) k.acc
      accUe := k.accUe.filter fun u => !(u < 2 ^ 20 && xs.any fun x => accKey x.1 x.2.1 == u)
      accWeak := k.accWeak.filter fun u => !(u < 2 ^ 20 && xs.any fun x => accKey x.1 x.2.1 == u) }

def State.getAcc (s : State) (c row col : Nat) : Nat := (mget (s.core c).acc 0 (accKey row col)).toNat

/-- The first uncorrectable word among accumulator elements about to be read. DESIGN CHOICE: log entry 23. -/
def State.accUeAt (s : State) (c : Nat) (xs : List (Nat × Nat)) : Option (Nat × Nat) :=
  xs.find? fun x => (s.core c).accUe.contains (accKey x.1 x.2)

/-- Corrected accumulator words counted (R68). -/
def State.accCorrects (s : State) (c n : Nat) : State :=
  if n = 0 then s else s.bump (Reg.ACC_ECC c) Fld.ACC_ECC_CORR_CNT n

/-- Accumulator elements read by a unit of block `block` (R68): an uncorrectable one stops it, corrected ones are counted. -/
def State.accRead (s : State) (c block : Nat) (xs : List (Nat × Nat)) : Except AccErr State :=
  match s.accUeAt c xs with
  | some (r, k) => .error (accUeErr block r k)
  | none => .ok (s.accCorrects c (xs.filter fun x => (s.core c).accWeak.contains (accKey x.1 x.2)).length)

/-- Values of accumulator elements, for the counters (R94). -/
def State.accNums (s : State) (c : Nat) (xs : List (Nat × Nat)) : List Num :=
  xs.map fun x => FFmt.fp32.decode (s.getAcc c x.1 x.2)

/-- Rows × columns in the order of NF_FIRST: column, then row. -/
def rect (rows col0 cols : Nat) : List (Nat × Nat) :=
  (List.range cols).flatMap fun j => (List.range rows).map fun r => (r, col0 + j)

/-- Activity of the array (R73): cycles with a slot enabled, useful MACs. -/
def State.arrayWork (s : State) (c act useful : Nat) : State :=
  let s := s.addMod (Reg.ARRAY_ACT c) Fld.ARRAY_ACT_ACT act
  s.addMod (Reg.ARRAY_USEFUL c) Fld.ARRAY_USEFUL_USEFUL useful

/-- A set is done (R73). -/
def State.setDone (s : State) (c : Nat) : State := s.bump (Reg.ARRAY_STAT c) Fld.ARRAY_STAT_SETS_DONE 1

/-- PROMOTE_EVERY as a set size (R46, R73). -/
def State.setSize (s : State) (c : Nat) : Nat :=
  match s.fld (Reg.ARRAY_CFG c) Fld.ARRAY_CFG_PROMOTE_EVERY with
  | 0 => 1
  | 1 => 2
  | _ => 4

/-- A job with nothing taken yet. -/
def Job.mk0 (op : Nat) (w : Body) : Job :=
  { iid := 0, op := op, body := w, index := 0, bank := 0, ctrs := [], descs := [], ptrs := [], reads := [],
    writes := [], queues := [], started := false, hdrs := [], fail := none, part := 0, drain := false, cands := [], pred := none
    takes := [], got := [], took := [], computed := false, outs := [] }

/-- What an instruction's computation answers: the state, and the error that stopped it. -/
abbrev Done := State × Option AccErr

/-- What a part of an instruction answers: the state, the job as it goes on (its last part sets `computed`), sectors for
return queues, and the error that stopped it or what it waits for. -/
structure PartOut where
  s : State
  j : Job
  q : List (Nat × Sector)
  err : Option AccErr

/-- The last part of an instruction is done. -/
def partEnd (s : State) (j : Job) : PartOut := ⟨s, { j with computed := true }, [], none⟩

/-- A part has been stopped, or waits. -/
def partErr (s : State) (j : Job) (e : AccErr) : PartOut := ⟨s, j, [], some e⟩

/-- An instruction of one part. -/
def Done.part (r : Done) (j : Job) : PartOut :=
  match r with
  | (s, none) => partEnd s j
  | (s, some e) => partErr s j e

def sectorSpan (a n : Nat) : Span := ⟨a, a + 32 * n - 1⟩

/-- The span of `n` bytes from an address. -/
def byteSpan (a n : Nat) : Span := ⟨a, a + n - 1⟩

/-- A list cut into consecutive pieces. -/
def chunks {α : Type} (n : Nat) : Nat → List α → List (List α)
  | 0, _ => []
  | fuel + 1, l => if l.isEmpty then [] else l.take n :: chunks n fuel (l.drop n)

/-- The sectors a job has taken, oldest first, split window by window. -/
def Job.windows (j : Job) (per : Nat) : List (List Sector) := chunks per j.got.length j.got.reverse

def nfArray (j : Job) : NfFrom := ⟨0, 0, j.bank, j.index⟩

/-! MMF (R50–R53). -/

/-- STRIP after its index adjust, checked against STRIP_COUNT (R129, R72). -/
def stripField (d : SetDesc) (strip adj extra : Nat) : Except AccErr Nat :=
  let v := (strip + adj) % 2 ^ 32
  if v + extra < d.count then .ok v else .error (arrErr 1 0x01)

/-- A 24-bit window index after its adjust. -/
def winField (t : Strm) (win adj : Nat) : Except AccErr Nat :=
  let v := (win + adj) % 2 ^ 32
  if v < 2 ^ 24 then .ok v else .error (fieldErr t)

/-- Dense operand checks: alignment and mapping, then enough runs for the columns (R153, R154, R428). -/
def checkOperand (s : State) (c : Nat) (d : Desc) (t : Nat) : Except AccErr Unit :=
  match s.checkDesc c .execute d with
  | .error e => .error e
  | .ok () => if t ≤ d.runs then .ok () else .error (shapeErr .execute)

/-- Checks of MMF at issue; ptrs hold the set's words, the strip and the first window. -/
def mmfIssue (s : State) (c : Nat) (w : Body) : Except AccErr Job :=
  let adj := s.cntAdj c .execute
  let t := bits w 15 8 + 1
  match readSet s c (bits w 121 117) true with
  | .error e => .error e
  | .ok d =>
    match stripField d (bits w 113 90) (adj (bits w 116 114)) 0 with
    | .error e => .error e
    | .ok st =>
      if 256 < bits w 23 16 + t then .error (arrErr 1 0x03) else
        match winField .execute (bits w 86 63) (adj (bits w 89 87)) with
        | .error e => .error e
        | .ok win =>
          let x := s.desc c .execute (bits w 32 28) (bits w 6 4)
          match checkOperand s c x t with
          | .error e => .error e
          | .ok () =>
            .ok { Job.mk0 0x20 w with
              descs := [x], ptrs := [d.hdr, d.exp, st, win]
              reads := [sectorSpan (s.ptrAddr c .execute (bits w 121 117)) 2, sectorSpan (d.hdrAddr st) 1, x.span]
              writes := [accSpan (bits w 23 16) (bits w 23 16 + t - 1)]
              queues := [bits w 38 37, bits w 36 35, bits w 34 33] }

/-- A set descriptor with only what a product's header reads need. -/
def hdrSet (hdr exp : Nat) : SetDesc :=
  { hdr := hdr, code := 0, val := 0, exp := exp, opt := [], optFmt := [], nopt := 0, count := 0 }

/-- Windows an instruction covers: NWIN 0 means all from the first to the strip's last (R53). -/
def windowList (h : Hdr) (win nwin : Nat) : List Nat :=
  let n := if nwin = 0 then h.windows h.n - win else nwin
  (List.range n).map fun i => win + i

def mmfPlan (s : State) (c : Nat) (j : Job) : Except AccErr Job :=
  match readHdr s c 0 (hdrSet (j.ptrs.getD 0 0) (j.ptrs.getD 1 0)) (j.ptrs.getD 2 0) with
  | .error e => .error e
  | .ok x =>
    match pathOf (hdrOf x).vfmt (bits j.body 27 24) with
    | none => .error (arrErr 1 0x02)
    | some _ => .ok { j with hdrs := [x] }

/-- The row trees of one window for one column: one partial per row. -/
def mmfWindowCol (p : Path) (h : Hdr) (ofmt w : Nat) (wd : Window) (xs : List Nat) : List (Option Nat) :=
  let per := 512 / h.n
  (List.range 32).map fun r =>
    tree p.part 5 ((List.range 32).map fun t =>
      let i := r * 32 + t
      match slotPos h h.n w r t (wd.codes.getD i 0) with
      | some pos => some (slotProduct p h.vfmt ofmt (wd.exps.getD r 0) (wd.vals.getD i 0) (xs.getD (pos - w * per) 0))
      | none => none)

/-- Enabled slots of a window. -/
def enabledSlots (h : Hdr) (n w : Nat) (codes : List Nat) : Nat :=
  ((List.range 1024).filter fun i => (slotPos h n w (i / 32) (i % 32) (codes.getD i 0)).isSome).length

/-- The dense operand of the windows for one column: for each window, its 512/N positions (R50). -/
def readCols (s : State) (c : Nat) (d : Desc) (w j : Nat) : List (Nat × Nat) → Except AccErr (List (List Nat))
  | [] => .ok []
  | (p0, n) :: rest =>
    match s.runElems c .execute 0 d w j p0 n with
    | .error e => .error e
    | .ok x =>
      match readCols s c d w j rest with
      | .error e => .error e
      | .ok xs => .ok (x :: xs)

/-- One column of one set of MMF (R61): the windows' row trees joined, promoted and added. -/
def mmfSetCol (s : State) (c : Nat) (p : Path) (h : Hdr) (ofmt col0 : Nat) (ws : List (Nat × Window)) (d : Desc) (j : Nat) :
    Except AccErr State :=
  match readCols s c d (fmtBits ofmt) j (ws.map fun w => (w.1 * (512 / h.n), 512 / h.n)) with
  | .error e => .error e
  | .ok xs =>
    let parts := (List.zip ws xs).map fun (w, x) => mmfWindowCol p h ofmt w.1 w.2 x
    let adds := (List.range (h.rowsM1 + 1)).filterMap fun r =>
      (parts.foldl (fun a ts => joinPart p.part a (ts.getD r none)) none).map fun v => (r, v)
    (s.accRead c 2 (adds.map fun x => (x.1, col0 + j))).map fun s =>
      s.putAcc c (adds.map fun x => (x.1, col0 + j, f32Add (s.getAcc c x.1 (col0 + j)) (promote p x.2)))

/-- Columns computed one after the other: the state, how many are done, and the error that stopped the rest. -/
def columnsGo (f : State → Nat → Except AccErr State) : List Nat → State → Nat → State × Nat × Option AccErr
  | [], s, n => (s, n, none)
  | j :: js, s, n =>
    match f s j with
    | .error e => (s, n, some e)
    | .ok s => columnsGo f js s (n + 1)

/-- The armed columns for this strip, if the instruction runs in predicted mode (R116). -/
def State.predFor (s : State) (c strip t : Nat) : Option (PredMap × List PredCol) :=
  match (s.core c).pred with
  | some m =>
    if m.strip0 ≤ strip ∧ m.t = t then
      match m.strips.getD (strip - m.strip0) (false, []) with
      | (true, cols) => some (m, cols)
      | (false, _) => none
    else none
  | none => none

/-- PRED_STAT shows the map that is armed (R120). -/
def State.showPred (s : State) (c : Nat) : State :=
  match (s.core c).pred with
  | some m =>
    let mask := (List.range m.strips.length).foldl (fun v k =>
      if (m.strips.getD k (false, [])).1 then v + 2 ^ k else v) 0
    s.setReg (Reg.PRED_STAT c) (BitVec.ofNat 64 ((if mask = 0 then 0 else 2 ^ 31) + mask * 2 ^ 16 + m.slots))
  | none => s.setReg (Reg.PRED_STAT c) 0

/-- A strip of the armed map is used up (R116). -/
def State.disarmStrip (s : State) (c strip : Nat) : State :=
  (s.modCore c fun k => { k with pred := k.pred.map fun m =>
    { m with strips := m.strips.mapIdx fun i e => if m.strip0 + i = strip then (false, e.2) else e } }).showPred c

/-- DEDUCED: log entry 24. -/
def State.disarmPred (s : State) (c : Nat) : State := (s.modCore c fun k => { k with pred := none }).showPred c

/-- The end of a predicted MMF (R116): rows without their compute bit become +0, audited misses are counted. -/
def predFinish (s : State) (c col0 rows actThr : Nat) (cols : List PredCol) : State :=
  let idx := rect rows col0 cols.length
  let pc (x : Nat × Nat) : PredCol := cols.getD (x.2 - col0) ⟨0, 0, false⟩
  let miss := idx.filter fun x =>
    let p := pc x
    let v := FFmt.fp32.decode (s.getAcc c x.1 x.2)
    p.computed && p.audit.getLsbD x.1 && p.compute.getLsbD x.1 && (v.isNan || (FFmt.fp32.decode actThr).lt v)
  let s := s.bump (Reg.PRED_MISS c) Fld.PRED_MISS_COUNT miss.length
  s.putAcc c ((idx.filter fun x => !(pc x).compute.getLsbD x.1).map fun x => (x.1, x.2, 0))

/-- The window sets of the array (R45): the set that streams, and the one that loads. -/
def State.streamSet (s : State) (c : Nat) (ws : List Window) : State :=
  s.modCore c fun k => { k with winRun := ws, winLoad := [] }

/-- The windows that MMF covers, those at or beyond W left out (R45, R53). -/
def mmfWins (j : Job) : List Nat :=
  let h := hdrOf (j.hdrs.headD 0)
  (windowList h (j.ptrs.getD 3 0) (bits j.body 62 39)).filter fun i => decide (i < h.windows h.n)

/-- The windows of the set that MMF works on (R46). -/
def mmfSet (s : State) (c : Nat) (j : Job) : List Nat := ((mmfWins j).drop (j.part * s.setSize c)).take (s.setSize c)

/-- The queue sectors of the set that MMF works on. -/
def mmfTakes (s : State) (c : Nat) (j : Job) : Job :=
  let w := j.body
  { j with
    got := []
    takes := (mmfSet s c j).flatMap fun _ =>
      windowTakes (bits w 38 37) (bits w 36 35) (bits w 34 33) (hdrOf (j.hdrs.headD 0)).vfmt }

/-- MMF begins (R51, R116, R160): the rectangle starts at +0, the columns take their side tag; an armed strip is used up. -/
def mmfBegin (s : State) (c : Nat) (j : Job) : State × Job :=
  let w := j.body
  let h := hdrOf (j.hdrs.headD 0)
  let t := bits w 15 8 + 1
  let col0 := bits w 23 16
  let strip := j.ptrs.getD 2 0
  let s := s.putAcc c ((rect (h.rowsM1 + 1) col0 t).map fun x => (x.1, x.2, 0))
  let s := s.modCore c fun k => { k with
    side := (List.range t).foldl (fun m i => mset m (col0 + i) (bit1 w 7)) k.side }
  match s.predFor c strip t with
  | some (m, cols) => (s.disarmStrip c strip, mmfTakes s c { j with pred := some (m.actThr, cols) })
  | none => (s, mmfTakes s c j)

/-- The output range as it stands when the instruction ends is examined (R94), by an error too. DESIGN CHOICE: log entry 108. -/
def mmfExamine (s : State) (c : Nat) (j : Job) : State :=
  let w := j.body
  s.examine c (nfArray j)
    (s.accNums c (rect ((hdrOf (j.hdrs.headD 0)).rowsM1 + 1) (bits w 23 16) (bits w 15 8 + 1)))

/-- One set of MMF, its windows taken (R50, R61). -/
def mmfPart (s : State) (c : Nat) (j : Job) : PartOut :=
  let w := j.body
  let h := hdrOf (j.hdrs.headD 0)
  let ofmt := bits w 27 24
  let p := (pathOf h.vfmt ofmt).getD .p8
  let t := bits w 15 8 + 1
  let col0 := bits w 23 16
  let ws := List.zip (mmfSet s c j) ((j.windows (windowLen h.vfmt)).map (windowOf h.vfmt))
  let s := s.streamSet c (ws.map (·.2))
  let skip (i : Nat) : Bool := match j.pred with
    | some (_, cols) => !(cols.getD i ⟨0, 0, true⟩).computed
    | none => false
  let r := columnsGo (fun s i => mmfSetCol s c p h ofmt col0 ws (j.descs.headD (descOf 0 0)) i)
    (if ws.isEmpty then [] else (List.range t).filter fun i => !skip i) s 0
  let en := ws.map fun x => enabledSlots h h.n x.1 x.2.codes
  let cyc := match p with
    | .p8 => r.2.1
    | .pb4 => (r.2.1 + 1) / 2
    | .p16 => 4 * r.2.1
  let s := r.1.arrayWork c (cyc * (en.filter (0 < ·)).length) (r.2.1 * en.sum)
  match r.2.2 with
  | some e => partErr (if e.asks then s else mmfExamine s c j) j e
  | none =>
    let s := if ws.isEmpty then s else s.setDone c
    let j := mmfTakes s c { j with part := j.part + 1 }
    if !(mmfSet s c j).isEmpty then ⟨s, j, [], none⟩
    else
      let s := match j.pred with
        | some (thr, cols) => predFinish s c col0 (h.rowsM1 + 1) thr cols
        | none => s
      partEnd (mmfExamine s c j) j

/-! MMT (R54–R56). -/

def mmtIssue (s : State) (c : Nat) (w : Body) : Except AccErr Job :=
  let adj := s.cntAdj c .execute
  let t := bits w 15 8 + 1
  match readSet s c (bits w 121 117) true with
  | .error e => .error e
  | .ok d =>
    match stripField d (bits w 113 90) (adj (bits w 116 114)) (bits w 86 63) with
    | .error e => .error e
    | .ok st =>
      match winField .execute (bits w 62 39) (adj (bits w 89 87)) with
      | .error e => .error e
      | .ok win =>
        let g := s.desc c .execute (bits w 32 28) (bits w 7 5)
        match checkOperand s c g t with
        | .error e => .error e
        | .ok () =>
          .ok { Job.mk0 0x21 w with
            descs := [g], ptrs := [d.hdr, d.exp, st, win]
            reads := [sectorSpan (s.ptrAddr c .execute (bits w 121 117)) 2,
              sectorSpan (d.hdrAddr st) (bits w 86 63 + 1), g.span]
            writes := [accSpan (bits w 23 16) 255]
            queues := [bits w 38 37, bits w 36 35, bits w 34 33] }

/-- The header of a strip of MMT, its own format checked against OFMT (R55, R72). -/
def mmtHdr (s : State) (c : Nat) (j : Job) (i : Nat) : Except AccErr Sector :=
  match readHdr s c 0 (hdrSet (j.ptrs.getD 0 0) (j.ptrs.getD 1 0)) (j.ptrs.getD 2 0 + i) with
  | .error e => .error e
  | .ok x => if (pathOf (hdrOf x).vfmt (bits j.body 27 24)).isNone then .error (arrErr 1 0x02) else .ok x

/-- The first header is read before the columns are claimed, and narrows the claim (R55, R69). -/
def mmtPlan (s : State) (c : Nat) (j : Job) : Except AccErr Job :=
  match mmtHdr s c j 0 with
  | .error e => .error e
  | .ok x =>
    let col0 := bits j.body 23 16
    let cols := 16 / (hdrOf x).n * (bits j.body 15 8 + 1)
    if 256 < col0 + cols then .error (arrErr 1 0x03)
    else .ok { j with hdrs := [x], writes := [accSpan col0 (col0 + cols - 1)] }

/-- The column trees of one strip for one column: one partial per output position (R54, R42 for repeated codes). -/
def mmtStripCol (p : Path) (h : Hdr) (n vfmt ofmt w : Nat) (wd : Window) (gs : List Nat) : List (Option Nat) :=
  (List.range (512 / n)).map fun pos =>
    tree p.part 5 ((List.range 32).map fun r =>
      (List.range n).foldl (fun a k =>
        let t := pos / 16 * n + k
        let i := r * 32 + t
        let code := wd.codes.getD i 0
        if code = pos % 16 ∧ (slotPos h n w r t code).isSome then
          joinPart p.part a (some (slotProduct p vfmt ofmt (wd.exps.getD r 0) (wd.vals.getD i 0) (gs.getD r 0)))
        else a) none)

/-- Accumulator row and column of output position `pos`, column `j` (R55). -/
def mmtPlace (col0 t pos j : Nat) : Nat × Nat := (pos % 32, col0 + pos / 32 * t + j)

/-- One set of strips for one column: each position's partial, promoted and added (R62). -/
def mmtSetCol (s : State) (c : Nat) (p : Path) (n vfmt ofmt w col0 t : Nat) (d : Desc)
    (set : List (Nat × Hdr × Window)) (j : Nat) : Except AccErr State :=
  match readCols s c d (fmtBits ofmt) j (set.map fun x => (32 * x.1, 32)) with
  | .error e => .error e
  | .ok gs =>
    let parts := (List.zip set gs).map fun (x, g) => mmtStripCol p x.2.1 n vfmt ofmt w x.2.2 g
    let xs := (List.range (512 / n)).filterMap fun pos =>
      (parts.foldl (fun a ts => joinPart p.part a (ts.getD pos none)) none).map fun v => (pos, v)
    (s.accRead c 2 (xs.map fun x => mmtPlace col0 t x.1 j)).map fun s =>
      s.putAcc c (xs.map fun x =>
        let pl := mmtPlace col0 t x.1 j
        (pl.1, pl.2, f32Add (s.getAcc c pl.1 pl.2) (promote p x.2)))

/-- The queue sectors of the strip whose header MMT read last: none where its named window lies at or beyond W. -/
def mmtTakes (j : Job) : Job :=
  let w := j.body
  let h := hdrOf (j.hdrs.headD 0)
  let hk := hdrOf (j.hdrs.getLastD 0)
  { j with takes := if j.ptrs.getD 3 0 < hk.windows h.n then
      windowTakes (bits w 38 37) (bits w 36 35) (bits w 34 33) h.vfmt else [] }

/-- MMT begins (R55, R160): its columns are claimed, and take their side tag. -/
def mmtBegin (s : State) (c : Nat) (j : Job) : State × Job :=
  let col0 := bits j.body 23 16
  let cols := 16 / (hdrOf (j.hdrs.headD 0)).n * (bits j.body 15 8 + 1)
  (s.modCore c fun k => { k with side := (List.range cols).foldl (fun m i => mset m (col0 + i) false) k.side }, mmtTakes j)

def mmtExamine (s : State) (c : Nat) (j : Job) : State :=
  s.examine c (nfArray j)
    (s.accNums c (rect 32 (bits j.body 23 16) (16 / (hdrOf (j.hdrs.headD 0)).n * (bits j.body 15 8 + 1))))

/-- The set of strips that MMT has loaded, up to strip `upTo`, is added (R46, R54, R62). -/
def mmtSet (s : State) (c : Nat) (j : Job) (upTo : Nat) : State × Option AccErr :=
  let w := j.body
  let h := hdrOf (j.hdrs.headD 0)
  let ofmt := bits w 27 24
  let p := (pathOf h.vfmt ofmt).getD .p8
  let t := bits w 15 8 + 1
  let win := j.ptrs.getD 3 0
  let hs := j.hdrs.map hdrOf
  let k0 := (upTo - 1) / s.setSize c * s.setSize c
  let idx := (List.range upTo).filter fun i => decide (k0 ≤ i) && decide (win < (hs.getD i h).windows h.n)
  let set := (List.zip idx ((j.windows (windowLen h.vfmt)).map (windowOf h.vfmt))).map fun x =>
    (j.ptrs.getD 2 0 + x.1, hs.getD x.1 h, x.2)
  let s := s.streamSet c (set.map (·.2.2))
  let r := columnsGo (fun s i => mmtSetCol s c p h.n h.vfmt ofmt win (bits w 23 16) t (j.descs.headD (descOf 0 0)) set i)
    (if set.isEmpty then [] else List.range t) s 0
  let en := set.map fun x => enabledSlots x.2.1 h.n win x.2.2.codes
  let subs := max 1 (8 / h.n)
  -- cycles in which a slot of the sub-slice is enabled
  let actSub := set.map fun x => ((List.range subs).filter fun b =>
    (List.range 1024).any fun i => (i % 32) / h.n / 4 % subs == b
      && (slotPos x.2.1 h.n win (i / 32) (i % 32) (x.2.2.codes.getD i 0)).isSome).length
  let cyc := match p with
    | .p8 => r.2.1
    | .pb4 => (r.2.1 + 1) / 2
    | .p16 => 4 * r.2.1
  let s := r.1.arrayWork c (cyc * actSub.sum) (r.2.1 * en.sum)
  match r.2.2 with
  | some e => (s, some e)
  | none => (s.setDone c, none)

/-- MMT goes on (R31, R55): the header of its next strip as that strip begins; with a strip loaded that ends its set, the set
is added. A header that fails ends the instruction once the strips before it are added (R72). -/
def mmtPart (s : State) (c : Nat) (j : Job) : PartOut :=
  let n := bits j.body 86 63 + 1
  let sz := s.setSize c
  let stop (s : State) (e : AccErr) : PartOut := partErr (if e.asks then s else mmtExamine s c j) j e
  match j.fail with
  | some f =>
    match mmtSet s c j j.part with
    | (s, some e) => stop s e
    | (s, none) => stop s ⟨f.1, f.2, none⟩
  | none =>
    if j.hdrs.length = j.part then
      match mmtHdr s c j j.part with
      | .ok x => ⟨s, mmtTakes { j with hdrs := j.hdrs ++ [x] }, [], none⟩
      | .error e =>
        if e.asks ∨ j.part % sz = 0 then stop s e
        else ⟨s.noteAny c e, { j with fail := some (e.code, e.detail) }, [], none⟩
    else
      let k := j.part + 1
      let next (s : State) (j : Job) : PartOut :=
        if k = n then partEnd (mmtExamine s c j) j else ⟨s, { j with part := k }, [], none⟩
      if k % sz = 0 ∨ k = n then
        match mmtSet s c j k with
        | (s, some e) => stop s e
        | (s, none) => next s { j with got := [] }
      else next s j

/-! MMO (R57–R59). -/

/-- Dense formats of MMO: both 8-bit or both 16-bit (R47). -/
def mmoPair (x g : Nat) : Bool := (x ≤ 1 && g ≤ 1) || (2 ≤ x && 2 ≤ g)

/-- Bytes of one window of MMO's gradient stream (R58). -/
def mmoBytes (w : Body) : Nat := if bits w 2 0 = 4 then 4096 else 2048

/-- DESIGN CHOICE: log entry 108. -/
def mmoIssue (s : State) (c : Nat) (w : Body) : Except AccErr Job :=
  let adj := s.cntAdj c .execute
  let t := bits w 25 10 + 1
  let dfmt := bits w 2 0
  match readSet s c (bits w 121 117) false with
  | .error e => .error e
  | .ok d =>
    match s.checkPtr c .execute (bits w 7 3) with
    | .error e => .error e
    | .ok dbase =>
      match stripField d (bits w 113 90) (adj (bits w 116 114)) 0 with
      | .error e => .error e
      | .ok st =>
        if !mmoPair (bits w 34 33) (bits w 27 26) || !(dfmt == 2 || dfmt == 4) then .error (arrErr 1 0x02) else
          let x := s.desc c .execute (bits w 39 35) 0
          let g := s.desc c .execute (bits w 32 28) 0
          match checkOperand s c x t with
          | .error e => .error e
          | .ok () =>
            match checkOperand s c g t with
            | .error e => .error e
            | .ok () =>
              let h := hdrOf (s.rdAt (d.hdrAddr st))
              let wb := mmoBytes w
              let ws := windowList h (bits w 89 66) (bits w 65 42)
              .ok { Job.mk0 0x22 w with
                descs := [x, g], ptrs := [d.hdr, d.exp, st, bits w 89 66, dbase]
                reads := [sectorSpan (s.ptrAddr c .execute (bits w 121 117)) 2, sectorSpan (d.hdrAddr st) 1, x.span,
                  g.span]
                writes := if bit1 w 8 then [byteSpan (dbase + (h.winBase + ws.headD 0) * wb) (max 1 ws.length * wb)] else []
                queues := [bits w 41 40] }

/-- DESIGN CHOICE: log entry 108. -/
def mmoPlan (s : State) (c : Nat) (j : Job) : Except AccErr Job :=
  match readHdr s c 0 (hdrSet (j.ptrs.getD 0 0) (j.ptrs.getD 1 0)) (j.ptrs.getD 2 0) with
  | .error e => .error e
  | .ok x =>
    if !bit1 j.body 8 && 1 < (windowList (hdrOf x) (j.ptrs.getD 3 0) (bits j.body 65 42)).length then .error (arrErr 1 0x04)
    else .ok { j with hdrs := [x] }

/-- One column of an MMO window added into the slot accumulators: patterns of x and g (R57, R63).
DESIGN CHOICE: log entry 108. -/
def mmoColumn (h : Hdr) (xf gf w : Nat) (codes : List Nat) (slots : List Nat) (xs gs : List Nat) : List Nat :=
  (List.range 1024).map fun i =>
    let a := slots.getD i 0
    match slotPos h h.n w (i / 32) (i % 32) (codes.getD i 0) with
    | some pos =>
      -- the product is formed exactly, or rounded to fp32 on the 16-bit path (R49), and added rounding to fp32
      let prod := FFmt.fp32.round (.mul (fmtNum gf 0 (gs.getD (i / 32) 0)) (fmtNum xf 0 (xs.getD (pos - w * (512 / h.n)) 0)))
      f32Add a prod
    | none => a

/-- The columns of an MMO window: the slots, how many columns are in them, and the error that stopped the rest. -/
def mmoCols (s : State) (c : Nat) (h : Hdr) (xf gf st w : Nat) (x g : Desc) (codes : List Nat) :
    List Nat → List Nat → Nat → List Nat × Nat × Option AccErr
  | [], slots, n => (slots, n, none)
  | j :: js, slots, n =>
    match s.runElems c .execute 0 x (fmtBits xf) j (w * (512 / h.n)) (512 / h.n) with
    | .error e => (slots, n, some e)
    | .ok xs =>
      match s.runElems c .execute 0 g (fmtBits gf) j (32 * st) 32 with
      | .error e => (slots, n, some e)
      | .ok gs => mmoCols s c h xf gf st w x g codes js (mmoColumn h xf gf w codes slots xs gs) (n + 1)

/-- The write-out of one window (R28, R58): sectors in ascending address. -/
def mmoWrites (base wb dfmt : Nat) (es : List Nat) : List (Nat × Sector × Word32) :=
  let ds := bitsSectors (wb / 32) (packBits (fmtBits dfmt) es)
  ds.mapIdx fun k d => (base + 32 * k, d, beAll)

/-- The windows that MMO covers, those at or beyond W left out. -/
def mmoWins (j : Job) : List Nat :=
  let h := hdrOf (j.hdrs.headD 0)
  (windowList h (j.ptrs.getD 3 0) (bits j.body 65 42)).filter fun i => decide (i < h.windows h.n)

/-- Words of a protected file of the array back to right ones. -/
def Core.accRight (k : Core) (p : Nat → Bool) : Core :=
  { k with accUe := k.accUe.filter fun u => !p u, accWeak := k.accWeak.filter fun u => !p u }

/-- MMO's next window begins (R57): with ACCI = 1 every slot accumulator is +0. -/
def mmoWindowBegin (s : State) (c : Nat) (j : Job) : State × Job :=
  if j.part < (mmoWins j).length then
    (if bit1 j.body 9 then s.modCore c fun k => { k.accRight (· / 2 ^ 20 == 1) with slots := [] } else s,
      { j with got := [], takes := [(bits j.body 41 40, 16)] })
  else (s, { j with got := [], takes := [] })

/-- A window accumulated (R57, R63). -/
def mmoAccumulate (s : State) (c : Nat) (j : Job) (h : Hdr) (w : Nat) : PartOut :=
  let b := j.body
  let xf := bits b 34 33
  let wd := codeWindow j.got.reverse
  let k := s.core c
  let init := (List.range 1024).map fun i => (mget k.slots 0 i).toNat
  let present (i : Nat) : Bool := (slotPos h h.n w (i / 32) (i % 32) (wd.codes.getD i 0)).isSome
  let s := s.streamSet c [wd]
  match (List.range 1024).find? fun i => present i && k.accUe.contains (accUeKey 1 i) with
  | some i => partErr s j ⟨0x2085, 0, some (⟨.spad, accUeKey 1 i, 0⟩, 99)⟩
  | none =>
    let s := s.accCorrects c
      ((List.range 1024).filter fun i => present i && k.accWeak.contains (accUeKey 1 i)).length
    let r := mmoCols s c h xf (bits b 27 26) (j.ptrs.getD 2 0) w (j.descs.getD 0 (descOf 0 0)) (j.descs.getD 1 (descOf 0 0))
      wd.codes (List.range (bits b 25 10 + 1)) init 0
    let s := s.modCore c fun k =>
      { (if r.2.1 = 0 then k else k.accRight fun u => u / 2 ^ 20 == 1 && present (u % 2 ^ 20)) with
        slots := ((List.range 1024).zip r.1).map fun (i, v) => (i, BitVec.ofNat 32 v) }
    let en := ((List.range 1024).filter present).length
    let cyc := if xf ≤ 1 then r.2.1 else 4 * r.2.1
    let s := s.arrayWork c (if en = 0 then 0 else cyc) (en * r.2.1)
    match r.2.2 with
    | some e => partErr s j e
    | none =>
      let s := (s.examine c ⟨1, 0, j.bank, j.index⟩ (r.1.map FFmt.fp32.decode)).setDone c
      if !bit1 b 8 then
        let n := mmoWindowBegin s c { j with part := j.part + 1 }
        ⟨n.1, n.2, [], none⟩
      else
        let src := (List.range 1024).map fun i => if present i then r.1.getD i 0 else 0
        let s := s.modCore c fun k => { k.accRight (· / 2 ^ 20 == 2) with
          wout := ((List.range 1024).zip src).map fun (i, v) => (i, BitVec.ofNat 32 v) }
        ⟨s, { j with drain := true }, [], none⟩

/-- The write-out buffer drained (R58, R68): every slot in order, absent slots as +0. -/
def mmoDrain (s : State) (c : Nat) (j : Job) (h : Hdr) (w : Nat) : PartOut :=
  let b := j.body
  let dfmt := bits b 2 0
  let wb := mmoBytes b
  let k := s.core c
  match (List.range 1024).find? fun i => k.accUe.contains (accUeKey 2 i) with
  | some i => partErr s j ⟨0x2085, 0, some (⟨.spad, accUeKey 2 i, 0⟩, 99)⟩
  | none =>
    let s := s.accCorrects c ((List.range 1024).filter fun i => k.accWeak.contains (accUeKey 2 i)).length
    let src := (List.range 1024).map fun i => (mget k.wout 0 i).toNat
    let es := src.map fun v => fmtRound dfmt (FFmt.fp32.decode v)
    let s := s.examine c ⟨1, 0, j.bank, j.index⟩ (convExamined 4 dfmt 0 0 src es)
    let s := s.addGnorm c (es.map fun e => FFmt.fp32.round (fmtNum dfmt 0 e))
    match s.writeAll c .execute 3 (mmoWrites (j.ptrs.getD 4 0 + (h.winBase + w) * wb) wb dfmt es) with
    | (s, some e) => partErr s j e
    | (s, none) =>
      let n := mmoWindowBegin s c { j with part := j.part + 1, drain := false }
      ⟨n.1, n.2, [], none⟩

/-- One window of MMO, or the draining of its write-out buffer. -/
def mmoPart (s : State) (c : Nat) (j : Job) : PartOut :=
  let h := hdrOf (j.hdrs.headD 0)
  match (mmoWins j)[j.part]? with
  | none => partEnd s j
  | some w => if j.drain then mmoDrain s c j h w else mmoAccumulate s c j h w

/-! ACLR (R70). -/

def aclrIssue (_s : State) (_c : Nat) (w : Body) : Except AccErr Job :=
  if bit1 w 121 then .ok (Job.mk0 0x26 w)
  else if 255 < bits w 120 113 + bits w 112 105 then .error (arrErr 1 0x03)
  else .ok { Job.mk0 0x26 w with writes := [accSpan (bits w 120 113) (bits w 120 113 + bits w 112 105)] }

def aclrCompute (s : State) (c : Nat) (j : Job) : Done :=
  let w := j.body
  if bit1 w 121 then
    (s.modCore c fun k => { k.accRight (· / 2 ^ 20 == 1) with slots := [] }, none)
  else
    let col0 := bits w 120 113
    let n := bits w 112 105 + 1
    let inside (u : Nat) : Bool := col0 ≤ u % 256 && u % 256 < col0 + n
    (s.modCore c fun k => { k.accRight (fun u => decide (u < 2 ^ 20) && inside u) with
      acc := k.acc.filter fun e => !inside e.1
      side := (List.range n).foldl (fun m i => mset m (col0 + i) false) k.side }, none)

end Sys2Proof.Machine
end

