-- ==== Sys2Proof/Machine/Mask.lean ====
section
/-! DEFINITION. Mask evolution: SCAN (R96–R100), PRR (R101–R107), PRED (R113–R118) and the output compressor CMPR
(R108–R112), which STA's compression stage shares (R165). -/

namespace Sys2Proof.Machine

open Sys2Proof

/-! Bytes at any address, sector by sector. -/

/-- `n` bytes from address `a`, as a number. -/
def State.readMem (s : State) (c : Nat) (src a n : Nat) : Except AccErr Nat :=
  if n = 0 then .ok 0
  else
    let a0 := a / 32 * 32
    match s.readBytes c .execute src a0 ((a + n - a0 + 31) / 32) with
    | .error e => .error e
    | .ok ds => .ok (sectorsBits ds / 2 ^ (8 * (a - a0)) % 2 ^ (8 * n))

/-- The sector writes of `n` bytes of `v` from address `a`, with byte enables at both ends. -/
def byteWrites (a n v : Nat) : List (Nat × Sector × Word32) :=
  let a0 := a / 32 * 32
  let sh := a - a0
  let be := (2 ^ n - 1) * 2 ^ sh
  let x := v % 2 ^ (8 * n) * 2 ^ (8 * sh)
  (List.range ((sh + n + 31) / 32)).map fun k =>
    (a0 + 32 * k, BitVec.ofNat 256 (x / 2 ^ (256 * k)), BitVec.ofNat 32 (be / 2 ^ (32 * k)))

/-! SCAN. -/

def scanIssue (s : State) (c : Nat) (w : Body) : Except AccErr Job :=
  let t := bits w 28 13 + 1
  match readSet s c (bits w 121 117) false with
  | .error e => .error e
  | .ok d =>
    match s.checkPtr c .execute (bits w 12 8) with
    | .error e => .error e
    | .ok cbase =>
      match (if bit1 w 5 then s.checkPtr c .execute (bits w 12 8 ^^^ 1) else .ok 0) with
      | .error e => .error e
      | .ok tkbase =>
        match stripField d (bits w 116 93) 0 0 with
        | .error e => .error e
        | .ok st =>
          if 1 < bits w 37 36 ∨ 1 < bits w 30 29 then .error (arrErr 1 0x02)
          else if bit1 w 5 ∧ (bits w 4 0 = 0 ∨ 16 < bits w 4 0) then .error (arrErr 1 0x06)
          else
            let x := s.desc c .execute (bits w 42 38) 0
            let g := s.desc c .execute (bits w 35 31) 0
            match checkOperand s c x t with
            | .error e => .error e
            | .ok () =>
              match checkOperand s c g t with
              | .error e => .error e
              | .ok () =>
                let h := hdrOf (s.rdAt (d.hdrAddr st))
                let wb := 4096 * 2 ^ bits w 7 6 / h.n
                let ws := windowList h (bits w 92 69) (bits w 68 45)
                .ok { Job.mk0 0x23 w with
                  descs := [x, g], ptrs := [d.hdr, d.exp, st, bits w 92 69, cbase, tkbase]
                  reads := [sectorSpan (s.ptrAddr c .execute (bits w 121 117)) 2, sectorSpan (d.hdrAddr st) 1, x.span,
                    g.span]
                  writes := [byteSpan (cbase + (h.winBase + ws.headD 0) * wb) (max 1 ws.length * wb)]
                    ++ (if bit1 w 5 then [sectorSpan tkbase 3] else [])
                  queues := [bits w 44 43] }

/-- DESIGN CHOICE: log entry 108. -/
def scanPlan (s : State) (c : Nat) (j : Job) : Except AccErr Job :=
  let w := j.body
  match readHdr s c 0 (hdrSet (j.ptrs.getD 0 0) (j.ptrs.getD 1 0)) (j.ptrs.getD 2 0) with
  | .error e => .error e
  | .ok x =>
    let h := hdrOf x
    let ws := windowList h (j.ptrs.getD 3 0) (bits w 68 45)
    if bit1 w 5 ∧ 2 ^ 27 < ws.length * (512 / h.n) then .error (arrErr 1 0x06)
    else .ok { j with hdrs := [x] }

/-- The codes stored in a group of a row of a window. -/
def groupCodes (n : Nat) (codes : List Nat) (r q : Nat) : List Nat :=
  (List.range n).map fun k => codes.getD (r * 32 + q * n + k) 0

/-- Whether window-relative position `p` of row `r` is unstored and eligible (R96). -/
def scanPresent (h : Hdr) (w : Nat) (codes : List Nat) (r p : Nat) : Bool :=
  decide (r ≤ h.rowsM1) && decide (w * (512 / h.n) + p < h.klen) && !(groupCodes h.n codes r (p / 16)).contains (p % 16)

/-- Gradients of every (row, position) of a window, added column by column. -/
def scanCols (s : State) (c : Nat) (h : Hdr) (xf gf st w : Nat) (x g : Desc) :
    List Nat → List Nat → Except AccErr (List Nat)
  | [], acc => .ok acc
  | j :: js, acc =>
    let per := 512 / h.n
    match s.runElems c .execute 0 x (fmtBits xf) j (w * per) per with
    | .error e => .error e
    | .ok xs =>
      match s.runElems c .execute 0 g (fmtBits gf) j (32 * st) 32 with
      | .error e => .error e
      | .ok gs =>
        scanCols s c h xf gf st w x g js ((List.range (32 * per)).map fun i =>
          f32Add (acc.getD i 0)
            (FFmt.fp32.round (.mul (fmtNum gf 0 (gs.getD (i / per) 0)) (fmtNum xf 0 (xs.getD (i % per) 0)))))

/-- Insertion by a strict order, stable for equals. -/
def insertBy {α : Type} (lt : α → α → Bool) (x : α) : List α → List α
  | [] => [x]
  | y :: ys => if lt x y then x :: y :: ys else y :: insertBy lt x ys

/-- A stable sort: equal elements keep their order. -/
def sortBy {α : Type} (lt : α → α → Bool) (l : List α) : List α := l.foldl (fun acc x => insertBy lt x acc) []

/-- Highest rank first under the magnitude key, earlier elements first among equals (R93). -/
def rankMag (l : List (Nat × Nat)) : List (Nat × Nat) :=
  sortBy (fun a b => decide (rankKey true (FFmt.fp32.decode b.2) < rankKey true (FFmt.fp32.decode a.2))) l

/-- The candidate records of one group: codes with their fp32 gradients, ranked (R97). -/
def candRecords (ck : Nat) (cands : List (Nat × Nat)) : List Nat :=
  let top := (rankMag cands).take ck
  top.map (fun x => FFmt.bf16.round (FFmt.fp32.decode x.2) * 2 ^ 16 + 16 + x.1) ++ List.replicate (ck - top.length) 0

/-- One window of SCAN: the candidate buffer's bytes and the candidates passed to the top-k unit, as (index, fp32).
DEDUCED: log entry 25. -/
def scanWindow (h : Hdr) (w w0 ck : Nat) (codes grads : List Nat) : Nat × List (Nat × Nat) :=
  let per := 512 / h.n
  let ng := 32 / h.n
  let recs := (List.range 32).flatMap fun r => (List.range ng).flatMap fun q =>
    candRecords ck (if h.n = 16 then [] else (List.range 16).filterMap fun k =>
      if scanPresent h w codes r (16 * q + k) then some (k, grads.getD (r * per + 16 * q + k) 0) else none)
  let passes := if h.n = 16 then [] else (List.range (16 / h.n)).flatMap fun p => (List.range 32).flatMap fun r =>
    (List.range 32).filterMap fun t =>
      if scanPresent h w codes r (32 * p + t) then
        some (r * 2 ^ 27 + ((w - w0) * per + 32 * p + t), grads.getD (r * per + 32 * p + t) 0)
      else none
  (packBits 32 recs, passes)

/-- The windows that SCAN covers, those at or beyond W left out. -/
def scanWins (j : Job) : List Nat :=
  let h := hdrOf (j.hdrs.headD 0)
  (windowList h (j.ptrs.getD 3 0) (bits j.body 68 45)).filter fun i => decide (i < h.windows h.n)

/-- The codes of SCAN's next window. -/
def scanTakes (j : Job) : Job :=
  { j with got := [], takes := if j.part < (scanWins j).length then [(bits j.body 44 43, 16)] else [] }

/-- The top-k output of a SCAN that has passed its last window (R99). -/
def scanEnd (s : State) (c : Nat) (j : Job) : PartOut :=
  let b := j.body
  if bit1 b 5 then
    let k := bits b 4 0
    let top := (rankMag j.cands).take k
    let vals := top.map (fun x => FFmt.bf16.round (FFmt.fp32.decode x.2)) ++ List.replicate (k - top.length) 0
    let idxs := top.map (·.1) ++ List.replicate (k - top.length) 0xFFFF_FFFF
    Done.part (s.writeAll c .execute 3
      (byteWrites (j.ptrs.getD 5 0) (6 * k) (packBits 16 vals + 2 ^ (16 * k) * packBits 32 idxs))) j
  else partEnd s j

/-- One window of SCAN (R96–R99): its candidate records written, its candidates passed on. -/
def scanPart (s : State) (c : Nat) (j : Job) : PartOut :=
  let h := hdrOf (j.hdrs.headD 0)
  match (scanWins j)[j.part]? with
  | none => scanEnd s c j
  | some w =>
    let b := j.body
    let wd := codeWindow j.got.reverse
    let t := bits b 28 13 + 1
    let ck := 2 ^ bits b 7 6
    let per := 512 / h.n
    let x := j.descs.getD 0 (descOf 0 0)
    let g := j.descs.getD 1 (descOf 0 0)
    let s := s.streamSet c [wd]
    match (if h.n = 16 then .ok [] else
        scanCols s c h (bits b 37 36) (bits b 30 29) (j.ptrs.getD 2 0) w x g (List.range t) (List.replicate (32 * per) 0)) with
    | .error e => partErr s j e
    | .ok grads =>
      let r := scanWindow h w (j.ptrs.getD 3 0) ck wd.codes grads
      let wb := 4096 * ck / h.n
      let s := s.arrayWork c (t * ((List.range (16 / h.n)).filter fun p =>
          h.n ≠ 16 && (List.range 1024).any fun i => scanPresent h w wd.codes (i / 32) (32 * p + i % 32)).length)
        (t * r.2.length)
      match s.writeAll c .execute 3 (byteWrites (j.ptrs.getD 4 0 + (h.winBase + w) * wb) wb r.1) with
      | (s, some e) => partErr s j e
      | (s, none) => ⟨s.setDone c, scanTakes { j with part := j.part + 1, cands := j.cands ++ r.2 }, [], none⟩

/-! The streams of a strip set, for PRR and CMPR. -/

/-- One stored entry: code, value pattern, the patterns of the present optimizer streams. -/
structure Entry where
  code : Nat
  val : Nat
  opts : List Nat
  deriving DecidableEq, Repr

/-- Value bits per entry by VFMT (R27). -/
def valBits (vfmt : Nat) : Nat := fmtBits vfmt
/-- Bytes of values per window. -/
def valBytes (vfmt : Nat) : Nat := 1024 * valBits vfmt / 8
def optBits (d : SetDesc) (i : Nat) : Nat := if i = 0 then 32 else fmtBits (d.optFmt.getD i 0)

/-- The writes of one window of every stream (R27, R28): 1,024 entries, row exponents for b4; `opts`: write the present
optimizer streams. -/
def windowWrites (d : SetDesc) (vfmt ordinal : Nat) (es : List Entry) (exps : List Nat) (opts : Bool) :
    List (Nat × Sector × Word32) :=
  byteWrites (d.code + ordinal * 512) 512 (packBits 4 (es.map (·.code)))
    ++ byteWrites (d.val + ordinal * valBytes vfmt) (valBytes vfmt) (packBits (valBits vfmt) (es.map (·.val)))
    ++ (if vfmt = 5 then byteWrites (d.exp + ordinal * 32) 32 (packBits 8 exps) else [])
    ++ (if opts then (List.range (min 3 d.nopt)).flatMap fun i =>
          let n := 1024 * optBits d i / 8
          byteWrites (d.opt.getD i 0 + ordinal * n) n (packBits (optBits d i) (es.map fun e => e.opts.getD i 0))
        else [])

/-- Spans of the streams' windows from an ordinal on, for R122. -/
def streamSpans (d : SetDesc) (vfmt ordinal n : Nat) (opts : Bool) : List Span :=
  let sp (base wb : Nat) : Span := ⟨base + ordinal * wb, base + (ordinal + max n 1) * wb - 1⟩
  [sp d.code 512, sp d.val (valBytes vfmt)] ++ (if vfmt = 5 then [sp d.exp 32] else [])
    ++ (if opts then (List.range (min 3 d.nopt)).map fun i => sp (d.opt.getD i 0) (1024 * optBits d i / 8) else [])

/-! PRR. -/

/-- The PRR parameter block (R101). -/
structure PrrParam where
  ratio : Nat
  initVal : Nat
  tbase : Nat
  cbase : Nat
  ckLog2 : Nat
  thrEn : Bool
  initMode : Bool
  altBit : Nat
  deriving DecidableEq, Repr

def prrParamOf (n : Nat) : PrrParam :=
  let f (w hi lo : Nat) : Nat := n / 2 ^ (64 * w + lo) % 2 ^ (hi - lo + 1)
  { ratio := f 0 31 0, initVal := f 0 63 32, tbase := f 1 63 0, cbase := f 2 63 0, ckLog2 := f 3 13 12
    thrEn := f 3 9 9 == 1, initMode := f 3 8 8 == 1, altBit := f 3 5 0 }

/-- A finite fp32 of at least zero. -/
def nonNegFinite (b : Nat) : Bool :=
  let x := FFmt.fp32.decode b
  x.isFinite && !(x.lt (.fin false 0 0))

def prrParamOk (n : Nat) : Bool :=
  let f (w hi lo : Nat) : Nat := n / 2 ^ (64 * w + lo) % 2 ^ (hi - lo + 1)
  let p := prrParamOf n
  decide (p.altBit ≤ 39) && nonNegFinite p.ratio && f 3 63 16 == 0 && f 3 15 14 == 0 && f 3 11 10 == 0 && f 3 7 6 == 0

/-- WIN_BASE with one bit inverted (R104). -/
def altBase (wb bit : Nat) : Nat := wb ^^^ 2 ^ bit

/-- Checks of PRR at issue: ptrs hold the set's bits, the parameter block, the first strip. -/
def prrIssue (s : State) (c : Nat) (w : Body) : Except AccErr Job :=
  match loadSet s c 3 (bits w 121 117) with
  | .error e => .error e
  | .ok sn =>
    let d := setOfBits sn
    match d.check true true with
    | .error e => .error e
    | .ok () =>
      match s.checkPtr c .execute (bits w 65 61) with
      | .error e => .error e
      | .ok prm =>
        match stripField d (bits w 113 90) (s.cntAdj c .execute (bits w 116 114)) (bits w 89 66) with
        | .error e => .error e
        | .ok st =>
          match s.readMem c 3 prm 32 with
          | .error e => .error e
          | .ok n =>
            if !prrParamOk n then .error (arrErr 1 0x07) else
              let p := prrParamOf n
              let strips := (List.range (bits w 89 66 + 1)).map fun i => st + i
              let hs := strips.map fun i => hdrOf (s.rdAt (d.hdrAddr i))
              .ok { Job.mk0 0x24 w with
                ptrs := [sn, n, st]
                reads := [sectorSpan (s.ptrAddr c .execute (bits w 121 117)) 2, sectorSpan prm 1,
                    byteSpan (p.tbase + 8 * st) (8 * strips.length)]
                  ++ hs.flatMap fun h =>
                    let cb := 4096 * 2 ^ p.ckLog2 / h.n
                    byteSpan (p.cbase + h.winBase * cb) (max 1 (h.windows h.n) * cb)
                      :: streamSpans d h.vfmt h.winBase (h.windows h.n) true
                writes := sectorSpan (d.hdrAddr st) strips.length
                  :: hs.flatMap fun h => streamSpans d h.vfmt (altBase h.winBase p.altBit) (h.windows h.n) true }

/-- What one group's selection decides (R102): entries kept, codes regrown, and the counts of stale and NaN candidates. -/
structure GroupSel where
  pruned : List Nat
  regrown : List Nat
  stale : Nat
  nan : Nat
  deriving DecidableEq, Repr

/-- The swap loop of R102 over paired weakest entries and best candidates: (slot, |w|) and (code, |g|), fp32. -/
def prrLoop (p : PrrParam) (wmax gmin : Nat) : List ((Nat × Nat) × (Nat × Nat)) → GroupSel → GroupSel
  | [], sel => sel
  | ((slot, wv), (code, gv)) :: rest, sel =>
    let w := FFmt.fp32.decode wv
    let g := FFmt.fp32.decode gv
    let le (a b : Num) : Bool := a.lt b || a.eqv b
    let thr := !p.thrEn || (le w (FFmt.fp32.decode wmax) && le (FFmt.fp32.decode gmin) g)
    let test := (FFmt.fp32.decode (FFmt.fp32.round (.mul (FFmt.fp32.decode p.ratio) w))).lt g
    if thr && test then
      prrLoop p wmax gmin rest { sel with pruned := slot :: sel.pruned, regrown := code :: sel.regrown }
    else if g.isNan then { sel with nan := 1 } else sel

/-- Selection in one group (R102): stored entries as (code, |w| fp32) by slot, candidate records in buffer order.
DEDUCED: log entry 25. -/
def prrSelect (p : PrrParam) (wmax gmin sLim klen group : Nat) (stored : List (Nat × Nat)) (recs : List Nat) : GroupSel :=
  let codes := stored.map (·.1)
  let slots := (List.range stored.length).map fun i => (i, (stored.getD i (0, 0)).1, (stored.getD i (0, 0)).2)
  let order := sortBy (fun (a b : Nat × Nat × Nat) =>
    let ka := rankKey true (FFmt.fp32.decode a.2.2)
    let kb := rankKey true (FFmt.fp32.decode b.2.2)
    decide (ka < kb) || (decide (ka = kb) && decide (a.2.1 < b.2.1))) slots
  let valid := recs.filter fun x => x / 16 % 2 == 1
  let cands := valid.filter fun x => !codes.contains (x % 16) && decide (16 * group + x % 16 < klen)
  let cv := cands.map fun x => (x % 16, FFmt.fp32.round (FFmt.bf16.decode (x / 2 ^ 16)).abs)
  let pairs := (List.zip (order.map fun x => (x.1, x.2.2)) cv).take sLim
  let sel := prrLoop p wmax gmin pairs ⟨[], [], 0, 0⟩
  { sel with stale := (valid.filter fun x => codes.contains (x % 16)).length }

/-- The entries of a group after its swaps, codes ascending (R103). DEDUCED: log entry 25. -/
def prrRewrite (p : PrrParam) (vfmt : Nat) (es : List Entry) (sel : GroupSel) : List Entry :=
  let init := if p.initMode then p.initVal else 0
  let val := if vfmt = 5 then 0 else fmtRound vfmt (FFmt.fp32.decode init)
  let kept := ((List.range es.length).zip es).filterMap fun (i, e) => if sel.pruned.contains i then none else some e
  sortBy (fun a b => decide (a.code < b.code)) (kept ++ sel.regrown.map fun k => ⟨k, val, [init, 0, 0]⟩)

/-- The entries of a strip read through the store engine: per window its 1,024 entries and exponents. -/
def prrRead (s : State) (c : Nat) (d : SetDesc) (h : Hdr) : List Nat → Except AccErr (List (List Entry × List Nat))
  | [] => .ok []
  | w :: ws =>
    let o := h.winBase + w
    match s.readMem c 3 (d.code + o * 512) 512 with
    | .error e => .error e
    | .ok cn =>
      match s.readMem c 3 (d.val + o * valBytes h.vfmt) (valBytes h.vfmt) with
      | .error e => .error e
      | .ok vn =>
        match (if h.vfmt = 5 then s.readMem c 3 (d.exp + o * 32) 32 else .ok 0) with
        | .error e => .error e
        | .ok en =>
          let opts := (List.range (min 3 d.nopt)).foldl (fun (r : Except AccErr (List (List Nat))) i =>
            match r with
            | .error e => .error e
            | .ok l =>
              let n := 1024 * optBits d i / 8
              match s.readMem c 3 (d.opt.getD i 0 + o * n) n with
              | .error e => .error e
              | .ok v => .ok (l ++ [unpackBits (optBits d i) 1024 v])) (.ok [])
          match opts with
          | .error e => .error e
          | .ok os =>
            match prrRead s c d h ws with
            | .error e => .error e
            | .ok rest =>
              let cs := unpackBits 4 1024 cn
              let vs := unpackBits (valBits h.vfmt) 1024 vn
              .ok (((List.range 1024).map fun i => ⟨cs.getD i 0, vs.getD i 0, os.map fun l => l.getD i 0⟩,
                unpackBits 8 32 en) :: rest)

/-- Candidate records of the windows of a strip: per window, 32 × (32/N) × CK words. -/
def prrCands (s : State) (c : Nat) (p : PrrParam) (h : Hdr) : List Nat → Except AccErr (List (List Nat))
  | [] => .ok []
  | w :: ws =>
    let cb := 4096 * 2 ^ p.ckLog2 / h.n
    match s.readMem c 3 (p.cbase + (h.winBase + w) * cb) cb with
    | .error e => .error e
    | .ok n =>
      match prrCands s c p h ws with
      | .error e => .error e
      | .ok rest => .ok (unpackBits 32 (cb / 4) n :: rest)

/-- Magnitude used for pruning: the master weight where present, otherwise the stored value (R102). -/
def prrMag (d : SetDesc) (h : Hdr) (e : Entry) (scale : Nat) : Nat :=
  FFmt.fp32.round (if 1 ≤ d.nopt then FFmt.fp32.decode (e.opts.getD 0 0) else fmtNum h.vfmt scale e.val).abs

/-- A row of a window rewritten (R26, R102, R103): pad slots +0, the groups of a valid row with their swaps and their codes
sorted, those of a disabled row as they were; and what each group's selection decided. -/
def prrRow (d : SetDesc) (p : PrrParam) (h : Hdr) (thr w r : Nat) (exp : Nat) (row : List Entry) (recs : List Nat) :
    List Entry × List GroupSel :=
  let ng := 32 / h.n
  let ck := 2 ^ p.ckLog2
  let gs : List (List Entry × List GroupSel) := (List.range ng).map fun q =>
    let g := w * ng + q
    let ge : List Entry := (row.drop (q * h.n)).take h.n
    if h.kGroups ≤ g then (ge.map fun _ => ⟨0, 0, [0, 0, 0]⟩, [])
    else if h.rowsM1 < r then (ge, [])
    else
      let sel := prrSelect p (thr % 2 ^ 32) (thr / 2 ^ 32) (min h.prrS h.n) h.klen g
        (ge.map fun e => (e.code, prrMag d h e exp)) ((recs.drop ((r * ng + q) * ck)).take ck)
      (prrRewrite p h.vfmt ge sel, [sel])
  (gs.flatMap (·.1), gs.flatMap (·.2))

/-- The windows of a strip rewritten: entries and exponents, and what the groups decided. -/
def prrWindows (d : SetDesc) (p : PrrParam) (h : Hdr) (thr : Nat) (wins : List (List Entry × List Nat))
    (cands : List (List Nat)) : List (List Entry × List Nat × List GroupSel) :=
  (List.zip wins cands).mapIdx fun w x =>
    let rows := (List.range 32).map fun r =>
      prrRow d p h thr w r (x.1.2.getD r 0) ((x.1.1.drop (32 * r)).take 32) x.2
    (rows.flatMap (·.1), x.1.2, rows.flatMap (·.2))

/-- One strip of PRR (R102–R104): with a swap, its windows go to the alternate region; the header waits for those writes.
Reserved bits of the header stay as they were read. DESIGN CHOICE: log entry 108. -/
def prrStrip (s : State) (c : Nat) (j : Job) (d : SetDesc) (p : PrrParam) (st : Nat) : PartOut :=
  match readHdr s c 3 d st with
  | .error e => partErr s j e
  | .ok hx =>
    let h := hdrOf hx
    let ws := List.range (h.windows h.n)
    match s.readMem c 3 (p.tbase + 8 * st) (if p.thrEn then 8 else 0) with
    | .error e => partErr s j e
    | .ok th =>
      match prrRead s c d h ws with
      | .error e => partErr s j e
      | .ok wins =>
        match prrCands s c p h ws with
        | .error e => partErr s j e
        | .ok cands =>
          let new := prrWindows d p h th wins cands
          let sels := new.flatMap (·.2.2)
          let swaps := (sels.map fun x => x.regrown.length).sum
          let s := s.bump (Reg.PRR_STALE c) Fld.PRR_STALE_COUNT (sels.map (·.stale)).sum
          let s := s.bump (Reg.PRR_NAN_CAND c) Fld.PRR_NAN_CAND_COUNT (sels.map (·.nan)).sum
          if swaps = 0 then ⟨s, { j with part := j.part + 1 }, [], none⟩
          else
            let nb := altBase h.winBase p.altBit
            match s.writeAll c .execute 3
                ((new.mapIdx fun w x => windowWrites d h.vfmt (nb + w) x.1 x.2.1 true).flatten) with
            | (s, some e) => partErr s j e
            | (s, none) =>
              let n := hx.toNat
              let w1 := n / 2 ^ 64 % 2 ^ 64 / 2 ^ 56 * 2 ^ 56 + (h.maskGen + 1) % 2 ^ 16 * 2 ^ 40 + nb % 2 ^ 40
              let hdr := n / 2 ^ 128 * 2 ^ 128 + w1 * 2 ^ 64 + n % 2 ^ 64
              ⟨s, { j with drain := true, hdrs := [BitVec.ofNat 256 hdr], cands := [(swaps, 0)] }, [], none⟩

/-- A strip's header, once the writes of its windows have completed (R104). -/
def prrFlip (s : State) (c : Nat) (j : Job) (d : SetDesc) (st : Nat) : PartOut :=
  match s.writeAll c .execute 3 [(d.hdrAddr st, j.hdrs.headD 0, beAll)] with
  | (s, some e) => partErr s j e
  | (s, none) =>
    ⟨(s.bump (Reg.PRR_SWAPS c) Fld.PRR_SWAPS_COUNT (j.cands.map (·.1)).sum).bump (Reg.PRR_FLIPS c) Fld.PRR_FLIPS_COUNT 1,
      { j with part := j.part + 1, drain := false, hdrs := [], cands := [] }, [], none⟩

def prrPart (s : State) (c : Nat) (j : Job) : PartOut :=
  let d := setOfBits (j.ptrs.getD 0 0)
  let st := j.ptrs.getD 2 0 + j.part
  if bits j.body 89 66 < j.part then partEnd s j
  else if j.drain then prrFlip s c j d st
  else prrStrip s c j d (prrParamOf (j.ptrs.getD 1 0)) st

/-! CMPR (R108–R112). -/

/-- What the compressor works with, from the instruction and its parameter sector (R112, R133). -/
structure CmprParam where
  set : SetDesc
  strip : Nat
  grp0 : Nat
  ngrp : Nat
  exact : Bool
  klen : Nat
  rowsM1 : Nat
  cls : Nat
  vfmt : Nat
  sfmt : Nat
  prrS : Nat
  winBase : Nat
  opti : Bool
  deriving DecidableEq, Repr

/-- Code of an error of the compressor (R119). -/
def cmprErr (cls cause : Nat) : AccErr := plainErr (cls * 0x1000 + 5 * 64 + cause)

/-- The fields of the parameter sector (R133), WIN_BASE advanced by WIN_STRIDE × C[SX]. -/
def cmprParamOf (d : SetDesc) (strip grp0 ngrp : Nat) (exact : Bool) (sx n : Nat) : CmprParam :=
  let f (w hi lo : Nat) : Nat := n / 2 ^ (64 * w + lo) % 2 ^ (hi - lo + 1)
  { set := d, strip := strip, grp0 := grp0, ngrp := ngrp, exact := exact, klen := f 1 63 32, rowsM1 := f 1 4 0
    cls := f 1 7 5, vfmt := f 1 15 12, sfmt := f 1 11 8, prrS := f 1 20 16
    winBase := (f 0 39 0 + f 0 63 40 * sx) % 2 ^ 40, opti := f 2 0 0 == 1 }

/-- R111. -/
def cmprSpanOk (p : CmprParam) : Bool :=
  let groups := (p.klen + 15) / 16
  let u := 32 / 2 ^ min p.cls 4
  decide (p.grp0 + p.ngrp ≤ groups) &&
    (if p.exact then p.grp0 == 0 && p.ngrp == groups
     else p.grp0 % u == 0 && (p.ngrp % u == 0 || p.grp0 + p.ngrp == groups))

/-- The checks of CMPR at issue that both it and STA's compression stage make (R111, R112, R119); `src1`: dense source. Neither
reads a header, so EXP_BASE (R39) is checked here, last. DESIGN CHOICE: log entry 108. -/
def cmprCheck (p : CmprParam) (src1 : Bool) : Except AccErr Unit :=
  if p.ngrp = 0 ∨ p.klen = 0 then .error (fieldErr .execute)
  else if !cmprSpanOk p then .error (cmprErr 1 0x09)
  else if 4 < p.cls ∨ 5 < p.vfmt ∨ (src1 ∧ p.sfmt ≠ 2 ∧ p.sfmt ≠ 4) then .error (cmprErr 1 0x0A)
  else if p.vfmt = 5 ∧ p.set.exp % 32 ≠ 0 then .error ⟨strmCode .execute 0x01, p.set.exp, none⟩
  else .ok ()

/-- Spans CMPR writes, at its largest class. -/
def cmprWrites (p : CmprParam) : List Span :=
  let n := 2 ^ min p.cls 4
  sectorSpan (p.set.hdrAddr p.strip) 1
    :: streamSpans p.set p.vfmt (p.winBase + p.grp0 * n / 32) ((p.ngrp * n + 31) / 32) p.opti

/-- The set and parameter sector of CMPR: ptrs hold the set's bits, the sector, the strip, C[SX]. -/
def cmprIssue (s : State) (c : Nat) (w : Body) : Except AccErr Job :=
  match loadSet s c 3 (bits w 121 117) with
  | .error e => .error e
  | .ok sn =>
    match s.checkPtr c .execute (bits w 18 14) with
    | .error e => .error e
    | .ok prm =>
      match s.readMem c 3 prm 32 with
      | .error e => .error e
      | .ok n =>
        let d := setOfBits sn
        let sx := s.cntAdj c .execute (bits w 116 114)
        let st := (bits w 113 90 + sx) % 2 ^ 32
        let ngrp := bits w 47 20
        let col0 := bits w 88 81
        let p := cmprParamOf d st (bits w 75 48) ngrp (bit1 w 19) sx n
        match d.check true p.opti with
        | .error e => .error e
        | .ok () =>
          if d.count ≤ st then .error (cmprErr 1 0x01)
          else if !bit1 w 89 ∧ 256 < col0 + 16 * ngrp then .error (cmprErr 1 0x03)
          else
            match cmprCheck p (bit1 w 89) with
            | .error e => .error e
            | .ok () =>
              let x := s.desc c .execute (bits w 80 76) 0
              match (if bit1 w 89 then checkOperand s c x 32 else .ok ()) with
              | .error e => .error e
              | .ok () =>
                .ok { Job.mk0 0x2D w with
                  descs := [x], ptrs := [sn, n, st, sx]
                  reads := [sectorSpan (s.ptrAddr c .execute (bits w 121 117)) 2, sectorSpan prm 1]
                    ++ (if bit1 w 89 then [x.span] else [accSpan col0 (col0 + 16 * ngrp - 1)])
                  writes := cmprWrites p }

/-- The positions a group keeps (R109, R34): the `n` highest under the magnitude key, ties to the lower position,
completed past the reduction length; ascending. Values are fp32 patterns. DEDUCED: log entry 25. -/
def keepGroup (n klen group : Nat) (vals : List Nat) : List (Nat × Nat) :=
  let valid := (List.range 16).filterMap fun k => if 16 * group + k < klen then some (k, vals.getD k 0) else none
  let kept := (rankMag valid).take n
  let fill := (List.range (n - kept.length)).map fun i => (valid.length + i, 0)
  sortBy (fun a b => decide (a.1 < b.1)) (kept ++ fill)

/-- Non-zero values among the valid positions of a group (R109). -/
def groupNonZero (klen group : Nat) (vals : List Nat) : Nat :=
  ((List.range 16).filter fun k =>
    decide (16 * group + k < klen) && !(FFmt.fp32.decode (vals.getD k 0)).isZero).length

/-- The compressor over a dense source given by rows of patterns in format `sf`, position 0 at group GRP0; values of a plain
move keep their bits (R87, R110). A group count that K_GROUPS cannot hold is written modulo 2^28.
DEDUCED: log entry 25; DESIGN CHOICE: log entry 108. -/
def cmprRun (s : State) (c : Nat) (p : CmprParam) (nf : NfFrom) (sf : Nat) (rows : List (List Nat)) : Done :=
  let raw (r g : Nat) : List Nat := ((rows.getD r []).drop (16 * (g - p.grp0))).take 16
  let wide (x : Nat) : Nat := if sf = 4 then x else FFmt.fp32.round (fmtNum sf 0 x)
  let group (r g : Nat) : List Nat := (raw r g).map wide
  let gs := (List.range p.ngrp).map fun i => p.grp0 + i
  let most := (List.range (p.rowsM1 + 1)).foldl (fun m r =>
    gs.foldl (fun m g => max m (groupNonZero p.klen g (group r g))) m) 0
  let need := if most ≤ 1 then 0 else if most ≤ 2 then 1 else if most ≤ 4 then 2 else if most ≤ 8 then 3 else 4
  let cls := if p.exact then min need p.cls else p.cls
  let n := 2 ^ cls
  let capped := p.exact && decide (p.cls < need)
  let drops := ((List.range (p.rowsM1 + 1)).map fun r => (gs.map fun g =>
    let kept := (keepGroup n p.klen g (group r g)).map (·.1)
    ((List.range 16).filter fun k => decide (16 * g + k < p.klen) && !kept.contains k
      && !(FFmt.fp32.decode ((group r g).getD k 0)).isZero).length).sum).sum
  let s := s.bump (Reg.CMPR_DROP c) Fld.CMPR_DROP_COUNT drops
  let s := if capped then s.bump (Reg.CMPR_EXACT_CAP c) Fld.CMPR_EXACT_CAP_COUNT 1 else s
  let ng := 32 / n
  let w0 := p.grp0 * n / 32
  let nw := (p.ngrp * n + 31) / 32
  let wins := (List.range nw).map fun wi =>
    let rowsE := (List.range 32).map fun r =>
      -- code and source pattern of each kept entry
      let kept : List (Nat × Nat) := (List.range ng).flatMap fun q =>
        let g := p.grp0 + wi * ng + q
        if p.grp0 + p.ngrp ≤ g then List.replicate n (0, 0)
        else if p.rowsM1 < r then (List.range n).map fun k => (k, 0)
        else (keepGroup n p.klen g (group r g)).map fun k =>
          (k.1, if 16 * g + k.1 < p.klen then (raw r g).getD k.1 0 else 0)
      let src := kept.map (·.2)
      let conv := convRun sf p.vfmt 0 src
      let es := (List.zip kept conv.2).map fun (k, v) => (⟨k.1, v, [wide k.2, 0, 0]⟩ : Entry)
      (es, conv.1, convExamined sf p.vfmt 0 conv.1 src conv.2)
    (w0 + wi, rowsE.flatMap (·.1), rowsE.map (·.2.1), rowsE.flatMap (·.2.2))
  let s := s.examine c nf (wins.flatMap fun x => x.2.2.2)
  let writes := wins.flatMap fun x => windowWrites p.set p.vfmt (p.winBase + x.1) x.2.1 x.2.2.1 p.opti
  match s.writeAll c .execute 3 writes with
  | (s, some e) => (s, some e)
  | (s, none) =>
    let kg := (p.klen + 15) / 16
    let w0b := 2 ^ 56 + p.vfmt * 2 ^ 52 + cls * 2 ^ 45 + p.prrS * 2 ^ 40 + p.rowsM1 * 2 ^ 32 + p.klen % 16 * 2 ^ 28
      + kg % 2 ^ 28
    s.writeAll c .execute 3 [(p.set.hdrAddr p.strip, BitVec.ofNat 256 (w0b + 2 ^ 64 * (p.winBase % 2 ^ 40)), beAll)]

/-- The accumulator rectangle as rows (R108 SRC 0), or its first uncorrectable word; corrected words are counted (R68). -/
def accRows (s : State) (c block col0 n : Nat) : Except AccErr (State × List (List Nat)) :=
  (s.accRead c block (rect 32 col0 n)).map fun t =>
    (t, (List.range 32).map fun r => (List.range n).map fun i => s.getAcc c r (col0 + i))

/-- The dense source as rows of its own patterns (R108 SRC 1). -/
def denseRows (s : State) (c : Nat) (d : Desc) (sfmt n : Nat) : List Nat → Except AccErr (List (List Nat))
  | [] => .ok []
  | r :: rs =>
    match s.runElems c .execute 3 d (fmtBits sfmt) r 0 n with
    | .error e => .error e
    | .ok x =>
      match denseRows s c d sfmt n rs with
      | .error e => .error e
      | .ok xs => .ok (x :: xs)

def cmprCompute (s : State) (c : Nat) (j : Job) : Done :=
  let w := j.body
  let p := cmprParamOf (setOfBits (j.ptrs.getD 0 0)) (j.ptrs.getD 2 0) (bits w 75 48) (bits w 47 20) (bit1 w 19)
    (j.ptrs.getD 3 0) (j.ptrs.getD 1 0)
  let nf : NfFrom := ⟨3, 0, j.bank, j.index⟩
  if bit1 w 89 then
    match denseRows s c (j.descs.headD (descOf 0 0)) p.sfmt (16 * p.ngrp) (List.range 32) with
    | .error e => (s, some e)
    | .ok rows => cmprRun s c p nf p.sfmt rows
  else
    match accRows s c 5 (bits w 88 81) (16 * p.ngrp) with
    | .error e => (s, some e)
    | .ok (s, rows) => cmprRun s c p nf 4 rows

/-! PRED (R113–R118). -/

/-- The PRED parameter block (R113). -/
structure PredParam where
  bBase : Nat
  bexpBase : Nat
  mapBase : Nat
  tSkip : Nat
  margin : Nat
  actThr : Nat
  seed : Nat
  audCap : Nat
  cap : Nat
  audLog2 : Nat
  rank : Nat
  colBase : Nat
  deriving DecidableEq, Repr

def predParamOf (n : Nat) : PredParam :=
  let f (w hi lo : Nat) : Nat := n / 2 ^ (64 * w + lo) % 2 ^ (hi - lo + 1)
  { bBase := f 0 63 0, bexpBase := f 1 63 0, mapBase := f 2 63 0, tSkip := f 3 31 0, margin := f 3 63 32
    actThr := f 4 31 0, seed := f 4 63 32, audCap := f 5 40 32, cap := f 5 24 16, audLog2 := f 5 11 8, rank := f 5 6 0
    colBase := f 6 31 0 }

def predIssue (s : State) (c : Nat) (w : Body) : Except AccErr Job :=
  let t := bits w 79 72 + 1
  let ns := bits w 89 87 + 1
  let col0 := bits w 71 64
  match s.checkPtr c .execute (bits w 121 117) with
  | .error e => .error e
  | .ok prm =>
    if 1 < bits w 81 80 then .error (arrErr 1 0x02)
    else if 256 < col0 + ns * t then .error (arrErr 1 0x03)
    else
      match s.readMem c 0 prm 64 with
      | .error e => .error e
      | .ok n =>
        let p := predParamOf n
        if p.rank = 0 ∨ 64 < p.rank ∨ !nonNegFinite p.margin then .error (arrErr 1 0x08) else
          let u := s.desc c .execute (bits w 86 82) 0
          match checkOperand s c u t with
          | .error e => .error e
          | .ok () =>
            let st := (bits w 113 90 + s.cntAdj c .execute (bits w 116 114)) % 2 ^ 32
            if 2 ^ 24 ≤ st then .error (fieldErr .execute) else
              let nb := (p.rank + 31) / 32
              .ok { Job.mk0 0x25 w with
                descs := [u], ptrs := [n, st]
                reads := [sectorSpan prm 2, u.span,
                  byteSpan (p.bBase + 32 * st * nb * 16) (32 * ns * nb * 16), byteSpan (p.bexpBase + 32 * st * nb) (32 * ns * nb)]
                writes := [byteSpan p.mapBase (ns * t * 8), accSpan col0 (col0 + ns * t - 1)] }

/-- Audit selection (R114). -/
def auditSel (p : PredParam) (strip r j : Nat) : Bool :=
  let m := 2 ^ 32
  let x := p.seed ^^^ ((32 * strip + r) * 0x9E37_79B1 % m) ^^^ ((j + p.colBase) % m * 0x85EB_CA77 % m)
  let x := (x ^^^ (x / 2 ^ 16)) * 0x7FEB_352D % m
  let x := (x ^^^ (x / 2 ^ 15)) * 0x846C_A68B % m
  let x := x ^^^ (x / 2 ^ 16)
  x % 2 ^ p.audLog2 == 0

/-- B's row blocks: for each row of a strip its elements and exponent bytes. -/
def predB (s : State) (c : Nat) (p : PredParam) (strip : Nat) : Except AccErr (List (List Nat × List Nat)) :=
  let nb := (p.rank + 31) / 32
  match s.readMem c 0 (p.bBase + 32 * strip * nb * 16) (32 * nb * 16) with
  | .error e => .error e
  | .ok bn =>
    match s.readMem c 0 (p.bexpBase + 32 * strip * nb) (32 * nb) with
    | .error e => .error e
    | .ok en =>
      let bs := unpackBits 4 (32 * nb * 32) bn
      let es := unpackBits 8 (32 * nb) en
      .ok ((List.range 32).map fun r => ((bs.drop (r * nb * 32)).take (nb * 32), (es.drop (r * nb)).take nb))

/-- A score (R114): each block one class-16 window, in the sets of R61. -/
def predScore (rank setSz ufmt : Nat) (b : List Nat × List Nat) (u : List Nat) : Nat :=
  let nb := (rank + 31) / 32
  let parts := (List.range nb).map fun i =>
    tree .f20 5 ((List.range 32).map fun t =>
      let k := 32 * i + t
      if k < rank then some (slotProduct .pb4 5 ufmt (b.2.getD i 0) (b.1.getD k 0) (u.getD k 0)) else none)
  (chunks setSz nb parts).foldl (fun acc set =>
    match set.foldl (joinPart .f20) none with
    | some x => f32Add acc (promote .pb4 x)
    | none => acc) 0

/-- Scores of one strip: for each column the 32 rows. -/
def predStripScores (s : State) (c : Nat) (p : PredParam) (setSz ufmt : Nat) (u : Desc)
    (bs : List (List Nat × List Nat)) : List Nat → Except AccErr (List (List Nat))
  | [] => .ok []
  | j :: js =>
    match s.runElems c .execute 0 u (fmtBits ufmt) j 0 p.rank with
    | .error e => .error e
    | .ok us =>
      match predStripScores s c p setSz ufmt u bs js with
      | .error e => .error e
      | .ok rest => .ok (((List.range 32).map fun r => predScore p.rank setSz ufmt (bs.getD r ([], [])) us) :: rest)

/-- Row classes of a column: 0 skipped, 1 band, 2 active (R114). -/
def rowClass (p : PredParam) (score : Nat) : Nat :=
  let x := FFmt.fp32.decode score
  let t := FFmt.fp32.decode p.tSkip
  let lo := FFmt.fp32.decode (f32Sub p.tSkip p.margin)
  let le (a b : Num) : Bool := a.lt b || a.eqv b
  if x.isNan || le t x then 2 else if le lo x && x.lt t then 1 else 0

/-- One pass of R115: columns that ask take a slot while the pool lasts; gives the columns granted and what is left. -/
def takeSlots (ask : Nat → Bool) : List Nat → Nat → List Nat × Nat
  | [], pool => ([], pool)
  | j :: js, pool =>
    if ask j && decide (0 < pool) then let r := takeSlots ask js (pool - 1); (j :: r.1, r.2) else takeSlots ask js pool

/-- What R115 decides for one strip. -/
structure StripMap where
  cols : List PredCol
  skip : Nat
  audit : Nat
  bandDrop : Nat
  bandDone : Nat
  overs : Nat
  deriving DecidableEq, Repr

/-- The three passes of R115 over the row classes of a strip's columns. -/
def predAllocate (p : PredParam) (strip t : Nat) (cls : List (List Nat)) : StripMap :=
  let at' (j r : Nat) : Nat := (cls.getD j []).getD r 0
  let rows := List.range 32
  let has (k j : Nat) : Bool := rows.any fun r => at' j r == k
  let cnt (k j : Nat) : Nat := (rows.filter fun r => at' j r == k).length
  let cols := List.range t
  let pool := if 256 ≤ p.cap then t else p.cap
  let main := takeSlots (has 2) cols pool
  let lost := cols.filter fun j => has 2 j && !main.1.contains j
  let mk := takeSlots (fun j => !main.1.contains j && !lost.contains j && has 1 j) cols main.2
  let done := main.1 ++ mk.1
  -- band rows left out are skipped from here on (R115), and may be audit-selected with the other skipped rows
  let skipped (j r : Nat) : Bool := at' j r == 0 || (at' j r == 1 && !done.contains j)
  let aud (j r : Nat) : Bool := skipped j r && auditSel p strip r j
  let ax := takeSlots (fun j => !done.contains j && !lost.contains j && rows.any fun r => aud j r) cols (p.audCap + mk.2)
  let all := done ++ ax.1
  { cols := cols.map fun j =>
      let comp := all.contains j
      let bit (f : Nat → Bool) : Word32 :=
        BitVec.ofNat 32 (rows.foldl (fun v r => if comp && f r then v + 2 ^ r else v) 0)
      ⟨bit fun r => !skipped j r || aud j r, bit fun r => aud j r, comp⟩
    skip := (cols.map fun j => (rows.filter fun r => skipped j r).length).sum
    audit := (all.map fun j => (rows.filter fun r => aud j r).length).sum
    bandDrop := ((cols.filter fun j => !done.contains j).map (cnt 1)).sum
    bandDone := (done.map (cnt 1)).sum
    overs := (lost.map (cnt 2)).sum }

/-- Scores and maps of the strips in order, written as they are made. -/
def predStrips (c : Nat) (p : PredParam) (ufmt t col0 : Nat) (u : Desc) :
    List (Nat × Nat) → State → List StripMap → (State × Option AccErr) × List StripMap
  | [], s, ms => ((s, none), ms)
  | (k, strip) :: rest, s, ms =>
    match predB s c p strip with
    | .error e => ((s, some e), ms)
    | .ok bs =>
      match predStripScores s c p (s.setSize c) ufmt u bs (List.range t) with
      | .error e => ((s, some e), ms)
      | .ok sc =>
        let m := predAllocate p strip t (sc.map fun col => col.map (rowClass p))
        -- the blocks of B stream two columns a cycle on the b4×f8 path, every element below RANK a useful MAC (R66, R118)
        let s := (s.arrayWork c ((p.rank + 31) / 32 * ((t + 1) / 2)) (32 * p.rank * t)).setDone c
        let s := s.putAcc c ((rect 32 0 t).map fun x => (x.1, col0 + k * t + x.2, (sc.getD x.2 []).getD x.1 0))
        match s.writeAll c .execute 3 (byteWrites (p.mapBase + k * t * 8) (t * 8)
            (packBits 64 (m.cols.map fun x => x.compute.toNat + 2 ^ 32 * x.audit.toNat))) with
        | (s, some e) => ((s, some e), ms)
        | (s, none) => predStrips c p ufmt t col0 u rest s (ms ++ [m])

def predCompute (s : State) (c : Nat) (j : Job) : Done :=
  let w := j.body
  let p := predParamOf (j.ptrs.getD 0 0)
  let st := j.ptrs.getD 1 0
  let t := bits w 79 72 + 1
  let ns := bits w 89 87 + 1
  let col0 := bits w 71 64
  let s := s.disarmPred c
  match predStrips c p (bits w 81 80) t col0 (j.descs.headD (descOf 0 0)) ((List.range ns).map fun k => (k, st + k)) s [] with
  | ((s, some e), _) => (if e.asks then s else s.examine c (nfArray j) (s.accNums c (rect 32 col0 (ns * t))), some e)
  | ((s, none), ms) =>
    let s := s.addMod (Reg.PRED_SKIP c) Fld.PRED_SKIP_COUNT (ms.map (·.skip)).sum
    let s := s.addMod (Reg.PRED_AUDIT c) Fld.PRED_AUDIT_COUNT (ms.map (·.audit)).sum
    let s := s.bump (Reg.PRED_BAND c) Fld.PRED_BAND_DROP (ms.map (·.bandDrop)).sum
    let s := s.bump (Reg.PRED_BAND c) Fld.PRED_BAND_DONE (ms.map (·.bandDone)).sum
    let s := s.bump (Reg.PRED_OVER c) Fld.PRED_OVER_COUNT (ms.map (·.overs)).sum
    let slots := min t ((if 256 ≤ p.cap then t else p.cap) + p.audCap)
    let s := s.modCore c fun k => { k with pred := some ⟨st, t, p.actThr, slots, ms.map fun m => (true, m.cols)⟩ }
    let s := s.showPred c
    (s.examine c (nfArray j) (s.accNums c (rect 32 col0 (ns * t))), none)

end Sys2Proof.Machine
end

