-- ==== Sys2Proof/Machine/Vector.lean ====
section
/-! DEFINITION. The vector and top-k units: VOP, RED, TOPK and CVT (R134–R139), operand by operand. -/

namespace Sys2Proof.Machine

open Sys2Proof

/-- What a computation with queue destinations answers: the state, the sectors for return queues in order, and the
error that stopped it. -/
abbrev DoneQ := State × List (Nat × Sector) × Option AccErr

/-! Operands at issue. -/

/-- A source operand of `need` bits joined to a job: its checks (R134, R153, R154), its span or its queue. -/
def addSrc (s : State) (c b need : Nat) (r : Except AccErr Job) : Except AccErr Job :=
  match r with
  | .error e => .error e
  | .ok j =>
    match srcOpd b with
    | .bad => .error (fieldErr .execute)
    | .desc i =>
      let d := s.desc c .execute i 0
      match s.checkDesc c .execute d with
      | .error e => .error e
      | .ok () =>
        if need ≤ d.total * 256 then .ok { j with descs := j.descs ++ [d], reads := j.reads ++ [d.span] }
        else .error (shapeErr .execute)
    | .queue q => .ok { j with queues := j.queues ++ [q] }
    | .imm => .ok j
    | .none => .ok j

/-- A destination operand of `need` bits joined to a job. -/
def addDst (s : State) (c b need : Nat) (r : Except AccErr Job) : Except AccErr Job :=
  match r with
  | .error e => .error e
  | .ok j =>
    match dstOpd b with
    | .desc i =>
      let d := s.desc c .execute i 0
      match s.checkDesc c .execute d with
      | .error e => .error e
      | .ok () =>
        if need ≤ d.total * 256 then .ok { j with descs := j.descs ++ [d], writes := j.writes ++ [d.span] }
        else .error (shapeErr .execute)
    | .queue _ => .ok j
    | _ => .error (fieldErr .execute)

/-- One source as the unit reads it: its specifier, bits per element and number of elements. -/
structure SrcUse where
  spec : Nat
  w : Nat
  n : Nat
  deriving DecidableEq, Repr

/-- Sectors a source's elements fill. -/
def SrcUse.sectors (u : SrcUse) : Nat := (u.n * u.w + 255) / 256

/-- The queue sectors an instruction takes, in the order its elements need them: (operand, queue).
DEDUCED: log entry 17. -/
def takeOrder (us : List SrcUse) : List (Nat × Nat) :=
  let each := ((List.range us.length).zip us).flatMap fun x =>
    match srcOpd x.2.spec with
    | .queue q => (List.range x.2.sectors).map fun k => (256 * k / x.2.w, x.1, q)
    | _ => []
  (sortBy (fun (a b : Nat × Nat × Nat) => decide (a.1 < b.1)) each).map (·.2)

/-- DEDUCED: log entry 17. -/
def planTakes (j : Job) (us : List SrcUse) : Job := { j with takes := (takeOrder us).map fun x => (x.2, 1) }

/-- Sectors of a descriptor up to the first that fails. -/
def readUpTo (s : State) (c : Nat) (d : Desc) : Nat → Nat → List Sector × Option AccErr
  | 0, _ => ([], none)
  | n + 1, k =>
    match s.readSec c .execute 2 (d.sector k) d.lcr with
    | .error e => ([], some e)
    | .ok x => let r := readUpTo s c d n (k + 1); (x :: r.1, r.2)

/-- An operand's element patterns as far as they can be read, with the failure that ended them. An immediate or an
absent operand gives the same pattern everywhere. -/
structure SrcVal where
  els : List Nat
  /-- The pattern is an fp32 one, whatever the format field says. -/
  f32 : Bool
  fail : Option (Nat × AccErr)
  deriving DecidableEq, Repr

/-- The operands of a job read: queue sectors by `takeOrder`, descriptors in order, immediates; `free` is the pattern
of an operand that is named absent or immediate where the spec gives it no value. DESIGN CHOICE: log entry 20. -/
def srcVals (s : State) (c : Nat) (j : Job) (us : List SrcUse) (imm : Option Nat) (free : Nat) : List SrcVal :=
  let secs := List.zip (takeOrder us) j.got.reverse
  (((List.range us.length).zip us).foldl (fun (r : List SrcVal × List Desc) x =>
    let u := x.2
    match srcOpd u.spec with
    | .desc _ =>
      let rd := readUpTo s c (r.2.headD (descOf 0 0)) u.sectors 0
      let n := match rd.2 with
        | none => u.n
        | some _ => min u.n (256 * rd.1.length / u.w)
      (r.1 ++ [⟨unpackBits u.w n (sectorsBits rd.1), false, rd.2.map fun e => (n, e)⟩], r.2.tail)
    | .queue _ =>
      let ss := (secs.filter fun y => y.1.1 == x.1).map (·.2)
      (r.1 ++ [⟨unpackBits u.w u.n (sectorsBits ss), false, none⟩], r.2)
    | .imm =>
      match imm with
      | some v => (r.1 ++ [if u.w = 2 then ⟨List.replicate u.n (free % 4), false, none⟩
          else ⟨List.replicate u.n v, true, none⟩], r.2)
      | none => (r.1 ++ [⟨List.replicate u.n (free % 2 ^ u.w), false, none⟩], r.2)
    | _ => (r.1 ++ [⟨List.replicate u.n (free % 2 ^ u.w), false, none⟩], r.2)) ([], j.descs)).1

/-- Elements that every operand delivers, and the failure that comes first. -/
def readable (n : Nat) (vs : List SrcVal) : Nat × Option AccErr :=
  vs.foldl (fun r v =>
    match v.fail with
    | some (k, e) => if k < r.1 then (k, some e) else r
    | none => r) (n, none)

/-- Results wait while a read that they need has only been asked for. -/
def unlessAsked (s : State) (e : Option AccErr) (f : DoneQ) : DoneQ :=
  match e with
  | some x => if x.asks then (s, [], e) else f
  | none => f

/-- Whether a used operand's value is one the spec does not give: an absent operand, an immediate where the instruction
has no IMM, or an immediate for MAPZ's map entries. DESIGN CHOICE: log entry 20. -/
def needsFree (us : List SrcUse) (imm : Option Nat) : Bool :=
  us.any fun u =>
    match srcOpd u.spec with
    | .none => true
    | .imm => imm.isNone || u.w == 2
    | _ => false

/-- Results of `nbits` bits laid at a destination: a descriptor's sectors from its start, the last by byte enables, or
whole queue sectors; when the reads failed (`cut`) only whole sectors leave the unit. -/
def putResults (s : State) (c : Nat) (dst : Nat) (d : Desc) (nbits v : Nat) (cut : Bool) : DoneQ :=
  let nbits := if cut then nbits / 256 * 256 else nbits
  match dstOpd dst with
  | .queue q => (s, (bitsSectors ((nbits + 255) / 256) (v % 2 ^ nbits)).map fun x => (q, x), none)
  | .desc _ =>
    let r := s.writeAll c .execute 2 (seqWrites d (nbits / 8) v)
    (r.1, [], r.2)
  | _ => (s, [], none)

def lastDesc (j : Job) : Desc := j.descs.getLastD (descOf 0 0)

/-! VOP. -/

/-- Operands a function uses: B, C (R135). -/
def vopUses (fn : Nat) : Option (Bool × Bool) :=
  if fn = 3 ∨ fn = 0xF then some (true, true)
  else if fn ≤ 4 ∨ fn = 8 ∨ fn = 9 ∨ fn = 0xD ∨ fn = 0xE ∨ fn = 0x14 then some (true, false)
  else if fn ≤ 0x13 then some (false, false)
  else none

/-- The sources of VOP as it reads them. MAPZ reads SB as 64-bit entries of 32 elements. -/
def vopSrcs (w : Body) : List SrcUse :=
  let fn := bits w 121 116
  let n := bits w 67 44
  match vopUses fn with
  | some (b, c) =>
    [⟨bits w 115 108, fmtBits (bits w 107 104), n⟩]
      ++ (if b then [if fn = 0x14 then ⟨bits w 103 96, 2, (n + 31) / 32 * 32⟩
                     else ⟨bits w 103 96, fmtBits (bits w 95 92), n⟩] else [])
      ++ (if c then [⟨bits w 91 84, fmtBits (bits w 83 80), n⟩] else [])
  | none => []

def vopFmtsOk (w : Body) : Bool :=
  let fn := bits w 121 116
  decide (bits w 71 68 ≤ 4) && decide (bits w 107 104 ≤ 4) &&
    match vopUses fn with
    | some (b, c) => (!b || fn == 0x14 || decide (bits w 95 92 ≤ 4)) && (!c || decide (bits w 83 80 ≤ 4))
    | none => true

def vopIssue (s : State) (c : Nat) (w : Body) : Except AccErr Job :=
  if (vopUses (bits w 121 116)).isNone then .error (fieldErr .execute)
  else if !vopFmtsOk w then .error (convErr .execute)
  else
    let us := vopSrcs w
    addDst s c (bits w 79 72) (bits w 67 44 * fmtBits (bits w 71 68))
      (us.foldl (fun r u => addSrc s c u.spec (u.n * u.w) r) (.ok (Job.mk0 0x28 w)))

/-- One element of VOP before its rounding into DFMT (R85, R135, R136). -/
def vopNum (fn : Nat) (a b c : Num) : Num :=
  let p := FFmt.fp32.round
  let d := FFmt.fp32.decode
  let one := Num.ofInt 1
  let zero := Num.fin false 0 0
  match fn with
  | 0x00 => .add a b
  | 0x01 => .sub a b
  | 0x02 => .mul a b
  | 0x03 => .add (.mul a b) c
  | 0x04 => .div a b
  | 0x05 => .sqrt a
  | 0x06 => .div one a
  | 0x07 => .rsqrt a
  | 0x08 => d (f32Max (p a) (p b))
  | 0x09 => d (f32Min (p a) (p b))
  | 0x0A => .abs a
  | 0x0B => .neg a
  | 0x0C => d (f32Max (p a) 0)
  | 0x0D => if b.lt a then one else zero
  | 0x0E => if a.eqv b then one else zero
  | 0x0F => if c.eqv zero then b else a
  | 0x10 => d (f32Exp2 (p a))
  | 0x11 => d (f32Exp (p a))
  | 0x12 => d (f32Sigm (p a))
  | _ => d (f32Tanh (p a))

def nfVec (unit : Nat) (j : Job) : NfFrom := ⟨unit, 0, j.bank, j.index⟩

/-- The value of an operand's element. -/
def SrcVal.num (v : SrcVal) (fmt i : Nat) : Num := fmtNum (if v.f32 then 4 else fmt) 0 (v.els.getD i 0)

def vopCompute (s : State) (c : Nat) (j : Job) : DoneQ :=
  let w := j.body
  let fn := bits w 121 116
  let us := vopSrcs w
  let imm := some (bits w 31 0)
  let vs := srcVals s c j us imm (Config.freeWord s.free).toNat
  let s := if needsFree us imm then { s with free := s.free + 1 } else s
  let r := readable (bits w 67 44) vs
  unlessAsked s r.2 <|
  let v (k : Nat) : SrcVal := vs.getD k ⟨[], false, none⟩
  let df := bits w 71 68
  let out := (List.range r.1).map fun i =>
    let a := (v 0).num (bits w 107 104) i
    if fn = 0x14 then
      -- bit (i mod 32) of the 64-bit entry i / 32 (R135); two bits of the entry stand at each element's place
      let bit := (v 1).els.getD (i / 32 * 32 + i % 32 / 2) 0 / 2 ^ (i % 2) % 2
      fmtRound df (if bit = 1 then a else .fin false 0 0)
    else fmtRound df (vopNum fn a ((v 1).num (bits w 95 92) i) ((v 2).num (bits w 83 80) i))
  let s := s.examine c (nfVec 2 j) (out.map (fmtNum df 0))
  match putResults s c (bits w 79 72) (lastDesc j) (out.length * fmtBits df) (packBits (fmtBits df) out) r.2.isSome with
  | (s, q, some e) => (s, q, some e)
  | (s, q, none) => (s, q, r.2)

/-! RED. -/

/-- Groups of a reduction or a selection: GROUP 0 makes one group of COUNT. -/
def groupSize (count group : Nat) : Nat := if group = 0 then max count 1 else group
def groupCount (count group : Nat) : Nat := (count + groupSize count group - 1) / groupSize count group

def redSrcs (w : Body) : List SrcUse := [⟨bits w 119 112, fmtBits (bits w 111 108), bits w 95 72⟩]

def redIssue (s : State) (c : Nat) (w : Body) : Except AccErr Job :=
  if 4 < bits w 111 108 ∨ 4 < bits w 99 96 then .error (convErr .execute)
  else
    addDst s c (bits w 107 100) (groupCount (bits w 95 72) (bits w 71 48) * fmtBits (bits w 99 96))
      (addSrc s c (bits w 119 112) (bits w 95 72 * fmtBits (bits w 111 108)) (.ok (Job.mk0 0x29 w)))

/-- The sum of R137 over fp32 patterns: 64 lanes, then the tree of R60. -/
def redSum (xs : List Nat) : Nat :=
  let lane (l : Nat) : Option Nat :=
    ((List.range xs.length).zip xs).foldl (fun (a : Option Nat) x =>
      if x.1 % 64 = l then
        match a with
        | some y => some (f32Add y x.2)
        | none => some x.2
      else a) none
  (tree .fp32 6 ((List.range 64).map lane)).getD 0

/-- One group of RED, as an fp32 pattern. DEDUCED: log entry 19. -/
def redGroup (fn : Nat) (xs : List Nat) : Nat :=
  match fn, xs with
  | 0, _ => redSum xs
  | 1, x :: rest => rest.foldl f32Max x
  | 2, x :: rest => rest.foldl f32Min x
  | 3, _ => redSum (xs.map fun x => f32Mul x x)
  | _, [] => 0
  | _, x :: _ => x

/-- DEDUCED: log entry 19. -/
def redCompute (s : State) (c : Nat) (j : Job) : DoneQ :=
  let w := j.body
  let us := redSrcs w
  let n := bits w 95 72
  let vs := srcVals s c j us none (Config.freeWord s.free).toNat
  let s := if needsFree us none then { s with free := s.free + 1 } else s
  let r := readable n vs
  unlessAsked s r.2 <|
  let v := vs.headD ⟨[], false, none⟩
  let xs := (List.range r.1).map fun i => FFmt.fp32.round (v.num (bits w 111 108) i)
  let g := groupSize n (bits w 71 48)
  -- a group that the reads do not complete delivers nothing
  let full := if r.2.isSome then r.1 / g * g else r.1
  let df := bits w 99 96
  let out := (chunks g full (xs.take full)).map fun x => fmtRound df (FFmt.fp32.decode (redGroup (bits w 121 120) x))
  let s := s.examine c (nfVec 2 j) (out.map (fmtNum df 0))
  match putResults s c (bits w 107 100) (lastDesc j) (out.length * fmtBits df) (packBits (fmtBits df) out) r.2.isSome with
  | (s, q, some e) => (s, q, some e)
  | (s, q, none) => (s, q, r.2)

/-! TOPK. -/

def topkSrcs (w : Body) : List SrcUse := [⟨bits w 115 108, fmtBits (bits w 107 104), bits w 87 64⟩]

def topkIssue (s : State) (c : Nat) (w : Body) : Except AccErr Job :=
  let k := bits w 120 116
  let g := groupCount (bits w 87 64) (bits w 63 40)
  if k = 0 ∨ 16 < k then .error (fieldErr .execute)
  else if 4 < bits w 107 104 then .error (convErr .execute)
  else
    addDst s c (bits w 95 88) (32 * g * k)
      (addDst s c (bits w 103 96) (g * k * fmtBits (bits w 107 104))
        (addSrc s c (bits w 115 108) (bits w 87 64 * fmtBits (bits w 107 104)) (.ok (Job.mk0 0x2A w))))

/-- The ranking of R93 over patterns of a format: highest first, lower index first among equals. -/
def rankBy (magnitude : Bool) (fmt : Nat) (xs : List Nat) : List (Nat × Nat) :=
  (sortBy (fun (a b : Int × Nat × Nat) => decide (b.1 < a.1))
    (((List.range xs.length).zip xs).map fun x => (rankKey magnitude (fmtNum fmt 0 x.2), x.1, x.2))).map (·.2)

/-- One group of TOPK: K (index, pattern) entries. DEDUCED: log entry 19. -/
def topkGroup (magnitude : Bool) (fmt k : Nat) (xs : List Nat) : List (Nat × Nat) :=
  let t := (rankBy magnitude fmt xs).take k
  t ++ List.replicate (k - t.length) (0xFFFF_FFFF, 0)

/-- The descriptor of TOPK's value destination stands before that of its indices. -/
def topkValDesc (j : Job) : Desc :=
  match dstOpd (bits j.body 95 88) with
  | .desc _ => j.descs.dropLast.getLastD (descOf 0 0)
  | _ => lastDesc j

/-- DEDUCED: log entry 19. -/
def topkCompute (s : State) (c : Nat) (j : Job) : DoneQ :=
  let w := j.body
  let us := topkSrcs w
  let n := bits w 87 64
  let f := bits w 107 104
  let k := bits w 120 116
  let vs := srcVals s c j us none (Config.freeWord s.free).toNat
  let s := if needsFree us none then { s with free := s.free + 1 } else s
  let r := readable n vs
  unlessAsked s r.2 <|
  let v := vs.headD ⟨[], false, none⟩
  let g := groupSize n (bits w 63 40)
  let full := if r.2.isSome then r.1 / g * g else r.1
  let sel := (chunks g full (v.els.take full)).flatMap fun x => topkGroup (bit1 w 121) f k x
  match putResults s c (bits w 103 96) (topkValDesc j) (sel.length * fmtBits f) (packBits (fmtBits f) (sel.map (·.2)))
      r.2.isSome with
  | (s, q, some e) => (s, q, some e)
  | (s, q, none) =>
    match putResults s c (bits w 95 88) (lastDesc j) (sel.length * 32) (packBits 32 (sel.map (·.1))) r.2.isSome with
    | (s, q', some e) => (s, q ++ q', some e)
    | (s, q', none) => (s, q ++ q', r.2)

/-! CVT. -/

def cvtSrcs (w : Body) : List SrcUse :=
  [⟨bits w 121 114, fmtBits (bits w 113 110), bits w 87 64⟩]
    ++ (if fmtBlock (bits w 113 110) then [⟨bits w 109 105, 8, bits w 87 64 / 32⟩] else [])

def mxfp6 (f : Nat) : Bool := f == 0xA || f == 0xB

def cvtIssue (s : State) (c : Nat) (w : Body) : Except AccErr Job :=
  let a := bits w 113 110
  let d := bits w 96 93
  let n := bits w 87 64
  if !convPairOk a d then .error (convErr .execute)
  else if ((fmtBlock a || fmtBlock d) && n % 32 != 0) || ((mxfp6 a || mxfp6 d) && n % 128 != 0) then
    .error (fieldErr .execute)
  else
    let j := addDst s c (bits w 104 97) (n * fmtBits d)
      ((cvtSrcs w).foldl (fun r u => addSrc s c u.spec (u.n * u.w) r) (.ok (Job.mk0 0x2B w)))
    if fmtBlock d then addDst s c (bits w 92 88) (n / 32 * 8) j else j

/-- The descriptor of CVT's elements; that of DS comes last where DFMT has one. -/
def cvtDstDesc (j : Job) : Desc :=
  if fmtBlock (bits j.body 96 93) then j.descs.dropLast.getLastD (descOf 0 0) else lastDesc j

def cvtCompute (s : State) (c : Nat) (j : Job) : DoneQ :=
  let w := j.body
  let a := bits w 113 110
  let d := bits w 96 93
  let us := cvtSrcs w
  let vs := srcVals s c j us none (Config.freeWord s.free).toNat
  let s := if needsFree us none then { s with free := s.free + 1 } else s
  -- a failed scale sector ends the elements of its blocks
  let v0 := vs.headD ⟨[], false, none⟩
  let v1 := vs.getD 1 ⟨[], false, none⟩
  let r := readable (bits w 87 64) [v0, { v1 with fail := v1.fail.map fun x => (32 * x.1, x.2) }]
  unlessAsked s r.2 <|
  let n := if r.2.isSome && (fmtBlock a || fmtBlock d) then r.1 / 32 * 32 else r.1
  let blocks := (List.range ((n + 31) / 32)).map fun b =>
    let es := ((v0.els.take n).drop (32 * b)).take 32
    let sc := v1.els.getD b 0
    let o := convRun a d sc es
    (o, convExamined a d sc o.1 es o.2)
  let s := s.examine c (nfVec 4 j) (blocks.flatMap (·.2))
  let out := blocks.flatMap (·.1.2)
  match putResults s c (bits w 104 97) (cvtDstDesc j) (out.length * fmtBits d) (packBits (fmtBits d) out) r.2.isSome with
  | (s, q, some e) => (s, q, some e)
  | (s, q, none) =>
    if fmtBlock d then
      match s.writeAll c .execute 2 (seqWrites (lastDesc j) blocks.length (packBits 8 (blocks.map (·.1.1)))) with
      | (s, some e) => (s, q, some e)
      | (s, none) => (s, q, r.2)
    else (s, q, r.2)

end Sys2Proof.Machine
end

