-- ==== Sys2Proof/Machine/Store.lean ====
section
/-! DEFINITION. The store engine: STA (R160–R166). -/

namespace Sys2Proof.Machine

open Sys2Proof

/-- The side tag that an array instruction leaves at a column, where it writes the column's tag (R160).
DEDUCED: log entry 21. -/
def jobSide (s : State) (j : Job) (col : Nat) : Option Bool :=
  let w := j.body
  match j.op with
  | 0x20 =>
    let c0 := bits w 23 16
    if c0 ≤ col ∧ col ≤ c0 + bits w 15 8 then some (bit1 w 7) else none
  | 0x21 =>
    let c0 := bits w 23 16
    let n := (hdrOf (s.rdAt (j.ptrs.getD 0 0 + 32 * j.ptrs.getD 2 0))).n
    if c0 ≤ col ∧ col < c0 + 16 / n * (bits w 15 8 + 1) then some false else none
  | 0x26 =>
    let c0 := bits w 120 113
    if !bit1 w 121 ∧ c0 ≤ col ∧ col ≤ c0 + bits w 112 105 then some false else none
  | _ => none

/-- The tag of a column as the last earlier instruction in program order leaves it (R160). DEDUCED: log entry 21. -/
def State.sideAt (s : State) (c col : Nat) : Bool :=
  let u := mget (s.core c).units ⟨none, none⟩ 0
  let of (o : Option Job) : Option Bool :=
    match o with
    | some j => if j.computed then none else jobSide s j col
    | none => none
  match of u.wait, of u.run with
  | some b, _ => b
  | none, some b => b
  | none, none => mget (s.core c).side false col

/-- A lane of an emitted line: an accumulator element (row, column), or a pad. -/
abbrev Lane := Option (Nat × Nat)

/-- Lines of a rectangle of `rows` rows and `t` columns, by orientation: line `a`, lane block `k` (R161). -/
def staLine (x : Bool) (rows t a k : Nat) : List Lane :=
  let lines := if x then rows else t
  (List.range 32).map fun i =>
    if lines ≤ a then none
    else if x then (if 32 * k + i < t then some (a, 32 * k + i) else none)
    else (if i < rows then some (i, a) else none)

/-- The emitted elements in order (R162). -/
def staEmit (x : Bool) (layout rows t : Nat) : List Lane :=
  let lines := if x then rows else t
  let kb := if x then (t + 31) / 32 else 1
  match layout with
  | 0 => (List.range lines).flatMap fun a => (List.range kb).flatMap fun k => staLine x rows t a k
  | 1 => (List.range ((lines + 31) / 32)).flatMap fun m => (List.range kb).flatMap fun k =>
      (List.range 32).flatMap fun a => staLine x rows t (32 * m + a) k
  | _ => (List.range ((lines + 1) / 2)).flatMap fun m => (List.range kb).flatMap fun k =>
      (List.zip (staLine x rows t (2 * m) k) (staLine x rows t (2 * m + 1) k)).flatMap fun p => [p.1, p.2]

/-- Elements of an emission, without listing them. -/
def staCount (x : Bool) (layout rows t : Nat) : Nat :=
  let lines := if x then rows else t
  let kb := if x then (t + 31) / 32 else 1
  let n := match layout with
    | 0 => lines
    | 1 => (lines + 31) / 32 * 32
    | _ => (lines + 1) / 2 * 2
  32 * kb * n

/-- Checks of STA's compression stage at issue (R165): ptrs hold the set's bits, the parameter sector, the strip,
C[SX], GRP0 and NGRP. -/
def staCmprIssue (s : State) (c : Nat) (w : Body) : Except AccErr Job :=
  let t := bits w 113 106 + 1
  let col0 := bits w 121 114
  if bits w 105 87 ≠ 0 then .error (fieldErr .execute)
  else if t % 16 ≠ 0 then .error (shapeErr .execute)
  else
    match loadSet s c 3 (bits w 85 81) with
    | .error e => .error e
    | .ok sn =>
      match s.checkPtr c .execute (bits w 53 49) with
      | .error e => .error e
      | .ok prm =>
        match s.readMem c 3 prm 32 with
        | .error e => .error e
        | .ok n =>
          let d := setOfBits sn
          let sx := s.cntAdj c .execute (bits w 80 78)
          let st := (bits w 77 54 + sx) % 2 ^ 32
          let ngrp := t / 16
          let grp0 := s.cntAdj c .execute (bits w 48 46) * ngrp
          let p := cmprParamOf d st grp0 ngrp false sx n
          match d.check true p.opti with
          | .error e => .error e
          | .ok () =>
            if d.count ≤ st then .error (cmprErr 1 0x01) else
              match cmprCheck p false with
              | .error e => .error e
              | .ok () =>
                .ok { Job.mk0 0x2C w with
                  ptrs := [sn, n, st, sx, grp0, ngrp]
                  reads := [sectorSpan (s.ptrAddr c .execute (bits w 85 81)) 2, sectorSpan prm 1,
                    accSpan col0 (col0 + t - 1)]
                  writes := cmprWrites p }

/-- Checks of STA at issue (R160–R164): ptrs hold the exponent stream's address and the effective transposition.
DEDUCED: log entries 21, 22. -/
def staIssue (s : State) (c : Nat) (w : Body) : Except AccErr Job :=
  let t := bits w 113 106 + 1
  let col0 := bits w 121 114
  let dfmt := bits w 94 91
  if 256 < col0 + t then .error (arrErr 1 0x03)
  else if bit1 w 86 then staCmprIssue s c w
  else if bits w 90 89 = 3 ∨ dfmt = 0xA ∨ dfmt = 0xB then .error (fieldErr .execute)
  else if dfmt = 0xE ∨ dfmt = 0xF then .error (convErr .execute)
  else if !fmtBlock dfmt ∧ (bits w 85 49 ≠ 0) then .error (fieldErr .execute)
  else if bit1 w 100 ∧ 1 < bits w 99 95 then .error (fieldErr .execute)
  else
    match (if fmtBlock dfmt then s.checkPtr c .execute (bits w 53 49) else .ok 0) with
    | .error e => .error e
    | .ok ep =>
      let x := bit1 w 88 != s.sideAt c col0
      let n := staCount x (bits w 90 89) (bits w 105 101 + 1) t
      let es := if fmtBlock dfmt then [⟨ep, ep + n / 32 - 1⟩] else []
      let job : Job := { Job.mk0 0x2C w with
        ptrs := [ep, if x then 1 else 0], reads := [accSpan col0 (col0 + t - 1)], writes := es }
      if bit1 w 100 then .ok job
      else
        let d := s.desc c .execute (bits w 99 95) (bits w 48 46)
        match s.checkDesc c .execute d with
        | .error e => .error e
        | .ok () =>
          if d.total * 32 < (n * fmtBits dfmt / 8 + 31) / 32 * 32 then .error (shapeErr .execute)
          else .ok { job with descs := [d], writes := d.span :: es }

/-- Byte enables of the emitted bytes: pads only where they are written (R163). -/
def staEnables (dfmt : Nat) (pad : Bool) (ls : List Lane) : Nat :=
  let b := fmtBits dfmt / 8
  packBits b (ls.map fun l => if l.isSome || pad then 2 ^ b - 1 else 0)

/-- The conversion of an emission (R164): elements in blocks of 32 where DFMT has blocks. -/
def staConvert (dfmt : Nat) (src : List Nat) : List Nat × List Nat × List Num :=
  let bs := (chunks 32 src.length src).map fun es =>
    let o := convRun 4 dfmt 0 es
    (o, convExamined 4 dfmt 0 o.1 es o.2)
  (bs.flatMap (·.1.2), bs.map (·.1.1), bs.flatMap (·.2))

/-- DEDUCED: log entry 22. -/
def staStore (s : State) (c : Nat) (j : Job) : DoneQ :=
  let w := j.body
  let t := bits w 113 106 + 1
  let col0 := bits w 121 114
  let dfmt := bits w 94 91
  let ls := staEmit (j.ptrs.getD 1 0 == 1) (bits w 90 89) (bits w 105 101 + 1) t
  let block := fmtBlock dfmt
  -- the first uncorrectable element ends the emission; whole sectors, and whole blocks, before it stand
  let bad (l : Lane) : Bool := match l with
    | some (r, k) => (s.core c).accUe.contains (accKey r (col0 + k))
    | none => false
  let stop := ls.findIdx? bad
  let per := 256 / fmtBits dfmt
  let n := match stop with
    | some i => if block then i / (max per 32) * max per 32 else i / per * per
    | none => ls.length
  let ls := ls.take n
  let s := s.accCorrects c ((ls.filter fun l => match l with
    | some (r, k) => (s.core c).accWeak.contains (accKey r (col0 + k))
    | none => false).length)
  let src := ls.map fun l => match l with
    | some (r, k) => s.getAcc c r (col0 + k)
    | none => 0
  let cv := staConvert dfmt src
  let s := s.examine c ⟨3, 0, j.bank, j.index⟩ cv.2.2
  let nb := n * fmtBits dfmt / 8
  let v := packBits (fmtBits dfmt) cv.1
  let err := stop.map fun i => match (staEmit (j.ptrs.getD 1 0 == 1) (bits w 90 89) (bits w 105 101 + 1) t).getD i none with
    | some (r, k) => accUeErr 2 r (col0 + k)
    | none => accUeErr 2 0 0
  let rest (s : State) (q : List (Nat × Sector)) : DoneQ :=
    if block then
      match s.writeAll c .execute 3 (byteWrites (j.ptrs.getD 0 0) (n / 32) (packBits 8 cv.2.1)) with
      | (s, some e) => (s, q, some e)
      | (s, none) => (s, q, err)
    else (s, q, err)
  if bit1 w 100 then
    rest s ((bitsSectors ((nb + 31) / 32) v).map fun x => (4 + bits w 95 95, x))
  else
    let d := lastDesc j
    let be := if block then 2 ^ nb - 1 else staEnables dfmt (bit1 w 87) ls
    let ws := (List.range ((nb + 31) / 32)).filterMap fun k =>
      let e := be / 2 ^ (32 * k) % 2 ^ 32
      if e = 0 then none else some (d.sector k, BitVec.ofNat 256 (v / 2 ^ (256 * k)), BitVec.ofNat 32 e)
    match s.writeAll c .execute 3 ws with
    | (s, some e) => (s, [], some e)
    | (s, none) => rest s []

/-- The compression stage (R165): CMPR in capped mode over the accumulator. DEDUCED: log entry 22. -/
def staCmpr (s : State) (c : Nat) (j : Job) : DoneQ :=
  let w := j.body
  let p := cmprParamOf (setOfBits (j.ptrs.getD 0 0)) (j.ptrs.getD 2 0) (j.ptrs.getD 4 0) (j.ptrs.getD 5 0) false
    (j.ptrs.getD 3 0) (j.ptrs.getD 1 0)
  match accRows s c 5 (bits w 121 114) (16 * p.ngrp) with
  | .error e => (s, [], some e)
  | .ok (s, rows) =>
    let r := cmprRun s c p ⟨3, 0, j.bank, j.index⟩ 4 rows
    (r.1, [], r.2)

def staCompute (s : State) (c : Nat) (j : Job) : DoneQ := if bit1 j.body 86 then staCmpr s c j else staStore s c j

end Sys2Proof.Machine
end

