-- ==== Sys2Proof/Machine/Streams.lean ====
section
/-! DEFINITION. The streams: queues (R124, R125), ordering (R122, R123), errors (R149), counters, comparators, branches
and loops (R140–R143), HALT and banks (R144–R146), SIG and WAIT (R130, R183–R192), HOIST (R194, R195) and SYNCQ (R131). -/

namespace Sys2Proof.Machine

open Sys2Proof

/-! Queues. -/

def qCap (q : Nat) : Nat := if q < 4 then 256 else 128

namespace State

def queue (s : State) (c q : Nat) : List QSlot := mget (s.core c).queues [] q
def qLen (s : State) (c q : Nat) : Nat := (s.queue c q).length
def qSpace (s : State) (c q : Nat) : Nat := qCap q - s.qLen c q

def setQueue (s : State) (c q : Nat) (l : List QSlot) : State :=
  s.modCore c fun k => { k with queues := if l.isEmpty then mdel k.queues q else mset k.queues q l }

/-- Filled sectors put in a queue. -/
def qPush (s : State) (c q : Nat) (ds : List Sector) : State :=
  s.setQueue c q (s.queue c q ++ ds.map QSlot.filled)

/-- Space for a load group's sectors (R124). -/
def qReserve (s : State) (c q gid n : Nat) : State :=
  s.setQueue c q (s.queue c q ++ List.replicate n (.reserved gid))

/-- Filled sectors at the head of a queue, at most `n`. -/
def qReady (s : State) (c q n : Nat) : List Sector :=
  ((s.queue c q).take n).foldr (fun x (acc : List Sector) => match x with
    | .filled d => d :: acc
    | .reserved _ => []) []

/-- The first `n` sectors leave a queue. -/
def qDrop (s : State) (c q n : Nat) : State := s.setQueue c q ((s.queue c q).drop n)

end State

/-- A load group's slots filled, in order. -/
def fillSlots (gid : Nat) : List QSlot → List Sector → List QSlot
  | [], _ => []
  | .reserved g :: l, d :: ds => if g = gid then .filled d :: fillSlots gid l ds else .reserved g :: fillSlots gid l (d :: ds)
  | x :: l, ds => x :: fillSlots gid l ds

/-! Errors, issue and ordering. -/

/-- An error of an instruction (R149): the records of the memories, then the halt. -/
def State.raise (s : State) (c : Nat) (t : Strm) (iid index bank : Nat) (e : AccErr) : State :=
  (s.noteAny c e).haltCore c t iid e.code index bank e.detail

/-- An error of the instruction that a stream is issuing. -/
def State.raiseAt (s : State) (c : Nat) (t : Strm) (e : AccErr) : State :=
  s.raise c t (s.core c).nextIid (s.strmIndex c t) (s.strmBank c t) e

/-- The stream keeps the instruction and tries it again (R121, R122, R125). DEDUCED: log entry 15. -/
def State.holdIssue (s : State) (c : Nat) (t : Strm) (op : Nat) (w : Body) (on : Nat) : State :=
  (s.modStrm c t fun x => { x with hold := .issue op w }).setWaitOn c t on

/-- The stream goes on at an index. DEDUCED: log entry 13. -/
def State.goTo (s : State) (c : Nat) (t : Strm) (i : Nat) : State :=
  let s := s.setFld (Reg.STRM_STAT c (sidx t)) Fld.STRM_STAT_INDEX (i % 2048)
  s.modStrm c t fun x => { x with pastEnd := decide (2048 ≤ i) }

/-- The stream has issued an instruction and goes on at index `i`; the core counts it. DEDUCED: log entry 13. -/
def State.issuedTo (s : State) (c : Nat) (t : Strm) (i : Nat) : State :=
  ((s.modCore c fun k => { k with nextIid := k.nextIid + 1 }).goTo c t i).resume c t

def State.issued (s : State) (c : Nat) (t : Strm) : State := s.issuedTo c t (s.strmIndex c t + 1)

/-- The stream has issued an instruction that holds it until something arrives. -/
def State.issuedHolding (s : State) (c : Nat) (t : Strm) (h : Hold) (on : Nat) : State :=
  let s := (s.modCore c fun k => { k with nextIid := k.nextIid + 1 }).goTo c t (s.strmIndex c t + 1)
  (s.modStrm c t fun x => { x with hold := h }).setWaitOn c t on

/-- DEPTH shows the open loops (R150). -/
def State.setLoops (s : State) (c : Nat) (t : Strm) (l : List LoopFrame) : State :=
  (s.modStrm c t fun x => { x with loops := l }).setFld (Reg.STRM_STAT c (sidx t)) Fld.STRM_STAT_DEPTH l.length

/-- Instructions held by the execute units. -/
def Core.jobs (k : Core) : List Job :=
  k.units.flatMap fun (e : Nat × UnitState) => e.2.run.toList ++ e.2.wait.toList

/-- A span list meets another. -/
def spansMeet (a b : List Span) : Bool := a.any fun x => b.any fun y => x.meets y

/-- R122: reads wait for earlier writes, writes for earlier reads and writes. -/
def mustWait (reads writes : List Span) (r w : List Span) : Bool := spansMeet w (reads ++ writes) || spansMeet r writes

/-- An access-stream instruction with these spans waits for an earlier one. -/
def State.accessWaits (s : State) (c : Nat) (reads writes : List Span) : Bool :=
  (s.core c).flights.any fun f => mustWait reads writes f.reads f.writes

/-- Memory spans only: the accumulator's are ordered by R69 in the units. -/
def memSpans (l : List Span) : List Span := l.filter fun x => decide (x.lo < 2 ^ 48)

/-- An execute-stream instruction with these spans waits for an earlier one. -/
def State.executeWaits (s : State) (c : Nat) (reads writes : List Span) : Bool :=
  (s.core c).jobs.any fun j => mustWait (memSpans reads) (memSpans writes) (memSpans j.reads) (memSpans j.writes)

/-- R123: the earlier work of a stream has completed. -/
def State.earlierDone (s : State) (c : Nat) (t : Strm) : Bool :=
  match t with
  | .access => (s.core c).flights.isEmpty && (s.core c).engine.isNone && !s.txWaiting c
  | .execute => (s.core c).jobs.isEmpty

/-! The stream's own instructions. -/

/-- Bank readiness (R145, R146). -/
def State.bankReady (s : State) (c : Nat) (t : Strm) (b : Nat) : Bool :=
  let ready := s.flag (Reg.IMEM_LD_STAT c (sidx t)) (if b = 0 then Fld.IMEM_LD_STAT_READY0 else Fld.IMEM_LD_STAT_READY1)
  ready && !(s.strm c t).load.any fun l => l.bank == b

/-- HALT (R143, R146): closes every loop; stops the stream in state 2, or swaps banks when the other is ready. -/
def issueHalt (s : State) (c : Nat) (t : Strm) (w : Body) : State :=
  let s := s.setLoops c t []
  if !bit1 w 121 then
    let s := s.issued c t
    (s.stopStream c t 2)
  else
    let b := s.strmBank c t
    if s.bankReady c t (1 - b) then
      (s.setFld (Reg.STRM_CTL c (sidx t)) Fld.STRM_CTL_ABANK (1 - b)).issuedTo c t 0
    else s.holdIssue c t 0x01 w 7

def State.setCnt (s : State) (c : Nat) (t : Strm) (k v : Nat) : State :=
  s.setReg (Reg.CNT c (sidx t) k) (BitVec.ofNat 64 (v % 2 ^ 32))

/-- Opcode of the instruction at an index of the active bank. DESIGN CHOICE: log entry 16. -/
def State.opAt (s : State) (c : Nat) (t : Strm) (i : Nat) : Nat :=
  (mget (s.strm c t).imem 0 (s.strmBank c t * 2048 + i)).toNat / 2 ^ 122

/-- LOOP (R142). -/
def issueLoop (s : State) (c : Nat) (t : Strm) (w : Body) : State :=
  let i := s.strmIndex c t
  let e := bits w 93 83
  let loops := (s.strm c t).loops
  let n := if bit1 w 121 then s.cnt c t (bits w 120 118) else bits w 117 94
  let ctr := bits w 82 80
  if e ≤ i then s.raiseAt c t (fieldErr t)
  else if s.opAt c t e ≠ 0x03 then s.raiseAt c t (plainErr (strmCode t 0x07))
  else if n = 0 then s.issuedTo c t (e + 1)
  else if 4 ≤ loops.length then s.raiseAt c t (plainErr (strmCode t 0x06))
  else
    let s := s.setLoops c t (⟨i + 1, e, n, ctr⟩ :: loops)
    (if ctr = 0 then s else s.setCnt c t ctr 0).issued c t

/-- ENDL (R142, R143). -/
def issueEndl (s : State) (c : Nat) (t : Strm) (_w : Body) : State :=
  match (s.strm c t).loops with
  | [] => s.raiseAt c t (plainErr (strmCode t 0x07))
  | f :: fs =>
    if f.endIdx ≠ s.strmIndex c t then s.raiseAt c t (plainErr (strmCode t 0x07))
    else
      let s := if f.ctr = 0 then s else s.setCnt c t f.ctr (s.cnt c t f.ctr + 1)
      if 1 < f.left then (s.setLoops c t ({ f with left := f.left - 1 } :: fs)).issuedTo c t f.first
      else (s.setLoops c t fs).issued c t

def compRel (k : Nat) : FieldPos := ⟨6 * k + 3, 3⟩
def compSel (k : Nat) : FieldPos := ⟨6 * k, 3⟩

/-- CSET (R140). -/
def issueCset (s : State) (c : Nat) (t : Strm) (w : Body) : State :=
  let tgt := bits w 121 118
  let sel := bits w 117 115
  let rel := bits w 114 112
  let imm := bits w 31 0
  if tgt < 8 ∧ sel = 0 ∧ rel = 0 then (s.setCnt c t tgt imm).issued c t
  else if 8 ≤ tgt ∧ tgt < 12 ∧ rel < 6 then
    let k := tgt - 8
    let cfg := Reg.COMP_CFG c (sidx t)
    (((s.setReg (Reg.COMP_REF c (sidx t) k) (BitVec.ofNat 64 imm)).setFld cfg (compRel k) rel).setFld cfg (compSel k)
      sel).issued c t
  else s.raiseAt c t (fieldErr t)

/-- CADD (R140). -/
def issueCadd (s : State) (c : Nat) (t : Strm) (w : Body) : State :=
  let d := bits w 121 119
  let v := if bit1 w 118 then s.cnt c t (bits w 117 115) else bits w 31 0
  (s.setCnt c t d (s.cnt c t d + v)).issued c t

/-- Relations of R140. -/
def relHolds (rel v ref : Nat) : Bool :=
  match rel with
  | 0 => v == ref
  | 1 => v != ref
  | 2 => decide (v < ref)
  | 3 => decide (ref ≤ v)
  | 4 => decide (sext 32 v < sext 32 ref)
  | _ => decide (sext 32 ref ≤ sext 32 v)

/-- Loops that stay open over a branch to an index: those whose body holds it (R143). -/
def leaveLoops (target : Nat) (l : List LoopFrame) : List LoopFrame :=
  l.filter fun f => decide (f.first ≤ target) && decide (target ≤ f.endIdx)

/-- CMPB (R141, R143). -/
def issueCmpb (s : State) (c : Nat) (t : Strm) (w : Body) : State :=
  let k := bits w 121 120
  let cfg := Reg.COMP_CFG c (sidx t)
  let rel := s.fld cfg (compRel k)
  if 6 ≤ rel then s.raiseAt c t (fieldErr t)
  else if relHolds rel (s.cnt c t (s.fld cfg (compSel k))) (s.reg (Reg.COMP_REF c (sidx t) k)).toNat != bit1 w 119 then
    (s.setLoops c t (leaveLoops (bits w 118 108) (s.strm c t).loops)).issuedTo c t (bits w 118 108)
  else s.issued c t

/-! Sequence entries (R190). -/

/-- The core's sequence entry bound to a rank. -/
def State.seqEntry (s : State) (c dev : Nat) : Option Nat :=
  (List.range 16).find? fun e => s.flag (Reg.SEQ c e) Fld.SEQ_VALID && s.fld (Reg.SEQ c e) Fld.SEQ_DEV == dev

/-- WSEQ of an entry. -/
def State.wseq (s : State) (c e : Nat) : Nat := s.fld (Reg.SEQ c e) Fld.SEQ_WSEQ

/-- Sectors sent to a rank counted in its entry. -/
def State.countSent (s : State) (c dev n : Nat) : State :=
  match s.seqEntry c dev with
  | some e => s.addMod (Reg.SEQ c e) Fld.SEQ_WSEQ n
  | none => s

def penErrOf (cause : Nat) : AccErr := plainErr (penCode cause)

/-- A message head of KIND 3 (R238). DESIGN CHOICE: log entry 33. -/
def signalMsg (dst src core pen op amount wseq : Nat) : Msg :=
  { dst := BitVec.ofNat 10 dst, srcDev := BitVec.ofNat 10 src, srcCore := BitVec.ofNat 12 core, kind := 3
    tag := BitVec.ofNat 12 pen, flags := BitVec.ofNat 16 op, addr := BitVec.ofNat 48 (wseq * 2 ^ 16 + amount), vc := 0
    data := [] }

/-- A message leaves for the bank of a pennant. -/
def State.postPen (s : State) (k : Nat) (op : PenOp) : State :=
  { s with penMsgs := s.penMsgs ++ [(⟨s.nextId, k, op⟩ : PenMsg)], nextId := s.nextId + 1 }

/-- SIG (R123, R130, R183, R184, R187, R188, R190): what cannot be translated or is not bound raises at issue; the signal waits
for the stream's earlier work. -/
def issueSig (s : State) (c : Nat) (t : Strm) (w : Body) : State :=
  let scope := bits w 121 120
  let pen := bits w 119 108
  let op := bits w 102 102
  let amount := bits w 101 86
  let src : Signaller := ⟨s.rank, c, sidx t, false⟩
  let after (f : State) : State := if s.earlierDone c t then f else s.holdIssue c t 0x07 w 8
  if scope = 3 ∨ (scope = 0 ∧ 63 < pen) then s.raiseAt c t (fieldErr t)
  else if scope = 0 then
    after (match s.penSignal (localKey c pen) src op amount with
      | .ok s => s.issued c t
      | .error e => s.raiseAt c t (penErrOf e))
  else if scope = 1 then
    match s.penTranslate (s.coreCtx c) pen with
    | none => s.raiseAt c t (penErrOf 4)
    | some k => after ((s.postPen k
        (.sig ⟨c, t⟩ op amount (s.core c).nextIid (s.strmIndex c t) (s.strmBank c t))).issuedHolding c t (.signal (s.core c).nextIid) 4)
  else
    match s.checkPtr c t (bits w 107 103) with
    | .error e => s.raiseAt c t e
    | .ok _ =>
      let dev := s.ptrDev c t (bits w 107 103)
      match s.seqEntry c dev with
      | none => s.raiseAt c t (penErrOf 5)
      | some e =>
        after (if dev = s.rank then
            (s.postPen 0 (.toPending src pen op amount (s.wseq c e))).issued c t
          else (s.nirloSend (s.coreCtx c) (signalMsg dev s.rank c pen op amount (s.wseq c e))).issued c t)

/-- The stream becomes a waiter with what it knows (R185). -/
def State.register (s : State) (c : Nat) (t : Strm) (k : Nat) (wt : Waiter) : State :=
  let s := s.issuedHolding c t .pennant 4
  if isLocalPen k then
    { s with penTable := mset s.penTable k (mget s.penTable [] k ++ [wt]) }
  else s.postPen k (.wait wt)

/-- An earlier waiter in MODE 2, registered or on its way, holds back a later one (R185). -/
def State.takesBefore (s : State) (k : Nat) : Bool :=
  ((mget s.penTable [] k).any fun x => x.mode == 2) || s.penMsgs.any fun (m : PenMsg) => (match m.op with
    | .wait x => m.pen == k && x.mode == 2
    | _ => false)

/-- WAIT over resolved pennants (R185). -/
def State.waitOn (s : State) (c : Nat) (t : Strm) (k k2 mode imm : Nat) : State :=
  let v := s.penVal k
  let wt : Waiter := ⟨⟨c, t⟩, mode, imm, k2, if mode = 1 then [v] else [], if mode = 1 then [s.penVal k2] else []⟩
  if mode = 2 then
    if imm = 0 then s.issued c t
    else if imm ≤ v ∧ !s.takesBefore k then ((s.setPenVal k (v - imm)).penChanged k).issued c t
    else s.register c t k wt
  else if wt.holds v then s.issued c t
  else s.register c t k wt

/-- A pennant that SIG or WAIT names: a local one, or a translated shared one. -/
def State.penNamed (s : State) (c scope pen : Nat) : Option Nat :=
  if scope = 0 then some (localKey c pen) else s.penTranslate (s.coreCtx c) pen

/-- WAIT (R130, R185, R187). -/
def issueWait (s : State) (c : Nat) (t : Strm) (w : Body) : State :=
  let scope := bits w 121 120
  let pen := bits w 119 108
  let pen2 := bits w 107 96
  let mode := bits w 95 94
  let imm := bits w 47 0
  if 2 ≤ scope ∨ mode = 3 ∨ (scope = 0 ∧ (63 < pen ∨ (mode = 1 ∧ 63 < pen2))) ∨ (mode = 2 ∧ 2 ^ 32 ≤ imm) then
    s.raiseAt c t (fieldErr t)
  else
    match s.penNamed c scope pen, (if mode = 1 then s.penNamed c scope pen2 else some 0) with
    | some k, some k2 =>
      if (mode = 1 ∧ (s.penCounting k ∨ s.penCounting k2)) ∨ (mode = 2 ∧ ¬ s.penCounting k) then
        s.raiseAt c t (penErrOf 3)
      else
        let v := if mode = 0 then (imm + s.cntAdj c t (bits w 93 91)) % 2 ^ 48 else imm
        s.waitOn c t k k2 mode v
    | _, _ => s.raiseAt c t (penErrOf 4)

/-- HOIST (R194, R195): the arrival leaves once two rounds are not in flight before it. DEDUCED: log entry 36. -/
def issueHoist (s : State) (c : Nat) (t : Strm) (w : Body) : State :=
  let cross := bit1 w 121
  let hid := bits w 120 113
  if cross ∧ 63 < hid then s.raiseAt c t (fieldErr t)
  else
    match s.hoistBinding c t cross hid with
    | none => s.raiseAt c t (plainErr 0x1442)
    | some b =>
      match s.hoistTranslate (s.coreCtx c) cross hid with
      | none => s.raiseAt c t (plainErr 0x1441)
      | some k =>
        let round := s.fld b Fld.HBIND_ROUND
        if !s.earlierDone c t then s.holdIssue c t 0x16 w 8
        else if roundBlocked round (s.hoistDone k) then s.holdIssue c t 0x16 w 5
        else
          let waits := s.flag b Fld.HBIND_WAIT
          let m : HoistMsg := ⟨s.nextId, k, ⟨c, t⟩, round, true, waits⟩
          let s := { s.addMod b Fld.HBIND_ROUND 1 with hoistMsgs := s.hoistMsgs ++ [m], nextId := s.nextId + 1 }
          if waits then s.issuedHolding c t (.hoist k round) 5 else s.issued c t

/-- SYNCQ (R131): the named queues are empty and every instruction that took from them has finished. -/
def issueSyncq (s : State) (c : Nat) (t : Strm) (w : Body) : State :=
  let qs := (List.range 4).filter fun n => bit1 w (118 + n)
  if qs.all fun q => s.qLen c q == 0 && !(s.core c).jobs.any fun j => j.took.contains q then s.issued c t
  else s.holdIssue c t 0x17 w 6

end Sys2Proof.Machine
end

