-- ==== Sys2Proof/Machine/Moves.lean ====
section
/-! DEFINITION. The moves of the access stream (R121, R125, R155–R159): LDQ, LDX, STQ, FILL, COPY and SEND, their sector
requests, and the fill and copy engine (R175). -/

namespace Sys2Proof.Machine

open Sys2Proof

/-! Sector requests. -/

/-- A sector write of the access stream: done at once in the own scratchpad, a request elsewhere. A SEND's sector is
counted where it lands (R191). -/
def State.writeOut (s : State) (c iid a : Nat) (d : Sector) (sent lcr : Bool) : Except AccErr State :=
  match s.reachSec c .access a with
  | .error e => .error e
  | .ok l =>
    if l.own c then
      match s.writeSec c .access 1 a d beAll with
      | .error e => .error e
      | .ok s => .ok (if sent then s.notice s.rank c else s)
    else if s.cutOff l then .error ⟨0x34C4, a, some (l, 2)⟩
    else .ok (s.request c iid l lcr sent (.write d beAll))

/-- A source sector of a load: its data at once from the own scratchpad, otherwise the place to ask. DEDUCED: log entry 18. -/
def State.readIn (s : State) (c a : Nat) : Except AccErr (Loc × Option Sector) :=
  match s.reachSec c .access a with
  | .error e => .error e
  | .ok l =>
    if l.own c then
      match s.readSec c .access 1 a with
      | .error e => .error e
      | .ok d => .ok (l, some d)
    else if s.cutOff l then .error ⟨0x34C4, a, some (l, 2)⟩
    else .ok (l, none)

/-! Load groups. -/

/-- Elements of one group, in which whole source sectors fill whole queue sectors. DEDUCED: log entry 26. -/
def groupElems (s d : Nat) : Nat := if mxfp6 s || mxfp6 d then 128 else max (256 / fmtBits s) (256 / fmtBits d)

/-- Elements converted block by block (R86), and what the counters examine. -/
def convAll (s d : Nat) (scale : Nat → Nat) (es : List Nat) : List Nat × List Num :=
  let bs := (List.range ((es.length + 31) / 32)).map fun b =>
    let x := (es.drop (32 * b)).take 32
    let o := convRun s d (scale b) x
    (o.2, convExamined s d (scale b) o.1 x o.2)
  (bs.flatMap (·.1), bs.flatMap (·.2))

/-- A complete load group converted into its queue sectors. -/
def groupConvert (g : LoadGroup) : List Sector × List Num :=
  let data := (List.range g.nData).map fun i => mget g.got 0 i
  if fmtPlain g.sfmt g.qfmt then (data, [])
  else
    let es := unpackBits (fmtBits g.sfmt) g.nElem (sectorsBits data)
    let sc (b : Nat) : Nat :=
      let x := g.scaleAt.getD b (0, 0)
      (mget g.got 0 x.1).toNat / 256 ^ x.2 % 256
    let r := convAll g.sfmt g.qfmt sc es
    (bitsSectors g.nOut (packBits (fmtBits g.qfmt) r.1), r.2)

/-- A sector delivered to its group; the last one fills the group's queue sectors. -/
def State.deliver (s : State) (c gid pos : Nat) (d : Sector) : State :=
  match (s.core c).groups.find? fun g => g.gid == gid with
  | none => s
  | some g =>
    let g := { g with got := mset g.got pos d }
    if g.got.length < g.nSrc then
      s.modCore c fun k => { k with groups := k.groups.map fun x => if x.gid = gid then g else x }
    else
      let r := groupConvert g
      let s := s.modCore c fun k => { k with groups := k.groups.filter fun x => x.gid != gid }
      let s := s.setQueue c g.q (fillSlots gid (s.queue c g.q) r.1)
      s.examine c ⟨5, 1, g.bank, g.index⟩ r.2

/-! LDQ and LDX, group by group. -/

/-- The sector of LDX's index list that holds the index of a row (R157): the one read last, or one to read. -/
def State.indexOf (s : State) (c : Nat) (x : Desc) (row : Nat) (last : Option (Nat × Sector)) :
    Except AccErr (Nat × Sector) :=
  match last with
  | some (k, d) =>
    if k = row / 8 then .ok (k, d) else (s.readSec c .access 1 (x.sector (row / 8)) x.lcr).map fun d => (row / 8, d)
  | none => (s.readSec c .access 1 (x.sector (row / 8)) x.lcr).map fun d => (row / 8, d)

/-- Address of source sector `n` of LDX, from its row's index (R158). -/
def ldxAddr (m : Move) (n : Nat) (d : Sector) : Except AccErr Nat :=
  let row := n / m.desc.c0
  let v := d.toNat / 2 ^ (32 * (row % 8)) % 2 ^ 32
  if m.desc.c1 ≤ v then .error ⟨0x1008, v + row * 2 ^ 32, none⟩
  else .ok ((((m.desc.base : Int) + v * m.desc.s1 + (n % m.desc.c0 : Nat) * m.desc.s0) % (2 ^ 48 : Int)).toNat)

/-- Addresses of the next source sectors of a load up to the first that fails (R152, R158), and the index sector read last. -/
def State.srcAddrs (s : State) (c : Nat) (m : Move) :
    Nat → Nat → Option (Nat × Sector) → List Nat × Option AccErr × Option (Nat × Sector)
  | 0, _, i => ([], none, i)
  | k + 1, n, i =>
    match m.kind, m.sdesc with
    | .ldx, some x =>
      match s.indexOf c x (n / m.desc.c0) i with
      | .error e => ([], some e, i)
      | .ok i' =>
        match ldxAddr m n i'.2 with
        | .error e => ([], some e, some i')
        | .ok a => let r := s.srcAddrs c m k (n + 1) (some i'); (a :: r.1, r.2)
    | _, _ => let r := s.srcAddrs c m k (n + 1) i; (m.desc.sector n :: r.1, r.2)

/-- The source sectors of a load, up to the first that fails. -/
def State.srcList (s : State) (c : Nat) : List Nat → List (Loc × Option Sector) × Option AccErr
  | [] => ([], none)
  | a :: as =>
    match s.readIn c a with
    | .error e => ([], some e)
    | .ok x => let r := s.srcList c as; (x :: r.1, r.2)

/-- Scale sectors of blocks `b0 .. b0 + n - 1`: the sectors' numbers in SSRC's sequence, ascending. -/
def scaleSectors (b0 n : Nat) : List Nat :=
  if n = 0 then [] else (List.range ((b0 + n - 1) / 32 - b0 / 32 + 1)).map fun i => b0 / 32 + i

def State.scaleList (s : State) (c : Nat) (x : Desc) : List Nat → Except AccErr (List (Loc × Option Sector))
  | [] => .ok []
  | n :: ns =>
    match s.readIn c (x.sector n) with
    | .error e => .error e
    | .ok y =>
      match s.scaleList c x ns with
      | .error e => .error e
      | .ok ys => .ok (y :: ys)

/-- Requests of a group's sectors from position `i` on; those at hand are delivered at once; remote scratchpads are always
latency-critical (R221). DEDUCED: log entry 26. -/
def State.askGroup (s : State) (c : Nat) (m : Move) (lcr : Bool) (gid : Nat) : Nat → List (Loc × Option Sector) → State
  | _, [] => s
  | i, (l, x) :: rest =>
    let s := match x with
      | some d => s.deliver c gid i d
      | none => s.request c m.iid l (lcr || l.space == Space.spad) false (.read gid i)
    s.askGroup c m lcr gid (i + 1) rest

/-- What one piece of a move did. -/
inductive Piece where
  /-- The move goes on. -/
  | more (s : State) (m : Move)
  /-- It waits, with the WAITON value. -/
  | wait (m : Move) (on : Nat)
  /-- It waits for a sector, or has corrected words to count. -/
  | ask (m : Move) (e : AccErr)
  /-- It has stopped by an error. -/
  | stop (s : State)

/-- A move meets an error, or waits for what it asks for. -/
def moveErr (s : State) (c : Nat) (m : Move) (e : AccErr) : Piece :=
  if e.asks then .ask m e else .stop (s.raise c .access m.iid m.index m.bank e)

/-- One group of a load: its indices read (R158), space reserved, requests issued (R121, R124, R125).
DEDUCED: log entry 26. -/
def loadPiece (s : State) (c : Nat) (m : Move) : Piece :=
  let plain := fmtPlain m.sfmt m.qfmt
  let ws := fmtBits m.sfmt
  let wq := fmtBits m.qfmt
  let ge := groupElems m.sfmt m.qfmt
  let per := if plain then 1 else ge * ws / 256
  let r := min per (m.total - m.pos)
  let elems (k : Nat) : Nat := if k = per then ge else k * 256 / ws
  let outs (k : Nat) : Nat := if plain then k else (elems k * wq + 255) / 256
  let ad := s.srcAddrs c m r m.pos m.index1
  let m := { m with index1 := ad.2.2 }
  let src := s.srcList c ad.1
  match src.2.orElse fun _ => ad.2.1 with
  | some e =>
    if e.asks then .ask m e
    else if src.1.isEmpty then .stop (s.raise c .access m.iid m.index m.bank e)
    else if s.qSpace c m.q < outs src.1.length then .wait m 1
    else go m plain ws elems outs src.1 (some e) r
  | none => if s.qSpace c m.q < outs src.1.length then .wait m 1 else go m plain ws elems outs src.1 none r
where
  /-- The group's sectors that can be had, and the error that ends the move after them. -/
  go (m : Move) (plain : Bool) (ws : Nat) (elems outs : Nat → Nat) (src : List (Loc × Option Sector)) (err : Option AccErr)
      (r : Nat) : Piece :=
    let n := src.length
    let block := fmtBlock m.sfmt && !plain && m.kind == .ldq
    let b0 := m.pos * 256 / ws / 32
    let nb := if block then (elems n + 31) / 32 else 0
    let ss := scaleSectors b0 nb
    match (match m.sdesc with
        | some x => if block then s.scaleList c x ss else .ok []
        | none => .ok []) with
    | .error e => moveErr s c m e
    | .ok sl =>
      let gid := (s.core c).nextGid
      let g : LoadGroup :=
        { gid := gid, iid := m.iid, bank := m.bank, index := m.index, q := m.q, sfmt := m.sfmt, qfmt := m.qfmt, nData := n
          nElem := elems n, nOut := outs n, nSrc := n + ss.length
          scaleAt := (List.range nb).map fun j => (n + ((b0 + j) / 32 - b0 / 32), (b0 + j) % 32), got := [] }
      let s := s.qReserve c m.q gid (outs n)
      let s := s.modCore c fun k => { k with groups := k.groups ++ [g], nextGid := gid + 1 }
      let s := (s.askGroup c m m.desc.lcr gid 0 src).askGroup c m (m.sdesc.any (·.lcr)) gid n sl
      match err with
      | some e => .stop (s.raise c .access m.iid m.index m.bank e)
      | none => .more s { m with pos := m.pos + r }

/-! STQ and SEND from a queue. -/

/-- Sector writes of a move in order, up to the first that fails. DEDUCED: log entry 18. -/
def State.writeOuts (s : State) (c iid : Nat) : List (Nat × Sector) → State × Option AccErr
  | [] => (s, none)
  | (a, d) :: ws =>
    match s.writeOut c iid a d false false with
    | .error e => (s, some e)
    | .ok s => s.writeOuts c iid ws

/-- One group of STQ: queue sectors taken, converted and written (R155). DEDUCED: log entry 26. -/
def storePiece (s : State) (c : Nat) (m : Move) : Piece :=
  let plain := fmtPlain m.qfmt m.sfmt
  let ws := fmtBits m.qfmt
  let wd := fmtBits m.sfmt
  let per := if plain then 1 else groupElems m.qfmt m.sfmt * wd / 256
  let r := min per (m.total - m.pos)
  let ne := r * 256 / wd
  let take := if plain then r else ne * ws / 256
  let ds := s.qReady c m.q take
  if ds.length < take then .wait m 2
  else
    let s := s.qDrop c m.q take
    let cv : List Sector × List Num :=
      if plain then (ds, [])
      else
        let o := convAll m.qfmt m.sfmt (fun _ => 0) (unpackBits ws ne (sectorsBits ds))
        (bitsSectors r (packBits wd o.1), o.2)
    let s := s.examine c ⟨6, 1, m.bank, m.index⟩ cv.2
    match s.writeOuts c m.iid (((List.range r).map fun i => m.desc.sector (m.pos + i)).zip cv.1) with
    | (s, some e) => .stop (s.raise c .access m.iid m.index m.bank e)
    | (s, none) => .more s { m with pos := m.pos + r }

/-- The route of a SEND's sectors to the stop of the port group that takes them to another device (R204, R210). -/
def State.sendRouted (s : State) (c dev : Nat) : Bool :=
  match s.nirloPort (s.coreCtx c) dev c with
  | some p =>
    match s.stopFor c (12 + p / 4) with
    | some e => s.route c (stopDest e) != .unreachable
    | none => false
  | none => true

/-- Sectors of a SEND delivered to their channel: to this device (R191, R211) or to another (R238). -/
def State.sendOut (s : State) (c iid dev vc rtag a : Nat) (ds : List Sector) : State × Option AccErr :=
  if dev = s.rank then
    if vc = 2 then
      let f (i : Nat) (d : Sector) : RedFlit := ⟨c, 0, rtag, (a + 32 * i) % 2 ^ 48, d, [⟨dev, c, iid⟩], none⟩
      -- a sector that fails R154 or R210 ends the SEND
      let rec go (s : State) : List (Nat × Sector) → State × Option AccErr
        | [] => (s, none)
        | (i, d) :: rest =>
          match s.reachSec c .access ((a + 32 * i) % 2 ^ 48) with
          | .error e => (s, some e)
          | .ok _ => go ({ s with redFlits := s.redFlits ++ [f i d] }.countSent c dev 1) rest
      go s ((List.range ds.length).zip ds)
    else
      let rec put (s : State) : List (Nat × Sector) → State × Option AccErr
        | [] => (s, none)
        | (x, d) :: rest =>
          match s.writeOut c iid x d true (vc == 1) with
          | .error e => (s, some e)
          | .ok s => put (s.countSent c dev 1) rest
      put s (((List.range ds.length).map fun i => (a + 32 * i) % 2 ^ 48).zip ds)
  else if !s.sendRouted c dev then (s, some ⟨strmCode .access 0x0C, a, none⟩)
  else
    let msgs := ((List.range ((ds.length + 63) / 64)).map fun k =>
      ({ dst := BitVec.ofNat 10 dev, srcDev := BitVec.ofNat 10 s.rank, srcCore := BitVec.ofNat 12 c
         kind := if vc = 2 then 4 else 0, tag := if vc = 2 then BitVec.ofNat 12 rtag else 0, flags := 0
         addr := BitVec.ofNat 48 (a + 2048 * k), vc := BitVec.ofNat 2 vc, nsecM1 := BitVec.ofNat 6 (min 64 (ds.length - 64 * k) - 1)
         data := (ds.drop (64 * k)).take 64 } : Msg))
    ((msgs.foldl (fun s m => s.nirloSend (s.coreCtx c) m) s).countSent c dev ds.length, none)

/-- One sector of a SEND from a return queue (R131). DEDUCED: log entry 26. -/
def sendPiece (s : State) (c : Nat) (m : Move) : Piece :=
  match s.qReady c m.q 1 with
  | d :: _ =>
    match (s.qDrop c m.q 1).sendOut c m.iid m.dev m.vc m.rtag ((m.dst + 32 * m.pos) % 2 ^ 48) [d] with
    | (s, some e) => .stop (s.raise c .access m.iid m.index m.bank e)
    | (s, none) => .more s { m with pos := m.pos + 1 }
  | [] => .wait m 2

/-! Moves along descriptors that reach outside the core's scratchpad (R175), and SEND (R155). -/

/-- A sector of FILL. -/
def fillPiece (s : State) (c : Nat) (m : Move) : Piece :=
  match s.writeOut c m.iid (m.desc.sector m.pos) m.value false false with
  | .error e => .stop (s.raise c .access m.iid m.index m.bank e)
  | .ok s => .more s { m with pos := m.pos + 1 }

/-- A sector of COPY: read once the instruction's own writes to it are done, then written (R155). -/
def copyPiece (s : State) (c : Nat) (m : Move) : Piece :=
  let x := m.sdesc.getD m.desc
  if s.reqs.any fun r => r.core == c && r.iid == m.iid && r.addr == x.sector m.pos && (match r.kind with
      | .write .. => true
      | _ => false) then .wait m 3
  else
    match s.readSec c .access 1 (x.sector m.pos) x.lcr with
    | .error e => moveErr s c m e
    | .ok d =>
      match s.writeOut c m.iid (m.desc.sector m.pos) d false false with
      | .error e => .stop (s.raise c .access m.iid m.index m.bank e)
      | .ok s => .more s { m with pos := m.pos + 1 }

/-- Source sectors up to the first that fails. -/
def State.readUpTo (s : State) (c : Nat) (d : Desc) : Nat → Nat → List Sector × Option AccErr
  | 0, _ => ([], none)
  | k + 1, n =>
    match s.readSec c .access 1 (d.sector n) d.lcr with
    | .error e => ([], some e)
    | .ok x => let r := s.readUpTo c d k (n + 1); (x :: r.1, r.2)

/-- The next sectors of a SEND along a descriptor: one to this device, a message of up to 64 to another (R238). -/
def sendDescPiece (s : State) (c : Nat) (m : Move) : Piece :=
  let r := if m.dev = s.rank then 1 else min 64 (m.total - m.pos)
  let rd := s.readUpTo c m.desc r m.pos
  let out (s : State) : State × Option AccErr := if rd.1.isEmpty then (s, none)
    else s.sendOut c m.iid m.dev m.vc m.rtag ((m.dst + 32 * m.pos) % 2 ^ 48) rd.1
  match rd.2 with
  | some e =>
    if e.asks then .ask m e
    else
      match out s with
      | (s, some e') => .stop (s.raise c .access m.iid m.index m.bank e')
      | (s, none) => .stop (s.raise c .access m.iid m.index m.bank e)
  | none =>
    match out s with
    | (s, some e) => .stop (s.raise c .access m.iid m.index m.bank e)
    | (s, none) => .more s { m with pos := m.pos + r }

def movePiece (s : State) (c : Nat) (m : Move) : Piece :=
  match m.kind with
  | .ldq => loadPiece s c m
  | .ldx => loadPiece s c m
  | .stq => storePiece s c m
  | .sendq => sendPiece s c m
  | .send => sendDescPiece s c m
  | .fill => fillPiece s c m
  | .copy => copyPiece s c m

/-- The stream has issued the last sector request of its move and goes on, or stops at this boundary. -/
def State.moveDone (s : State) (c : Nat) : State :=
  let s1 := (s.goTo c .access (s.strmIndex c .access + 1)).resume c .access
  match (s.strm c .access).stopReq with
  | some st => s1.stopStream c .access st
  | none => s1

/-- A move goes on as far as it can (R121); what it waits for from memory shows as a busy unit. DEDUCED: log entry 15. -/
def runMove (c : Nat) : Nat → Move → State → State
  | 0, _, s => s
  | fuel + 1, m, s =>
    if m.total ≤ m.pos then s.moveDone c
    else
      let s := s.accessing c (.job m.iid)
      match movePiece s c m with
      | .stop s => s
      | .wait m on => (s.modStrm c .access fun x => { x with hold := .move m }).setWaitOn c .access on
      | .ask m e =>
        let s := s.askFor c e
        if e.note.isSome then runMove c fuel m s
        else (s.modStrm c .access fun x => { x with hold := .move m }).setWaitOn c .access 3
      | .more s m => runMove c fuel m (s.dropFeeds c (.job m.iid))

/-- Pieces of a move and its counted words, more than there can be. -/
def Move.fuel (m : Move) : Nat := 1024 * (m.total + 1)

/-- An access-stream instruction with these spans begins: it is counted and in flight. -/
def State.begin (s : State) (c : Nat) (reads writes : List Span) : State :=
  let index := s.strmIndex c .access
  let bank := s.strmBank c .access
  s.modCore c fun k =>
    { k with flights := k.flights ++ [(⟨k.nextIid, index, bank, reads, writes⟩ : Flight)], nextIid := k.nextIid + 1 }

/-- A move begins, unless an earlier instruction's span holds it (R122). -/
def startMove (s : State) (c op : Nat) (w : Body) (m : Move) (reads writes : List Span) : State :=
  if s.accessWaits c reads writes then s.holdIssue c .access op w 8
  else
    let s1 := s.begin c reads writes
    let m := { m with iid := (s.core c).nextIid, bank := s.strmBank c .access, index := s.strmIndex c .access }
    runMove c m.fuel m (s1.modStrm c .access fun x => { x with hold := .move m })

def move0 (k : MoveKind) (d : Desc) : Move :=
  { kind := k, iid := 0, bank := 0, index := 0, q := 0, sfmt := 0, qfmt := 0, desc := d, sdesc := none, pos := 0
    total := 0, index1 := none, value := 0, dst := 0, dev := 0, vc := 0, rtag := 0 }

/-- Whether the access stream may convert a pair (R131): block formats only from a source that names their scales. -/
def moveFmtOk (s d : Nat) (scales : Bool) : Bool :=
  convPairOk s d && (fmtPlain s d || (!fmtBlock d && (!fmtBlock s || scales)))

/-- LDQ (R131, R155). -/
def issueLdq (s : State) (c : Nat) (w : Body) : State :=
  let sf := bits w 111 108
  let qf := bits w 107 104
  let d := s.desc c .access (bits w 121 117) (bits w 116 114)
  let x := s.desc c .access (bits w 103 99) 0
  let scaled := fmtBlock sf && !fmtPlain sf qf
  if !moveFmtOk sf qf true then s.raiseAt c .access (convErr .access)
  else
    match s.checkDesc c .access d with
    | .error e => s.raiseAt c .access e
    | .ok () =>
      match (if scaled then s.checkDesc c .access x else .ok ()) with
      | .error e => s.raiseAt c .access e
      | .ok () =>
        if scaled ∧ x.total * 32 < (d.total * 256 / fmtBits sf + 31) / 32 then s.raiseAt c .access (shapeErr .access)
        else
          startMove s c 0x10 w
            { move0 .ldq d with
              q := bits w 113 112, sfmt := sf, qfmt := qf, sdesc := if scaled then some x else none, total := d.total }
            ([d.span] ++ if scaled then [x.span] else []) []

/-- LDX (R157, R158). -/
def issueLdx (s : State) (c : Nat) (w : Body) : State :=
  let sf := bits w 106 103
  let qf := bits w 102 99
  let n := bits w 98 75
  let x := s.desc c .access (bits w 121 117) (bits w 111 109)
  let d := s.desc c .access (bits w 116 112) 0
  if !moveFmtOk sf qf false then s.raiseAt c .access (convErr .access)
  else if d.c2 ≠ 1 ∨ d.c3 ≠ 1 then s.raiseAt c .access (fieldErr .access)
  else
    match s.checkDesc c .access x with
    | .error e => s.raiseAt c .access e
    | .ok () =>
      match s.checkDesc c .access d with
      | .error e => s.raiseAt c .access e
      | .ok () =>
        if x.total * 8 < n then s.raiseAt c .access (shapeErr .access)
        else
          startMove s c 0x11 w
            { move0 .ldx d with
              q := bits w 108 107, sfmt := sf, qfmt := qf, sdesc := some x, total := n * d.c0 }
            [x.span, d.span] []

/-- STQ (R155). -/
def issueStq (s : State) (c : Nat) (w : Body) : State :=
  let qf := bits w 112 109
  let df := bits w 108 105
  let d := s.desc c .access (bits w 121 117) (bits w 116 114)
  if !moveFmtOk qf df false then s.raiseAt c .access (convErr .access)
  else
    match s.checkDesc c .access d with
    | .error e => s.raiseAt c .access e
    | .ok () =>
      if d.total * fmtBits qf % fmtBits df ≠ 0 then s.raiseAt c .access (shapeErr .access)
      else
        startMove s c 0x12 w
          { move0 .stq d with q := 4 + bits w 113 113, sfmt := df, qfmt := qf, total := d.total } [] [d.span]

/-- A descriptor wholly in the core's own scratchpad (R175). -/
def ownDesc (c : Nat) (d : Desc) : Bool :=
  decide (spadAddr c 0 ≤ d.ends.1) && decide (d.ends.2 < spadAddr c 0 + 0x20_0000)

/-- The stream has handed over an instruction that needs no more of it. -/
def State.handed (s : State) (c : Nat) : State :=
  (s.goTo c .access (s.strmIndex c .access + 1)).resume c .access

/-- A fill or copy within the core's scratchpad is handed to the engine, which runs one at a time (R175). -/
def startEngine (s : State) (c op : Nat) (w : Body) (src : Option Desc) (dst : Desc) (value : Sector) : State :=
  let reads := match src with
    | some x => [x.span]
    | none => []
  if s.accessWaits c reads [dst.span] then s.holdIssue c .access op w 8
  else if (s.core c).engine.isSome then s.holdIssue c .access op w 3
  else
    let e : EngineJob := ⟨(s.core c).nextIid, s.strmIndex c .access, s.strmBank c .access, src, dst, value, 0⟩
    ((s.begin c reads [dst.span]).modCore c fun k => { k with engine := some e }).handed c

/-- The engine writes up to `n` sectors more, in sequence order (R175); with its last write the instruction has finished. -/
def engineGo (c : Nat) : Nat → State → State
  | 0, s => s
  | n + 1, s =>
    match (s.core c).engine with
    | none => s
    | some e =>
      if e.dst.total ≤ e.pos then s.modCore c fun k => { k with engine := none }
      else
        let fail (s : State) (x : AccErr) : State := s.raise c .access e.iid e.index e.bank x
        let d := match e.src with
          | some x => s.fetchSec c .access 1 (x.sector e.pos)
          | none => (s, .ok e.value)
        match d with
        | (s, .error x) => fail s x
        | (s, .ok d) =>
          match s.writeSec c .access 1 (e.dst.sector e.pos) d beAll with
          | .error x => fail s x
          | .ok s => engineGo c n (s.modCore c fun k => { k with engine := some { e with pos := e.pos + 1 } })

/-- FILL (R155, R175). -/
def issueFill (s : State) (c : Nat) (w : Body) : State :=
  let d := s.desc c .access (bits w 121 117) (bits w 116 114)
  match s.checkDesc c .access d with
  | .error e => s.raiseAt c .access e
  | .ok () =>
    let v : Sector := BitVec.ofNat 256 (packBits 32 (List.replicate 8 (bits w 31 0)))
    if ownDesc c d then startEngine s c 0x13 w none d v
    else startMove s c 0x13 w { move0 .fill d with total := d.total, value := v } [] [d.span]

/-- COPY (R155, R175). -/
def issueCopy (s : State) (c : Nat) (w : Body) : State :=
  let x := s.desc c .access (bits w 121 117) (bits w 116 114)
  let d := s.desc c .access (bits w 113 109) (bits w 108 106)
  match s.checkDesc c .access x with
  | .error e => s.raiseAt c .access e
  | .ok () =>
    match s.checkDesc c .access d with
    | .error e => s.raiseAt c .access e
    | .ok () =>
      if x.total ≠ d.total then s.raiseAt c .access (shapeErr .access)
      else if ownDesc c x && ownDesc c d then startEngine s c 0x14 w (some x) d 0
      else startMove s c 0x14 w { move0 .copy d with sdesc := some x, total := d.total } [x.span] [d.span]

/-- SEND (R131, R155, R190). -/
def issueSend (s : State) (c : Nat) (w : Body) : State :=
  let fromQ := bit1 w 121
  let nsec := bits w 90 75 + 1
  let vc := bits w 104 103
  if vc = 0 ∨ (fromQ ∧ 1 < bits w 120 116) ∨ (¬ fromQ ∧ nsec ≠ 1) then s.raiseAt c .access (fieldErr .access)
  else
    let x := s.desc c .access (bits w 120 116) (bits w 115 113)
    match (if fromQ then .ok () else s.checkDesc c .access x) with
    | .error e => s.raiseAt c .access e
    | .ok () =>
      match s.checkPtr c .access (bits w 112 108) with
      | .error e => s.raiseAt c .access e
      | .ok p =>
        let dev := s.ptrDev c .access (bits w 112 108)
        let a := (p + 32 * s.cntAdj c .access (bits w 107 105)) % 2 ^ 48
        let n := if fromQ then nsec else x.total
        if dev ≠ s.rank ∧ (s.seqEntry c dev).isNone then s.raiseAt c .access (penErrOf 5)
        else
          startMove s c 0x15 w
            { move0 (if fromQ then .sendq else .send) x with
              q := 4 + bits w 116 116, total := n, dst := a, dev := dev, vc := vc, rtag := bits w 102 91 }
            (if fromQ then [] else [x.span]) (if dev = s.rank then [sectorSpan a n] else [])

end Sys2Proof.Machine
end

