-- ==== Sys2Proof/Machine/Units.lean ====
section
/-! DEFINITION. The execute units (R121): dispatch of an instruction to its unit, what a unit does when nothing holds it
any longer, and the pump that lets every unit, held instruction and move of a core go on as far as it can. -/

namespace Sys2Proof.Machine

open Sys2Proof

/-- Unit of an execute opcode (R121): 0 array, 1 vector, 2 top-k, 3 compressor, 4 store. -/
def unitOf (op : Nat) : Option Nat :=
  if 0x20 ≤ op ∧ op ≤ 0x26 then some 0
  else if op = 0x28 ∨ op = 0x29 ∨ op = 0x2B then some 1
  else if op = 0x2A then some 2
  else if op = 0x2D then some 3
  else if op = 0x2C then some 4
  else none

def unitNum : ExecUnit → Nat
  | .array => 0
  | .vector => 1
  | .topk => 2
  | .compressor => 3
  | .store => 4

namespace State

def unit (s : State) (c u : Nat) : UnitState := mget (s.core c).units ⟨none, none⟩ u

def setUnit (s : State) (c u : Nat) (x : UnitState) : State :=
  s.modCore c fun k =>
    { k with units := if x.run.isNone && x.wait.isNone then mdel k.units u else mset k.units u x }

/-- The instruction a unit runs, replaced. -/
def setRun (s : State) (c u : Nat) (j : Job) : State := s.setUnit c u { s.unit c u with run := some j }

end State

/-! Issue to a unit. -/

/-- The checks of an execute instruction at issue, and its operands. -/
def execIssue (s : State) (c op : Nat) (w : Body) : Except AccErr Job :=
  match op with
  | 0x20 => mmfIssue s c w
  | 0x21 => mmtIssue s c w
  | 0x22 => mmoIssue s c w
  | 0x23 => scanIssue s c w
  | 0x24 => prrIssue s c w
  | 0x25 => predIssue s c w
  | 0x26 => aclrIssue s c w
  | 0x28 => vopIssue s c w
  | 0x29 => redIssue s c w
  | 0x2A => topkIssue s c w
  | 0x2B => cvtIssue s c w
  | 0x2C => staIssue s c w
  | _ => cmprIssue s c w

/-- Strip sets and parameter sectors that an instruction's issue reads, for R122. -/
def ptrSpans (s : State) (c op : Nat) (w : Body) : List Span :=
  let set (f : Nat) : Span := sectorSpan (s.ptrAddr c .execute f) 2
  let one (f : Nat) : Span := sectorSpan (s.ptrAddr c .execute f) 1
  match op with
  | 0x24 => [set (bits w 121 117), one (bits w 65 61)]
  | 0x25 => [set (bits w 121 117)]
  | 0x2C => if bit1 w 86 then [set (bits w 85 81), one (bits w 53 49)] else []
  | 0x2D => [set (bits w 121 117), one (bits w 18 14)]
  | _ => if op ≤ 0x23 then [set (bits w 121 117)] else []

/-- An execute instruction issues to its unit: it waits while the unit is full (R121), while an earlier instruction's span
meets one of its own (R122), and for what its checks read outside the scratchpad. -/
def issueExec (s : State) (c op : Nat) (w : Body) : State :=
  let u := (unitOf op).getD 0
  let x := s.unit c u
  if x.run.isSome && x.wait.isSome then s.holdIssue c .execute op w 3
  else if s.executeWaits c (ptrSpans s c op w) [] then s.holdIssue c .execute op w 8
  else
    let s := s.accessing c (.issue .execute)
    match execIssue s c op w with
    | .error e => if e.asks then (s.askFor c e).holdIssue c .execute op w 3 else s.raiseAt c .execute e
    | .ok j =>
      if s.executeWaits c j.reads j.writes then s.holdIssue c .execute op w 8
      else
        let ctrs := (List.range 8).map fun k => s.cnt c .execute k
        let j := { j with
          iid := (s.core c).nextIid, index := s.strmIndex c .execute, bank := s.strmBank c .execute, ctrs := ctrs }
        let x := if x.run.isNone then { x with run := some j } else { x with wait := some j }
        ((s.dropFeeds c (.issue .execute)).setUnit c u x).issued c .execute

/-- The effect of an instruction that its stream may issue. -/
def issueEffect (s : State) (c : Nat) (t : Strm) (op : Nat) (w : Body) : State :=
  match op with
  | 0x01 => issueHalt s c t w
  | 0x02 => issueLoop s c t w
  | 0x03 => issueEndl s c t w
  | 0x04 => issueCset s c t w
  | 0x05 => issueCadd s c t w
  | 0x06 => issueCmpb s c t w
  | 0x07 => issueSig s c t w
  | 0x08 => issueWait s c t w
  | 0x10 => issueLdq s c w
  | 0x11 => issueLdx s c w
  | 0x12 => issueStq s c w
  | 0x13 => issueFill s c w
  | 0x14 => issueCopy s c w
  | 0x15 => issueSend s c w
  | 0x16 => issueHoist s c t w
  | 0x17 => issueSyncq s c t w
  | _ => issueExec s c op w

/-! Running. -/

/-- Return queues a job's results go to. -/
def jobDests (j : Job) : List Nat :=
  let w := j.body
  let q (b : Nat) : List Nat := match dstOpd b with
    | .queue n => [n]
    | _ => []
  match j.op with
  | 0x28 => q (bits w 79 72)
  | 0x29 => q (bits w 107 100)
  | 0x2A => q (bits w 103 96) ++ q (bits w 95 88)
  | 0x2B => q (bits w 104 97)
  | 0x2C => if !bit1 w 86 && bit1 w 100 then [4 + bits w 95 95] else []
  | _ => []

/-- The array's products and SCAN read a header before they start (R55, R57). -/
def readsHdr (op : Nat) : Bool := decide (0x20 ≤ op) && decide (op ≤ 0x23)

/-- The header an instruction reads before it starts, and what it learns from it. -/
def jobPlan (s : State) (c : Nat) (j : Job) : Except AccErr Job :=
  match j.op with
  | 0x20 => mmfPlan s c j
  | 0x21 => mmtPlan s c j
  | 0x22 => mmoPlan s c j
  | 0x23 => scanPlan s c j
  | _ => .ok j

/-- What an instruction does first, and the queue sectors that its first part needs. -/
def jobBegin (s : State) (c : Nat) (j : Job) : State × Job :=
  match j.op with
  | 0x20 => mmfBegin s c j
  | 0x21 => mmtBegin s c j
  | 0x22 => mmoWindowBegin s c j
  | 0x23 => (s, scanTakes j)
  | 0x28 => (s, planTakes j (vopSrcs j.body))
  | 0x29 => (s, planTakes j (redSrcs j.body))
  | 0x2A => (s, planTakes j (topkSrcs j.body))
  | 0x2B => (s, planTakes j (cvtSrcs j.body))
  | _ => (s, j)

/-- A vector instruction is one part, whose results may go to return queues. -/
def DoneQ.part (r : DoneQ) (j : Job) : PartOut := ⟨r.1, { j with computed := true }, r.2.1, r.2.2⟩

/-- The next part of an instruction that has taken what it needs for it. -/
def jobPart (s : State) (c : Nat) (j : Job) : PartOut :=
  match j.op with
  | 0x20 => mmfPart s c j
  | 0x21 => mmtPart s c j
  | 0x22 => mmoPart s c j
  | 0x23 => scanPart s c j
  | 0x24 => prrPart s c j
  | 0x25 => Done.part (predCompute s c j) j
  | 0x26 => Done.part (aclrCompute s c j) j
  | 0x28 => DoneQ.part (vopCompute s c j) j
  | 0x29 => DoneQ.part (redCompute s c j) j
  | 0x2A => DoneQ.part (topkCompute s c j) j
  | 0x2B => DoneQ.part (cvtCompute s c j) j
  | 0x2C => DoneQ.part (staCompute s c j) j
  | _ => Done.part (cmprCompute s c j) j

/-- ARRAY_STAT.MODE of an opcode (R73). -/
def arrayMode (op : Nat) : Nat :=
  match op with
  | 0x20 => 1
  | 0x21 => 2
  | 0x22 => 3
  | 0x23 => 4
  | 0x25 => 5
  | 0x26 => 6
  | _ => 7

/-- ARRAY_STAT shows what the array runs (R73); SETS_DONE restarts with the next instruction (`fresh`). -/
def State.showArray (s : State) (c : Nat) (fresh : Bool) : State :=
  let a := Reg.ARRAY_STAT c
  match (s.unit c 0).run with
  | some j =>
    let s := (s.setFld a Fld.ARRAY_STAT_BUSY 1).setFld a Fld.ARRAY_STAT_MODE (arrayMode j.op)
    if fresh then s.setFld a Fld.ARRAY_STAT_SETS_DONE 0 else s
  | none => if s.flag a Fld.ARRAY_STAT_BUSY then (s.setFld a Fld.ARRAY_STAT_BUSY 0).setFld a Fld.ARRAY_STAT_MODE 0 else s

/-- Earlier instructions of the units. -/
def Core.earlier (k : Core) (iid : Nat) : List Job := k.jobs.filter fun j => decide (j.iid < iid)

/-- An earlier instruction has still to take from a queue (R125). DEDUCED: log entry 17. -/
def takesFirst (k : Core) (iid q : Nat) : Bool :=
  (k.earlier iid).any fun j =>
    !j.computed && (if j.started && !readsHdr j.op then j.takes.any fun x => x.1 == q else j.queues.contains q)

/-- An earlier instruction has still to put into a return queue (R125). DEDUCED: log entry 17. -/
def putsFirst (k : Core) (iid q : Nat) : Bool :=
  (k.earlier iid).any fun j => if j.computed then j.outs.any fun x => x.1 == q else (jobDests j).contains q

/-- The whole windows among the sectors that an array instruction has taken (R45). -/
def Job.loaded (j : Job) : List Window :=
  let whole (n : Nat) : List (List Sector) := (j.windows n).filter fun ds => ds.length == n
  let vfmt := (hdrOf (j.hdrs.headD 0)).vfmt
  if j.op = 0x20 ∨ j.op = 0x21 then (whole (windowLen vfmt)).map (windowOf vfmt)
  else if readsHdr j.op then (whole 16).map codeWindow
  else []

/-- An access that waits: what it asks for is asked for once. -/
def State.askOnce (s : State) (c : Nat) (e : AccErr) : Option State :=
  let s' := s.askFor c e
  if (s'.core c).feeds.length = (s.core c).feeds.length then none else some s'

/-- Requests that an instruction has under way. -/
def State.outstanding (s : State) (c iid : Nat) : Bool := s.reqs.any fun r => r.core == c && r.iid == iid

/-- A running instruction's next part; a failure of its accesses is recorded, and ends it once its whole sectors have left.
PRR's header waits for the writes of its strip (R104). -/
def State.runPart (s : State) (c u : Nat) (j : Job) : Option State :=
  if j.op = 0x24 && j.drain && s.outstanding c j.iid then none
  else
    let s := s.accessing c (.job j.iid)
    let r := jobPart s c j
    match r.err with
    | none => some ((r.s.setRun c u { r.j with outs := r.q }).dropFeeds c (.job j.iid))
    | some e =>
      if e.asks then s.askOnce c e
      else some (((r.s.noteAny c e).setRun c u
        { r.j with computed := true, takes := [], outs := r.q, fail := some (e.code, e.detail) }).dropFeeds c (.job j.iid))

/-- An instruction that has not started: its header is read once no earlier instruction's memory span meets its own (R122);
it starts once no earlier instruction's columns do either (R69). -/
def State.startJob (s : State) (c u : Nat) (j : Job) : Option State :=
  let earlier := (s.core c).earlier j.iid
  if earlier.any fun e => mustWait (memSpans j.reads) (memSpans j.writes) (memSpans e.reads) (memSpans e.writes) then none
  else if readsHdr j.op && j.hdrs.isEmpty then
    let s := s.accessing c (.job j.iid)
    match jobPlan s c j with
    | .error e => if e.asks then s.askOnce c e else some (s.raise c .execute j.iid j.index j.bank e)
    | .ok j' => some ((s.setRun c u j').dropFeeds c (.job j.iid))
  else if earlier.any fun e => mustWait j.reads j.writes e.reads e.writes then none
  else
    let r := jobBegin s c j
    let s := r.1.setRun c u { r.2 with started := true }
    some (if u = 0 then s.showArray c true else s)

/-- Sectors taken from a queue for a running instruction; the array loads them into its windows (R45). -/
def State.takeSectors (s : State) (c u : Nat) (j : Job) (q n : Nat) (rest : List (Nat × Nat)) : Option State :=
  if takesFirst (s.core c) j.iid q then none
  else
    match s.qReady c q n with
    | [] => if n = 0 then some (s.setRun c u { j with takes := rest }) else none
    | ds =>
      let j := { j with
        got := ds.reverse ++ j.got
        took := if j.took.contains q then j.took else q :: j.took
        takes := if ds.length < n then (q, n - ds.length) :: rest else rest }
      let s := (s.qDrop c q ds.length).setRun c u j
      some (if readsHdr j.op && decide (n ≤ ds.length) then s.modCore c fun k => { k with winLoad := j.loaded } else s)

/-- One step of a unit's running instruction: none when nothing can move. DEDUCED: log entry 17. -/
def unitStep (s : State) (c u : Nat) : Option State :=
  match (s.unit c u).run with
  | none => none
  | some j =>
    if !j.started then s.startJob c u j
    else if !j.computed then
      match j.takes with
      | [] => s.runPart c u j
      | (q, n) :: rest => s.takeSectors c u j q n rest
    else
      match j.outs with
      | (q, d) :: rest =>
        if putsFirst (s.core c) j.iid q || s.qSpace c q == 0 then none
        else some ((s.qPush c q [d]).setRun c u { j with outs := rest })
      | [] =>
        match j.fail with
        | some (code, detail) => some (s.raise c .execute j.iid j.index j.bank ⟨code, detail, none⟩)
        | none => none

/-- A held instruction or a move of a stream tried again: none when it still waits for the same. -/
def strmStep (s : State) (c : Nat) (t : Strm) : Option State :=
  let moved (s' : State) (h : Hold) : Option State :=
    if (s'.strm c t).hold = h ∧ (s'.core c).feeds = (s.core c).feeds then none else some s'
  match (s.strm c t).hold with
  | .issue op w => if s.strmState c t = 1 then moved (issueEffect s c t op w) (.issue op w) else none
  | .move m => moved (runMove c m.fuel m s) (.move m)
  | _ => none

/-- Access-stream instructions that have completed are in flight no longer (R122, R123). -/
def State.tidyFlights (s : State) (c : Nat) : State :=
  let moving : Option Nat := match (s.core c).a.hold with
    | .move m => some m.iid
    | _ => none
  let live (f : Flight) : Bool :=
    moving == some f.iid || ((s.core c).engine.any fun e => e.iid == f.iid) || s.redWaiting c f.iid
      || s.outstanding c f.iid
  if (s.core c).flights.all live then s else s.modCore c fun k => { k with flights := k.flights.filter live }

/-- PRED's map is disarmed by a halt of the execute stream, once the array instructions issued before it have finished
(R116). DEDUCED: log entry 24. -/
def State.tidyPred (s : State) (c : Nat) : State :=
  match (s.core c).disarmAt with
  | none => s
  | some n =>
    let x := s.unit c 0
    if (x.run.toList ++ x.wait.toList).any fun j => decide (j.iid < n) then s
    else (s.disarmPred c).modCore c fun k => { k with disarmAt := none }

/-- A single step ends (R386) when its instruction has completed: the stream stops again and DONE is set. -/
def State.tidyStep (s : State) (c : Nat) (t : Strm) : State :=
  let x := s.strm c t
  if x.stepping && x.hold == .free && (s.strmState c t == 2 || s.earlierDone c t) then
    let s := s.modStrm c t fun x => { x with stepping := false }
    let s := if s.strmState c t = 1 then s.setStrmState c t 0 else s
    s.setFld Reg.DBG_CORE Fld.DBG_CORE_DONE 1
  else s

def State.tidy (s : State) (c : Nat) : State :=
  ((((((s.tidyFlights c).tidyPred c).showArray c false).epochs c).tidyStep c .access)).tidyStep c .execute

/-- What can move first: a unit, then the access stream, then the execute stream. -/
def coreStep (s : State) (c : Nat) : Option State :=
  match (List.range 5).findSome? fun u => unitStep s c u with
  | some s => some s
  | none =>
    match strmStep s c .access with
    | some s => some s
    | none => strmStep s c .execute

/-- DESIGN CHOICE: log entry 12. -/
def pumpLoop (c : Nat) : Nat → State → State
  | 0, s => s
  | n + 1, s =>
    match coreStep s c with
    | some s' => pumpLoop c n (s'.tidy c)
    | none => s

/-- Everything of a core that can go on does, up to a bound that no instruction comes near.
DESIGN CHOICE: log entry 12. -/
def State.pump (s : State) (c : Nat) : State := pumpLoop c (2 ^ 40) (s.tidy c)

/-- A core that holds or runs something. -/
def Core.stirs (k : Core) : Bool :=
  !k.units.isEmpty || !k.flights.isEmpty || k.disarmAt.isSome || k.a.hold != .free || k.e.hold != .free || k.a.stepping || k.e.stepping

/-- Every core that holds something goes on as far as it can. -/
def State.pumpAll (s : State) : State :=
  (s.cores.filter fun e => e.2.stirs).foldl (fun s e => s.pump e.1) s

/-! Issue. -/

/-- A stream takes its next instruction (R121, R127, R143): only while it runs and holds none, outside a single
step (R386), and while its clock runs (R352). DESIGN CHOICE: log entries 2, 16. -/
def State.canIssue (s : State) (c : Nat) (t : Strm) : Bool :=
  s.strmState c t == 1 && (s.strm c t).hold == .free && !(s.strm c t).stepping && !s.power.xaLost

/-- The checks of fetch and decode (R127, R143), then the instruction's effect. DESIGN CHOICE: log entry 16. -/
def issueInstr (s : State) (c : Nat) (t : Strm) (op : Nat) (w : Body) : State :=
  if !s.canIssue c t then s
  else if (s.strm c t).pastEnd then (s.raiseAt c t (plainErr (strmCode t 0x09))).pump c
  else if !opAllowed op t then (s.raiseAt c t (plainErr (strmCode t 0x04))).pump c
  else if !opReservedOk op w then (s.raiseAt c t (fieldErr t)).pump c
  else (issueEffect s c t op w).pump c

/-- A stream issues the instruction it stands at, taken from its instruction memory (R127, R128).
DESIGN CHOICE: log entry 16. -/
def State.issueNext (s : State) (c : Nat) (t : Strm) : State :=
  let w := mget (s.strm c t).imem 0 (s.strmBank c t * 2048 + s.strmIndex c t)
  issueInstr s c t (w.toNat / 2 ^ 122) (w.setWidth 122)

end Sys2Proof.Machine
end

