-- ==== Sys2Proof/Machine/Access.lean ====
section
/-! DEFINITION. Who reaches which register: the functions' scopes (R395, R396) and gated blocks (R340). -/

namespace Sys2Proof.Machine

open Sys2Proof

/-- The partition whose virtual function is `fn`. -/
def State.vfCtx (s : State) (fn : Nat) : Option Nat :=
  if fn = 0 then none
  else (List.range 8).find? fun x => s.partExists x && s.fld (Reg.PART_STAT x) Fld.PART_STAT_VF == fn

def hostBase : Nat := 0x0380_0A00_0000

/-- A register's device address as a writer names it: a function's own page lies at HOST + 0 (R409). -/
def ownPage (who : Writer) (a : Nat) : Nat :=
  match who with
  | .host fn => if hostBase ≤ a ∧ a < hostBase + 0x1_0000 then a + 0x1_0000 * (fn.val + 1) else a
  | _ => a

/-- A device address lies in the control windows of the cores. -/
def inWindows (a : Nat) : Bool := decide (ctrlBase ≤ a) && decide (a < ctrlBase + nCores * 0x1_0000)

/-- Core of a window address. -/
def windowCore (a : Nat) : Nat := (a - ctrlBase) / 0x1_0000

/-- Whether a register lies in a block whose clock is not enabled (R339, R340): a core's island, a near-memory
controller, a reach port, a Nirlo port group. -/
def State.regGated (s : State) (a : Nat) : Bool :=
  let block (base n b : Nat) : Bool :=
    decide (base ≤ a) && decide (a < base + n * 0x10_0000) && !s.uncEnabled (b + (a - base) / 0x10_0000)
  if inWindows a then !s.islEnabled (coreIsland (windowCore a))
  else (block 0x0380_0100_0000 8 8 && decide ((a - 0x0380_0100_0000) % 0x10_0000 < 0x8_0000))
    || block 0x0380_0200_0000 4 16 || block 0x0380_0300_0000 8 20

/-- What a function reaches through BAR0 (R396); everything through the physical one. -/
def State.inScope (s : State) (fn : Nat) (a : Nat) : Bool :=
  if fn = 0 then true
  else
    match s.vfCtx fn with
    | none => decide (hostBase + 0x1_0000 * (fn + 1) ≤ a) && decide (a < hostBase + 0x1_0000 * (fn + 2))
    | some x =>
      if inWindows a then s.coreCtx (windowCore a) == some x
      else (decide (hostBase + 0x1_0000 * (fn + 1) ≤ a) && decide (a < hostBase + 0x1_0000 * (fn + 2)))
        || [Reg.LAT_TOL fn, Reg.SEC_CMD, Reg.SEC_ARG, Reg.SEC_ARG + 4, Reg.SEC_CMD_STAT, Reg.PEN_HOST_SIG, Reg.STEP_STAT,
            Reg.TICK, Reg.TICK + 4, Reg.IMG_STAT, Reg.IMG_CTL, Reg.IMG_SRC, Reg.IMG_SRC + 4].contains a

/-- CLK_ERR (R354): the first record is kept while VALID is 1; every error is reported. -/
def State.clkErr (s : State) (code unit : Nat) : State :=
  let w := 2 ^ 63 + unit % 16 * 2 ^ 32 + code
  let s := if s.flag Reg.CLK_ERR Fld.CLK_ERR_VALID then s else s.setReg Reg.CLK_ERR (BitVec.ofNat 64 w)
  s.report code none none (BitVec.ofNat 64 w).toNat

/-- E_GATED_HOST, where CLK_CFG asks for it (R340). -/
def State.gatedHost (s : State) : State :=
  if s.flag Reg.CLK_CFG Fld.CLK_CFG_GATE_ERR_COMPAT then s.clkErr 0x7605 0 else s

/-- Whether a register write gets through, and what its refusal leaves: E_HOST_SCOPE (R396), or a gated block (R340). -/
def State.passes (s : State) (who : Writer) (a : Nat) : Bool × State :=
  match who with
  | .host fn =>
    if !s.inScope fn.val a then (false, s.report 0x6742 (s.vfCtx fn.val) none a)
    else if s.regGated a then (false, s.gatedHost)
    else (true, s)
  | _ => (!s.regGated a, s)

/-- A command that a register write gives takes effect when the write gets through. -/
def State.command (s : State) (who : Writer) (a : Nat) (f : State → State) : State :=
  match s.passes who a with
  | (true, s) => f s
  | (false, s) => s

/-- A command whose row names no writer: only a gated block discards it. -/
def State.ungated (s : State) (a : Nat) (f : State → State) : State := if s.regGated a then s else f s

end Sys2Proof.Machine
end

