-- ==== Sys2Proof/Machine/CoreRows.lean ====
section
/-! DEFINITION. The meanings of the streams' instructions, of the events of a core (R121, R126, R145, R149, R150, R175,
R176), and of the counter clears. -/

namespace Sys2Proof.Machine

open Sys2Proof

/-- What a command answers: its next state. -/
abbrev Out := Host.Outcome State Fault Refusal

/-! Instructions: HALT to STA (R130–R132). Each issues on its stream (`issueInstr`) by its opcode. -/

def execHalt (c : CoreId) (t : Strm) (w : Body) (s : State) : Out := .next (issueInstr s c.val t 0x01 w)
def execLoop (c : CoreId) (t : Strm) (w : Body) (s : State) : Out := .next (issueInstr s c.val t 0x02 w)
def execEndl (c : CoreId) (t : Strm) (w : Body) (s : State) : Out := .next (issueInstr s c.val t 0x03 w)
def execCset (c : CoreId) (t : Strm) (w : Body) (s : State) : Out := .next (issueInstr s c.val t 0x04 w)
def execCadd (c : CoreId) (t : Strm) (w : Body) (s : State) : Out := .next (issueInstr s c.val t 0x05 w)
def execCmpb (c : CoreId) (t : Strm) (w : Body) (s : State) : Out := .next (issueInstr s c.val t 0x06 w)
def execSig (c : CoreId) (t : Strm) (w : Body) (s : State) : Out := .next (issueInstr s c.val t 0x07 w)
def execWait (c : CoreId) (t : Strm) (w : Body) (s : State) : Out := .next (issueInstr s c.val t 0x08 w)
def execLdq (c : CoreId) (t : Strm) (w : Body) (s : State) : Out := .next (issueInstr s c.val t 0x10 w)
def execLdx (c : CoreId) (t : Strm) (w : Body) (s : State) : Out := .next (issueInstr s c.val t 0x11 w)
def execStq (c : CoreId) (t : Strm) (w : Body) (s : State) : Out := .next (issueInstr s c.val t 0x12 w)
def execFill (c : CoreId) (t : Strm) (w : Body) (s : State) : Out := .next (issueInstr s c.val t 0x13 w)
def execCopy (c : CoreId) (t : Strm) (w : Body) (s : State) : Out := .next (issueInstr s c.val t 0x14 w)
def execSend (c : CoreId) (t : Strm) (w : Body) (s : State) : Out := .next (issueInstr s c.val t 0x15 w)
def execHoist (c : CoreId) (t : Strm) (w : Body) (s : State) : Out := .next (issueInstr s c.val t 0x16 w)
def execSyncq (c : CoreId) (t : Strm) (w : Body) (s : State) : Out := .next (issueInstr s c.val t 0x17 w)
def execMmf (c : CoreId) (t : Strm) (w : Body) (s : State) : Out := .next (issueInstr s c.val t 0x20 w)
def execMmt (c : CoreId) (t : Strm) (w : Body) (s : State) : Out := .next (issueInstr s c.val t 0x21 w)
def execMmo (c : CoreId) (t : Strm) (w : Body) (s : State) : Out := .next (issueInstr s c.val t 0x22 w)
def execScan (c : CoreId) (t : Strm) (w : Body) (s : State) : Out := .next (issueInstr s c.val t 0x23 w)
def execPrr (c : CoreId) (t : Strm) (w : Body) (s : State) : Out := .next (issueInstr s c.val t 0x24 w)
def execPred (c : CoreId) (t : Strm) (w : Body) (s : State) : Out := .next (issueInstr s c.val t 0x25 w)
def execAclr (c : CoreId) (t : Strm) (w : Body) (s : State) : Out := .next (issueInstr s c.val t 0x26 w)
def execVop (c : CoreId) (t : Strm) (w : Body) (s : State) : Out := .next (issueInstr s c.val t 0x28 w)
def execRed (c : CoreId) (t : Strm) (w : Body) (s : State) : Out := .next (issueInstr s c.val t 0x29 w)
def execTopk (c : CoreId) (t : Strm) (w : Body) (s : State) : Out := .next (issueInstr s c.val t 0x2A w)
def execCvt (c : CoreId) (t : Strm) (w : Body) (s : State) : Out := .next (issueInstr s c.val t 0x2B w)
def execSta (c : CoreId) (t : Strm) (w : Body) (s : State) : Out := .next (issueInstr s c.val t 0x2C w)
def execCmpr (c : CoreId) (t : Strm) (w : Body) (s : State) : Out := .next (issueInstr s c.val t 0x2D w)

/-! Events of a core. -/

/-- A unit whose running instruction has done everything, its writes acknowledged (R176), retires it and takes the one it
holds (R121). -/
def State.finish (s : State) (c u : Nat) : State :=
  let x := s.unit c u
  match x.run with
  | some j =>
    if j.computed && j.outs.isEmpty && j.fail.isNone && !s.outstanding c j.iid then
      let s := s.setUnit c u ⟨x.wait, none⟩
      (if u = 0 then s.showArray c false else s).pump c
    else s
  | none => s

def execInstructionFinish (c : CoreId) (u : ExecUnit) (s : State) : Out := .next (s.finish c.val (unitNum u))

/-- The fill and copy engine makes what is left of its writes (R175); the next FILL or COPY may enter. -/
def execFillCopyEngineDone (c : CoreId) (s : State) : Out :=
  .next (match (s.core c.val).engine with
    | some e => (engineGo c.val (e.dst.total - e.pos + 1) s).pump c.val
    | none => s)

def State.reqOf (s : State) (id : Nat) : Option Req := s.reqs.find? fun r => r.id == id

def State.dropReq (s : State) (id : Nat) : State := { s with reqs := s.reqs.filter fun r => r.id != id }

/-- Read data arrives at its queue or at the unit that asked for it (R176): the request must have been served. -/
def execReadDataReturn (id : Nat) (s : State) : Out :=
  .next (match s.reqOf id with
    | some r =>
      match r.kind, r.stage with
      | .read gid pos, .served d => ((s.dropReq id).deliver r.core gid pos d).pump r.core
      | .feed key, .served d => ((s.dropReq id).fillFeed r.core key r.addr (.data d)).pump r.core
      | _, _ => s
    | none => s)

/-- A write's acknowledgement arrives (R176). -/
def execWriteAck (id : Nat) (s : State) : Out :=
  .next (match s.reqOf id with
    | some r =>
      match r.kind, r.stage with
      | .write .., .served _ => (s.dropReq id).pump r.core
      | _, _ => s
    | none => s)

/-- A unit's running instruction waits on a queue (R126). -/
def Job.onQueue (j : Job) : Bool := j.started && (if j.computed then !j.outs.isEmpty else !j.takes.isEmpty)

def State.unitOnQueue (s : State) (c u : Nat) : Bool :=
  match (s.unit c u).run with
  | some j => j.onQueue
  | none => false

/-- A stream waits on a queue: for space, for data, or in SYNCQ. -/
def State.strmOnQueue (s : State) (c : Nat) (t : Strm) : Bool :=
  match (s.strm c t).hold with
  | .move _ => [1, 2].contains (s.fld (Reg.STRM_STAT c (sidx t)) Fld.STRM_STAT_WAITON)
  | .issue op _ => op == 0x17
  | _ => false

/-- A stream is stalled on a full unit whose running instruction waits on a queue. -/
def State.strmOnUnit (s : State) (c : Nat) (t : Strm) : Bool :=
  match (s.strm c t).hold with
  | .issue op _ =>
    match unitOf op with
    | some u => (s.unit c u).run.isSome && (s.unit c u).wait.isSome && s.unitOnQueue c u
    | none => false
  | _ => false

/-- The conditions of R126. DESIGN CHOICE: log entry 27. -/
def State.deadlocked (s : State) (c : Nat) : Bool :=
  let strms := [Strm.access, Strm.execute]
  let us := List.range 5
  (strms.all fun t => s.strmState c t != 1 || s.strmOnQueue c t || s.strmOnUnit c t)
    && (us.all fun u => (s.unit c u).run.isNone || s.unitOnQueue c u)
    && ((strms.any fun t => s.strmState c t == 1 && s.strmOnQueue c t) || us.any fun u => s.unitOnQueue c u)
    && (s.core c).groups.isEmpty

/-- E_QUEUE_DEADLOCK (R126): recorded in the execute stream, and both streams halt. DESIGN CHOICE: log entry 27. -/
def execQueueDeadlock (c : CoreId) (s : State) : Out :=
  let c := c.val
  .next (if s.deadlocked c then
    let s1 := s.recordStrmErr c .execute 0x11C1 (s.strmIndex c .execute) (s.strmBank c .execute) 0
    let s2 := ((s1.stopStream c .access 3).stopStream c .execute 3).report 0x11C1 (s.coreCtx c) (some c) 0
    (s2.tidyPred c).stepCoreError c 0x11C1
  else s)

/-- A stream at the start of its active bank (R150). -/
def State.startStream (s : State) (c : Nat) (t : Strm) : State :=
  let s := s.modStrm c t fun x =>
    { x with loops := [], hold := .free, pastEnd := false, stopReq := none, stepping := false }
  s.setReg (Reg.STRM_STAT c (sidx t)) (BitVec.ofNat 64 (2 ^ 30))

/-- START may act: both streams stopped or halted by HALT, no scrub, the core enabled (R150). -/
def State.canStart (s : State) (c : Nat) : Bool :=
  let ok (t : Strm) : Bool := s.strmState c t == 0 || s.strmState c t == 2
  ok .access && ok .execute && !s.flag (Reg.SP_SCRUB c) Fld.SP_SCRUB_BUSY && s.coreEnabled c && s.power.trip == 0
    && !s.imgFailed.any fun x => s.coreCtx c == some x

def State.startCore (s : State) (c : Nat) : State :=
  if s.canStart c then
    ((s.startStream c .access).startStream c .execute).setFld (Reg.SP_SCRUB c) Fld.SP_SCRUB_DONE 0
  else s

def execCoreStart (c : CoreId) (who : Writer) (s : State) : Out :=
  .next (s.asked who c.val (.coreStart c who) fun s => s.command who (Reg.CORE_CTL c.val) fun s => s.startCore c.val)

/-- STOP (R150): streams that run stop at their next boundary. -/
def State.stopCore (s : State) (c : Nat) : State :=
  let stop (s : State) (t : Strm) : State := if s.strmState c t = 1 then s.stopAtBoundary c t 0 else s
  stop (stop s .access) .execute

def execCoreStop (c : CoreId) (who : Writer) (s : State) : Out :=
  .next (s.asked who c.val (.coreStop c who) fun s => s.command who (Reg.CORE_CTL c.val) fun s => s.stopCore c.val)

/-- QCLR (R150): all six queues empty, data still on its way discarded. DEDUCED: log entry 29. -/
def execQueueClear (c : CoreId) (who : Writer) (s : State) : Out :=
  .next (s.asked who c.val (.queueClear c who) fun s => s.command who (Reg.CORE_CTL c.val) fun s =>
    if s.coreRuns c.val then s
    else (s.modCore c.val fun k => { k with queues := [], groups := [] }).pump c.val)

/-! The instruction-memory loader (R145). -/

def tableSize (target : Nat) : Nat := if target = 0 then 2048 else 32
def itemBytes (target : Nat) : Nat := if target = 0 then 16 else if target = 1 then 8 else 32

/-- Why a START is refused: 1 the active bank, 2 the load's own fields. DEDUCED: log entry 28. -/
def State.loadRefusal (s : State) (c : Nat) (t : Strm) : Nat :=
  let a := Reg.IMEM_LD_CTL c (sidx t)
  let n := s.fld a Fld.IMEM_LD_CTL_COUNT
  let tg := s.fld a Fld.IMEM_LD_CTL_TARGET
  if s.fld a Fld.IMEM_LD_CTL_BANK = s.strmBank c t then 1
  else if n = 0 ∨ tg = 3 ∨ tableSize tg < s.fld a Fld.IMEM_LD_CTL_FIRST + n
      ∨ s.fld (Reg.IMEM_LD_SRC c (sidx t)) Fld.IMEM_LD_SRC_SRC % 32 ≠ 0 ∨ (s.strm c t).load.isSome then 2
  else 0

def readyFld (b : Nat) : FieldPos := if b = 0 then Fld.IMEM_LD_STAT_READY0 else Fld.IMEM_LD_STAT_READY1

def State.loadStart (s : State) (c : Nat) (t : Strm) (v : Word32) : State :=
  let a := Reg.IMEM_LD_CTL c (sidx t)
  let st := Reg.IMEM_LD_STAT c (sidx t)
  let w := v.setWidth 64
  let put (s : State) (f : FieldPos) : State := s.setFld a f (wordFld w f)
  let s := put (put (put (put s Fld.IMEM_LD_CTL_TARGET) Fld.IMEM_LD_CTL_BANK) Fld.IMEM_LD_CTL_COUNT) Fld.IMEM_LD_CTL_FIRST
  if wordFld w Fld.IMEM_LD_CTL_START = 0 then s
  else
    match s.loadRefusal c t with
    | 0 =>
      let b := s.fld a Fld.IMEM_LD_CTL_BANK
      let l : LoadJob :=
        { src := s.fld (Reg.IMEM_LD_SRC c (sidx t)) Fld.IMEM_LD_SRC_SRC, target := s.fld a Fld.IMEM_LD_CTL_TARGET
          bank := b, count := s.fld a Fld.IMEM_LD_CTL_COUNT, first := s.fld a Fld.IMEM_LD_CTL_FIRST }
      let s := (s.setFld st (readyFld b) 0).setFld st Fld.IMEM_LD_STAT_BUSY 1
      s.modStrm c t fun x => { x with load := some l }
    | n => (s.setFld st Fld.IMEM_LD_STAT_ERR 1).report (0x7280 + n) (s.coreCtx c) (some c) 0

def execImemLoadStart (c : CoreId) (t : Strm) (who : Writer) (v : Word32) (s : State) : Out :=
  .next (s.asked who c.val (.imemLoadStart c t who v) fun s =>
    s.command who (Reg.IMEM_LD_CTL c.val (sidx t)) fun s => s.loadStart c.val t v)

/-- A load's sectors as the mesh port reads them; what cannot be read (R154, R178, R220) is a free value.
DEDUCED: log entry 28. -/
def loadSectors (c : Nat) (t : Strm) : Nat → Nat → State → List Sector × State
  | 0, _, s => ([], s)
  | n + 1, a, s =>
    match s.fetchSec c t 4 a with
    | (s, .ok d) => let r := loadSectors c t n (a + 32) s; (d :: r.1, r.2)
    | (s, .error e) =>
      let r := loadSectors c t n (a + 32) { s.noteErr e with free := s.free + 1 }
      (Config.freeWord s.free :: r.1, r.2)

/-- Entries written to a table. -/
def putEntries {α : Type} (k : Nat) : SMap α → List α → SMap α
  | m, [] => m
  | m, x :: xs => putEntries (k + 1) (mset m k x) xs

/-- Entry `i` of `w` bits in a byte stream of sectors. -/
def entryOf (n w i : Nat) : Nat := n / 2 ^ (w * i) % 2 ^ w

/-- DEDUCED: log entry 28. -/
def State.loadDone (s : State) (c : Nat) (t : Strm) : State :=
  match (s.strm c t).load with
  | none => s
  | some l =>
    let w := 8 * itemBytes l.target
    let r := loadSectors c t ((l.count * itemBytes l.target + 31) / 32) l.src s
    let n := sectorsBits r.1
    let es := (List.range l.count).map (entryOf n w)
    let k := l.bank * tableSize l.target + l.first
    let put (x : StreamState) : StreamState :=
      match l.target with
      | 0 => { x with imem := putEntries k x.imem (es.map (BitVec.ofNat 128)) }
      | 1 => { x with ptrs := putEntries k x.ptrs (es.map (BitVec.ofNat 64)) }
      | _ => { x with descs := putEntries k x.descs (es.map (BitVec.ofNat 256)) }
    let s := r.2.modStrm c t fun x => { put x with load := none }
    let st := Reg.IMEM_LD_STAT c (sidx t)
    ((s.setFld st (readyFld l.bank) 1).setFld st Fld.IMEM_LD_STAT_BUSY 0).pump c

def execImemLoadDone (c : CoreId) (t : Strm) (s : State) : Out := .next (s.loadDone c.val t)

/-! Counter clears. -/

/-- The counters of the array (R74), of non-finite values (R95), of the mask units (R120), of the scratchpad (R182), of the
router (R215) and of expert routing (R314). -/
def arrayCounters (c : Nat) : List (Nat × FieldPos) :=
  [(Reg.ARRAY_ACT c, Fld.ARRAY_ACT_ACT), (Reg.ARRAY_USEFUL c, Fld.ARRAY_USEFUL_USEFUL),
   (Reg.ARRAY_STALL_FEED c, Fld.ARRAY_STALL_FEED_CYCLES), (Reg.ARRAY_STALL_WIN c, Fld.ARRAY_STALL_WIN_CYCLES),
   (Reg.ARRAY_STALL_ACC c, Fld.ARRAY_STALL_ACC_CYCLES), (Reg.ACC_ECC c, Fld.ACC_ECC_CORR_CNT)]

def nfCounters (c : Nat) : List (Nat × FieldPos) :=
  [(Reg.NF_POS_INF c, Fld.NF_POS_INF_COUNT), (Reg.NF_NEG_INF c, Fld.NF_NEG_INF_COUNT), (Reg.NF_NAN c, Fld.NF_NAN_COUNT)]

def maskCounters (c : Nat) : List (Nat × FieldPos) :=
  [(Reg.CMPR_DROP c, Fld.CMPR_DROP_COUNT), (Reg.CMPR_EXACT_CAP c, Fld.CMPR_EXACT_CAP_COUNT),
   (Reg.PRR_SWAPS c, Fld.PRR_SWAPS_COUNT), (Reg.PRR_FLIPS c, Fld.PRR_FLIPS_COUNT),
   (Reg.PRR_STALE c, Fld.PRR_STALE_COUNT), (Reg.PRR_NAN_CAND c, Fld.PRR_NAN_CAND_COUNT),
   (Reg.PRED_SKIP c, Fld.PRED_SKIP_COUNT), (Reg.PRED_AUDIT c, Fld.PRED_AUDIT_COUNT),
   (Reg.PRED_MISS c, Fld.PRED_MISS_COUNT), (Reg.PRED_BAND c, Fld.PRED_BAND_DROP),
   (Reg.PRED_BAND c, Fld.PRED_BAND_DONE), (Reg.PRED_OVER c, Fld.PRED_OVER_COUNT)]

def spCounters (c : Nat) : List (Nat × FieldPos) :=
  [(Reg.SP_ECC c, Fld.SP_ECC_CORR_CNT), (Reg.SP_PATROL c, Fld.SP_PATROL_SWEEPS)]
    ++ (List.range 5).map fun i => (Reg.SP_CONF c i, Fld.SP_CONF_CYCLES)

def mrCounters (c : Nat) : List (Nat × FieldPos) := [(Reg.MR_LATE c, Fld.MR_LATE_COUNT)]

def expCounters (c : Nat) : List (Nat × FieldPos) :=
  [(Reg.RT_CNT c, Fld.RT_CNT_OVF), (Reg.RT_CNT c, Fld.RT_CNT_NOCH), (Reg.CB_CNT c, Fld.CB_CNT_DSEC),
   (Reg.CB_CNT c, Fld.CB_CNT_STALE)]

/-- A reset that clears a core clears its counters too (R74), and its NF_FIRST (R95). -/
def State.clearCounters (s : State) (c : Nat) : State :=
  (s.clearFlds (arrayCounters c ++ nfCounters c ++ maskCounters c ++ spCounters c ++ mrCounters c ++ expCounters c)).setReg
    (Reg.NF_FIRST c) 0

def execArrayCntClr (c : CoreId) (s : State) : Out :=
  .next (s.ungated (Reg.ARRAY_CTL c.val) fun s => s.clearFlds (arrayCounters c.val))

def execNfCntClr (c : CoreId) (s : State) : Out :=
  .next (s.ungated (Reg.NF_CTL c.val) fun s => (s.clearFlds (nfCounters c.val)).setReg (Reg.NF_FIRST c.val) 0)

def execMaskCntClr (c : CoreId) (s : State) : Out :=
  .next (s.ungated (Reg.MASK_CTL c.val) fun s => s.clearFlds (maskCounters c.val))

/-- DESIGN CHOICE: log entry 31. -/
def execSpCntClr (c : CoreId) (s : State) : Out :=
  .next (s.ungated (Reg.SP_CTL c.val) fun s => s.clearFlds (spCounters c.val))

/-- DESIGN CHOICE: log entry 31. -/
def execMrCntClr (c : CoreId) (s : State) : Out :=
  .next (s.ungated (Reg.MR_CTL c.val) fun s => s.clearFlds (mrCounters c.val))

def execDetCntClr (c : CoreId) (s : State) : Out :=
  .next (s.ungated (Reg.DET_CTL c.val) fun s => s.clearFlds
    [(Reg.MAXEXP c.val, Fld.MAXEXP_EXP), (Reg.GNORM c.val, Fld.GNORM_VALUE)])

def execNearCntClr (h : Fin 8) (s : State) : Out :=
  let h := h.val
  .next (s.ungated (Reg.NEAR_CTL h) fun s => s.clearFlds
    [(Reg.NEAR_ECC h, Fld.NEAR_ECC_CORR_CNT), (Reg.NEAR_DIE_CORR h, Fld.NEAR_DIE_CORR_COUNT),
     (Reg.NEAR_LCR_CAPPED h, Fld.NEAR_LCR_CAPPED_COUNT), (Reg.NEAR_PATROL h, Fld.NEAR_PATROL_SWEEPS)])

def execRchCntClr (n : Fin 4) (s : State) : Out :=
  .next (s.ungated (Reg.RCH_CTL n.val) fun s => s.clearFlds
    [(Reg.RCH_ECC n.val, Fld.RCH_ECC_CORR_CNT), (Reg.RCH_LCR_CAPPED n.val, Fld.RCH_LCR_CAPPED_COUNT)])

def execNrlCntClr (p : Port) (s : State) : Out :=
  let g := p.val / 4
  let i := p.val % 4
  .next (s.ungated (Reg.NRL_CTL g i) fun s => s.clearFlds
    [(Reg.NRL_FEC_CORR g i, Fld.NRL_FEC_CORR_COUNT), (Reg.NRL_FEC_UNC g i, Fld.NRL_FEC_UNC_COUNT),
     (Reg.NRL_REPLAY g i, Fld.NRL_REPLAY_COUNT), (Reg.NRL_LOST g i, Fld.NRL_LOST_COUNT)])

def execNrlChCntClr (g : Group) (s : State) : Out :=
  .next (s.ungated (Reg.NRL_CH_CTL g.val) fun s => s.clearFlds
    [(Reg.NRL_CH_CNT g.val, Fld.NRL_CH_CNT_CH_OVF), (Reg.NRL_CH_CNT g.val, Fld.NRL_CH_CNT_CH_SKIP),
     (Reg.NRL_CH_CNT g.val, Fld.NRL_CH_CNT_CH_LATE)])

def execXchCntClr (g : Group) (s : State) : Out :=
  let g := g.val
  .next (s.ungated (Reg.XCH_CTL g) fun s => ((s.setReg (Reg.XCH_CNT0 g) 0).setReg (Reg.XCH_CNT1 g) 0).setReg
    (Reg.XCH_CHK g) 0)

def execExpCntClr (c : CoreId) (s : State) : Out :=
  .next (s.ungated (Reg.EXP_CTL c.val) fun s => s.clearFlds (expCounters c.val))

end Sys2Proof.Machine
end

