-- ==== Sys2Proof/Machine/Tiers.lean ====
section
/-! DEFINITION. The memories at work: patrol, remote requests and scrubs of the scratchpads (R176–R182), near memory
(R218–R222, R229, R232) and reach memory (R223–R227, R230, R232). -/

namespace Sys2Proof.Machine

open Sys2Proof

/-! Requests that fail. -/

/-- The stream whose instruction made a request, and where that instruction stands (R149). -/
def State.reqFrom (s : State) (r : Req) : Strm × Nat × Nat :=
  let k := s.core r.core
  match k.flights.find? fun f => f.iid == r.iid with
  | some f => (.access, f.index, f.bank)
  | none =>
    match k.jobs.find? fun j => j.iid == r.iid with
    | some j => (.execute, j.index, j.bank)
    | none => (.execute, s.strmIndex r.core .execute, s.strmBank r.core .execute)

/-- A request's instruction stops by an error (R178, R220, R226), and its core halts. Its later sectors are not
accessed; the earlier ones stand (R149). What a unit waits for raises the error where the unit comes to it. -/
def State.failReq (s : State) (r : Req) (e : AccErr) : State :=
  let s := s.dropReq r.id
  match r.kind with
  | .feed key => ((s.noteErr e).fillFeed r.core key r.addr (.bad e.code e.detail)).pump r.core
  | _ =>
    let s := { s with reqs := s.reqs.filter fun q =>
      q.core != r.core || q.iid != r.iid || decide (q.id < r.id) || q.stage != ReqStage.issued }
    let f := s.reqFrom r
    (s.raise r.core f.1 r.iid f.2.1 f.2.2 e).pump r.core

/-- A request has been served where it was sent. -/
def State.serveReq (s : State) (id : Nat) (d : Sector) : State :=
  { s with reqs := s.reqs.map fun r => if r.id = id then { r with stage := .served d } else r }

def ReqKind.isWrite : ReqKind → Bool
  | .write .. => true
  | _ => false

/-- A write of a request done at its place; a SEND's sector is noticed where it lands (R191). One whose merge read meets an
uncorrectable word is discarded, and its instruction stops (R178, R220). DEDUCED: log entry 42. -/
def State.landWrite (s : State) (r : Req) (l : Loc) (d : Sector) (be : Word32) : State :=
  match s.meshTry l d be with
  | (s, some u) => s.failReq r ⟨ueCode l, u, some (l, 4)⟩
  | (s, none) => (if r.sent then s.notice s.rank r.core else s).serveReq r.id 0

/-- A read of a request answered by the memory that holds the sector, with what the row says the check found: one wrong bit
is corrected and counted, more stop the reader (R177, R178, R219, R220). DESIGN CHOICE: log entry 39. -/
def State.answerRead (s : State) (r : Req) (l : Loc) (e : Ecc) : State :=
  let w := if l.space = .spad then l.key / 4 else l.key / 32
  let live := !s.gated l && !(l.space == .spad && s.scrubs (l.key / 0x20_0000)) && l.space != .reach
  let add (p : Bool) (m : List Nat) : List Nat := if p && !m.contains w then w :: m else m
  let ue := live && e == .uncorrectable && (s.ueLoc l).isNone
  let weak := live && e == .corrected && s.weakIn l == 0 && (s.ueLoc l).isNone
  let s := { s with
    spUe := add (ue && l.space == Space.spad) s.spUe
    nearUe := add (ue && l.space == Space.near) s.nearUe
    spWeak := add (weak && l.space == Space.spad) s.spWeak
    nearWeak := add (weak && l.space == Space.near) s.nearWeak }
  match s.takeLoc l with
  | (s, some d) => s.serveReq r.id d
  | (s, none) => s.failReq r ⟨ueCode l, (s.ueLoc l).getD l.addr, some (l, 4)⟩

/-- A request at a block whose clock is not enabled, in the RV5-compatible mode (R340). -/
def State.gateFails (s : State) (r : Req) (l : Loc) : Option AccErr :=
  if s.gated l && s.flag Reg.CLK_CFG Fld.CLK_CFG_GATE_ERR_COMPAT then
    some ⟨strmCode (s.reqFrom r).1 0x0D, r.addr, none⟩
  else none

/-- A request served by its memory: a write done, a read answered. -/
def State.serveAt (s : State) (r : Req) (l : Loc) (e : Ecc) : State :=
  match s.gateFails r l with
  | some x => s.failReq r x
  | none =>
    match r.kind with
    | .write x be => s.landWrite r l x be
    | _ => s.answerRead r l e

/-! The order of requests (R205, R218). -/

/-- The unit that serves a place: a stack's controller, a reach port, a core. -/
def Loc.unit (l : Loc) : Space × Nat :=
  match l.space with
  | .near => (.near, l.key / 2 ^ 31 / 32)
  | .reach => (.reach, l.key / 2 ^ 39)
  | .spad => (.spad, l.key / 0x20_0000)

def State.reqLoc (s : State) (r : Req) : Option Loc := (s.place r.addr).map (·.1)

/-- A request arrives at its unit: its route leads there (R209), and no earlier one of the same core on the same virtual
channel is still on its way to the same unit (R205). DESIGN CHOICE: log entry 41. -/
def State.arrives (s : State) (r : Req) (l : Loc) : Bool :=
  (match s.secRoute r.core l with
    | .arrives _ => true
    | _ => false)
  && !(s.reqs.takeWhile fun q => q.id != r.id).any fun q =>
    q.core == r.core && q.lcr == r.lcr && q.stage == .issued && ((s.reqLoc q).map Loc.unit) == some l.unit

/-! Scratchpads. -/

/-- The patrol's read of a line of four words (R177): one wrong bit is corrected, counted and rewritten; an uncorrectable word
is recorded and left. -/
def State.patrolLine (s : State) (c off : Nat) : State :=
  let w0 := (c * 0x20_0000 + off) / 4
  let ws := (List.range 4).map fun i => w0 + i
  let s := match (List.range 4).find? fun i => s.spUe.contains (w0 + i) with
    | some i => s.noteSpUe c 5 (off + 4 * i)
    | none => s
  let n := (ws.filter fun w => s.spWeak.contains w && !s.spUe.contains w).length
  let s := if n = 0 then s else s.bump (Reg.SP_ECC c) Fld.SP_ECC_CORR_CNT n
  { s with spWeak := s.spWeak.filter fun w => !ws.contains w || s.spUe.contains w }

/-- One patrol grant (R177): the row that SP_PATROL names in the bank given, whose word `word` the check finds as the row says;
the row advances with the last bank. PATROL_EN takes effect at a row boundary, whether patrol runs or not (R182).
DEDUCED: log entry 40. -/
def State.patrolSp (s : State) (c bank word : Nat) (e : Ecc) : State :=
  if !s.islEnabled (coreIsland c) ∨ !s.coreEnabled c then s
  else
    let held (s : State) : State := if bank < 63 then s
      else s.applyHeld fun r is => r.boundary == .patrolRow && is.headD 0 == c
    if s.fld (Reg.SP_CFG c) Fld.SP_CFG_PATROL_EN = 0 then held s
    else
      let row := s.fld (Reg.SP_PATROL c) Fld.SP_PATROL_ROW
      let off := row * 1024 + bank * 16
      let w := (c * 0x20_0000 + off) / 4 + word
      let add (p : Bool) (m : List Nat) : List Nat := if p && !m.contains w then w :: m else m
      let s := { s with
        spUe := add (e == Ecc.uncorrectable) s.spUe
        spWeak := add (e == Ecc.corrected && !s.spUe.contains w) s.spWeak }
      let s := s.patrolLine c off
      if bank < 63 then s
      else
        let s := s.setFld (Reg.SP_PATROL c) Fld.SP_PATROL_ROW (row + 1)
        held (if row = 2047 then s.bump (Reg.SP_PATROL c) Fld.SP_PATROL_SWEEPS 1 else s)

def execSpPatrol (c : CoreId) (bank : Fin 64) (word : Fin 4) (e : Ecc) (s : State) : Out :=
  .next (s.patrolSp c.val bank.val word.val e)

/-- A remote request reaches the owning core's mesh port (R176, R178), in its turn. -/
def State.serveRemote (s : State) (r : Req) (e : Ecc) : State :=
  match s.reqLoc r with
  | none => s.serveReq r.id 0
  | some l => if s.arrives r l then s.serveAt r l e else s

def execRemoteSpRequest (id : Nat) (e : Ecc) (s : State) : Out :=
  .next (match s.reqOf id with
    | some r => if r.path = .remote ∧ r.stage = .issued then s.serveRemote r e else s
    | none => s)

/-- The reduction entries of the routers that pass forget their sums (R215): counts and waiting inputs.
DEDUCED: log entry 30. -/
def State.clearReductions (s : State) (p : Nat → Bool) : State :=
  let entry (a : Nat) : Bool :=
    decide (ctrlBase ≤ a) && decide (a < ctrlBase + nCores * 0x1_0000) && a % 0x1_0000 / 0x200 == 0x20
      && p ((a - ctrlBase) / 0x1_0000)
  { s with
    regs := s.regs.map fun e => if entry e.1 then (e.1, wordSet e.2 Fld.MR_RTAG_DONE 0) else e
    redBuf := mfilter (fun k => !p (k / 512)) s.redBuf }

/-- A core begins its scrub (R180 steps 1 and 2): what it runs and what it has in flight is abandoned.
DEDUCED: log entry 30. -/
def State.scrubCore (s : State) (c : Nat) : State :=
  let s := (s.stopStream c .access 0).stopStream c .execute 0
  let clear (x : StreamState) : StreamState :=
    { x with loops := [], hold := .free, pastEnd := false, stopReq := none, stepping := false, load := none }
  let s := s.modCore c fun k =>
    { k with
      a := clear k.a, e := clear k.e, groups := [], flights := [], units := [], engine := none, feeds := [], pred := none, disarmAt := none
      route := .reset, scrubbing := true }
  let s := { s with
    reqs := s.reqs.filter fun r => r.core != c
    redFlits := s.redFlits.filter fun f => !f.srcs.any fun x => x.dev == s.rank && x.core == c }
  let zero (s : State) (t : Strm) : State :=
    (s.setFld (Reg.STRM_STAT c (sidx t)) Fld.STRM_STAT_DEPTH 0).setFld (Reg.IMEM_LD_STAT c (sidx t)) Fld.IMEM_LD_STAT_BUSY 0
  let s := ((zero (zero s .access) .execute).showPred c).showArray c false
  let s := (List.range 8).foldl (fun s w => s.setReg (Reg.CB_LANE c w) 0) (s.setReg (Reg.RT_STAT c) 0)
  (s.clearReductions (· == c)).setReg (Reg.SP_SCRUB c) (BitVec.ofNat 64 (2 ^ 31))

/-- The end of a core's scrub (R180 steps 3 and 4). DEDUCED: log entry 30. -/
def State.scrubEnd (s : State) (c : Nat) : State :=
  if (s.core c).scrubbing then
    let s := { s with
      spad := memClear s.spad (c * 0x20_0000) 0x20_0000
      spUe := s.spUe.filter fun w => w / 0x8_0000 != c
      spWeak := s.spWeak.filter fun w => w / 0x8_0000 != c }
    let s := s.modCore c fun k =>
      { k with acc := [], side := [], slots := [], wout := [], winRun := [], winLoad := [], accUe := [], accWeak := [], queues := [], scrubbing := false }
    let s := (List.range 8).foldl (fun s k => (s.setReg (Reg.CNT c 0 k) 0).setReg (Reg.CNT c 1 k) 0) s
    s.setReg (Reg.SP_SCRUB c) (BitVec.ofNat 64 (2 ^ 30 + 2048))
  else s

/-- DEDUCED: log entry 46. -/
def execCoreScrubDone (c : CoreId) (s : State) : Out := .next (s.scrubEnd c.val)

/-! Near memory. -/

/-- A latency-critical read counted in its window (R222): the 600th caps it. DESIGN CHOICE: log entry 41. -/
def State.countNear (s : State) (pc : Nat) : State :=
  let n := mget s.lcrWin 0 pc + 1
  let s := { s with lcrWin := mset s.lcrWin pc n }
  if n = 600 then s.bump (Reg.NEAR_LCR_CAPPED (pc / 32)) Fld.NEAR_LCR_CAPPED_COUNT 1 else s

/-- A latency-critical read. -/
def Req.critical (r : Req) : Bool := r.lcr && !r.kind.isWrite

/-- A request at a pseudo-channel has the slot (R222): latency-critical reads before the cap; after it the two sides in turn,
one that has nothing waiting yielding. -/
def State.nearTurn (s : State) (r : Req) (pc : Nat) : Bool :=
  let other (b : Bool) : Bool := s.reqs.any fun q =>
    q.path == .near && q.stage == .issued && q.critical == b && (match s.reqLoc q with
      | some l => l.space == .near && l.key / 2 ^ 31 == pc && s.arrives q l
      | none => false)
  if mget s.lcrWin 0 pc < 600 then r.critical || !other true
  else r.critical != mget s.lcrLast false pc || !other (!r.critical)

/-- A request in its command slot (R218–R222), in its turn. A pseudo-channel being margined serves nothing (R229).
DESIGN CHOICE: log entry 41. -/
def State.serveNear (s : State) (r : Req) (e : Ecc) : State :=
  match s.reqLoc r with
  | none => s.serveReq r.id 0
  | some l =>
    let pc := l.key / 2 ^ 31
    if s.margined l || !s.arrives r l || !s.nearTurn r pc then s
    else
      let s := if r.critical then s.countNear pc else s
      { s with lcrLast := mset s.lcrLast pc r.critical }.serveAt r l e

def execNearRequest (id : Nat) (e : Ecc) (s : State) : Out :=
  .next (match s.reqOf id with
    | some r => if r.path = .near ∧ r.stage = .issued then s.serveNear r e else s
    | none => s)

/-- Device address of a pseudo-channel's sector (R217, read backwards), where a set lists it.
DEDUCED: log entry 40. -/
def State.nearAddr (s : State) (pc pa : Nat) : Option Nat :=
  (List.range 8).findSome? fun n =>
    if (s.setOwner n).isNone then none
    else
      match (s.setChannels n).findIdx? (· == pc) with
      | none => none
      | some i =>
        let w := Reg.NEAR_SET_CFG n
        let l := s.fld w Fld.NEAR_SET_CFG_LOG2N
        let q := pa / 512
        some (s.fld w Fld.NEAR_SET_CFG_BASE * 2 ^ 31 + (q * 2 ^ l + (i ^^^ (q % 2 ^ l))) * 512 + pa % 512)

/-- A patrol slot (R219); the sector advances with the stack's last pseudo-channel. The record's address of a sector
that no set lists is a free value. DEDUCED: log entry 40. -/
def State.patrolNear (s : State) (h pc : Nat) (e : Ecc) (dieCorr : Nat) : State :=
  if s.fld (Reg.NEAR_CTL h) Fld.NEAR_CTL_PATROL_EN = 0 ∨ !s.uncEnabled (8 + h)
      ∨ s.flag (Reg.NEAR_STAT h) Fld.NEAR_STAT_SELFREF then s
  else
    let k := 32 * h + pc
    let n := s.fld (Reg.NEAR_PATROL h) Fld.NEAR_PATROL_SECTOR
    let key := (k * 2 ^ 31 + 32 * n) / 32
    let s := s.bump (Reg.NEAR_DIE_CORR h) Fld.NEAR_DIE_CORR_COUNT dieCorr
    let s := if e = .uncorrectable ∨ s.nearUe.contains key then
        let s := { s with
          nearUe := if s.nearUe.contains key then s.nearUe else key :: s.nearUe
          nearWeak := s.nearWeak.filter (· != key) }
        match s.nearAddr k (32 * n) with
        | some a => s.noteNearUe k 1 a
        | none => { s.noteNearUe k 1 (Config.freeNat s.free % 2 ^ 48) with free := s.free + 1 }
      else if e = .corrected ∨ s.nearWeak.contains key then
        { s with nearWeak := s.nearWeak.filter (· != key) }.bump (Reg.NEAR_ECC h) Fld.NEAR_ECC_CORR_CNT 1
      else s
    if pc < 31 then s
    else
      let s := s.setFld (Reg.NEAR_PATROL h) Fld.NEAR_PATROL_SECTOR (n + 1)
      if n + 1 = 2 ^ 26 then s.bump (Reg.NEAR_PATROL h) Fld.NEAR_PATROL_SWEEPS 1 else s

def execNearPatrol (h : Fin 8) (pc : Fin 32) (e : Ecc) (dieCorr : BitVec 16) (s : State) : Out :=
  .next (s.patrolNear h.val pc.val e dieCorr.toNat)

/-- A window boundary (R222, R227, R326): the windows' counts start again, and held fields take effect.
DESIGN CHOICE: log entry 41. -/
def State.tierBoundary (s : State) : State :=
  let s := s.rchWin.foldl (fun s (e : Nat × Nat × Nat) =>
    if 0 < e.2.1 ∧ e.2.2 ≤ 2 * e.2.1 then s.bump (Reg.RCH_LCR_CAPPED (e.1 / 8)) Fld.RCH_LCR_CAPPED_COUNT 1 else s) s
  { s with lcrWin := [], rchWin := [], lcrLast := [], rchLast := [] }.applyHeld fun r _ => r.boundary == Boundary.window

def execTierWindow (s : State) : Out := .next s.tierBoundary

/-! Reach memory. -/

/-- A transfer counted in its partition's window (R227). -/
def State.countReach (s : State) (n x : Nat) (lcr : Bool) : State :=
  let k := n * 8 + x
  let e := mget s.rchWin (0, 0) k
  { s with rchWin := mset s.rchWin k (e.1 + (if lcr then 1 else 0), e.2 + 1) }

def setStage (s : State) (id : Nat) (st : ReqStage) : State :=
  { s with reqs := s.reqs.map fun r => if r.id = id then { r with stage := st } else r }

def reachPort (addr : Nat) : Nat := (addr - reachBase) / 2 ^ 38

/-- A request meets a link that is down, or loses it (R226): a read stops its instruction, a write is lost. -/
def State.linkLost (s : State) (r : Req) : State :=
  if r.kind.isWrite then setStage s r.id .lost
  else s.failReq r ⟨0x34C4, r.addr, some (⟨.reach, reachPort r.addr * 2 ^ 39, r.addr⟩, 2)⟩

/-- Two sectors of a granule of 64 bytes that may make one transfer (R225): two reads, or two whole writes. -/
def Req.pairs (r q : Req) : Bool :=
  q.core == r.core && q.iid == r.iid && q.addr / 64 == r.addr / 64 && q.addr != r.addr && q.stage == .issued
    && (match r.kind, q.kind with
      | .write _ a, .write _ b => a == beAll && b == beAll
      | .write .., _ => false
      | _, .write .. => false
      | _, _ => true)

/-- The sector that its instruction asked for next, where the two make one transfer (R225). -/
def State.mateOf (s : State) (r : Req) : Option Req :=
  match (s.reqs.dropWhile fun q => q.id != r.id).tail.find? fun q => q.core == r.core && q.iid == r.iid with
  | some q => if r.pairs q then some q else none
  | none => none

/-- Context of a request's core. -/
def State.reqCtx (s : State) (r : Req) : Nat := (s.coreCtx r.core).getD 0

/-- A request that has arrived at a reach port waits there. -/
def State.reachWaits (s : State) (n : Nat) (q : Req) : Bool :=
  q.path == .reach && q.stage == .issued && reachPort q.addr == n && (match s.reqLoc q with
    | some l => s.arrives q l
    | none => false)

/-- The partition whose transfer a reach port takes next (R227): the one whose turn it is while it has some left, else the next
around that has a request waiting. Before the first transfer any may begin. -/
def State.reachNext (s : State) (n : Nat) : Option Nat :=
  let waits (x : Nat) : Bool := s.reqs.any fun q => s.reachWaits n q && s.reqCtx q == x
  match mfind s.rchTurn n with
  | none => none
  | some (x, left) =>
    if 0 < left ∧ waits x then some x else ((List.range 8).map fun i => (x + 1 + i) % 8).find? waits

/-- A request at a reach port has the transfer (R227): its partition's turn; within it, latency-critical reads until they have
taken half of its transfers in the window so far, then the two sides in turn. DESIGN CHOICE: log entry 41. -/
def State.reachTurn (s : State) (n : Nat) (r : Req) : Bool :=
  let x := s.reqCtx r
  let k := n * 8 + x
  let e := mget s.rchWin (0, 0) k
  let other (b : Bool) : Bool := s.reqs.any fun q => s.reachWaits n q && s.reqCtx q == x && q.critical == b
  (match s.reachNext n with
    | some y => y == x
    | none => true)
  && (if e.2 = 0 ∨ 2 * e.1 < e.2 then r.critical || !other true
      else r.critical != mget s.rchLast false k || !other (!r.critical))

/-- A transfer of a partition counted against its turn (R227): weights of RCH_ARB, 0 taken as 1. -/
def State.takeTurn (s : State) (n : Nat) (r : Req) : State :=
  let x := s.reqCtx r
  let w := max 1 ((s.reg (Reg.RCH_ARB n)).toNat / 16 ^ x % 16)
  let left := match mfind s.rchTurn n with
    | some (y, l) => if y = x ∧ 0 < l then l - 1 else w - 1
    | none => w - 1
  { s with rchTurn := mset s.rchTurn n (x, left), rchLast := mset s.rchLast (n * 8 + x) r.critical }

/-- A request reaches a reach port and is sent to the device, with the sector it shares a transfer with (R225–R227). A port
whose crystal is lost takes none (R352). -/
def State.sendReach (s : State) (r : Req) : State :=
  match s.reqLoc r with
  | none => s.serveReq r.id 0
  | some l =>
    if !s.arrives r l then s
    else if s.gated l then s.serveAt r l .clean
    else
      let n := reachPort r.addr
      if s.power.xbLost then s
      else if !s.reachUp n then s.linkLost r
      else if !s.reachTurn n r then s
      else
        let s := (s.irrepro (s.reqCtx r)).countReach n (s.reqCtx r) r.critical
        let s := s.takeTurn n r
        match s.mateOf r with
        | none => setStage s r.id .deviceWait
        | some q =>
          { s with reqs := s.reqs.map fun x =>
              if x.id = r.id then { x with stage := .deviceWait, mate := some q.id }
              else if x.id = q.id then { x with stage := .deviceWait, mate := some r.id } else x }

def execReachRequest (id : Nat) (s : State) : Out :=
  .next (match s.reqOf id with
    | some r => if r.path = .reach ∧ r.stage = .issued then s.sendReach r else s
    | none => s)

/-- The requests of one transfer that a device still holds, in the order they were issued. -/
def State.transfer (s : State) (r : Req) : List Req :=
  s.reqs.filter fun q => q.stage == .deviceWait && (q.id == r.id || r.mate == some q.id)

/-- E_MEM_UE of a reach read (R226): kind 0 poison or error status, 1 timeout. DEDUCED: log entry 42. -/
def State.reachFail (s : State) (r : Req) (kind : Nat) : State :=
  (s.noteReachUe (reachPort r.addr) kind r.addr).failReq r ⟨0x44C1, r.addr, none⟩

/-- A completion returns for a sector (R225, R226). A write that the device failed leaves a free value.
DEDUCED: log entry 42. -/
def State.reachDoneOne (s : State) (r : Req) (st : ReachStatus) : State :=
  match s.reqOf r.id, s.reqLoc r with
  | none, _ => s
  | some _, none => s.serveReq r.id 0
  | some r, some l =>
    match r.kind with
    | .write d be =>
      if st = .failed then { s.landWrite r l (Config.freeWord s.free) be with free := s.free + 1 } else s.landWrite r l d be
    | _ => if st = .failed then s.reachFail r 0 else s.answerRead r l .clean

/-- An earlier transfer of the same core to the same granule has not completed (R225). -/
def State.granuleBusy (s : State) (r : Req) : Bool :=
  (s.reqs.takeWhile fun q => q.id != r.id).any fun q =>
    q.core == r.core && q.path == .reach && q.stage == .deviceWait && q.addr / 64 == r.addr / 64 && r.mate != some q.id

/-- A completion returns for a transfer; transfers of one core to one granule complete in the order they left (R225). -/
def State.reachDone (s : State) (r : Req) (st : ReachStatus) : State :=
  if s.granuleBusy r then s
  else
    let s := if st = .corrected then s.bump (Reg.RCH_ECC (reachPort r.addr)) Fld.RCH_ECC_CORR_CNT 1 else s
    (s.transfer r).foldl (fun s q => s.reachDoneOne q st) s

def execReachCompletion (id : Nat) (st : ReachStatus) (s : State) : Out :=
  .next (match s.reqOf id with
    | some r => if r.path = .reach ∧ r.stage = .deviceWait ∧ ¬ s.power.xbLost then s.reachDone r st else s
    | none => s)

def execReachTimeout (id : Nat) (s : State) : Out :=
  .next (match s.reqOf id with
    | some r =>
      if r.path = .reach ∧ r.stage = .deviceWait ∧ ¬ r.kind.isWrite ∧ ¬ s.power.xbLost then
        (s.transfer r).foldl (fun s q => if (s.reqOf q.id).isSome then s.reachFail q 1 else s) s
      else s
    | none => s)

/-- Cells whose key passes take free values, one each from the n-th on; with them the number of the next free value.
DESIGN CHOICE: log entry 43. -/
def memFree (p : Nat → Bool) : Mem → Nat → Mem × Nat
  | [], n => ([], n)
  | (k, b) :: m, n =>
    if p k then
      let r := memFree p m (n + 1)
      let v := BitVec.ofNat 8 (Config.freeNat n)
      (if v = 0 then r.1 else (k, v) :: r.1, r.2)
    else
      let r := memFree p m n
      ((k, b) :: r.1, r.2)

/-- What the devices behind links that have been down hold is open (R231). DESIGN CHOICE: log entry 43. -/
def State.reachForgets (s : State) (p : Nat → Bool) : State :=
  let r := memFree (fun k => p (k / 2 ^ 39)) s.reach s.free
  { s with reach := r.1, free := r.2, reachUe := mfilter (fun k => !p (k / 2 ^ 34)) s.reachUe }

/-- A reach link goes down (R226): what is outstanding on it meets that. -/
def State.reachDown (s : State) (n : Nat) : State :=
  let s := s.reachForgets (· == n)
  let s := s.setFld (Reg.RCH_STAT n) Fld.RCH_STAT_LINK_UP 0
  let out := s.reqs.filter fun r =>
    r.path == .reach && reachPort r.addr == n && (r.stage == .issued || r.stage == .deviceWait)
  out.foldl (fun s r => match s.reqOf r.id with
    | some r => s.linkLost r
    | none => s) s

def execReachLinkDown (n : Fin 4) (s : State) : Out := .next (if s.power.xbLost then s else s.reachDown n.val)

/-! Margining (R229, R230). -/

/-- Fields of a register taken from a written value. -/
def State.putFlds (s : State) (a : Nat) (v : Word32) (fs : List FieldPos) : State :=
  fs.foldl (fun s f => s.setFld a f (wordFld (v.setWidth 64) f)) s

/-- A refused START (R229): REFUSED, and E_MARGIN_BUSY where a run or a running core stands in the way.
DEDUCED: log entry 45. -/
def State.marginRefuse (s : State) (a : Nat) (f : FieldPos) (busy : Bool) (code detail : Nat) : State :=
  let s := s.setFld a f 1
  if busy then s.report code none none detail else s

/-- A core of the partition that owns a pseudo-channel's valid set runs. -/
def State.pcRuns (s : State) (pc : Nat) : Bool :=
  (List.range 8).any fun n => (s.setChannels n).contains pc && optRuns s (s.setOwner n)

/-- DEDUCED: log entry 45. -/
def State.nearMarginGo (s : State) (h : Nat) (v : Word32) : State :=
  let c := Reg.NEAR_MRG_CTL h
  let st := Reg.NEAR_MRG_STAT h
  let s := s.putFlds c v [Fld.NEAR_MRG_CTL_KIND, Fld.NEAR_MRG_CTL_DIR, Fld.NEAR_MRG_CTL_STEPS, Fld.NEAR_MRG_CTL_PC]
  if wordFld (v.setWidth 64) Fld.NEAR_MRG_CTL_START = 0 then s
  else
    let pc := s.fld c Fld.NEAR_MRG_CTL_PC
    let busy := s.flag st Fld.NEAR_MRG_STAT_BUSY || s.pcRuns (32 * h + pc)
    if busy ∨ s.fld c Fld.NEAR_MRG_CTL_STEPS = 0 then s.marginRefuse st Fld.NEAR_MRG_STAT_REFUSED busy 0x7482 c
    else { s.setFld st Fld.NEAR_MRG_STAT_BUSY 1 with nearMargin := mset s.nearMargin h pc }

def execNearMarginStart (h : Fin 8) (v : Word32) (s : State) : Out :=
  .next (s.ungated (Reg.NEAR_MRG_CTL h.val) fun s => s.nearMarginGo h.val v)

/-- A pseudo-channel of a set is being margined. -/
def State.setMargined (s : State) (n : Nat) : Bool :=
  (s.setChannels n).any fun pc => mfind s.nearMargin (pc / 32) == some (pc % 32)

/-- Sets whose scrub waited for a margining run begin it (R232). DEDUCED: log entry 45. -/
def State.nearScrubs (s : State) : State :=
  let go := s.nearWait.filter fun n => !s.setMargined n
  let s := { s with nearWait := s.nearWait.filter fun n => !go.contains n }
  go.foldl (fun s n => s.setReg (Reg.NEAR_SCRUB n) (BitVec.ofNat 64 (2 ^ 31))) s

/-- A partition with a valid segment of a port has a core running. -/
def State.portSegsRun (s : State) (n : Nat) : Bool := (List.range 16).any fun i => optRuns s (s.segCtx n i)

def State.reachMarginGo (s : State) (n : Nat) (v : Word32) : State :=
  let c := Reg.RCH_MRG_CTL n
  let st := Reg.RCH_MRG_STAT n
  let s := s.putFlds c v [Fld.RCH_MRG_CTL_SIDE, Fld.RCH_MRG_CTL_KIND, Fld.RCH_MRG_CTL_DIR, Fld.RCH_MRG_CTL_STEPS,
    Fld.RCH_MRG_CTL_LANE]
  if wordFld (v.setWidth 64) Fld.RCH_MRG_CTL_START = 0 then s
  else if s.flag st Fld.RCH_MRG_STAT_BUSY || s.portSegsRun n then
    s.marginRefuse st Fld.RCH_MRG_STAT_REFUSED true 0x74C2 c
  else s.setFld st Fld.RCH_MRG_STAT_BUSY 1

def execRchMarginStart (n : Fin 4) (v : Word32) (s : State) : Out :=
  .next (s.ungated (Reg.RCH_MRG_CTL n.val) fun s => s.reachMarginGo n.val v)

def execRchMarginDone (n : Fin 4) (pass : BitVec 6) (errs : BitVec 16) (s : State) : Out :=
  let st := Reg.RCH_MRG_STAT n.val
  .next (if s.flag st Fld.RCH_MRG_STAT_BUSY ∧ ¬ s.power.xbLost then
    let s := ((s.setFld st Fld.RCH_MRG_STAT_BUSY 0).setFld st Fld.RCH_MRG_STAT_DONE 1).setFld st Fld.RCH_MRG_STAT_PASS
      pass.toNat
    s.setFld st Fld.RCH_MRG_STAT_ERRS errs.toNat
  else s)

/-! Scrubs (R232). -/

/-- The tier regions of a killed partition begin their scrub. -/
def State.scrubTiers (s : State) (x : Nat) : State :=
  let sets := (List.range 8).filter fun n => s.setOwner n == some x
  let s := { s with nearWait := s.nearWait.filter (fun n => !sets.contains n) ++ sets }.nearScrubs
  (List.range 4).foldl (fun s n =>
    let segs := (List.range 16).filter fun i => s.segCtx n i == some x
    match segs with
    | [] => s
    | i :: _ =>
      let s := segs.foldl (fun s i => s.setFld (Reg.RCH_SEG n i) Fld.RCH_SEG_SCRUB 1) s
      if s.flag (Reg.RCH_SCRUB n) Fld.RCH_SCRUB_BUSY then s
      else s.setReg (Reg.RCH_SCRUB n) (BitVec.ofNat 64 (2 ^ 31 + i * 2 ^ 14))) s

/-- The first `mib` MiB of a set's addresses hold zeros (R232). -/
def State.nearZero (s : State) (n mib : Nat) : State :=
  let base := s.fld (Reg.NEAR_SET_CFG n) Fld.NEAR_SET_CFG_BASE * 2 ^ 31
  let ch := s.setChannels n
  let done (k : Nat) : Bool := ch.contains (k / 2 ^ 31) && (match s.nearAddr (k / 2 ^ 31) (k % 2 ^ 31) with
    | some a => decide (a < base + mib * 2 ^ 20)
    | none => false)
  { s with
    near := s.near.filter fun c => !done c.1
    nearUe := s.nearUe.filter fun k => !done (32 * k)
    nearWeak := s.nearWeak.filter fun k => !done (32 * k) }

/-- A set's scrub goes on by a free number of MiB, short of its end (R232). DEDUCED: log entry 46. -/
def State.nearScrubGo (s : State) (n : Nat) : State :=
  let a := Reg.NEAR_SCRUB n
  let total := 2048 * (s.setChannels n).length
  let done := s.fld a Fld.NEAR_SCRUB_MIB
  if s.flag a Fld.NEAR_SCRUB_BUSY ∧ done < total then
    let m := done + Config.freeNat s.free % (total - done)
    { (s.nearZero n m).setFld a Fld.NEAR_SCRUB_MIB m with free := s.free + 1 }
  else s

def State.nearScrubbed (s : State) (n : Nat) : State :=
  let a := Reg.NEAR_SCRUB n
  if s.flag a Fld.NEAR_SCRUB_BUSY then
    let ch := s.setChannels n
    let s := { s with
      near := s.near.filter fun c => !ch.contains (c.1 / 2 ^ 31)
      nearUe := s.nearUe.filter fun k => !ch.contains (k / 2 ^ 26)
      nearWeak := s.nearWeak.filter fun k => !ch.contains (k / 2 ^ 26) }
    s.setReg a (BitVec.ofNat 64 (2 ^ 30 + 2048 * ch.length))
  else s

/-- In the Returned state RET_SCRUB_DONE is set once every scrub has ended (R376). -/
def State.returnScrubbed (s : State) : State :=
  let busy := !s.nearWait.isEmpty || ((List.range 8).any fun n => s.flag (Reg.NEAR_SCRUB n) Fld.NEAR_SCRUB_BUSY)
    || (List.range 4).any fun n => s.flag (Reg.RCH_SCRUB n) Fld.RCH_SCRUB_BUSY
  if s.fld Reg.SEC_STAT Fld.SEC_STAT_LC = 3 ∧ ¬ busy then s.setFld Reg.SEC_STAT Fld.SEC_STAT_RET_SCRUB_DONE 1 else s

/-- DEDUCED: log entry 46. -/
def execNearScrubDone (n : Fin 8) (s : State) : Out := .next (s.nearScrubbed n.val).returnScrubbed

/-- Segments of a port that its scrub covers, ascending. -/
def State.scrubSegs (s : State) (n : Nat) : List Nat :=
  (List.range 16).filter fun i => s.flag (Reg.RCH_SEG n i) Fld.RCH_SEG_SCRUB

/-- A port's scrub goes on by a free number of MiB through its segments, short of its end (R232). DEDUCED: log entry 46. -/
def State.reachScrubGo (s : State) (n : Nat) : State :=
  let a := Reg.RCH_SCRUB n
  let segs := s.scrubSegs n
  let pos := (segs.findIdx (· == s.fld a Fld.RCH_SCRUB_SEG)) * 2 ^ 14 + s.fld a Fld.RCH_SCRUB_MIB
  let total := segs.length * 2 ^ 14
  if s.flag a Fld.RCH_SCRUB_BUSY ∧ pos < total then
    let p := pos + Config.freeNat s.free % (total - pos)
    let done (k : Nat) : Bool := k / 2 ^ 39 == n &&
      ((List.range segs.length).any fun j =>
        k % 2 ^ 39 / 2 ^ 34 == s.fld (Reg.RCH_SEG n (segs.getD j 0)) Fld.RCH_SEG_DSEG
          && decide (j * 2 ^ 34 + k % 2 ^ 34 < p * 2 ^ 20))
    let s := { s with
      reach := s.reach.filter (fun c => !done c.1), free := s.free + 1
      reachUe := mfilter (fun k => !done (32 * k)) s.reachUe }
    (s.setFld a Fld.RCH_SCRUB_SEG (segs.getD (p / 2 ^ 14) 0)).setFld a Fld.RCH_SCRUB_MIB (p % 2 ^ 14)
  else s

/-- The end of a port's scrub. MIB's end value, 16,384, does not fit its 14 bits: a free value.
DEDUCED: log entry 45. -/
def State.reachScrubbed (s : State) (n : Nat) : State :=
  let a := Reg.RCH_SCRUB n
  if s.flag a Fld.RCH_SCRUB_BUSY then
    let segs := s.scrubSegs n
    let ds := segs.map fun i => n * 32 + s.fld (Reg.RCH_SEG n i) Fld.RCH_SEG_DSEG
    let s := { s with
      reach := s.reach.filter fun c => !ds.contains (c.1 / 2 ^ 34)
      reachUe := mfilter (fun k => !ds.contains (k / 2 ^ 29)) s.reachUe }
    let s := segs.foldl (fun s i => s.setFld (Reg.RCH_SEG n i) Fld.RCH_SEG_SCRUB 0) s
    { s.setReg a (BitVec.ofNat 64 (2 ^ 30 + segs.getLastD 0 * 2 ^ 14 + Config.freeNat s.free % 2 ^ 14)) with
      free := s.free + 1 }
  else s

def execReachScrubDone (n : Fin 4) (s : State) : Out := .next (s.reachScrubbed n.val).returnScrubbed

end Sys2Proof.Machine
end

