-- ==== Sys2Proof/Machine/Chain.lean ====
section
/-! DEFINITION. The chain adders and the share stage of the port groups: chain entries and their sums (R249–R251), shares
and their commit (R288–R292), settling (R295), the second-path check (R296, R297) and the rows that bring them sectors. -/

namespace Sys2Proof.Machine

open Sys2Proof

/-! Signals and memory accesses that a unit makes on its own account. -/

/-- A unit that is no stream signals: it has no identity in PEN_LAST (R186), whose fields are then free values.
DESIGN CHOICE: log entry 34. -/
def State.unitSignaller (s : State) : Signaller × State :=
  (⟨s.rank, Config.freeNat s.free % 4096, Config.freeNat (s.free + 1) % 2, false⟩, { s with free := s.free + 2 })

/-- 1 is added to a shared pennant named by its virtual identifier in a context (R260, R292). -/
def State.unitSignal (s : State) (ctx : Option Nat) (vid : Nat) : State :=
  let r := s.unitSignaller
  match r.2.penTranslate ctx vid with
  | none => r.2.penErr (penCode 4) r.1 vid ctx
  | some k => r.2.penQuiet k r.1 0 1 vid ctx

/-- Bytes from a device address on, sector by sector as they lie. -/
def State.rdBytes (s : State) (a n : Nat) : List Byte :=
  (List.range n).map fun i => BitVec.ofNat 8 ((s.rdAt ((a + i) / 32 * 32)).toNat / 256 ^ ((a + i) % 32))

def State.rdNat (s : State) (a n : Nat) : Nat := bytesNat (s.rdBytes a n)

/-- A sector written for a context; an address that fails the check of R154 takes nothing. -/
def State.wrSec (s : State) (x : Option Nat) (a : Nat) (d : Sector) (be : Word32) : State :=
  match s.locate x a with
  | some l => s.meshSt l d be
  | none => s

/-- Data and byte enables of one sector of a byte string that begins at `a`. -/
def sectorPart (a : Nat) (bs : List Byte) (q : Nat) : Sector × Word32 :=
  let here (i : Nat) : Bool := decide (a ≤ q + i) && decide (q + i < a + bs.length)
  (BitVec.ofNat 256 (bytesNat ((List.range 32).map fun i => if here i then bs.getD (q + i - a) 0 else 0)),
   BitVec.ofNat 32 ((List.range 32).foldl (fun m i => if here i then m + 2 ^ i else m) 0))

/-- The sectors in which bytes from `a` on lie: address, data, byte enables. -/
def byteSectors (a : Nat) (bs : List Byte) : List (Nat × Sector × Word32) :=
  (List.range ((a % 32 + bs.length + 31) / 32)).map fun n => ((a / 32 + n) * 32, sectorPart a bs ((a / 32 + n) * 32))

/-- Bytes `bs` written from `a`, in the sectors they lie in. -/
def State.wrBytes (s : State) (x : Option Nat) (a : Nat) (bs : List Byte) : State :=
  (byteSectors a bs).foldl (fun s w => s.wrSec x w.1 w.2.1 w.2.2) s

/-! Entries. -/

/-- A valid chain entry with its exchange extension, as its registers give it (R254, R301). -/
structure ChainCfg where
  g : Nat
  c : Nat
  fmt : Nat
  pos : Nat
  late : Bool
  tag : Nat
  ltag : Nat
  next : Nat
  deadline : Nat
  nsec : Nat
  mode : Nat
  drop : Bool
  head : Nat
  k : Nat
  chk : Nat
  stag : Nat
  doneEn : Bool
  donePen : Nat
  deriving DecidableEq, Repr

def ChainCfg.loc (e : ChainCfg) (s : State) : Nat := (s.reg (Reg.XCH_LOC e.g e.c)).toNat % 2 ^ 48
def ChainCfg.xin (e : ChainCfg) (s : State) : Nat := (s.reg (Reg.XCH_XIN e.g e.c)).toNat % 2 ^ 48
def ChainCfg.upd (e : ChainCfg) (s : State) : Nat := (s.reg (Reg.XCH_UPD e.g e.c)).toNat % 2 ^ 48
def ChainCfg.hold (e : ChainCfg) (s : State) : Nat := (s.reg (Reg.XCH_HOLD e.g e.c)).toNat % 2 ^ 48
def ChainCfg.sum (e : ChainCfg) (s : State) : Nat := (s.reg (Reg.XCH_SUM e.g e.c)).toNat % 2 ^ 48
def ChainCfg.flagAt (e : ChainCfg) (s : State) : Nat := (s.reg (Reg.XCH_FLAG e.g e.c)).toNat % 2 ^ 48
def ChainCfg.agv (e : ChainCfg) (s : State) : Nat := (s.reg (Reg.XCH_AGV e.g e.c)).toNat % 2 ^ 48
def ChainCfg.agi (e : ChainCfg) (s : State) : Nat := (s.reg (Reg.XCH_AGI e.g e.c)).toNat % 2 ^ 48

def State.replay (s : State) : Bool := s.flag Reg.STEP_CTL Fld.STEP_CTL_REPLAY

/-- A chain entry, where it is valid (R254, R301). -/
def State.chainCfg (s : State) (g c : Nat) : Option ChainCfg :=
  let a := Reg.NRL_CHAIN g c
  let x := Reg.XCH_CFG g c
  let fmt := s.fld a Fld.NRL_CHAIN_FMT
  let pos := s.fld a Fld.NRL_CHAIN_POS
  let m := s.fld x Fld.XCH_CFG_MODE
  if s.flag a Fld.NRL_CHAIN_VALID ∧ fmt ≠ 3 ∧ pos ≠ 3 then
    some
      { g := g, c := c, fmt := fmt, pos := pos, late := s.flag a Fld.NRL_CHAIN_LATE
        tag := s.fld a Fld.NRL_CHAIN_TAG, ltag := s.fld a Fld.NRL_CHAIN_LTAG, next := s.fld a Fld.NRL_CHAIN_NEXT_DEV
        deadline := s.fld (Reg.NRL_CHAIN_DL g c) Fld.NRL_CHAIN_DL_DEADLINE
        nsec := s.fld (Reg.NRL_CHAIN_DL g c) Fld.NRL_CHAIN_DL_NSEC
        mode := if fmt = 0 ∧ (m = 1 ∨ m = 2) then m else 0
        drop := s.flag x Fld.XCH_CFG_POLICY, head := min 10 (s.fld x Fld.XCH_CFG_H)
        k := s.fld x Fld.XCH_CFG_K_M1 + 1, chk := s.fld x Fld.XCH_CFG_CHK_LOG2, stag := s.fld x Fld.XCH_CFG_STAG
        doneEn := s.flag x Fld.XCH_CFG_DONE_EN, donePen := s.fld x Fld.XCH_CFG_DONE_PEN }
  else none

/-- The valid entries of a group, ascending. -/
def State.chainsOf (s : State) (g : Nat) : List ChainCfg := (List.range 64).filterMap fun c => s.chainCfg g c

/-- LATE as it acts: not in replay mode (R278), not on a check-mode entry (R296). -/
def State.chainLate (s : State) (e : ChainCfg) : Bool := e.late && !s.replay && e.mode != 2

/-- DEDUCED: log entry 56. -/
def ChainState.empty : ChainState :=
  { inq := [], locq := [], nIn := 0, nLoc := 0, arrived := [], passed := false, skipped := [], nSkip := 0, late := false
    lateTicks := 0, checks := [], sums := [], flags := [], flagOut := [], inMsg := none }

def State.chain (s : State) (g c : Nat) : ChainState := mget s.chains ChainState.empty (g * 64 + c)
def State.setChain (s : State) (g c : Nat) (x : ChainState) : State := { s with chains := mset s.chains (g * 64 + c) x }

/-- An error of a chain entry that no port brought: in its group's lowest port's record. DEDUCED: log entry 57. -/
def State.chainErr (s : State) (e : ChainCfg) (code : Nat) : State := s.portErr (4 * e.g) code e.tag

/-! What a write from the links or from a chain's tail tells the check chains that end here (R297). -/

/-- The valid entries whose register has been written since reset; the others are not valid (R254). -/
def State.writtenChains (s : State) : List ChainCfg :=
  s.regs.filterMap fun (r : Nat × Word) =>
    let o := r.1 - Reg.NRL_CHAIN 0 0
    if Reg.NRL_CHAIN 0 0 ≤ r.1 ∧ o / 0x10_0000 < 8 ∧ o % 0x10_0000 < 1024 ∧ o % 16 = 0 then
      s.chainCfg (o / 0x10_0000) (o % 0x10_0000 / 16)
    else none

def State.noteWrote (s : State) (a : Nat) (be : Word32) : State :=
  s.writtenChains.foldl (fun s e =>
    if e.mode = 2 ∧ e.pos = 2 then
      let x := s.chain e.g e.c
      let sums := if e.sum s ≤ a ∧ (a - e.sum s) % 32 = 0 ∧ be ≠ 0 then ((a - e.sum s) / 32) :: x.sums else x.sums
      let fl := (List.range 32).filterMap fun i =>
        if be.toNat / 2 ^ i % 2 = 1 ∧ e.flagAt s ≤ a + i then some (a + i - e.flagAt s) else none
      s.setChain e.g e.c { x with sums := sums, flags := fl ++ x.flags }
    else s) s

/-! Sums. -/

def i8 (b : Nat) : Int := sext 8 (b % 256)

/-- The elements of a sector as signed bytes. -/
def sectorI8 (d : Sector) : List Int := (unpackBits 8 32 d.toNat).map i8

/-- partial + local (R249, R250): the sum, its overflow flag, and whether this adder set it. -/
def chainAdd (fmt : Nat) (p : Sector) (pf : Bool) (l : Sector) (lf : Bool) : Sector × Bool × Bool :=
  match fmt with
  | 0 =>
    if pf || lf then (0, true, false)
    else
      let xs := (List.zip (sectorI8 p) (sectorI8 l)).map fun x => x.1 + x.2
      if xs.any fun v => decide (v < -128) || decide (127 < v) then (0, true, true)
      else (BitVec.ofNat 256 (packBits 8 (xs.map fun v => (v % 256).toNat)), false, false)
  | 1 => (redAdd 1 p l, false, false)
  | _ => (redAdd 0 p l, false, false)

/-- Context of a group's traffic (R242). -/
def ChainCfg.ctx (e : ChainCfg) (s : State) : Option Nat := s.groupCtx e.g

/-- A peer without chain adders takes partials as writes (R247): every port that could carry them has FEAT bit 0 clear.
DESIGN CHOICE: log entry 55. -/
def State.noAdders (s : State) (x : Option Nat) (dst : Nat) : Bool :=
  match dirTo (s.torus x) s.rank dst with
  | none => false
  | some d =>
    let up := (s.dirPorts x d).filter s.portInServ
    !up.isEmpty && up.all fun p => s.fld (nrlStat p) Fld.NRL_STAT_FEAT % 2 == 0

/-- A write of a chain's tail, of sectors in succession: on this device, or one message to its owner. The message's SRC_CORE
is a free value: no core sends it. DESIGN CHOICE: log entry 55. -/
def State.chainWrite (s : State) (e : ChainCfg) (ws : List (Nat × Sector × Word32)) : State :=
  match ws with
  | [] => s
  | w :: _ =>
    if e.next = s.rank then ws.foldl (fun s w => (s.wrSec (e.ctx s) w.1 w.2.1 w.2.2).noteWrote w.1 w.2.2) s
    else
      let m : Msg :=
        { dst := BitVec.ofNat 10 e.next, srcDev := BitVec.ofNat 10 s.rank, srcCore := BitVec.ofNat 12 (Config.freeNat s.free)
          kind := 0, tag := 0, flags := 0, addr := BitVec.ofNat 48 w.1, vc := 3, nsecM1 := BitVec.ofNat 6 (ws.length - 1)
          data := ws.map (·.2.1), be := if ws.all fun w => w.2.2 == beAll then [] else ws.map (·.2.2) }
      { s.nirloSend (e.ctx s) m with free := s.free + 1 }

/-- FLAG[k] at a share chain's tail: the flag bytes of a message go in one write once all its slots have gone (R293). -/
def State.tailFlag (s : State) (e : ChainCfg) (pos : Nat) (flag : Bool) (batch : Nat × Nat) : State :=
  let x := s.chain e.g e.c
  let mine (f : Nat × Bool) : Bool := decide (batch.1 ≤ f.1) && decide (f.1 < batch.1 + batch.2)
  let all := (pos, flag) :: x.flagOut
  if (all.filter mine).length < batch.2 then s.setChain e.g e.c { x with flagOut := all }
  else
    let byte (k : Nat) : Byte := if all.contains (batch.1 + k, true) then 1 else 0
    (s.setChain e.g e.c { x with flagOut := all.filter fun f => !mine f }).chainWrite e
      (byteSectors (e.flagAt s + batch.1) ((List.range batch.2).map byte))

/-- Position `pos` goes on (R249, R293, R297): to the next device, to the owner's memory, or into a comparison.
DESIGN CHOICE: log entry 55. -/
def State.chainOut (s : State) (e : ChainCfg) (pos addr : Nat) (d : Sector) (flag : Bool) (number : Nat) (batch : Nat × Nat) :
    State :=
  if e.pos = 2 then
    if e.mode = 2 then
      let x := s.chain e.g e.c
      s.setChain e.g e.c { x with checks := x.checks ++ [(⟨number, d, flag⟩ : CheckIn)] }
    else if e.mode = 1 then
      (s.chainWrite e [(e.sum s + 32 * pos, d, beAll)]).tailFlag e pos flag batch
    else s.chainWrite e [(addr, d, beAll)]
  else
    let plain := s.noAdders (e.ctx s) e.next
    let m : Msg :=
      { dst := BitVec.ofNat 10 e.next, srcDev := BitVec.ofNat 10 s.rank, srcCore := BitVec.ofNat 12 (Config.freeNat s.free)
        kind := if plain then 0 else 5, tag := BitVec.ofNat 12 (if plain then 0 else e.tag)
        flags := if flag && !plain then 1 else 0, addr := BitVec.ofNat 48 addr, vc := 2, data := [d] }
    { s.nirloSend (e.ctx s) m with free := s.free + 1 }

/-! The share stage's commit (R291, R292). -/

/-- x − q·2^s of eight elements of a sector. -/
def remainderSec (scale : Nat) (x : Sector) (qs : List Int) : Sector :=
  BitVec.ofNat 256 (packBits 32 ((List.zip (unpackBits 32 8 x.toNat) qs).map fun p =>
    FFmt.fp32.round (.sub (FFmt.fp32.decode p.1) ((Num.ofInt p.2).scale ((scale : Int) - 133)))))

def State.doneSignal (s : State) (e : ChainCfg) : State :=
  if e.doneEn then s.unitSignal (e.ctx s) e.donePen else s

/-- A slot's commit: used, or late. DEDUCED: log entry 57. -/
def State.commitSlot (s : State) (e : ChainCfg) (l : ChainIn) (late : Bool) : State :=
  match l.slot with
  | none => s
  | some i =>
    let x := e.ctx s
    let used := i.how == 2 && !late
    let s := s.wrSec x (e.hold s + 32 * l.pos) (if used then l.data else 0) beAll
    let qs := sectorI8 l.data
    let s := if i.how = 2 ∧ (used ∨ e.drop) then
        (List.range 4).foldl (fun s j =>
          s.wrSec x (e.xin s + 128 * i.blk + 32 * j) (remainderSec i.scale (i.xs.getD j 0) ((qs.drop (8 * j)).take 8)) beAll) s
      else s
    let s := if late then s.bump (Reg.XCH_CNT1 e.g) (if e.drop then Fld.XCH_CNT1_DROP else Fld.XCH_CNT1_DEFER) 1 else s
    let s := match i.how with
      | 0 => s.bump (Reg.XCH_CNT0 e.g) Fld.XCH_CNT0_VOID 1
      | 1 => s.bump (Reg.XCH_CNT0 e.g) Fld.XCH_CNT0_LFLAG 1
      | _ => if used then s.bump (Reg.XCH_CNT0 e.g) Fld.XCH_CNT0_HELD 1 else s
    s.doneSignal e

/-! Pairing (R249, R251). -/

/-- A partial and its local sector meet. -/
def State.chainPair (s : State) (e : ChainCfg) (p l : ChainIn) : State :=
  let s := s.commitSlot e l false
  let r := chainAdd e.fmt p.data p.flag l.data l.flag
  let s := if r.2.2 then s.bump (Reg.NRL_CH_CNT e.g) Fld.NRL_CH_CNT_CH_OVF 1 else s
  s.chainOut e l.pos p.addr r.1 r.2.1 l.number p.batch

/-- A position passed over (R251). -/
def State.chainSkip (s : State) (e : ChainCfg) (p : ChainIn) : State :=
  let x := s.chain e.g e.c
  let s := s.setChain e.g e.c { x with skipped := p.pos :: x.skipped, nSkip := x.nSkip + 1 }
  (s.bump (Reg.NRL_CH_CNT e.g) Fld.NRL_CH_CNT_CH_SKIP 1).chainOut e p.pos p.addr p.data p.flag p.number p.batch

/-- A local sector reaches its entry. -/
def State.chainLocal (s : State) (e : ChainCfg) (l : ChainIn) : State :=
  let x := s.chain e.g e.c
  if x.skipped.contains l.pos then
    (s.bump (Reg.NRL_CH_CNT e.g) Fld.NRL_CH_CNT_CH_LATE 1).commitSlot e l true
  else
    let x := { x with
      arrived := l.pos :: x.arrived
      lateTicks := if x.late && decide (l.pos < e.nsec) then s.tick - (s.run.t0 + e.deadline) else x.lateTicks }
    if e.pos = 0 then ((s.setChain e.g e.c x).commitSlot e l false).chainOut e l.pos l.addr l.data l.flag l.number l.batch
    else
      match x.inq.find? fun p => p.pos == l.pos with
      | some p => (s.setChain e.g e.c { x with inq := x.inq.filter fun q => q.pos != l.pos }).chainPair e p l
      | none => s.setChain e.g e.c { x with locq := x.locq ++ [l] }

/-- One sector of an incoming partial. DEDUCED: log entry 56. -/
def State.chainPartialSec (s : State) (e : ChainCfg) (addr : Nat) (d : Sector) (flag : Bool) (batch : Nat × Nat) : State :=
  let x := s.chain e.g e.c
  let p : ChainIn := ⟨x.nIn, addr, d, flag, none, 0, batch⟩
  let x := { x with nIn := x.nIn + 1 }
  match x.locq.find? fun l => l.pos == p.pos with
  | some l => (s.setChain e.g e.c { x with locq := x.locq.filter fun q => q.pos != p.pos }).chainPair e p l
  | none =>
    if x.passed && s.chainLate e then (s.setChain e.g e.c x).chainSkip e p
    else s.setChain e.g e.c { x with inq := x.inq ++ [p] }

/-- The entry a partial belongs to: that of its port's group, or of the lowest-numbered group that has its tag (R249).
DEDUCED: log entry 56. -/
def State.partialEntry (s : State) (g tag : Nat) : Option ChainCfg :=
  match (s.chainsOf g).find? fun e => e.tag == tag with
  | some e => some e
  | none => (List.range 8).findSome? fun g => (s.chainsOf g).find? fun e => e.tag == tag

/-- Sectors of a message with their addresses, byte enables and overflow flags. -/
def msgSectors (m : Msg) : List (Nat × Sector × Word32 × Bool) :=
  (List.range m.data.length).map fun i =>
    ((m.addr.toNat + 32 * i) % 2 ^ 48, m.data.getD i 0, m.be.getD i beAll, m.flags.toNat / 2 ^ i % 2 == 1)

/-- A message counted and discarded while the device is quiescent (R264). DEDUCED: log entry 49. -/
def State.quietDrop (s : State) : State := s.bump Reg.STEP_QDROP Fld.STEP_QDROP_COUNT 1

/-- The oldest message of its channel at a port, of a given kind and for this device, is taken; a quiescent device
discards it (R264). DEDUCED: log entry 49. -/
def State.nirloIn (s : State) (p : Nat) (m : Msg) (kinds : List Nat) (f : State → State) : State :=
  if s.rxFirst p m ∧ m.dst.toNat = s.rank ∧ kinds.contains m.kind.toNat then
    if s.quiets (s.portCtx p) then (s.rxTake p m).quietDrop else f (s.rxTake p m)
  else s

/-- Sectors of a partial enter their entry as far as its buffer has room; the number that is left. -/
def chainFeed (e : ChainCfg) (batch : Nat × Nat) : List (Nat × Sector × Word32 × Bool) → State → Nat × State
  | [], s => (0, s)
  | x :: l, s =>
    if 16 ≤ (s.chain e.g e.c).inq.length then (l.length + 1, s)
    else chainFeed e batch l (s.chainPartialSec e x.1 x.2.1 x.2.2.2 batch)

/-- A message without its first `n` sectors. -/
def msgRest (m : Msg) (n : Nat) : Msg :=
  { m with addr := m.addr + BitVec.ofNat 48 (32 * n), flags := m.flags >>> n, nsecM1 := m.nsecM1 - BitVec.ofNat 6 n
           data := m.data.drop n }

/-- A message's sectors go into an entry; what finds no room stays at the port (R249). -/
def State.partialIn (s : State) (e : ChainCfg) (p : Nat) (m : Msg) : State :=
  let x := s.chain e.g e.c
  let n := m.data.length
  let batch := match x.inMsg with
    | some (k, t, left) => if left = n then (k, t) else (x.nIn, n)
    | none => (x.nIn, n)
  match chainFeed e batch (msgSectors m) s with
  | (left, t) =>
    let t := t.setChain e.g e.c { t.chain e.g e.c with inMsg := if left = 0 then none else some (batch.1, batch.2, left) }
    if left = 0 then t.rxTake p m else if left = n then t else t.rxKeep p m (msgRest m (n - left))

/-- A partial arrives: its sectors enter the entry's buffer, of 16 (R249). An int8-blocked one of more than 16 sectors is no
message of R238, and is discarded. DEDUCED: log entry 56. -/
def State.chainPartial (s : State) (p : Nat) (m : Msg) : State :=
  match s.partialEntry (p / 4) m.tag.toNat with
  | some e =>
    if s.rxFirst p m ∧ m.dst.toNat = s.rank ∧ m.kind = 5 ∧ ¬ s.quiets (s.portCtx p) ∧ (e.fmt ≠ 0 ∨ m.data.length ≤ 16) then
      s.partialIn e p m
    else s.nirloIn p m [5] fun s => s
  | none => s.nirloIn p m [5] fun s =>
      (((msgSectors m).foldl (fun s x => (s.wrSec (s.portCtx p) x.1 x.2.1 beAll).noteWrote x.1 beAll) s).portErr p 0x7506
        m.tag.toNat)

/-! Sectors on their way to a group. -/

/-- The sum on its way to a group with this tag, address and data. -/
def State.chainInAt (s : State) (g tag addr : Nat) (d : Sector) : Option RedFlit :=
  if s.power.xbLost then none
  else s.chainIn.find? fun f => f.router == g && f.tag == tag && f.addr == addr && f.data == d

/-- A sum taken by the group: its parts have landed (R191), and the SENDs it was part of go on. -/
def State.chainTake (s : State) (f : RedFlit) : State :=
  f.srcs.foldl (fun s x => s.notice x.dev x.core) { s with chainIn := s.chainIn.erase f }

/-- The entry of a group whose LTAG is the tag (R213), and the one whose settle tree it is (R295). -/
def State.ltagEntry (s : State) (g tag : Nat) : Option ChainCfg := (s.chainsOf g).find? fun e => e.ltag == tag
def State.stagEntry (s : State) (g tag : Nat) : Option ChainCfg :=
  (s.chainsOf g).find? fun e => e.mode == 1 && e.stag == tag

/-- Whether an entry's local buffer takes another sector (R249). DEDUCED: log entry 56. -/
def State.locRoom (s : State) (e : ChainCfg) : Bool := decide ((s.chain e.g e.c).locq.length < 16)

/-- A local sector of an entry that is no share or check entry; one that no entry of the group wants is written to its
address (R213). -/
def State.chainLocalSector (s : State) (g tag addr : Nat) (d : Sector) : State :=
  match s.chainInAt g tag addr d with
  | none => s
  | some f =>
    match s.ltagEntry g tag, s.stagEntry g tag with
    | some e, _ =>
      if e.mode = 0 ∧ s.locRoom e then
        let x := s.chain e.g e.c
        ((s.chainTake f).setChain e.g e.c { x with nLoc := x.nLoc + 1 }).chainLocal e ⟨x.nLoc, addr, d, false, none, 0, (0, 0)⟩
      else s
    | none, some _ => s
    | none, none =>
      let s := { s with chainIn := s.chainIn.erase f }
      (s.redDeliver addr d f.srcs).portErr (4 * g) 0x7506 tag

/-- The deadline of an entry passes (R251, R298). DEDUCED: log entry 58. -/
def State.chainDeadline (s : State) (g c : Nat) : State :=
  match s.chainCfg g c with
  | none => s
  | some e =>
    let x := s.chain g c
    if !s.stepActive || s.run.quiescent || x.passed || e.mode = 2 then s
    else
      let open_ := (List.range e.nsec).filter fun k => !x.arrived.contains k
      if s.chainLate e then
        let s := s.setChain g c { x with passed := true, inq := if e.pos = 0 then x.inq else [] }
        if e.pos = 0 then open_.foldl (fun s k => s.chainSkip e ⟨k, (e.loc s + 32 * k) % 2 ^ 48, 0, false, none, 0, (0, 0)⟩) s
        else x.inq.foldl (fun s p => s.chainSkip e p) s
      else s.setChain g c { x with passed := true, late := !open_.isEmpty }

/-! The share stage. -/

/-- The agreement of slot `k` (R288): none when the slot is void, else its block and s + 133. -/
def State.agreement (s : State) (e : ChainCfg) (k : Nat) : Option (Nat × Nat) :=
  let v := s.rdNat ((e.agv s + 2 * k) % 2 ^ 48) 2
  let i := s.rdNat ((e.agi s + 4 * k) % 2 ^ 48) 4
  let ex := v / 2 ^ 7 % 256
  if i = 0xFFFF_FFFF ∨ ex = 0 ∨ ex = 255 ∨ 254 < ex + e.head then none
  else some (1024 * (k / e.k) + i, ex + e.head)

/-- A block of four sectors lies in the context's memory. -/
def State.blockOk (s : State) (x : Option Nat) (a : Nat) : Bool :=
  (List.range 4).all fun j => (s.locate x (a + 32 * j)).isSome

/-- round_ties_even(x · 2^−s), none when x is not finite or the share leaves −127 to 127 (R291). -/
def shareElem (scale x : Nat) : Option Int :=
  let v := FFmt.fp32.decode x
  if !v.isFinite then none
  else
    let q := (v.scale (133 - (scale : Int))).toIntRne
    if q.natAbs ≤ 127 then some q else none

/-- A slot's share (R291): its local sector and what the commit needs. -/
def shareOf (k addr : Nat) (agr : Option (Nat × Nat)) (xs : List Sector) : ChainIn :=
  match agr with
  | none => ⟨k, addr, 0, false, some ⟨0, 0, 0, xs⟩, k, (0, 0)⟩
  | some (b, sc) =>
    let qs := (xs.flatMap fun d => unpackBits 32 8 d.toNat).map (shareElem sc)
    if qs.any fun q => q.isNone then ⟨k, addr, 0, true, some ⟨1, b, sc, xs⟩, k, (0, 0)⟩
    else
      let d := packBits 8 (qs.map fun q => ((q.getD 0) % 256).toNat)
      ⟨k, addr, BitVec.ofNat 256 d, false, some ⟨2, b, sc, xs⟩, k, (0, 0)⟩

/-- A slot's four sectors reach the stage (R290, R291). A sector off the layout of R290, or a slot whose XIN or UPD block
fails R154, is discarded and does not count as arrived (R300). DEDUCED: log entry 57. -/
def State.shareSlot (s : State) (g c addr : Nat) (xs : List Sector) : State :=
  match s.chainCfg g c with
  | none => s
  | some e =>
    if e.mode ≠ 1 ∨ s.ltagEntry g e.ltag ≠ some e then s
    else
      let off := addr - e.loc s
      if addr < e.loc s ∨ off % 128 ≠ 0 then
        -- off the slot layout: only a sector that no slot could have is discarded
        if addr < e.loc s ∨ off % 32 ≠ 0 then
          match s.chainInAt g e.ltag addr (xs.getD 0 0) with
          | some f => (s.chainTake f).chainErr e 0x7508
          | none => s
        else s
      else
        let fs := (List.range 4).filterMap fun i => s.chainInAt g e.ltag (addr + 32 * i) (xs.getD i 0)
        if fs.length ≠ 4 ∨ ¬ s.locRoom e then s
        else
          let s := fs.foldl (fun s f => s.chainTake f) s
          let k := off / 128
          let agr := s.agreement e k
          let bad := match agr with
            | some (b, _) => !s.blockOk (e.ctx s) (e.xin s + 128 * b) || !s.blockOk (e.ctx s) (e.upd s + 128 * b)
            | none => false
          if bad then s.chainErr e 0x7508 else s.chainLocal e (shareOf k addr agr xs)

/-- A settle sector reaches the stage (R295). DEDUCED: log entry 57. -/
def State.settleSlot (s : State) (g c addr : Nat) (sum : Sector) : State :=
  match s.chainCfg g c with
  | none => s
  | some e =>
    if e.mode ≠ 1 ∨ s.stagEntry g e.stag ≠ some e then s
    else
      match s.chainInAt g e.stag addr sum with
      | none => s
      | some f =>
        let s := s.chainTake f
        let off := addr - e.sum s
        if addr < e.sum s ∨ off % 32 ≠ 0 then s.chainErr e 0x7508
        else
          let k := off / 32
          let x := e.ctx s
          match s.agreement e k with
          | none => (s.bump (Reg.XCH_CNT1 g) Fld.XCH_CNT1_SETTLED 1).doneSignal e
          | some (b, sc) =>
            if !s.blockOk x (e.xin s + 128 * b) || !s.blockOk x (e.upd s + 128 * b) then s.chainErr e 0x7508
            else
              let xa := e.xin s + 128 * b
              let ua := e.upd s + 128 * b
              let s := if s.rdNat ((e.flagAt s + k) % 2 ^ 48) 1 ≠ 0 then
                  let hs := sectorI8 (s.rdAt (e.hold s + 32 * k))
                  (List.range 4).foldl (fun s j =>
                    let xs := unpackBits 32 8 (s.rdAt (xa + 32 * j)).toNat
                    let back := (List.zip xs ((hs.drop (8 * j)).take 8)).map fun p =>
                      if p.2 = 0 then p.1
                      else FFmt.fp32.round (.add (FFmt.fp32.decode p.1) ((Num.ofInt p.2).scale ((sc : Int) - 133)))
                    (s.wrSec x (xa + 32 * j) (BitVec.ofNat 256 (packBits 32 back)) beAll).wrSec x (ua + 32 * j) 0 beAll) s
                else
                  let qs := sectorI8 sum
                  (List.range 4).foldl (fun s j =>
                    let us := ((qs.drop (8 * j)).take 8).map fun q => FFmt.fp32.round ((Num.ofInt q).scale ((sc : Int) - 133))
                    s.wrSec x (ua + 32 * j) (BitVec.ofNat 256 (packBits 32 us)) beAll) s
              (s.bump (Reg.XCH_CNT1 g) Fld.XCH_CNT1_SETTLED 1).doneSignal e

/-- The sampling of R296. -/
def sampled (seed1 k tag lg : Nat) : Bool :=
  let m := 2 ^ 32
  let x := seed1 ^^^ (k * 0x9E37_79B1 % m) ^^^ (tag * 0x85EB_CA77 % m)
  let x := (x ^^^ (x / 2 ^ 16)) * 0x7FEB_352D % m
  let x := (x ^^^ (x / 2 ^ 15)) * 0x846C_A68B % m
  let x := x ^^^ (x / 2 ^ 16)
  x % 2 ^ lg == 0

/-- A held share reaches a check-mode entry (R296): a sampled slot is its next local sector, the others are dropped.
DEDUCED: log entry 57. -/
def State.checkSlot (s : State) (g c addr : Nat) (d : Sector) : State :=
  match s.chainCfg g c with
  | none => s
  | some e =>
    if e.mode ≠ 2 ∨ s.ltagEntry g e.ltag ≠ some e then s
    else
      match s.chainInAt g e.ltag addr d with
      | none => s
      | some f =>
        let off := addr - e.loc s
        if addr < e.loc s ∨ off % 32 ≠ 0 then (s.chainTake f).chainErr e 0x7508
        else
          let k := off / 32
          if sampled s.run.seed1.toNat k e.tag e.chk then
            if !s.locRoom e then s
            else
              let x := s.chain g c
              ((s.chainTake f).setChain g c { x with nLoc := x.nLoc + 1 }).chainLocal e ⟨x.nLoc, addr, d, false, none, k, (0, 0)⟩
          else s.chainTake f

/-- A check sum compared with the owner's SUM (R297), once the share chain's writes of the slot are there. -/
def State.checkCompare (s : State) (g c k : Nat) (sum : Sector) (flag : Bool) : State :=
  match s.chainCfg g c with
  | none => s
  | some e =>
    let x := s.chain g c
    if !(x.checks.contains ⟨k, sum, flag⟩ && x.sums.contains k && x.flags.contains k) then s
    else
      let s := s.setChain g c { x with checks := x.checks.erase ⟨k, sum, flag⟩ }
      let a := Reg.XCH_CHK g
      if flag || s.rdNat ((e.flagAt s + k) % 2 ^ 48) 1 != 0 then s.bump a Fld.XCH_CHK_SKIP 1
      else
        let s := s.bump a Fld.XCH_CHK_CMP 1
        if s.rdAt ((e.sum s + 32 * k) % 2 ^ 48) = sum then s
        else ((s.bump a Fld.XCH_CHK_MIS 1).chainErr e 0x2507).deviceReport .mismatch

/-! The step's hold on the chains. -/

/-- Every entry begins a step empty (R249, R251); what an attempt leaves is dropped (R264, R299). -/
def State.chainsFresh (s : State) : State := { s with chains := [], chainIn := [] }

/-- Lateness entries of the device's chain entries (R272, R298). DEDUCED: log entry 58. -/
def State.chainLateness (s : State) : List LateEntry :=
  s.chains.flatMap fun (x : Nat × ChainState) =>
    match s.chainCfg (x.1 / 64) (x.1 % 64) with
    | none => []
    | some e =>
      let mk (ev sec ticks : Nat) : LateEntry :=
        ⟨BitVec.ofNat 10 s.rank, BitVec.ofNat 8 ev, 2, BitVec.ofNat 12 e.tag, BitVec.ofNat 32 sec,
          BitVec.ofNat 32 (min (2 ^ 32 - 1) ticks)⟩
      (if x.2.nSkip = 0 then [] else [mk (if e.drop then 1 else 0) x.2.nSkip 0])
        ++ (if x.2.late then [mk 2 0 x.2.lateTicks] else [])

/-! The rows. A sector that leaves the mesh may let a SEND complete (R123). -/

def execChainPartial (p : Port) (m : Msg) (s : State) : Out := .next (s.chainPartial p.val m).pumpAll
def execChainLocalSector (g : Group) (tag : BitVec 12) (addr : BitVec 48) (data : Sector) (s : State) : Out :=
  .next (s.chainLocalSector g.val tag.toNat addr.toNat data).pumpAll
def execChainDeadline (g : Group) (c : Fin 64) (s : State) : Out := .next (s.chainDeadline g.val c.val)
def execShareSlot (g : Group) (c : Fin 64) (addr : BitVec 48) (x0 x1 x2 x3 : Sector) (s : State) : Out :=
  .next (s.shareSlot g.val c.val addr.toNat [x0, x1, x2, x3]).pumpAll
def execSettleSlot (g : Group) (c : Fin 64) (addr : BitVec 48) (sum : Sector) (s : State) : Out :=
  .next (s.settleSlot g.val c.val addr.toNat sum).pumpAll
def execCheckSlot (g : Group) (c : Fin 64) (addr : BitVec 48) (hold : Sector) (s : State) : Out :=
  .next (s.checkSlot g.val c.val addr.toNat hold).pumpAll
def execCheckCompare (g : Group) (c : Fin 64) (slot : Nat) (sum : Sector) (flag : Bool) (s : State) : Out :=
  .next (s.checkCompare g.val c.val slot sum flag)

end Sys2Proof.Machine
end

