-- ==== Sys2Proof/Machine/Nirlo.lean ====
section
/-! DEFINITION. The Nirlo ports: flits, retry and credits (R236–R240), pass-through and messages for this device (R241),
training and the capability exchange (R245, R246), link failure and the step boundary (R248, R254), margining (R252). -/

namespace Sys2Proof.Machine

open Sys2Proof

/-! Failure. -/

/-- A port fails (R248): FAULT, E_LINK_DOWN, its buffers discarded and their slots counted. DEDUCED: log entry 50. -/
def State.linkFail (s : State) (p : Nat) : State :=
  let q := s.port p
  let sum (xs : List Nat) : Nat := xs.foldl (· + ·) 0
  let lost := sum (q.retry.map fun f => (f.slots.filter slotUsed).length) + sum (q.rxHeld.map (·.2)) + sum (q.txq.map msgSlots)
    + sum (q.part.map fun (x : Nat × Msg × List Sector) => (x.2.2.length + 1) / 2)
  let data := q.retry.any TxFlit.carries || q.txq.any isContribution || q.rx.any isContribution
    || q.part.any (fun (x : Nat × Msg × List Sector) => isContribution x.2.1)
    || q.asm.any fun (x : Nat × Msg) => isContribution x.2
  let s := ((s.setPort p PortState.reset).setPortState p 4).bump (nrlLost p) Fld.NRL_LOST_COUNT lost
  let s := (s.setReg (nrlCred p) 0).portErr p 0x3501 0
  if data then s.deviceReport .lostContribution else s

/-- The device reports quiescent (R264): retry buffers acknowledged, no message to pass through, pending tables empty. -/
def State.quietCheck (s : State) : State :=
  let x := s.stepCtx
  let clear (e : Nat × PortState) : Bool :=
    s.portCtx e.1 != x || (e.2.retry.isEmpty && e.2.txq.isEmpty && e.2.part.isEmpty
      && (e.2.rx.all fun m => m.dst.toNat == s.rank) && e.2.asm.all fun (a : Nat × Msg) => a.2.dst.toNat == s.rank)
  if s.run.quiescent && !s.run.quiet && s.ports.all clear
      && s.pendTab.all fun (e : Nat × List PendSig) => e.2.all fun p => some p.ctx != x then
    { s.emit (.quiescentReport s.rank) with run := { s.run with quiet := true } }
  else s

/-! Reception (R237–R240). -/

/-- The flits an ACK covers leave the retry buffer. -/
def ackTrim (ack : Nat) (l : List TxFlit) : List TxFlit :=
  match l.findIdx? fun f => f.seq == ack with
  | some i => l.drop (i + 1)
  | none => l

/-- A NAK makes the sender replay what is not acknowledged; a flit replayed for the eighth time fails the link (R239). -/
def State.replayPort (s : State) (p : Nat) : State :=
  let q := s.port p
  let l := q.retry.map fun f => { f with replays := f.replays + 1 }
  let s := (s.setPort p { q with retry := l }).bump (nrlReplay p) Fld.NRL_REPLAY_COUNT l.length
  let s := if l.isEmpty then s else s.irrepro (s.portCtx p)
  if l.any fun f => decide (8 ≤ f.replays) then s.linkFail p
  else l.foldl (fun s f => s.emit (.flit p (s.portFlit p f))) s

/-- A message whose last slot has come: hoist and time messages act by rows of their own, and reserved kinds carry nothing;
a quiescent device discards what is for it (R264). DEDUCED: log entry 48. -/
def State.msgArrive (s : State) (p : Nat) (m : Msg) : State :=
  let q := s.port p
  let s := s.setPort p { q with rx := q.rx ++ [m] }
  if m.dst.toNat ≠ s.rank then s
  else if 6 ≤ m.kind.toNat then s.rxTake p m
  else if s.quiets (s.portCtx p) then (s.rxTake p m).quietDrop
  else s

/-- A slot received (R237, R240): it is held until it drains; a head without sectors is a message, and sectors go to the one
whose head came last on their channel. DESIGN CHOICE: log entry 47. -/
def State.slotTake (s : State) (p : Nat) (x : Slot) : State :=
  let q := s.port p
  let hold (vc : Nat) (q : PortState) : PortState := { q with rxHeld := mset q.rxHeld vc (mget q.rxHeld 0 vc + 1) }
  match x with
  | .heads vc l =>
    let v := vc.toNat
    l.foldl (fun s m =>
      let m := { m with vc := vc, data := [] }
      if kindCarries m.kind then s.setPort p { s.port p with asm := mset (s.port p).asm v m } else s.msgArrive p m)
      (s.setPort p { hold v q with runs := mset q.runs v (mget q.runs [] v ++ [l.length]) })
  | .data vc a b =>
    match mfind q.asm vc.toNat with
    | none => s
    | some m =>
      let n := m.nsecM1.toNat + 1
      let m := { m with data := (m.data ++ [a, b]).take n }
      if m.data.length = n then
        (s.setPort p { hold vc.toNat q with asm := mdel q.asm vc.toNat }).msgArrive p m
      else s.setPort p { hold vc.toNat q with asm := mset q.asm vc.toNat m }
  | .empty => s
  | .control _ => s

/-- What a flit's header tells of the other direction (R239, R240): what an ACK covers leaves the retry buffer. -/
def State.ackTake (s : State) (p : Nat) (f : Flit) : State :=
  let q := s.port p
  let s := s.setPort p { q with retry := ackTrim f.ack.toNat q.retry }
  if f.nak then s.replayPort p else s

/-- A good flit in sequence: its credits are taken, its slots held, its messages delivered, and what its ACK and NAK ask is
done. The ACK of it goes out with the next flit, or with a control flit. DESIGN CHOICE: log entry 47. -/
def State.flitTake (s : State) (p : Nat) (f : Flit) : State :=
  let q := s.port p
  let s := s.setPort p { q with rxSeq := f.seq.toNat, nak := false }
  let vf := vcCredit f.crVc.toNat
  let s := s.setFld (nrlCred p) vf (min (vcBuffer f.crVc.toNat) (s.fld (nrlCred p) vf + f.crN.toNat))
  let s := f.slots.foldl (fun s x => s.slotTake p x) s
  let s := portDrain p 2048 (s.ackTake p f)
  if s.portState p = 3 ∧ (s.port p).txSeq = q.txSeq then s.portTell p else s

/-- A flit at a port (R239): one that fails its CRC or leaves a gap is dropped and NAK stands; one received before is
dropped. A control flit is outside the sequence. DESIGN CHOICE: log entry 47. -/
def State.flitReceive (s : State) (p : Nat) (f : Flit) : State :=
  if s.portState p ≠ 3 ∨ s.power.xbLost then s
  else
    let g := p / 4
    let i := p % 4
    let s := (s.bump (Reg.NRL_FEC_CORR g i) Fld.NRL_FEC_CORR_COUNT f.fecCorr.toNat).bump (Reg.NRL_FEC_UNC g i)
      Fld.NRL_FEC_UNC_COUNT f.fecUnc.toNat
    let q := s.port p
    let d := (f.seq.toNat + 4096 - q.rxSeq) % 4096
    let refuse (s : State) : State := (s.setPort p { q with nak := true }).portTell p
    if !crcOk f then refuse s
    else if f.slots.any fun x => slotType x == 3 then portDrain p 2048 (s.ackTake p f)
    else if d = 1 then s.flitTake p f
    else if d = 0 ∨ 2048 ≤ d then s.portTell p
    else refuse s

/-- A flit that brings something of a message for this device. -/
def State.flitForUs (s : State) (p : Nat) (f : Flit) : Bool :=
  f.slots.any fun x => match x with
    | .heads _ l => l.any fun m => m.dst.toNat == s.rank
    | .data vc _ _ => (mfind (s.port p).asm vc.toNat).any fun m => m.dst.toNat == s.rank
    | .empty => false
    | .control _ => false

/-- A flit that is held for a wake at this port. -/
def heldFlit (p : Port) (i : Instr) : Bool :=
  match i with
  | .flitReceive q _ => q == p
  | _ => false

/-- A message for the device wakes the part, and is held until the exit with what follows it (R349). -/
def execFlitReceive (p : Port) (f : Flit) (s : State) : Out :=
  let go (s : State) : State := ((s.flitReceive p.val f).quietCheck).pumpAll
  .next (if s.flitForUs p.val f || s.power.asleep.any (heldFlit p) then s.awake (.flitReceive p f) go else go s)

/-- 10 µs without ACK progress (R239): only where flits are unacknowledged. -/
def execLinkAckTimeout (p : Port) (s : State) : Out :=
  .next (if s.portState p.val = 3 ∧ ¬ s.power.xbLost ∧ ¬ (s.port p.val).retry.isEmpty then ((s.linkFail p.val).quietCheck).pumpAll else s)

/-- Lane lock is lost (R248): a port that has locked lanes fails. -/
def execLaneLockLoss (p : Port) (s : State) : Out :=
  .next (if [2, 3, 5, 6].contains (s.portState p.val) ∧ ¬ s.power.xbLost then
    (((s.linkFail p.val).setFld (nrlStat p.val) Fld.NRL_STAT_LANES 0).quietCheck).pumpAll
  else s)

/-! Training and the capability exchange (R245, R246). -/

/-- The own capability word: VMAX 2, VMIN 1 and FEAT 0x07F stand, ROLE and COORD as the image wrote them. -/
def State.capWord (s : State) (g : Nat) : Nat := 0x2107F * 2 ^ 44 + (s.reg (Reg.NRL_CAP_LOCAL g)).toNat % 2 ^ 44

def nrlCtl (p : Nat) : Nat := Reg.NRL_CTL (p / 4) (p % 4)
/-- DEDUCED: log entry 51. -/
def State.portDisabled (s : State) (p : Nat) : Bool := s.flag (nrlCtl p) Fld.NRL_CTL_DISABLE

/-- Training begins, where XB is there to clock it (R335). DEDUCED: log entry 51. -/
def State.portTrain (s : State) (p : Nat) : State :=
  if !s.xbOk then s
  else
    (((s.setPort p { PortState.reset with margined := (s.port p).margined }).setFld (nrlStat p) Fld.NRL_STAT_LANES 0).setFld
      (nrlStat p) Fld.NRL_STAT_VER 0).setPortState p 1

/-- NRL_CTL.TRAIN (R254): only from DOWN, FAULT or OUT, and not while the port is disabled. -/
def execNrlTrain (p : Port) (s : State) : Out :=
  .next (s.ungated (nrlCtl p.val) fun s =>
    if [0, 4, 6].contains (s.portState p.val) ∧ ¬ s.portDisabled p.val then s.portTrain p.val else s)

/-- Every credit count at its buffer size (R240). -/
def fullCredits : Nat := 512 * 2 ^ 30 + 512 * 2 ^ 20 + 256 * 2 ^ 11 + 64

/-- Retained values qualify (R228): the check word is valid, the identification matches, and the temperature is within
20 °C of the recorded one. -/
def Retained.qualifies (r : Retained) (u : Nat) (t : Trained) : Bool :=
  r.check == Config.trainCheck u r.values r.ident r.temp && r.ident == t.ident
    && decide (r.temp ≤ t.temp.toNat + 20) && decide (t.temp.toNat ≤ r.temp + 20)

/-- The always-on store holds values of a unit that qualify. -/
def State.reuses (s : State) (u : Nat) (t : Trained) : Bool := (mfind s.boot.kept u).any fun r => r.qualifies u t

/-- The values of a unit's training go to the always-on store (R228). -/
def State.keepTraining (s : State) (u : Nat) (t : Trained) : State :=
  { s with boot := { s.boot with
    kept := mset s.boot.kept u ⟨t.values, Config.trainCheck u t.values t.ident t.temp.toNat, t.ident, t.temp.toNat⟩ } }

/-- A Nirlo port's training values (R228, R368): step 11 of a warm start reuses those that qualify; its identification is the
word its peer last sent. DEDUCED: log entry 111. -/
def State.keepPort (s : State) (p : Nat) (temp : Byte) (values : Word) : State :=
  let t : Trained := ⟨s.reg (Reg.NRL_CAP_PEER (p / 4) (p % 4)), temp, values⟩
  if s.boot.warm ∧ s.fld Reg.RST_STAT Fld.RST_STAT_STEP = 11 ∧ s.reuses (12 + p) t then s else s.keepTraining (12 + p) t

/-- A margining run whose port has retrained is complete (R252, R254). -/
def State.margDone (s : State) (p : Nat) : State :=
  if (s.port p).margined then
    (s.setFld (Reg.NRL_MRG_STAT (p / 4) (p % 4)) Fld.NRL_MRG_STAT_DONE 1).setPort p { s.port p with margined := false }
  else s

/-- The link runs at the version agreed (R246). A port that comes up while no step is in progress is in service at once.
DEDUCED: log entry 51. -/
def State.portUp (s : State) (p : Nat) : State :=
  let s := (s.setReg (nrlCred p) (BitVec.ofNat 64 fullCredits)).setPortState p 3
  (if (s.portDir p).isSome ∧ ¬ s.inStep (s.portCtx p) ∧ ¬ s.portDisabled p then s.setFld (nrlStat p) Fld.NRL_STAT_INSERV 1
    else s).margDone p

/-- Lane training ends (R245, R246): with all eight lanes locked the capability word goes out, or the link is up where the
version has been agreed; else the port stays DOWN. DEDUCED: log entry 51. -/
def execLaneTrainingDone (p : Port) (lanes : LaneTraining) (s : State) : Out :=
  let p := p.val
  .next (if s.portState p = 1 ∧ s.xbOk then
    let s := s.setFld (nrlStat p) Fld.NRL_STAT_LANES lanes.locked.val
    if lanes.locked.val = 8 then
      if s.fld (nrlStat p) Fld.NRL_STAT_VER ≠ 0 then (s.keepPort p lanes.temp lanes.values).portUp p
      else (s.setPortState p 2).emit (.capability p (BitVec.ofNat 64 (s.capWord (p / 4))))
    else (s.setFld (nrlStat p) Fld.NRL_STAT_VER 0).setPortState p 0
  else s)

/-- Coordinate w, z, y, x of a capability word. -/
def capCoord (w : Nat) : List Nat := [w / 2 ^ 30 % 1024, w / 2 ^ 20 % 1024, w / 2 ^ 10 % 1024, w % 1024]

/-- The neighbour's coordinate in a direction group (R243). -/
def neighbourCoord (ext me : List Nat) (d : Nat) : List Nat :=
  (List.range 4).map fun i =>
    let e := max 1 (ext.getD i 1)
    let c := me.getD i 0
    if i = d / 2 then (if d % 2 = 0 then (c + 1) % e else (c + e - 1) % e) else c

/-- Why a peer is shut out (R246), or 0. DEDUCED: log entry 51. -/
def State.peerRefusal (s : State) (p w : Nat) : Nat :=
  let vmax := w / 2 ^ 60 % 16
  let vmin := w / 2 ^ 56 % 16
  if min 2 vmax < max 1 vmin then 0x7503
  else
    let ext := s.torus (s.portCtx p)
    let misplaced := match s.portDir p with
      | some d => capCoord w != neighbourCoord ext (coordOf ext s.rank) d
      | none => false
    let role := w / 2 ^ 42 % 4
    if misplaced || ((role == 1 || role == 2) && capCoord w != coordOf ext s.managerRank) then 0x7504 else 0

/-- The peer's capability word arrives (R246): the link retrains at the lane rate of the version agreed, or the port is OUT.
DEDUCED: log entry 51. -/
def State.capExchange (s : State) (p : Nat) (word : Word) : State :=
  if s.portState p ≠ 2 ∨ ¬ s.xbOk then s
  else
    let s := s.setReg (Reg.NRL_CAP_PEER (p / 4) (p % 4)) word
    match s.peerRefusal p word.toNat with
    | 0 =>
      let s := (s.portTrain p).setFld (nrlStat p) Fld.NRL_STAT_VER (min 2 (word.toNat / 2 ^ 60 % 16))
      s.setFld (nrlStat p) Fld.NRL_STAT_FEAT (word.toNat / 2 ^ 44 % 4096 &&& 0x07F)
    | code => ((s.setPortState p 6).portErr p code 0).margDone p

def execCapabilityExchange (p : Port) (word : Word) (s : State) : Out := .next (s.capExchange p.val word)

/-! The step boundary (R248, R254). -/

def State.portBoundary (s : State) (p : Nat) : State :=
  let st := s.portState p
  if s.portDisabled p then
    if st = 0 ∧ ¬ s.portInServ p then s
    else (((s.setPort p PortState.reset).setReg (nrlCred p) 0).setFld (nrlStat p) Fld.NRL_STAT_INSERV 0).setPortState p 0
  else if st = 4 then
    let s := s.setFld (nrlStat p) Fld.NRL_STAT_INSERV 0
    if s.flag (nrlCtl p) Fld.NRL_CTL_RETRAIN_EN then s.portTrain p else s
  else if st = 3 then (if (s.portDir p).isSome then s.setFld (nrlStat p) Fld.NRL_STAT_INSERV 1 else s)
  else if s.portInServ p then s.setFld (nrlStat p) Fld.NRL_STAT_INSERV 0
  else s

/-- Between steps firmware takes failed ports out of service and retrains them (R248). -/
def State.linksGo (s : State) : State :=
  (List.range 32).foldl (fun s p =>
    if (s.portState p == 4 || s.portState p == 6) && !s.inStep (s.portCtx p) then s.portBoundary p else s) s

/-- Held fields of the port groups act, in-service sets change, and failed ports retrain. -/
def State.nirloBoundary (s : State) : State :=
  let s := s.applyHeld fun r _ => r.boundary == Boundary.nirloStep
  { (List.range 32).foldl (fun s p => s.portBoundary p) s with unreach := [] }

/-! Margining (R252). -/

def nrlMrgCtl (p : Nat) : Nat := Reg.NRL_MRG_CTL (p / 4) (p % 4)
def nrlMrgStat (p : Nat) : Nat := Reg.NRL_MRG_STAT (p / 4) (p % 4)

/-- DEDUCED: log entry 45. -/
def State.nirloMarginGo (s : State) (p : Nat) (v : Word32) : State :=
  let c := nrlMrgCtl p
  let st := nrlMrgStat p
  let s := s.putFlds c v [Fld.NRL_MRG_CTL_KIND, Fld.NRL_MRG_CTL_DIR, Fld.NRL_MRG_CTL_EYE, Fld.NRL_MRG_CTL_STEPS,
    Fld.NRL_MRG_CTL_LANE]
  if wordFld (v.setWidth 64) Fld.NRL_MRG_CTL_START = 0 then s
  else
    let running := (s.portDir p).isSome && optRuns s (s.portCtx p)
    let other := (List.range 4).any fun i => s.flag (Reg.NRL_MRG_STAT (p / 4) i) Fld.NRL_MRG_STAT_BUSY
    if running ∨ other then (s.setFld st Fld.NRL_MRG_STAT_REFUSED 1).portErr p 0x7502 0
    else if s.fld c Fld.NRL_MRG_CTL_EYE = 3 ∨ s.fld c Fld.NRL_MRG_CTL_STEPS = 0 then s.setFld st Fld.NRL_MRG_STAT_REFUSED 1
    else if !s.xbOk then s.setFld st Fld.NRL_MRG_STAT_REFUSED 1
    else (s.setFld st Fld.NRL_MRG_STAT_BUSY 1).setPortState p 5

def execNrlMarginStart (p : Port) (v : Word32) (s : State) : Out :=
  .next (s.ungated (nrlMrgCtl p.val) fun s => s.nirloMarginGo p.val v)

/-- A run ends and the port retrains; with that it is complete (R254), at once where the port is disabled and does not.
DEDUCED: log entry 45. -/
def execNrlMarginDone (p : Port) (pass : BitVec 6) (errs : BitVec 16) (s : State) : Out :=
  let st := nrlMrgStat p.val
  .next (if s.flag st Fld.NRL_MRG_STAT_BUSY ∧ s.xbOk then
    let s := (s.setFld st Fld.NRL_MRG_STAT_BUSY 0).setFld st Fld.NRL_MRG_STAT_PASS pass.toNat
    let s := s.setFld st Fld.NRL_MRG_STAT_ERRS errs.toNat
    let s := s.setPort p.val { s.port p.val with margined := true }
    if s.portDisabled p.val then (s.setPortState p.val 0).margDone p.val else s.portTrain p.val
  else s)

/-! Messages (R238, R241). -/

/-- A message for another rank would wait for its outgoing port's credits (R241). -/
def State.sendBlocked (s : State) (x : Option Nat) (m : Msg) : Bool :=
  match dirTo (s.torus x) s.rank m.dst.toNat with
  | none => false
  | some d =>
    let up := (s.dirPorts x d).filter s.portInServ
    if up.isEmpty then false
    else
      let p := up.getD ((m.srcCore.toNat + m.dst.toNat) % up.length) 0
      let st := s.portState p
      st != 4 && st != 6 && (!s.portReady p m || (mfind (s.port p).part m.vc.toNat).isSome
        || (s.port p).txq.any fun t => t.vc == m.vc)

def execPassThrough (p : Port) (m : Msg) (s : State) : Out :=
  let p := p.val
  .next (if s.rxFirst p m ∧ m.dst.toNat ≠ s.rank ∧ ¬ s.sendBlocked (s.portCtx p) m then
    (((s.rxTake p m).nirloSend (s.portCtx p) m).quietCheck).pumpAll
  else s)

/-- The stop a port group's message enters the mesh by: nearest the destination's router (R204); its router and port.
DEDUCED: log entry 53. -/
def State.entryStop (s : State) (g : Nat) (l : Loc) : Option (Nat × Nat) :=
  let port (q : Nat × Nat) : Nat × Nat := (stopRouter q.1 q.2, if q.2 = 32 then 6 else 5)
  match l.space with
  | .spad => (s.stopFor (l.key / 0x20_0000) (12 + g)).map port
  | sp =>
    let u := if sp = .near then l.key / 2 ^ 31 / 32 else 8 + l.key / 2 ^ 39
    ((unitStops (12 + g)).foldl (fun (b : Option (Nat × (Nat × Nat))) q =>
      let r := stopRouter q.1 q.2
      match s.stopFor r u with
      | none => b
      | some t =>
        match s.route r (stopDest t), b with
        | .arrives h, some (h', _) => if h < h' then some (h, q) else b
        | .arrives h, none => some (h, q)
        | _, _ => b) none).map fun x => port x.2

/-- One sector of a write message for this device: it lands (R191), or enters the mesh as a reduction sector (R211).
DEDUCED: log entry 53. -/
def State.writeMsgSec (s : State) (p : Nat) (m : Msg) (a : Nat) (d : Sector) (be : Word32) : State :=
  match s.locate (s.portCtx p) a with
  | none => s
  | some l =>
    if m.kind = 4 then
      match s.entryStop (p / 4) l with
      | some (r, q) =>
        { s with redFlits := s.redFlits ++ [(⟨r, q, m.tag.toNat, a, d, [⟨m.srcDev.toNat, m.srcCore.toNat, 0⟩], none⟩ : RedFlit)] }
      | none => s
    else (s.meshSt l d be [(m.srcDev.toNat, m.srcCore.toNat)]).noteWrote a be

def execNirloWriteMessage (p : Port) (m : Msg) (s : State) : Out :=
  .next (s.nirloIn p.val m [0, 4] fun s =>
    (msgSectors m).foldl (fun s x => s.writeMsgSec p.val m x.1 x.2.1 x.2.2.1) s)

/-- Sectors of a read request, each with the place it lies at. -/
def State.readLocs (s : State) (x : Option Nat) (m : Msg) : List (Option Loc) :=
  (List.range (m.nsecM1.toNat + 1)).map fun i => s.locate x (m.addr.toNat + 32 * i)

/-- Sectors a read request asks for; one that lies nowhere is a free value. None where one of them cannot be delivered (R220,
R226): that is recorded and reported. DESIGN CHOICE: log entry 54. -/
def readMsgSecs : List (Option Loc) → State → Option (List Sector) × State
  | [], s => (some [], s)
  | none :: ls, s =>
    let r := readMsgSecs ls { s with free := s.free + 1 }
    (r.1.map (Config.freeWord s.free :: ·), r.2)
  | some l :: ls, s =>
    match s.meshRead l with
    | (s, none) => (none, s.report (if s.cutOff l then 0x34C4 else ueCode l) (s.locCtx l) none l.addr)
    | (s, some d) => let r := readMsgSecs ls s; (r.1.map (d :: ·), r.2)

/-- A read request is answered by a read data message to its requester, on its channel (R238); it waits where a pseudo-channel
is being margined (R229). DESIGN CHOICE: log entry 54. -/
def execNirloReadRequest (p : Port) (m : Msg) (s : State) : Out :=
  let ls := s.readLocs (s.portCtx p.val) m
  .next (s.holdFor (.nirloReadRequest p m) (ls.filterMap id) (s.nirloIn p.val m [1] fun s =>
    match readMsgSecs ls s with
    | (none, s) => s
    | (some ds, s) => s.nirloSend (s.portCtx p.val)
        { dst := m.srcDev, srcDev := BitVec.ofNat 10 s.rank, srcCore := m.srcCore, kind := 2, tag := m.tag, flags := 0
          addr := m.addr, vc := m.vc, nsecM1 := m.nsecM1, data := ds }))

/-- Read data for this device: no unit of the part sends read requests to another device, so nothing awaits it here; it
leaves its buffer. DESIGN CHOICE: log entry 54. -/
def execNirloReadData (p : Port) (m : Msg) (s : State) : Out := .next (s.nirloIn p.val m [2] fun s => s)

end Sys2Proof.Machine
end

