-- ==== Sys2Proof/Machine/Reads.lean ====
section
/-! DEFINITION. What a read of a register returns (R8): its contents, or what it shows of tables the model keeps apart.
The records of R186 read as zero while the debug level is Closed (R385). -/

namespace Sys2Proof.Machine

open Sys2Proof

namespace State

/-- QUEUE_STAT (R150): occupied sectors. -/
def queueStat (s : State) (c : Nat) : Word :=
  let put (w : Word) (x : FieldPos × Nat) : Word := wordSet w x.1 (s.qLen c x.2)
  [(Fld.QUEUE_STAT_QA0, 0), (Fld.QUEUE_STAT_QA1, 1), (Fld.QUEUE_STAT_QA2, 2), (Fld.QUEUE_STAT_QA3, 3),
    (Fld.QUEUE_STAT_QR0, 4), (Fld.QUEUE_STAT_QR1, 5)].foldl put 0

/-- PEN_WAITERk (R199): the k-th waiter in arrival order. -/
def penWaiter (s : State) (die n k : Nat) : Word :=
  match (mget s.penTable [] (die * 8192 + n))[k]? with
  | none => 0
  | some w =>
    wordSet (wordSet (wordSet (wordSet 0 Fld.PEN_WAITER_VALID 1) Fld.PEN_WAITER_STREAM (sidx w.who.strm))
      Fld.PEN_WAITER_MODE w.mode) Fld.PEN_WAITER_CORE w.who.core

/-- LPEN_STAT (R200): a local pennant shows which of its core's streams wait. -/
def localStat (s : State) (c n : Nat) (w : Word) : Word :=
  let b (t : Strm) : Nat := if (mget s.penTable [] (localKey c n)).any fun x => x.who.strm == t then 1 else 0
  wordSet (wordSet w Fld.LPEN_STAT_WAIT_A (b .access)) Fld.LPEN_STAT_WAIT_E (b .execute)

/-- PEN_PEND (R199). -/
def penPend (s : State) : Word :=
  let n (d : Nat) : Nat := min 255 (mget s.pendTab [] d).length
  BitVec.ofNat 64 (n 0 + 2 ^ 8 * n 1 + 2 ^ 16 * n 2 + 2 ^ 24 * n 3)

/-- The contents of a register as a read returns them. -/
def readReg (s : State) (r : RegSpec) (is : List Nat) (a : Nat) : Word :=
  let i0 := is.headD 0
  let i1 := is.getD 1 0
  let hidden := s.fld Reg.DBG_STAT Fld.DBG_STAT_LEVEL == 0
  if r.name = "QUEUE_STAT" then s.queueStat i0
  else if r.name = "PEN_WAIT" then
    if hidden then 0 else BitVec.ofNat 64 (mget s.penTable [] (i0 * 8192 + i1)).length
  else if r.name = "PEN_WAITER" then if hidden then 0 else s.penWaiter i0 i1 (is.getD 2 0)
  else if r.name = "PEN_LAST" ∨ r.name = "PEN_TICK" then if hidden then 0 else s.getReg a
  else if r.name = "LPEN_STAT" then s.localStat i0 i1 (s.getReg a)
  else if r.name = "PEN_PEND" then s.penPend
  else if r.name = "LAND" then wordSet (s.getReg a) Fld.LAND_PEND (s.landPend i0 i1)
  else if r.name = "MR_NEXT" then s.hopWord i0 i1
  else if r.name = "NRL_CAP_LOCAL" then BitVec.ofNat 64 (s.capWord i0)
  else s.getReg a

/-- Bits that a read shows: no reserved bit, no write-only field (R7, R8). -/
def readMask (r : RegSpec) : Word := BitVec.ofNat 64 (accMask r fun x => x != .wo)

/-- A 32-bit read at a device address; zero where no register lies (R12). -/
def readWord (s : State) (a : Nat) : Word32 :=
  match regFind a with
  | some (r, is, b) => BitVec.ofNat 32 ((s.readReg r is (a - b) &&& readMask r).toNat / 256 ^ b)
  | none => 0

end State

end Sys2Proof.Machine
end

