-- ==== Sys2Proof/Machine/Power.lean ====
section
/-! DEFINITION. Clocks and power: patterns and musters (R337, R338), operating points (R341–R344), the power limit and
temperature responses (R345–R347), power states (R348, R349), rails (R350, R351) and trips (R352). -/

namespace Sys2Proof.Machine

open Sys2Proof

/-- PWR_ERR (R354): the first record is kept while VALID is 1; every error is reported. -/
def State.pwrErr (s : State) (code loc : Nat) : State :=
  let w := 2 ^ 63 + loc % 256 * 2 ^ 32 + code
  let s := if s.flag Reg.PWR_ERR Fld.PWR_ERR_VALID then s else s.setReg Reg.PWR_ERR (BitVec.ofNat 64 w)
  s.report code none none (BitVec.ofNat 64 w).toNat

/-- ALERT_N is driven low (R352): a class 5 record stands in CLK_ERR or PWR_ERR. -/
def State.alert (s : State) : Bool :=
  (s.flag Reg.CLK_ERR Fld.CLK_ERR_VALID && s.fld Reg.CLK_ERR Fld.CLK_ERR_CODE / 4096 == 5)
    || (s.flag Reg.PWR_ERR Fld.PWR_ERR_VALID && s.fld Reg.PWR_ERR Fld.PWR_ERR_CODE / 4096 == 5)

/-- The system domains run on FOSC (R332, R352): from the strap sample until the system PLL locks, and after the loss of a
crystal. -/
def State.onFosc (s : State) : Bool :=
  s.power.xaLost || s.power.xbLost || (2 ≤ s.fld Reg.RST_STAT Fld.RST_STAT_STEP && s.fld Reg.CLK_STAT Fld.CLK_STAT_PLL_LOCK / 2 ^ 14 % 2 == 0)

/-! Operating points. -/

/-- VCOREq of an operating point in mV (R341). -/
def oppMv (o : Nat) : Nat := [600, 630, 660, 690, 720, 750, 780, 820].getD o 820

/-- VSRAMq of an operating point in mV (R341). -/
def oppSramMv (o : Nat) : Nat := [750, 750, 750, 750, 750, 750, 780, 800].getD o 800

/-- Island frequency of an operating point in MHz (R341), and the pulses of 330 that its pattern keeps (R337). -/
def oppMhz (o : Nat) : Nat := [800, 950, 1100, 1250, 1380, 1500, 1580, 1650].getD o 1650
def oppPulses (o : Nat) : Nat := oppMhz o / 10

/-- Frequency at which an island runs, in MHz: that of its pattern. -/
def State.islandMhz (s : State) (i : Nat) : Nat := oppMhz (mget s.power.islOpp 0 i)

/-- The sequencer of a die commands its rails (R344). -/
def State.driveRails (s : State) (q core sram : Nat) : State :=
  { s with power := { s.power with coreMv := s.power.coreMv.set q core, sramMv := s.power.sramMv.set q sram } }

/-- Phase whose point acts (R342): the current one; the forward phase between steps, and always in replay mode. -/
def State.oppPhase (s : State) : Nat := if s.stepActive && !s.replay && decide (s.run.cur < 6) then s.run.cur else 0

/-- A die's phase point (R342). -/
def State.phasePoint (s : State) (q : Nat) : Nat :=
  let ovr := s.fld (Reg.DIE_OPP q) Fld.DIE_OPP_OVR
  if ovr ≠ 0 then ovr - 1
  else match s.profile with
    | some p => p.opp.getD (s.oppPhase * 4 + q) 0
    | none => 0

def State.oppMax (s : State) (q : Nat) : Nat :=
  match s.profile with
  | some p => min 7 (p.oppMax.getD q 0)
  | none => 0

/-- A die's target OPP (R342). -/
def State.oppTarget (s : State) (q : Nat) : Nat :=
  min (min (s.phasePoint q) (s.oppMax q)) (s.fld (Reg.DIE_OPP q) Fld.DIE_OPP_CAP)

/-- The sequencer of a die takes its target (R344): a lower OPP is settled at once, and its rails are lowered once the
islands run slower; for a higher one VSRAMq and VCOREq rise, and it settles when the rail reports. DEDUCED: log entry 80. -/
def State.retarget (s : State) (q : Nat) : State :=
  let a := Reg.DIE_OPP q
  let t := s.oppTarget q
  if t = s.fld a Fld.DIE_OPP_TARGET then s
  else
    let s := (s.setFld a Fld.DIE_OPP_TARGET t).setFld a Fld.DIE_OPP_RAMPING 1
    let s := s.driveRails q (max (oppMv t) (s.power.coreMv.getD q 0)) (max (oppSramMv t) (s.power.sramMv.getD q 0))
    if t < s.fld a Fld.DIE_OPP_SETTLED then s.setFld a Fld.DIE_OPP_SETTLED t else s

def State.retargetAll (s : State) : State := (List.range 4).foldl (fun s q => s.retarget q) s

/-- The die's caps shown (R345, R347), and the target follows. -/
def State.showCap (s : State) (q : Nat) : State :=
  let p := s.power.capPwr.getD q 7
  let t := s.power.capTherm.getD q 7
  let a := Reg.DIE_OPP q
  let s := s.setFld a Fld.DIE_OPP_CAP (min p t)
  let s := s.setFld a Fld.DIE_OPP_CAP_BY ((if p < 7 then 1 else 0) + (if t < 7 then 2 else 0))
  s.retarget q

/-- Frequency an island may run at (R343), as an OPP. -/
def State.islandOpp (s : State) (i : Nat) : Nat :=
  let settled (q : Nat) : Nat := s.fld (Reg.DIE_OPP q) Fld.DIE_OPP_SETTLED
  let upper := if i % 8 < 4 then 0 else 1
  let own := settled (islandDie i)
  let own := if i / 8 = 4 then min own (settled (upper + 2)) else own
  let cap := (s.reg (Reg.ISL_CAP (i / 8))).toNat / 16 ^ (i % 8) % 16
  if 8 ≤ cap then min own (cap % 8) else own

/-- Every island's pattern restarts at its frequency (R337). DEDUCED: log entry 104. -/
def State.restartPatterns (s : State) : State :=
  let opps := (List.range 72).foldl (fun m i => let o := s.islandOpp i; if o = 0 then mdel m i else mset m i o) s.power.islOpp
  { s with power := { s.power with islOpp := opps, moved := s.power.moved || opps != s.power.islOpp } }

/-- The rails of every die at its target's voltages (R341). -/
def State.railsFollow (s : State) : State :=
  (List.range 4).foldl (fun s q =>
    let t := s.fld (Reg.DIE_OPP q) Fld.DIE_OPP_TARGET
    s.driveRails q (oppMv t) (oppSramMv t)) s

/-- Held OVR writes take effect (R342): a phase point above OPP_MAX is clamped and logged. DEDUCED: log entry 80. -/
def State.applyOvr (s : State) : State :=
  let due := (List.range 4).filter fun q => s.held.any fun h => h.addr == Reg.DIE_OPP q
  let s := s.applyHeld fun r _ => r.boundary == Boundary.pattern
  let s := due.foldl (fun s q => if s.oppMax q < s.phasePoint q then s.pwrErr 0x7648 0 else s) s
  s.retargetAll

/-- A pattern boundary (R337, R342): islands take their frequencies, and rails that were held for a faster one come down
(R344). DEDUCED: log entry 104. -/
def State.patternBoundary (s : State) : State :=
  let s := (if s.replay then s else s.applyOvr).restartPatterns
  if s.power.pwmMid ∨ 3 ≤ s.pwrState then s else s.railsFollow

def execPatternBoundary (s : State) : Out := .next s.patternBoundary

/-- The sense voltage has held (R344): the target settles, and its reading lies within 5 mV of the table's voltage.
DEDUCED: log entry 80. -/
def State.oppSettle (s : State) (q : Nat) : State :=
  let a := Reg.DIE_OPP q
  if s.flag a Fld.DIE_OPP_RAMPING ∧ s.power.trip = 0 then
    let t := s.fld a Fld.DIE_OPP_TARGET
    let s := (s.setFld a Fld.DIE_OPP_RAMPING 0).setFld a Fld.DIE_OPP_SETTLED t
    { s.setFld a Fld.DIE_OPP_VCORE_MV (oppMv t - 5 + Config.freeNat s.free % 11) with free := s.free + 1 }
  else s

def execOppSettle (q : Die) (s : State) : Out := .next (s.oppSettle q.val)

/-! Trips. -/

/-- What the cores hold is lost with their rails (R179, R352). DEDUCED: log entry 81. -/
def State.coresLost (s : State) : State :=
  let strmReg (a : Nat) : Bool := inWindows a && (a % 0x1_0000 == 0x104 || a % 0x1_0000 == 0x204)
  { s.unsetRegs strmReg with cores := [], reqs := [], redFlits := [], redBuf := [], spad := [], spUe := [] }

/-- Rails removed (R352): every PWM output to mid level, every PMBus rail off. DEDUCED: log entry 81. -/
def State.railsOff (s : State) : State :=
  let s := (List.range 10).foldl (fun s r => s.setFld (Reg.RAIL_STAT r) Fld.RAIL_STAT_ON 0) s
  { s with power := { s.power with pwmMid := true, coreMv := [0, 0, 0, 0], sramMv := [0, 0, 0, 0] } }

/-- A thermal (1) or rail (2) trip (R352). DEDUCED: log entry 81. -/
def State.tripNow (s : State) (kind code loc : Nat) : State :=
  if s.power.trip ≠ 0 then s
  else
    let s := ((s.pwrErr code loc).railsOff).coresLost
    { s with power := { s.power with trip := kind, thermTrip := s.power.thermTrip || kind == 1 } }

/-- A rail that has not settled in time (R344): too low while it rises, too high while it falls.
DEDUCED: log entry 80. -/
def execRailSettleTimeout (q : Die) (s : State) : Out :=
  let a := Reg.DIE_OPP q.val
  .next (if s.flag a Fld.DIE_OPP_RAMPING then
    s.tripNow 2 (if s.fld a Fld.DIE_OPP_SETTLED < s.fld a Fld.DIE_OPP_TARGET then 0x5644 else 0x5645) q.val
  else s)

def execVcoreToleranceTrip (q : Die) (high : Bool) (s : State) : Out :=
  .next (s.tripNow 2 (if high then 0x5645 else 0x5644) q.val)

/-- A phase that is fitted has been at its limit for 1 ms (R350). -/
def execPhaseLimitTrip (q : Die) (pp : Fin 24) (s : State) : Out :=
  .next (if pp.val < s.fld (Reg.PH_CFG q.val) Fld.PH_CFG_PHASES then s.tripNow 2 0x5646 (q.val * 32 + pp.val) else s)

/-- A crystal is lost (R352): its PLLs and what they clock stop; the record names the crystal.
DEDUCED: log entry 81. -/
def State.clockLoss (s : State) (xb : Bool) : State :=
  let lock := s.fld Reg.CLK_STAT Fld.CLK_STAT_PLL_LOCK
  let s := s.clkErr 0x5604 (if xb then 1 else 0)
  if xb then
    let s := (s.setFld Reg.CLK_STAT Fld.CLK_STAT_XB_OK 0).setFld Reg.CLK_STAT Fld.CLK_STAT_PLL_LOCK (lock &&& 0xEFFF)
    { s with power := { s.power with xbLost := true } }
  else
    let s := (s.setFld Reg.CLK_STAT Fld.CLK_STAT_XA_OK 0).setFld Reg.CLK_STAT Fld.CLK_STAT_PLL_LOCK (lock &&& 0x1000)
    { s with power := { s.power with xaLost := true } }

def execClockLoss (xb : Bool) (s : State) : Out := .next (s.clockLoss xb)

/-! Power limit (R345). -/

def execPowerMeasure (avg1us avg10ms : BitVec 16) (s : State) : Out :=
  let pl := s.fld Reg.PWR_LIMIT Fld.PWR_LIMIT_LIMIT_W
  let s := (s.setFld Reg.PWR_MEAS Fld.PWR_MEAS_AVG_1US avg1us.toNat).setFld Reg.PWR_MEAS Fld.PWR_MEAS_AVG_10MS avg10ms.toNat
  .next { s with power := { s.power with
    excess := decide (6 * pl < 5 * avg1us.toNat) || decide (pl < avg10ms.toNat)
    low := decide (100 * avg10ms.toNat < 95 * pl) } }

/-- A drop shown in STEP_STAT for the step; the first of its kind in a step is logged (R345, R347). -/
def State.throttled (s : State) (code : Nat) (logged : Bool) : State :=
  if s.stepActive then
    let s := (s.setFld Reg.STEP_STAT Fld.STEP_STAT_THROTTLED 1).irrepro s.stepCtx
    if logged then s else s.pwrErr code 0
  else s

/-- The cap a drop leaves: one OPP below the point the die runs to, never below OPP0. DEDUCED: log entry 80. -/
def State.capDrop (s : State) (q : Nat) : Nat :=
  min (s.fld (Reg.DIE_OPP q) Fld.DIE_OPP_CAP) (s.fld (Reg.DIE_OPP q) Fld.DIE_OPP_TARGET) - 1

/-- A cap one OPP higher; one that no longer limits is lifted. DEDUCED: log entry 80. -/
def State.capRise (s : State) (q cap : Nat) : Nat :=
  if min (s.phasePoint q) (s.oppMax q) ≤ cap + 1 then 7 else cap + 1

/-- The power response drops every die's cap, or raises it (R345). -/
def State.powerCap (s : State) (raise : Bool) : State :=
  let ps := s.power.capPwr
  if !raise && s.power.excess then
    let s1 := s.bump Reg.PWR_THROT Fld.PWR_THROT_LIMIT 1
    let s1 := s1.throttled 0x0641 s.power.loggedPwr
    let s1 := { s1 with power := { s1.power with
      capPwr := (List.range 4).map fun q => min (ps.getD q 7) (s.capDrop q), loggedPwr := s.power.loggedPwr || s.stepActive } }
    (List.range 4).foldl (fun s q => s.showCap q) s1
  else if raise && s.power.low then
    let s1 := { s with power := { s.power with
      capPwr := (List.range 4).map fun q => if ps.getD q 7 < 7 then s.capRise q (ps.getD q 7) else 7 } }
    (List.range 4).foldl (fun s q => s.showCap q) s1
  else s

def execPowerCapStep (raise : Bool) (s : State) : Out := .next (s.powerCap raise)

/-! Temperature (R347). -/

/-- Die of a thermal sensor: its island's clock die, or the uncore sensor's own. -/
def sensorDie (i : Nat) : Nat := if i < 72 then islandDie i else (i - 72) / 6 % 4

/-- The throttle temperature: 60 to 105 °C, other values taken as 105 (R354). -/
def State.throttleC (s : State) : Nat :=
  let t := s.fld Reg.THERM_CFG Fld.THERM_CFG_THROTTLE_C
  if 60 ≤ t ∧ t ≤ 105 then t else 105

/-- Index and reading of the hottest sensor; the lowest index among equals. -/
def hottest (ts : List Byte) : Nat × Nat :=
  (List.range ts.length).foldl (fun (b : Nat × Nat) i =>
    let t := (ts.getD i 0).toNat
    if b.2 < t then (i, t) else b) (0, (ts.headD 0).toNat)

def State.thermalSample (s : State) (ts : List Byte) : State :=
  let h := hottest ts
  let a := Reg.THERM_MAX
  let s := ((s.setFld a Fld.THERM_MAX_SENSOR h.1).setFld a Fld.THERM_MAX_TEMP_C h.2).setFld a Fld.THERM_MAX_PEAK_C
    (max h.2 (s.fld a Fld.THERM_MAX_PEAK_C))
  let thr := s.throttleC
  let of (q : Nat) : List Nat := (List.range ts.length).filterMap fun i =>
    if sensorDie i = q then some (ts.getD i 0).toNat else none
  let s := { s with power := { s.power with
    hot := (List.range 4).map fun q => (of q).any fun t => decide (thr ≤ t)
    cool := (List.range 4).map fun q => (of q).all fun t => decide (t + 5 < thr) } }
  if 120 ≤ h.2 then s.tripNow 1 0x5643 h.1 else s

def execThermalSample (temps : List Byte) (s : State) : Out := .next (s.thermalSample temps)

/-- The thermal response of a die drops its cap, or raises it. -/
def State.thermalCap (s : State) (q : Nat) (raise : Bool) : State :=
  let c := s.power.capTherm.getD q 7
  if !raise && s.power.hot.getD q false then
    let s1 := (s.bump Reg.PWR_THROT Fld.PWR_THROT_THERMAL 1).throttled 0x0642 s.power.loggedTherm
    ({ s1 with power := { s1.power with
        capTherm := s1.power.capTherm.set q (min c (s.capDrop q)), loggedTherm := s.power.loggedTherm || s.stepActive } }).showCap q
  else if raise && s.power.cool.getD q false && decide (c < 7) then
    ({ s with power := { s.power with capTherm := s.power.capTherm.set q (s.capRise q c) } }).showCap q
  else s

def execThermalCapStep (q : Die) (raise : Bool) (s : State) : Out := .next (s.thermalCap q.val raise)

/-! Rails over PMBus (R351). -/

def State.pmbusPoll (s : State) (r : Nat) (answered fault pgood : Bool) (mv : Nat) : State :=
  let a := Reg.RAIL_STAT r
  let put (n : Nat) (s : State) : State := { s with power := { s.power with missed := s.power.missed.set r n } }
  if answered then
    let s := put 0 ((s.setFld a Fld.RAIL_STAT_PGOOD (if pgood then 1 else 0)).setFld a Fld.RAIL_STAT_MV mv)
    if fault then (s.setFld a Fld.RAIL_STAT_FAULT 1).tripNow 2 0x5647 r else s
  else
    let n := s.power.missed.getD r 0 + 1
    let s := put n s
    if n = 3 then (s.setFld a Fld.RAIL_STAT_FAULT 1).tripNow 2 0x5647 r else s

def execPmbusPoll (r : Fin 10) (answered fault pgood : Bool) (mv : BitVec 12) (s : State) : Out :=
  .next (s.pmbusPoll r.val answered fault pgood mv.toNat)

/-- PWR_CTL.CNT_CLR (R354). A record that a trip left from before the start is readable until here. -/
def execPwrCntClr (s : State) : Out :=
  let s := if s.boot.pwrCopy then { s.setReg Reg.PWR_ERR 0 with boot := { s.boot with pwrCopy := false } } else s
  .next (s.clearFlds [(Reg.PWR_THROT, Fld.PWR_THROT_THERMAL), (Reg.PWR_THROT, Fld.PWR_THROT_LIMIT),
    (Reg.THERM_MAX, Fld.THERM_MAX_PEAK_C)])

/-! Power states (R348, R349). -/

/-- Exit latency of a state in ns. DEDUCED: log entry 83. -/
def exitNs (st : Nat) : Nat := [0, 100, 2000, 300000, 40000000].getD st 0

/-- The smallest tolerance of the physical function and the enabled virtual functions. DEDUCED: log entry 83. -/
def State.tolerance (s : State) : Nat :=
  let vfs := (List.range 8).filterMap fun x =>
    let v := s.fld (Reg.PART_STAT x) Fld.PART_STAT_VF
    if s.partExists x ∧ v ≠ 0 then some v else none
  vfs.foldl (fun m f => min m (s.reg (Reg.LAT_TOL f)).toNat) (s.reg (Reg.LAT_TOL 0)).toNat

/-- The deepest state whose exit latency the tolerance allows. DEDUCED: log entry 83. -/
def deepestFor (tol : Nat) : Nat :=
  if 40000000 ≤ tol then 4 else if 300000 ≤ tol then 3 else if 2000 ≤ tol then 2 else if 100 ≤ tol then 1 else 0

/-- DEDUCED: log entry 83. -/
def State.showAllowed (s : State) : State := s.setFld Reg.PWR_STAT Fld.PWR_STAT_ALLOWED (deepestFor s.tolerance)

/-- Nothing runs that keeps the part Active: no core stream in state 1, no DMA channel busy. -/
def State.inactive (s : State) : Bool := s.runningCores.isEmpty && s.dmaCh.all fun e => e.2.isEmpty

/-- The state an entry goes to: Gated and deeper need no step in progress and RUN 0. -/
def State.entryState (s : State) : Nat :=
  let d := deepestFor s.tolerance
  if s.stepActive || s.flag Reg.STEP_CTL Fld.STEP_CTL_RUN then min 1 d else d

/-- DEDUCED: log entry 82. -/
def State.powerEntry (s : State) : State :=
  let d := s.entryState
  if s.inactive ∧ s.pwrState < d ∧ ¬ s.power.waking ∧ s.power.trip = 0 then
    (s.setFld Reg.PWR_STAT Fld.PWR_STAT_STATE d).setFld Reg.PWR_STAT Fld.PWR_STAT_ENTERING 1
  else s

def execPowerStateEntry (s : State) : Out := .next s.powerEntry

/-- Full debug ends (R386). -/
def State.fullEnds (s : State) : State :=
  if s.fld Reg.DBG_STAT Fld.DBG_STAT_LEVEL = 2 then
    (s.setFld Reg.DBG_STAT Fld.DBG_STAT_LEVEL 0).setFld Reg.DBG_STAT Fld.DBG_STAT_PART 0
  else s

/-- Every debug level ends (R386, R387). -/
def State.debugEnds (s : State) : State :=
  let s := (s.setFld Reg.DBG_STAT Fld.DBG_STAT_LEVEL 0).setFld Reg.DBG_STAT Fld.DBG_STAT_PART 0
  { s with enclave := { s.enclave with session := none } }

def State.selfRefresh (s : State) (v : Nat) : State :=
  (List.range 8).foldl (fun s h => s.setFld (Reg.NEAR_STAT h) Fld.NEAR_STAT_SELFREF v) s

/-- An entry completes (R231, R348): near memory in self-refresh in Retain and Deep; VCORE at 0.55 V and VSRAM at 0.70 V in
Retain; the core rails off and the reach links down in Deep. -/
def State.powerEntered (s : State) : State :=
  if !s.flag Reg.PWR_STAT Fld.PWR_STAT_ENTERING then s
  else
    let s := s.setFld Reg.PWR_STAT Fld.PWR_STAT_ENTERING 0
    let s := if 3 ≤ s.pwrState then s.selfRefresh 1 else s
    let s := if s.pwrState = 3 then (List.range 4).foldl (fun s q => s.driveRails q 550 700) s else s
    if s.pwrState = 4 then
      let s := { s with power := { s.power with coreMv := [0, 0, 0, 0] } }
      let s := (List.range 4).foldl (fun s n => s.reachDown n) s
      s.coresLost.debugEnds
    else s

def execPowerStateEntryDone (s : State) : Out := .next s.powerEntered

/-- A tolerance is written (R348, R349): one below the present state's exit latency wakes the part. -/
def State.latTolWrite (s : State) (fn : Nat) (ns : Nat) : State :=
  let s := (s.setReg (Reg.LAT_TOL fn) (BitVec.ofNat 64 ns)).showAllowed
  if s.tolerance < exitNs s.pwrState then s.wake else s

def execLatTolWrite (who : Writer) (fn : Fn) (ns : Word32) (s : State) : Out :=
  .next (s.command who (Reg.LAT_TOL fn.val) fun s => s.latTolWrite fn.val ns.toNat)

end Sys2Proof.Machine
end

