-- ==== Sys2Proof/Machine/Profile.lean ====
section
/-! DEFINITION. The boot-flash header and the profile records (R323, R324, R364, R365), the owner keys' signatures (R320,
R381), the measurement log (R382), and the switch of profiles at a step boundary. -/

namespace Sys2Proof.Machine

open Sys2Proof

/-! The boot-flash header. -/

/-- A 64-byte value in memory, byte 0 in the lowest bits. -/
def memHash (m : Mem) (a : Nat) : Hash := BitVec.ofNat 512 (memNat m a 64)

/-- The header at a flash offset (R364), where its MAGIC and DIGEST are correct. -/
def flashHeaderAt (m : Mem) (a : Nat) : Option FlashHdr :=
  if memNat m a 4 = 0x42375652 ∧ Config.sha512 (memBytes m a 0xC0) = memHash m (a + 0xC0) then
    some
      { xaComp := memGet m (a + 6) == 1, xbComp := memGet m (a + 7) == 1, xaSettle := memNat m (a + 8) 2
        xbSettle := memNat m (a + 0xA) 2, rank := memNat m (a + 0xC) 2
        fwLoc := (List.range 4).map fun i => (memNat m (a + 0x10 + 16 * i) 8, memNat m (a + 0x18 + 16 * i) 8)
        profOff := (List.range 4).map fun i => memNat m (a + 0x50 + 8 * i) 8
        pmbAddr := (List.range 10).map fun i => memNat m (a + 0x70 + i) 1
        phases := (List.range 4).map fun i => memNat m (a + 0x7A + i) 1
        ocpA := (List.range 4).map fun i => memNat m (a + 0x7E + i) 1 }
  else none

/-- The first copy that is correct (R365). -/
def State.flashHeader (s : State) : Option FlashHdr :=
  match flashHeaderAt s.flash 0 with
  | some h => some h
  | none => flashHeaderAt s.flash 0x1_0000

/-! Owner keys. -/

namespace State

/-- SEC_STAT.LC: 0 Manufacture, 1 Provisioned, 2 Deployed, 3 Returned. -/
def lifecycle (s : State) : Nat := s.fld Reg.SEC_STAT Fld.SEC_STAT_LC

/-- An owner key is held (SEC_STAT.KEYS). -/
def anyKey (s : State) : Bool := s.flag Reg.SEC_STAT Fld.SEC_STAT_KEYS

/-- An owner slot is valid and has a role: 0 IMG, 1 DBG, 2 LC. -/
def keyRole (s : State) (slot role : Nat) : Bool :=
  decide (slot < 4) && s.flag (Reg.SEC_KEY slot) Fld.SEC_KEY_VALID
    && s.fld (Reg.SEC_KEY slot) Fld.SEC_KEY_ROLE / 2 ^ role % 2 == 1

/-- Public key of a slot: four 64-bit words. -/
def ownerKey (s : State) (slot : Nat) : BitVec 256 :=
  BitVec.ofNat 256 ((List.range 4).foldl (fun v i => v + (s.reg (Reg.SEC_KEY_PUB slot i)).toNat * 2 ^ (64 * i)) 0)

/-- The rule for signatures of images and profiles (R320): required, optional or refused by lifecycle. -/
def sigRule (s : State) (slot : Nat) (msg : List Byte) (sig : Hash) : Bool :=
  if s.lifecycle = 3 then false
  else if slot = 0xFF then sig == 0 && !(s.lifecycle == 2 && s.anyKey)
  else s.keyRole slot 0 && Config.ed25519Verify (s.ownerKey slot) msg sig

/-- An entry of the measurement log (R382). -/
def setLog (s : State) (i : Nat) (h : Hash) : State :=
  (List.range 8).foldl (fun s j => s.setReg (Reg.SEC_MLOG i j) (BitVec.ofNat 64 (h.toNat / 2 ^ (64 * j)))) s

def logEntry (s : State) (i : Nat) : Hash :=
  BitVec.ofNat 512 ((List.range 8).foldl (fun v j => v + (s.reg (Reg.SEC_MLOG i j)).toNat * 2 ^ (64 * j)) 0)

/-- The loaded image's measurement (IMG_MEAS). -/
def imageMeas (s : State) : Hash :=
  BitVec.ofNat 512 ((List.range 8).foldl (fun v j => v + (s.reg (Reg.IMG_MEAS j)).toNat * 2 ^ (64 * j)) 0)

end State

/-- A hash as its 64 bytes. -/
def hashBytes (h : Hash) : List Byte := natBytes h.toNat 64

/-! Profile records. -/

/-- The fields of the record at a flash offset (R323). -/
def profileAt (m : Mem) (a : Nat) : Profile :=
  { role := memNat m (a + 5) 1, replay := memGet m (a + 6) == 1, imgSrc := memNat m (a + 7) 1
    limit := memNat m (a + 8) 2, latTol := memNat m (a + 0xC) 4, imgOff := memNat m (a + 0x10) 8
    imgLen := memNat m (a + 0x18) 8, imgHash := memHash m (a + 0x20)
    opp := (List.range 24).map fun i => memNat m (a + 0x60 + i) 1
    oppMax := (List.range 4).map fun q => memNat m (a + 0x78 + q) 1 }

/-- Flash offset of record `p`, where a header names one. -/
def State.profOff (s : State) (p : Nat) : Option Nat := s.boot.hdr.profOff[p]?

/-- Validity of a record (R323). -/
def State.profValid (s : State) (p : Nat) : Bool :=
  match s.profOff p with
  | none => false
  | some a =>
    let f := profileAt s.flash a
    let dig := memBytes s.flash (a + 0x100) 64
    memNat s.flash a 4 == 0x46505652 && memNat s.flash (a + 4) 1 == p
      && Config.sha512 (memBytes s.flash a 0x100) == memHash s.flash (a + 0x100)
      && ((List.range 24).all fun i => decide (f.opp.getD i 0 ≤ f.oppMax.getD (i % 4) 0))
      && s.sigRule (memNat s.flash (a + 0x140) 1) dig (memHash s.flash (a + 0x180))

/-- The record's fields. -/
def State.profRecord (s : State) (p : Nat) : Profile := profileAt s.flash ((s.profOff p).getD 0)

/-- DIGEST of a record: its measurement. -/
def State.profDigest (s : State) (p : Nat) : Hash := memHash s.flash ((s.profOff p).getD 0 + 0x100)

/-- PROF_STAT.VALID as the records stand. -/
def State.showProfiles (s : State) : State :=
  s.setFld Reg.PROF_STAT Fld.PROF_STAT_VALID
    ((List.range 4).foldl (fun v p => v + (if s.profValid p then 2 ^ p else 0)) 0)

/-- A power limit as the part takes it (R323): 300–2,000 W. -/
def clampLimit (w : Nat) : Nat := min 2000 (max 300 w)

/-- A profile in force: its operating points, power limit and determinism mode (strap code 14 holds replay mode whatever the
record says, R360), and its DIGEST in the log (R382). -/
def State.takeProfile (s : State) (p : Nat) : State :=
  let f := s.profRecord p
  let s := { (s.setFld Reg.PROF_STAT Fld.PROF_STAT_ACTIVE p) with profile := some f }
  let s := s.setFld Reg.PWR_LIMIT Fld.PWR_LIMIT_LIMIT_W (clampLimit f.limit)
  let s := s.setFld Reg.STEP_CTL Fld.STEP_CTL_REPLAY (if f.replay || s.fld Reg.STRAP Fld.STRAP_CODE == 14 then 1 else 0)
  (s.setLog 4 (s.profDigest p)).retargetAll

/-- The switch to a profile of another image loads that image (R324, R319): from boot flash; one that the host supplies is the
host's to load. DEDUCED: log entry 68. -/
def State.profLoad (s : State) (f : Profile) : State :=
  match f.imgSrc, s.stepCtx with
  | 0, some x =>
    if s.imgLoad.isSome || s.partRuns x then s.report 0x75CA (some x) none 0
    else { s.setFld Reg.IMG_STAT Fld.IMG_STAT_STATE 1 with imgLoad := some ⟨x, 0, some (f.imgOff, f.imgLen)⟩ }
  | _, _ => s

/-- A pending switch takes effect (R324): ROLE 3 keeps the device's role. A profile of another image brings its load.
DEDUCED: log entry 68. -/
def State.profSwitch (s : State) : State :=
  if !s.flag Reg.PROF_STAT Fld.PROF_STAT_PENDING then s
  else
    let p := s.fld Reg.PROF_STAT Fld.PROF_STAT_NEXT
    let s := (s.setFld Reg.PROF_STAT Fld.PROF_STAT_PENDING 0).setFld Reg.PROF_STAT Fld.PROF_STAT_BY_CMD 1
    let s := s.takeProfile p
    let f := s.profRecord p
    let s := if f.role < 3 then s.setFld Reg.STEP_CTL Fld.STEP_CTL_ROLE f.role else s
    if f.imgHash = 0 ∨ f.imgHash = s.imageMeas then s else s.profLoad f

end Sys2Proof.Machine
end

