-- ==== Sys2Proof/Machine/Tables.lean ====
section
/-! DEFINITION. What an image load writes into the cores' tables, and the resident copy of it in near memory, from which a
repeat reloads (R264, R270, R321). The copy's layout is the model's: log entry 109. -/

namespace Sys2Proof.Machine

open Sys2Proof

/-- One entry of a table: its kind (1 instruction, 2 pointer, 3 descriptor, 4 entry bank, 5 register), the stream, the key
(bank × table size + index; for a register its address) and the value. -/
structure Item where
  kind : Nat
  core : Nat
  strm : Nat
  key : Nat
  val : Sector
  deriving DecidableEq, Repr

def strmOf (n : Nat) : Strm := if n = 0 then .access else .execute

/-- The entries of one program; a bank whose instructions come with it is READY (R145). -/
def Program.items (p : Program) : List Item :=
  let one (kind key : Nat) (v : Sector) : Item := ⟨kind, p.core, sidx p.stream, key, v⟩
  (p.code.map fun e => one 1 e.1 (e.2.setWidth 256)) ++ (p.ptrs.map fun e => one 2 e.1 (e.2.setWidth 256))
    ++ (p.descs.map fun e => one 3 e.1 e.2) ++ [one 4 0 (if p.entry then 1 else 0)]

/-- Entries of a bank's list of `n` entries, in bank `b`. -/
def intoBank {α : Type} (b n : Nat) (l : List (Nat × α)) : List (Nat × α) := l.map fun e => (b * n + e.1 % n, e.2)

/-- The program without its entry bank, for a given bank (R270). -/
def Program.inBank (p : Program) (b : Nat) : Program :=
  { p with code := intoBank b 2048 p.code, ptrs := intoBank b 32 p.ptrs, descs := intoBank b 32 p.descs, entry := b == 1 }

/-- What a load or a reload leaves in place of REGS, PENNANT and HOIST (R321). -/
def regItems (l : List (Nat × Word)) : List Item := l.map fun w => ⟨5, 0, 0, w.1, w.2.setWidth 256⟩

/-- STREAMS, PENNANT, HOIST and REGS of an image, as the resident copy holds them. -/
def ImageBody.items (b : ImageBody) : List Item := b.streams.flatMap Program.items ++ regItems b.resident

namespace State

/-- One entry written. -/
def putItem (s : State) (x : Item) : State :=
  let t := strmOf x.strm
  let st := Reg.IMEM_LD_STAT x.core x.strm
  match x.kind with
  | 1 =>
    let s := s.modStrm x.core t fun k => { k with imem := mset k.imem x.key (x.val.setWidth 128) }
    s.setFld st (if x.key < 2048 then Fld.IMEM_LD_STAT_READY0 else Fld.IMEM_LD_STAT_READY1) 1
  | 2 => s.modStrm x.core t fun k => { k with ptrs := mset k.ptrs x.key (x.val.setWidth 64) }
  | 3 => s.modStrm x.core t fun k => { k with descs := mset k.descs x.key x.val }
  | 4 => s.setFld (Reg.STRM_CTL x.core x.strm) Fld.STRM_CTL_ABANK x.val.toNat
  | 5 => s.imgPut x.key (x.val.setWidth 64)
  | _ => s

def putItems (s : State) (l : List Item) : State := l.foldl (fun s x => s.putItem x) s

end State

/-! The resident copy: two sectors an entry, and a zero sector after the last. DESIGN CHOICE: log entry 109. -/

/-- The first sector of an entry. -/
def Item.head (x : Item) : Sector := BitVec.ofNat 256 (x.kind + x.strm * 2 ^ 8 + x.core * 2 ^ 16 + x.key * 2 ^ 64)

def itemOf (h v : Sector) : Item :=
  ⟨h.toNat % 2 ^ 8, h.toNat / 2 ^ 16 % 2 ^ 16, h.toNat / 2 ^ 8 % 2 ^ 8, h.toNat / 2 ^ 64 % 2 ^ 64, v⟩

def residentSecs (l : List Item) : List Sector := l.flatMap (fun x => [x.head, x.val]) ++ [0]

/-- Size of a resident copy in units of 64 KiB. -/
def residentSize (l : List Item) : Nat := (64 * l.length + 32 + 65535) / 65536

namespace State

/-- Sectors written in ascending address from the base of the resident copy; none where no region of near memory lies. -/
def residentPut (s : State) (a : Nat) : List Sector → State
  | [] => s
  | d :: ds =>
    let s := match s.place a with
      | some (l, _) => if l.space = Space.near then (s.stLoc l d beAll).1 else s
      | none => s
    s.residentPut (a + 32) ds

/-- A sector of the resident copy; 0 where none can be read, which is reported (R220). -/
def residentSec (s : State) (a : Nat) : State × Sector :=
  match s.place a with
  | none => (s, 0)
  | some (l, o) =>
    match s.meshRead l with
    | (s, some d) => (s, d)
    | (s, none) => (s.report (ueCode l) o none l.addr, 0)

/-- The entries that the region then holds, up to its end (R321). -/
def residentItems : Nat → Nat → State → State × List Item
  | 0, _, s => (s, [])
  | n + 1, a, s =>
    match s.residentSec a with
    | (s, h) =>
      if h.toNat % 2 ^ 8 = 0 then (s, [])
      else
        match s.residentSec (a + 32) with
        | (s, v) => let r := residentItems n (a + 64) s; (r.1, itemOf h v :: r.2)

/-- What the resident copy holds. -/
def resident (s : State) : State × List Item :=
  residentItems (s.fld Reg.IMG_STAT Fld.IMG_STAT_RES_64K * 1024) (s.fld Reg.IMG_RES Fld.IMG_RES_ADDR) s

/-- The reload of a context's cores from the resident copy (R264 step 6); its combine units are checked again (R313).
DEDUCED: log entries 62, 69. -/
def reload (s : State) (x : Nat) : State :=
  match s.resident with
  | (s, l) => (s.ctxCores x).foldl (fun s c => s.combineCheck c) (s.putItems l)

/-- The evaluation programs go into the inactive banks during apply (R270). DEDUCED: log entry 75. -/
def loadEval (s : State) : State :=
  match s.stepCtx.bind (mfind s.images) with
  | none => s
  | some b => b.eval.foldl (fun s p =>
      s.putItems ((p.inBank (1 - s.strmBank p.core p.stream)).items.filter fun x => x.kind != 4)) s

/-- Once evaluate is over, the banks that are then inactive hold again what the resident copy has for them (R321).
DEDUCED: log entry 75. -/
def unloadEval (s : State) : State :=
  match s.resident with
  | (s, l) => s.putItems (l.filter fun x =>
      (x.kind == 1 && x.key / 2048 != s.strmBank x.core (strmOf x.strm))
        || ((x.kind == 2 || x.kind == 3) && x.key / 32 != s.strmBank x.core (strmOf x.strm)))

end State

end Sys2Proof.Machine
end

