-- ==== Sys2Proof/Machine/StepCtl.lean ====
section
/-! DEFINITION. Step control: the tick (R257, R258), the step plan and its phases (R259–R262), repeats (R263–R265),
detectors and the verdict (R266–R269), evaluation (R270) and step records (R271–R273). Messages of the hoist tree leave
through `out`; those for the own device come back as commands. -/

namespace Sys2Proof.Machine

open Sys2Proof

/-! What the step's registers say. -/

namespace State

def role (s : State) : Nat := s.fld Reg.STEP_CTL Fld.STEP_CTL_ROLE
/-- The device is a group's manager (R255); a top manager is one too. -/
def isManager (s : State) : Bool := s.role == 1 || s.role == 2

/-- The top of the tree that step control and the tick run on: a top manager, or a manager that none coordinates (R256, R257).
DEDUCED: log entry 11. -/
def topOfTree (s : State) : Bool := s.role == 2 || (s.role == 1 && !Config.topManaged)

/-- The group runs in lockstep with others (R256). DEDUCED: log entry 11. -/
def inLockstep (s : State) : Bool := s.role == 2 || (s.role == 1 && Config.topManaged)

/-- A step-control message goes on along the hoist tree on a device that is not the manager (R255). DEDUCED: log entry 62. -/
def relay (s : State) (m : OutMsg) : State := if s.isManager then s else s.emit m

/-- A report of another device goes on towards the manager (R255). DEDUCED: log entry 62. -/
def relayUp (s : State) (rank : Nat) (m : OutMsg) : State := if rank = s.rank then s else s.emit m

/-- Devices of the group: the extents' product (R243). -/
def groupSize (s : State) : Nat := (s.torus s.stepCtx).foldl (fun n e => n * max 1 e) 1

/-- A phase is in the step's plan; evaluate only in a step that is to evaluate (R259, R270). -/
def planValid (s : State) (p : Nat) : Bool :=
  s.flag (Reg.PLAN_HST p) Fld.PLAN_HST_VALID && (p != 5 || s.run.evalDue)

def planHid (s : State) (p : Nat) : Nat := s.fld (Reg.PLAN_HST p) Fld.PLAN_HST_HID
def planSoft (s : State) (p : Nat) : Nat := s.fld (Reg.PLAN_DL p) Fld.PLAN_DL_SOFT

/-- Cores of the step's partition in ascending logical index (R267), as the image places them.
DEDUCED: log entry 69. -/
def stepCores (s : State) : List Nat :=
  match s.stepCtx with
  | none => []
  | some x =>
    match mfind s.images x with
    | some b => b.placement
    | none => s.ctxCores x

def modRun (s : State) (f : StepRun → StepRun) : State := { s with run := f s.run }
def modMgr (s : State) (f : Manager → Manager) : State := { s with mgr := f s.mgr }

/-- STEP_ERR (R280): the first record is kept while VALID is 1; every error is reported. -/
def stepErr (s : State) (code dev : Nat) : State :=
  let w := 2 ^ 63 + dev % 1024 * 2 ^ 53 + (s.reg Reg.STEP_NUM).toNat % 2 ^ 37 * 2 ^ 16 + code
  let s := if s.flag Reg.STEP_ERR Fld.STEP_ERR_VALID then s else s.setReg Reg.STEP_ERR (BitVec.ofNat 64 w)
  s.report code none none (BitVec.ofNat 64 w).toNat

def showPhase (s : State) (v : Nat) : State := s.setFld Reg.STEP_STAT Fld.STEP_STAT_PHASE v

end State

/-! Detectors (R266, R267). -/

/-- Window offsets of the detectors' counters: NF, CMPR_DROP, PRED, MAXEXP, GNORM. -/
def detOffsets : List Nat :=
  [0x3100, 0x3104, 0x3108, 0x310C, 0x3120, 0x3124, 0x3200, 0x3218, 0x3220, 0x3228, 0x322C, 0x3230]

/-- The detectors of the partition's cores cleared. -/
def State.clearDetectors (s : State) : State :=
  s.unsetRegs fun a => inWindows a && detOffsets.contains (a % 0x1_0000) && s.coreCtx (windowCore a) == s.stepCtx
    && s.stepCtx.isSome

def VerifyReport.zero : VerifyReport :=
  { nfPos := 0, nfNeg := 0, nfNan := 0, nfApply := 0, maxExp := 0, gnorm := 0, predSkip := 0, predAudit := 0
    predMiss := 0, predOver := 0, late := [] }

/-- fp32 sum from the first value on. -/
def gnormSum : List Nat → Nat
  | [] => 0
  | g :: gs => gs.foldl f32Add g

/-- What the detectors of the cores read. -/
def State.readDetectors (s : State) : VerifyReport :=
  let cs := s.stepCores
  let sum (f : Nat → Nat) : BitVec 64 := BitVec.ofNat 64 (cs.foldl (fun n c => n + f c) 0)
  { nfPos := sum fun c => s.fld (Reg.NF_POS_INF c) Fld.NF_POS_INF_COUNT
    nfNeg := sum fun c => s.fld (Reg.NF_NEG_INF c) Fld.NF_NEG_INF_COUNT
    nfNan := sum fun c => s.fld (Reg.NF_NAN c) Fld.NF_NAN_COUNT
    nfApply := 0
    maxExp := BitVec.ofNat 8 (cs.foldl (fun n c => max n (s.fld (Reg.MAXEXP c) Fld.MAXEXP_EXP)) 0)
    gnorm := BitVec.ofNat 32 (gnormSum (cs.map fun c => s.fld (Reg.GNORM c) Fld.GNORM_VALUE))
    predSkip := sum fun c => s.fld (Reg.PRED_SKIP c) Fld.PRED_SKIP_COUNT
    predAudit := sum fun c => s.fld (Reg.PRED_AUDIT c) Fld.PRED_AUDIT_COUNT
    predMiss := sum fun c => s.fld (Reg.PRED_MISS c) Fld.PRED_MISS_COUNT
    predOver := sum fun c => s.fld (Reg.PRED_OVER c) Fld.PRED_OVER_COUNT
    cmprDrop := sum fun c => s.fld (Reg.CMPR_DROP c) Fld.CMPR_DROP_COUNT
    late := [] }

/-- Reports combined in ascending rank (R267). -/
def combineReports : List VerifyReport → VerifyReport
  | [] => VerifyReport.zero
  | r :: rs =>
    rs.foldl (fun a b =>
      { nfPos := a.nfPos + b.nfPos, nfNeg := a.nfNeg + b.nfNeg, nfNan := a.nfNan + b.nfNan
        nfApply := a.nfApply + b.nfApply, maxExp := if a.maxExp < b.maxExp then b.maxExp else a.maxExp
        gnorm := BitVec.ofNat 32 (f32Add a.gnorm.toNat b.gnorm.toNat)
        predSkip := a.predSkip + b.predSkip, predAudit := a.predAudit + b.predAudit
        predMiss := a.predMiss + b.predMiss, predOver := a.predOver + b.predOver, cmprDrop := a.cmprDrop + b.cmprDrop
        late := a.late ++ b.late }) r

/-- The device's verify report leaves, once in an attempt, and the detectors are cleared (R266).
DESIGN CHOICE: log entry 60. -/
def State.verifySend (s : State) : State :=
  if s.run.verified then s
  else ((s.emit (.verifyReport s.rank s.readDetectors)).clearDetectors).modRun fun r => { r with verified := true }

/-! Lateness (R259, R272). -/

/-- An entry of a phase's missed soft deadline at the present tick. DEDUCED: log entry 58. -/
def State.lateEntry (s : State) (p : Nat) : LateEntry :=
  ⟨BitVec.ofNat 10 s.rank, 3, BitVec.ofNat 8 p, 0, 0,
    BitVec.ofNat 32 (min (2 ^ 32 - 1) (s.tick - (s.run.t0 + s.planSoft p)))⟩

/-- Every lateness entry of the device: phases, missed ones that have not completed, chain entries.
DEDUCED: log entry 58. -/
def State.lateAll (s : State) : List LateEntry :=
  s.run.late ++ ((s.run.missed.filter fun p => !s.run.done.contains p).map s.lateEntry) ++ s.chainLateness

/-- The disabled-unit map: a bit for every core, set where it is disabled. -/
def State.dum (s : State) : BitVec 2304 := BitVec.ofNat 2304 (s.disabled.foldl (fun v c => v + 2 ^ c) 0)

/-- What the device reports at the end of its step: NF_APPLY, its lateness, and what the record says of it (R258, R266,
R271, R279, R384). DEDUCED: log entry 61. -/
def State.endReport (s : State) (nfApply : Nat) : VerifyReport :=
  { VerifyReport.zero with
    nfApply := BitVec.ofNat 64 nfApply, late := s.lateAll, attest := s.flag Reg.SA_STAT Fld.SA_STAT_PENDING
    unsync := s.flag Reg.TICK_SYNC Fld.TICK_SYNC_UNSYNC, throttled := s.flag Reg.STEP_STAT Fld.STEP_STAT_THROTTLED
    irrepro := s.mgr.irrepro, evalFailed := s.mgr.evalFailed, fw := s.reg Reg.FW_VER, dum := s.dum }

/-- Order of R272: RANK, PHASE, TAG, EVENT. -/
def lateKey (e : LateEntry) : Nat :=
  ((e.rank.toNat * 256 + e.phase.toNat) * 4096 + e.tag.toNat) * 256 + e.event.toNat

def lateInsert (e : LateEntry) : List LateEntry → List LateEntry
  | [] => [e]
  | x :: xs => if lateKey e < lateKey x then e :: x :: xs else x :: lateInsert e xs

def lateSort (l : List LateEntry) : List LateEntry := l.foldl (fun a e => lateInsert e a) []

def lateBytes (e : LateEntry) : List Byte :=
  natBytes e.rank.toNat 2 ++ natBytes e.event.toNat 1 ++ natBytes e.phase.toNat 1 ++ natBytes e.tag.toNat 2
    ++ natBytes 0 2 ++ natBytes e.sectors.toNat 4 ++ natBytes e.ticks.toNat 4

/-! The step's start (R260, R261). -/

/-- The seed `p` of step `n`. -/
def stepSeed (gsLo gsHi p n : Nat) : Nat :=
  let m := 2 ^ 32
  let round (x : Nat) : Nat :=
    let x := (x ^^^ (x / 2 ^ 16)) * 0x7FEB_352D % m
    let x := (x ^^^ (x / 2 ^ 15)) * 0x846C_A68B % m
    let x := x ^^^ (x / 2 ^ 16)
    x ^^^ gsHi ^^^ (n / m % m)
  round (round (gsLo ^^^ (p * 0x9E37_79B1 % m) ^^^ (n % m)))

def State.seed (s : State) (p n : Nat) : Nat :=
  stepSeed (s.fld Reg.GROUP_SEED Fld.GROUP_SEED_LO) (s.fld Reg.GROUP_SEED Fld.GROUP_SEED_HI) p n

/-- The 96 bytes of the step information block. -/
def State.infoBytes (s : State) (m : StartMsg) : List Byte :=
  let b (x : Bool) (v : Nat) : Nat := if x then v else 0
  natBytes m.step.toNat 8 ++ natBytes m.attempt.toNat 2
    ++ natBytes (b m.evalDue 1 + b m.replay 2 + b m.prevApplied 4) 2 ++ natBytes 0 20
    ++ (List.range 16).flatMap fun p => natBytes (s.seed p m.step.toNat) 4

/-- The first phase of the plan that is not complete; 6 for none. -/
def State.firstOpen (s : State) : Nat :=
  ((List.range 6).find? fun p => s.planValid p && !s.run.done.contains p).getD 6

/-- T0: the phases begin and STEP_PEN rises, once a muster that is owed has completed (R338).
DESIGN CHOICE: log entry 60; DEDUCED: log entry 61. -/
def State.stepT0 (s : State) : State :=
  if !s.run.waiting then s
  else if s.power.mustering then s.modRun fun r => { r with t0Held := true }
  else
    let s := { s with
      stepActive := true, chains := [], chainIn := []
      power := { s.power with loggedPwr := false, loggedTherm := false } }
    let s := s.modRun fun r => { r with waiting := false }
    let p := s.firstOpen
    let s := (s.modRun fun r => { r with cur := p }).showPhase (if p < 6 then p + 1 else 1)
    let s := s.retargetAll
    if s.flag Reg.STEP_PEN_ID Fld.STEP_PEN_ID_VALID then s.unitSignal s.stepCtx (s.fld Reg.STEP_PEN_ID Fld.STEP_PEN_ID_PEN)
    else s

/-! The step boundary (R259, R281). -/

/-- Firmware writes the exchange's soft deadline into its chain entries (R259, R298). -/
def State.exchDeadlines (s : State) : State :=
  match s.stepCtx with
  | none => s
  | some x =>
    match mfind s.images x with
    | none => s
    | some b => b.exchange.foldl (fun s e =>
        s.setFld (Reg.NRL_CHAIN_DL (e.1 / 64) (e.1 % 64)) Fld.NRL_CHAIN_DL_DEADLINE (s.planSoft 2)) s

/-- What the record shows of the step that runs (R271). -/
def State.shownNow (s : State) : Shown :=
  ⟨s.replay, s.fld Reg.PROF_STAT Fld.PROF_STAT_ACTIVE, s.fld Reg.PWR_LIMIT Fld.PWR_LIMIT_LIMIT_W, s.planValid 5⟩

/-- What takes effect at a step boundary, and the next step's number. In replay mode a muster is owed for what changed its
frequency in the step (R338). -/
def State.stepBoundary (s : State) (next : Bool) : State :=
  let n := s.reg Reg.STEP_NUM
  let s := s.modMgr fun g => { g with shown := some s.shownNow }
  let s := { s with power := { s.power with mustering := s.power.mustering || (s.replay && s.power.moved) } }
  let s := { s with stepActive := false }
  let s := if next then
      { s.setReg Reg.STEP_NUM (n + 1) with enclave := { s.enclave with lastStep := n.toNat } } else s
  let s := (s.showPhase 0).modRun fun r => { r with waiting := false, cur := 6 }
  let s := s.applyHeld fun r _ => r.boundary == Boundary.step
  let s := (s.nirloBoundary).exchDeadlines.profSwitch
  if s.replay then s.applyOvr else s.retargetAll

/-- A device of another image is shut out as a wrong peer is (R246, R280): its ports leave service.
DEDUCED: log entry 71. -/
def State.planMismatch (s : State) : State :=
  let s := s.stepErr 0x7585 s.rank
  (List.range 32).foldl (fun s p =>
    if s.portCtx p == s.stepCtx && s.stepCtx.isSome then (s.setPort p PortState.reset).setPortState p 6 else s) s

/-- A start message reaches the device (R260). One of a new step ends what a skip has left open.
DEDUCED: log entry 71. -/
def State.startMessage (s : State) (m : StartMsg) : State :=
  if m.meas ≠ s.imageMeas then s.planMismatch else
  let s := if s.stepActive && m.attempt == 1 then s.stepBoundary false else s
  let s := s.setReg Reg.STEP_NUM m.step
  let s := (s.setFld Reg.STEP_STAT Fld.STEP_STAT_ATTEMPT (min 15 m.attempt.toNat)).setFld Reg.STEP_STAT Fld.STEP_STAT_HALTED 0
  let s := s.modMgr fun g => { g with shown := none, evalFailed := false }
  let s := if m.attempt = 1 then
      { s.setFld Reg.STEP_STAT Fld.STEP_STAT_THROTTLED 0 with mgr := { s.mgr with irrepro := false } } else s
  let s := s.clearDetectors
  let s := s.wrBytes s.stepCtx (s.fld Reg.INFO_ADDR Fld.INFO_ADDR_ADDR) (s.infoBytes m)
  let s := { s with run := { StepRun.reset with
    waiting := true, t0 := m.t0.toNat, evalDue := m.evalDue, seed1 := BitVec.ofNat 32 (s.seed 1 m.step.toNat) } }
  if m.t0.toNat < s.tick then (s.modRun fun r => { r with late := [s.lateEntry 0] }).stepT0 else s

def execStepStartMessage (m : StartMsg) (s : State) : Out := .next ((s.relay (.stepStart m)).startMessage m).pumpAll
def execStepT0 (s : State) : Out := .next s.stepT0.pumpAll

/-- A muster (R338): every pattern restarts, and the crossings with it. A device that held T0 for it starts then, with a
phase-0 lateness entry. DEDUCED: log entry 104. -/
def State.muster (s : State) : State :=
  let s := s.patternBoundary.setFld Reg.CLK_STAT Fld.CLK_STAT_MUSTER_DONE 1
  let s := { s with power := { s.power with mustering := false, moved := false } }
  if s.run.waiting && s.run.t0Held then
    (s.modRun fun r => { r with late := if r.late.isEmpty then [s.lateEntry 0] else r.late }).stepT0
  else s

def execMuster (s : State) : Out := .next s.muster.pumpAll

/-! The manager: starts (R256, R260, R384). -/

/-- A device whose step attestation holds the next start (R384): by its report at the step's end, or the own one.
DEDUCED: log entry 67. -/
def State.attestHolds (s : State) : Bool :=
  s.flag Reg.SA_STAT Fld.SA_STAT_PENDING || s.flag Reg.SA_STAT Fld.SA_STAT_BUSY
    || s.mgr.ends.any fun (e : Nat × VerifyReport) => e.2.attest && !s.mgr.attested.contains e.1

/-- Under a top manager not every group has applied or skipped the last step (R256). DEDUCED: log entry 11. -/
def State.groupsHold (s : State) : Bool := s.inLockstep && s.mgr.lockstep

/-- The start message of the step that is due leaves, unless something holds it. DEDUCED: log entry 67. -/
def State.tryStart (s : State) : State :=
  if !s.mgr.due || s.mgr.state != .idle || s.attestHolds || s.groupsHold then s
  else
    let n := (s.reg Reg.STEP_NUM).toNat
    let e := (s.reg Reg.EVAL_CFG).toNat
    let ev := e != 0 && n % e == 0
    let t0 := s.tick + s.fld Reg.REPEAT_CFG Fld.REPEAT_CFG_START_LEAD
    let m := { s.mgr with
      state := .run, step := n, attempt := 1, t0 := t0, evalDue := ev, causes := 0, nCause := 0, dets := [], ends := []
      quiet := [], verify := none, verdict := none, evalFailed := false, due := false, attested := []
      irrepro := false, haltReq := false }
    { s with mgr := m }.emit (.stepStart
      ⟨BitVec.ofNat 64 n, 1, BitVec.ofNat 64 t0, ev, s.replay, s.mgr.prevApplied, s.imageMeas⟩)

/-- A step is to run: RUN is 1, or SINGLE asked for one (R281). DEDUCED: log entry 70. -/
def State.wantStep (s : State) : State :=
  if s.isManager && (s.flag Reg.STEP_CTL Fld.STEP_CTL_RUN || s.mgr.single) then
    (s.modMgr fun g => { g with due := true }).tryStart
  else s

/-! Step records (R271–R273). -/

/-- A bit that depends on every device: set when one is known to set it, clear when every one has reported, else free.
DESIGN CHOICE: log entry 65. -/
def State.groupBit (s : State) (known all : Bool) : Bool × State :=
  if known then (true, s)
  else if all then (false, s)
  else (Config.freeNat s.free % 2 == 1, { s with free := s.free + 1 })

/-- Lost rows as R117 estimates them: all ones when unknown; which of its two neighbours a quotient that is no whole number
rounds to is free. DESIGN CHOICE: log entry 65. -/
def predLost (v : VerifyReport) (free : Nat) : Nat :=
  let a := v.predAudit.toNat
  let k := v.predSkip.toNat
  if a = 0 then (if k = 0 then v.predOver.toNat else 2 ^ 64 - 1)
  else
    let p := v.predMiss.toNat * (k - a)
    (v.predOver.toNat + p / a + (if p % a = 0 then 0 else Config.freeNat free % 2)) % 2 ^ 64

/-- Hash over the disabled-unit maps of all devices in ascending rank (R271); free while one has not reported.
DESIGN CHOICE: log entry 65. -/
def State.groupMap (s : State) (known : SMap (Word × BitVec 2304)) : Hash :=
  if known.length = s.groupSize then
    Config.sha512 (known.flatMap fun (e : Nat × Word × BitVec 2304) => natBytes e.2.2.toNat 288)
  else BitVec.ofNat 512 ((Config.freeWord s.free).toNat + (Config.freeWord (s.free + 1)).toNat * 2 ^ 256)

/-- How a step ended. -/
structure StepEnd where
  applied : Bool
  skipped : Bool
  halted : Bool
  incomplete : Bool
  deriving DecidableEq, Repr

/-- The bytes of the step's record, and the state after the free values it took. DESIGN CHOICE: log entry 65. -/
def State.recordBytes (s : State) (e : StepEnd) : List Byte × State :=
  let g := s.mgr
  let dets := combineReports (g.dets.map (·.2))
  let ends := g.ends.map (·.2)
  let all := ends.length == s.groupSize
  let known := mset g.known s.rank (s.reg Reg.FW_VER, s.dum)
  let vers := known.map fun (x : Nat × Word × BitVec 2304) => x.2.1
  let show_ := g.shown.getD s.shownNow
  let nfApply := (ends.map fun x => x.nfApply.toNat).foldl (· + ·) 0 % 2 ^ 64
  let ls := lateSort (ends.flatMap fun x => x.late)
  let kept := ls.take 8172
  let unknown := dets.predAudit == 0 && dets.predSkip != 0
  let fw := s.groupBit (vers.any fun v => some v != vers.head?) (known.length == s.groupSize)
  let irr := if show_.replay then fw.2.groupBit (g.irrepro || ends.any (·.irrepro)) all else (false, fw.2)
  let uns := irr.2.groupBit (ends.any (·.unsync)) all
  let thr := uns.2.groupBit (ends.any (·.throttled)) all
  let s1 := thr.2
  let b (i : Nat) (x : Bool) : Nat := if x then 2 ^ i else 0
  let flags := b 0 e.applied + b 1 e.skipped + b 2 e.halted + b 3 e.incomplete + b 4 show_.replay
    + b 5 (s.flag Reg.IMG_STAT Fld.IMG_STAT_FOLDED) + b 6 (s.flag Reg.RST_STAT Fld.RST_STAT_UNTESTED) + b 7 fw.1
    + b 8 (show_.evalRan && e.applied) + b 9 (g.evalFailed || ends.any (·.evalFailed)) + b 10 (decide (8172 < ls.length)) + b 11 unknown + b 12 irr.1
    + b 13 uns.1 + b 14 thr.1
  let v := match g.verdict with
    | some v => v
    | none => ⟨dets, 0, BitVec.ofNat 32 (s.reg Reg.LOSS_MEAN).toNat, BitVec.ofNat 32 (s.reg Reg.LOSS_VAR).toNat, 0, 0⟩
  let loss := if g.verdict.isSome then v.loss.toNat else s.rdNat (s.fld Reg.LOSS_ADDR Fld.LOSS_ADDR_ADDR) 4
  let bytes := natBytes g.step 8 ++ natBytes g.t0 8 ++ natBytes s.tick 8 ++ natBytes flags 4 ++ natBytes g.attempt 2
    ++ natBytes kept.length 2 ++ natBytes g.causes 4 ++ natBytes (v.trips + v.action * 256) 4
    ++ natBytes dets.nfPos.toNat 8 ++ natBytes dets.nfNeg.toNat 8 ++ natBytes dets.nfNan.toNat 8 ++ natBytes nfApply 8
    ++ natBytes dets.gnorm.toNat 4 ++ natBytes loss 4 ++ natBytes v.mean.toNat 4 ++ natBytes v.var.toNat 4
    ++ natBytes dets.maxExp.toNat 1 ++ natBytes show_.profile 1 ++ natBytes s.groupSize 2
    ++ natBytes show_.limit 2 ++ natBytes 0 2 ++ natBytes (predLost dets s1.free) 8
    ++ natBytes (s.reg Reg.FW_VER).toNat 8 ++ natBytes 0 16 ++ hashBytes s.imageMeas ++ hashBytes ({ s1 with free := s1.free + 1 }.groupMap known)
    ++ hashBytes g.prevHash
  (bytes ++ kept.flatMap lateBytes, { s1 with free := s1.free + 3 })

/-- The record written into the ring's next slot, its hash kept and sent on (R256, R271, R273).
DEDUCED: log entry 66. -/
def State.writeRecord (s : State) (e : StepEnd) : State :=
  let slots := s.fld Reg.REC_CFG Fld.REC_CFG_SLOTS
  let r := s.recordBytes e
  let s := if slots = 0 then r.2
    else
      let s := r.2
      let i := s.fld Reg.REC_HEAD Fld.REC_HEAD_NEXT
      let s := s.wrBytes s.stepCtx (s.fld Reg.REC_BASE Fld.REC_BASE_ADDR + i * 0x2_0000) r.1
      if i + 1 < slots then s.setFld Reg.REC_HEAD Fld.REC_HEAD_NEXT (i + 1)
      else (s.setFld Reg.REC_HEAD Fld.REC_HEAD_NEXT 0).bump Reg.REC_HEAD Fld.REC_HEAD_WRAPS 1
  let h := Config.sha512 r.1
  { s with
    mgr := { s.mgr with prevHash := h, lockstep := s.inLockstep }
    enclave := { s.enclave with lastRec := h } }.emit (.recordHash none h)

/-! The manager: repeats and halts (R263–R265). -/

/-- The group halts (R264, R265, R269): the manager records the step, its own device's lateness with it, and every device
stops. DEDUCED: log entry 62. -/
def State.groupHalt (s : State) (applied incomplete : Bool) : State :=
  let s := if (mfind s.mgr.ends s.rank).isSome then s
    else s.modMgr fun g => { g with ends := mset g.ends s.rank (s.endReport s.run.nfApply) }
  let s := s.writeRecord ⟨applied, false, true, incomplete⟩
  (s.emit (.stepRepeat .halt)).modMgr fun g =>
    { g with state := .idle, due := false, single := false, verify := none }

/-- Apply has begun: the verdict let the verify phase complete, or the own device is past it (R265).
DEDUCED: log entry 63. -/
def State.applyBegun (s : State) : Bool :=
  (match s.mgr.verdict with
    | some v => decide (v.action ≤ 1)
    | none => false) || s.run.done.contains 3 || s.run.cur == 4 || s.run.cur == 5

/-- A repeat cause (R263): 0 mismatch, 1 hard timeout, 2 core error, 3 lost contribution. One that comes while the repeat it
would ask for is under way is recorded with the rest. DEDUCED: log entry 62. -/
def State.repeatCause (s : State) (bit : Nat) : State :=
  if s.mgr.state == .repeating then s.modMgr fun g => { g with causes := g.causes ||| 2 ^ bit }
  else if s.mgr.state != .run then s
  else
    let limit := s.fld Reg.REPEAT_CFG Fld.REPEAT_CFG_REPEAT_MAX
    let n := s.mgr.nCause + 1
    let s := s.modMgr fun g => { g with causes := g.causes ||| 2 ^ bit, nCause := n }
    if limit ≤ n then
      ((s.modMgr fun g => { g with causes := g.causes ||| 16 }).stepErr 0x2584 s.rank).groupHalt false false
    else (s.modMgr fun g => { g with state := .repeating, quiet := [], verify := none, verdict := none }).emit
      (.stepRepeat .again)

/-- The step's end on every device has been reported: the record, and the next step (R256, R271). -/
def State.finishStep (s : State) (skipped : Bool) : State :=
  let halted := s.mgr.haltReq
  let nf := (s.mgr.ends.map fun (x : Nat × VerifyReport) => x.2.nfApply.toNat).foldl (· + ·) 0
  let s := s.writeRecord ⟨!skipped, skipped, halted, false⟩
  let s := s.modMgr fun g =>
    { g with state := .idle, single := false, prevApplied := !skipped, prevNf := if skipped then 0 else nf }
  if halted then (s.emit (.stepRepeat .halt)) else s.wantStep

def State.checkFinish (s : State) : State :=
  if s.isManager && s.mgr.state == .run && !s.stepActive && !s.run.waiting && s.mgr.ends.length == s.groupSize then
    s.finishStep false
  else s

/-! The verdict (R268, R269). -/

/-- loss_check: whether the loss trips. -/
def lossTrips (n warmup m v k2 x : Nat) : Bool :=
  if n < warmup then !(FFmt.fp32.decode x).isFinite
  else
    let d := f32Sub x m
    let a := FFmt.fp32.decode (f32Mul d d)
    let b := FFmt.fp32.decode (f32Mul k2 v)
    !(a.lt b || a.eqv b)

/-- loss_update: the new mean and variance. -/
def lossUpdate (n m v alpha x : Nat) : Nat × Nat :=
  if n = 0 then (x, 0)
  else
    let d := f32Sub x m
    (f32Add m (f32Mul alpha d), f32Mul (f32Sub 0x3F80_0000 alpha) (f32Add v (f32Mul alpha (f32Mul d d))))

/-- The policy a detector acts with: in replay mode every one but OFF flags (R278). -/
def State.policy (s : State) (f : FieldPos) : Nat :=
  let p := s.fld Reg.DET_POLICY f
  if s.replay then min p 1 else p

/-- The detectors evaluated on the combined reports (R268). -/
def State.judge (s : State) : Verdict :=
  let r := combineReports (s.mgr.dets.map (·.2))
  let loss := s.rdNat (s.fld Reg.LOSS_ADDR Fld.LOSS_ADDR_ADDR) 4
  let w (a : Nat) : Nat := (s.reg a).toNat
  let g := FFmt.fp32.decode r.gnorm.toNat
  let gl := FFmt.fp32.decode (w Reg.GNORM_LIMIT)
  let trip : List (Nat × Bool) :=
    [(s.policy Fld.DET_POLICY_NF,
        decide (w Reg.NF_LIMIT < r.nfPos.toNat + r.nfNeg.toNat + r.nfNan.toNat + s.mgr.prevNf)),
     (s.policy Fld.DET_POLICY_MAXEXP, decide (w Reg.MAXEXP_LIMIT % 256 < r.maxExp.toNat)),
     (s.policy Fld.DET_POLICY_GNORM, !(g.lt gl || g.eqv gl)),
     (s.policy Fld.DET_POLICY_LOSS,
        lossTrips (w Reg.LOSS_N) (s.fld Reg.LOSS_WARMUP Fld.LOSS_WARMUP_WARMUP) (w Reg.LOSS_MEAN) (w Reg.LOSS_VAR)
          (w Reg.LOSS_K2) loss)]
  let on (i : Nat) : Bool := match trip[i]? with
    | some (p, t) => p != 0 && t
    | none => false
  { sum := r, loss := BitVec.ofNat 32 loss, mean := BitVec.ofNat 32 (w Reg.LOSS_MEAN)
    var := BitVec.ofNat 32 (w Reg.LOSS_VAR)
    trips := (List.range 4).foldl (fun v i => v + (if on i then 2 ^ i else 0)) 0
    action := (List.range 4).foldl (fun m i => if on i then max m ((trip[i]?.map (·.1)).getD 0) else m) 0 }

/-- The comparator learns the loss of a step that applies (R268). -/
def State.learnLoss (s : State) (x : Nat) : State :=
  let w (a : Nat) : Nat := (s.reg a).toNat
  let u := lossUpdate (w Reg.LOSS_N) (w Reg.LOSS_MEAN) (w Reg.LOSS_VAR) (w Reg.LOSS_ALPHA) x
  ((s.setReg Reg.LOSS_MEAN (BitVec.ofNat 64 u.1)).setReg Reg.LOSS_VAR (BitVec.ofNat 64 u.2)).setFld Reg.LOSS_N
    Fld.LOSS_N_VALUE (w Reg.LOSS_N + 1)

/-! Phases (R259). -/

/-- The device's part of the step is over: its second report, and the boundary. DEDUCED: log entry 61. -/
def State.stepDone (s : State) : State :=
  let r := s.endReport s.run.nfApply
  let s := if s.planValid 5 then s.unloadEval else s
  (((s.verifySend).emit (.verifyReport s.rank r)).stepBoundary true).checkFinish

/-- The next phase is entered: at apply the verify report has left; past apply its non-finite totals are read, and before
evaluate the detectors are cleared (R266). -/
def State.enterPhase (s : State) (prev : Nat) : State :=
  let p := s.firstOpen
  let s := if 4 ≤ p then s.verifySend else s
  let s := if p = 4 ∧ s.run.evalDue then s.loadEval else s
  let s := if prev = 4 then
      let r := s.readDetectors
      (s.modRun fun x => { x with nfApply := (r.nfPos + r.nfNeg + r.nfNan).toNat }).clearDetectors
    else s
  if p < 6 then ((s.modRun fun x => { x with cur := p }).showPhase (p + 1)).retargetAll else s.stepDone

/-- A phase completes; a missed soft deadline leaves its entry, except in exchange (R259). DEDUCED: log entry 61. -/
def State.phaseDone (s : State) (p : Nat) : State :=
  let late := if s.run.missed.contains p then s.run.late ++ [s.lateEntry p] else s.run.late
  let s := s.modRun fun r => { r with done := p :: r.done, late := late }
  if s.firstOpen = s.run.cur then s else s.enterPhase s.run.cur

/-- A release of a cross-device hoist completes the first open phase that names it. DEDUCED: log entry 61. -/
def State.stepReleased (s : State) (h : Nat) : State :=
  if !s.stepActive || s.run.quiescent then s
  else
    match (List.range 6).find? fun p => s.planValid p && s.planHid p == h && !s.run.done.contains p with
    | some p => s.phaseDone p
    | none => s

/-- Every device has arrived and reported: the strongest policy among the tripped detectors acts (R269). -/
def State.verdictCheck (s : State) : State :=
  match s.mgr.verify with
  | none => s
  | some (h, round) =>
    if s.mgr.state != .run || s.mgr.dets.length != s.groupSize then s
    else
      let v := s.judge
      let s := s.modMgr fun g => { g with verdict := some v, verify := none }
      if v.action ≤ 1 then ((s.learnLoss v.loss.toNat).rootRelease h round).stepReleased h
      else if v.action = 2 then
        (s.modMgr fun g => { g with state := .skipping, quiet := [] }).emit (.stepRepeat .skip)
      else (s.stepErr 0x2583 s.rank).groupHalt false false

/-- The device's arrival for the verify hoist takes its report with it (R266, R269). DESIGN CHOICE: log entry 60. -/
def State.verifyArrived (s : State) (h : Nat) : State :=
  if s.stepActive && !s.run.quiescent && s.planValid 3 && s.planHid 3 == h && s.run.cur == 3 then s.verifySend else s

/-! Deadlines (R259, R263, R265). -/

/-- DEDUCED: log entry 61. -/
def execSoftDeadline (ph : Fin 6) (s : State) : Out :=
  let p := ph.val
  .next (if s.stepActive ∧ ¬ s.run.quiescent ∧ s.planValid p ∧ p ∉ s.run.done ∧ p ∉ s.run.missed ∧ p ≠ 2 then
    s.modRun fun r => { r with missed := p :: r.missed }
  else s)

/-- A contribution of this device is still held: it waits at a port or in a chain entry. -/
def State.holdsContribution (s : State) : Bool :=
  (s.ports.any fun (e : Nat × PortState) => e.2.txq.any isContribution || e.2.retry.any TxFlit.carries
      || e.2.part.any fun (x : Nat × Msg × List Sector) => isContribution x.2.1)
    || s.chains.any fun (e : Nat × ChainState) => !e.2.inq.isEmpty || !e.2.locq.isEmpty

/-- Every core of the step's partition stops at its next boundary. DEDUCED: log entry 64. -/
def State.stopStepCores (s : State) : State :=
  s.runningCores.foldl (fun s c => if s.coreCtx c == s.stepCtx && s.stepCtx.isSome then s.stopCore c else s) s

/-- The evaluation ends: the step's apply stands (R265). DEDUCED: log entry 64. -/
def State.evalHalt (s : State) : State :=
  let s := s.modMgr fun g => { g with evalFailed := true }
  (s.stopStepCores.modRun fun r => { r with done := 5 :: r.done }).stepDone

/-- DEDUCED: log entry 64. -/
def State.hardTimeout (s : State) (p : Nat) : State :=
  if !s.stepActive || s.run.quiescent || !s.planValid p || s.run.done.contains p then s
  else
    let s := s.stepErr 0x0581 s.rank
    if p = 5 then s.evalHalt
    else if s.isManager then
      if s.mgr.state != .run then s
      else if s.applyBegun then s.groupHalt false true
      else if p = 2 ∧ s.holdsContribution then (s.modMgr fun g => { g with causes := g.causes ||| 8 }).repeatCause 1
      else s.repeatCause 1
    else if p = 2 ∧ s.holdsContribution then s.deviceReport .lostContribution
    else s

def execHardTimeout (ph : Fin 6) (s : State) : Out := .next (s.hardTimeout ph.val).pumpAll

/-! Reports at the manager. -/

def reportBit : ReportKind → Nat
  | .mismatch => 0
  | .coreError => 2
  | .lostContribution => 3

/-- A device's report (R263, R265): before apply a repeat cause; a core error in apply halts, one in evaluate ends the
evaluation. -/
def State.reportArrives (s : State) (k : ReportKind) : State :=
  if s.mgr.state == .repeating then s.repeatCause (reportBit k)
  else if s.mgr.state != .run || !s.stepActive then s
  else if !s.applyBegun then s.repeatCause (reportBit k)
  else if k ≠ .coreError then s
  else if s.run.cur = 5 then s.evalHalt
  else s.groupHalt false true

/-- At the manager it acts; elsewhere it goes on (R255). -/
def execDeviceReport (rank : Rank) (k : ReportKind) (s : State) : Out :=
  .next (if s.isManager then (s.reportArrives k).pumpAll else s.relayUp rank.toNat (.deviceReport rank.toNat k))

/-- A verify report (R267): the first of a device is what its detectors read, the second ends its step. -/
def State.verifyArrives (s : State) (rank : Nat) (r : VerifyReport) : State :=
  if s.mgr.state == .idle then s
  else if s.mgr.state == .run && (mfind s.mgr.dets rank).isNone then
    (s.modMgr fun g => { g with dets := mset g.dets rank r }).verdictCheck
  else (s.modMgr fun g => { g with ends := mset g.ends rank r, known := mset g.known rank (r.fw, r.dum) }).checkFinish

def execVerifyReport (rank : Rank) (r : VerifyReport) (s : State) : Out :=
  .next (if s.isManager then s.verifyArrives rank.toNat r else s.relayUp rank.toNat (.verifyReport rank.toNat r))

/-! Repeat on a device (R264). -/

/-- A halt message: the partition's cores stop, and the step is over. -/
def State.haltMessage (s : State) : State :=
  let s := s.stopStepCores
  (if s.stepActive then s.stepBoundary false else s).setFld Reg.STEP_STAT Fld.STEP_STAT_HALTED 1

/-- A partition core reset (R180, R197): the partition's cores begin their scrub, its pennants and hoists are reset.
DEDUCED: log entry 69. -/
def State.resetCores (s : State) (x : Nat) : State :=
  let cs := s.ctxCores x
  (cs.foldl (fun s c => s.scrubCore c) s).penKilled x cs

/-- A repeat message: the device reports what it was late with, resets the partition's cores and goes quiescent. A skip
clears the step away in the same manner, and is no repeat (R269, R281). -/
def State.repeatMessage (s : State) (again : Bool) : State :=
  let s := s.emit (.verifyReport s.rank (s.endReport 0))
  match s.stepCtx with
  | none => s
  | some x =>
    let up := (s.ctxCores x).filter fun c => s.strmState c .access != 0 || s.strmState c .execute != 0
    let s := (s.resetCores x).chainsFresh
    let s := if again then (s.showPhase 7).bump Reg.STEP_STAT Fld.STEP_STAT_REPEATS 1 else s
    (s.modRun fun r => { r with waiting := false, cur := 6, quiescent := true, quiet := false, restart := up }).quietCheck

def execRepeatMessage (k : RepeatKind) (s : State) : Out :=
  let s := s.relay (.stepRepeat k)
  .next (match k with
    | .halt => s.haltMessage.pumpAll
    | .again => (s.repeatMessage true).pumpAll
    | .skip => (s.repeatMessage false).pumpAll)

/-- A quiescent report at the manager: with the last one the resume message leaves. DEDUCED: log entry 62. -/
def State.quietArrives (s : State) (rank : Nat) : State :=
  if !(s.mgr.state == .repeating || s.mgr.state == .skipping) || s.mgr.quiet.contains rank then s
  else
    let s := s.modMgr fun g => { g with quiet := rank :: g.quiet }
    if s.mgr.quiet.length = s.groupSize then s.emit .stepResume else s

def execQuiescentReport (rank : Rank) (s : State) : Out :=
  .next (if s.isManager then s.quietArrives rank.toNat else s.relayUp rank.toNat (.quiescentReport rank.toNat))

/-- A resume message: the device is quiescent no longer, and reloads. -/
def execResumeMessage (s : State) : Out :=
  let s := s.relay .stepResume
  .next (if s.run.quiescent ∧ s.run.quiet then
    let s := s.modRun fun r => { r with quiescent := false, quiet := false }
    match s.stepCtx with
    | some x => s.reload x
    | none => s
  else s)

/-- The next attempt of the step (R264 step 7), on the manager. DEDUCED: log entry 62. -/
def State.nextAttempt (s : State) : State :=
  let t0 := s.tick + s.fld Reg.REPEAT_CFG Fld.REPEAT_CFG_START_LEAD
  let a := s.mgr.attempt + 1
  let s := s.modMgr fun g =>
    { g with state := .run, attempt := a, t0 := t0, dets := [], ends := [], quiet := [], verify := none, verdict := none }
  s.emit (.stepStart
    ⟨BitVec.ofNat 64 s.mgr.step, BitVec.ofNat 16 a, BitVec.ofNat 64 t0, s.mgr.evalDue, s.replay, s.mgr.prevApplied, s.imageMeas⟩)

/-- The reload is complete: the cores start again, and the manager goes on with the repeat, or past the skipped step.
DEDUCED: log entry 62. -/
def State.reloadDone (s : State) : State :=
  if s.run.quiescent || s.run.cur != 6 || !s.stepActive then s
  else
    let s := s.run.restart.foldl (fun s c => s.startCore c) s
    let s := s.modRun fun r => { r with restart := [] }
    if !s.isManager then s
    else
      match s.mgr.state with
      | .repeating => s.nextAttempt
      | .skipping => (s.stepBoundary true).finishStep true
      | _ => s

def execReloadDone (s : State) : Out := .next s.reloadDone

/-! RUN, SINGLE, HALT_NOW (R281). Elsewhere than on a manager a write is ignored. -/

/-- The first hash of each group, in ascending group order. -/
def firstHashes (l : List (Nat × Hash)) : SMap Hash :=
  l.foldl (fun m e => if (mfind m e.1).isSome then m else mset m e.1 e.2) []

/-- The hash of a group's record (R256): with one of every group the next step may start, and the top manager's ring takes
them in ascending group order. DEDUCED: log entry 11. -/
def State.groupHash (s : State) (grp : Nat) (h : Hash) : State :=
  let l := s.mgr.groups ++ [(grp, h)]
  let m := firstHashes l
  if m.length < Config.groupCount then s.modMgr fun g => { g with groups := l }
  else (s.modMgr fun g => { g with
    groups := m.foldl (fun l e => l.erase e) l, lockstep := false
    ring := if s.role = 2 then m.map (·.2) :: g.ring else g.ring }).tryStart

/-- At the top manager, which tells the groups' managers of it, and at each of those; on others' way it goes on (R255). -/
def execGroupRecordHash (grp : Fin 16) (h : Hash) (s : State) : Out :=
  let s := if s.inLockstep && s.role != 2 then s else s.emit (.recordHash (some grp.val) h)
  .next (if s.inLockstep then s.groupHash grp.val h else s)

/-- DEDUCED: log entry 70. -/
def execStepRun (v : Bool) (s : State) : Out :=
  .next (if s.isManager then
    let w := BitVec.ofNat 64 (if v then 2 ^ 31 else 0)
    if s.stepActive then s.hold Reg.STEP_CTL (BitVec.ofNat 64 (2 ^ 31)) w
    else
      let s := s.setFld Reg.STEP_CTL Fld.STEP_CTL_RUN (if v then 1 else 0)
      if v then (if s.mgr.state = .idle then s.wantStep else s) else s.modMgr fun g => { g with due := g.due && g.single }
  else s)

/-- DEDUCED: log entry 70. -/
def execStepSingle (s : State) : Out :=
  .next (if s.isManager then
    let s := s.modMgr fun g => { g with single := true }
    if s.mgr.state = .idle ∧ ¬ s.stepActive then s.wantStep else s
  else s)

/-- HALT_NOW acts as a HALT trip does: nothing is applied; once apply has begun the group halts at the step boundary.
DEDUCED: log entry 63. -/
def State.haltNow (s : State) : State :=
  if !s.isManager then s
  else
    let s := s.stepErr 0x2583 s.rank
    match s.mgr.state with
    | .idle => (s.emit (.stepRepeat .halt)).modMgr fun g => { g with due := false, single := false }
    | _ => if s.applyBegun then s.modMgr fun g => { g with haltReq := true } else s.groupHalt false false

def execStepHaltNow (s : State) : Out := .next s.haltNow

/-! The tick (R257, R258). -/

/-- An offset in 1/16 tick, signed. -/
def syncOffset (o : BitVec 8) : Int := o.toInt

/-- DESIGN CHOICE: log entry 59. -/
def State.timeSync (s : State) (offset : BitVec 8) : State :=
  let s := s.setFld Reg.TICK_SYNC Fld.TICK_SYNC_OFFSET offset.toNat
  let o := syncOffset offset
  let s := if 32 < o.natAbs ∧ ¬ s.flag Reg.TICK_SYNC Fld.TICK_SYNC_UNSYNC then
      (s.setFld Reg.TICK_SYNC Fld.TICK_SYNC_UNSYNC 1).stepErr 0x3582 s.rank else s
  if 8 ≤ o.natAbs ∧ (s.tickFixed = 0 ∨ s.tickFixed + 1000 ≤ s.tick) then
    { s with tickFix := if 0 < o then 1 else 2, tickFixed := s.tick }
  else s

def execTimeSyncMessage (offset : BitVec 8) (s : State) : Out := .next (s.timeSync offset)

/-- A device starts an exchange with its parent; the top of the tree has none. -/
def execTickSyncExchange (s : State) : Out := .next (if s.topOfTree then s else s.emit .tickSync)

/-- DESIGN CHOICE: log entry 59. -/
def execTickUnsyncTimeout (s : State) : Out :=
  .next (if s.flag Reg.TICK_SYNC Fld.TICK_SYNC_UNSYNC then s
    else (s.setFld Reg.TICK_SYNC Fld.TICK_SYNC_UNSYNC 1).stepErr 0x3582 s.rank)

/-- A tick jumps forward, or stays. -/
def State.tickAtLeast (s : State) (t : Nat) : State := s.setReg Reg.TICK (BitVec.ofNat 64 (max s.tick t))

/-- The alignment at image load: ticks go up the tree, the one at its top jumps past the largest by the tree's depth in link
delays (a free value), and its tick comes down. DESIGN CHOICE: log entry 59. -/
def State.tickAlign (s : State) (down : Bool) (t : Nat) : State :=
  if down then
    let s := s.tickAtLeast t
    s.emit (.tickAlign true s.tick)
  else
    let m := max (max t s.tick) s.alignMax
    let s := { s with alignMax := m }
    if s.topOfTree then
      let delay := if s.treeDepth = 0 then 0 else Config.freeNat s.free
      let s := { s.tickAtLeast (m + delay) with free := s.free + 1 }
      s.emit (.tickAlign true s.tick)
    else s.emit (.tickAlign false m)

def execTickAlignmentMessage (down : Bool) (tick : Word) (s : State) : Out := .next (s.tickAlign down tick.toNat)

/-! Profile switches (R324). -/

/-- E_PROF_SWITCH. -/
def State.profRefused (s : State) (sel : Nat) : State := s.report 0x75CD none none sel

/-- A record can be switched to here: valid, and of the loaded image or of any; of another only while the group is stopped (R324). -/
def State.profFits (s : State) (sel : Nat) : Bool :=
  let h := (s.profRecord sel).imgHash
  s.profValid sel && (h == 0 || h == s.imageMeas || (!s.stepActive && !s.run.waiting && !s.flag Reg.STEP_CTL Fld.STEP_CTL_RUN))

/-- A switch scheduled for the next step boundary; at once while the group is between steps. DEDUCED: log entry 68. -/
def State.profSchedule (s : State) (sel : Nat) : State :=
  let s := (s.setFld Reg.PROF_STAT Fld.PROF_STAT_PENDING 1).setFld Reg.PROF_STAT Fld.PROF_STAT_NEXT sel
  if s.stepActive then s else s.profSwitch

/-- PROF_CMD. A manager asks every device; elsewhere the command is refused while RUN is 1 in the group.
DEDUCED: log entry 68. -/
def State.profCommand (s : State) (sel : Nat) (groupRuns : Bool) : State :=
  if s.isManager then (s.modMgr fun g => { g with profile := some sel, checks := [] }).emit (.profileCheck sel false)
  else if groupRuns ∨ ¬ s.profValid sel then s.profRefused sel
  else s.profSchedule sel

def execProfileSwitchCmd (sel : Fin 4) (groupRuns : Bool) (s : State) : Out := .next (s.profCommand sel.val groupRuns)

/-- The manager's request to check a record, or its command to switch to one that every device has found valid.
DEDUCED: log entry 68. -/
def execProfileCheckRequest (sel : Fin 4) (go : Bool) (s : State) : Out :=
  let s := s.relay (.profileCheck sel.val go)
  .next (if go then s.profSchedule sel.val
    else (s.showProfiles).emit (.profileReport s.rank sel.val (s.profFits sel.val)))

/-- A device's answer: one refusal ends the switch; with every device's consent the command to switch leaves.
DEDUCED: log entry 68. -/
def State.profAnswer (s : State) (rank sel : Nat) (valid : Bool) : State :=
  if s.mgr.profile ≠ some sel then s
  else if !valid then (s.modMgr fun g => { g with profile := none, checks := [] }).profRefused sel
  else
    let s := s.modMgr fun g => { g with checks := mset g.checks rank true }
    if s.mgr.checks.length = s.groupSize then
      (s.modMgr fun g => { g with profile := none, checks := [] }).emit (.profileCheck sel true)
    else s

def execProfileCheckReport (rank : Rank) (sel : Fin 4) (valid : Bool) (s : State) : Out :=
  .next (if s.isManager then s.profAnswer rank.toNat sel.val valid
    else s.relayUp rank.toNat (.profileReport rank.toNat sel.val valid))

/-- A device's step attestation is complete (R384): the start message that it held may leave.
DEDUCED: log entry 67. -/
def execStepAttestReport (rank : Rank) (s : State) : Out :=
  .next (if s.isManager then (s.modMgr fun g => { g with attested := rank.toNat :: g.attested }).tryStart
    else s.relayUp rank.toNat (.attestReport rank.toNat))

end Sys2Proof.Machine
end

