-- ==== Sys2Proof/Machine/PenRows.lean ====
section
/-! DEFINITION. The rows of pennants, hoists and the mesh (R183–R197, R205, R211–R213): what their messages do, and what a
stream does that they let go on. -/

namespace Sys2Proof.Machine

open Sys2Proof

/-! Pennants. -/

def execPennantOp (id : Nat) (s : State) : Out := .next (s.penArrive id).pumpAll

def execPennantWake (c : CoreId) (t : Strm) (s : State) : Out := .next (s.penWoken c.val t).pumpAll

def execPennantForward (id : Nat) (s : State) : Out := .next (s.penForwarded id).pumpAll

/-- Context of a PEN_HOST_SIG (R189, R396): through a virtual function its partition's, through the physical one the
context the write names, where that partition exists. -/
def State.hostCtx (s : State) (fn : Nat) (v : Word32) : Option Nat :=
  if fn = 0 then
    let x := wordFld (v.setWidth 64) Fld.PEN_HOST_SIG_CTX
    if s.partExists x then some x else none
  else s.vfCtx fn

def State.hostSignal (s : State) (fn : Nat) (v : Word32) : State := s.penHost (s.hostCtx fn v) v

/-- A function's signal waits for the BAR2 writes that it posted before (R403), which a margining run may hold back (R229). -/
def execPenHostSig (fn : Fn) (v : Word32) (s : State) : Out :=
  .next (s.awake (.penHostSig fn v) fun s =>
    if s.parked.any (·.fn == some fn.val) then { s with margHeld := s.margHeld ++ [.penHostSig fn v] }
    else ((s.command (.host fn) Reg.PEN_HOST_SIG fun s => s.hostSignal fn.val v).irrepro (s.hostCtx fn.val v)).pumpAll)

/-- The signal of a KIND 3 head (R238). The head names no stream of the source: that part of its identity is free.
DESIGN CHOICE: log entry 34. -/
def State.signalOf (s : State) (ctx : Nat) (m : Msg) : PendSig :=
  { src := ⟨m.srcDev.toNat, m.srcCore.toNat, Config.freeNat s.free % 2, false⟩, vid := m.tag.toNat
    op := m.flags.toNat % 2, amount := m.addr.toNat % 2 ^ 16, wseq := m.addr.toNat / 2 ^ 16, ctx := ctx }

/-- A remote signal (R190, R192): it leaves its port's buffer once its source's pending table takes it. -/
def State.remoteSignal (s : State) (p : Nat) (m : Msg) : State :=
  if s.rxFirst p m ∧ m.dst.toNat = s.rank ∧ m.kind = 3 then
    if s.quiets (s.portCtx p) then (s.rxTake p m).quietDrop
    else
      match s.portCtx p with
      | none => (s.rxTake p m).penErr (penCode 4) ⟨m.srcDev.toNat, m.srcCore.toNat, 0, false⟩ m.tag.toNat none
      | some ctx =>
        match { s.rxTake p m with free := s.free + 1 }.pendEnter (s.signalOf ctx m) with
        | some s => s
        | none => s
  else s

def execRemoteSignal (p : Port) (m : Msg) (s : State) : Out := .next (s.remoteSignal p.val m).pumpAll

def execLandingNotice (src : Rank) (core : BitVec 12) (s : State) : Out :=
  .next (s.landed src.toNat core.toNat).pumpAll

/-! Hoists. -/

/-- A message of the hoist tree for the step's partition that reaches a quiescent device is discarded and counted (R264).
DEDUCED: log entry 49. -/
def State.hoistIn (s : State) (h : Nat) (f : State → State) : State :=
  if s.quiets (s.hstOwner (hstBase (1024 + h))) then s.quietDrop else f s

/-- Hoist messages of a kind that have left since `old`. DESIGN CHOICE: log entry 33. -/
def State.sentHoist (s old : State) (kind : Nat) : Option Nat :=
  (s.out.take (s.out.length - old.out.length)).findSome? fun m => match m with
    | .hoist k h _ => if k = kind then some h else none
    | _ => none

/-- A hoist message inside the device; with the device's own arrival for verify its report leaves (R266).
DESIGN CHOICE: log entry 33. -/
def State.hoistRow (s : State) (id : Nat) (arrive : Bool) : State :=
  let s' := s.hoistMsg id arrive
  match s'.sentHoist s 0 with
  | some h => s'.verifyArrived h
  | none => s'

def execHoistArrival (id : Nat) (s : State) : Out := .next (s.hoistRow id true).pumpAll

def execHoistRelease (c : CoreId) (t : Strm) (s : State) : Out := .next (s.hoistReleased c.val t).pumpAll

def execHoistDeparture (id : Nat) (s : State) : Out := .next (s.hoistRow id false).pumpAll

/-- A device arrival on the tree; a release at the root completes this device's phase too (R259). -/
def State.arriveRow (s : State) (h round : Nat) : State :=
  let s' := s.deviceArrive h round
  (match s'.sentHoist s 2 with
  | some h => s'.stepReleased h
  | none => s').verdictCheck

def execDeviceArrival (h : Fin 64) (round : Word32) (s : State) : Out :=
  .next (s.hoistIn h.val fun s => (s.arriveRow h.val round.toNat).pumpAll)

/-- A device has finished a round; the arrivals that the root held for its slot come in (R196). -/
def State.finishRow (s : State) (h round : Nat) : State :=
  let s := s.deviceFinish h round
  let due := s.rootHeld.filter fun e => e.1 == h && !roundBlocked e.2 (mget s.rootFin 0 h)
  due.foldl (fun s e => s.arriveRow e.1 e.2) { s with rootHeld := s.rootHeld.filter fun e => !due.contains e }

def execDeviceFinished (h : Fin 64) (round : Word32) (s : State) : Out :=
  .next (s.hoistIn h.val fun s => (s.finishRow h.val round.toNat).pumpAll)

/-- A release down the tree: local participants, and the phase that the hoist completes (R196, R259). -/
def execCrossDeviceRelease (h : Fin 64) (round : Word32) (s : State) : Out :=
  .next (s.hoistIn h.val fun s => ((s.crossRelease h.val round.toNat).stepReleased h.val).pumpAll)

/-! The mesh. -/

def execRedSector (router : CoreId) (port : Fin 7) (tag : BitVec 12) (addr : BitVec 48) (data : Sector) (s : State) : Out :=
  .next (s.redSector router.val port.val tag.toNat addr.toNat data).pumpAll

def execFlitLate (router : CoreId) (bulk : Bool) (waited : BitVec 16) (s : State) : Out :=
  .next (s.flitLate router.val bulk waited.toNat)

end Sys2Proof.Machine
end

