-- ==== Sys2Proof/Machine/Routing.lean ====
section
/-! DEFINITION. Expert routing: the route unit's builds (R302–R304) and what reaches the combine unit (R309). -/

namespace Sys2Proof.Machine

open Sys2Proof

def State.modRoute (s : State) (c : Nat) (f : RouteState → RouteState) : State :=
  s.modCore c fun k => { k with route := f k.route }

def State.routeOf (s : State) (c : Nat) : RouteState := (s.core c).route

/-! Entries (R302). -/

/-- A 32-bit entry as a write leaves it; bytes of it that the write does not carry are free.
DESIGN CHOICE: log entry 72. -/
def entryWord (d : Sector) (be : Word32) (i free : Nat) : Word32 :=
  let w := BitVec.ofNat 32 (d.toNat / 2 ^ (32 * i))
  let m := wordBe be i
  let mask := BitVec.ofNat 32 ((List.range 4).foldl (fun v b => if m / 2 ^ b % 2 = 1 then v + 255 * 256 ^ b else v) 0)
  if m = 15 then w else (w &&& mask) ||| ((Config.freeWord free).setWidth 32 &&& ~~~mask)

/-- The sector's words that are entries go into the build. DESIGN CHOICE: log entry 72. -/
def State.takeEntries (s : State) (c off : Nat) (d : Sector) (be : Word32) : State :=
  let w := s.fld (Reg.RT_WIN c) Fld.RT_WIN_OFFSET
  let ws := (List.range 8).filter fun i => wordBe be i != 0
  let es := ws.foldl (fun m i => mset m ((off + 4 * i - w) / 4) (entryWord d be i s.free)) (s.routeOf c).entries
  let s := { s with free := s.free + 1 }
  (s.modRoute c fun r => { r with entries := es }).setFld (Reg.RT_STAT c) Fld.RT_STAT_WRITTEN es.length

/-- Every entry of the build has been written. DESIGN CHOICE: log entry 72. -/
def State.buildFull (s : State) (c : Nat) : Bool := (s.routeOf c).entries.length == s.routeCount c

/-- The write that has waited longest in the window is taken; the first of a build waits while the last one's processing is unfinished. -/
def State.routeWrite (s : State) (c off : Nat) (d : Sector) (be : Word32) : State :=
  let r := s.routeOf c
  if r.winq.head? ≠ some (off, d, be) then s
  else if s.buildFull c || (r.entries.isEmpty && r.busy) then s
  else (s.modRoute c fun r => { r with winq := r.winq.drop 1 }).takeEntries c off d be

def execRouteWindowWrite (c : CoreId) (off : BitVec 21) (data : Sector) (be : Word32) (s : State) : Out :=
  .next (s.routeWrite c.val off.toNat data be)

/-! Builds (R303, R304). -/

/-- What a build collects: tokens of each lane's list in reverse, the combine map in reverse, overflows by expert, entries
with no choice. -/
structure BuildAcc where
  lists : SMap (List Nat)
  cmap : List Nat
  ovf : SMap Nat
  noch : Nat
  deriving DecidableEq, Repr

/-- One entry `m` of value `v`. -/
def buildEntry (nexp ksel clane ntok h : Nat) (b : BuildAcc) (m v : Nat) : BuildAcc :=
  let ident := 2 * nexp * clane
  let t := m / ksel
  if nexp ≤ v then { b with cmap := (ident + ntok) :: b.cmap, noch := b.noch + 1 }
  else
    let l := mget b.lists [] v
    if l.length < clane then
      { b with lists := mset b.lists v (t :: l), cmap := ((h * nexp + v) * clane + l.length) :: b.cmap }
    else { b with cmap := (ident + t) :: b.cmap, ovf := mset b.ovf v (mget b.ovf 0 v + 1) }

/-- 32-bit words as bytes, padded to whole sectors with `pad`. -/
def wordsSectors (ws : List Nat) (pad : Nat) : List Byte :=
  (ws ++ List.replicate ((8 - ws.length % 8) % 8) pad).flatMap fun w => natBytes w 4

/-- A complete build is processed: its lists, headers and map, as the bytes it will write.
DESIGN CHOICE: log entry 72. -/
def State.routeBuild (s : State) (c : Nat) : State :=
  let cfg := Reg.RT_CFG c
  let r := s.routeOf c
  if !s.flag cfg Fld.RT_CFG_EN || r.busy || !s.buildFull c then s
  else
    let nexp := s.fld cfg Fld.RT_CFG_NEXP_M1 + 1
    let ksel := s.fld cfg Fld.RT_CFG_KSEL_M1 + 1
    let clane := s.fld cfg Fld.RT_CFG_C_LANE_M1 + 1
    let ntok := s.fld cfg Fld.RT_CFG_NTOK_M1 + 1
    let opn := s.penVal (localKey c (s.fld (Reg.RT_PEN c) Fld.RT_PEN_OPEN))
    let epoch := (opn + 2 ^ 16 - 1) % 2 ^ 16
    let h := epoch % 2
    let b := (List.range (ntok * ksel)).foldl
      (fun b m => buildEntry nexp ksel clane ntok h b m (mget r.entries 0 m).toNat) ⟨[], [], [], 0⟩
    let lists := (List.range nexp).map fun x =>
      let l := (mget b.lists [] x).reverse
      (s.fld (Reg.RT_LIST c) Fld.RT_LIST_OFFSET + (h * nexp + x) * 32 * ((clane + 7) / 8),
        wordsSectors (l ++ List.replicate (clane - l.length) ntok) ntok)
    let hdrs := (List.range nexp).map fun x =>
      (s.fld (Reg.RT_HDR c) Fld.RT_HDR_OFFSET + 32 * (h * nexp + x),
        natBytes epoch 2 ++ natBytes (h * nexp + x) 1 ++ natBytes 0 1 ++ natBytes (mget b.lists [] x).length 2
          ++ natBytes (mget b.ovf 0 x) 2 ++ natBytes c 2 ++ natBytes s.rank 2 ++ natBytes 0 20)
    let map := (s.fld (Reg.RT_CMAP c) Fld.RT_CMAP_OFFSET, wordsSectors b.cmap.reverse 0)
    let s := if opn = 0 then s.combErr c 0x7241 0 0xFFFF else s
    let s := s.modRoute c fun r => { r with entries := [], busy := true, writes := lists ++ hdrs ++ [map] }
    let s := s.setReg (Reg.RT_STAT c) (BitVec.ofNat 64 (2 ^ 31 + epoch))
    let s := s.bump (Reg.RT_CNT c) Fld.RT_CNT_OVF ((b.ovf.map (·.2)).foldl (· + ·) 0)
    s.bump (Reg.RT_CNT c) Fld.RT_CNT_NOCH b.noch

def execRouteBuild (c : CoreId) (s : State) : Out := .next (s.routeBuild c.val)

/-- Whole sectors of bytes written into a core's scratchpad; what would pass its end is dropped.
DESIGN CHOICE: log entry 72. -/
def State.spadPut (s : State) (c off : Nat) (bs : List Byte) : State :=
  let bs := bs.take (0x20_0000 - off)
  let a := c * 0x20_0000 + off
  { s with
    spad := memPut s.spad a bs
    spUe := s.spUe.filter fun w => decide (4 * w < a) || decide (a + bs.length ≤ 4 * w)
    spWeak := s.spWeak.filter fun w => decide (4 * w < a) || decide (a + bs.length ≤ 4 * w) }

/-- A build's writes are complete: DONE rises (R304). -/
def State.routeDone (s : State) (c : Nat) : State :=
  let r := s.routeOf c
  if !r.busy then s
  else
    let s := r.writes.foldl (fun s w => s.spadPut c w.1 w.2) s
    let s := s.modRoute c fun r => { r with busy := false, writes := [] }
    let s := s.setFld (Reg.RT_STAT c) Fld.RT_STAT_BUSY 0
    s.raiseLocal c (s.fld (Reg.RT_PEN c) Fld.RT_PEN_DONE) 0 (s.fld (Reg.RT_STAT c) Fld.RT_STAT_EPOCH)

def execRouteBuildDone (c : CoreId) (s : State) : Out := .next ((s.routeDone c.val).pump c.val)

/-! What reaches the combine unit (R309). Sectors are taken in their order of arrival. -/

/-- The sector that waits first at a core's combine unit. -/
def State.combFirst (s : State) (c off : Nat) (d : Sector) : Option Word32 :=
  match (s.routeOf c).combq with
  | (o, x, be) :: _ => if o = off ∧ x = d then some be else none
  | [] => none

def State.combDrop (s : State) (c : Nat) : State := s.modRoute c fun r => { r with combq := r.combq.drop 1 }

/-- A sector stored in the core's own scratchpad; one discarded over an uncorrectable word is recorded (R178). -/
def State.combStore (s : State) (c off : Nat) (d : Sector) (be : Word32) : State :=
  let l : Loc := ⟨.spad, c * 0x20_0000 + off, spadAddr c off⟩
  match s.stLoc l d be with
  | (s, none) => s
  | (s, some u) => (s.noteUe l 4 u).report (ueCode l) (s.coreCtx c) (some c) u

/-- An answer header: only an idle lane takes it. A stale one is discarded whole (R309). -/
def State.combHeader (s : State) (c lane : Nat) (d : Sector) : State :=
  let off := s.fld (Reg.CB_HDR c) Fld.CB_HDR_OFFSET + 32 * lane
  match s.combFirst c off d with
  | none => s
  | some be =>
    let s := s.combDrop c
    let e := d.toNat % 2 ^ 16
    if s.laneState c lane ≠ 0 then s.combErr c 0x7242 lane e
    else if s.epochLive c (s.laneHalf c lane) e then
      ((s.combStore c off d be).setLaneState c lane 1).setLane c lane (some (e, 0))
    else ((s.setLaneState c lane 2).setLane c lane (some (e, 0))).bump (Reg.CB_CNT c) Fld.CB_CNT_STALE 1

def execCombineHeader (c : CoreId) (lane : Fin 64) (data : Sector) (s : State) : Out :=
  .next ((s.combHeader c.val lane.val data).pump c.val)

/-- An answer's row sector. -/
def State.combRow (s : State) (c lane off : Nat) (d : Sector) : State :=
  let n := s.combRows c
  let base := s.fld (Reg.CB_ROWS c) Fld.CB_ROWS_OFFSET + lane * n * 32
  if off < base ∨ base + 32 * n ≤ off then s
  else
    match s.combFirst c off d with
    | none => s
    | some be =>
      let s := s.combDrop c
      let x := s.lane c lane
      let last := decide (n ≤ x.2 + 1)
      match s.laneState c lane with
      | 1 =>
        let s := (s.combStore c off d be).setLane c lane (some (x.1, x.2 + 1))
        if last then (s.setLaneState c lane 3).arrival c lane x.1 else s
      | 2 =>
        let s := (s.bump (Reg.CB_CNT c) Fld.CB_CNT_DSEC 1).setLane c lane (some (x.1, x.2 + 1))
        if last then ((((s.setLaneState c lane 0).setLane c lane none).arrival c lane x.1).credit c lane x.1) else s
      | _ => s.combErr c 0x7242 lane x.1

def execCombineRowSector (c : CoreId) (lane : Fin 64) (off : BitVec 21) (data : Sector) (s : State) : Out :=
  .next ((s.combRow c.val lane.val off.toNat data).pumpAll)

end Sys2Proof.Machine
end

