-- ==== Sys2Proof/Machine/Image.lean ====
section
/-! DEFINITION. Fabric images: the start of a load (R319), the loader's checks (R315–R318, R320, R322) and commit (R321). -/

namespace Sys2Proof.Machine

open Sys2Proof

/-! The start of a load. -/

/-- The load group's written fields agree (R319, R328): the image's address is a multiple of 32 in near memory of the target
partition. DEDUCED: log entry 74. -/
def State.loadAgrees (s : State) (x a : Nat) : Bool :=
  a % 32 == 0 && decide (a < nearTop) && (match s.place a with
    | some (_, o) => o == some x
    | none => false)

/-- E_CFG_COMMIT of a block (R329): class 7, cause 0x3E. -/
def cfgCommit (block : Nat) : Nat := 0x7000 + block * 64 + 0x3E

/-- IMG_CTL.START (R319, R328, R406): a refusal changes nothing; an inconsistent load group is not committed, and its written
values stand. DEDUCED: log entries 74, 75. -/
def State.imageStart (s : State) (who : Writer) (x : Nat) : State :=
  let a := s.fld Reg.IMG_SRC Fld.IMG_SRC_ADDR
  if s.fld (Reg.PART_STAT x) Fld.PART_STAT_STATE = 2 then s.report 0x7749 (some x) none 0
  else if s.imgLoad.isSome || s.partRuns x then s.report 0x75CA (some x) none 0
  else
    let s := s.setFld Reg.IMG_CTL Fld.IMG_CTL_PART x
    if !s.loadAgrees x a then s.cfgError who (cfgCommit 0x17) Reg.IMG_CTL
    else
      { s.setFld Reg.IMG_STAT Fld.IMG_STAT_STATE 1 with
        imgLoad := some ⟨x, a, none⟩, boot := { s.boot with lastImg := some (x, a) } }

/-- Through a virtual function the target is its own partition (R396). DEDUCED: log entry 75. -/
def State.imagePart (s : State) (who : Writer) (part : Nat) : Nat :=
  match who with
  | .host fn => (s.vfCtx fn.val).getD part
  | _ => part

def execImageLoadStart (who : Writer) (part : Ctx) (s : State) : Out :=
  let go (s : State) : State := s.command who Reg.IMG_CTL fun s => s.imageStart who (s.imagePart who part.val)
  .next (match who with
    | .host _ => s.awake (.imageLoadStart who part) go
    | _ => go s)

/-! The image's bytes. -/

/-- One byte of the image that loads. -/
def State.imgByte (s : State) (j : ImgLoad) (i : Nat) : Byte :=
  match j.flash with
  | some (off, _) => memGet s.flash (off + i)
  | none => BitVec.ofNat 8 ((s.rdAt ((j.src + i) / 32 * 32)).toNat / 256 ^ ((j.src + i) % 32))

def State.imgNat (s : State) (j : ImgLoad) (i n : Nat) : Nat := bytesNat ((List.range n).map fun k => s.imgByte j (i + k))

def State.imgZero (s : State) (j : ImgLoad) (i n : Nat) : Bool := (List.range n).all fun k => s.imgByte j (i + k) == 0

/-- The header's fields (R315). -/
structure ImgHdr where
  major : Nat
  cols : Nat
  rows : Nat
  nsect : Nat
  flags : Nat
  length : Nat
  table : Nat
  deriving DecidableEq, Repr

def State.imgHdr (s : State) (j : ImgLoad) : ImgHdr :=
  { major := s.imgNat j 4 2, cols := s.imgNat j 0xA 1, rows := s.imgNat j 0xB 1, nsect := s.imgNat j 0xC 2
    flags := s.imgNat j 0xE 2, length := s.imgNat j 0x10 8, table := s.imgNat j 0x18 8 }

/-- An entry of the section table (R316). -/
structure ImgSection where
  type : Nat
  sflags : Nat
  lo : Nat
  hi : Nat
  off : Nat
  len : Nat
  deriving DecidableEq, Repr

def State.imgSections (s : State) (j : ImgLoad) (h : ImgHdr) : List ImgSection :=
  (List.range h.nsect).map fun i =>
    let a := h.table + 32 * i
    ⟨s.imgNat j a 2, s.imgNat j (a + 2) 2, s.imgNat j (a + 4) 2, s.imgNat j (a + 6) 2, s.imgNat j (a + 8) 8,
      s.imgNat j (a + 0x10) 8⟩

/-- A section applies to a device's rank (R316). -/
def ImgSection.serves (x : ImgSection) (rank : Nat) : Bool :=
  decide (x.lo ≤ rank) && (x.hi == 0xFFFF || decide (rank ≤ x.hi))

/-- No two bodies overlap. -/
def apart : List (Nat × Nat) → Bool
  | [] => true
  | x :: xs => (xs.all fun y => decide (x.1 + x.2 ≤ y.1) || decide (y.1 + y.2 ≤ x.1) || x.2 == 0 || y.2 == 0) && apart xs

/-- Check 3: header, table, bodies and trailer (R315, R316, R318). -/
def State.imgFormed (s : State) (j : ImgLoad) (h : ImgHdr) : Bool :=
  let grade := s.imgNat j 8 2
  let secs := s.imgSections j h
  let endT := h.table + 32 * h.nsect
  let tr := h.length - 128
  let slot := s.imgNat j tr 1
  (grade == 2240 || grade == 2176 || grade == 2048) && h.cols == 64 && decide (1 ≤ h.rows) && decide (h.rows ≤ 35)
    && decide (1 ≤ h.nsect) && decide (h.nsect ≤ 1024) && decide (h.flags < 4) && h.length % 32 == 0
    && h.table % 32 == 0 && decide (256 ≤ h.table) && decide (endT + 128 ≤ h.length) && s.imgZero j 0x24 220
    && (secs.all fun x => decide (x.sflags < 2) && x.off % 32 == 0 && decide (endT ≤ x.off) && decide (x.off + x.len ≤ tr))
    && ((List.range h.nsect).all fun i => s.imgZero j (h.table + 32 * i + 0x18) 8)
    && apart (secs.map fun x => (x.off, x.len))
    && (decide (slot < 4) || slot == 0xFF) && s.imgZero j (tr + 1) 63
    && (slot != 0xFF || s.imgZero j (tr + 0x40) 64)

/-- The image measurement (R318): SHA-512 of bytes 0 to LENGTH − 129. -/
def State.imgMeas (s : State) (j : ImgLoad) (h : ImgHdr) : Hash :=
  Config.sha512 ((List.range (h.length - 128)).map fun i => s.imgByte j i)

/-! The sections that apply. -/

/-- TYPE of a body (R317); none for one the loader does not know. -/
def sectionType : SectionBody → Option Nat
  | .grid _ => some 1
  | .streams _ => some 2
  | .spmap _ => some 3
  | .regs _ => some 4
  | .pennant _ _ => some 5
  | .hoist _ _ _ => some 6
  | .mesh _ _ => some 7
  | .tiers _ _ _ => some 8
  | .nirlo _ _ _ => some 9
  | .plan _ => some 10
  | .exch _ _ => some 11
  | .pred _ => some 12
  | .eval _ _ => some 13
  | .data _ => some 14
  | .unknown => none

/-- The loader knows a TYPE (R317). -/
def knownType (n : Nat) : Bool := decide (1 ≤ n) && decide (n ≤ 14)

/-- The bodies are those of the table: one an entry, of its TYPE. DEDUCED: log entry 74. -/
def bodiesFit (secs : List ImgSection) (img : List SectionBody) : Bool :=
  secs.length == img.length && (secs.zip img).all fun x =>
    match sectionType x.2 with
    | some n => x.1.type == n
    | none => !knownType x.1.type

/-- The bodies that apply to this device, in table order, with their table entries. -/
def State.imgApplied (s : State) (secs : List ImgSection) (img : List SectionBody) : List (ImgSection × SectionBody) :=
  (secs.zip img).filter fun x => x.1.serves s.rank

/-- Occupied logical cores, by the GRID sections that apply. -/
def occupied (l : List (ImgSection × SectionBody)) : List Nat :=
  (l.foldl (fun o x => match x.2 with
    | .grid cs => cs.map (·.val)
    | _ => o) []).mergeSort

/-! Placement (R4, R322). -/

/-- Rows of the part's logical grid: its good cores, 64 to a row (R3). -/
def State.gridRows (s : State) : Nat := (nCores - s.disabled.length) / 64

/-- The part's enabled cores, in ascending physical index. -/
def State.enabledCores (s : State) : List Nat := (List.range nCores).filter s.coreEnabled

/-- Where a logical core lies (R4, R322). On the main path the logical grid is that of the enabled cores in ascending physical
index, row by row: the spec gives no formula. Folded, the occupied cores take the partition's enabled cores in turn.
DESIGN CHOICE: log entry 110. -/
def State.coreOf (s : State) (folded : Bool) (x : Nat) (occ : List Nat) : Nat → Option Nat :=
  if folded then
    let cs := s.ctxCores x
    fun i => (occ.findIdx? (· == i)).bind fun k => cs[k]?
  else
    let cs := s.enabledCores
    fun i => cs[i]?

/-- A device address that an image gives, its logical core placed; none where that core has no place. -/
def placeAddr (f : Nat → Option Nat) (a : Nat) : Option Nat :=
  if spadBase ≤ a ∧ a < spadBase + nCores * 0x20_0000 then
    (f ((a - spadBase) / 0x20_0000)).map fun c => spadBase + c * 0x20_0000 + (a - spadBase) % 0x20_0000
  else if inWindows a then (f (windowCore a)).map fun c => ctrlBase + c * 0x1_0000 + (a - ctrlBase) % 0x1_0000
  else some a

/-- A word whose low 48 bits are an address: a pointer entry, the first word of a descriptor. -/
def placeWord (f : Nat → Option Nat) (w : Nat) : Nat :=
  w / 2 ^ 48 * 2 ^ 48 + (placeAddr f (w % 2 ^ 48)).getD (w % 2 ^ 48)

/-- A program where its core lies, its pointers and descriptors rewritten to match (R322). DESIGN CHOICE: log entry 110. -/
def placeProgram (f : Nat → Option Nat) (p : StreamImage) : Option Program :=
  (f p.core.val).map fun c =>
    { core := c, stream := p.stream, code := p.code
      ptrs := p.ptrs.map fun e => (e.1, BitVec.ofNat 64 (placeWord f e.2.toNat))
      descs := p.descs.map fun e =>
        (e.1, BitVec.ofNat 256 (e.2.toNat / 2 ^ 64 * 2 ^ 64 + placeWord f (e.2.toNat % 2 ^ 64)))
      entry := p.entry }

def ImageBody.none : ImageBody :=
  { placement := [], streams := [], regs := [], resident := [], data := [], reds := [], landings := [], channels := []
    segments := [], ports := [], manager := 0, treeDepth := 0, depth := 0, eval := [], spmap := [], evalMap := []
    exchange := [] }

/-- One section more: lists grow in table order, so a later section's writes come after an earlier one's (R316). -/
def ImageBody.add (f : Nat → Option Nat) (b : ImageBody) (x : SectionBody) : ImageBody :=
  let at' {α : Type} (l : List (Nat × α)) : List (Nat × α) := l.filterMap fun w => (placeAddr f w.1).map fun a => (a, w.2)
  let regs (l : List (Nat × Word)) (b : ImageBody) : ImageBody := { b with regs := b.regs ++ at' l }
  let kept (l : List (Nat × Word)) (b : ImageBody) : ImageBody :=
    { b with regs := b.regs ++ at' l, resident := b.resident ++ at' l }
  match x with
  | .grid cs => { b with placement := (cs.map (·.val)).mergeSort.filterMap f }
  | .streams l => { b with streams := b.streams ++ l.filterMap (placeProgram f) }
  | .spmap l => { b with spmap := l }
  | .regs l => kept l b
  | .pennant l n => kept l { b with landings := b.landings ++ n }
  | .hoist l d o => kept l { b with treeDepth := d, depth := o }
  | .mesh l r => regs l { b with reds := b.reds ++ r.filterMap fun e => (f e.core.val).map fun c => (c, e) }
  | .tiers l pcs segs => regs l { b with channels := b.channels ++ pcs, segments := b.segments ++ segs }
  | .nirlo l ps m => regs l { b with ports := b.ports ++ ps, manager := m.toNat }
  | .plan l => regs l b
  | .exch l e => regs l { b with exchange := b.exchange ++ e.map fun x => (x.1, x.2.val) }
  | .pred l => { b with data := b.data ++ at' l }
  | .eval l m => { b with eval := b.eval ++ l.filterMap (placeProgram f), evalMap := m }
  | .data l => { b with data := b.data ++ at' l }
  | .unknown => b

/-- What sections hold together. -/
def gather (f : Nat → Option Nat) (l : List (ImgSection × SectionBody)) : ImageBody :=
  l.foldl (fun b x => b.add f x.2) ImageBody.none

/-- Islands of the cores that an image occupies. -/
def ImageBody.islands (b : ImageBody) : List Nat := (List.range 72).filter fun i => b.placement.any fun c => coreIsland c == i

/-! Checks 7 to 9. -/

/-- Why a placement is refused (R322), or 0. A partition's cores lie in whole islands, so a fold splits none. -/
def State.placement (s : State) (h : ImgHdr) (x : Nat) (occ : List Nat) : Nat :=
  if h.rows ≤ s.gridRows then 0
  else if h.flags % 2 = 0 then 0x75C6
  else if occ.length ≤ (s.ctxCores x).length then 0 else 0x75C7

/-- The partition owns what the sections name (check 8), and no landing entry is another's (R199). -/
def State.ownsAll (s : State) (x : Nat) (b : ImageBody) : Bool :=
  (b.islands.all fun i => mfind s.islOwner i == some x) && (b.channels.all fun i => mfind s.pcOwner i == some x)
    && (b.segments.all fun i => mfind s.segOwner i == some x) && (b.ports.all fun i => mfind s.portOwner i == some x)
    && b.landings.all fun i => (mfind s.landOwner i).all (· == x)

/-- Ports per direction group that a shape asks for (R242), none for no shape of the table. -/
def shapePorts (ext : List Nat) : Option (List Nat) :=
  match ext.map fun e => decide (1 < e) with
  | [false, false, false, false] => some [0, 0, 0, 0, 0, 0, 0, 0]
  | [false, false, false, true] => some [0, 0, 0, 0, 0, 0, 16, 16]
  | [false, false, true, true] => some [0, 0, 0, 0, 8, 8, 8, 8]
  | [false, true, true, true] => some [0, 0, 4, 4, 4, 4, 8, 8]
  | [true, true, true, true] => some [4, 4, 4, 4, 4, 4, 4, 4]
  | _ => none

/-- Check 9, on the state with the image's registers: extents (R243) and port counts (R242). DEDUCED: log entry 75. -/
def State.topologyOk (s : State) (x : Nat) : Bool :=
  let ext := s.torus (some x)
  (ext.all fun e => decide (1 ≤ e) && decide (e ≤ 1024)) && decide (ext.foldl (· * ·) 1 ≤ 1024)
    && (match shapePorts ext with
        | some l => (List.range 8).all fun d => (s.dirPorts (some x) d).length == l.getD d 0
        | none => false)

/-- Where the image's logical cores lie. -/
def State.imgFn (s : State) (j : ImgLoad) (h : ImgHdr) (l : List (ImgSection × SectionBody)) : Nat → Option Nat :=
  s.coreOf (decide (s.gridRows < h.rows)) j.part (occupied l)

/-- The first of checks 1 to 6 that fails (R320), as its error code; 0 when all pass. DEDUCED: log entry 74. -/
def State.imgFileCheck (s : State) (j : ImgLoad) : Nat :=
  let h := s.imgHdr j
  let meas := s.imgMeas j h
  let want := match s.profile with
    | some p => p.imgHash
    | none => 0
  let slot := s.imgNat j (h.length - 128) 1
  let sig := BitVec.ofNat 512 (s.imgNat j (h.length - 64) 64)
  if s.imgNat j 0 4 ≠ 0x49375652 then 0x75C1
  else if h.major < s.fld Reg.IMG_FMT_RANGE Fld.IMG_FMT_RANGE_MAJOR_MIN
      ∨ s.fld Reg.IMG_FMT_RANGE Fld.IMG_FMT_RANGE_MAJOR_MAX < h.major then 0x75C2
  else if !s.imgFormed j h then 0x75C3
  else if want ≠ 0 ∧ want ≠ meas then 0x65C4
  else if !s.sigRule slot (hashBytes meas) sig then 0x65C5
  else if (s.imgSections j h).any fun x => !knownType x.type && x.sflags % 2 == 1 then 0x75C3
  else 0

/-- The first of checks 7 to 9 that fails, on the sections that apply. -/
def State.imgPlaceCheck (s : State) (j : ImgLoad) (l : List (ImgSection × SectionBody)) : Nat :=
  let h := s.imgHdr j
  let b := gather (s.imgFn j h l) l
  if s.placement h j.part (occupied l) ≠ 0 then s.placement h j.part (occupied l)
  else if !s.ownsAll j.part b then 0x75C8
  else if !(s.imgPuts b.regs).topologyOk j.part then 0x75C9
  else 0

/-! The commit. -/

/-- Bytes gathered into writes of their sectors: address, data, byte enables. -/
def dataSecs : List (Nat × Byte) → List (Nat × Nat × Nat)
  | [] => []
  | (a, v) :: r =>
    let i := a % 32
    let one : Nat × Nat × Nat := (a / 32 * 32, v.toNat * 256 ^ i, 2 ^ i)
    match dataSecs r with
    | [] => [one]
    | (b, d, m) :: g =>
      if b = a / 32 * 32 ∧ m / 2 ^ i % 2 = 0 then (b, d + v.toNat * 256 ^ i, m + 2 ^ i) :: g else one :: (b, d, m) :: g

/-- A sector of DATA where it belongs, a write through the mesh port of its place (R171). -/
def State.putData (s : State) (x : Nat × Nat × Nat) : State :=
  match s.place x.1 with
  | some (l, _) => s.meshSt l (BitVec.ofNat 256 x.2.1) (BitVec.ofNat 32 x.2.2)
  | none => s

/-- A bit set in a register. -/
def State.setBit (s : State) (a i : Nat) : State := s.setFld a ⟨i, 1⟩ 1

/-- The island and block enables the image needs (R339, R405). DEDUCED: log entry 75. -/
def State.enableFor (s : State) (b : ImageBody) : State :=
  let s := b.islands.foldl (fun s i => if i < 64 then s.setBit Reg.CLK_EN_ISL i else s.setBit Reg.CLK_EN_UNC (i - 64)) s
  let s := b.channels.foldl (fun s pc => s.setBit Reg.CLK_EN_UNC (8 + pc / 32)) s
  let s := b.segments.foldl (fun s k => s.setBit Reg.CLK_EN_UNC (16 + k / 16)) s
  b.ports.foldl (fun s p => s.setBit Reg.CLK_EN_UNC (20 + p / 4)) s

/-- Landing entries bound by the partition (R199). -/
def State.bindLandings (s : State) (x : Nat) (l : List Nat) : State :=
  { s with landOwner := l.foldl (fun m k => mset m k x) s.landOwner }

/-- A stretch of the image's sectors holds an uncorrectable one. DEDUCED: log entry 74. -/
def State.imgUe (s : State) (j : ImgLoad) (off len : Nat) : Bool :=
  j.flash.isNone && (List.range ((len + 31) / 32)).any fun i =>
    match s.place ((j.src + off + 32 * i) / 32 * 32) with
    | some (l, _) => (s.ueLoc l).isSome
    | none => false

/-- Port of a router that the built route from another router comes in by (R209, R211): 0 at the router itself. -/
def State.entryPort (s : State) (dest : Nat) : Nat → Nat → Nat → Nat
  | 0, _, port => port
  | n + 1, r, port =>
    if r = dest then port
    else
      let d := s.builtHop r dest % 8
      match neighbour r d with
      | some (r', _) => s.entryPort dest n r' ((d + 1) % 4 + 1)
      | none => port

/-- A reduction entry with each input bound to its physical port (R211). DESIGN CHOICE: log entry 110. -/
def State.putRed (s : State) (f : Nat → Option Nat) (x : Nat × RedImage) : State :=
  let e := x.2
  let port (o : Option CoreId) : Nat := match o.bind fun c => f c.val with
    | some r => s.entryPort x.1 5000 r 0
    | none => 0
  let ins := (List.range 5).foldl (fun v i => v + (match e.inputs[i]? with
    | some o => port o
    | none => 0) * 2 ^ (55 - 3 * i)) 0
  s.imgPut (Reg.MR_RTAG x.1 e.entry.val) (BitVec.ofNat 64
    (2 ^ 63 + e.fmt.toNat * 2 ^ 61 + e.inputs.length % 8 * 2 ^ 58 + ins + e.tag.toNat * 2 ^ 28
      + (if e.toChain then 2 ^ 19 else 0) + e.group.val * 2 ^ 16))

/-- The state that sections write into the partition (R321 step 1); firmware builds the routes (R209) and enables what the
sections name (R339, R405). An exchange's policy stands in its chain entries (R298). -/
def State.putSections (s : State) (x : Nat) (f : Nat → Option Nat) (b : ImageBody) : State :=
  let s := (s.imgPuts b.regs).enableFor b
  let s := s.putItems (b.streams.flatMap Program.items)
  let s := ((dataSecs b.data).foldl (fun s d => s.putData d) s).bindLandings x b.landings
  let s := { s.unsetRegs isRoute with routed := true }
  let s := b.reds.foldl (fun s e => s.putRed f e) s
  b.exchange.foldl (fun s e =>
    (s.setFld (Reg.NRL_CHAIN (e.1 / 64) (e.1 % 64)) Fld.NRL_CHAIN_LATE (min 1 e.2)).setFld
      (Reg.XCH_CFG (e.1 / 64) (e.1 % 64)) Fld.XCH_CFG_POLICY (e.2 - 1)) s

/-- The resident copy (R321 step 2), and its size. DESIGN CHOICE: log entry 109. -/
def State.putResident (s : State) (b : ImageBody) : State :=
  (s.residentPut (s.fld Reg.IMG_RES Fld.IMG_RES_ADDR) (residentSecs b.items)).setFld Reg.IMG_STAT Fld.IMG_STAT_RES_64K
    (residentSize b.items)

/-- The commit (R321): the sections' state, the resident copy, the measurement, and what a load sets beside it (R264, R268,
R271, R281, R382). -/
def State.imageCommit (s : State) (j : ImgLoad) (l : List (ImgSection × SectionBody)) : State :=
  let h := s.imgHdr j
  let meas := s.imgMeas j h
  let slot := s.imgNat j (h.length - 128) 1
  let x := j.part
  let folded := decide (s.gridRows < h.rows)
  let f := s.imgFn j h l
  let b := gather f l
  let s := s.putSections x f b
  let s := (List.range nCores).foldl (fun s c => if s.coreCtx c = some x then s.combineCheck c else s) s
  let s := s.clearReductions fun c => s.coreCtx c == some x
  let s := { s with
    images := mset s.images x b, managerRank := b.manager, treeDepth := b.treeDepth, alignMax := 0
    imgFailed := s.imgFailed.filter (· != x), killed := s.killed.filter (· != x)
    mgr := { s.mgr with prevHash := 0, prevApplied := true, prevNf := 0, groups := [], lockstep := false, known := [] }
    enclave := { s.enclave with touched := false } }
  let s := s.exchDeadlines.putResident b
  let s := (List.range 8).foldl (fun s i => s.setReg (Reg.IMG_MEAS i) (BitVec.ofNat 64 (meas.toNat / 2 ^ (64 * i)))) s
  let s := s.setLog (6 + x) meas
  let s := (s.setReg Reg.LOSS_N 0).setReg Reg.STEP_QDROP 0
  let s := (s.setFld Reg.STEP_STAT Fld.STEP_STAT_REPEATS 0).setFld Reg.TICK_SYNC Fld.TICK_SYNC_DEPTH b.depth
  let st := Reg.IMG_STAT
  let s := (s.setFld st Fld.IMG_STAT_STATE 3).setFld st Fld.IMG_STAT_FOLDED (if folded then 1 else 0)
  let s := (s.setFld st Fld.IMG_STAT_SIGNED (if slot < 4 then 1 else 0)).setFld st Fld.IMG_STAT_KEY_SLOT
    (if slot < 4 then slot else 0)
  s.emit (.tickAlign false s.tick)

/-- A commit that meets an uncorrectable sector in section `n` (R321): what the sections before it write stands, and the
partition's cores stay stopped until an image loads. DEDUCED: log entry 74. -/
def State.imageFails (s : State) (j : ImgLoad) (l : List (ImgSection × SectionBody)) (n : Nat) : State :=
  let st := Reg.IMG_STAT
  let f := s.imgFn j (s.imgHdr j) l
  let s := s.putSections j.part f (gather f (l.take n))
  let s := { s with imgFailed := j.part :: s.imgFailed.filter (· != j.part) }
  ((s.setFld st Fld.IMG_STAT_STATE 5).setFld st Fld.IMG_STAT_CODE 0x45CB).report 0x45CB (some j.part) none 0

/-- A load whose checks have passed commits (R321). -/
def State.imageWrites (s : State) (j : ImgLoad) (l : List (ImgSection × SectionBody)) : State :=
  match l.findIdx? fun x => s.imgUe j x.1.off x.1.len with
  | some n => s.imageFails j l n
  | none => s.imageCommit j l

/-- A load that a check ends (R320). -/
def State.imageRefused (s : State) (j : ImgLoad) (code : Nat) : State :=
  ((s.setFld Reg.IMG_STAT Fld.IMG_STAT_STATE 4).setFld Reg.IMG_STAT Fld.IMG_STAT_CODE code).report code (some j.part) none 0

end Sys2Proof.Machine
end

