-- ==== Sys2Proof/Machine/Reset.lean ====
section
/-! DEFINITION. Resets: what each source clears and keeps (R355–R359), the strap (R360), the beginning, failure and
retry of a start (R366, R368, R369), and recovery (R370). -/

namespace Sys2Proof.Machine

open Sys2Proof

/-! What a reset keeps. -/

/-- Bits of a field within its register. -/
def fldMask (f : FieldPos) : Nat := (2 ^ f.width - 1) * 2 ^ f.lo

def fldsMask (l : List FieldPos) : Word := BitVec.ofNat 64 (l.foldl (fun m f => m + fldMask f) 0)

/-- Registers that show fuses and the enclave's non-volatile store (R376–R379). -/
def nonVolatile (a : Nat) : Bool :=
  (decide (Reg.SEC_SERIAL 0 ≤ a) && decide (a < Reg.SEC_SERIAL 2))
    || (decide (Reg.SEC_BURGEE 0 ≤ a) && decide (a < Reg.SEC_MLOG 0 0))

/-- Registers of the always-on store (R356), whole. -/
def alwaysOn (a : Nat) : Bool :=
  a == Reg.RST_ERR || a == Reg.HOST_BOOT_ID || a == Reg.PWR_ERR
    || (decide (Reg.SEC_MLOG 0 0 ≤ a) && decide (a < Reg.SEC_MLOG 14 0))

/-- Registers that a warm reset keeps beside those (R357): the strap, the regions of the tiers with their scrubs, the
rails that stand. DEDUCED: log entry 84. -/
def warmKeeps (a : Nat) : Bool :=
  a == Reg.STRAP || a == Reg.CLK_XB_PPM
    || (decide (Reg.RAIL_STAT 0 ≤ a) && decide (a < Reg.RAIL_STAT 10))
    || (decide (Reg.NEAR_SET_CFG 0 ≤ a) && decide (a < Reg.NEAR_SET_LIST 8 0))
    || (List.range 4).any fun n => decide (Reg.RCH_SEG n 0 ≤ a) && decide (a ≤ Reg.RCH_SCRUB n)

/-- Bits of a register that survive power-on (0), RST_N (1) and a warm reset (2). -/
def keepMask (lvl a : Nat) : Word :=
  if nonVolatile a then BitVec.allOnes 64
  else if a = Reg.SEC_STAT then
    fldsMask ([Fld.SEC_STAT_LC, Fld.SEC_STAT_ID_KEY, Fld.SEC_STAT_BURGEE, Fld.SEC_STAT_KEYS, Fld.SEC_STAT_RET_SCRUB_DONE]
      ++ if 1 ≤ lvl then [Fld.SEC_STAT_VIOL_CNT] else [])
  else if lvl = 0 then 0
  else if a = Reg.RST_STAT then fldsMask [Fld.RST_STAT_FSC, Fld.RST_STAT_CAUSE]
  else if a = Reg.RST_CFG then fldsMask [Fld.RST_CFG_PERST_SCOPE]
  else if alwaysOn a then BitVec.allOnes 64
  else if lvl = 1 then 0
  else if a = Reg.CLK_STAT then
    fldsMask [Fld.CLK_STAT_XA_OK, Fld.CLK_STAT_XB_OK, Fld.CLK_STAT_XA_MODE, Fld.CLK_STAT_XB_MODE]
  else if a = Reg.DBG_STAT then fldsMask [Fld.DBG_STAT_LOCKED, Fld.DBG_STAT_FAILS]
  else if warmKeeps a then BitVec.allOnes 64
  else 0

/-- DEDUCED: log entry 84. -/
def keptRegs (lvl : Nat) (m : SMap Word) : SMap Word :=
  m.filterMap fun e => if keepMask lvl e.1 = 0 then none else some (e.1, e.2 &&& keepMask lvl e.1)

/-- What power-on (0), RST_N (1) or a warm reset (2) leaves of the device (R356, R357). Beside the part, the boot flash,
host memory and the CXL devices go on; the links to these are down (R231). DEDUCED: log entries 44, 84. -/
def State.afterReset (s : State) (lvl : Nat) : State :=
  let warm := lvl == 2
  let s := s.reachForgets fun _ => true
  let e := s.enclave
  { State.reset with
    regs := keptRegs lvl s.regs
    near := if warm then s.near else [], nearUe := if warm then s.nearUe else []
    nearWeak := if warm then s.nearWeak else []
    nearWait := if warm then s.nearWait else []
    pcOwner := if warm then s.pcOwner else [], segOwner := if warm then s.segOwner else []
    reach := s.reach, hostMem := s.hostMem, flash := s.flash, disabled := s.disabled
    out := s.out, free := s.free, pending := s.pending
    power := { Power.reset with
      thermTrip := warm && s.power.thermTrip, coreMv := if warm then s.power.coreMv else [0, 0, 0, 0]
      sramMv := if warm then s.power.sramMv else [0, 0, 0, 0], trip := if warm then s.power.trip else 0, pwmMid := !warm || s.power.pwmMid
      xaLost := warm && s.power.xaLost, xbLost := warm && s.power.xbLost }
    boot := { Boot.reset with
      kept := if lvl = 0 then [] else s.boot.kept, held := s.boot.held
      lastImg := if warm then s.boot.lastImg else none
      pwrCopy := lvl != 0 && s.flag Reg.PWR_ERR Fld.PWR_ERR_VALID }
    enclave := { Enclave.reset with
      idKey := e.idKey, fwKey := e.fwKey, mfgKey := e.mfgKey, retKey := e.retKey, mfrId := e.mfrId } }

namespace State

def startStep (s : State) : Nat := s.fld Reg.RST_STAT Fld.RST_STAT_STEP
def setStep (s : State) (n : Nat) : State := s.setFld Reg.RST_STAT Fld.RST_STAT_STEP n
def started (s : State) : Bool := s.flag Reg.RST_STAT Fld.RST_STAT_STARTED
/-- DEDUCED: log entry 86. -/
def inRecovery (s : State) : Bool := s.flag Reg.RST_STAT Fld.RST_STAT_RECOVERY
/-- DESIGN CHOICE: log entry 85. -/
def setCause (s : State) (c : Nat) : State := s.setFld Reg.RST_STAT Fld.RST_STAT_CAUSE c
def modBoot (s : State) (f : Boot → Boot) : State := { s with boot := f s.boot }

/-- A start is in progress, or a failed one waits to begin again. -/
def inStart (s : State) : Bool := s.startStep != 0 || s.boot.retry

/-- A stronger source is in progress (R359): power-on, RST_N or a trip. -/
def outranked (s : State) : Bool := s.boot.off || s.boot.held || s.power.trip != 0

/-- STRAP.CODE. -/
def strap (s : State) : Nat := s.fld Reg.STRAP Fld.STRAP_CODE

/-- The boot source is the host (R360), as in recovery (R370). -/
def hostBoot (s : State) : Bool := s.boot.recovering || s.strap == 14 || s.strap % 2 == 1

/-- The strap sample (R360). -/
def sampleStrap (s : State) (a0 a1 a2 a3 : Byte) : State :=
  let a := (a0.toNat + a1.toNat + a2.toNat + a3.toNat) / 4
  (s.setFld Reg.STRAP Fld.STRAP_A a).setFld Reg.STRAP Fld.STRAP_CODE (a / 16)

/-- RST_ERR (R374): the first record is kept while VALID is 1; every error is reported. DEDUCED: log entry 86. -/
def rstErr (s : State) (code : Nat) : State :=
  let s := if s.flag Reg.RST_ERR Fld.RST_ERR_VALID then s
    else s.setReg Reg.RST_ERR (BitVec.ofNat 64 (2 ^ 63 + s.startStep * 2 ^ 56 + code))
  s.report code none none s.startStep

/-! The beginning of a start. -/

/-- RST_STAT.RECOVERY while a start leads to recovery (R370). -/
def markRecovery (s : State) : State := if s.boot.recovering then s.setFld Reg.RST_STAT Fld.RST_STAT_RECOVERY 1 else s

/-- A cold start begins at a step: the first, or after a failure the second (R369). Strap code 15 leads to recovery. -/
def beginCold (s : State) (step : Nat) : State :=
  ((s.setStep step).modBoot fun b =>
    { b with warm := false, recovering := s.strap == 15, hostPath := false, waitImage := false, retry := false
             watchdog := false, windows := 0, judged := false }).markRecovery

/-- The boot-flash header as a start uses it (R364, R365, R350). -/
def takeHeader (s : State) (h : FlashHdr) (ok : Bool) : State :=
  let s := s.modBoot fun b => { b with hdr := h, hdrOk := ok }
  let s := s.setFld Reg.IMG_RANK Fld.IMG_RANK_RANK h.rank
  (List.range 4).foldl (fun s q =>
    (s.setFld (Reg.PH_CFG q) Fld.PH_CFG_PHASES (h.phases.getD q 0)).setFld (Reg.PH_CFG q) Fld.PH_CFG_OCP_A
      (h.ocpA.getD q 0)) s

/-- A host-boot start takes the header, or the no-flash defaults (R365). -/
def takeHostHeader (s : State) : State :=
  match s.flashHeader with
  | some h => s.takeHeader h true
  | none => s.takeHeader .defaults false

/-- The crystals judged, the host path of R366 locks the system PLL and raises VPCIE. DEDUCED: log entry 89. -/
def hostPathGoes (s : State) : State :=
  if s.boot.hostPath && s.flag Reg.CLK_STAT Fld.CLK_STAT_XA_OK then
    ((s.setFld Reg.CLK_STAT ⟨14, 1⟩ 1).setFld (Reg.RAIL_STAT 9) Fld.RAIL_STAT_ON 1).setFld (Reg.RAIL_STAT 9)
      Fld.RAIL_STAT_PGOOD 1
  else s

/-- The host path of step 3 (R366): the crystals are judged by comparison unless they have been, and the host is waited for. -/
def enterHostPath (s : State) : State :=
  let s := (s.setStep 3).modBoot fun b => { b with hostPath := true, windows := 0, judged := false }
  let s := if s.boot.warm then s
    else (s.setFld Reg.CLK_STAT Fld.CLK_STAT_XA_MODE 1).setFld Reg.CLK_STAT Fld.CLK_STAT_XB_MODE 1
  s.hostPathGoes

/-- A warm start begins at step 3 (R368). A part in recovery stays so (R370). -/
def beginWarm (s : State) (recovering : Bool) : State :=
  ((s.setStep 3).modBoot fun b =>
    { b with warm := true, recovering := recovering || s.strap == 15, hostPath := false, waitImage := false, retry := false
             watchdog := false, windows := 0, judged := false }).markRecovery

/-- A warm reset, and the warm start that follows (R356, R357). Scrubs that waited for a margining run begin. -/
def warmReset (s : State) (cause : Nat) : State :=
  ((s.afterReset 2).nearScrubs.setCause cause).beginWarm s.inRecovery

/-- A source of a warm reset (R359): absorbed by a stronger one, refused during a start. -/
def warmSource (s : State) (cause : Nat) : State :=
  if s.outranked then s else if s.inStart then s.rstErr 0x7688 else s.warmReset cause

/-! The end of a start that fails. -/

/-- Clock and power errors go to their own records too (R353). -/
def unitErr (s : State) (code unit : Nat) : State :=
  if code = 0x5601 ∨ code = 0x5602 ∨ code = 0x5603 then s.clkErr code unit
  else if code = 0x5644 ∨ code = 0x5645 ∨ code = 0x5646 ∨ code = 0x5647 then s.pwrErr code unit
  else s

/-- Recovery takes the host path at once, with the no-flash defaults where the header is unusable (R370).
DEDUCED: log entry 86. -/
def beginRecovery (s : State) : State :=
  (s.modBoot fun b => { b with recovering := true, warm := false, retry := false }).markRecovery.takeHostHeader.enterHostPath

/-- A start fails (R369). DEDUCED: log entry 86. -/
def failStart (s : State) (code : Nat) : State :=
  let n := min 3 (s.fld Reg.RST_STAT Fld.RST_STAT_FSC + 1)
  let s := ((s.rstErr code).setFld Reg.RST_STAT Fld.RST_STAT_FSC n).railsOff
  let s := { s.modBoot fun b => { b with watchdog := false, hostPath := false, waitImage := false, retry := true } with
    imgLoad := none }
  let s := s.setStep 0
  if n = 3 then (s.rstErr 0x7687).beginRecovery else s

/-- 100 ms after a failure the same kind of start begins again from step 2, without sampling the strap; a warm start has no
step 2 (R368, R369). DEDUCED: log entry 86. -/
def startRetry (s : State) : State :=
  if !s.boot.retry then s else if s.boot.warm then s.beginWarm s.inRecovery
  else if s.inRecovery then s.beginRecovery else s.beginCold 2

/-- An abort by PERST_N: a start of the same kind begins (R359). -/
def restartKind (s : State) (cause : Nat) : State :=
  let t := (s.afterReset 2).setCause cause
  if s.boot.warm then t.beginWarm s.inRecovery else if s.inRecovery then t.beginRecovery else t.beginCold 2

/-! Core-array and partition resets (R356). -/

/-- The cores of a context are reset, and their counters with them (R74). -/
def resetCtx (s : State) (x : Nat) : State := (s.ctxCores x).foldl clearCounters (s.resetCores x)

/-- A partition's cores are reset; full debug ends (R387). DEDUCED: log entry 87. -/
def partReset (s : State) (x : Nat) : State := (s.resetCtx x).fullEnds

/-- DEDUCED: log entry 30. -/
def arrayReset (s : State) : State :=
  ((List.range 8).foldl (fun s x => if s.partExists x then s.resetCtx x else s) s).fullEnds

/-- The reset of the host port alone (R358): its link, its functions and its rings. What DMA wrote stands (R407).
DEDUCED: log entry 84. -/
def hostPortReset (s : State) : State :=
  let page (a : Nat) : Bool := decide (hostBase + 0x1_0000 ≤ a) && decide (a < hostBase + 0xA_0000)
  let s := s.unsetRegs fun a => page a || a == Reg.HOST_LINK
  { s with
    cmdq := [], dmaCh := [], cpls := [], cplPhase := [], d3 := [], bar2 := []
    kills := mmap (fun (k : KillState) => { k with cpls := [] }) s.kills
    lowHalf := mfilter (fun a => !page a) s.lowHalf }

end State

/-! The rows. -/

/-- VAON has been above its threshold for 64 SOSC cycles: power-on reset ends and a cold start begins (R355, R356). While
RST_N is low the start waits for it. DEDUCED: log entry 44. -/
def State.powerOn (s : State) (a0 a1 a2 a3 : Byte) : State :=
  let s := s.afterReset 0
  if s.boot.held then s else (s.sampleStrap a0 a1 a2 a3).beginCold 1

def execPowerOnReset (a0 a1 a2 a3 : Byte) (s : State) : Out := .next (s.powerOn a0 a1 a2 a3)

/-- VAON below 0.68 V: power-on reset is asserted and the part is Off (R355, R348). -/
def execVaonLoss (s : State) : Out := .next ((s.afterReset 0).modBoot fun b => { b with off := true })

def execRstNAssert (s : State) : Out :=
  .next (if s.boot.off then s.modBoot fun b => { b with held := true }
    else ((s.afterReset 1).setCause 1).modBoot fun b => { b with held := true })

def execRstNRelease (a0 a1 a2 a3 : Byte) (s : State) : Out :=
  .next (if !s.boot.held then s
    else
      let s := s.modBoot fun b => { b with held := false }
      if s.boot.off then s else (s.sampleStrap a0 a1 a2 a3).beginCold 1)

/-- PERST_N low (R358, R359). DESIGN CHOICE: log entry 85; DEDUCED: log entry 86. -/
def State.perst (s : State) : State :=
  if s.outranked then s
  else
    match s.fld Reg.RST_CFG Fld.RST_CFG_PERST_SCOPE with
    | 1 => s.hostPortReset.setCause 2
    | 2 => if s.inStart then s.restartKind 2 else (s.hostPortReset.arrayReset).setCause 2
    | _ => if s.inStart then s.restartKind 2 else s.warmReset 2

def execPerstNAssert (s : State) : Out := .next s.perst

/-- PERST_N high: the host port's link trains again, and HOST_LINK_UP tells when it is up (R358). -/
def execPerstNRelease (s : State) : Out := .next s

/-- The supervisor watchdog (R356, R391): paused while step 10 waits for the host (R366). -/
def State.watchdogFires (s : State) : State :=
  if !s.boot.watchdog || s.boot.waitImage then s
  else if s.inStart then s.failStart 0x0689
  else (s.rstErr 0x0689).warmSource 3

def execWatchdogExpiry (s : State) : Out := .next s.watchdogFires

/-- An in-band reset from the manager (R356). -/
def State.inband (s : State) : State :=
  if s.flag Reg.RST_CFG Fld.RST_CFG_INBAND_EN ∧ (s.lifecycle = 1 ∨ s.lifecycle = 2) then s.warmSource 4
  else s.rstErr 0x668A

def execInbandReset (s : State) : Out := .next (s.awake .inbandReset fun s => s.inband)

def execHostWarmReset (s : State) : Out := .next (s.awake .hostWarmReset fun s => s.warmSource 5)

def execCoreArrayReset (s : State) : Out :=
  .next (s.awake .coreArrayReset fun s =>
    if s.outranked then s else if s.inStart then s.rstErr 0x7688 else s.arrayReset)

/-- DEDUCED: log entry 87. -/
def execPartitionReset (p : Ctx) (s : State) : Out :=
  .next (s.awake (.partitionReset p) fun s =>
    if s.outranked then s else if s.inStart then s.rstErr 0x7688 else s.partReset p.val)

/-- A security violation (R390): every partition's tier regions are scrubbed, and a warm reset follows at once, in a start
too (R359). -/
def State.violation (s : State) : State :=
  if s.outranked then s
  else
    let s := (s.bump Reg.SEC_STAT Fld.SEC_STAT_VIOL_CNT 1).report 0x66C6 none none 0
    ((List.range 8).foldl (fun s x => s.scrubTiers x) s).warmReset 7

def execSecurityViolation (s : State) : Out := .next s.violation

def execStartRetry (s : State) : Out := .next s.startRetry

/-- RST_CMD.RESTART in recovery (R370): the counter is cleared and a cold start begins with the latched code. -/
def execRecoveryRestart (s : State) : Out :=
  .next (s.awake .recoveryRestart fun s =>
    if s.inRecovery then
      ((s.setFld Reg.RST_STAT Fld.RST_STAT_RECOVERY 0).setFld Reg.RST_STAT Fld.RST_STAT_FSC 0).beginCold 2
    else s)

/-- RST_CMD.FSC_CLR (R375): only in recovery. -/
def execFscClr (s : State) : Out :=
  .next (s.awake .fscClr fun s => if s.inRecovery then s.setFld Reg.RST_STAT Fld.RST_STAT_FSC 0 else s)

end Sys2Proof.Machine
end

