-- ==== Sys2Proof/Machine/Security.lean ====
section
/-! DEFINITION. The enclave: its commands (R378–R384, R393), signed commands and what they change (R376, R379–R381),
attestation (R382–R384), the debug levels and accesses (R385–R388) and the TAP (R389, R390). -/

namespace Sys2Proof.Machine

open Sys2Proof

/-! Enclave commands. -/

namespace State

/-- A command completes. DEDUCED: log entry 93. -/
def secOk (s : State) : State :=
  let a := Reg.SEC_CMD_STAT
  ((s.setFld a Fld.SEC_CMD_STAT_DONE 1).setFld a Fld.SEC_CMD_STAT_FAIL 0).setFld a Fld.SEC_CMD_STAT_CODE 0

/-- A command is refused. DEDUCED: log entry 93. -/
def secFail (s : State) (code : Nat) : State :=
  let a := Reg.SEC_CMD_STAT
  (((s.setFld a Fld.SEC_CMD_STAT_DONE 0).setFld a Fld.SEC_CMD_STAT_FAIL 1).setFld a Fld.SEC_CMD_STAT_CODE code).report code
    none none (s.reg Reg.SEC_ARG).toNat

/-- Partition a command is for: a virtual function's own, else SEC_CMD.PART (R393). -/
def secPart (s : State) (fn : Nat) : Nat := (s.vfCtx fn).getD (s.fld Reg.SEC_CMD Fld.SEC_CMD_PART)

/-- Sectors of near memory from an address; none where a sector does not exist or cannot be corrected. -/
def nearSectors (s : State) (a : Nat) : Nat → Option (List Sector)
  | 0 => some []
  | n + 1 =>
    match s.place a, s.nearSectors (a + 32) n with
    | some (l, _), some ds =>
      if l.space = .near ∧ (s.ueLoc l).isNone then some (s.rdLoc l :: ds) else none
    | _, _ => none

/-- `n` bytes at SEC_ARG, which must be a multiple of 32 B in near memory. DEDUCED: log entry 93. -/
def secArg (s : State) (n : Nat) : Option (List Byte) :=
  let a := s.fld Reg.SEC_ARG Fld.SEC_ARG_ADDR
  if a % 32 = 0 then
    (s.nearSectors a ((n + 31) / 32)).map fun ds => (ds.flatMap fun d => natBytes d.toNat 32).take n
  else none

/-- Whole sectors written into near memory; none where one does not exist. -/
def putSectors (s : State) (a : Nat) : List Sector → Option State
  | [] => some s
  | d :: ds =>
    match s.place a with
    | some (l, _) => if l.space = .near then (s.stLoc l d beAll).1.putSectors (a + 32) ds else none
    | none => none

/-- The part's serial (SEC_SERIAL). -/
def serial (s : State) : Nat := (s.reg (Reg.SEC_SERIAL 0)).toNat + 2 ^ 64 * (s.reg (Reg.SEC_SERIAL 1)).toNat

/-- Device identity public key, zero when there is none. -/
def idPub (s : State) : Nat :=
  match s.enclave.idKey with
  | some k => (Config.ed25519Public k).toNat
  | none => 0

def modEnclave (s : State) (f : Enclave → Enclave) : State := { s with enclave := f s.enclave }

end State

/-- Bytes `i` to `i + n - 1` of a string, as a number. -/
def bytesAt (bs : List Byte) (i n : Nat) : Nat := bytesNat ((bs.drop i).take n)

def sectorsOf : Nat → List Byte → List Sector
  | 0, _ => []
  | n + 1, bs => BitVec.ofNat 256 (bytesNat (bs.take 32)) :: sectorsOf n (bs.drop 32)

/-! Attestation reports (R383). -/

/-- Bytes 0x000–0x2FF of a report of a context for a nonce. -/
def State.attestBody (s : State) (x : Nat) (nonce : List Byte) : List Byte :=
  let bit (b : Bool) (i : Nat) : Nat := if b then 2 ^ i else 0
  let level := s.fld Reg.DBG_STAT Fld.DBG_STAT_LEVEL
  let dbg := level + (if level = 2 then s.fld Reg.DBG_STAT Fld.DBG_STAT_PART * 16 else 0) + bit s.enclave.touched 7
  let sa := mfind s.enclave.attested x
  let flags := bit (s.flag Reg.SEC_STAT Fld.SEC_STAT_UNTESTED) 0 + bit (s.flag Reg.IMG_STAT Fld.IMG_STAT_FOLDED) 1
    + bit s.replay 2 + bit sa.isSome 3 + bit s.enclave.idKey.isNone 4
  natBytes 0x41375652 4 ++ natBytes 1 2 ++ natBytes s.lifecycle 1 ++ natBytes dbg 1 ++ natBytes flags 4 ++ natBytes x 1
    ++ natBytes 0 3 ++ natBytes s.serial 16 ++ nonce ++ natBytes (s.reg Reg.FW_VER).toNat 8
    ++ natBytes s.enclave.lastStep 8 ++ natBytes 0 48
    ++ ((List.range 6 ++ [6 + x]).flatMap fun i => hashBytes (s.logEntry i))
    ++ hashBytes (if s.isManager then s.enclave.lastRec else 0)
    ++ (match sa with
        | some (h, l) => hashBytes h ++ l
        | none => natBytes 0 128)

/-- The report with its signature; zero where there is no identity key. -/
def State.attestReport (s : State) (x : Nat) (nonce : List Byte) : List Byte :=
  let body := s.attestBody x nonce
  body ++ hashBytes (match s.enclave.idKey with
    | some k => Config.ed25519Sign k body
    | none => 0)

/-- SEC_CMD OP 1 (R383). -/
def State.attest (s : State) (fn : Nat) : State :=
  match s.secArg 32 with
  | none => s.secFail 0x76C2
  | some nonce =>
    match s.putSectors (s.fld Reg.SEC_ARG Fld.SEC_ARG_ADDR + 32) (sectorsOf 26 (s.attestReport (s.secPart fn) nonce)) with
    | none => s.secFail 0x76C2
    | some s => s.secOk

def execAttest (fn : Fn) (s : State) : Out := .next (s.awake (.attest fn) fun s => s.attest fn.val)

/-! Step attestations (R384). -/

/-- Entries of a region list up to the first LEN of 0: BASE, LEN. -/
def regionList (bs : List Byte) : List (Nat × Nat) :=
  ((List.range 4).map fun i => (bytesAt bs (16 * i) 8, bytesAt bs (16 * i + 8) 8)).takeWhile fun e => e.2 != 0

/-- A region is whole sectors of the partition's near and reach memory. -/
def State.regionOk (s : State) (x : Nat) (e : Nat × Nat) : Bool :=
  e.1 % 32 == 0 && e.2 % 32 == 0 && decide (e.1 + e.2 ≤ spadBase) && (List.range (e.2 / 32)).all fun i =>
    match s.place (e.1 + 32 * i) with
    | some (_, o) => o == some x
    | none => false

/-- Hashing begins. DEDUCED: log entry 95. -/
def State.attestBegins (s : State) : State :=
  (s.setFld Reg.SA_STAT Fld.SA_STAT_PENDING 0).setFld Reg.SA_STAT Fld.SA_STAT_BUSY 1

/-- SEC_CMD OP 2: at once when the group has no step in progress, else at the step boundary. -/
def State.attestAsked (s : State) (fn : Nat) : State :=
  let x := s.secPart fn
  if s.flag Reg.SA_STAT Fld.SA_STAT_PENDING ∨ s.flag Reg.SA_STAT Fld.SA_STAT_BUSY then s.secFail 0x76C2
  else
    match s.secArg 64 with
    | none => s.secFail 0x76C2
    | some l =>
      if !(regionList l).all (s.regionOk x) then s.secFail 0x76C4
      else
        let s := s.modEnclave fun e => { e with saList := l, saRegs := regionList l }
        let a := Reg.SA_STAT
        let s := (((s.secOk).setFld a Fld.SA_STAT_DONE 0).setFld a Fld.SA_STAT_PART x).setFld a Fld.SA_STAT_PENDING 1
        if s.stepActive then s else s.attestBegins

def execStepAttestRequest (fn : Fn) (s : State) : Out :=
  .next (s.awake (.stepAttestRequest fn) fun s => s.attestAsked fn.val)

def execStepAttestRun (s : State) : Out :=
  .next (if s.flag Reg.SA_STAT Fld.SA_STAT_PENDING ∧ ¬ s.stepActive then s.attestBegins else s)

def State.setSaHash (s : State) (h : Hash) : State :=
  (List.range 8).foldl (fun s i => s.setReg (Reg.SA_HASH i) (BitVec.ofNat 64 (h.toNat / 2 ^ (64 * i)))) s

/-- Hashing ends: the hash of the regions' bytes, or E_SA_UE. The device reports its request complete.
DEDUCED: log entry 95. -/
def State.attestEnds (s : State) (ue : Bool) : State :=
  let a := Reg.SA_STAT
  if !s.flag a Fld.SA_STAT_BUSY then s
  else
    let secs := s.enclave.saRegs.flatMap fun (e : Nat × Nat) => (List.range (e.2 / 32)).map fun i => e.1 + 32 * i
    let bad (q : Nat) : Bool := match s.place q with
      | some (l, _) => (s.ueLoc l).isSome
      | none => true
    let s1 := s.setFld a Fld.SA_STAT_BUSY 0
    let s1 :=
      if ue || secs.any bad then
        let s1 := (s1.setSaHash 0).setFld Reg.SEC_CMD_STAT Fld.SEC_CMD_STAT_FAIL 1
        (s1.setFld Reg.SEC_CMD_STAT Fld.SEC_CMD_STAT_CODE 0x46C5).report 0x46C5 (some (s.fld a Fld.SA_STAT_PART)) none 0
      else
        let h := Config.sha512 (secs.flatMap fun q => natBytes (s.rdAt q).toNat 32)
        (((s1.setSaHash h).setFld a Fld.SA_STAT_DONE 1)).modEnclave fun e =>
          { e with attested := mset e.attested (s.fld a Fld.SA_STAT_PART) (h, e.saList) }
    (s1.emit (.attestReport s.rank)).tryStart

def execStepAttestDone (ue : Bool) (s : State) : Out := .next (s.attestEnds ue)

/-! Challenges and the burgee. -/

def State.setChallenge (s : State) (v : BitVec 256) (live : Bool) : State :=
  ((List.range 4).foldl (fun s i => s.setReg (Reg.SEC_CHAL i) (BitVec.ofNat 64 (v.toNat / 2 ^ (64 * i)))) s).modEnclave
    fun e => { e with live := live }

def State.challenge (s : State) : Nat :=
  (List.range 4).foldl (fun v i => v + (s.reg (Reg.SEC_CHAL i)).toNat * 2 ^ (64 * i)) 0

/-- SEC_CMD OP 4 (R381): a fresh random value, which is free. DEDUCED: log entry 94. -/
def State.newChallenge (s : State) : State :=
  ({ s with free := s.free + 1 }.setChallenge (Config.freeWord s.free) true).secOk

def execNewChallenge (s : State) : Out := .next (s.awake .newChallenge fun s => s.newChallenge)

def execChallengeExpiry (s : State) : Out := .next (if s.enclave.live then s.setChallenge 0 false else s)

/-- Whether a certificate is this part's burgee (R378). -/
def State.burgeeOk (s : State) (bs : List Byte) : Bool :=
  s.lifecycle == 1 && !s.flag Reg.SEC_STAT Fld.SEC_STAT_BURGEE && s.enclave.idKey.isSome
    && bytesAt bs 0 4 == 0x43375652 && bytesAt bs 4 2 == 1 && bytesAt bs 6 2 == nCores - s.disabled.length
    && bytesAt bs 8 2 == 0x00A1 && bytesAt bs 0xA 6 == 0 && bytesAt bs 0x10 16 == s.serial && bytesAt bs 0x20 32 == s.idPub
    && bytesAt bs 0x40 64 == (s.logEntry 5).toNat
    && Config.ed25519Verify (Config.fusedKey s.enclave.fwKey) (hashBytes (Config.sha512 (bs.take 0x80)))
        (BitVec.ofNat 512 (bytesAt bs 0x80 64))

/-- SEC_CMD OP 5 (R378). -/
def State.installBurgee (s : State) : State :=
  match s.secArg 192 with
  | some bs =>
    if s.burgeeOk bs then
      let s := (List.range 24).foldl (fun s i => s.setReg (Reg.SEC_BURGEE i) (BitVec.ofNat 64 (bytesAt bs (8 * i) 8))) s
      (s.setFld Reg.SEC_STAT Fld.SEC_STAT_BURGEE 1).secOk
    else s.secFail 0x76C2
  | none => s.secFail 0x76C2

def execInstallBurgee (s : State) : Out := .next (s.awake .installBurgee fun s => s.installBurgee)

/-! Signed commands (R380, R381). -/

structure SignedCmd where
  op : Nat
  slot : Nat
  arg0 : Nat
  arg1 : Nat
  serial : Nat
  chal : Nat
  pub : Nat
  /-- Bytes 0x00–0x5F. -/
  body : List Byte
  sig : Hash
  deriving DecidableEq, Repr

/-- Check 1: format and reserved bytes. DEDUCED: log entry 94. -/
def signedParse (op : Nat) (bs : List Byte) : Option SignedCmd :=
  let c : SignedCmd :=
    { op := bytesAt bs 4 1, slot := bytesAt bs 5 1, arg0 := bytesAt bs 6 1, arg1 := bytesAt bs 7 1, serial := bytesAt bs 8 16
      chal := bytesAt bs 0x18 32, pub := bytesAt bs 0x38 32, body := bs.take 0x60, sig := BitVec.ofNat 512 (bytesAt bs 0x60 64) }
  let slotOk := decide (c.slot < 4) || [0xFD, 0xFE, 0xFF].contains c.slot
  let argOk : Bool := match op with
    | 1 => decide (c.arg0 < 4) && decide (c.arg1 < 8)
    | 2 => decide (c.arg0 < 4)
    | 3 => decide (1 ≤ c.arg0) && decide (c.arg0 ≤ 3)
    | _ => decide (1 ≤ c.arg0) && decide (c.arg0 ≤ 2) && decide (c.arg1 < 8)
  let pubOk := op == 1 || c.slot == 0xFD || c.slot == 0xFE || c.pub == 0
  if bytesAt bs 0 4 = 0x53375652 ∧ c.op = op ∧ bytesAt bs 0x58 8 = 0 ∧ slotOk ∧ argOk ∧ pubOk then some c else none

namespace State

/-- Check 3: the key. Slot 0xFF serves only the first key install and the deployment without an owner key. -/
def signedKey (s : State) (c : SignedCmd) : Bool :=
  if c.slot < 4 then s.keyRole c.slot (if c.op = 4 then 1 else 2)
  else if c.slot = 0xFE then Config.sha512 (natBytes c.pub 32) == s.enclave.mfgKey
  else if c.slot = 0xFD then Config.sha512 (natBytes c.pub 32) == s.enclave.retKey
  else s.lifecycle == 1 && !s.anyKey && (c.op == 1 || (c.op == 3 && c.arg0 == 2))

/-- Check 4: the signature. -/
def signedSig (s : State) (c : SignedCmd) : Bool :=
  if c.slot = 0xFF then true
  else Config.ed25519Verify (if c.slot < 4 then s.ownerKey c.slot else BitVec.ofNat 256 c.pub) c.body c.sig

/-- Slots left with role LC when one goes. -/
def lcKeyLeft (s : State) (gone : Nat) : Bool := (List.range 4).any fun i => i != gone && s.keyRole i 2

/-- Check 5: the lifecycle rules of R376, R379 and R388; 0 where they hold. DEDUCED: log entry 94. -/
def signedRule (s : State) (c : SignedCmd) : Nat :=
  let lc := s.lifecycle
  let owner := decide (c.slot < 4)
  let ok : Bool := match c.op with
    | 1 => (lc == 1 || (lc == 2 && s.anyKey)) && (owner || c.slot == 0xFF)
    | 2 => (lc == 1 || lc == 2) && owner && s.flag (Reg.SEC_KEY c.arg0) Fld.SEC_KEY_VALID
    | 3 =>
      s.runningCores.isEmpty && ((c.arg0 == 1 && lc == 0 && c.slot == 0xFE)
        || (c.arg0 == 2 && lc == 1 && (owner || c.slot == 0xFF))
        || (c.arg0 == 3 && (lc == 1 || lc == 2) && (owner || c.slot == 0xFD)))
    | _ =>
      if c.arg0 = 1 then lc == 2 && owner
      else (lc == 0 && c.slot == 0xFE) || ((lc == 1 || lc == 2) && owner)
        || (lc == 3 && c.slot == 0xFD && s.flag Reg.SEC_STAT Fld.SEC_STAT_RET_SCRUB_DONE)
  if !ok then 0x76C2 else if c.op = 2 ∧ ¬ s.lcKeyLeft c.arg0 then 0x76C3 else 0

/-- The checks in order: the command, or the error of the first that fails; the challenge is spent once it is read.
DEDUCED: log entry 94. -/
def signedCheck (s : State) (op : Nat) : Except Nat SignedCmd × State :=
  match (s.secArg 160).bind (signedParse op) with
  | none => (.error 0x76C2, s)
  | some c =>
    let good := s.enclave.live && c.chal == s.challenge && c.serial == s.serial
    let s := s.setChallenge 0 false
    if !good || !s.signedKey c || !s.signedSig c then (.error 0x66C1, s)
    else
      match s.signedRule c with
      | 0 => (.ok c, s)
      | e => (.error e, s)

/-- One of the four signed commands. -/
def signed (s : State) (op : Nat) (f : SignedCmd → State → State) : State :=
  match s.signedCheck op with
  | (.ok c, s) => (f c s).secOk
  | (.error e, s) => s.secFail e

/-- An owner slot written, and SEC_STAT.KEYS with it. DEDUCED: log entry 94. -/
def setKey (s : State) (slot : Nat) (valid : Bool) (role pub : Nat) : State :=
  let s := (List.range 4).foldl (fun s i => s.setReg (Reg.SEC_KEY_PUB slot i) (BitVec.ofNat 64 (pub / 2 ^ (64 * i)))) s
  let s := s.setReg (Reg.SEC_KEY slot) (BitVec.ofNat 64 ((if valid then 2 ^ 31 else 0) + role))
  s.setFld Reg.SEC_STAT ⟨24 + slot, 1⟩ (if valid then 1 else 0)

end State

/-- Key install (R379). -/
def execKeyInstall (s : State) : Out :=
  .next (s.awake .keyInstall fun s => s.signed 1 fun c s => s.setKey c.arg0 true c.arg1 c.pub)

/-- Key revoke (R379): a debug session that the key unlocked ends at once. -/
def execKeyRevoke (s : State) : Out :=
  .next (s.awake .keyRevoke fun s => s.signed 2 fun c s =>
    let s := s.setKey c.arg0 false 0 0
    if s.enclave.session = some c.arg0 then s.debugEnds else s)

/-- ID_PUB as SEC_BURGEE shows it before the install (R393). -/
def State.showIdPub (s : State) : State :=
  (List.range 4).foldl (fun s i => s.setReg (Reg.SEC_BURGEE (4 + i)) (BitVec.ofNat 64 (s.idPub / 2 ^ (64 * i)))) s

/-- A lifecycle transition (R376): debug is revoked and a warm reset applied. On the way to Returned every partition is
killed and scrubbed and the keys are erased. DESIGN CHOICE: log entry 85. -/
def State.transition (s : State) (target : Nat) : State :=
  let s := (s.setFld Reg.SEC_STAT Fld.SEC_STAT_LC target).debugEnds
  let s :=
    if target = 1 then
      let k := Config.freeWord s.free
      ({ s with free := s.free + 1 }.modEnclave fun e => { e with idKey := some k }).setFld Reg.SEC_STAT Fld.SEC_STAT_ID_KEY 1
        |>.showIdPub
    else if target = 3 then
      let s := (List.range 4).foldl (fun s i => s.setKey i false 0 0) s
      let s := (s.modEnclave fun e => { e with idKey := none }).setFld Reg.SEC_STAT Fld.SEC_STAT_ID_KEY 0
      (List.range 8).foldl (fun s x => ((if s.partExists x then s.resetCores x else s)).scrubTiers x) s
    else s
  (s.warmReset 5).returnScrubbed

def execLifecycleTransition (s : State) : Out :=
  .next (s.awake .lifecycleTransition fun s =>
    match s.signedCheck 3 with
    | (.ok c, s) => (s.secOk).transition c.arg0
    | (.error e, s) => s.secFail e)

/-! Debug (R385–R388). -/

namespace State

def dbgLevel (s : State) : Nat := s.fld Reg.DBG_STAT Fld.DBG_STAT_LEVEL
def dbgPart (s : State) : Nat := s.fld Reg.DBG_STAT Fld.DBG_STAT_PART

/-- A debug error (R392). -/
def dbgRefuse (s : State) (code : Nat) (addr : Nat) : State :=
  ((s.setFld Reg.DBG_ACC Fld.DBG_ACC_REFUSED 1).setFld Reg.DBG_ACC Fld.DBG_ACC_CODE code).report code none none addr

def setLevel (s : State) (level part : Nat) (slot : Option Nat) : State :=
  ((s.setFld Reg.DBG_STAT Fld.DBG_STAT_LEVEL level).setFld Reg.DBG_STAT Fld.DBG_STAT_PART part).modEnclave fun e =>
    { e with session := slot }

/-- A failed unlock is counted; the eighth locks (R386). -/
def unlockFails (s : State) : State :=
  let n := min 8 (s.fld Reg.DBG_STAT Fld.DBG_STAT_FAILS + 1)
  let s := s.setFld Reg.DBG_STAT Fld.DBG_STAT_FAILS n
  if n = 8 then s.setFld Reg.DBG_STAT Fld.DBG_STAT_LOCKED 1 else s

/-- A debug unlock (R386, R388). DEDUCED: log entry 96. -/
def unlock (s : State) : State :=
  if s.flag Reg.DBG_STAT Fld.DBG_STAT_LOCKED then (s.secFail 0x6703).dbgRefuse 0x6703 0
  else
    match s.signedCheck 4 with
    | (.ok c, s) =>
      ((s.setLevel c.arg0 (if c.arg0 = 2 then c.arg1 else 0) (if c.slot < 4 then some c.slot else none)).setFld Reg.DBG_STAT
        Fld.DBG_STAT_FAILS 0).secOk
    | (.error e, s) => (s.secFail e).unlockFails

/-- DBG_CTL.OBSERVE (R388): where no unlock is needed. -/
def observe (s : State) : State := if s.lifecycle = 2 then s.dbgRefuse 0x7702 Reg.DBG_CTL else s.setLevel 1 0 none

/-- A core operation under Full debug, within the partition (R385). -/
def dbgOnCore (s : State) (c : Nat) (f : State → State) : State :=
  if s.dbgLevel ≠ 2 then s.dbgRefuse 0x7702 Reg.DBG_CORE
  else if s.coreCtx c ≠ some s.dbgPart then s.dbgRefuse 0x6701 Reg.DBG_CORE
  else f s

/-- DBG_CORE.HALT: both streams stop at their next boundary. -/
def dbgHalt (s : State) (c : Nat) : State :=
  s.dbgOnCore c fun s => (s.stopCore c).modEnclave fun e => { e with touched := true }

/-- Where a stream goes on (R386): at its INDEX, past an instruction whose error halted it. -/
def dbgIndex (s : State) (c : Nat) (t : Strm) : State :=
  let e := Reg.STRM_ERR c (sidx t)
  if s.strmState c t = 3 ∧ s.flag e Fld.STRM_ERR_VALID ∧ s.fld e Fld.STRM_ERR_INDEX = s.strmIndex c t
      ∧ s.fld e Fld.STRM_ERR_BANK = s.strmBank c t then
    s.goTo c t (s.strmIndex c t + 1)
  else s

/-- A core may run: enabled, powered and not scrubbing. DEDUCED: log entry 97. -/
def dbgMayRun (s : State) (c : Nat) : Bool :=
  s.coreEnabled c && !s.flag (Reg.SP_SCRUB c) Fld.SP_SCRUB_BUSY && s.power.trip == 0

/-- DBG_CORE.RESUME: streams that do not run go on. DEDUCED: log entry 97. -/
def dbgResume (s : State) (c : Nat) : State :=
  let go (s : State) (t : Strm) : State :=
    if s.strmState c t = 1 then s else (s.dbgIndex c t).setStrmState c t 1
  s.dbgOnCore c fun s => if s.dbgMayRun c then (go (go s .access) .execute).pump c else s

/-- DBG_CORE.STEP: the instruction at INDEX issues, and the stream stops once it has completed.
DESIGN CHOICE: log entry 16; DEDUCED: log entry 97. -/
def dbgStep (s : State) (c : Nat) (t : Strm) : State :=
  s.dbgOnCore c fun s =>
    if s.strmState c t = 1 ∨ ¬ s.dbgMayRun c then s
    else
      let s := ((s.dbgIndex c t).setStrmState c t 1).setFld Reg.DBG_CORE Fld.DBG_CORE_DONE 0
      let s := s.issueNext c t
      if s.strmState c t = 1 ∨ s.strmState c t = 2 then
        (s.modStrm c t fun x => { x with stepping := true }).pump c
      else s

/-! Word accesses. -/

/-- A register that Observe shows (R385): counters and error records, all of whose fields are read-only or record flags,
the records of pennants and hoists, the DEBUG block. DEDUCED: log entry 96. -/
def observable (a : Nat) : Bool :=
  let debug := decide (Reg.DBG_STAT ≤ a) && decide (a < hostBase)
  let records := decide (globalBase ≤ a) && decide (a < globalBase + 0x100_0000)
  debug || records || match regFind a with
    | some (r, _, _) => r.fields.all fun f => f.access == .ro || f.access == .w1c
    | none => true

/-- The accumulator windows of a core's control space (R385): slot accumulators, accumulator file. -/
def accWord (s : State) (c off : Nat) : Word32 :=
  let k := s.core c
  if off < 0x8000 then mget k.slots 0 ((off - 0x7000) / 4) else mget k.acc 0 ((off - 0x8000) / 4)

def putAccWord (s : State) (c off : Nat) (v : Word32) : State :=
  s.modCore c fun k =>
    if off < 0x8000 then { k with slots := mset k.slots ((off - 0x7000) / 4) v }
    else { k with acc := mset k.acc ((off - 0x8000) / 4) v }

/-- A word of memory as Full debug reads it: a scrub hides nothing from it (R181, R232). An uncorrectable word is free. -/
def dbgMem (s : State) (l : Loc) (i : Nat) : Word32 × State :=
  let m := match l.space with
    | .near => s.near
    | .reach => s.reach
    | .spad => s.spad
  if s.gated l then (0, s)
  else if (s.ueLoc l).isSome then (BitVec.ofNat 32 (Config.freeNat s.free), { s with free := s.free + 1 })
  else (BitVec.ofNat 32 (memNat m (l.key + i) 4), s)

def dbgTouched (s : State) : State := s.modEnclave fun e => { e with touched := true }

/-- A word access to memory or to the accumulators under Full debug: read data, the state, and the refusal or 0.
DEDUCED: log entry 96. -/
def dbgData (s : State) (write : Bool) (a : Nat) (v : Word32) : Word32 × State × Nat :=
  if s.dbgLevel ≠ 2 then (0, s, 0x7702)
  else if inWindows a then
    let c := windowCore a
    if s.coreCtx c ≠ some s.dbgPart then (0, s, 0x6701)
    else if s.coreRuns c then (0, s, 0x7702)
    else if write then (v, (s.putAccWord c (a % 0x1_0000) v).dbgTouched, 0)
    else (s.accWord c (a % 0x1_0000), s, 0)
  else
    match s.place (a / 32 * 32) with
    | some (l, o) =>
      if o ≠ some s.dbgPart then (0, s, 0x6701)
      else if write then
        let i := a % 32
        let d : Sector := BitVec.ofNat 256 (v.toNat * 256 ^ i)
        (v, (s.stLoc l d (BitVec.ofNat 32 (15 * 2 ^ i))).1.dbgTouched, 0)
      else
        let r := s.dbgMem l (a % 32)
        (r.1, r.2, 0)
    | none => (0, s, 0x6701)

/-- An address of the accumulator windows, or of a memory. DEDUCED: log entry 96. -/
def isData (a : Nat) : Bool :=
  decide (a < ctrlBase) || (inWindows a && decide (0x7000 ≤ a % 0x1_0000))

/-- One word access (R385, R388): to memory, or a read of a register that Observe shows. -/
def dbgWord (s : State) (write : Bool) (a : Nat) (v : Word32) : Word32 × State × Nat :=
  if isData a then s.dbgData write a v
  else if s.dbgLevel = 0 ∨ write ∨ ¬ observable a then (0, s, 0x7702)
  else (s.readWord a, s, 0)

/-- DBG_ACC.GO. DEDUCED: log entry 96. -/
def dbgAccess (s : State) (write : Bool) : State :=
  let a := s.fld Reg.DBG_ADDR Fld.DBG_ADDR_ADDR / 4 * 4
  match s.dbgWord write a (BitVec.ofNat 32 (s.fld Reg.DBG_DATA Fld.DBG_DATA_DATA)) with
  | (d, s, code) =>
    let s := if write then s else s.setFld Reg.DBG_DATA Fld.DBG_DATA_DATA d.toNat
    let s := (s.setFld Reg.DBG_ACC Fld.DBG_ACC_DONE 1).setFld Reg.DBG_ACC Fld.DBG_ACC_REFUSED 0
    if code = 0 then s else s.dbgRefuse code a

end State

def execDebugUnlock (s : State) : Out := .next (s.awake .debugUnlock fun s => s.unlock)
def execDbgObserve (s : State) : Out := .next (s.awake .dbgObserve fun s => s.observe)
def execDbgClose (s : State) : Out := .next (s.awake .dbgClose fun s => s.debugEnds)
def execDbgHalt (c : CoreId) (s : State) : Out := .next (s.awake (.dbgHalt c) fun s => s.dbgHalt c.val)
def execDbgStep (c : CoreId) (t : Strm) (s : State) : Out := .next (s.awake (.dbgStep c t) fun s => s.dbgStep c.val t)
def execDbgResume (c : CoreId) (s : State) : Out := .next (s.awake (.dbgResume c) fun s => s.dbgResume c.val)
def execDbgRead (s : State) : Out := .next (s.awake .dbgRead fun s => s.dbgAccess false)
def execDbgWrite (s : State) : Out := .next (s.awake .dbgWrite fun s => s.dbgAccess true)

/-! The TAP (R389). -/

namespace State

/-- Whether an instruction code is available at the lifecycle and level. DEDUCED: log entry 98. -/
def tapAllows (s : State) (code : Nat) : Bool :=
  code == 0x01 || (code == 0x10 && decide (1 ≤ s.dbgLevel))
    || ((code == 0x02 || code == 0x03) && s.dbgLevel == 2 && (s.lifecycle == 0 || s.lifecycle == 3))

/-- An address of the enclave that no register of R393 has: its private store (R390). DEDUCED: log entry 98. -/
def enclavePrivate (a : Nat) : Bool :=
  decide (Reg.SEC_STAT ≤ a) && decide (a < Reg.DBG_STAT) && (regFind a).isNone

/-- A word written to the DEBUG block through DBGAP: the commands its bits give. -/
def dbgapDebug (s : State) (a : Nat) (v : Word32) : State :=
  let bit (i : Nat) : Bool := v.toNat / 2 ^ i % 2 == 1
  let c := v.toNat % 4096
  if a = Reg.DBG_CTL then if bit 30 then s.debugEnds else if bit 31 then s.observe else s
  else if a = Reg.DBG_CORE then
    let t := if bit 28 then Strm.execute else Strm.access
    let s := (s.setFld a Fld.DBG_CORE_STREAM (v.toNat / 2 ^ 28)).setFld a Fld.DBG_CORE_CORE c
    let s := if bit 31 then s.dbgHalt c else s
    let s := if bit 30 then s.dbgStep c t else s
    if bit 29 then s.dbgResume c else s
  else if a = Reg.DBG_ADDR then s.setReg a (BitVec.ofNat 64 ((s.reg a).toNat / 2 ^ 32 * 2 ^ 32 + v.toNat))
  else if a = Reg.DBG_ADDR + 4 then
    s.setReg Reg.DBG_ADDR (BitVec.ofNat 64 (v.toNat % 2 ^ 16 * 2 ^ 32 + (s.reg Reg.DBG_ADDR).toNat % 2 ^ 32))
  else if a = Reg.DBG_DATA then s.setFld a Fld.DBG_DATA_DATA v.toNat
  else if a = Reg.DBG_ACC then
    let s := s.setFld a Fld.DBG_ACC_WRITE (v.toNat / 2 ^ 30)
    let s := if bit 28 then s.setFld a Fld.DBG_ACC_REFUSED 0 else s
    if bit 31 then s.dbgAccess (bit 30) else s
  else s

/-- Update-DR of DBGAP. DEDUCED: log entry 98. -/
def dbgap (s : State) (dr : BitVec 81) : State :=
  let write := dr.toNat / 2 ^ 80 == 1
  let a := dr.toNat / 2 ^ 32 % 2 ^ 48 / 4 * 4
  let v : Word32 := dr.setWidth 32
  if s.lifecycle ≠ 0 ∧ enclavePrivate a then s.violation
  else if write ∧ Reg.DBG_STAT ≤ a ∧ a < hostBase then
    (s.dbgapDebug a v).modEnclave fun e => { e with tapRefused := false }
  else
    match s.dbgWord write a v with
    | (d, s, code) =>
      let s := s.modEnclave fun e => { e with tapData := if write then e.tapData else d, tapRefused := code != 0 }
      if code = 0 then s else s.dbgRefuse code a

end State

/-- A DBGAP access, where the TAP holds that instruction and the level still allows it. -/
def execDbgapAccess (dr : BitVec 81) (s : State) : Out :=
  .next (if s.enclave.tapIr = 0x10 ∧ s.tapAllows 0x10 ∧ ¬ s.boot.off then s.awake (.dbgapAccess dr) fun s => s.dbgap dr
    else s)

def execTapReset (s : State) : Out := .next (s.modEnclave fun e => { e with tapIr := 0x01 })

/-- Update-IR (R389): a code that is not available acts as BYPASS. -/
def execUpdateIr (code : Byte) (s : State) : Out :=
  .next (if s.boot.off then s
    else s.modEnclave fun e => { e with tapIr := if s.tapAllows code.toNat then code.toNat else 0xFF })

end Sys2Proof.Machine
end

