-- ==== Sys2Proof/Machine/HostIf.lean ====
section
/-! DEFINITION. The host interface: BAR0 and BAR2 accesses (R395–R397), the rings and their completions (R398–R400), ABI
negotiation (R401), DMA (R402), partitions (R405, R406), the host port's link and its functions (R394, R407). -/

namespace Sys2Proof.Machine

open Sys2Proof

/-! BAR2 (R397). -/

namespace State

/-- Device address of an offset of a function's BAR2, where the BAR covers it. DEDUCED: log entry 99. -/
def bar2Addr (s : State) (fn off len : Nat) : Option Nat :=
  if off + len ≤ 2 ^ (30 + mget s.bar2 11 fn) then some (s.fld (Reg.HF_BAR2_BASE fn) Fld.HF_BAR2_BASE_BASE + off) else none

/-- A sector of near or reach memory that a function reaches: the physical one any partition's, a virtual one its own. -/
def hostPlace (s : State) (fn a : Nat) : Option Loc :=
  match s.place a with
  | some (l, o) => if l.space ≠ .spad ∧ (fn = 0 ∨ (o.isSome ∧ o = s.vfCtx fn)) then some l else none
  | none => none

/-- A completion to the host. -/
def completes (s : State) (fn status : Nat) (data : List Byte) : State := s.emit (.completion fn status data)

/-- Sector addresses that a byte range touches. -/
def sectorsIn (a len : Nat) : List Nat :=
  if len = 0 then [] else (List.range ((a + len - 1) / 32 - a / 32 + 1)).map fun i => (a / 32 + i) * 32

/-- A host read through BAR2. -/
def bar2Read (s : State) (i : Instr) (fn off len : Nat) : State :=
  match s.bar2Addr fn off len with
  | none => s.completes fn 1 []
  | some a =>
    let qs := sectorsIn a len
    match qs.find? fun q => (s.hostPlace fn q).isNone with
    | some q => (s.report 0x7743 (s.vfCtx fn) none q).completes fn 1 []
    | none =>
      let ls := qs.filterMap (s.hostPlace fn)
      if ls.any s.gated && s.flag Reg.CLK_CFG Fld.CLK_CFG_GATE_ERR_COMPAT then s.gatedHost.completes fn 2 []
      else
        s.holdFor i ls <|
        match s.meshReads ls with
        | (s, _, some l) => (s.report 0x4741 (s.vfCtx fn) none l.addr).completes fn 2 []
        | (s, bs, none) => s.completes fn 0 ((bs.drop (a % 32)).take len)

/-- A host write through BAR2: what is unmapped is discarded and logged. DEDUCED: log entry 99. -/
def bar2Write (s : State) (fn off : Nat) (bs : List Byte) : State :=
  match s.bar2Addr fn off bs.length with
  | none => s
  | some a =>
    let qs := sectorsIn a bs.length
    let s1 := match qs.find? fun q => (s.hostPlace fn q).isNone with
      | some q => s.report 0x7743 (s.vfCtx fn) none q
      | none => s
    let s1 := if (qs.filterMap (s.hostPlace fn)).any s.gated then s1.gatedHost else s1
    qs.foldl (fun s1 q =>
      match s.hostPlace fn q with
      | some l => let p := sectorPart a bs q; s1.meshSt l p.1 p.2 [] (some fn)
      | none => s1) s1

/-- Context whose partition an access of a function touches. -/
def dmaCtx (s : State) (fn a : Nat) : Option Nat :=
  if fn = 0 then match s.place a with
    | some (_, o) => o
    | none => none
  else s.vfCtx fn

/-- Context that an access through BAR2 touches first. -/
def barCtx (s : State) (fn off len : Nat) : Option Nat :=
  (s.bar2Addr fn off len).bind fun a => s.dmaCtx fn (a - a % 32)

end State

def execHostBar2Read (fn : Fn) (off : BitVec 48) (len : Fin 4097) (s : State) : Out :=
  .next (s.awake (.hostBar2Read fn off len) fun s => (s.bar2Read (.hostBar2Read fn off len) fn.val off.toNat len.val).irrepro
    (s.barCtx fn.val off.toNat len.val))

def execHostBar2Write (fn : Fn) (off : BitVec 48) (data : List Byte) (s : State) : Out :=
  .next (s.awake (.hostBar2Write fn off data) fun s => (s.bar2Write fn.val off.toNat data).irrepro
    (s.barCtx fn.val off.toNat data.length))

/-! BAR0 (R395, R396). -/

/-- Device address of a BAR0 offset. -/
def bar0Addr (off : Nat) : Option Nat :=
  if off < 0x1000_0000 then some (globalBase + off)
  else if off < 0x1900_0000 then some (ctrlBase + (off - 0x1000_0000))
  else none

/-- Registers of the POWER and HOST blocks answer in every state but Off (R349). -/
def answersAsleep (a : Nat) : Bool :=
  (decide (Reg.PWR_STAT ≤ a) && decide (a < Reg.RST_STAT)) || (decide (hostBase ≤ a) && decide (a < hostBase + 0x100_0000))

/-- The boot buffer while the host path waits, and the flash window in recovery (R366, R370). -/
def bufBase : Nat := 0x0380_0730_0000
def flashBase : Nat := 0x0380_0740_0000

def State.inBootBuf (s : State) (a : Nat) : Bool :=
  s.boot.hostPath && decide (bufBase ≤ a) && decide (a < bufBase + 0x80_0000)

def State.inFlash (s : State) (a : Nat) : Bool :=
  s.inRecovery && !s.boot.hostPath && decide (flashBase ≤ a) && decide (a < Reg.SEC_STAT)

/-- A 32-bit word behind BAR0: a register, the boot buffer, the flash window. -/
def State.wordAt (s : State) (a : Nat) : Word32 :=
  if s.inBootBuf a then BitVec.ofNat 32 (memNat s.bootBuf (a - bufBase) 4)
  else if s.inFlash a then BitVec.ofNat 32 (memNat s.flash (a - flashBase) 4)
  else s.readWord a

def State.wordsAt (s : State) (a len : Nat) : List Byte :=
  natBytes ((s.wordAt a).toNat + if len = 8 then (s.wordAt (a + 4)).toNat * 2 ^ 32 else 0) len

/-- A host read through BAR0. -/
def State.bar0Read (s : State) (fn off len : Nat) : State :=
  if !((len == 4 || len == 8) && off % len == 0) then (s.report 0x7744 none none off).completes fn 1 []
  else
    match bar0Addr off with
    | none => s.completes fn 0 (natBytes 0 len)
    | some a0 =>
      let a := ownPage (.host (Fin.ofNat 9 fn)) a0
      if !s.inScope fn a then (s.report 0x6742 (s.vfCtx fn) none a).completes fn 0 (natBytes 0 len)
      else if s.regGated a then
        if s.flag Reg.CLK_CFG Fld.CLK_CFG_GATE_ERR_COMPAT then s.gatedHost.completes fn 2 []
        else s.completes fn 0 (natBytes 0 len)
      else (if inWindows a then s.irrepro (s.coreCtx (windowCore a)) else s).completes fn 0 (s.wordsAt a len)

def execHostBar0Read (fn : Fn) (off : BitVec 29) (len : Fin 9) (s : State) : Out :=
  let go (s : State) : State := s.bar0Read fn.val off.toNat len.val
  .next (match bar0Addr off.toNat with
    | some a => if answersAsleep a then go s else s.awake (.hostBar0Read fn off len) go
    | none => s.awake (.hostBar0Read fn off len) go)

/-! Completions (R399). -/

/-- Vectors of a function's table; one beyond it is taken as 1. -/
def vecOf (fn vec : Nat) : Nat := if vec < (if fn = 0 then 256 else 224) then vec else 1

/-- One completion entry written, and its interrupt. -/
def State.cplPut (s : State) (p : PendingCpl) : State :=
  let phase := if s.cplPhase.contains p.fn then 0 else 1
  let s := ringPut s p.fn 1 16
    (natBytes p.tag 4 ++ natBytes p.status 2 ++ natBytes p.op 1 ++ natBytes phase 1 ++ natBytes p.result 8)
  let s := if s.fld (Reg.HF_RING_PROD p.fn 1) Fld.HF_RING_PROD_INDEX = 0 then
      { s with cplPhase := if phase = 1 then p.fn :: s.cplPhase else s.cplPhase.filter (· != p.fn) }
    else s
  if p.irq then s.emit (.msix p.fn (vecOf p.fn p.vec)) else s

/-- Completions written in order while their ring has space; a function's others wait behind the first that must.
DEDUCED: log entry 100. -/
def drainCpls : List PendingCpl → List Nat → State → State
  | [], _, s => s
  | p :: ps, stuck, s =>
    if stuck.contains p.fn || !ringEn s p.fn 1 || ringFull s p.fn 1 then
      drainCpls ps (p.fn :: stuck) { s with cpls := s.cpls ++ [p] }
    else drainCpls ps stuck (s.cplPut p)

/-- DEDUCED: log entry 100. -/
def State.drain (s : State) : State := drainCpls s.cpls [] { s with cpls := [] }

/-- DEDUCED: log entry 100. -/
def State.complete (s : State) (p : PendingCpl) : State := { s with cpls := s.cpls ++ [p] }.drain

/-! Commands (R399, R400). -/

/-- The header of a command entry. -/
structure CmdHdr where
  op : Nat
  irq : Bool
  fence : Bool
  vec : Nat
  tag : Nat
  deriving DecidableEq, Repr

def cmdHdr (bs : List Byte) : CmdHdr :=
  { op := bytesAt bs 0 1, irq := bytesAt bs 1 1 % 2 == 1, fence := bytesAt bs 1 1 / 2 % 2 == 1, vec := bytesAt bs 2 2
    tag := bytesAt bs 4 4 }

def cplOf (fn : Nat) (h : CmdHdr) (status result : Nat) : PendingCpl := ⟨fn, h.tag, status, h.op, result, h.irq, h.vec⟩

/-- Reserved bits of FLAGS and unused bytes are zero (R399). -/
def reservedZero (bs : List Byte) : Bool :=
  let z (i n : Nat) : Bool := bytesAt bs i n == 0
  decide (bytesAt bs 1 1 < 4) && match bytesAt bs 0 1 with
    | 1 => z 0xC 52
    | 2 => decide (bytesAt bs 0xA 1 < 2) && z 0xB 1 && z 0x14 4 && z 0x28 24
    | 3 => true
    | _ => decide (bytesAt bs 9 1 < 2) && z 0xA 54

/-- An entry that a row may start: a known OP, allowed by the function's ABI, with reserved bytes zero (R400). -/
def State.cmdValid (s : State) (fn : Nat) (bs : List Byte) : Bool :=
  let op := bytesAt bs 0 1
  let open' := s.flag (Reg.HF_STAT fn) Fld.HF_STAT_OPEN
  let abi := s.fld (Reg.HF_STAT fn) Fld.HF_STAT_ABI
  decide (1 ≤ op) && decide (op ≤ 4) && (op == 1 || open') && (op != 3 || decide (0x0200 ≤ abi)) && reservedZero bs

/-- A command of a function has started and not completed. -/
def State.inFlight (s : State) (fn : Nat) : Bool :=
  (s.dmaCh.any fun (e : Nat × List DmaJob) => e.2.any fun j => j.fn == fn) || (s.cpls.any fun p => p.fn == fn)
    || s.kills.any fun (e : Nat × KillState) => e.2.cpls.any fun p => p.fn == fn

/-- The front entry of a function, unless its FENCE holds it. -/
def State.cmdFront (s : State) (fn : Nat) : Option (List Byte) :=
  match mget s.cmdq [] fn with
  | bs :: _ => if (cmdHdr bs).fence && s.inFlight fn then none else some bs
  | [] => none

def State.cmdPop (s : State) (fn : Nat) : State :=
  match (mget s.cmdq [] fn).drop 1 with
  | [] => { s with cmdq := mdel s.cmdq fn }
  | l => { s with cmdq := mset s.cmdq fn l }

/-- Entries at the front that no row starts complete with E_RING_CMD. -/
def ringAdvance (fn : Nat) : Nat → State → State
  | 0, s => s
  | n + 1, s =>
    match s.cmdFront fn with
    | some bs =>
      if s.cmdValid fn bs then s
      else ringAdvance fn n ((s.cmdPop fn).complete (cplOf fn (cmdHdr bs) 0x7745 0))
    | none => s

def State.advance (s : State) (fn : Nat) : State := ringAdvance fn (mget s.cmdq [] fn).length s

def State.advanceAll (s : State) : State := (List.range 9).foldl (fun s fn => s.advance fn) s

/-- The command a row starts: the front entry, where it is valid and has the row's OP. -/
def State.starts (s : State) (fn op : Nat) (f : List Byte → CmdHdr → State → State) : State :=
  match s.cmdFront fn with
  | some bs =>
    if s.cmdValid fn bs && bytesAt bs 0 1 == op && !s.d3.contains fn then
      (f bs (cmdHdr bs) (s.cmdPop fn)).advance fn
    else s
  | none => s

/-! Rings. -/

/-- Entries of a command ring from one index on. DEDUCED: log entry 100. -/
def ringEntries (s : State) (fn : Nat) : Nat → Nat → List (List Byte)
  | _, 0 => []
  | i, n + 1 =>
    memBytes s.hostMem ((s.reg (Reg.HF_RING_BASE fn 0)).toNat + i * 64) 64 :: ringEntries s fn ((i + 1) % ringSize s fn 0) n

/-- A doorbell (R398): the entries up to the new PROD are read. -/
def State.doorbell (s : State) (fn prod : Nat) : State :=
  if s.d3.contains fn then s
  else if ringSize s fn 0 ≤ prod then s.report 0x7745 (s.vfCtx fn) none prod
  else
    let s := s.setFld (Reg.HF_RING_PROD fn 0) Fld.HF_RING_PROD_INDEX prod
    if !ringEn s fn 0 then s
    else
      let c := s.fld (Reg.HF_RING_CONS fn 0) Fld.HF_RING_CONS_INDEX
      let new := ringEntries s fn c ((prod + ringSize s fn 0 - c) % ringSize s fn 0)
      let s := s.setFld (Reg.HF_RING_CONS fn 0) Fld.HF_RING_CONS_INDEX prod
      if new.isEmpty then s
      else { s with cmdq := mset s.cmdq fn (mget s.cmdq [] fn ++ new) }.advance fn

def execRingDoorbell (fn : Fn) (prod : BitVec 16) (s : State) : Out :=
  .next (s.awake (.ringDoorbell fn prod) fun s => s.doorbell fn.val prod.toNat)

/-- CONS of the completion or error ring (R398). -/
def State.consWrite (s : State) (fn r cons : Nat) : State :=
  if ringSize s fn r ≤ cons then s.report 0x7745 (s.vfCtx fn) none cons
  else (s.setFld (Reg.HF_RING_CONS fn r) Fld.HF_RING_CONS_INDEX cons).drain.advance fn

def execRingConsWrite (fn : Fn) (err : Bool) (cons : BitVec 16) (s : State) : Out :=
  .next (s.consWrite fn.val (if err then 2 else 1) cons.toNat)

/-! OPEN (R401). -/

def State.openCmd (s : State) (fn : Nat) (bs : List Byte) (h : CmdHdr) : State :=
  let a := Reg.HF_STAT fn
  let lo := s.fld Reg.HOST_ABI_RANGE Fld.HOST_ABI_RANGE_MIN
  let hi := s.fld Reg.HOST_ABI_RANGE Fld.HOST_ABI_RANGE_MAX
  let v := min (bytesAt bs 0xA 2) hi
  if s.flag a Fld.HF_STAT_OPEN ∧ s.inFlight fn then s.complete (cplOf fn h 0x7745 0)
  else if max (bytesAt bs 8 2) lo ≤ v then
    ((s.setFld a Fld.HF_STAT_OPEN 1).setFld a Fld.HF_STAT_ABI v).complete (cplOf fn h 0 v)
  else
    ((s.setFld a Fld.HF_STAT_OPEN 0).setFld a Fld.HF_STAT_ABI 0).complete
      (cplOf fn h 0x7747 ((lo * 2 ^ 16 + hi) * 2 ^ 16))

def execOpen (fn : Fn) (s : State) : Out := .next (s.starts fn.val 1 fun bs h s => s.openCmd fn.val bs h)

/-! DMA (R402). -/

/-- The function a channel is assigned to; 15 for none. -/
def State.chanFn (s : State) (ch : Nat) : Nat := (s.reg Reg.HOST_DMA_MAP).toNat / 16 ^ ch % 16

/-- A sector that a DMA command of a function reaches: the physical function any partition's, a virtual one its own. -/
def State.dmaPlace (s : State) (fn a : Nat) : Option Loc :=
  match s.place a with
  | some (l, o) => if o.isSome ∧ (fn = 0 ∨ o = s.vfCtx fn) then some l else none
  | none => none

def State.dmaStart (s : State) (fn : Nat) (bs : List Byte) (h : CmdHdr) : State :=
  let ch := bytesAt bs 8 1
  let len := bytesAt bs 0x10 4
  let host := bytesAt bs 0x18 8
  let dev := bytesAt bs 0x20 8
  let bad (code : Nat) : State := s.complete (cplOf fn h code 0)
  if 15 < ch ∨ s.chanFn ch ≠ fn ∨ 1 < bytesAt bs 9 1 ∨ len % 32 ≠ 0 ∨ host % 32 ≠ 0 ∨ dev % 32 ≠ 0 ∨ len < 32 then bad 0x7745
  else
    match s.dmaCtx fn dev with
    | none => bad 0x7743
    | some x =>
      if s.fld (Reg.PART_STAT x) Fld.PART_STAT_STATE = 2 then bad 0x7749
      else if (s.dmaPlace fn dev).isNone || (s.dmaPlace fn (dev + len - 32)).isNone then bad 0x7743
      else
        let j : DmaJob :=
          { fn := fn, tag := h.tag, vec := h.vec, irq := h.irq, toDevice := bytesAt bs 9 1 == 0
            pen := if bytesAt bs 0xA 1 = 1 then some (bytesAt bs 0xC 4) else none
            len := len, host := host, dev := dev, ctx := x, status := 0, moved := 0 }
        { s with dmaCh := mset s.dmaCh ch (mget s.dmaCh [] ch ++ [j]) }.irrepro (some x)

def execDma (fn : Fn) (s : State) : Out :=
  .next (s.starts fn.val 2 fun bs h s => s.dmaStart fn.val bs h)

/-- Sectors moved from offset `m` on, at most so many, until one stops the command: bytes moved, and the status.
DESIGN CHOICE: log entry 102. -/
def dmaMove (j : DmaJob) : Nat → Nat → State → State × Nat × Nat
  | 0, m, s => (s, m, 0)
  | n + 1, m, s =>
    if j.len ≤ m then (s, m, 0)
    else
      match s.dmaPlace j.fn (j.dev + m) with
      | none => (s, m, 0x7743)
      | some l =>
        if j.toDevice then dmaMove j n (m + 32) (s.meshSt l (memSector s.hostMem (j.host + m)) beAll)
        else
          match s.meshRead l with
          | (s, none) => (s, m, 0x4741)
          | (s, some d) => dmaMove j n (m + 32) { s with hostMem := memPut s.hostMem (j.host + m) (natBytes d.toNat 32) }

/-- The first command of a channel leaves it; a channel that is idle takes its new assignment (R409).
DEDUCED: log entry 100. -/
def State.chanNext (s : State) (ch : Nat) : State :=
  match (mget s.dmaCh [] ch).drop 1 with
  | [] => { s with dmaCh := mdel s.dmaCh ch }
  | l => { s with dmaCh := mset s.dmaCh ch l }

def State.dmaMapIdle (s : State) : State :=
  let a := Reg.HOST_DMA_MAP
  match s.held.find? fun h => h.addr == a with
  | none => s
  | some h =>
    let idle := (List.range 16).filter fun c => (mget s.dmaCh [] c).isEmpty
    let m : Word := BitVec.ofNat 64 (idle.foldl (fun m c => m + 15 * 16 ^ c) 0) &&& h.mask
    let rest := h.mask &&& ~~~m
    { s.setReg a (maskPut (s.reg a) m h.value) with
      held := if rest = 0 then s.held.filter fun x => x.addr != a
        else s.held.map fun x => if x.addr == a then { x with mask := rest } else x }

/-- The pennant of a DMA command that has moved everything (R402): its status. DESIGN CHOICE: log entry 102. -/
def State.dmaSignal (s : State) (j : DmaJob) : State × Nat :=
  match j.pen with
  | none => (s, 0)
  | some v =>
    match (if v < 4096 then s.penTranslate (some j.ctx) v else none) with
    | none => (s, 0x1404)
    | some k =>
      match s.penSignal k ⟨0, 0, 0, true⟩ 0 1 with
      | .ok s => (s, 0)
      | .error e => (s, penCode e)

/-- Places a DMA command reads or writes. -/
def State.dmaLocs (s : State) (j : DmaJob) : List Loc :=
  (List.range (j.len / 32)).filterMap fun k => s.dmaPlace j.fn (j.dev + 32 * k)

/-- A DMA command ends: every sector it wrote has completed. It stalls while a completion of its function waits (R399), and
while a pseudo-channel that it reaches is being margined (R229). DESIGN CHOICE: log entry 102. -/
def State.dmaDone (s : State) (ch : Nat) : State :=
  match mget s.dmaCh [] ch with
  | [] => s
  | j :: _ =>
    if (s.cpls.any fun p => p.fn == j.fn) || (!s.nearMargin.isEmpty && (s.dmaLocs j).any s.margined) then s
    else
      match dmaMove j (j.len / 32) 0 (s.irrepro (some j.ctx)) with
      | (s, moved, st) =>
        let r := if st = 0 then s.dmaSignal j else (s, st)
        let s := (r.1.chanNext ch).complete ⟨j.fn, j.tag, r.2, 2, moved, j.irq, j.vec⟩
        (s.dmaMapIdle.advance j.fn)

def execDmaDone (ch : Fin 16) (s : State) : Out := .next (s.dmaDone ch.val).pumpAll

/-! Partitions (R405, R406). -/

/-- Numbers of the bits set in a field of a command. -/
def maskBits (v n : Nat) : List Nat := (List.range n).filter fun i => v / 2 ^ i % 2 == 1

def setOwners (m : SMap Nat) (l : List Nat) (x : Nat) : SMap Nat := l.foldl (fun m k => mset m k x) m

/-- Every one of these is owned by nobody or by the context itself. -/
def freeFor (m : SMap Nat) (l : List Nat) (x : Nat) : Bool := l.all fun k => mfind m k == none || mfind m k == some x

/-- A resource is still being scrubbed. -/
def State.beingScrubbed (s : State) (isl pcs segs : List Nat) : Bool :=
  (s.cores.any fun (e : Nat × Core) => e.2.scrubbing && isl.contains (coreIsland e.1))
    || ((List.range 8).any fun n =>
        (s.flag (Reg.NEAR_SCRUB n) Fld.NEAR_SCRUB_BUSY || s.nearWait.contains n)
          && (s.setChannels n).any fun pc => pcs.contains pc)
    || segs.any fun k => s.flag (Reg.RCH_SEG (k / 16) (k % 16)) Fld.RCH_SEG_SCRUB

/-- The CTX fields of what a context owns: interleave sets over its channels, and aperture segments. -/
def State.writeCtx (s : State) (x : Nat) (pcs segs : List Nat) : State :=
  let s := (List.range 8).foldl (fun s n =>
    let ch := s.setChannels n
    if s.flag (Reg.NEAR_SET_CFG n) Fld.NEAR_SET_CFG_VALID && ch.all pcs.contains then
      s.setFld (Reg.NEAR_SET_CFG n) Fld.NEAR_SET_CFG_CTX x
    else s) s
  segs.foldl (fun s k => s.setFld (Reg.RCH_SEG (k / 16) (k % 16)) Fld.RCH_SEG_CTX x) s

/-- A partition comes into being, owning what is named. -/
def State.ownAll (s : State) (x vf : Nat) (isl pcs ports segs : List Nat) : State :=
  let a := Reg.PART_STAT x
  let s := (s.setFld a Fld.PART_STAT_STATE 1).setFld a Fld.PART_STAT_VF vf
  ({ s with
    killed := s.killed.filter (· != x)
    islOwner := setOwners s.islOwner isl x, pcOwner := setOwners s.pcOwner pcs x
    portOwner := setOwners s.portOwner ports x, segOwner := setOwners s.segOwner segs x }).writeCtx x pcs segs

/-- DEDUCED: log entry 101. -/
def State.partCreate (s : State) (fn : Nat) (bs : List Byte) (h : CmdHdr) : State :=
  let x := bytesAt bs 8 1
  let vf := bytesAt bs 9 1
  let isl := maskBits (bytesAt bs 0xA 9) 72
  let pcs := maskBits (bytesAt bs 0x13 32) 256
  let ports := maskBits (bytesAt bs 0x33 4) 32
  let segs := maskBits (bytesAt bs 0x37 8) 64
  let done (code : Nat) (s : State) : State := s.complete (cplOf fn h code 0)
  if fn ≠ 0 ∨ 7 < x ∨ 8 < vf then done 0x7745 s
  else if s.partExists x || (vf != 0 && (s.vfCtx vf).isSome) || isl.isEmpty || pcs.isEmpty then done 0x7748 s
  else if s.beingScrubbed isl pcs segs then done 0x7749 s
  else if !(freeFor s.islOwner isl x && freeFor s.pcOwner pcs x && freeFor s.portOwner ports x && freeFor s.segOwner segs x)
  then done 0x7748 s
  else done 0 ((s.ownAll x vf isl pcs ports segs).showAllowed)

def execPartCreate (fn : Fn) (s : State) : Out := .next (s.starts fn.val 3 fun bs h s => s.partCreate fn.val bs h)

/-- DMA commands that touch a partition are aborted: one that runs has moved a free number of sectors.
DESIGN CHOICE: log entry 102. -/
def State.abortDma (s : State) (x : Nat) : State :=
  let one (s : State) (ch : Nat) (first : Bool) (j : DmaJob) : State :=
    if j.ctx ≠ x then { s with dmaCh := mset s.dmaCh ch (mget s.dmaCh [] ch ++ [j]) }
    else
      let n := if first then Config.freeNat s.free % (j.len / 32 + 1) else 0
      match dmaMove j n 0 { s with free := s.free + 1 } with
      | (s, moved, _) => s.complete ⟨j.fn, j.tag, 0x074A, 2, moved, j.irq, j.vec⟩
  s.dmaCh.foldl (fun s (e : Nat × List DmaJob) =>
    match e.2 with
    | [] => s
    | j :: js => js.foldl (fun s j => one s e.1 false j) (one s e.1 true j)) { s with dmaCh := [] }

/-- A kill begins (R406). -/
def State.killBegins (s : State) (x : Nat) (k : KillState) : State :=
  let s := s.setFld (Reg.PART_STAT x) Fld.PART_STAT_STATE 2
  let s := (s.abortDma x).resetCores x
  let s := s.scrubTiers x
  let s := match s.imgLoad with
    | some j => if j.part = x then { s.setFld Reg.IMG_STAT Fld.IMG_STAT_STATE 0 with imgLoad := none } else s
    | none => s
  { s with kills := mset s.kills x k, killed := x :: s.killed.filter (· != x) }.dmaMapIdle

/-- The context owns something: a partition, or tier regions a warm reset has left it (R357).
DEDUCED: log entry 101. -/
def State.killable (s : State) (x : Nat) : Bool :=
  s.partExists x || s.pcOwner.any (fun e => e.2 == x) || s.segOwner.any fun e => e.2 == x

/-- DEDUCED: log entry 101. -/
def State.partKill (s : State) (fn : Nat) (bs : List Byte) (h : CmdHdr) : State :=
  let x := bytesAt bs 8 1
  let release := bytesAt bs 9 1 == 1
  let cpl := cplOf fn h 0 0
  if 7 < x ∨ (fn ≠ 0 ∧ s.vfCtx fn ≠ some x) ∨ ¬ s.killable x then s.complete { cpl with status := 0x7745 }
  else
    match mfind s.kills x with
    | some k => { s with kills := mset s.kills x { k with cpls := k.cpls ++ [cpl], release := k.release || release } }
    | none => s.killBegins x ⟨[cpl], release, s.tick⟩

def execPartKill (fn : Fn) (s : State) : Out :=
  .next (s.starts fn.val 4 fun bs h s => s.partKill fn.val bs h).pumpAll

/-- Every scrub of a context's cores and regions has ended. -/
def State.scrubsOver (s : State) (x : Nat) : Bool :=
  ((s.ctxCores x).all fun c => !(s.core c).scrubbing)
    && ((List.range 8).all fun n => s.setOwner n != some x
        || !(s.flag (Reg.NEAR_SCRUB n) Fld.NEAR_SCRUB_BUSY || s.nearWait.contains n))
    && (List.range 64).all fun k => s.segCtx (k / 16) (k % 16) != some x || !s.flag (Reg.RCH_SEG (k / 16) (k % 16)) Fld.RCH_SEG_SCRUB

/-- A virtual function is closed: its rings are disabled and its records stop. DEDUCED: log entry 101. -/
def State.closeVf (s : State) (vf : Nat) : State :=
  if vf = 0 then s
  else
    let s := (s.setFld (Reg.HF_STAT vf) Fld.HF_STAT_OPEN 0).setFld (Reg.HF_STAT vf) Fld.HF_STAT_ABI 0
    let s := (List.range 3).foldl (fun s r => s.setFld (Reg.HF_RING_CFG vf r) Fld.HF_RING_CFG_EN 0) s
    { s with cmdq := mdel s.cmdq vf, cpls := s.cpls.filter fun p => p.fn != vf }

/-- The resources of a context become free. -/
def State.releaseAll (s : State) (x : Nat) : State :=
  let vf := s.fld (Reg.PART_STAT x) Fld.PART_STAT_VF
  let keep (m : SMap Nat) : SMap Nat := m.filter fun e => e.2 != x
  ({ s.setReg (Reg.PART_STAT x) 0 with
    islOwner := keep s.islOwner, pcOwner := keep s.pcOwner, portOwner := keep s.portOwner, segOwner := keep s.segOwner
    landOwner := keep s.landOwner, images := mdel s.images x }).closeVf vf

/-- A kill completes (R406): RESULT is the time since it was taken, in µs. DEDUCED: log entry 101. -/
def State.killDone (s : State) (x : Nat) : State :=
  match mfind s.kills x with
  | none => s
  | some k =>
    if !s.scrubsOver x then s
    else
      let s1 := { s with kills := mdel s.kills x }
      let s1 := k.cpls.foldl (fun s1 p => s1.complete { p with result := (s.tick - k.start) / 100 }) s1
      let s1 := if s1.partExists x then s1.setFld (Reg.PART_STAT x) Fld.PART_STAT_STATE 1 else s1
      ((if k.release then s1.releaseAll x else s1).showAllowed).advanceAll

def execPartKillDone (p : Ctx) (s : State) : Out := .next (s.killDone p.val)

/-! The link and the functions (R394, R407). -/

def execHostLinkUp (flit : Bool) (rate : BitVec 4) (width : BitVec 5) (s : State) : Out :=
  let a := Reg.HOST_LINK
  .next ((((s.setFld a Fld.HOST_LINK_UP 1).setFld a Fld.HOST_LINK_FLIT (if flit then 1 else 0)).setFld a Fld.HOST_LINK_RATE
    rate.toNat).setFld a Fld.HOST_LINK_WIDTH width.toNat)

/-- The link goes down, as at a loss of PCIE_REFCLK: the functions start afresh, as the base specification lays down for a
link that is down (R352, R394). PRESUMED: log entry 92. -/
def execHostLinkDown (s : State) : Out := .next s.hostPortReset

/-- A configuration request (R407): a retry before the start completes; after it, D3hot and the size of BAR2 (R394, R397).
PRESUMED: log entry 92. -/
def State.configRequest (s : State) (fn : Nat) (d3hot : Option Bool) (bar2 : Option (Fin 12)) : State :=
  if !s.started then s.completes fn 3 []
  else
    let s := match d3hot with
      | some true => { s with d3 := fn :: s.d3.filter (· != fn) }
      | some false => { s with d3 := s.d3.filter (· != fn) }
      | none => s
    let s := match bar2 with
      | some k => { s with bar2 := mset s.bar2 fn k.val }
      | none => s
    s.completes fn 0 []

def execConfigurationRequest (fn : Fn) (d3hot : Option Bool) (bar2 : Option (Fin 12)) (s : State) : Out :=
  .next (s.configRequest fn.val d3hot bar2)

end Sys2Proof.Machine
end

