-- ==== Sys2Proof/Machine/Start.lean ====
section
/-! DEFINITION. The steps of a start (R366, R368), the judging of the crystals (R334, R335), PLLs, rails, firmware pairing
(R372, R373), training (R228) and the image of step 10. -/

namespace Sys2Proof.Machine

open Sys2Proof

namespace State

/-! Steps 2 to 4. -/

/-- The disabled-unit map of 288 bytes (R382), hashed. -/
def disabledMeas (s : State) : Hash :=
  Config.sha512 ((List.range 288).map fun i =>
    BitVec.ofNat 8 ((List.range 8).foldl (fun v j => if s.disabled.contains (8 * i + j) then v + 2 ^ j else v) 0))

/-- Step 3 (R365): host boot takes the host path; a flash boot without a correct header fails. -/
def readHeader (s : State) : State :=
  if s.hostBoot then s.takeHostHeader.enterHostPath
  else
    match s.flashHeader with
    | some h => (s.takeHeader h true).setStep 4
    | none => s.failStart 0x7681

/-! Firmware images (R371–R373). -/

/-- The header of a firmware image (R371); the bytes of the whole image. Interfaces by identifier and version, requirements
by identifier with lowest and highest version. -/
structure FwImage where
  kind : Nat
  version : Nat
  steppings : Nat
  provides : List (Nat × Nat)
  requires : List (Nat × Nat × Nat)
  sig : Hash
  bytes : List Byte
  deriving DecidableEq, Repr

/-- The image in `room` bytes of a memory (R371): MAGIC stands and the bytes that LENGTH names are there. -/
def fwImageAt (m : Mem) (a room : Nat) : Option FwImage :=
  let len := 256 + memNat m (a + 8) 8
  if memNat m a 4 = 0x46375652 ∧ len ≤ room then
    some
      { kind := memNat m (a + 4) 1, version := memNat m (a + 6) 2, steppings := memNat m (a + 0x10) 2
        provides := ((List.range 8).map fun i => (memNat m (a + 0x12 + 2 * i) 1, memNat m (a + 0x13 + 2 * i) 1)).filter
          fun x => x.1 != 0
        requires := ((List.range 8).map fun i => (memNat m (a + 0x22 + 3 * i) 1, memNat m (a + 0x23 + 3 * i) 1,
          memNat m (a + 0x24 + 3 * i) 1)).filter fun x => x.1 != 0
        sig := memHash m (a + 0x80), bytes := memBytes m a len }
  else none

/-- SHA-512 of the whole image with SIG read as zero, which Garsor signs (R371). -/
def FwImage.signed (f : FwImage) : Hash := Config.sha512 (f.bytes.take 0x80 ++ List.replicate 64 0 ++ f.bytes.drop 0xC0)

/-- The measurement of an image (R382). -/
def FwImage.measure (f : FwImage) : Hash := Config.sha512 f.bytes

/-- Images that follow one another from an address. -/
def fwChain (m : Mem) (room : Nat) : Nat → Nat → List (Option FwImage)
  | _, 0 => []
  | a, n + 1 =>
    let f := fwImageAt m a (room - a)
    f :: fwChain m room (a + match f with
      | some x => x.bytes.length
      | none => 256) n

/-- ENC, SUP and PWR as step 4 reads them (R364, R366): where the header names them in flash, or on the host path one after
the other from the start of the boot buffer. DESIGN CHOICE: log entry 112. -/
def fwImages (s : State) : List (Option FwImage) :=
  if s.hostBoot then fwChain s.bootBuf (2 ^ 23) 0 3
  else (List.range 3).map fun i =>
    let l := s.boot.hdr.fwLoc.getD i (0, 0)
    fwImageAt s.flash l.1 l.2

/-- An image stands where it belongs and Garsor's signature verifies (R372); a warm start does not verify an image that
measures as the log holds it (R368). DEDUCED: log entry 89. -/
def fwSigned (s : State) (i : Nat) (x : Option FwImage) : Bool :=
  match x with
  | none => false
  | some f =>
    f.kind == i && ((s.boot.warm && s.logEntry i == f.measure)
      || Config.ed25519Verify (Config.fusedKey s.enclave.fwKey) (hashBytes f.signed) f.sig)

/-- The stepping's own interface and code (R371). -/
def stepIface : Nat × Nat := (1, 1)
def stepCode : Nat := 0x00A1

/-- Every image supports the stepping, and another image or the stepping meets each of its requirements (R372). -/
def fwFit (l : List FwImage) : Bool :=
  l.all fun f =>
    f.steppings % 2 == 1 && f.requires.all fun r =>
      (stepIface :: (l.filter fun g => g.kind != f.kind).flatMap (·.provides)).any fun v =>
        v.1 == r.1 && decide (r.2.1 ≤ v.2) && decide (v.2 ≤ r.2.2)

/-- Place and length of the compatibility manifest (R364). -/
def manLoc (s : State) : Nat × Nat := s.boot.hdr.fwLoc.getD 3 (0, 0)

/-- The manifest lists a combination (R372): its MAGIC stands and Garsor's signature over all before it verifies. -/
def manLists (s : State) (vs : List Nat) : Bool :=
  let a := s.manLoc.1
  let n := memNat s.flash (a + 4) 4
  memNat s.flash a 4 == 0x4D375652 && decide (72 + 8 * n ≤ s.manLoc.2)
    && Config.ed25519Verify (Config.fusedKey s.enclave.fwKey)
      (hashBytes (Config.sha512 (memBytes s.flash a (8 + 8 * n)))) (memHash s.flash (a + 8 + 8 * n))
    && (List.range n).any fun i =>
      (List.range 4).map (fun j => memNat s.flash (a + 8 + 8 * i + 2 * j) 2) == vs ++ [stepCode]

/-- Step 5 begins: the header's judging modes, unless the host path has judged. -/
def enterClocks (s : State) : State :=
  let s := (s.setStep 5).modBoot fun b => { b with windows := 0, judged := false }
  if s.hostBoot then s
  else
    (s.setFld Reg.CLK_STAT Fld.CLK_STAT_XA_MODE (if s.boot.hdr.xaComp then 1 else 0)).setFld Reg.CLK_STAT
      Fld.CLK_STAT_XB_MODE (if s.boot.hdr.xbComp then 1 else 0)

/-- Firmware that step 4 has accepted runs: its versions, its measurements and whether the combination is tested. -/
def firmwareRuns (s : State) (l : List FwImage) (tested : Bool) : State :=
  let u := if tested then 0 else 1
  let v (i : Nat) : Nat := (l.map (·.version)).getD i 0
  let s := (s.setFld Reg.RST_STAT Fld.RST_STAT_UNTESTED u).setFld Reg.SEC_STAT Fld.SEC_STAT_UNTESTED u
  let s := ((s.setFld Reg.FW_VER Fld.FW_VER_ENC (v 0)).setFld Reg.FW_VER Fld.FW_VER_SUP (v 1)).setFld Reg.FW_VER Fld.FW_VER_PWR (v 2)
  let ms := l.map (·.measure) ++ [Config.sha512 (memBytes s.flash s.manLoc.1 s.manLoc.2)]
  (List.range 4).foldl (fun s i => s.setLog i (ms.getD i 0)) s

/-- Step 4 (R368, R372, R373): signatures, interfaces, pairing; then the log and the watchdog.
DEDUCED: log entry 89. -/
def firmwareDone (s : State) : State :=
  let images := s.fwImages
  let l := images.filterMap id
  let tested := s.manLists (l.map (·.version))
  if !((List.range 3).all fun i => s.fwSigned i (images.getD i none)) then s.failStart 0x6682
  else if !fwFit l then s.failStart 0x7684
  else if !tested && s.lifecycle == 2 then s.failStart 0x7683
  else
    let s := s.firmwareRuns l tested
    let s := s.modBoot fun b => { b with watchdog := true }
    if s.boot.warm then s.setStep 6 else s.enterClocks

/-! Step 5. -/

/-- The crystals are being judged: in step 5, or on the host path of a cold start. DEDUCED: log entry 88. -/
def judging (s : State) : Bool := !s.boot.warm && (s.startStep == 5 || s.boot.hostPath)

/-- A start without XB (R335): host boot with no boot flash. DEDUCED: log entry 88. -/
def xbMayLack (s : State) : Bool := s.hostBoot && !s.boot.hdrOk

/-- A crystal is judged stable. -/
def xtalOk (s : State) (f : FieldPos) : State := (s.setFld Reg.CLK_STAT f 1).hostPathGoes

/-- A settle count ends (R334). -/
def xtalSettled (s : State) (xb : Bool) : State :=
  let mode := if xb then Fld.CLK_STAT_XB_MODE else Fld.CLK_STAT_XA_MODE
  if s.judging && !s.flag Reg.CLK_STAT mode then s.xtalOk (if xb then Fld.CLK_STAT_XB_OK else Fld.CLK_STAT_XA_OK) else s

/-- Whether comparison can judge: both crystals by comparison, or one against the other that has been judged.
DEDUCED: log entry 88. -/
def compares (s : State) : Bool :=
  let f (x : FieldPos) : Bool := s.flag Reg.CLK_STAT x
  (f Fld.CLK_STAT_XA_MODE && f Fld.CLK_STAT_XB_MODE)
    || (f Fld.CLK_STAT_XA_MODE && f Fld.CLK_STAT_XB_OK) || (f Fld.CLK_STAT_XB_MODE && f Fld.CLK_STAT_XA_OK)

/-- A 1 ms window ends (R334): four in bounds in succession judge. No edge of XB in the first, where it may be absent, leaves
XA to a fixed delay (R335). DEDUCED: log entry 88. -/
def xtalWindow (s : State) (count : Nat) : State :=
  if !s.judging then s
  else
    let ppm : BitVec 16 := BitVec.ofInt 16 (((count : Int) - 50000) * 20)
    let s := s.setFld Reg.CLK_XB_PPM Fld.CLK_XB_PPM_PPM ppm.toNat
    let first := !s.boot.judged
    let s := s.modBoot fun b => { b with judged := true }
    if count = 0 ∧ first ∧ s.xbMayLack then s.setFld Reg.CLK_STAT Fld.CLK_STAT_XA_MODE 0
    else if !s.compares then s
    else
      let n := if 49990 ≤ count ∧ count ≤ 50010 then s.boot.windows + 1 else 0
      let s := s.modBoot fun b => { b with windows := n }
      if n < 4 then s
      else
        let s := if s.flag Reg.CLK_STAT Fld.CLK_STAT_XB_MODE then s.setFld Reg.CLK_STAT Fld.CLK_STAT_XB_OK 1 else s
        if s.flag Reg.CLK_STAT Fld.CLK_STAT_XA_MODE then s.xtalOk Fld.CLK_STAT_XA_OK else s.hostPathGoes

/-- 200 ms without a judgement (R334). An absent XB fails nothing. DEDUCED: log entry 88. -/
def xtalLate (s : State) (xb : Bool) : State :=
  let f := if xb then Fld.CLK_STAT_XB_OK else Fld.CLK_STAT_XA_OK
  if !s.judging || s.flag Reg.CLK_STAT f || (xb && s.xbMayLack && !s.flag Reg.CLK_STAT Fld.CLK_STAT_XA_MODE) then s
  else (s.clkErr 0x5601 (if xb then 1 else 0)).failStart 0x5601

/-- Step 5 ends: both crystals are judged, or XA alone where XB is absent. -/
def clocksDone (s : State) (xbPresent : Bool) : State :=
  if s.flag Reg.CLK_STAT Fld.CLK_STAT_XA_OK && (s.flag Reg.CLK_STAT Fld.CLK_STAT_XB_OK || (!xbPresent && s.xbMayLack)) then
    s.setStep 6
  else s

/-! Steps 6 to 9. -/

/-- Step 6: the PLLs lock, the port PLL with XB only; PWM to mid level; muster (R338). -/
def pllsDone (s : State) : State :=
  let s := s.setFld Reg.CLK_STAT Fld.CLK_STAT_PLL_LOCK (if s.xbOk then 0xFFFF else 0xEFFF)
  let s := (s.patternBoundary).setFld Reg.CLK_STAT Fld.CLK_STAT_MUSTER_DONE 1
  s.setStep 7

/-- Step 7 (R367): every rail on, every die at OPP0. In recovery the start ends here, with every block gated (R370).
DEDUCED: log entry 89. -/
def railsDone (s : State) : State :=
  let s := (List.range 10).foldl (fun s r =>
    (s.setFld (Reg.RAIL_STAT r) Fld.RAIL_STAT_ON 1).setFld (Reg.RAIL_STAT r) Fld.RAIL_STAT_PGOOD 1) s
  let s := { s with power := { s.power with pwmMid := false, trip := 0, sramMv := [750, 750, 750, 750] } }
  let s := { s with power := { s.power with coreMv := List.replicate 4 (oppMv 0) } }
  if s.boot.recovering then ((s.setReg Reg.CLK_EN_ISL 0).setReg Reg.CLK_EN_UNC 0).setStep 0
  else s.setStep 8

/-- A stack or reach port reuses its retained values where they qualify, and trains afresh otherwise (R228).
DEDUCED: log entry 111. -/
def trained (s : State) (u : Nat) (t : Trained) : State := if s.reuses u t then s else s.keepTraining u t

/-- One stack's training (R228). -/
def stackTrained (s : State) (h : Nat) (t : Trained) : State :=
  let a := Reg.NEAR_STAT h
  let src := if s.reuses h t then 2 else 1
  ((((s.setFld a Fld.NEAR_STAT_TRAINED 1).setFld a Fld.NEAR_STAT_TRAIN_SRC src).setFld a Fld.NEAR_STAT_TEMP t.temp.toNat).setFld a
    Fld.NEAR_STAT_SELFREF 0).trained h t

/-- One reach port's training: its device is in use up to 512 GiB (R223). -/
def reachTrained (s : State) (n : Nat) (t : Trained) (rate width cap : Nat) : State :=
  let a := Reg.RCH_STAT n
  (((((s.setFld a Fld.RCH_STAT_LINK_UP 1).setFld a Fld.RCH_STAT_DEV_OK 1).setFld a Fld.RCH_STAT_RATE rate).setFld a
    Fld.RCH_STAT_WIDTH width).setFld a Fld.RCH_STAT_CAP_GIB (min 512 cap)).trained (8 + n) t

/-- Step 8: a stack that fails ends the start; a reach port that fails stays down, as each does without XB. -/
def trainingDone (s : State) (perStack : List (Option Trained))
    (reach : List (Fin 4 × Trained × BitVec 4 × BitVec 5 × BitVec 10)) : State :=
  if perStack.any Option.isNone then s.failStart 0x4685
  else
    let s := ((List.range 8).zip (perStack.filterMap id)).foldl (fun s (x : Nat × Trained) => s.stackTrained x.1 x.2) s
    let s := if s.xbOk then
        reach.foldl (fun s (r : Fin 4 × Trained × BitVec 4 × BitVec 5 × BitVec 10) =>
          s.reachTrained r.1.val r.2.1 r.2.2.1.toNat r.2.2.2.1.toNat r.2.2.2.2.toNat) s
      else s
    s.setStep 9

/-! Step 10. -/

/-- Profile and role that the strap names (R360); the role of code 14 is P0's, and a worker's where P0 leaves it to the
strap. DESIGN CHOICE: log entry 91. -/
def strapProfile (s : State) : Nat := if s.strap < 8 then s.strap / 2 else if s.strap < 14 then (s.strap - 8) / 2 else 0

/-- DESIGN CHOICE: log entry 91. -/
def strapRole (s : State) : Nat :=
  if s.strap < 8 then 0
  else if s.strap < 14 then 1
  else
    let r := (s.profRecord 0).role
    if r < 3 then r else 0

/-- The image that step 10 loads at once: from boot flash; or in a warm start the one still held where the last load found
it (R368). DEDUCED: log entry 90. -/
def startImage (s : State) : Option ImgLoad :=
  let f := s.profRecord s.strapProfile
  if f.imgSrc = 0 then some ⟨0, 0, some (f.imgOff, f.imgLen)⟩
  else
    match s.boot.warm, s.boot.lastImg with
    | true, some (x, a) =>
      let j : ImgLoad := ⟨x, a, none⟩
      if s.imgMeas j (s.imgHdr j) = s.logEntry (6 + x) then some j else none
    | _, _ => none

/-- Step 10 begins: the profile takes force, and the image loads or is waited for (R324, R348, R366).
DEDUCED: log entry 90. -/
def enterImage (s : State) : State :=
  let s := (s.setStep 10).showProfiles
  let p := s.strapProfile
  if !s.profValid p then s.failStart 0x75CC
  else
    let s := (s.takeProfile p).setFld Reg.STEP_CTL Fld.STEP_CTL_ROLE s.strapRole
    let s := if s.boot.warm then s
      else (List.range 9).foldl (fun s fn => s.setReg (Reg.LAT_TOL fn) (BitVec.ofNat 64 (s.profRecord p).latTol)) s
    let s := s.showAllowed
    match s.startImage with
    | some j => { s.setFld Reg.IMG_STAT Fld.IMG_STAT_STATE 1 with imgLoad := some j }
    | none => s.modBoot fun b => { b with waitImage := true }

/-- Step 9: a cold start's self-test, a warm start's fill; both leave +0. -/
def selfTestDone (s : State) (ok : Bool) : State :=
  if !ok then s.failStart 0x4686 else { s with spad := [], spUe := [], spWeak := [] }.enterImage

/-- A load during step 10 makes its partition, where there is none, of what the image names; one that is to be folded takes
every island that nobody owns. DEDUCED: log entry 90. -/
def startPartition (s : State) (j : ImgLoad) (l : List (ImgSection × SectionBody)) : State :=
  let x := j.part
  let h := s.imgHdr j
  let b := gather (s.imgFn j h l) l
  let isl := if s.gridRows < h.rows then (List.range 72).filter fun i => (mfind s.islOwner i).isNone else b.islands
  if s.startStep = 10 ∧ ¬ s.partExists x ∧ freeFor s.islOwner isl x ∧ freeFor s.pcOwner b.channels x
      ∧ freeFor s.portOwner b.ports x ∧ freeFor s.segOwner b.segments x then
    s.ownAll x 0 isl b.channels b.ports b.segments
  else s

/-- The loader finishes (R320, R321): a refusal leaves what stood before; bodies that are not those of the table are no load's
end. DEDUCED: log entries 74, 90. -/
def imageDone (s0 : State) (j : ImgLoad) (img : List SectionBody) : State :=
  let s := { s0 with imgLoad := none }
  let secs := s.imgSections j (s.imgHdr j)
  let l := s.imgApplied secs img
  match s.imgFileCheck j with
  | 0 =>
    if !bodiesFit secs img then s0
    else
      let t := s.startPartition j l
      match t.imgPlaceCheck j l with
      | 0 => t.imageWrites j l
      | code => s.imageRefused j code
  | code => s.imageRefused j code

/-- Step 11 begins: every port that is not disabled trains, where XB runs (R335). -/
def enterLinks (s : State) : State :=
  let s := (s.setStep 11).modBoot fun b => { b with waitImage := false }
  if s.xbOk then (List.range 32).foldl (fun s p => if s.portDisabled p then s else s.portTrain p) s else s

/-- What the end of a load does to step 10: the next step; a failed start where the image lay in flash; else the wait for
the host goes on. DEDUCED: log entry 90. -/
def afterLoad (s : State) (flash : Bool) : State :=
  if s.startStep ≠ 10 then s
  else if s.fld Reg.IMG_STAT Fld.IMG_STAT_STATE = 3 then s.enterLinks
  else if flash then s.failStart (s.fld Reg.IMG_STAT Fld.IMG_STAT_CODE)
  else s.modBoot fun b => { b with waitImage := true }

/-- The loader finishes. DEDUCED: log entry 90. -/
def loadOver (s : State) (img : List SectionBody) : State :=
  match s.imgLoad with
  | none => s
  | some j =>
    let t := s.imageDone j img
    if t.imgLoad.isSome then t else t.afterLoad j.flash.isSome

/-! The end. -/

/-- A start completes (R366, R407); how long it took is free. DEDUCED: log entries 89, 90; PRESUMED: log entry 92. -/
def startOver (s : State) : State :=
  let a := Reg.RST_STAT
  let s := ((s.setFld a Fld.RST_STAT_STARTED 1).setFld a Fld.RST_STAT_STEP 0).setFld a Fld.RST_STAT_FSC 0
  let s := (s.setFld a Fld.RST_STAT_WARM (if s.boot.warm then 1 else 0)).addMod Reg.HOST_BOOT_ID Fld.HOST_BOOT_ID_COUNT 1
  { s.setFld Reg.START_TIME Fld.START_TIME_US (Config.freeNat s.free) with free := s.free + 1 }

/-- A start step ends and the next begins. DEDUCED: log entry 89. -/
def stepEnds (s : State) (r : StepResult) : State :=
  match s.startStep, r with
  | 0, _ => s
  | _, .failed code unit => (s.unitErr code.toNat unit.toNat).failStart code.toNat
  | 1, .done => s.setStep 2
  | 2, .done => (s.setLog 5 s.disabledMeas).setStep 3
  | 3, .done => if s.boot.hostPath then s else s.readHeader
  | 4, .done => s.firmwareDone
  | 5, .clocks xb => s.clocksDone xb
  | 6, .done => s.pllsDone
  | 7, .done => s.railsDone
  | 8, .training perStack reach => s.trainingDone perStack reach
  | 9, .selfTest ok => s.selfTestDone (ok || s.boot.warm)
  | 9, .done => if s.boot.warm then s.selfTestDone true else s
  | 11, .done => s.startOver
  | _, _ => s

/-- BOOT_GO (R366): the host path ends and step 4 reads the boot buffer. -/
def bootGo (s : State) : State :=
  if s.boot.hostPath && s.flag Reg.CLK_STAT Fld.CLK_STAT_XA_OK then
    (s.modBoot fun b => { b with hostPath := false }).setStep 4
  else s

end State

/-! The rows. -/

def execXtalSettleExpiry (xb : Bool) (s : State) : Out := .next (s.xtalSettled xb)
def execXtalJudgeWindow (count : BitVec 16) (s : State) : Out := .next (s.xtalWindow count.toNat)
def execXtalJudgeTimeout (xb : Bool) (s : State) : Out := .next (s.xtalLate xb)

/-- A PLL does not lock (R333): in step 6, or the system PLL on the host path. -/
def execPllLockTimeout (n : Fin 16) (s : State) : Out :=
  .next (if s.startStep = 6 ∨ s.boot.hostPath then (s.clkErr 0x5603 n.val).failStart 0x5603 else s)

/-- A rail does not report power good (R367): in step 7, or VPCIE on the host path. -/
def execRailPgoodTimeout (vcore : Bool) (r : Fin 10) (s : State) : Out :=
  let code := if vcore then 0x5644 else 0x5647
  .next (if s.startStep = 7 ∨ s.boot.hostPath then (s.pwrErr code r.val).failStart code else s)

def execImageLoadDone (img : List SectionBody) (s : State) : Out := .next (s.loadOver img)

def execBootGo (s : State) : Out := .next s.bootGo

end Sys2Proof.Machine
end

