-- ==== Sys2Proof/Machine/RegWrite.lean ====
section
/-! DEFINITION. A write of a register (R7, R8, R325–R329): its fields by their classes, the registers whose chapter adds a
rule, and the commands that bits of it give, which act as their own rows do. The boot buffer and the flash window are
written here too (R366, R370). -/

namespace Sys2Proof.Machine

open Sys2Proof

namespace State

/-! What a chapter adds to its registers' classes. -/

/-- A set or segment that is scrubbed, or waits to be, is not remapped (R232). -/
def scrubHolds (s : State) (name : String) (is : List Nat) (old v : Word) : Nat :=
  let n := is.headD 0
  let near := s.flag (Reg.NEAR_SCRUB n) Fld.NEAR_SCRUB_BUSY || s.nearWait.contains n
  let moved (fs : List FieldPos) : Bool := fs.any fun f => wordFld old f != wordFld v f
  match name with
  | "NEAR_SET_CFG" =>
    if near && moved [Fld.NEAR_SET_CFG_VALID, Fld.NEAR_SET_CFG_CTX, Fld.NEAR_SET_CFG_LOG2N] then 0x7483 else 0
  | "NEAR_SET_LIST" => if near && old != v then 0x7483 else 0
  | "RCH_SEG" =>
    if wordFld old Fld.RCH_SEG_SCRUB = 1 ∧ moved [Fld.RCH_SEG_VALID, Fld.RCH_SEG_CTX] = true then 0x74C3 else 0
  | _ => 0

/-- Clock enables of islands or blocks that run stay set (R339): the bits that a write may not clear.
DEDUCED: log entry 78. -/
def clockHolds (s : State) (name : String) (v : Word) : Word :=
  let old := s.reg (if name = "CLK_EN_ISL" then Reg.CLK_EN_ISL else Reg.CLK_EN_UNC)
  let island (i : Nat) : Bool := s.runningCores.any fun c => coreIsland c == i
  let tier (path : ReqPath) (own : Nat → Bool) : Bool := (List.range 8).any fun x => own x && s.tierRuns path x
  let near (h : Nat) : Bool := tier .near fun x => (List.range 8).any fun n =>
    s.setOwner n == some x && (s.setChannels n).any fun pc => pc / 32 == h
  let reach (n : Nat) : Bool := tier .reach fun x => (List.range 16).any fun i => s.segCtx n i == some x
  let group (g : Nat) : Bool := (List.range 4).any fun i =>
    let st := s.fld (Reg.NRL_STAT g i) Fld.NRL_STAT_STATE
    st == 3 || st == 5
  let runs (b : Nat) : Bool :=
    if name = "CLK_EN_ISL" then island b
    else if b < 8 then island (64 + b)
    else if b < 16 then near (b - 8)
    else if b < 20 then reach (b - 16)
    else group (b - 20)
  let bits := (List.range (if name = "CLK_EN_ISL" then 64 else 28)).filter fun b =>
    old.toNat / 2 ^ b % 2 == 1 && v.toNat / 2 ^ b % 2 == 0 && runs b
  BitVec.ofNat 64 (bits.foldl (fun m b => m + 2 ^ b) 0)

/-- Registers that act only on the manager (R281). DEDUCED: log entry 79. -/
def managerOnly (name : String) : Bool := name == "REC_BASE" || name == "REC_CFG" || name == "LOSS_ADDR"

/-- Fields that a rule keeps out of a write. -/
def keptFields (s : State) (name : String) (a : Nat) (v : Word) : Nat :=
  match name with
  | "PEN_VAL" => if s.flag (a + 8) Fld.PEN_CFG_KIND then fldMask ⟨32, 16⟩ else 0
  | "LPEN_VAL" => if s.flag (a + 8) Fld.LPEN_STAT_KIND then fldMask ⟨32, 16⟩ else 0
  | "STEP_CTL" => fldMask Fld.STEP_CTL_RUN
  | "IMEM_LD_CTL" => if wordFld v Fld.IMEM_LD_CTL_START = 1 then 2 ^ 32 - 1 else 0
  | "NEAR_MRG_CTL" => if wordFld v Fld.NEAR_MRG_CTL_START = 1 then 2 ^ 32 - 1 else 0
  | "RCH_MRG_CTL" => if wordFld v Fld.RCH_MRG_CTL_START = 1 then 2 ^ 32 - 1 else 0
  | "NRL_MRG_CTL" => if wordFld v Fld.NRL_MRG_CTL_START = 1 then 2 ^ 32 - 1 else 0
  | "LAT_TOL" => 2 ^ 32 - 1
  | "HF_RING_BASE" => if s.flag (a + 8) Fld.HF_RING_CFG_EN then 2 ^ 64 - 1 else 0
  | "HF_RING_CFG" => if s.flag a Fld.HF_RING_CFG_EN then fldMask Fld.HF_RING_CFG_LOG2 else 0
  | "HF_RING_PROD" => 2 ^ 32 - 1
  | "HF_RING_CONS" => 2 ^ 32 - 1
  | _ => 0

/-- The value a register takes from the one written. -/
def taken (s : State) (who : Writer) (name : String) (is : List Nat) (v : Word) : Word :=
  match name with
  | "PWR_LIMIT" => wordSet v Fld.PWR_LIMIT_LIMIT_W (clampLimit (wordFld v Fld.PWR_LIMIT_LIMIT_W))
  | "HF_BAR2_BASE" =>
    let n := 2 ^ (30 + mget s.bar2 11 (is.headD 0))
    BitVec.ofNat 64 (v.toNat / n * n)
  | "IMG_CTL" => wordSet v Fld.IMG_CTL_PART (s.imagePart who (wordFld v Fld.IMG_CTL_PART))
  | "SEC_CMD" =>
    match who with
    | .host fn => match s.vfCtx fn.val with
      | some x => wordSet v Fld.SEC_CMD_PART x
      | none => v
    | _ => v
  | _ => v

/-- What follows a write that a chapter names. -/
def afterWrite (s : State) (name : String) (is : List Nat) (a : Nat) : State :=
  let i0 := is.headD 0
  match name with
  | "NEAR_SET_CFG" => s.setFld (Reg.NEAR_SCRUB i0) Fld.NEAR_SCRUB_DONE 0
  | "CB_CFG" => s.combineCheck i0
  | "CB_HDR" => s.combineCheck i0
  | "CB_ROWS" => s.combineCheck i0
  | "HOST_DMA_MAP" => s.dmaMapIdle
  | "LPEN_VAL" => s.epochs i0
  | "PLAN_DL" => if i0 = 2 then s.exchDeadlines else s
  | "NRL_CTL" =>
    -- DISABLE acts at once while no step is in progress (R254)
    let p := 4 * i0 + is.getD 1 0
    if !s.inStep (s.portCtx p) && s.portDisabled p then s.portBoundary p else s
  | "HF_RING_CFG" =>
    if s.flag a Fld.HF_RING_CFG_EN then s.drain
    else if is.getD 1 0 = 0 then { s with cmdq := mdel s.cmdq i0 } else s
  | _ => s

/-- One write of a whole register: `v` carries all its bits. -/
def putWhole (s : State) (who : Writer) (r : RegSpec) (is : List Nat) (a : Nat) (v0 : Word) : State :=
  let v := s.taken who r.name is v0
  let e := s.scrubHolds r.name is (s.reg a) v
  if e ≠ 0 then s.report e none none a
  else if managerOnly r.name && !s.isManager then s
  else if r.name = "CLK_EN_ISL" ∨ r.name = "CLK_EN_UNC" then
    let stay := s.clockHolds r.name v
    let s1 := s.setReg a ((v ||| stay) &&& BitVec.ofNat 64 (accMask r fun x => x == .rws))
    if stay = 0 then s1 else s1.cfgError who (cfgLive r.block) a
  else
    let old := if r.name = "MR_NEXT" then s.hopWord (is.headD 0) (is.getD 1 0) else s.reg a
    (s.putReg who a r is old v (s.keptFields r.name a v)).afterWrite r.name is a

end State

/-! The commands that a register's bits give. -/

/-- The next state of an outcome; this block answers no other. DEDUCED: log entry 76. -/
def after (s : State) (o : Out) : State :=
  match o with
  | .next t => t
  | _ => s

def fnOf (who : Writer) : Fn :=
  match who with
  | .host fn => fn
  | _ => 0

/-- The signed command at SEC_ARG: which of the four rows its OP byte names. DEDUCED: log entry 93. -/
def State.signedRow (s : State) : Option Instr :=
  match (s.secArg 160).map fun bs => bytesAt bs 4 1 with
  | some 1 => some .keyInstall
  | some 2 => some .keyRevoke
  | some 3 => some .lifecycleTransition
  | some 4 => some .debugUnlock
  | _ => none

/-- Rows that a written value commands, in the order they act. DEDUCED: log entry 76. -/
def State.commandsOf (s : State) (who : Writer) (name : String) (is : List Nat) (v : Word) : List Instr :=
  let i0 := is.headD 0
  let i1 := is.getD 1 0
  let bit (i : Nat) : Bool := v.toNat / 2 ^ i % 2 == 1
  let c : CoreId := Fin.ofNat 2304 i0
  let t : Strm := if i1 = 0 then .access else .execute
  let p : Port := Fin.ofNat 32 (4 * i0 + i1)
  let g : Group := Fin.ofNat 8 i0
  let fn := fnOf who
  let w : Word32 := v.setWidth 32
  let cnd (b : Bool) (i : Instr) : List Instr := if b then [i] else []
  match name with
  | "CORE_CTL" => cnd (bit 1) (.coreStop c who) ++ cnd (bit 2) (.queueClear c who) ++ cnd (bit 0) (.coreStart c who)
  | "IMEM_LD_CTL" => cnd (bit 31) (.imemLoadStart c t who w)
  | "ARRAY_CTL" => cnd (bit 0) (.arrayCntClr c)
  | "NF_CTL" => cnd (bit 0) (.nfCntClr c)
  | "MASK_CTL" => cnd (bit 0) (.maskCntClr c)
  | "SP_CTL" => cnd (bit 0) (.spCntClr c)
  | "MR_CTL" => cnd (bit 0) (.mrCntClr c)
  | "DET_CTL" => cnd (bit 0) (.detCntClr c)
  | "EXP_CTL" => cnd (bit 0) (.expCntClr c)
  | "NEAR_CTL" => cnd (bit 0) (.nearCntClr g)
  | "RCH_CTL" => cnd (bit 0) (.rchCntClr (Fin.ofNat 4 i0))
  | "NRL_CTL" => cnd (bit 0) (.nrlCntClr p) ++ cnd (bit 1) (.nrlTrain p)
  | "NRL_CH_CTL" => cnd (bit 0) (.nrlChCntClr g)
  | "XCH_CTL" => cnd (bit 0) (.xchCntClr g)
  | "PWR_CTL" => cnd (bit 0) .pwrCntClr
  | "PEN_HOST_SIG" => [.penHostSig fn w]
  | "NEAR_MRG_CTL" => cnd (bit 31) (.nearMarginStart g w)
  | "RCH_MRG_CTL" => cnd (bit 31) (.rchMarginStart (Fin.ofNat 4 i0) w)
  | "NRL_MRG_CTL" => cnd (bit 31) (.nrlMarginStart p w)
  | "STEP_CTL" => [.stepRun (bit 31)] ++ cnd (bit 30) .stepSingle ++ cnd (bit 29) .stepHaltNow
  | "IMG_CTL" => cnd (bit 31) (.imageLoadStart who (Fin.ofNat 8 (wordFld v Fld.IMG_CTL_PART)))
  | "PROF_CMD" =>
    cnd (bit 31) (.profileSwitchCmd (Fin.ofNat 4 v.toNat) (s.stepActive || s.flag Reg.STEP_CTL Fld.STEP_CTL_RUN))
  | "LAT_TOL" => [.latTolWrite who (Fin.ofNat 9 i0) w]
  | "RST_CMD" =>
    cnd (bit 31) .hostWarmReset ++ cnd (bit 30) .coreArrayReset
      ++ cnd (bit 29) (.partitionReset (Fin.ofNat 8 (wordFld v Fld.RST_CMD_PART)))
      ++ cnd (bit 28) .recoveryRestart ++ cnd (bit 27) .bootGo ++ cnd (bit 26) .fscClr
  | "SEC_CMD" =>
    if !bit 31 then []
    else
      match wordFld v Fld.SEC_CMD_OP with
      | 1 => [.attest fn]
      | 2 => [.stepAttestRequest fn]
      | 3 => s.signedRow.toList
      | 4 => [.newChallenge]
      | 5 => [.installBurgee]
      | _ => []
  | "DBG_CTL" => cnd (bit 30) .dbgClose ++ cnd (bit 31) .dbgObserve
  | "DBG_CORE" =>
    let d : CoreId := Fin.ofNat 2304 (wordFld v Fld.DBG_CORE_CORE)
    cnd (bit 31) (.dbgHalt d) ++ cnd (bit 30) (.dbgStep d (if bit 28 then .execute else .access)) ++ cnd (bit 29) (.dbgResume d)
  | "DBG_ACC" => cnd (bit 31) (if bit 30 then .dbgWrite else .dbgRead)
  | "HF_RING_PROD" => cnd (i1 == 0) (.ringDoorbell (Fin.ofNat 9 i0) (v.setWidth 16))
  | "HF_RING_CONS" => cnd (i1 != 0) (.ringConsWrite (Fin.ofNat 9 i0) (i1 == 2) (v.setWidth 16))
  | _ => []

/-- SEC_CMD.GO with an OP that names no command, or a signed command that names none, is refused (R392, R393).
DEDUCED: log entry 93. -/
def State.secBad (s : State) (name : String) (v : Word) : Bool :=
  name == "SEC_CMD" && wordFld v Fld.SEC_CMD_GO == 1
    && (match wordFld v Fld.SEC_CMD_OP with
        | 3 => s.signedRow.isNone
        | op => op == 0 || decide (5 < op))

/-- The rows that registers' bits command, and those that a wake may hold (R349). DEDUCED: log entry 76. -/
def runRow (i : Instr) (s : State) : State :=
  after s (match i with
  | .coreStart c who => execCoreStart c who s
  | .coreStop c who => execCoreStop c who s
  | .queueClear c who => execQueueClear c who s
  | .imemLoadStart c t who v => execImemLoadStart c t who v s
  | .arrayCntClr c => execArrayCntClr c s
  | .nfCntClr c => execNfCntClr c s
  | .maskCntClr c => execMaskCntClr c s
  | .spCntClr c => execSpCntClr c s
  | .mrCntClr c => execMrCntClr c s
  | .detCntClr c => execDetCntClr c s
  | .nearCntClr h => execNearCntClr h s
  | .rchCntClr n => execRchCntClr n s
  | .nrlCntClr p => execNrlCntClr p s
  | .nrlChCntClr g => execNrlChCntClr g s
  | .xchCntClr g => execXchCntClr g s
  | .expCntClr c => execExpCntClr c s
  | .pwrCntClr => execPwrCntClr s
  | .penHostSig fn v => execPenHostSig fn v s
  | .nearMarginStart h v => execNearMarginStart h v s
  | .rchMarginStart n v => execRchMarginStart n v s
  | .nrlTrain p => execNrlTrain p s
  | .nrlMarginStart p v => execNrlMarginStart p v s
  | .flitReceive p f => execFlitReceive p f s
  | .stepRun v => execStepRun v s
  | .stepSingle => execStepSingle s
  | .stepHaltNow => execStepHaltNow s
  | .imageLoadStart who x => execImageLoadStart who x s
  | .profileSwitchCmd sel r => execProfileSwitchCmd sel r s
  | .latTolWrite who fn ns => execLatTolWrite who fn ns s
  | .inbandReset => execInbandReset s
  | .hostWarmReset => execHostWarmReset s
  | .coreArrayReset => execCoreArrayReset s
  | .partitionReset p => execPartitionReset p s
  | .recoveryRestart => execRecoveryRestart s
  | .bootGo => execBootGo s
  | .fscClr => execFscClr s
  | .attest fn => execAttest fn s
  | .stepAttestRequest fn => execStepAttestRequest fn s
  | .newChallenge => execNewChallenge s
  | .installBurgee => execInstallBurgee s
  | .keyInstall => execKeyInstall s
  | .keyRevoke => execKeyRevoke s
  | .lifecycleTransition => execLifecycleTransition s
  | .debugUnlock => execDebugUnlock s
  | .dbgObserve => execDbgObserve s
  | .dbgClose => execDbgClose s
  | .dbgHalt c => execDbgHalt c s
  | .dbgStep c t => execDbgStep c t s
  | .dbgResume c => execDbgResume c s
  | .dbgRead => execDbgRead s
  | .dbgWrite => execDbgWrite s
  | .dbgapAccess dr => execDbgapAccess dr s
  | .hostBar2Read fn off len => execHostBar2Read fn off len s
  | .hostBar2Write fn off bs => execHostBar2Write fn off bs s
  | .hostBar0Read fn off len => execHostBar0Read fn off len s
  | .nirloReadRequest p m => execNirloReadRequest p m s
  | .ringDoorbell fn prod => execRingDoorbell fn prod s
  | .ringConsWrite fn err cons => execRingConsWrite fn err cons s
  | _ => .next s)

/-! The write. -/

namespace State

/-- A whole register written, and the commands of its bits. -/
def regPut (s : State) (who : Writer) (r : RegSpec) (is : List Nat) (a : Nat) (v : Word) : State :=
  let s1 := s.putWhole who r is a v
  if s1.secBad r.name v then s1.secFail 0x76C2
  else (s1.commandsOf who r.name is v).foldl (fun s i => runRow i s) s1

/-- One 32-bit write: a register, half of a 64-bit one (R327), the boot buffer or the flash window.
DEDUCED: log entry 77. -/
def wordPut (s : State) (who : Writer) (a : Nat) (v : Word32) : State :=
  if s.inBootBuf a then { s with bootBuf := memPut s.bootBuf (a - bufBase) (natBytes v.toNat 4) }
  else if s.inFlash a then { s with flash := memPut s.flash (a - flashBase) (natBytes v.toNat 4) }
  else
    match regFind a with
    | none => s
    | some (r, is, b) =>
      let base := a - b
      if r.bytes = 4 then s.regPut who r is base (v.setWidth 64)
      else if b = 0 then { s with lowHalf := mset s.lowHalf base v }
      else
        let low : Word32 := (mfind s.lowHalf base).getD ((s.getReg base).setWidth 32)
        { s with lowHalf := mdel s.lowHalf base }.regPut who r is base (v ++ low)

/-- A write of 4 or 8 bytes that is aligned and gets through. DEDUCED: log entry 77. -/
def regPutAt (s : State) (who : Writer) (a : Nat) (wide : Bool) (v : Word) : State :=
  let whole : Option (RegSpec × List Nat) := match regFind a with
    | some (r, is, 0) => if r.bytes = 8 then some (r, is) else none
    | _ => none
  match wide, whole with
  | true, some (r, is) => { s with lowHalf := mdel s.lowHalf a }.regPut who r is a v
  | true, none => (s.wordPut who a (v.setWidth 32)).wordPut who (a + 4) ((v >>> 32).setWidth 32)
  | false, _ => s.wordPut who a (v.setWidth 32)

/-- A register write from anyone (R395, R396). DEDUCED: log entry 76. -/
def regWrite (s : State) (who : Writer) (a0 : Nat) (wide : Bool) (v : Word) : State :=
  let a := ownPage who a0
  let host : Bool := match who with
    | .host _ => true
    | _ => false
  if a % (if wide then 8 else 4) ≠ 0 then (if host then s.report 0x7744 none none a else s)
  else
    match s.passes who a with
    | (false, s) => s
    | (true, s) =>
      let s := if host && inWindows a then s.irrepro (s.coreCtx (windowCore a)) else s
      s.regPutAt who a wide v

end State

def execRegisterWrite (who : Writer) (addr : BitVec 48) (wide : Bool) (v : Word) (s : State) : Out :=
  let go (s : State) : State := s.regWrite who addr.toNat wide v
  .next (match who with
    | .host _ => if answersAsleep (ownPage who addr.toNat) then go s else s.awake (.registerWrite who addr wide v) go
    | _ => go s)

end Sys2Proof.Machine
end

