-- ==== Sys2Proof/Machine/Wake.lean ====
section
/-! DEFINITION. The end of a wake (R349) and of a start: the accesses that were held are served, in the order they came. And
the tick that passes when no command waits. -/

namespace Sys2Proof.Machine

open Sys2Proof

/-- One held access served. -/
def serveOne (s : State) (i : Instr) : State :=
  match i with
  | .registerWrite who a wide v => after s (execRegisterWrite who a wide v s)
  | i => runRow i s

namespace State

/-- The held accesses served. DEDUCED: log entry 82. -/
def serveHeld (s : State) : State :=
  s.power.asleep.foldl serveOne { s with power := { s.power with asleep := [] } }

/-- Registers that an exit from Deep keeps beside those of a warm reset: the functions' pages, the link, the channels, the
tolerances. DEDUCED: log entry 82. -/
def deepKeeps (a : Nat) : Bool :=
  (decide (hostBase + 0x1_0000 ≤ a) && decide (a < hostBase + 0xA_0000)) || a == Reg.HOST_LINK || a == Reg.HOST_DMA_MAP
    || (decide (Reg.LAT_TOL 0 ≤ a) && decide (a < Reg.LAT_TOL 9))

/-- An exit from Deep is a warm start; the host port stayed up, and what it holds is served once the start completes.
DEDUCED: log entry 82. -/
def deepExit (s : State) : State :=
  let t := s.warmReset 8
  { t with
    regs := s.regs.foldl (fun m e => if deepKeeps e.1 then mset m e.1 e.2 else m) t.regs
    lowHalf := s.lowHalf, cmdq := s.cmdq, cpls := s.cpls, cplPhase := s.cplPhase, d3 := s.d3, bar2 := s.bar2
    power := { t.power with asleep := s.power.asleep } }

/-- A wake's exit completes. DEDUCED: log entry 82. -/
def powerExit (s : State) : State :=
  if !s.power.waking then s
  else if s.pwrState = 4 ∧ ¬ s.power.reversed then s.deepExit
  else
    let muster := decide (2 ≤ s.pwrState)
    let s := if 3 ≤ s.pwrState then s.railsFollow else s
    let s := ((s.setFld Reg.PWR_STAT Fld.PWR_STAT_STATE 0).setFld Reg.PWR_STAT Fld.PWR_STAT_ENTERING 0).selfRefresh 0
    let s := if muster then s.patternBoundary.setFld Reg.CLK_STAT Fld.CLK_STAT_MUSTER_DONE 1 else s
    { s with power := { s.power with waking := false, reversed := false } }.serveHeld

end State

def execPowerStateExit (s : State) : Out := .next s.powerExit

/-- What waited for a margining run goes on (R229): the writes in their order, then the host and Nirlo reads. -/
def State.margEnds (s : State) : State :=
  let t := s.parked.foldl (fun t x => match t.place x.addr with
    | some (l, _) => t.meshSt l x.data x.be x.srcs x.fn
    | none => t) { s with parked := [] }
  s.margHeld.foldl serveOne { t with margHeld := [] }

def execNearMarginDone (h : Fin 8) (pass : BitVec 6) (errs : BitVec 16) (s : State) : Out :=
  let st := Reg.NEAR_MRG_STAT h.val
  .next (if s.flag st Fld.NEAR_MRG_STAT_BUSY then
    let s := ((s.setFld st Fld.NEAR_MRG_STAT_BUSY 0).setFld st Fld.NEAR_MRG_STAT_DONE 1).setFld st Fld.NEAR_MRG_STAT_PASS
      pass.toNat
    let s := s.setFld st Fld.NEAR_MRG_STAT_ERRS errs.toNat
    { s with nearMargin := mdel s.nearMargin h.val }.nearScrubs.margEnds
  else s)

/-! The tick. -/

/-- A wrong bit in a word that may hold one already: the second makes the word uncorrectable. -/
def spoil (k : Nat) (double : Bool) (weak ue : List Nat) : List Nat × List Nat :=
  if ue.contains k then (weak, ue)
  else if double || weak.contains k then (weak.filter (· != k), k :: ue)
  else (k :: weak, ue)

/-- What disturbs the memories between two commands (R68, R177, R219, R226) is open: a free number says whether a word of a
scratchpad, of near memory or of an accumulator has one or two wrong bits, whether a reach device answers a sector with poison
or not at all, or none of it. DESIGN CHOICE: log entry 23. -/
def State.upset (s : State) : State :=
  let n := Config.freeNat s.free
  let k := n / 8
  let s := { s with free := s.free + 1 }
  let sp := k % (nCores * 2 ^ 19)
  let nr := k % 2 ^ 34
  let two := n % 2 == 0
  match n % 8 with
  | 1 | 2 => let r := spoil sp two s.spWeak s.spUe; { s with spWeak := r.1, spUe := r.2 }
  | 3 | 4 => let r := spoil nr two s.nearWeak s.nearUe; { s with nearWeak := r.1, nearUe := r.2 }
  | 5 | 6 => s.modCore (k % nCores) fun c =>
      let r := spoil (k / nCores % (3 * 2 ^ 20)) two c.accWeak c.accUe
      { c with accWeak := r.1, accUe := r.2 }
  | 7 => { s with reachUe := mset s.reachUe (k / 2 % 2 ^ 36) (k % 2) }
  | _ => s

/-- What goes on by itself in a core (R121, R128, R175): its engine writes a free number of sectors, and each stream that runs
and holds nothing issues the instruction it stands at. DESIGN CHOICE: log entries 3, 16. -/
def State.coreTick (s : State) (c : Nat) : State :=
  let s := if (s.core c).engine.isNone then s
    else (engineGo c (Config.freeNat s.free) { s with free := s.free + 1 }).pump c
  [Strm.access, Strm.execute].foldl (fun s t => if s.strmState c t = 1 then s.issueNext c t else s) s

/-- Cores whose clock runs (R339, R352) go on, the scrubs of the tiers (R232)
and the links between steps (R248). -/
def State.goesOn (s : State) : State :=
  let s := (List.range nCores).foldl (fun s c =>
    if s.islEnabled (coreIsland c) && !s.power.xaLost then s.coreTick c else s) s
  let s := (List.range 8).foldl (fun s n => s.nearScrubGo n) s
  ((List.range 4).foldl (fun s n => s.reachScrubGo n) s).linksGo

/-- The counter of the tick (R257) advances by one, or by none or two where a correction stands. -/
def State.tickCounts (s : State) : State :=
  let n := if s.tickFix = 0 then 1 else if s.tickFix = 1 then 0 else 2
  { s.setReg Reg.TICK (s.reg Reg.TICK + BitVec.ofNat 64 n) with tickFix := 0 }

/-- A tick of the global time base, where the tick PLL is locked: the counter advances, and what goes on by itself does.
DESIGN CHOICE: log entry 3. -/
def State.tickPasses (s : State) : State :=
  if s.fld Reg.CLK_STAT Fld.CLK_STAT_PLL_LOCK / 2 ^ 15 = 0 then s else s.tickCounts.upset.goesOn

/-- A start step ends; at the end of the start, what a wake from Deep held is served. -/
def execStartStepDone (r : StepResult) (s : State) : Out :=
  let t := s.stepEnds r
  .next (if s.startStep = 11 ∧ t.started then t.serveHeld else t)

end Sys2Proof.Machine
end

