-- ==== Sys2Proof/Machine/Dispatch.lean ====
section
/-! DEFINITION. The meaning of every command: one arm per constructor, in the order of spec/opcode_table.json. -/

namespace Sys2Proof.Machine

open Sys2Proof

def exec (i : Instr) (s : State) : Host.Outcome State Fault Refusal :=
  match i with
  | .halt c t w => Sys2Proof.Machine.execHalt c t w s
  | .loop c t w => Sys2Proof.Machine.execLoop c t w s
  | .endl c t w => Sys2Proof.Machine.execEndl c t w s
  | .cset c t w => Sys2Proof.Machine.execCset c t w s
  | .cadd c t w => Sys2Proof.Machine.execCadd c t w s
  | .cmpb c t w => Sys2Proof.Machine.execCmpb c t w s
  | .sig c t w => Sys2Proof.Machine.execSig c t w s
  | .wait c t w => Sys2Proof.Machine.execWait c t w s
  | .ldq c t w => Sys2Proof.Machine.execLdq c t w s
  | .ldx c t w => Sys2Proof.Machine.execLdx c t w s
  | .stq c t w => Sys2Proof.Machine.execStq c t w s
  | .fill c t w => Sys2Proof.Machine.execFill c t w s
  | .copy c t w => Sys2Proof.Machine.execCopy c t w s
  | .send c t w => Sys2Proof.Machine.execSend c t w s
  | .hoist c t w => Sys2Proof.Machine.execHoist c t w s
  | .syncq c t w => Sys2Proof.Machine.execSyncq c t w s
  | .mmf c t w => Sys2Proof.Machine.execMmf c t w s
  | .mmt c t w => Sys2Proof.Machine.execMmt c t w s
  | .mmo c t w => Sys2Proof.Machine.execMmo c t w s
  | .scan c t w => Sys2Proof.Machine.execScan c t w s
  | .prr c t w => Sys2Proof.Machine.execPrr c t w s
  | .pred c t w => Sys2Proof.Machine.execPred c t w s
  | .aclr c t w => Sys2Proof.Machine.execAclr c t w s
  | .vop c t w => Sys2Proof.Machine.execVop c t w s
  | .red c t w => Sys2Proof.Machine.execRed c t w s
  | .topk c t w => Sys2Proof.Machine.execTopk c t w s
  | .cvt c t w => Sys2Proof.Machine.execCvt c t w s
  | .sta c t w => Sys2Proof.Machine.execSta c t w s
  | .cmpr c t w => Sys2Proof.Machine.execCmpr c t w s
  | .instructionFinish c u => Sys2Proof.Machine.execInstructionFinish c u s
  | .fillCopyEngineDone c => Sys2Proof.Machine.execFillCopyEngineDone c s
  | .readDataReturn id => Sys2Proof.Machine.execReadDataReturn id s
  | .writeAck id => Sys2Proof.Machine.execWriteAck id s
  | .queueDeadlock c => Sys2Proof.Machine.execQueueDeadlock c s
  | .coreStart c who => Sys2Proof.Machine.execCoreStart c who s
  | .coreStop c who => Sys2Proof.Machine.execCoreStop c who s
  | .queueClear c who => Sys2Proof.Machine.execQueueClear c who s
  | .imemLoadStart c t who v => Sys2Proof.Machine.execImemLoadStart c t who v s
  | .imemLoadDone c t => Sys2Proof.Machine.execImemLoadDone c t s
  | .arrayCntClr c => Sys2Proof.Machine.execArrayCntClr c s
  | .nfCntClr c => Sys2Proof.Machine.execNfCntClr c s
  | .maskCntClr c => Sys2Proof.Machine.execMaskCntClr c s
  | .spCntClr c => Sys2Proof.Machine.execSpCntClr c s
  | .mrCntClr c => Sys2Proof.Machine.execMrCntClr c s
  | .detCntClr c => Sys2Proof.Machine.execDetCntClr c s
  | .nearCntClr h => Sys2Proof.Machine.execNearCntClr h s
  | .rchCntClr n => Sys2Proof.Machine.execRchCntClr n s
  | .nrlCntClr p => Sys2Proof.Machine.execNrlCntClr p s
  | .nrlChCntClr g => Sys2Proof.Machine.execNrlChCntClr g s
  | .xchCntClr g => Sys2Proof.Machine.execXchCntClr g s
  | .expCntClr c => Sys2Proof.Machine.execExpCntClr c s
  | .pwrCntClr => Sys2Proof.Machine.execPwrCntClr s
  | .registerWrite who addr wide v => Sys2Proof.Machine.execRegisterWrite who addr wide v s
  | .spPatrol c bank word e => Sys2Proof.Machine.execSpPatrol c bank word e s
  | .remoteSpRequest id e => Sys2Proof.Machine.execRemoteSpRequest id e s
  | .coreScrubDone c => Sys2Proof.Machine.execCoreScrubDone c s
  | .pennantOp id => Sys2Proof.Machine.execPennantOp id s
  | .pennantWake c t => Sys2Proof.Machine.execPennantWake c t s
  | .pennantForward id => Sys2Proof.Machine.execPennantForward id s
  | .penHostSig fn v => Sys2Proof.Machine.execPenHostSig fn v s
  | .remoteSignal p m => Sys2Proof.Machine.execRemoteSignal p m s
  | .landingNotice src core => Sys2Proof.Machine.execLandingNotice src core s
  | .hoistArrival id => Sys2Proof.Machine.execHoistArrival id s
  | .hoistRelease c t => Sys2Proof.Machine.execHoistRelease c t s
  | .hoistDeparture id => Sys2Proof.Machine.execHoistDeparture id s
  | .deviceArrival h round => Sys2Proof.Machine.execDeviceArrival h round s
  | .deviceFinished h round => Sys2Proof.Machine.execDeviceFinished h round s
  | .crossDeviceRelease h round => Sys2Proof.Machine.execCrossDeviceRelease h round s
  | .redSector router port tag addr data => Sys2Proof.Machine.execRedSector router port tag addr data s
  | .flitLate router bulk waited => Sys2Proof.Machine.execFlitLate router bulk waited s
  | .nearRequest id e => Sys2Proof.Machine.execNearRequest id e s
  | .nearPatrol h pc e dieCorr => Sys2Proof.Machine.execNearPatrol h pc e dieCorr s
  | .tierWindow => Sys2Proof.Machine.execTierWindow s
  | .reachRequest id => Sys2Proof.Machine.execReachRequest id s
  | .reachCompletion id st => Sys2Proof.Machine.execReachCompletion id st s
  | .reachTimeout id => Sys2Proof.Machine.execReachTimeout id s
  | .reachLinkDown n => Sys2Proof.Machine.execReachLinkDown n s
  | .nearMarginStart h v => Sys2Proof.Machine.execNearMarginStart h v s
  | .nearMarginDone h pass errs => Sys2Proof.Machine.execNearMarginDone h pass errs s
  | .rchMarginStart n v => Sys2Proof.Machine.execRchMarginStart n v s
  | .rchMarginDone n pass errs => Sys2Proof.Machine.execRchMarginDone n pass errs s
  | .nearScrubDone s0 => Sys2Proof.Machine.execNearScrubDone s0 s
  | .reachScrubDone n => Sys2Proof.Machine.execReachScrubDone n s
  | .flitReceive p f => Sys2Proof.Machine.execFlitReceive p f s
  | .linkAckTimeout p => Sys2Proof.Machine.execLinkAckTimeout p s
  | .laneLockLoss p => Sys2Proof.Machine.execLaneLockLoss p s
  | .capabilityExchange p word => Sys2Proof.Machine.execCapabilityExchange p word s
  | .nrlTrain p => Sys2Proof.Machine.execNrlTrain p s
  | .nrlMarginStart p v => Sys2Proof.Machine.execNrlMarginStart p v s
  | .nrlMarginDone p pass errs => Sys2Proof.Machine.execNrlMarginDone p pass errs s
  | .passThrough p m => Sys2Proof.Machine.execPassThrough p m s
  | .nirloWriteMessage p m => Sys2Proof.Machine.execNirloWriteMessage p m s
  | .nirloReadRequest p m => Sys2Proof.Machine.execNirloReadRequest p m s
  | .nirloReadData p m => Sys2Proof.Machine.execNirloReadData p m s
  | .timeSyncMessage offset => Sys2Proof.Machine.execTimeSyncMessage offset s
  | .tickSyncExchange => Sys2Proof.Machine.execTickSyncExchange s
  | .tickUnsyncTimeout => Sys2Proof.Machine.execTickUnsyncTimeout s
  | .chainPartial p m => Sys2Proof.Machine.execChainPartial p m s
  | .chainLocalSector g tag addr data => Sys2Proof.Machine.execChainLocalSector g tag addr data s
  | .chainDeadline g c => Sys2Proof.Machine.execChainDeadline g c s
  | .shareSlot g c addr x0 x1 x2 x3 => Sys2Proof.Machine.execShareSlot g c addr x0 x1 x2 x3 s
  | .settleSlot g c addr sum => Sys2Proof.Machine.execSettleSlot g c addr sum s
  | .checkSlot g c addr hold => Sys2Proof.Machine.execCheckSlot g c addr hold s
  | .checkCompare g c slot sum flag => Sys2Proof.Machine.execCheckCompare g c slot sum flag s
  | .stepStartMessage m => Sys2Proof.Machine.execStepStartMessage m s
  | .stepT0 => Sys2Proof.Machine.execStepT0 s
  | .softDeadline ph => Sys2Proof.Machine.execSoftDeadline ph s
  | .hardTimeout ph => Sys2Proof.Machine.execHardTimeout ph s
  | .deviceReport rank k => Sys2Proof.Machine.execDeviceReport rank k s
  | .verifyReport rank r => Sys2Proof.Machine.execVerifyReport rank r s
  | .repeatMessage k => Sys2Proof.Machine.execRepeatMessage k s
  | .quiescentReport rank => Sys2Proof.Machine.execQuiescentReport rank s
  | .resumeMessage => Sys2Proof.Machine.execResumeMessage s
  | .reloadDone => Sys2Proof.Machine.execReloadDone s
  | .groupRecordHash grp h => Sys2Proof.Machine.execGroupRecordHash grp h s
  | .stepRun v => Sys2Proof.Machine.execStepRun v s
  | .stepSingle => Sys2Proof.Machine.execStepSingle s
  | .stepHaltNow => Sys2Proof.Machine.execStepHaltNow s
  | .routeWindowWrite c off data be => Sys2Proof.Machine.execRouteWindowWrite c off data be s
  | .routeBuild c => Sys2Proof.Machine.execRouteBuild c s
  | .routeBuildDone c => Sys2Proof.Machine.execRouteBuildDone c s
  | .combineHeader c lane data => Sys2Proof.Machine.execCombineHeader c lane data s
  | .combineRowSector c lane off data => Sys2Proof.Machine.execCombineRowSector c lane off data s
  | .imageLoadStart who part => Sys2Proof.Machine.execImageLoadStart who part s
  | .imageLoadDone img => Sys2Proof.Machine.execImageLoadDone img s
  | .profileSwitchCmd sel groupRuns => Sys2Proof.Machine.execProfileSwitchCmd sel groupRuns s
  | .patternBoundary => Sys2Proof.Machine.execPatternBoundary s
  | .muster => Sys2Proof.Machine.execMuster s
  | .oppSettle q => Sys2Proof.Machine.execOppSettle q s
  | .railSettleTimeout q => Sys2Proof.Machine.execRailSettleTimeout q s
  | .powerMeasure avg1us avg10ms => Sys2Proof.Machine.execPowerMeasure avg1us avg10ms s
  | .powerCapStep raise => Sys2Proof.Machine.execPowerCapStep raise s
  | .thermalSample temps => Sys2Proof.Machine.execThermalSample temps s
  | .thermalCapStep q raise => Sys2Proof.Machine.execThermalCapStep q raise s
  | .pmbusPoll r answered fault pgood mv => Sys2Proof.Machine.execPmbusPoll r answered fault pgood mv s
  | .vcoreToleranceTrip q high => Sys2Proof.Machine.execVcoreToleranceTrip q high s
  | .phaseLimitTrip q pp => Sys2Proof.Machine.execPhaseLimitTrip q pp s
  | .clockLoss xb => Sys2Proof.Machine.execClockLoss xb s
  | .powerStateEntry => Sys2Proof.Machine.execPowerStateEntry s
  | .powerStateExit => Sys2Proof.Machine.execPowerStateExit s
  | .latTolWrite who fn ns => Sys2Proof.Machine.execLatTolWrite who fn ns s
  | .hostLinkDown => Sys2Proof.Machine.execHostLinkDown s
  | .powerOnReset a0 a1 a2 a3 => Sys2Proof.Machine.execPowerOnReset a0 a1 a2 a3 s
  | .rstNAssert => Sys2Proof.Machine.execRstNAssert s
  | .rstNRelease a0 a1 a2 a3 => Sys2Proof.Machine.execRstNRelease a0 a1 a2 a3 s
  | .perstNAssert => Sys2Proof.Machine.execPerstNAssert s
  | .watchdogExpiry => Sys2Proof.Machine.execWatchdogExpiry s
  | .inbandReset => Sys2Proof.Machine.execInbandReset s
  | .hostWarmReset => Sys2Proof.Machine.execHostWarmReset s
  | .coreArrayReset => Sys2Proof.Machine.execCoreArrayReset s
  | .partitionReset p => Sys2Proof.Machine.execPartitionReset p s
  | .securityViolation => Sys2Proof.Machine.execSecurityViolation s
  | .startStepDone r => Sys2Proof.Machine.execStartStepDone r s
  | .xtalSettleExpiry xb => Sys2Proof.Machine.execXtalSettleExpiry xb s
  | .xtalJudgeWindow count => Sys2Proof.Machine.execXtalJudgeWindow count s
  | .xtalJudgeTimeout xb => Sys2Proof.Machine.execXtalJudgeTimeout xb s
  | .pllLockTimeout n => Sys2Proof.Machine.execPllLockTimeout n s
  | .railPgoodTimeout vcore r => Sys2Proof.Machine.execRailPgoodTimeout vcore r s
  | .bootGo => Sys2Proof.Machine.execBootGo s
  | .startRetry => Sys2Proof.Machine.execStartRetry s
  | .recoveryRestart => Sys2Proof.Machine.execRecoveryRestart s
  | .fscClr => Sys2Proof.Machine.execFscClr s
  | .attest fn => Sys2Proof.Machine.execAttest fn s
  | .stepAttestRequest fn => Sys2Proof.Machine.execStepAttestRequest fn s
  | .stepAttestRun => Sys2Proof.Machine.execStepAttestRun s
  | .stepAttestDone ue => Sys2Proof.Machine.execStepAttestDone ue s
  | .newChallenge => Sys2Proof.Machine.execNewChallenge s
  | .challengeExpiry => Sys2Proof.Machine.execChallengeExpiry s
  | .installBurgee => Sys2Proof.Machine.execInstallBurgee s
  | .keyInstall => Sys2Proof.Machine.execKeyInstall s
  | .keyRevoke => Sys2Proof.Machine.execKeyRevoke s
  | .lifecycleTransition => Sys2Proof.Machine.execLifecycleTransition s
  | .debugUnlock => Sys2Proof.Machine.execDebugUnlock s
  | .dbgObserve => Sys2Proof.Machine.execDbgObserve s
  | .dbgClose => Sys2Proof.Machine.execDbgClose s
  | .dbgHalt c => Sys2Proof.Machine.execDbgHalt c s
  | .dbgStep c t => Sys2Proof.Machine.execDbgStep c t s
  | .dbgResume c => Sys2Proof.Machine.execDbgResume c s
  | .dbgRead => Sys2Proof.Machine.execDbgRead s
  | .dbgWrite => Sys2Proof.Machine.execDbgWrite s
  | .dbgapAccess dr => Sys2Proof.Machine.execDbgapAccess dr s
  | .tapReset => Sys2Proof.Machine.execTapReset s
  | .hostBar2Read fn off len => Sys2Proof.Machine.execHostBar2Read fn off len s
  | .hostBar2Write fn off data => Sys2Proof.Machine.execHostBar2Write fn off data s
  | .ringDoorbell fn prod => Sys2Proof.Machine.execRingDoorbell fn prod s
  | .ringConsWrite fn err cons => Sys2Proof.Machine.execRingConsWrite fn err cons s
  | .openAbi fn => Sys2Proof.Machine.execOpen fn s
  | .dma fn => Sys2Proof.Machine.execDma fn s
  | .dmaDone ch => Sys2Proof.Machine.execDmaDone ch s
  | .partCreate fn => Sys2Proof.Machine.execPartCreate fn s
  | .partKill fn => Sys2Proof.Machine.execPartKill fn s
  | .partKillDone p => Sys2Proof.Machine.execPartKillDone p s
  | .vaonLoss => Sys2Proof.Machine.execVaonLoss s
  | .perstNRelease => Sys2Proof.Machine.execPerstNRelease s
  | .laneTrainingDone p lanes => Sys2Proof.Machine.execLaneTrainingDone p lanes s
  | .hostLinkUp flit rate width => Sys2Proof.Machine.execHostLinkUp flit rate width s
  | .hostBar0Read fn off len => Sys2Proof.Machine.execHostBar0Read fn off len s
  | .configurationRequest fn d3hot bar2 => Sys2Proof.Machine.execConfigurationRequest fn d3hot bar2 s
  | .powerStateEntryDone => Sys2Proof.Machine.execPowerStateEntryDone s
  | .tickAlignmentMessage down tick => Sys2Proof.Machine.execTickAlignmentMessage down tick s
  | .profileCheckRequest sel go => Sys2Proof.Machine.execProfileCheckRequest sel go s
  | .profileCheckReport rank sel valid => Sys2Proof.Machine.execProfileCheckReport rank sel valid s
  | .stepAttestReport rank => Sys2Proof.Machine.execStepAttestReport rank s
  | .updateIr code => Sys2Proof.Machine.execUpdateIr code s

end Sys2Proof.Machine
end

