-- ==== Sys2Proof/Safety.lean ====
section
/-! DEFINITION. What the statements call a sound state of the device, unchanged memory and registers, a core at which
nothing moves by itself, and a stream that may issue. -/

namespace Sys2Proof.Machine

open Sys2Proof

/-- Every memory of the device is in its canonical form. -/
def State.memoriesWf (s : State) : Prop :=
  Memory.wf s.near = true ∧ Memory.wf s.reach = true ∧ Memory.wf s.spad = true ∧ Memory.wf s.hostMem = true
    ∧ Memory.wf s.flash = true ∧ Memory.wf s.bootBuf = true

/-- Every byte of every memory but the scratchpads reads in `t` as it does in `s`. -/
def sameFar (s t : State) : Prop :=
  ∀ a : Nat, memGet t.near a = memGet s.near a ∧ memGet t.reach a = memGet s.reach a
    ∧ memGet t.hostMem a = memGet s.hostMem a ∧ memGet t.flash a = memGet s.flash a
    ∧ memGet t.bootBuf a = memGet s.bootBuf a

/-- Every byte of every memory reads in `t` as it does in `s`. -/
def sameMemory (s t : State) : Prop := sameFar s t ∧ ∀ a : Nat, memGet t.spad a = memGet s.spad a

/-- Outside the registers listed every register reads in `t` as in `s`. -/
def sameRegsBut (s t : State) (as : List Nat) : Prop := ∀ a, a ∉ as → t.reg a = s.reg a

/-- Only the registers listed read differently, and no memory does. -/
def framed (s t : State) (as : List Nat) : Prop := sameRegsBut s t as ∧ sameMemory s t

/-- Of the whole state only the registers listed read differently. -/
def onlyRegs (s t : State) (as : List Nat) : Prop := t = { s with regs := t.regs } ∧ sameRegsBut s t as

/-- What the cores hold, but for core `c`. -/
def sameCoresBut (s t : State) (c : Nat) : Prop := ∀ k, k ≠ c → t.core k = s.core k

/-- A stream holds nothing that it could go on with by itself. -/
def Hold.settled : Hold → Bool
  | .issue .. => false
  | .move _ => false
  | _ => true

/-- Nothing of a core moves by itself: its units, moves and held instructions are empty, no single step is under way,
its array shows idle, its combine unit is off; what is in flight in the memories may come back. -/
def State.coreCalm (s : State) (c : Nat) : Bool :=
  let k := s.core c
  k.units.isEmpty && k.pred.isNone && k.a.hold.settled && k.e.hold.settled && !k.a.stepping && !k.e.stepping
    && !s.flag (Reg.ARRAY_STAT c) Fld.ARRAY_STAT_BUSY && !s.flag (Reg.CB_CFG c) Fld.CB_CFG_EN && k.disarmAt.isNone

/-- Nothing of a core moves by itself, nothing of it is in flight, and it has asked for nothing. -/
def State.coreStill (s : State) (c : Nat) : Bool :=
  s.coreCalm c && (s.core c).flights.isEmpty && (s.core c).feeds.isEmpty

/-- Nothing of any core moves by itself. -/
def State.still (s : State) : Bool := s.cores.all fun e => s.coreStill e.1

/-- Nothing goes on by itself at a tick: no stream runs, no engine writes, no tier is scrubbed, no link waits to be trained. -/
def State.atRest (s : State) : Prop :=
  (∀ c < nCores, (∀ t : Strm, s.strmState c t ≠ 1) ∧ (s.core c).engine = none)
    ∧ (∀ n < 8, s.flag (Reg.NEAR_SCRUB n) Fld.NEAR_SCRUB_BUSY = false)
    ∧ (∀ n < 4, s.flag (Reg.RCH_SCRUB n) Fld.RCH_SCRUB_BUSY = false)
    ∧ ∀ p < 32, s.portState p ≠ 4 ∧ s.portState p ≠ 6

/-- A stream may issue this instruction: it runs and holds none, the opcode and its reserved bits are right (R127, R143),
and nothing else of its core moves. -/
def State.ready (s : State) (c : Nat) (t : Strm) (op : Nat) (w : Body) : Bool :=
  s.canIssue c t && !(s.strm c t).pastEnd && opAllowed op t && opReservedOk op w && s.coreStill c

/-- The stream has gone on to an index and holds nothing. -/
def State.wentTo (s : State) (c : Nat) (t : Strm) (i : Nat) : Prop :=
  s.strmIndex c t = i % 2048 ∧ (s.strm c t).pastEnd = decide (2048 ≤ i) ∧ (s.strm c t).hold = .free
    ∧ s.strmState c t = 1 ∧ s.fld (Reg.STRM_STAT c (sidx t)) Fld.STRM_STAT_WAITON = 0

/-- The stream holds, with the reason that WAITON shows. -/
def State.holdsOn (s : State) (c : Nat) (t : Strm) (h : Hold) (on : Nat) : Prop :=
  (s.strm c t).hold = h ∧ s.strmState c t = 1 ∧ s.fld (Reg.STRM_STAT c (sidx t)) Fld.STRM_STAT_WAITON = on

/-- A core's scratchpad answers plainly: the core is enabled, owned and clocked, no scrub runs, no word is
uncorrectable, its route window is off. -/
def State.spadOpen (s : State) (c : Nat) : Bool :=
  s.coreEnabled c && (s.coreCtx c).isSome && s.islEnabled (coreIsland c) && !s.scrubs c && s.spUe.isEmpty && s.spWeak.isEmpty
    && !s.flag (Reg.RT_CFG c) Fld.RT_CFG_EN

/-- A sector of a core's own scratchpad. -/
def ownSector (c a : Nat) : Bool := decide (spadAddr c 0 ≤ a) && decide (a + 32 ≤ spadAddr c 0 + 0x20_0000) && a % 32 == 0

/-- The first `n` sectors of a sequence lie in a core's own scratchpad. -/
def ownSeq (c : Nat) (d : Desc) (n : Nat) : Prop := ∀ i < n, ownSector c (d.sector i) = true

/-- The sector of the scratchpads at a device address. -/
def State.spadAt (s : State) (a : Nat) : Sector := memSector s.spad (a - spadBase)

/-- Outside the first `n` sectors of a sequence every byte of every memory reads as before. -/
def framedBut (s t : State) (d : Desc) (n : Nat) (as : List Nat) : Prop :=
  sameRegsBut s t as ∧ sameFar s t
    ∧ ∀ a, (∀ i < n, a < d.sector i ∨ d.sector i + 32 ≤ a) → spadBase ≤ a → memGet t.spad (a - spadBase) = memGet s.spad (a - spadBase)

/-- Outside the sectors of a sequence from the `m`-th up to the `n`-th every byte of every memory reads as before. -/
def framedFrom (s t : State) (d : Desc) (m n : Nat) (as : List Nat) : Prop :=
  sameRegsBut s t as ∧ sameFar s t
    ∧ ∀ a, (∀ i < n, m ≤ i → a < d.sector i ∨ d.sector i + 32 ≤ a) → spadBase ≤ a →
        memGet t.spad (a - spadBase) = memGet s.spad (a - spadBase)

/-- The index of the row that the `n`-th sector of LDX belongs to (R157, R158). -/
def ldxIndex (s : State) (x d : Desc) (n : Nat) : Nat :=
  (s.spadAt (x.sector (n / d.c0 / 8))).toNat / 2 ^ (32 * (n / d.c0 % 8)) % 2 ^ 32
/-- The sector that LDX reads as its `n`-th. -/
def ldxPlace (s : State) (x d : Desc) (n : Nat) : Nat :=
  (((d.base : Int) + ldxIndex s x d n * d.s1 + (n % d.c0 : Nat) * d.s0) % (2 ^ 48 : Int)).toNat

/-- The job that the execute stream hands to a unit: the operands of the instruction's issue, its number, its place, the
counters (R121, R129). -/
def State.jobOf (s : State) (c : Nat) (j : Job) : Job :=
  { j with
    iid := (s.core c).nextIid, index := s.strmIndex c .execute, bank := s.strmBank c .execute
    ctrs := (List.range 8).map fun k => s.cnt c .execute k }

/-- A unit takes what its instruction names from queues that hold all of it (R45, R125). -/
def State.takesAll (s : State) (c u : Nat) : List (Nat × Nat) → Job → Option (State × Job)
  | [], j => some (s, { j with takes := [] })
  | (q, n) :: rest, j =>
    let ds := s.qReady c q n
    if n = 0 then (s.setRun c u { j with takes := rest }).takesAll c u rest { j with takes := rest }
    else if ds.length ≠ n then none
    else
      let j := { j with
        got := ds.reverse ++ j.got
        took := if j.took.contains q then j.took else q :: j.took
        takes := rest }
      let s := (s.qDrop c q n).setRun c u j
      (if readsHdr j.op then s.modCore c fun k => { k with winLoad := j.loaded } else s).takesAll c u rest j

/-- The results for a return queue enter one that has space for all of them. -/
def State.putsAll (s : State) (c u : Nat) (j : Job) : List (Nat × Sector) → Option State
  | [] => some s
  | (q, d) :: rest =>
    if s.qSpace c q = 0 then none
    else ((s.qPush c q [d]).setRun c u { j with outs := rest }).putsAll c u j rest

/-- The parts of an instruction one after the other, each with the queue sectors that it needs, then its results. None where
one would wait or fail. -/
def State.partsAll (s : State) (c u : Nat) : Nat → Job → Option State
  | 0, _ => none
  | n + 1, j =>
    match s.takesAll c u j.takes j with
    | none => none
    | some (s, j) =>
      if j.op == 0x24 && j.drain && s.outstanding c j.iid then none
      else
        let r := jobPart (s.accessing c (.job j.iid)) c j
        let j := { r.j with outs := r.q }
        let s := (r.s.setRun c u j).dropFeeds c (.job j.iid)
        if r.err.isSome || (!j.computed && !j.outs.isEmpty) then none
        else if j.computed then (if j.fail.isSome then none else s.putsAll c u j j.outs)
        else s.partsAll c u n j

/-- What an instruction does that its unit, free and with nothing else of the core under way, runs to its end (R121, R125):
it reads its header, starts, goes through its parts and puts out its results. None where it would wait or fail; no
instruction comes near the bound on its parts. -/
def State.runsAlone (s : State) (c u : Nat) (j : Job) : Option State :=
  let s := (((s.accessing c (.issue .execute)).dropFeeds c (.issue .execute)).setUnit c u ⟨some j, none⟩).issued c .execute
  let s := s.showArray c false
  let planned : Option (State × Job) :=
    if readsHdr j.op then
      let s := s.accessing c (.job j.iid)
      match jobPlan s c j with
      | .error _ => none
      | .ok j => if j.hdrs.isEmpty then none else some ((s.setRun c u j).dropFeeds c (.job j.iid), j)
    else some (s, j)
  match planned with
  | none => none
  | some (s, j) =>
    let r := jobBegin s c j
    let j := { r.2 with started := true }
    let s := r.1.setRun c u j
    (if u = 0 then s.showArray c true else s).partsAll c u (2 ^ 30) j

/-- The execute instructions and their opcodes (R132). -/
def executeInstrs : List (Nat × (CoreId → Strm → Body → Instr)) :=
  [(0x20, .mmf), (0x21, .mmt), (0x22, .mmo), (0x23, .scan), (0x24, .prr), (0x25, .pred), (0x26, .aclr), (0x28, .vop),
   (0x29, .red), (0x2A, .topk), (0x2B, .cvt), (0x2C, .sta), (0x2D, .cmpr)]

/-- The streams' own and the access stream's instructions and their opcodes (R130, R131). -/
def streamInstrs : List (Nat × (CoreId → Strm → Body → Instr)) :=
  [(0x01, .halt), (0x02, .loop), (0x03, .endl), (0x04, .cset), (0x05, .cadd), (0x06, .cmpb), (0x07, .sig), (0x08, .wait),
   (0x10, .ldq), (0x11, .ldx), (0x12, .stq), (0x13, .fill), (0x14, .copy), (0x15, .send), (0x16, .hoist), (0x17, .syncq)]

/-- A command that a writer gives by a register write is heard: a host's while the part is awake, in its scope, and of a
block that is clocked (R340, R349, R396). -/
def State.hears (s : State) (who : Writer) (a : Nat) : Bool :=
  (s.passes who a).1 && (match who with
    | .host _ => s.pwrState == 0
    | _ => true)

/-- A memory with the enabled bytes of a sector written at `key`, every other byte as before. -/
def wroteBytes (m m' : Mem) (key : Nat) (d : Sector) (be : Word32) : Prop :=
  ∀ a, memGet m' a = if key ≤ a ∧ a < key + 32 ∧ be.toNat / 2 ^ (a - key) % 2 = 1
    then BitVec.ofNat 8 (d.toNat / 256 ^ (a - key)) else memGet m a

/-- A request now stands at `st`; the others are as they were. -/
def restaged (s t : State) (id : Nat) (st : ReqStage) : Prop :=
  t.reqs = s.reqs.map fun r => if r.id = id then { r with stage := st } else r

/-- A register whose writes follow its fields' classes alone (R8): no chapter adds a rule for it or a command in it. -/
def State.plainWrite (s : State) (who : Writer) (r : RegSpec) (is : List Nat) (a : Nat) (v : Word) : Prop :=
  s.scrubHolds r.name is (s.reg a) v = 0 ∧ managerOnly r.name = false ∧ r.name ≠ "CLK_EN_ISL" ∧ r.name ≠ "CLK_EN_UNC"
    ∧ r.name ≠ "MR_NEXT" ∧ s.keptFields r.name a v = 0 ∧ s.taken who r.name is v = v ∧ (∀ t : State, t.afterWrite r.name is a = t)
    ∧ (∀ t : State, t.commandsOf who r.name is v = []) ∧ (∀ t : State, t.secBad r.name v = false)

/-- The place of a field. -/
def FieldSpec.pos (f : FieldSpec) : FieldPos := ⟨f.lo, f.width⟩

/-- Fields of registers cleared, and nothing else of the whole state. -/
def cleared (s t : State) (xs : List (Nat × FieldPos)) : Prop :=
  t = { s with regs := t.regs } ∧ (∀ x ∈ xs, t.fld x.1 x.2 = 0)
    ∧ ∀ (a : Nat) (g : FieldPos), (∀ x ∈ xs, x.1 = a → g.lo + g.width ≤ x.2.lo ∨ x.2.lo + x.2.width ≤ g.lo) →
        t.fld a g = s.fld a g

/-- An error of the instruction that stream `st` is issuing has halted the core (R149): both streams show state 3, and the
error record of the stream holds it where it was free. -/
def haltedBy (s t : State) (c : Nat) (st : Strm) (code : Nat) : Prop :=
  t.strmState c .access = 3 ∧ t.strmState c .execute = 3
    ∧ (s.flag (Reg.STRM_ERR c (sidx st)) Fld.STRM_ERR_VALID = false →
        t.reg (Reg.STRM_ERR c (sidx st))
          = BitVec.ofNat 64 (2 ^ 31 + s.strmBank c st * 2 ^ 27 + s.strmIndex c st * 2 ^ 16 + code))

/-- The value of a comparator (R140): its relation over the counter it reads and its reference, counters unsigned but
under LTS and GES. -/
def comparatorIs (s : State) (c : Nat) (t : Strm) (k : Nat) (b : Bool) : Prop :=
  let v := s.cnt c t (s.fld (Reg.COMP_CFG c (sidx t)) (compSel k))
  let r := (s.reg (Reg.COMP_REF c (sidx t) k)).toNat
  let x (n : Nat) : Int := (BitVec.ofNat 32 n).toInt
  match s.fld (Reg.COMP_CFG c (sidx t)) (compRel k) with
  | 0 => b = decide (v = r)
  | 1 => b = decide (v ≠ r)
  | 2 => b = decide (v < r)
  | 3 => b = decide (r ≤ v)
  | 4 => b = decide (x v < x r)
  | 5 => b = decide (x r ≤ x v)
  | _ => False

/-- A signal has changed a shared pennant: its value, the record of who signalled last, the tick (R183, R186). -/
def signalled (s t : State) (k v : Nat) : Prop :=
  t.penVal k = v ∧ t.penCounting k = s.penCounting k
    ∧ t.fld (Reg.PEN_LAST (k / 8192) (k % 8192)) Fld.PEN_LAST_VALID = 1
    ∧ (t.reg (Reg.PEN_TICK (k / 8192) (k % 8192))).toNat = s.tick

/-- The registers that a signal at a shared pennant changes. -/
def penRegs (k : Nat) : List Nat := [penValReg k, Reg.PEN_LAST (k / 8192) (k % 8192), Reg.PEN_TICK (k / 8192) (k % 8192)]

/-- No stream waits at any bank, and nothing is on its way to one. -/
def State.quietBanks (s : State) : Prop := s.penTable = [] ∧ s.penMsgs = []

/-- The port that a message for another rank leaves by at once: of its direction's ports in service the one that its source
and destination choose, up, with credits, retry room and nothing waiting (R239, R240, R244). -/
def State.sendsBy (s : State) (x : Option Nat) (m : Msg) (q : Nat) : Bool :=
  s.nirloPort x m.dst.toNat m.srcCore.toNat == some q && s.portReady q m && !s.power.xbLost
    && (s.port q).txq.isEmpty && (s.port q).part.isEmpty && (s.port q).credOut.isEmpty

/-- Flits of a message: four slots each (R237). -/
def msgFlits (m : Msg) : Nat := (msgSlots m + 3) / 4

/-- The slots of a message that shares none: its head slot, then a data slot for every two sectors (R237). -/
def wireSlots (m : Msg) : List Slot :=
  .heads m.vc [{ m with data := [] }] :: (List.range ((m.data.length + 1) / 2)).map fun i =>
    .data m.vc (m.data.getD (2 * i) 0) (m.data.getD (2 * i + 1) 0)

/-- A message has gone out at a port: the next sequence numbers are used, its flits are kept for retry and hold its slots,
whose credits are spent (R237, R239, R240); the last of them is what the device sent last, with a right CRC. -/
def sentBy (s t : State) (q : Nat) (m : Msg) : Prop :=
  (t.port q).txSeq = ((s.port q).txSeq + msgFlits m) % 4096 ∧ (t.port q).txq = [] ∧ (t.port q).part = []
    ∧ (∃ l : List TxFlit, (t.port q).retry = (s.port q).retry ++ l ∧ l.length = msgFlits m
        ∧ (l.flatMap (·.slots)).filter slotUsed = wireSlots m)
    ∧ t.fld (nrlCred q) (vcCredit m.vc.toNat) = s.fld (nrlCred q) (vcCredit m.vc.toNat) - msgSlots m
    ∧ ∃ f, t.out.head? = some (.flit q f) ∧ crcOk f = true ∧ f.seq = BitVec.ofNat 12 ((s.port q).txSeq + msgFlits m + 4095)

/-- The messages that a slot completes by itself: those of its heads that bring no sectors (R237). -/
def slotMsgs (x : Slot) : List Msg :=
  match x with
  | .heads vc l => l.map fun m => { m with vc := vc, data := [] }
  | _ => []

/-- A slot that is empty or holds heads for other devices, none of which brings sectors. -/
def State.passSlot (s : State) (x : Slot) : Bool :=
  match x with
  | .empty => true
  | .heads _ l => l.all fun m => !kindCarries m.kind && m.dst.toNat != s.rank
  | _ => false

/-- The last thing a port has sent tells of an in-order number and of a NAK (R237, R239). -/
def told (s t : State) (p seq : Nat) (nak : Bool) : Prop :=
  ∃ f, t.out = .flit p f :: s.out ∧ crcOk f = true ∧ f.ack = BitVec.ofNat 12 seq ∧ f.nak = nak

/-- A device address is a sector of a core's scratchpad that answers plainly and takes its writes itself, in context `x`. -/
def State.openSector (s : State) (x : Option Nat) (a : Nat) : Bool :=
  let c := (a - spadBase) / 0x20_0000
  ownSector c a && s.spadOpen c && s.coreCtx c == x && !s.inCombine c ((a - spadBase) % 0x20_0000)

/-- A place answers a read at once with what it holds: its block is clocked and linked, its pseudo-channel is not being margined,
no scrub hides it, and no bit of the sector is wrong. -/
def State.answersPlainly (s : State) (l : Loc) : Prop :=
  s.gated l = false ∧ s.cutOff l = false ∧ s.margined l = false ∧ s.scrubHides l = false ∧ s.ueLoc l = none ∧ s.weakIn l = 0

/-- The tables of registers and of cores are in their canonical form. -/
def State.tablesWf (s : State) : Prop := mwf s.regs = true ∧ mwf s.cores = true

/-- A trip has removed the core rails (R352): what the cores held is lost, the tiers keep theirs. -/
def tripped (s t : State) (kind code : Nat) : Prop :=
  t.power.trip = kind ∧ t.power.pwmMid = true ∧ (∀ r < 10, t.flag (Reg.RAIL_STAT r) Fld.RAIL_STAT_ON = false)
    ∧ t.cores = [] ∧ t.spad = [] ∧ t.near = s.near ∧ t.reach = s.reach
    ∧ (s.flag Reg.PWR_ERR Fld.PWR_ERR_VALID = false → t.fld Reg.PWR_ERR Fld.PWR_ERR_CODE = code ∧ t.alert = true)

/-- A warm reset's start has begun (R356, R357, R368): at step 3, its cause shown, the cores and scratchpads empty, near
memory as it was, nothing of the host port or of a load left. -/
def warmBegun (s t : State) (cause : Nat) : Prop :=
  t.startStep = 3 ∧ t.fld Reg.RST_STAT Fld.RST_STAT_CAUSE = cause ∧ t.boot.warm = true ∧ t.started = false
    ∧ t.cores = [] ∧ t.spad = [] ∧ t.reqs = [] ∧ t.cmdq = [] ∧ t.dmaCh = [] ∧ t.imgLoad = none ∧ t.near = s.near

/-- A cold start has begun at a step, with nothing of the device's memories left (R355, R366). -/
def coldBegun (t : State) (step : Nat) : Prop :=
  t.startStep = step ∧ t.boot.warm = false ∧ t.started = false ∧ t.cores = [] ∧ t.spad = [] ∧ t.near = [] ∧ t.reqs = []

/-- Neither a stronger source nor a start stands in the way of a reset (R359). -/
def State.mayReset (s : State) : Prop := s.outranked = false ∧ s.inStart = false

/-- A core is being scrubbed with both streams stopped (R180). -/
def State.scrubBegun (s : State) (c : Nat) : Prop :=
  (s.core c).scrubbing = true ∧ s.flag (Reg.SP_SCRUB c) Fld.SP_SCRUB_BUSY = true ∧ s.strmState c .access = 0
    ∧ s.strmState c .execute = 0 ∧ (s.core c).units = [] ∧ (s.core c).groups = []

/-- A start has failed (R369): counted, recorded, and waiting to begin again. -/
def startFailed (s t : State) (code : Nat) : Prop :=
  t.fld Reg.RST_STAT Fld.RST_STAT_FSC = s.fld Reg.RST_STAT Fld.RST_STAT_FSC + 1 ∧ t.startStep = 0
    ∧ t.boot.retry = true ∧ (s.flag Reg.RST_ERR Fld.RST_ERR_VALID = false →
        t.fld Reg.RST_ERR Fld.RST_ERR_CODE = code ∧ t.fld Reg.RST_ERR Fld.RST_ERR_STEP = s.startStep)

/-- What holds of a signed command's checks: `q` of the command they pass, `p` of the error of the first that fails. -/
def onAnswer (r : Except Nat SignedCmd) (p : Nat → Prop) (q : SignedCmd → Prop) : Prop :=
  match r with
  | .ok c => q c
  | .error e => p e

/-- No check chain that ends here listens to what is written (R297). -/
def State.noChecks (s : State) : Bool := s.writtenChains.all fun e => e.mode != 2 || e.pos != 2

/-- Nothing of a core moves by itself but its combine unit. -/
def State.coreIdle (s : State) (c : Nat) : Bool :=
  let k := s.core c
  k.units.isEmpty && k.pred.isNone && k.a.hold.settled && k.e.hold.settled && !k.a.stepping && !k.e.stepping
    && !s.flag (Reg.ARRAY_STAT c) Fld.ARRAY_STAT_BUSY && k.disarmAt.isNone && k.flights.isEmpty && k.feeds.isEmpty

/-- A completion stands in its function's ring, whose producer index has gone on (R399). -/
def completed (s t : State) (fn : Nat) (h : CmdHdr) (status result : Nat) : Prop :=
  let p := s.fld (Reg.HF_RING_PROD fn 1) Fld.HF_RING_PROD_INDEX
  let a := (s.reg (Reg.HF_RING_BASE fn 1)).toNat + 16 * p
  t.fld (Reg.HF_RING_PROD fn 1) Fld.HF_RING_PROD_INDEX = (p + 1) % ringSize s fn 1
    ∧ memNat t.hostMem a 4 = h.tag ∧ memNat t.hostMem (a + 4) 2 = status ∧ memNat t.hostMem (a + 6) 1 = h.op
    ∧ memNat t.hostMem (a + 8) 8 = result

/-- A function's completion ring takes an entry at once, and nothing waits. -/
abbrev State.ringOpen (s : State) (fn : Nat) : Prop :=
  ringEn s fn 1 = true ∧ ringFull s fn 1 = false ∧ s.cpls = [] ∧ Memory.wf s.hostMem = true

/-- A command entry that its row may start: the only one waiting of its function. -/
abbrev State.cmdReady (s : State) (fn op : Nat) (bs : List Byte) : Prop :=
  s.cmdq = [(fn, [bs])] ∧ s.cmdFront fn = some bs ∧ s.cmdValid fn bs = true ∧ bytesAt bs 0 1 = op ∧ bs.length = 64
    ∧ s.d3.contains fn = false ∧ s.ringOpen fn

end Sys2Proof.Machine
end

