-- ==== Sys2Proof/Certificates/Slice0/Obligations.lean ====
section
/-! DEFINITION. The statements about the model, for the provers: what a step does, what every step keeps, and what each
command leaves behind when it completes. -/

open Sys2Proof Sys2Proof.Machine

/-! The machine as a whole. -/

/-- A step takes the command at the front of the queue and runs it on the state with the queue's rest; nothing else.
What it says beyond the rules is the model's choice (log entry 1). -/
def Obligations.StepRunsFrontCommand : Prop :=
  ∀ (i : Instr) (is : List Instr) (s : State), s.pending = i :: is → step s = exec i { s with pending := is }

/-- On an empty queue a step is a tick of the time base (the model's choice, log entry 3): while the PLL of the tick is
locked and nothing goes on by itself TICK goes on by 1, or by 0 or 2 where a correction stands (R257), and nothing else
changes but which words may hold wrong bits (the model's choice, log entry 23); unlocked, nothing changes. -/
def Obligations.EmptyQueueTicks : Prop :=
  ∀ s : State, s.pending = [] → ∃ t, step s = .next t
    ∧ (s.fld Reg.CLK_STAT Fld.CLK_STAT_PLL_LOCK / 2 ^ 15 = 0 → t = s)
    ∧ (s.fld Reg.CLK_STAT Fld.CLK_STAT_PLL_LOCK / 2 ^ 15 ≠ 0 → s.atRest → t.tickFix = 0
        ∧ t.tick = (s.tick + (if s.tickFix = 0 then 1 else if s.tickFix = 1 then 0 else 2)) % 2 ^ 64
        ∧ framed s t [Reg.TICK] ∧ t.pending = []
        ∧ ∀ k, t.core k = { s.core k with accUe := (t.core k).accUe, accWeak := (t.core k).accWeak })

/-! The streams' own instructions. -/

/-- HALT (R143, R146): SWAP 0 stops the stream in state 2; SWAP 1 swaps to a ready bank and goes on at index 0 with
counters, comparators and queues kept, or waits. Either way it closes every open loop. PRED_STAT may change only where the
execute stream stops, which disarms a predicted map (R116). What it says beyond the rules is the model's choice (log entry 16). -/
def Obligations.HaltStopsSwapsOrWaits : Prop :=
  ∀ (c : CoreId) (t : Strm) (w : Body) (s : State), s.ready c.val t 0x01 w = true →
    ∃ s', exec (.halt c t w) s = .next s' ∧ (s'.strm c.val t).loops = []
      ∧ s'.fld (Reg.STRM_STAT c.val (sidx t)) Fld.STRM_STAT_DEPTH = 0
      ∧ framed s s' ([Reg.STRM_STAT c.val (sidx t), Reg.STRM_CTL c.val (sidx t)]
          ++ if t = .execute ∧ bit1 w 121 = false then [Reg.PRED_STAT c.val] else [])
      ∧ sameCoresBut s s' c.val
      ∧ (s'.core c.val).queues = (s.core c.val).queues
      ∧ (bit1 w 121 = false → s'.strmState c.val t = 2 ∧ s'.strmBank c.val t = s.strmBank c.val t)
      ∧ (bit1 w 121 = true → s.bankReady c.val t (1 - s.strmBank c.val t) = true →
          s'.wentTo c.val t 0 ∧ s'.strmBank c.val t = 1 - s.strmBank c.val t)
      ∧ (bit1 w 121 = true → s.bankReady c.val t (1 - s.strmBank c.val t) = false →
          s'.holdsOn c.val t (.issue 0x01 w) 7 ∧ s'.strmBank c.val t = s.strmBank c.val t)

/-- LOOP (R142): a count of 0 goes on behind END; any other opens a loop over the body, with its index counter at 0. A LOOP
with END not past its own index raises E_FIELD, without an ENDL at END E_LOOP_NEST, a fifth open loop E_LOOP_DEPTH.

ENDL (R142, R143): at the innermost open loop's END it counts the iteration in the index counter and branches back
while iterations are left, else closes the loop and goes on; anywhere else it raises E_LOOP_NEST.
What it says beyond the rules is the model's choice (log entries 13, 16). -/
def Obligations.LoopsOpenBranchBackAndClose : Prop :=
  (∀ (c : CoreId) (t : Strm) (w : Body) (s : State), s.ready c.val t 0x02 w = true →
     ∃ s', exec (.loop c t w) s = .next s' ∧
       (let i := s.strmIndex c.val t
        let e := bits w 93 83
        let n := if bit1 w 121 then s.cnt c.val t (bits w 120 118) else bits w 117 94
        let x := bits w 82 80
        let ls := (s.strm c.val t).loops
        (e ≤ i → haltedBy s s' c.val t (strmCode t 0x05))
        ∧ (i < e → s.opAt c.val t e ≠ 0x03 → haltedBy s s' c.val t (strmCode t 0x07))
        ∧ (i < e → s.opAt c.val t e = 0x03 → n = 0 →
             s'.wentTo c.val t (e + 1) ∧ (s'.strm c.val t).loops = ls ∧ framed s s' [Reg.STRM_STAT c.val (sidx t)])
        ∧ (i < e → s.opAt c.val t e = 0x03 → n ≠ 0 → 4 ≤ ls.length → haltedBy s s' c.val t (strmCode t 0x06))
        ∧ (i < e → s.opAt c.val t e = 0x03 → n ≠ 0 → ls.length < 4 →
             s'.wentTo c.val t (i + 1) ∧ (s'.strm c.val t).loops = ⟨i + 1, e, n, x⟩ :: ls
             ∧ s'.fld (Reg.STRM_STAT c.val (sidx t)) Fld.STRM_STAT_DEPTH = ls.length + 1
             ∧ (x ≠ 0 → s'.cnt c.val t x = 0)
             ∧ framed s s' ([Reg.STRM_STAT c.val (sidx t)] ++ if x = 0 then [] else [Reg.CNT c.val (sidx t) x])
             ∧ sameCoresBut s s' c.val)))
  ∧
  (∀ (c : CoreId) (t : Strm) (w : Body) (s : State), s.ready c.val t 0x03 w = true →
     ∃ s', exec (.endl c t w) s = .next s' ∧
       match (s.strm c.val t).loops with
       | [] => haltedBy s s' c.val t (strmCode t 0x07)
       | f :: fs =>
         (f.endIdx ≠ s.strmIndex c.val t → haltedBy s s' c.val t (strmCode t 0x07))
         ∧ (f.endIdx = s.strmIndex c.val t →
             (f.ctr ≠ 0 → s'.cnt c.val t f.ctr = (s.cnt c.val t f.ctr + 1) % 2 ^ 32)
             ∧ (1 < f.left → s'.wentTo c.val t f.first ∧ (s'.strm c.val t).loops = { f with left := f.left - 1 } :: fs)
             ∧ (f.left ≤ 1 → s'.wentTo c.val t (s.strmIndex c.val t + 1) ∧ (s'.strm c.val t).loops = fs)
             ∧ framed s s' ([Reg.STRM_STAT c.val (sidx t)] ++ if f.ctr = 0 then [] else [Reg.CNT c.val (sidx t) f.ctr])
             ∧ sameCoresBut s s' c.val))

/-- CSET (R140): TGT 0–7 writes IMM to the counter, with CSEL and REL zero; TGT 8–11 sets the comparator's counter, relation
and reference; every other form raises E_FIELD.

CADD (R140): C[DST] takes C[DST] plus IMM or plus C[SRC], modulo 2^32, without raising any error.

CMPB (R141, R143): it branches to TARGET where comparator K exclusive-or INV is 1, closing the loops whose body does not
hold the target, and else goes on at the next index; a relation of 6 or 7 raises E_FIELD. Counters and references are
32-bit words. What it says beyond the rules is the model's choice (log entry 16). -/
def Obligations.CountersAndComparators : Prop :=
  ((∀ (c : CoreId) (t : Strm) (w : Body) (s : State), s.ready c.val t 0x04 w = true →
      ∃ s', exec (.cset c t w) s = .next s' ∧
        (let n := bits w 121 118
         let sel := bits w 117 115
         let rel := bits w 114 112
         (n < 8 → sel = 0 → rel = 0 →
            s'.cnt c.val t n = bits w 31 0 ∧ s'.wentTo c.val t (s.strmIndex c.val t + 1)
            ∧ framed s s' [Reg.STRM_STAT c.val (sidx t), Reg.CNT c.val (sidx t) n] ∧ sameCoresBut s s' c.val)
         ∧ (8 ≤ n → n < 12 → rel < 6 →
            (s'.reg (Reg.COMP_REF c.val (sidx t) (n - 8))).toNat = bits w 31 0
            ∧ s'.fld (Reg.COMP_CFG c.val (sidx t)) (compSel (n - 8)) = sel
            ∧ s'.fld (Reg.COMP_CFG c.val (sidx t)) (compRel (n - 8)) = rel
            ∧ (∀ k < 4, k ≠ n - 8 →
                s'.fld (Reg.COMP_CFG c.val (sidx t)) (compSel k) = s.fld (Reg.COMP_CFG c.val (sidx t)) (compSel k)
                ∧ s'.fld (Reg.COMP_CFG c.val (sidx t)) (compRel k) = s.fld (Reg.COMP_CFG c.val (sidx t)) (compRel k))
            ∧ s'.wentTo c.val t (s.strmIndex c.val t + 1)
            ∧ framed s s' [Reg.STRM_STAT c.val (sidx t), Reg.COMP_REF c.val (sidx t) (n - 8), Reg.COMP_CFG c.val (sidx t)]
            ∧ sameCoresBut s s' c.val)
         ∧ ((n < 8 ∧ (sel ≠ 0 ∨ rel ≠ 0)) ∨ (8 ≤ n ∧ n < 12 ∧ 6 ≤ rel) ∨ 12 ≤ n →
             haltedBy s s' c.val t (strmCode t 0x05))))
   ∧
   (∀ (c : CoreId) (t : Strm) (w : Body) (s : State), s.ready c.val t 0x05 w = true →
      ∃ s', exec (.cadd c t w) s = .next s'
        ∧ (bit1 w 118 = false →
            s'.cnt c.val t (bits w 121 119) = (s.cnt c.val t (bits w 121 119) + bits w 31 0) % 2 ^ 32)
        ∧ (bit1 w 118 = true →
            s'.cnt c.val t (bits w 121 119) = (s.cnt c.val t (bits w 121 119) + s.cnt c.val t (bits w 117 115)) % 2 ^ 32)
        ∧ s'.wentTo c.val t (s.strmIndex c.val t + 1)
        ∧ framed s s' [Reg.STRM_STAT c.val (sidx t), Reg.CNT c.val (sidx t) (bits w 121 119)] ∧ sameCoresBut s s' c.val))
  ∧
  (∀ (c : CoreId) (t : Strm) (w : Body) (s : State) (b : Bool), s.ready c.val t 0x06 w = true →
     (∀ k < 8, s.cnt c.val t k < 2 ^ 32) → (∀ k < 4, (s.reg (Reg.COMP_REF c.val (sidx t) k)).toNat < 2 ^ 32) →
     ∃ s', exec (.cmpb c t w) s = .next s'
       ∧ (6 ≤ s.fld (Reg.COMP_CFG c.val (sidx t)) (compRel (bits w 121 120)) → haltedBy s s' c.val t (strmCode t 0x05))
       ∧ (comparatorIs s c.val t (bits w 121 120) b →
           framed s s' [Reg.STRM_STAT c.val (sidx t)] ∧ sameCoresBut s s' c.val
           ∧ (xor b (bit1 w 119) = true → s'.wentTo c.val t (bits w 118 108)
               ∧ (s'.strm c.val t).loops = (s.strm c.val t).loops.filter fun f =>
                   decide (f.first ≤ bits w 118 108) && decide (bits w 118 108 ≤ f.endIdx))
           ∧ (xor b (bit1 w 119) = false → s'.wentTo c.val t (s.strmIndex c.val t + 1)
               ∧ (s'.strm c.val t).loops = (s.strm c.val t).loops)))

/-- SYNCQ (R131): the stream goes on where every named queue is empty and no instruction that took from one is under way,
and else waits with WAITON 6. What it says beyond the rules is the model's choice (log entries 12, 15). -/
def Obligations.SyncqWaitsForQueues : Prop :=
  ∀ (c : CoreId) (w : Body) (s : State), s.ready c.val .access 0x17 w = true →
    ∃ s', exec (.syncq c .access w) s = .next s' ∧ framed s s' [Reg.STRM_STAT c.val 0] ∧ sameCoresBut s s' c.val
      ∧ ((∀ n < 4, bit1 w (118 + n) = true → s.queue c.val n = []) →
          s'.wentTo c.val .access (s.strmIndex c.val .access + 1))
      ∧ (∀ n < 4, bit1 w (118 + n) = true → s.queue c.val n ≠ [] → s'.holdsOn c.val .access (.issue 0x17 w) 6)

/-! Pennants, hoists and their instructions. -/

/-- SIG (R130, R183, R184, R190) with its stream's earlier work done: on a local pennant the value changes by AMOUNT, the
record names the stream and the tick; on a shared one the signal leaves for the bank and the stream holds; with SCOPE 2 to
the own rank it leaves for the pending table with the entry's WSEQ.

WAIT (R130, R185) on a local pennant in MODE 0 or 2: it goes on where its condition holds, MODE 2 taking IMM, and
else its stream becomes a waiter. What it says beyond the rules is the model's choice (log entries 15, 32, 33). -/
def Obligations.SigAndWaitActOnPennants : Prop :=
  (∀ (c : CoreId) (t : Strm) (w : Body) (s : State), s.ready c.val t 0x07 w = true → s.earlierDone c.val t = true →
     (bits w 121 120 = 0 → bits w 119 108 < 64 → s.penTable = [] → s.penMsgs = [] →
       (let k := localKey c.val (bits w 119 108)
        ∀ v, penApply (s.penCounting k) (s.penVal k) (bits w 102 102) (bits w 101 86) = .ok v →
         ∃ s', exec (.sig c t w) s = .next s' ∧ s'.penVal k = v ∧ s'.penCounting k = s.penCounting k
           ∧ (bits w 102 102 = 0 → v = s.penVal k + bits w 101 86)
           ∧ (bits w 102 102 = 1 → s.penVal k = v + bits w 101 86)
           ∧ s'.fld (Reg.LPEN_STAT c.val (bits w 119 108)) Fld.LPEN_STAT_LAST_VALID = 1
           ∧ s'.fld (Reg.LPEN_STAT c.val (bits w 119 108)) Fld.LPEN_STAT_LAST_STREAM = sidx t
           ∧ (s'.reg (Reg.LPEN_TICK c.val (bits w 119 108))).toNat = s.tick % 2 ^ 32
           ∧ s'.wentTo c.val t (s.strmIndex c.val t + 1)
           ∧ framed s s' [Reg.STRM_STAT c.val (sidx t), Reg.LPEN_VAL c.val (bits w 119 108),
               Reg.LPEN_STAT c.val (bits w 119 108), Reg.LPEN_TICK c.val (bits w 119 108)]))
     ∧ (bits w 121 120 = 1 → ∀ k, s.penTranslate (s.coreCtx c.val) (bits w 119 108) = some k →
         ∃ s', exec (.sig c t w) s = .next s'
           ∧ s'.penMsgs = s.penMsgs ++ [⟨s.nextId, k, .sig ⟨c.val, t⟩ (bits w 102 102) (bits w 101 86)
               (s.core c.val).nextIid (s.strmIndex c.val t) (s.strmBank c.val t)⟩]
           ∧ s'.holdsOn c.val t (.signal (s.core c.val).nextIid) 4 ∧ framed s s' [Reg.STRM_STAT c.val (sidx t)])
     ∧ (bits w 121 120 = 2 → s.ptrAddr c.val t (bits w 107 103) % 32 = 0 → s.ptrDev c.val t (bits w 107 103) = s.rank →
         ∀ e, s.seqEntry c.val s.rank = some e →
         ∃ s', exec (.sig c t w) s = .next s'
           ∧ s'.penMsgs = s.penMsgs ++ [⟨s.nextId, 0, .toPending ⟨s.rank, c.val, sidx t, false⟩ (bits w 119 108)
               (bits w 102 102) (bits w 101 86) (s.wseq c.val e)⟩]
           ∧ s'.wentTo c.val t (s.strmIndex c.val t + 1) ∧ framed s s' [Reg.STRM_STAT c.val (sidx t)]))
  ∧
  (∀ (c : CoreId) (t : Strm) (w : Body) (s : State), s.ready c.val t 0x08 w = true → bits w 121 120 = 0 →
     bits w 119 108 < 64 → s.penTable = [] → s.penMsgs = [] →
     (let k := localKey c.val (bits w 119 108)
      (bits w 95 94 = 0 →
         (let v := (bits w 47 0 + (if bits w 93 91 = 0 then 0 else s.cnt c.val t (bits w 93 91))) % 2 ^ 48
          ∃ s', exec (.wait c t w) s = .next s'
           ∧ (v ≤ s.penVal k → s'.wentTo c.val t (s.strmIndex c.val t + 1) ∧ s'.penTable = []
               ∧ framed s s' [Reg.STRM_STAT c.val (sidx t)])
           ∧ (s.penVal k < v → s'.holdsOn c.val t .pennant 4
               ∧ s'.penTable = [(k, [⟨⟨c.val, t⟩, 0, v, 0, [], []⟩])]
               ∧ framed s s' [Reg.STRM_STAT c.val (sidx t)])))
      ∧ (bits w 95 94 = 2 → s.penCounting k = true → bits w 47 0 < 2 ^ 32 →
         ∃ s', exec (.wait c t w) s = .next s'
           ∧ (bits w 47 0 ≤ s.penVal k → s'.wentTo c.val t (s.strmIndex c.val t + 1)
               ∧ s'.penVal k = s.penVal k - bits w 47 0
               ∧ framed s s' [Reg.STRM_STAT c.val (sidx t), Reg.LPEN_VAL c.val (bits w 119 108)])
           ∧ (s.penVal k < bits w 47 0 → s'.holdsOn c.val t .pennant 4 ∧ s'.penVal k = s.penVal k
               ∧ s'.penTable = [(k, [⟨⟨c.val, t⟩, 2, bits w 47 0, 0, [], []⟩])]
               ∧ framed s s' [Reg.STRM_STAT c.val (sidx t)]))))

/-- HOIST (R194, R195): the arrival leaves with the binding's round, which goes on by one; with WAIT the stream holds for that
round's release. A round two ahead of the finished ones waits with WAITON 5, earlier work with WAITON 8.
What it says beyond the rules is the model's choice (log entries 15, 36). -/
def Obligations.HoistArrives : Prop :=
  ∀ (c : CoreId) (t : Strm) (w : Body) (s : State) (b k : Nat), s.ready c.val t 0x16 w = true →
    (bit1 w 121 = true → bits w 120 113 ≤ 63) →
    s.hoistBinding c.val t (bit1 w 121) (bits w 120 113) = some b →
    s.hoistTranslate (s.coreCtx c.val) (bit1 w 121) (bits w 120 113) = some k →
    ∃ s', exec (.hoist c t w) s = .next s' ∧ sameMemory s s'
      ∧ (s.earlierDone c.val t = false → s'.holdsOn c.val t (.issue 0x16 w) 8)
      ∧ (s.earlierDone c.val t = true → roundBlocked (s.fld b Fld.HBIND_ROUND) (s.hoistDone k) = true →
          s'.holdsOn c.val t (.issue 0x16 w) 5)
      ∧ (s.earlierDone c.val t = true → roundBlocked (s.fld b Fld.HBIND_ROUND) (s.hoistDone k) = false →
          s'.hoistMsgs = s.hoistMsgs
            ++ [⟨s.nextId, k, ⟨c.val, t⟩, s.fld b Fld.HBIND_ROUND, true, s.flag b Fld.HBIND_WAIT⟩]
          ∧ s'.fld b Fld.HBIND_ROUND = (s.fld b Fld.HBIND_ROUND + 1) % 2 ^ 32
          ∧ (s.flag b Fld.HBIND_WAIT = true → s'.holdsOn c.val t (.hoist k (s.fld b Fld.HBIND_ROUND)) 5)
          ∧ (s.flag b Fld.HBIND_WAIT = false → s'.wentTo c.val t (s.strmIndex c.val t + 1))
          ∧ framed s s' [Reg.STRM_STAT c.val (sidx t), b])

/-! The moves of the access stream. -/

/-- LDQ (R131, R155) with equal formats. From the own scratchpad its sectors stand in the queue in descriptor order; from
near memory its space is reserved and its requests leave, one for each sector in order. Either way the stream goes on.

LDX (R157, R158) with equal formats, from the own scratchpad: for each index of the index tensor in order, the sectors
of that row of the region stand in the queue.
What it says beyond the rules is the model's choice (log entries 18, 26). -/
def Obligations.LdqAndLdxFillQueues : Prop :=
  (∀ (c : CoreId) (w : Body) (s : State), s.ready c.val .access 0x10 w = true → (s.core c.val).groups = [] →
     fmtPlain (bits w 111 108) (bits w 107 104) = true → moveFmtOk (bits w 111 108) (bits w 107 104) true = true →
     (let d := s.desc c.val .access (bits w 121 117) (bits w 116 114)
      let q := bits w 113 112
      s.checkDesc c.val .access d = .ok () → d.total ≤ s.qSpace c.val q → (∀ x ∈ s.queue c.val q, ∃ v, x = .filled v) →
      (s.spadOpen c.val = true → ownSeq c.val d d.total →
         ∃ s', exec (.ldq c .access w) s = .next s'
           ∧ s'.queue c.val q = s.queue c.val q ++ (List.range d.total).map (fun n => QSlot.filled (s.spadAt (d.sector n)))
           ∧ s'.wentTo c.val .access (s.strmIndex c.val .access + 1) ∧ s'.reqs = s.reqs
           ∧ framed s s' [Reg.STRM_STAT c.val 0] ∧ sameCoresBut s s' c.val)
      ∧ ((∀ n < d.total, ∃ k, s.readIn c.val (d.sector n) = .ok (⟨.near, k, d.sector n⟩, none)) →
         ∃ s', exec (.ldq c .access w) s = .next s'
           ∧ s'.queue c.val q = s.queue c.val q ++ (List.range d.total).map (fun n => QSlot.reserved ((s.core c.val).nextGid + n))
           ∧ s'.reqs = s.reqs ++ (List.range d.total).map (fun n => ({
                 id := s.nextId + n, core := c.val, iid := (s.core c.val).nextIid, path := .near, addr := d.sector n,
                 lcr := d.lcr, sent := false, kind := .read ((s.core c.val).nextGid + n) 0,
                 stage := .issued } : Req))
           ∧ s'.wentTo c.val .access (s.strmIndex c.val .access + 1)
           ∧ framed s s' [Reg.STRM_STAT c.val 0] ∧ sameCoresBut s s' c.val)))
  ∧
  (∀ (c : CoreId) (w : Body) (s : State), s.ready c.val .access 0x11 w = true → (s.core c.val).groups = [] →
     fmtPlain (bits w 106 103) (bits w 102 99) = true → moveFmtOk (bits w 106 103) (bits w 102 99) false = true →
     (let x := s.desc c.val .access (bits w 121 117) (bits w 111 109)
      let d := s.desc c.val .access (bits w 116 112) 0
      let q := bits w 108 107
      let total := bits w 98 75 * d.c0
      d.c2 = 1 → d.c3 = 1 → s.checkDesc c.val .access x = .ok () → s.checkDesc c.val .access d = .ok () →
      bits w 98 75 ≤ x.total * 8 → total ≤ s.qSpace c.val q → (∀ y ∈ s.queue c.val q, ∃ v, y = .filled v) →
      s.spadOpen c.val = true → ownSeq c.val x ((bits w 98 75 + 7) / 8) →
      (∀ n < total, ldxIndex s x d n < d.c1 ∧ ownSector c.val (ldxPlace s x d n) = true) →
         ∃ s', exec (.ldx c .access w) s = .next s'
           ∧ s'.queue c.val q = s.queue c.val q ++ (List.range total).map (fun n => QSlot.filled (s.spadAt (ldxPlace s x d n)))
           ∧ s'.wentTo c.val .access (s.strmIndex c.val .access + 1)
           ∧ framed s s' [Reg.STRM_STAT c.val 0] ∧ sameCoresBut s s' c.val))

/-- STQ (R131, R155) with equal formats into the own scratchpad: the queue's first sectors leave it and stand at the
descriptor's sectors in order; no other byte changes.
What it says beyond the rules is the model's choice (log entries 18, 26). -/
def Obligations.StqStoresQueueSectors : Prop :=
  ∀ (c : CoreId) (w : Body) (s : State), s.ready c.val .access 0x12 w = true → Memory.wf s.spad = true →
    mwf (s.core c.val).queues = true →
    fmtPlain (bits w 112 109) (bits w 108 105) = true → moveFmtOk (bits w 112 109) (bits w 108 105) false = true →
    (let d := s.desc c.val .access (bits w 121 117) (bits w 116 114)
     let q := 4 + bits w 113 113
     s.checkDesc c.val .access d = .ok () → s.spadOpen c.val = true → ownSeq c.val d d.total →
     d.total * fmtBits (bits w 112 109) % fmtBits (bits w 108 105) = 0 →
     (∀ m < d.total, ∀ n < d.total, d.sector m = d.sector n → m = n) →
     ∀ vs : List Sector, vs.length = d.total → s.qReady c.val q d.total = vs →
        ∃ s', exec (.stq c .access w) s = .next s'
          ∧ (∀ n < d.total, s'.spadAt (d.sector n) = vs.getD n 0)
          ∧ s'.queue c.val q = (s.queue c.val q).drop d.total
          ∧ s'.wentTo c.val .access (s.strmIndex c.val .access + 1)
          ∧ framedBut s s' d d.total [Reg.STRM_STAT c.val 0])

/-- FILL and COPY (R155, R175) in the own scratchpad: the fill and copy engine takes them at their first sector, and the
stream goes on; FILL's sector holds IMM in every word.

FILL_COPY_ENGINE_DONE (R175): of what the engine runs, the sectors it has not reached take the value of FILL, or what the
source of a COPY holds, where the two share no sector; no other byte changes, and the engine is free.
What it says beyond the rules is the model's choice (log entries 12, 18). -/
def Obligations.FillAndCopyWriteTheirSectors : Prop :=
  ((∀ (c : CoreId) (w : Body) (s : State), s.ready c.val .access 0x13 w = true →
     (let d := s.desc c.val .access (bits w 121 117) (bits w 116 114)
      s.checkDesc c.val .access d = .ok () → ownDesc c.val d = true → (s.core c.val).engine = none →
         ∃ s' v, exec (.fill c .access w) s = .next s'
           ∧ (s'.core c.val).engine = some ⟨(s.core c.val).nextIid, s.strmIndex c.val .access, s.strmBank c.val .access, none, d, v, 0⟩
           ∧ (∀ j < 8, v.toNat / 2 ^ (32 * j) % 2 ^ 32 = bits w 31 0)
           ∧ s'.wentTo c.val .access (s.strmIndex c.val .access + 1)
           ∧ framed s s' [Reg.STRM_STAT c.val 0] ∧ sameCoresBut s s' c.val))
   ∧ (∀ (c : CoreId) (w : Body) (s : State), s.ready c.val .access 0x14 w = true →
     (let x := s.desc c.val .access (bits w 121 117) (bits w 116 114)
      let d := s.desc c.val .access (bits w 113 109) (bits w 108 106)
      s.checkDesc c.val .access x = .ok () → s.checkDesc c.val .access d = .ok () → x.total = d.total →
      ownDesc c.val x = true → ownDesc c.val d = true → (s.core c.val).engine = none →
         ∃ s', exec (.copy c .access w) s = .next s'
           ∧ (s'.core c.val).engine
               = some ⟨(s.core c.val).nextIid, s.strmIndex c.val .access, s.strmBank c.val .access, some x, d, 0, 0⟩
           ∧ s'.wentTo c.val .access (s.strmIndex c.val .access + 1)
           ∧ framed s s' [Reg.STRM_STAT c.val 0] ∧ sameCoresBut s s' c.val)))
  ∧
  (∀ (c : CoreId) (s : State) (e : EngineJob), (s.core c.val).engine = some e → s.coreCalm c.val = true →
     Memory.wf s.spad = true → s.spadOpen c.val = true → ownSeq c.val e.dst e.dst.total →
     (e.src = none →
        ∃ s', exec (.fillCopyEngineDone c) s = .next s' ∧ (s'.core c.val).engine = none
          ∧ (∀ n < e.dst.total, e.pos ≤ n → s'.spadAt (e.dst.sector n) = e.value)
          ∧ (s'.core c.val).queues = (s.core c.val).queues ∧ framedFrom s s' e.dst e.pos e.dst.total []
          ∧ sameCoresBut s s' c.val)
     ∧ (∀ x, e.src = some x → ownSeq c.val x e.dst.total →
        (∀ m < e.dst.total, ∀ n < e.dst.total, x.sector m ≠ e.dst.sector n ∧ (e.dst.sector m = e.dst.sector n → m = n)) →
        ∃ s', exec (.fillCopyEngineDone c) s = .next s' ∧ (s'.core c.val).engine = none
          ∧ (∀ n < e.dst.total, e.pos ≤ n → s'.spadAt (e.dst.sector n) = s.spadAt (x.sector n))
          ∧ (s'.core c.val).queues = (s.core c.val).queues ∧ framedFrom s s' e.dst e.pos e.dst.total []
          ∧ sameCoresBut s s' c.val))

/-- SEND (R131, R155, R190, R238) of at most 64 sectors from the own scratchpad to another rank, on LCR or BULK: one write
message with those sectors is given to the links, the source's sequence entry counts them, and the stream goes on.
What it says beyond the rules is the model's choice (log entry 26). -/
def Obligations.SendLeavesAsMessage : Prop :=
  ∀ (c : CoreId) (w : Body) (s : State) (e : Nat), s.ready c.val .access 0x15 w = true → bit1 w 121 = false →
    bits w 90 75 = 0 → (bits w 104 103 = 1 ∨ bits w 104 103 = 3) →
    (let x := s.desc c.val .access (bits w 120 116) (bits w 115 113)
     let dev := s.ptrDev c.val .access (bits w 112 108)
     let a := (s.ptrAddr c.val .access (bits w 112 108) + 32 * s.cntAdj c.val .access (bits w 107 105)) % 2 ^ 48
     s.checkDesc c.val .access x = .ok () → s.ptrAddr c.val .access (bits w 112 108) % 32 = 0 → dev ≠ s.rank →
     s.seqEntry c.val dev = some e → s.sendRouted c.val dev = true → s.spadOpen c.val = true → ownSeq c.val x x.total →
     x.total ≤ 64 →
     let m : Msg :=
       { dst := BitVec.ofNat 10 dev, srcDev := BitVec.ofNat 10 s.rank, srcCore := BitVec.ofNat 12 c.val, kind := 0, tag := 0
         flags := 0, addr := BitVec.ofNat 48 a, vc := BitVec.ofNat 2 (bits w 104 103), nsecM1 := BitVec.ofNat 6 (x.total - 1)
         data := (List.range x.total).map fun n => s.spadAt (x.sector n) }
     ∃ s', exec (.send c .access w) s = .next s'
        ∧ s'.ports = (s.nirloSend (s.coreCtx c.val) m).ports ∧ s'.out = (s.nirloSend (s.coreCtx c.val) m).out
        ∧ s'.fld (Reg.SEQ c.val e) Fld.SEQ_WSEQ = (s.fld (Reg.SEQ c.val e) Fld.SEQ_WSEQ + x.total) % 2 ^ 32
        ∧ s'.wentTo c.val .access (s.strmIndex c.val .access + 1)
        ∧ (∀ a, memGet s'.spad a = memGet s.spad a))

/-! The execute units. -/

/-- Every execute instruction (R121, R125, R132) that is accepted at issue and finds its unit free, its queue data present
and space for its results runs to its end: the next state is the one its start, its takes, its computation and its
results leave; its unit shows it done and waiting to finish, and its stream has gone on.
What it says beyond the rules is the model's choice (log entries 12, 17). -/
def Obligations.ExecuteInstructionsRun : Prop :=
  ∀ p ∈ executeInstrs, ∀ (c : CoreId) (w : Body) (s : State) (j : Job) (u : Nat) (t : State),
    s.ready c.val .execute p.1 w = true → unitOf p.1 = some u → execIssue s c.val p.1 w = .ok j →
    s.runsAlone c.val u (s.jobOf c.val j) = some t →
      exec (p.2 c .execute w) s = .next t
        ∧ t.strmIndex c.val .execute = (s.strmIndex c.val .execute + 1) % 2048
        ∧ ∃ j', (t.unit c.val u).run = some j' ∧ j'.iid = (s.core c.val).nextIid ∧ j'.computed = true ∧ j'.outs = []
            ∧ j'.fail = none

/-- ACLR (R70) with nothing else of its core under way: the columns ACC_COL0 to ACC_COL0 + NCOL_M1 of every accumulator row,
or with TARGET 1 every slot accumulator, hold +0; every other element keeps its value; no memory changes. A range past
column 255 raises E_ACC_RANGE and clears nothing.
What it says beyond the rules is the model's choice (log entry 12). -/
def Obligations.AclrClearsColumnsOrSlots : Prop :=
  ∀ (c : CoreId) (w : Body) (s : State), s.ready c.val .execute 0x26 w = true →
    mwf (s.core c.val).acc = true → mwf (s.core c.val).slots = true →
    ∃ s', exec (.aclr c .execute w) s = .next s'
      ∧ (bit1 w 121 = true → (∀ i, mget (s'.core c.val).slots 0 i = 0) ∧ (s'.core c.val).acc = (s.core c.val).acc)
      ∧ (bit1 w 121 = false → bits w 120 113 + bits w 112 105 ≤ 255 →
          (s'.core c.val).slots = (s.core c.val).slots
          ∧ ∀ r < 32, ∀ col < 256, mget (s'.core c.val).acc 0 (256 * r + col)
              = if bits w 120 113 ≤ col ∧ col ≤ bits w 120 113 + bits w 112 105 then 0
                else mget (s.core c.val).acc 0 (256 * r + col))
      ∧ (bit1 w 121 = true ∨ bits w 120 113 + bits w 112 105 ≤ 255 →
          framed s s' [Reg.STRM_STAT c.val 1, Reg.ARRAY_STAT c.val] ∧ sameCoresBut s s' c.val
          ∧ s'.fld (Reg.ARRAY_STAT c.val) Fld.ARRAY_STAT_BUSY = 1
              ∧ s'.fld (Reg.ARRAY_STAT c.val) Fld.ARRAY_STAT_MODE = 6)
      ∧ (bit1 w 121 = false → 255 < bits w 120 113 + bits w 112 105 →
          haltedBy s s' c.val .execute 0x1083 ∧ (s'.core c.val).acc = (s.core c.val).acc
          ∧ (s'.core c.val).slots = (s.core c.val).slots)

/-- What an issue refuses (R127, R143): past index 2,047 E_IMEM_END, an opcode its stream does not allow E_OPCODE, a reserved
bit that is not zero E_FIELD; the core halts with the stream's record.
What it says beyond the rules is the model's choice (log entries 13, 16). -/
def Obligations.IssueRefusesWrongInstructions : Prop :=
  ∀ p ∈ streamInstrs ++ executeInstrs, ∀ (c : CoreId) (t : Strm) (w : Body) (s : State),
    s.canIssue c.val t = true → s.coreStill c.val = true →
    ∃ s', exec (p.2 c t w) s = .next s'
      ∧ ((s.strm c.val t).pastEnd = true → haltedBy s s' c.val t (strmCode t 0x09))
      ∧ ((s.strm c.val t).pastEnd = false → opAllowed p.1 t = false → haltedBy s s' c.val t (strmCode t 0x04))
      ∧ ((s.strm c.val t).pastEnd = false → opAllowed p.1 t = true → opReservedOk p.1 w = false →
          haltedBy s s' c.val t (strmCode t 0x05))

/-! Events of a core. -/

/-- INSTRUCTION_FINISH (R121, R58, R73): a running instruction that is done leaves its unit free where none waits, and the
array then shows idle.

READ_DATA_RETURN (R124, R176): a read that was served leaves; the last sector its load group waited for fills the group's
places in the queue, an earlier one is kept with the group. WRITE_ACK: a write that was served leaves.
What it says beyond the rules is the model's choice (log entries 12, 29). -/
def Obligations.UnitsEngineAndReturnsComplete : Prop :=
  (∀ (c : CoreId) (u : ExecUnit) (s : State) (j : Job), s.unit c.val (unitNum u) = ⟨some j, none⟩ → j.computed = true →
     j.outs = [] → j.fail = none → s.outstanding c.val j.iid = false →
     ((s.setUnit c.val (unitNum u) ⟨none, none⟩).setFld (Reg.ARRAY_STAT c.val) Fld.ARRAY_STAT_BUSY 0).coreStill c.val = true →
     (unitNum u ≠ 0 → s.flag (Reg.ARRAY_STAT c.val) Fld.ARRAY_STAT_BUSY = false) →
     ∃ s', exec (.instructionFinish c u) s = .next s' ∧ s'.unit c.val (unitNum u) = ⟨none, none⟩
       ∧ s'.flag (Reg.ARRAY_STAT c.val) Fld.ARRAY_STAT_BUSY = false
       ∧ (s'.core c.val).queues = (s.core c.val).queues ∧ (s'.core c.val).acc = (s.core c.val).acc
       ∧ framed s s' [Reg.ARRAY_STAT c.val] ∧ sameCoresBut s s' c.val)
  ∧
  ((∀ (id gid pos : Nat) (d : Sector) (r : Req) (g : LoadGroup) (s : State), s.reqOf id = some r →
     r.kind = .read gid pos → r.stage = .served d → s.coreCalm r.core = true → mwf (s.core r.core).queues = true →
     (s.core r.core).groups.find? (fun g => g.gid == gid) = some g →
     ∃ s', exec (.readDataReturn id) s = .next s' ∧ s'.reqs = s.reqs.filter (fun x => x.id != id)
       ∧ ((mset g.got pos d).length < g.nSrc → s'.queue r.core g.q = s.queue r.core g.q
           ∧ (s'.core r.core).groups.find? (fun g => g.gid == gid) = some { g with got := mset g.got pos d })
       ∧ (g.nSrc ≤ (mset g.got pos d).length → fmtPlain g.sfmt g.qfmt = true →
           s'.queue r.core g.q
               = fillSlots gid (s.queue r.core g.q) ((List.range g.nData).map fun i => mget (mset g.got pos d) 0 i)
           ∧ (s'.core r.core).groups = (s.core r.core).groups.filter (fun g => g.gid != gid))
       ∧ (fmtPlain g.sfmt g.qfmt = true → framed s s' []))
   ∧ (∀ (id : Nat) (d0 d : Sector) (be : Word32) (r : Req) (s : State), s.reqOf id = some r → r.kind = .write d0 be →
     r.stage = .served d → s.coreCalm r.core = true →
     ∃ s', exec (.writeAck id) s = .next s' ∧ s'.reqs = s.reqs.filter (fun x => x.id != id)
       ∧ (s'.core r.core).queues = (s.core r.core).queues ∧ framed s s' []))

/-- QUEUE_DEADLOCK (R126): where the conditions hold, both streams halt in state 3, the execute stream's record takes
E_QUEUE_DEADLOCK where it was free, and no queue changes.
What it says beyond the rules is the model's choice (log entry 27). -/
def Obligations.DeadlockHaltsBothStreams : Prop :=
  ∀ (c : CoreId) (s : State), s.deadlocked c.val = true →
    ∃ s', exec (.queueDeadlock c) s = .next s' ∧ haltedBy s s' c.val .execute 0x11C1
      ∧ (s'.core c.val).queues = (s.core c.val).queues ∧ sameCoresBut s s' c.val
      ∧ (∀ a, memGet s'.spad a = memGet s.spad a ∧ memGet s'.near a = memGet s.near a)

/-- CORE_START, CORE_STOP, QUEUE_CLEAR (R150): streams that are stopped start at index 0 of their active bank with no loop
open; running ones that are not within a move stop in state 0; the queues of a core that does not run are emptied.
What it says beyond the rules is the model's choice (log entries 13, 14, 29). -/
def Obligations.CoreCommandsStartStopAndClear : Prop :=
  (∀ (c : CoreId) (who : Writer) (s : State), s.hears who (Reg.CORE_CTL c.val) = true → s.canStart c.val = true →
    ∃ s', exec (.coreStart c who) s = .next s'
      ∧ (∀ t : Strm, s'.wentTo c.val t 0 ∧ (s'.strm c.val t).loops = []
          ∧ s'.fld (Reg.STRM_STAT c.val (sidx t)) Fld.STRM_STAT_DEPTH = 0)
      ∧ s'.fld (Reg.SP_SCRUB c.val) Fld.SP_SCRUB_DONE = 0 ∧ (s'.core c.val).queues = (s.core c.val).queues
      ∧ framed s s' [Reg.STRM_STAT c.val 0, Reg.STRM_STAT c.val 1, Reg.SP_SCRUB c.val] ∧ sameCoresBut s s' c.val)
  ∧ (∀ (c : CoreId) (who : Writer) (s : State), s.hears who (Reg.CORE_CTL c.val) = true →
    (∀ t : Strm, ∀ m, (s.strm c.val t).hold ≠ .move m) →
    ∃ s', exec (.coreStop c who) s = .next s'
      ∧ (∀ t : Strm, s'.strmState c.val t = if s.strmState c.val t = 1 then 0 else s.strmState c.val t)
      ∧ (∀ t : Strm, s'.strmIndex c.val t = s.strmIndex c.val t)
      ∧ (s'.core c.val).queues = (s.core c.val).queues
      ∧ framed s s' [Reg.STRM_STAT c.val 0, Reg.STRM_STAT c.val 1] ∧ sameCoresBut s s' c.val)
  ∧ (∀ (c : CoreId) (who : Writer) (s : State), s.hears who (Reg.CORE_CTL c.val) = true → s.coreRuns c.val = false →
    s.coreCalm c.val = true →
    ∃ s', exec (.queueClear c who) s = .next s' ∧ (∀ q < 6, s'.queue c.val q = []) ∧ (s'.core c.val).groups = []
      ∧ framed s s' [] ∧ sameCoresBut s s' c.val)

/-- IMEM_LOAD_START (R145) that the loader accepts: the bank's READY falls, BUSY rises, the load is under way; a START aimed at
the active bank writes nothing to any bank and sets ERR. IMEM_LOAD_DONE: the entries stand in their table, READY rises, BUSY
falls; instructions are 16, pointers 8, descriptors 32 bytes of the source.
What it says beyond the rules is the model's choice (log entry 28). -/
def Obligations.LoaderFillsBanks : Prop :=
  (∀ (c : CoreId) (t : Strm) (who : Writer) (v : Word32) (s : State),
    s.hears who (Reg.IMEM_LD_CTL c.val (sidx t)) = true → (s.strm c.val t).load = none →
    (let w : Word := v.setWidth 64
     let b := wordFld w Fld.IMEM_LD_CTL_BANK
     let tg := wordFld w Fld.IMEM_LD_CTL_TARGET
     let n := wordFld w Fld.IMEM_LD_CTL_COUNT
     let i := wordFld w Fld.IMEM_LD_CTL_FIRST
     let src := s.fld (Reg.IMEM_LD_SRC c.val (sidx t)) Fld.IMEM_LD_SRC_SRC
     let st := Reg.IMEM_LD_STAT c.val (sidx t)
     wordFld w Fld.IMEM_LD_CTL_START = 1 →
     ∃ s', exec (.imemLoadStart c t who v) s = .next s'
      ∧ (b ≠ s.strmBank c.val t → 1 ≤ n → tg < 3 → i + n ≤ (if tg = 0 then 2048 else 32) → src % 32 = 0 →
          (s'.strm c.val t).load = some ⟨src, tg, b, n, i⟩ ∧ s'.fld st Fld.IMEM_LD_STAT_BUSY = 1
          ∧ s'.fld st (readyFld b) = 0 ∧ s'.fld st (readyFld (1 - b)) = s.fld st (readyFld (1 - b))
          ∧ framed s s' [Reg.IMEM_LD_CTL c.val (sidx t), st])
      ∧ (b = s.strmBank c.val t → s'.fld st Fld.IMEM_LD_STAT_ERR = 1 ∧ (s'.strm c.val t).load = none
          ∧ s'.fld st (readyFld b) = s.fld st (readyFld b))
      ∧ (s'.strm c.val t).imem = (s.strm c.val t).imem ∧ (s'.strm c.val t).ptrs = (s.strm c.val t).ptrs
      ∧ (s'.strm c.val t).descs = (s.strm c.val t).descs))
  ∧ (∀ (c : CoreId) (t : Strm) (l : LoadJob) (ds : Nat → Sector) (s : State), (s.strm c.val t).load = some l →
      l.bank < 2 →
    s.coreCalm c.val = true →
    (∀ k, 32 * k < l.count * itemBytes l.target → s.fetchSec c.val t 4 (l.src + 32 * k) = (s, .ok (ds k))) →
    ∃ s', exec (.imemLoadDone c t) s = .next s' ∧ (s'.strm c.val t).load = none
      ∧ s'.fld (Reg.IMEM_LD_STAT c.val (sidx t)) (readyFld l.bank) = 1
      ∧ s'.fld (Reg.IMEM_LD_STAT c.val (sidx t)) Fld.IMEM_LD_STAT_BUSY = 0
      ∧ (∀ i < l.count, l.target = 0 → mget (s'.strm c.val t).imem 0 (l.bank * 2048 + l.first + i)
            = BitVec.ofNat 128 ((ds (i / 2)).toNat / 2 ^ (128 * (i % 2))))
      ∧ (∀ i < l.count, l.target = 1 → mget (s'.strm c.val t).ptrs 0 (l.bank * 32 + l.first + i)
            = BitVec.ofNat 64 ((ds (i / 4)).toNat / 2 ^ (64 * (i % 4))))
      ∧ (∀ i < l.count, l.target = 2 → mget (s'.strm c.val t).descs 0 (l.bank * 32 + l.first + i) = ds i)
      ∧ framed s s' [Reg.IMEM_LD_STAT c.val (sidx t)] ∧ sameCoresBut s s' c.val)

/-! Counter clears. -/

/-- The CNT_CLR commands of a core's blocks, while its island is clocked (R74, R95, R120, R182, R208, R266, R313): each zeroes
the counters its register clears, and nothing else of the whole state.

The CNT_CLR commands of the tiers, the links, the exchange and the power controller, while their block is clocked (R234,
R254, R295, R354): each zeroes the counters its register clears, and nothing else of the whole state; a record that a trip
left from before the start goes with PWR_CTL's.
What it says beyond the rules is the model's choice (log entry 31). -/
def Obligations.CountersClear : Prop :=
  (∀ (c : CoreId) (s : State), s.islEnabled (coreIsland c.val) = true →
     (∃ t, exec (.arrayCntClr c) s = .next t ∧ cleared s t
       [(Reg.ARRAY_ACT c.val, Fld.ARRAY_ACT_ACT), (Reg.ARRAY_USEFUL c.val, Fld.ARRAY_USEFUL_USEFUL),
        (Reg.ARRAY_STALL_FEED c.val, Fld.ARRAY_STALL_FEED_CYCLES), (Reg.ARRAY_STALL_WIN c.val, Fld.ARRAY_STALL_WIN_CYCLES),
        (Reg.ARRAY_STALL_ACC c.val, Fld.ARRAY_STALL_ACC_CYCLES), (Reg.ACC_ECC c.val, Fld.ACC_ECC_CORR_CNT)])
     ∧ (∃ t, exec (.nfCntClr c) s = .next t ∧ cleared s t
       [(Reg.NF_POS_INF c.val, Fld.NF_POS_INF_COUNT), (Reg.NF_NEG_INF c.val, Fld.NF_NEG_INF_COUNT),
        (Reg.NF_NAN c.val, Fld.NF_NAN_COUNT), (Reg.NF_FIRST c.val, ⟨0, 64⟩)])
     ∧ (∃ t, exec (.maskCntClr c) s = .next t ∧ cleared s t
       [(Reg.CMPR_DROP c.val, Fld.CMPR_DROP_COUNT), (Reg.CMPR_EXACT_CAP c.val, Fld.CMPR_EXACT_CAP_COUNT),
        (Reg.PRR_SWAPS c.val, Fld.PRR_SWAPS_COUNT), (Reg.PRR_FLIPS c.val, Fld.PRR_FLIPS_COUNT),
        (Reg.PRR_STALE c.val, Fld.PRR_STALE_COUNT), (Reg.PRR_NAN_CAND c.val, Fld.PRR_NAN_CAND_COUNT),
        (Reg.PRED_SKIP c.val, Fld.PRED_SKIP_COUNT), (Reg.PRED_AUDIT c.val, Fld.PRED_AUDIT_COUNT),
        (Reg.PRED_MISS c.val, Fld.PRED_MISS_COUNT), (Reg.PRED_BAND c.val, Fld.PRED_BAND_DROP),
        (Reg.PRED_BAND c.val, Fld.PRED_BAND_DONE), (Reg.PRED_OVER c.val, Fld.PRED_OVER_COUNT)])
     ∧ (∃ t, exec (.spCntClr c) s = .next t ∧ cleared s t
       ([(Reg.SP_ECC c.val, Fld.SP_ECC_CORR_CNT), (Reg.SP_PATROL c.val, Fld.SP_PATROL_SWEEPS)]
         ++ (List.range 5).map fun i => (Reg.SP_CONF c.val i, Fld.SP_CONF_CYCLES)))
     ∧ (∃ t, exec (.mrCntClr c) s = .next t ∧ cleared s t [(Reg.MR_LATE c.val, Fld.MR_LATE_COUNT)])
     ∧ (∃ t, exec (.detCntClr c) s = .next t ∧ cleared s t
       [(Reg.MAXEXP c.val, Fld.MAXEXP_EXP), (Reg.GNORM c.val, Fld.GNORM_VALUE)])
     ∧ (∃ t, exec (.expCntClr c) s = .next t ∧ cleared s t
       [(Reg.RT_CNT c.val, Fld.RT_CNT_OVF), (Reg.RT_CNT c.val, Fld.RT_CNT_NOCH), (Reg.CB_CNT c.val, Fld.CB_CNT_DSEC),
        (Reg.CB_CNT c.val, Fld.CB_CNT_STALE)]))
  ∧
  (∀ s : State,
     (∀ h : Fin 8, s.uncEnabled (8 + h.val) = true → ∃ t, exec (.nearCntClr h) s = .next t ∧ cleared s t
       [(Reg.NEAR_ECC h.val, Fld.NEAR_ECC_CORR_CNT), (Reg.NEAR_DIE_CORR h.val, Fld.NEAR_DIE_CORR_COUNT),
        (Reg.NEAR_LCR_CAPPED h.val, Fld.NEAR_LCR_CAPPED_COUNT), (Reg.NEAR_PATROL h.val, Fld.NEAR_PATROL_SWEEPS)])
     ∧ (∀ n : Fin 4, s.uncEnabled (16 + n.val) = true → ∃ t, exec (.rchCntClr n) s = .next t ∧ cleared s t
       [(Reg.RCH_ECC n.val, Fld.RCH_ECC_CORR_CNT), (Reg.RCH_LCR_CAPPED n.val, Fld.RCH_LCR_CAPPED_COUNT)])
     ∧ (∀ p : Port, s.uncEnabled (20 + p.val / 4) = true → ∃ t, exec (.nrlCntClr p) s = .next t ∧ cleared s t
       [(Reg.NRL_FEC_CORR (p.val / 4) (p.val % 4), Fld.NRL_FEC_CORR_COUNT),
        (Reg.NRL_FEC_UNC (p.val / 4) (p.val % 4), Fld.NRL_FEC_UNC_COUNT),
        (Reg.NRL_REPLAY (p.val / 4) (p.val % 4), Fld.NRL_REPLAY_COUNT),
        (Reg.NRL_LOST (p.val / 4) (p.val % 4), Fld.NRL_LOST_COUNT)])
     ∧ (∀ g : Group, s.uncEnabled (20 + g.val) = true → ∃ t, exec (.nrlChCntClr g) s = .next t ∧ cleared s t
       [(Reg.NRL_CH_CNT g.val, Fld.NRL_CH_CNT_CH_OVF), (Reg.NRL_CH_CNT g.val, Fld.NRL_CH_CNT_CH_SKIP),
        (Reg.NRL_CH_CNT g.val, Fld.NRL_CH_CNT_CH_LATE)])
     ∧ (∀ g : Group, s.uncEnabled (20 + g.val) = true → ∃ t, exec (.xchCntClr g) s = .next t ∧ cleared s t
       [(Reg.XCH_CNT0 g.val, ⟨0, 64⟩), (Reg.XCH_CNT1 g.val, ⟨0, 64⟩), (Reg.XCH_CHK g.val, ⟨0, 64⟩)])
     ∧ (s.boot.pwrCopy = false → ∃ t, exec .pwrCntClr s = .next t ∧ cleared s t
       [(Reg.PWR_THROT, Fld.PWR_THROT_THERMAL), (Reg.PWR_THROT, Fld.PWR_THROT_LIMIT), (Reg.THERM_MAX, Fld.THERM_MAX_PEAK_C)])
     ∧ (s.boot.pwrCopy = true → ∃ t, exec .pwrCntClr s = .next t ∧ (t.reg Reg.PWR_ERR).toNat = 0 ∧ t.boot.pwrCopy = false
         ∧ t.fld Reg.PWR_THROT Fld.PWR_THROT_THERMAL = 0 ∧ t.fld Reg.PWR_THROT Fld.PWR_THROT_LIMIT = 0
         ∧ t.fld Reg.THERM_MAX Fld.THERM_MAX_PEAK_C = 0
         ∧ framed s t [Reg.PWR_ERR, Reg.PWR_THROT, Reg.THERM_MAX]))


/-! Register writes. -/

/-- REGISTER_WRITE of a whole 32-bit register whose chapter adds nothing (R7, R8, R326, R329), by firmware, a core or the
manager: a live field takes the bits written, a read-only or write-only one keeps its value, a W1C one clears where 1 is
written, a static one takes the bits only while its owner does not run, a held one at once only where nothing makes it
wait; a read then returns what was last written to a held field. Nothing but that register and the records of
configuration errors changes. What it says beyond the rules is the model's choice (log entry 78). -/
def Obligations.RegisterWriteFollowsAccessClasses : Prop :=
  ∀ (who : Writer) (addr : BitVec 48) (v : Word) (r : RegSpec) (is : List Nat) (s : State),
    (∀ fn, who ≠ .host fn) → addr.toNat % 4 = 0 → s.inBootBuf addr.toNat = false → s.inFlash addr.toNat = false →
    s.regGated addr.toNat = false → regFind addr.toNat = some (r, is, 0) → r.bytes = 4 → v.toNat < 2 ^ 32 →
    s.plainWrite who r is addr.toNat v → (∀ h ∈ s.held, h.addr ≠ addr.toNat) →
    ∃ s', exec (.registerWrite who addr false v) s = .next s'
      ∧ (∀ f ∈ r.fields,
          (f.access = .rw ∨ f.access = .rwc → s'.fld addr.toNat f.pos = wordFld v f.pos)
          ∧ (f.access = .ro ∨ f.access = .wo → s'.fld addr.toNat f.pos = s.fld addr.toNat f.pos)
          ∧ (f.access = .w1c →
              s'.fld addr.toNat f.pos = s.fld addr.toNat f.pos - (s.fld addr.toNat f.pos &&& wordFld v f.pos))
          ∧ (f.access = .rws → s'.fld addr.toNat f.pos
              = if s.ownerRuns r is then s.fld addr.toNat f.pos else wordFld v f.pos)
          ∧ (f.access = .rwh → wordFld (s'.getReg addr.toNat) f.pos = wordFld v f.pos
              ∧ s'.fld addr.toNat f.pos = if s.heldWaits r is then s.fld addr.toNat f.pos else wordFld v f.pos))
      ∧ ((∀ f ∈ r.fields, f.access = .rws → s.ownerRuns r is = true → s.fld addr.toNat f.pos = wordFld v f.pos) →
          framed s s' [addr.toNat])
      ∧ ((∃ f ∈ r.fields, f.access = .rws ∧ s.ownerRuns r is = true ∧ s.fld addr.toNat f.pos ≠ wordFld v f.pos) →
          s.flag Reg.CFG_ERR Fld.CFG_ERR_VALID = false → addr.toNat ≠ Reg.CFG_ERR →
          s'.fld Reg.CFG_ERR Fld.CFG_ERR_VALID = 1 ∧ s'.fld Reg.CFG_ERR Fld.CFG_ERR_CODE = cfgLive r.block % 2 ^ 16
          ∧ (s'.reg Reg.CFG_ERR_ADDR).toNat = addr.toNat)

/-! The memories at work. -/

/-- SP_PATROL (R177, R182): with patrol enabled it reads the line of four words that its row names in the bank given. The
words with one wrong bit are corrected and counted, saturating, and hold none any longer; the first uncorrectable one is
recorded with source 5 where none was, and stays. The row goes on with the last bank and counts a sweep with its last row;
held writes of the core's patrol take effect there (R326). With patrol disabled it only does that.

NEAR_PATROL (R219, R234): with patrol enabled and the stack awake the die's count grows, and the sector of the pseudo-channel
is corrected and counted, or found uncorrectable and recorded where none was; the sector goes on with the last
pseudo-channel. What it says beyond the rules is the model's choice (log entry 40). -/
def Obligations.PatrolsCountAndRecord : Prop :=
  (∀ (c : CoreId) (bank : Fin 64) (word : Fin 4) (e : Ecc) (s : State), s.islEnabled (coreIsland c.val) = true →
    s.coreEnabled c.val = true →
    (let held (t : State) : State :=
       if bank.val < 63 then t else t.applyHeld fun r is => r.boundary == .patrolRow && is.headD 0 == c.val
     let row := s.fld (Reg.SP_PATROL c.val) Fld.SP_PATROL_ROW
     let off := row * 1024 + bank.val * 16
     let w := (c.val * 0x20_0000 + off) / 4
     let ue := if e = .uncorrectable ∧ w + word.val ∉ s.spUe then (w + word.val) :: s.spUe else s.spUe
     let corrected := (List.range 4).filter fun i =>
       (s.spWeak.contains (w + i) || (e == .corrected && i == word.val)) && !ue.contains (w + i)
     (s.flag (Reg.SP_CFG c.val) Fld.SP_CFG_PATROL_EN = false → exec (.spPatrol c bank word e) s = .next (held s))
     ∧ (s.flag (Reg.SP_CFG c.val) Fld.SP_CFG_PATROL_EN = true →
        ∃ t, exec (.spPatrol c bank word e) s = .next (held t)
          ∧ framed s t [Reg.SP_ECC c.val, Reg.SP_UE_LOC c.val, Reg.SP_PATROL c.val] ∧ t.cores = s.cores ∧ t.held = s.held
          ∧ t.fld (Reg.SP_ECC c.val) Fld.SP_ECC_CORR_CNT
              = min 65535 (s.fld (Reg.SP_ECC c.val) Fld.SP_ECC_CORR_CNT + corrected.length)
          ∧ t.spUe = ue ∧ t.spWeak = s.spWeak.filter (fun x => decide (x < w ∨ w + 4 ≤ x ∨ x ∈ ue))
          ∧ (∀ i < 4, w + i ∈ ue → (∀ j < i, w + j ∉ ue) → s.flag (Reg.SP_ECC c.val) Fld.SP_ECC_UE = false →
              t.fld (Reg.SP_ECC c.val) Fld.SP_ECC_UE = 1 ∧ t.fld (Reg.SP_ECC c.val) Fld.SP_ECC_UE_SRC = 5
              ∧ (t.reg (Reg.SP_UE_LOC c.val)).toNat = off + 4 * i)
          ∧ ((∀ i < 4, w + i ∉ ue) ∨ s.flag (Reg.SP_ECC c.val) Fld.SP_ECC_UE = true →
              t.fld (Reg.SP_ECC c.val) Fld.SP_ECC_UE = s.fld (Reg.SP_ECC c.val) Fld.SP_ECC_UE
              ∧ t.fld (Reg.SP_ECC c.val) Fld.SP_ECC_UE_SRC = s.fld (Reg.SP_ECC c.val) Fld.SP_ECC_UE_SRC
              ∧ t.reg (Reg.SP_UE_LOC c.val) = s.reg (Reg.SP_UE_LOC c.val))
          ∧ t.fld (Reg.SP_PATROL c.val) Fld.SP_PATROL_ROW = (if bank.val = 63 then (row + 1) % 2048 else row)
          ∧ t.fld (Reg.SP_PATROL c.val) Fld.SP_PATROL_SWEEPS
              = (if bank.val = 63 ∧ row = 2047 then min (2 ^ 21 - 1) (s.fld (Reg.SP_PATROL c.val) Fld.SP_PATROL_SWEEPS + 1)
                 else s.fld (Reg.SP_PATROL c.val) Fld.SP_PATROL_SWEEPS))))
  ∧ (∀ (h : Fin 8) (pc : Fin 32) (e : Ecc) (n : BitVec 16) (s : State),
    s.flag (Reg.NEAR_CTL h.val) Fld.NEAR_CTL_PATROL_EN = true → s.uncEnabled (8 + h.val) = true →
    s.flag (Reg.NEAR_STAT h.val) Fld.NEAR_STAT_SELFREF = false →
    (let k := s.fld (Reg.NEAR_PATROL h.val) Fld.NEAR_PATROL_SECTOR
     let key := ((32 * h.val + pc.val) * 2 ^ 31 + 32 * k) / 32
     let bad : Prop := e = .uncorrectable ∨ key ∈ s.nearUe
     ∃ t, exec (.nearPatrol h pc e n) s = .next t ∧ t.cores = s.cores ∧ t.held = s.held
      ∧ framed s t [Reg.NEAR_ECC h.val, Reg.NEAR_UE_ADDR h.val, Reg.NEAR_PATROL h.val, Reg.NEAR_DIE_CORR h.val]
      ∧ t.fld (Reg.NEAR_DIE_CORR h.val) Fld.NEAR_DIE_CORR_COUNT
          = min (2 ^ 32 - 1) (s.fld (Reg.NEAR_DIE_CORR h.val) Fld.NEAR_DIE_CORR_COUNT + n.toNat)
      ∧ t.nearWeak = s.nearWeak.filter (· != key)
      ∧ t.nearUe = (if e = .uncorrectable ∧ key ∉ s.nearUe then key :: s.nearUe else s.nearUe)
      ∧ (¬ bad → (e = .corrected ∨ key ∈ s.nearWeak) → t.fld (Reg.NEAR_ECC h.val) Fld.NEAR_ECC_CORR_CNT
          = min 65535 (s.fld (Reg.NEAR_ECC h.val) Fld.NEAR_ECC_CORR_CNT + 1))
      ∧ (bad ∨ (e ≠ .corrected ∧ key ∉ s.nearWeak) →
          t.fld (Reg.NEAR_ECC h.val) Fld.NEAR_ECC_CORR_CNT = s.fld (Reg.NEAR_ECC h.val) Fld.NEAR_ECC_CORR_CNT)
      ∧ (bad → s.flag (Reg.NEAR_ECC h.val) Fld.NEAR_ECC_UE = false →
          t.fld (Reg.NEAR_ECC h.val) Fld.NEAR_ECC_UE = 1 ∧ t.fld (Reg.NEAR_ECC h.val) Fld.NEAR_ECC_UE_SRC = 1
          ∧ t.fld (Reg.NEAR_ECC h.val) Fld.NEAR_ECC_UE_PC = pc.val
          ∧ ∀ a, s.nearAddr (32 * h.val + pc.val) (32 * k) = some a → t.reg (Reg.NEAR_UE_ADDR h.val) = BitVec.ofNat 64 a)
      ∧ (¬ bad ∨ s.flag (Reg.NEAR_ECC h.val) Fld.NEAR_ECC_UE = true →
          t.fld (Reg.NEAR_ECC h.val) Fld.NEAR_ECC_UE = s.fld (Reg.NEAR_ECC h.val) Fld.NEAR_ECC_UE
          ∧ t.reg (Reg.NEAR_UE_ADDR h.val) = s.reg (Reg.NEAR_UE_ADDR h.val))
      ∧ t.fld (Reg.NEAR_PATROL h.val) Fld.NEAR_PATROL_SECTOR = (if pc.val = 31 then (k + 1) % 2 ^ 26 else k)
      ∧ t.fld (Reg.NEAR_PATROL h.val) Fld.NEAR_PATROL_SWEEPS
          = (if pc.val = 31 ∧ k = 2 ^ 26 - 1 then min 63 (s.fld (Reg.NEAR_PATROL h.val) Fld.NEAR_PATROL_SWEEPS + 1)
             else s.fld (Reg.NEAR_PATROL h.val) Fld.NEAR_PATROL_SWEEPS)))

/-- REMOTE_SP_REQUEST, NEAR_REQUEST (R176, R218–R222): a request that has arrived, in its slot, is served: a read takes the
sector as memory holds it, a write puts its enabled bytes there and no other byte changes; a corrected read is counted,
saturating. A latency-critical read at near memory counts in its window, whose 600th caps it.
What it says beyond the rules is the model's choice (log entries 39, 41). -/
def Obligations.RequestsAreServed : Prop :=
  (∀ (id : Nat) (e : Ecc) (r : Req) (l : Loc) (o : Option Nat) (s : State), s.reqOf id = some r → r.path = .remote →
    r.stage = .issued → s.place r.addr = some (l, o) → s.arrives r l = true → l.space = .spad →
    s.spadOpen (l.key / 0x20_0000) = true →
    s.inCombine (l.key / 0x20_0000) (l.key % 0x20_0000) = false → Memory.wf s.spad = true → e ≠ .uncorrectable →
    ∃ s', exec (.remoteSpRequest id e) s = .next s' ∧ s'.cores = s.cores ∧ sameFar s s'
      ∧ (r.kind.isWrite = false → restaged s s' id (.served (memSector s.spad l.key)) ∧ s'.spad = s.spad
          ∧ sameRegsBut s s' [Reg.SP_ECC (l.key / 0x20_0000)]
          ∧ s'.fld (Reg.SP_ECC (l.key / 0x20_0000)) Fld.SP_ECC_CORR_CNT
              = (if e = .corrected then min 65535 (s.fld (Reg.SP_ECC (l.key / 0x20_0000)) Fld.SP_ECC_CORR_CNT + 1)
                 else s.fld (Reg.SP_ECC (l.key / 0x20_0000)) Fld.SP_ECC_CORR_CNT))
      ∧ (∀ d be, r.kind = .write d be → restaged s s' id (.served 0) ∧ wroteBytes s.spad s'.spad l.key d be
          ∧ sameRegsBut s s' []))
  ∧ (∀ (id : Nat) (e : Ecc) (r : Req) (l : Loc) (o : Option Nat) (s : State), s.reqOf id = some r → r.path = .near →
    r.stage = .issued → s.place r.addr = some (l, o) → s.arrives r l = true → l.space = .near → s.gated l = false →
    s.margined l = false → s.nearTurn r (l.key / 2 ^ 31) = true → s.scrubHides l = false → s.nearUe = [] →
    s.nearWeak = [] → Memory.wf s.near = true → e ≠ .uncorrectable →
    (let h := l.key / 2 ^ 31 / 32
     let n := mget s.lcrWin 0 (l.key / 2 ^ 31)
     ∃ s', exec (.nearRequest id e) s = .next s' ∧ s'.cores = s.cores ∧ s'.spad = s.spad ∧ s'.reach = s.reach
      ∧ (r.critical = false → s'.lcrWin = s.lcrWin)
      ∧ (r.critical = true → mget s'.lcrWin 0 (l.key / 2 ^ 31) = n + 1)
      ∧ s'.fld (Reg.NEAR_LCR_CAPPED h) Fld.NEAR_LCR_CAPPED_COUNT
          = (if r.critical = true ∧ n = 599 then min (2 ^ 32 - 1) (s.fld (Reg.NEAR_LCR_CAPPED h) Fld.NEAR_LCR_CAPPED_COUNT + 1)
             else s.fld (Reg.NEAR_LCR_CAPPED h) Fld.NEAR_LCR_CAPPED_COUNT)
      ∧ (r.kind.isWrite = false → restaged s s' id (.served (memSector s.near l.key)) ∧ s'.near = s.near
          ∧ sameRegsBut s s' [Reg.NEAR_ECC h, Reg.NEAR_LCR_CAPPED h]
          ∧ s'.fld (Reg.NEAR_ECC h) Fld.NEAR_ECC_CORR_CNT
              = (if e = .corrected then min 65535 (s.fld (Reg.NEAR_ECC h) Fld.NEAR_ECC_CORR_CNT + 1)
                 else s.fld (Reg.NEAR_ECC h) Fld.NEAR_ECC_CORR_CNT))
      ∧ (∀ d be, r.kind = .write d be → restaged s s' id (.served 0) ∧ wroteBytes s.near s'.near l.key d be
          ∧ sameRegsBut s s' [])))

/-- REACH_REQUEST, REACH_COMPLETION, REACH_TIMEOUT, REACH_LINK_DOWN (R225–R227): over a link that is up a request whose turn
it is goes to the device and is counted in its window, with the other sector of its granule where the two make one transfer;
its completion serves the transfer from the device's memory, or writes it there; a read without a completion stops its core
with E_MEM_UE; a link going down shows it and loses the writes outstanding on it.
What it says beyond the rules is the model's choice (log entries 42, 43). -/
def Obligations.ReachRequestsComeBackOrFail : Prop :=
  (∀ (id : Nat) (r : Req) (l : Loc) (o : Option Nat) (s : State), s.reqOf id = some r → r.path = .reach →
    r.stage = .issued → s.place r.addr = some (l, o) → s.arrives r l = true → s.gated l = false → s.power.xbLost = false →
    s.reachUp (reachPort r.addr) = true → s.reachTurn (reachPort r.addr) r = true →
    (let k := reachPort r.addr * 8 + s.reqCtx r
     ∃ s', exec (.reachRequest id) s = .next s' ∧ framed s s' [] ∧ s'.cores = s.cores
      ∧ (s.mateOf r = none → restaged s s' id .deviceWait)
      ∧ (∀ q, s.mateOf r = some q → s'.reqs = s.reqs.map fun x =>
          if x.id = id then { x with stage := .deviceWait, mate := some q.id }
          else if x.id = q.id then { x with stage := .deviceWait, mate := some id } else x)
      ∧ mget s'.rchWin (0, 0) k
          = ((mget s.rchWin (0, 0) k).1 + (if r.critical then 1 else 0), (mget s.rchWin (0, 0) k).2 + 1)))
  ∧ (∀ (id : Nat) (r : Req) (st : ReachStatus) (s : State), s.reqOf id = some r → r.path = .reach → r.stage = .deviceWait →
    s.power.xbLost = false → s.granuleBusy r = false → st ≠ .failed → (s.reqs.map (·.id)).Nodup →
    ((∀ q ∈ s.transfer r, q.kind.isWrite = false ∧ ∃ l o, s.place q.addr = some (l, o) ∧ l.space = .reach
        ∧ s.gated l = false ∧ mfind s.reachUe (l.key / 32) = none ∧ s.scrubHides l = false) →
      ∃ s', exec (.reachCompletion id st) s = .next s' ∧ s'.cores = s.cores ∧ sameMemory s s'
        ∧ sameRegsBut s s' [Reg.RCH_ECC (reachPort r.addr)]
        ∧ s'.fld (Reg.RCH_ECC (reachPort r.addr)) Fld.RCH_ECC_CORR_CNT
            = (if st = .corrected then min 65535 (s.fld (Reg.RCH_ECC (reachPort r.addr)) Fld.RCH_ECC_CORR_CNT + 1)
               else s.fld (Reg.RCH_ECC (reachPort r.addr)) Fld.RCH_ECC_CORR_CNT)
        ∧ (∀ q ∈ s.transfer r, ∀ l o, s.place q.addr = some (l, o) →
            s'.reqOf q.id = some { q with stage := .served (memSector s.reach l.key) })
        ∧ ∀ q ∈ s.reqs, q ∉ s.transfer r → s'.reqOf q.id = some q)
    ∧ (∀ l o d be, s.transfer r = [r] → r.kind = .write d be → s.place r.addr = some (l, o) → l.space = .reach →
        s.gated l = false → Memory.wf s.reach = true →
      ∃ s', exec (.reachCompletion id st) s = .next s' ∧ s'.cores = s.cores ∧ s'.spad = s.spad ∧ s'.near = s.near
        ∧ sameRegsBut s s' [Reg.RCH_ECC (reachPort r.addr)] ∧ restaged s s' id (.served 0)
        ∧ wroteBytes s.reach s'.reach l.key d be))
  ∧ (∀ (id : Nat) (r : Req) (l : Loc) (o : Option Nat) (f : Flight) (s : State), s.reqOf id = some r → r.path = .reach →
      r.stage = .deviceWait → s.power.xbLost = false → s.transfer r = [r] → (∃ gid pos, r.kind = .read gid pos) →
      s.place r.addr = some (l, o) → l.space = .reach → r.core < 2304 → s.coreCalm r.core = true →
      (s.core r.core).flights.find? (fun f => f.iid == r.iid) = some f →
    ∃ s', exec (.reachTimeout id) s = .next s' ∧ s'.strmState r.core .access = 3 ∧ s'.strmState r.core .execute = 3
      ∧ s'.reqOf id = none ∧ sameMemory s s'
      ∧ (s.flag (Reg.STRM_ERR r.core 0) Fld.STRM_ERR_VALID = false →
          s'.fld (Reg.STRM_ERR r.core 0) Fld.STRM_ERR_VALID = 1 ∧ s'.fld (Reg.STRM_ERR r.core 0) Fld.STRM_ERR_CODE = 0x44C1)
      ∧ (s.flag (Reg.RCH_ECC (reachPort r.addr)) Fld.RCH_ECC_UE = false →
          s'.fld (Reg.RCH_ECC (reachPort r.addr)) Fld.RCH_ECC_UE = 1
          ∧ s'.fld (Reg.RCH_ECC (reachPort r.addr)) Fld.RCH_ECC_UE_KIND = 1
          ∧ (s'.reg (Reg.RCH_UE_ADDR (reachPort r.addr))).toNat = r.addr))
  ∧ (∀ (n : Fin 4) (s : State), (s.reqs.map (·.id)).Nodup → s.power.xbLost = false → Memory.wf s.reach = true →
    (∀ r ∈ s.reqs, r.path = .reach → reachPort r.addr = n.val → r.kind.isWrite = true) →
    ∃ s', exec (.reachLinkDown n) s = .next s' ∧ s'.reachUp n.val = false
      ∧ sameRegsBut s s' [Reg.RCH_STAT n.val] ∧ s'.cores = s.cores ∧ s'.near = s.near ∧ s'.spad = s.spad
      ∧ (∀ a, a / 2 ^ 39 ≠ n.val → memGet s'.reach a = memGet s.reach a)
      ∧ s'.reqs = s.reqs.map fun r =>
          if r.path = .reach ∧ reachPort r.addr = n.val ∧ (r.stage = .issued ∨ r.stage = .deviceWait)
          then { r with stage := .lost } else r)

/-- TIER_WINDOW (R222, R227, R326): the windows' counts start again; a port's capped count grows by one for each partition
that had latency-critical reads and gave them half of its transfers or more, saturating; every held field of a register with
that boundary takes effect, and one with another boundary goes on waiting.
What it says beyond the rules is the model's choice (log entry 41). -/
def Obligations.TierWindowAppliesHeldFields : Prop :=
  (∀ s : State,
    (let capped (n : Nat) : Nat :=
       (s.rchWin.filter fun e => e.1 / 8 == n && decide (0 < e.2.1 ∧ e.2.2 ≤ 2 * e.2.1)).length
     ∃ t, exec .tierWindow s = .next (t.applyHeld fun r _ => r.boundary == .window)
      ∧ t.lcrWin = [] ∧ t.rchWin = [] ∧ t.lcrLast = [] ∧ t.rchLast = [] ∧ t.cores = s.cores ∧ t.held = s.held
      ∧ framed s t (s.rchWin.map fun e => Reg.RCH_LCR_CAPPED (e.1 / 8))
      ∧ ∀ n, t.fld (Reg.RCH_LCR_CAPPED n) Fld.RCH_LCR_CAPPED_COUNT
          = min (2 ^ 32 - 1) (s.fld (Reg.RCH_LCR_CAPPED n) Fld.RCH_LCR_CAPPED_COUNT + capped n)))
  ∧ (∀ (s : State) (h : HeldWrite) (r : RegSpec) (is : List Nat) (b : Nat), s.held = [h] →
      regFind h.addr = some (r, is, b) → s.rchWin = [] →
    ∃ s', exec .tierWindow s = .next s' ∧ s'.lcrWin = [] ∧ s'.rchWin = [] ∧ s'.cores = s.cores ∧ framed s s' [h.addr]
      ∧ (r.boundary = .window → s'.held = [] ∧ s'.reg h.addr = (s.reg h.addr &&& ~~~h.mask) ||| (h.value &&& h.mask))
      ∧ (r.boundary ≠ .window → s'.held = [h] ∧ s'.reg h.addr = s.reg h.addr))

/-- CORE_SCRUB_DONE, NEAR_SCRUB_DONE, REACH_SCRUB_DONE (R180, R232): at the end of a scrub the core's scratchpad reads as
zero and its accumulators and queues are empty, with its counters at 0; the interleave set's pseudo-channels read as zero;
the port's marked segments read as zero and are marked no longer; each shows DONE, and no other byte changes.

The margining commands of the near stacks, the reach ports and the Nirlo ports (R229, R230, R254): a START that nothing
stands in the way of takes the fields written and shows BUSY; the end of the run shows DONE with what passed and how many
errors were counted; a Nirlo port retrains first. What it says beyond the rules is the model's choice (log entries 30, 45, 46). -/
def Obligations.ScrubsAndMarginRunsEnd : Prop :=
  ((∀ (c : CoreId) (s : State), (s.core c.val).scrubbing = true → Memory.wf s.spad = true →
     ∃ s', exec (.coreScrubDone c) s = .next s' ∧ s'.flag (Reg.SP_SCRUB c.val) Fld.SP_SCRUB_DONE = true
       ∧ s'.flag (Reg.SP_SCRUB c.val) Fld.SP_SCRUB_BUSY = false ∧ (s'.core c.val).scrubbing = false
       ∧ (∀ a, memGet s'.spad a = if a / 0x20_0000 = c.val then 0 else memGet s.spad a) ∧ sameFar s s'
       ∧ (s'.core c.val).acc = [] ∧ (s'.core c.val).slots = [] ∧ (s'.core c.val).queues = []
       ∧ (∀ t : Strm, ∀ k < 8, s'.cnt c.val t k = 0) ∧ sameCoresBut s s' c.val)
   ∧ (∀ (n : Fin 8) (s : State), s.flag (Reg.NEAR_SCRUB n.val) Fld.NEAR_SCRUB_BUSY = true → Memory.wf s.near = true →
     ∃ s', exec (.nearScrubDone n) s = .next s' ∧ s'.flag (Reg.NEAR_SCRUB n.val) Fld.NEAR_SCRUB_DONE = true
       ∧ s'.flag (Reg.NEAR_SCRUB n.val) Fld.NEAR_SCRUB_BUSY = false
       ∧ (∀ a, memGet s'.near a = if a / 2 ^ 31 ∈ s.setChannels n.val then 0 else memGet s.near a)
       ∧ s'.spad = s.spad ∧ s'.reach = s.reach ∧ s'.cores = s.cores
       ∧ sameRegsBut s s' [Reg.NEAR_SCRUB n.val, Reg.SEC_STAT])
   ∧ (∀ (n : Fin 4) (s : State), s.flag (Reg.RCH_SCRUB n.val) Fld.RCH_SCRUB_BUSY = true → Memory.wf s.reach = true →
     ∃ s', exec (.reachScrubDone n) s = .next s' ∧ s'.flag (Reg.RCH_SCRUB n.val) Fld.RCH_SCRUB_DONE = true
       ∧ s'.flag (Reg.RCH_SCRUB n.val) Fld.RCH_SCRUB_BUSY = false
       ∧ (∀ i < 16, s'.flag (Reg.RCH_SEG n.val i) Fld.RCH_SEG_SCRUB = false)
       ∧ (∀ a, memGet s'.reach a
           = if (List.range 16).any fun i => s.flag (Reg.RCH_SEG n.val i) Fld.RCH_SEG_SCRUB
               && decide (a / 2 ^ 34 = n.val * 32 + s.fld (Reg.RCH_SEG n.val i) Fld.RCH_SEG_DSEG)
             then 0 else memGet s.reach a)
       ∧ s'.spad = s.spad ∧ s'.near = s.near ∧ s'.cores = s.cores))
  ∧
  ((∀ (h : Fin 8) (v : Word32) (s : State), s.uncEnabled (8 + h.val) = true →
     (let w : Word := v.setWidth 64
      wordFld w Fld.NEAR_MRG_CTL_START = 1 → wordFld w Fld.NEAR_MRG_CTL_STEPS ≠ 0 →
      s.flag (Reg.NEAR_MRG_STAT h.val) Fld.NEAR_MRG_STAT_BUSY = false →
      s.pcRuns (32 * h.val + wordFld w Fld.NEAR_MRG_CTL_PC) = false →
      ∃ s', exec (.nearMarginStart h v) s = .next s' ∧ s'.flag (Reg.NEAR_MRG_STAT h.val) Fld.NEAR_MRG_STAT_BUSY = true
       ∧ mfind s'.nearMargin h.val = some (wordFld w Fld.NEAR_MRG_CTL_PC)
       ∧ s'.fld (Reg.NEAR_MRG_CTL h.val) Fld.NEAR_MRG_CTL_STEPS = wordFld w Fld.NEAR_MRG_CTL_STEPS
       ∧ framed s s' [Reg.NEAR_MRG_CTL h.val, Reg.NEAR_MRG_STAT h.val]))
   ∧ (∀ (h : Fin 8) (pass : BitVec 6) (errs : BitVec 16) (s : State), mwf s.nearMargin = true → s.nearWait = [] →
     s.parked = [] → s.margHeld = [] →
     s.flag (Reg.NEAR_MRG_STAT h.val) Fld.NEAR_MRG_STAT_BUSY = true →
     ∃ s', exec (.nearMarginDone h pass errs) s = .next s'
         ∧ s'.flag (Reg.NEAR_MRG_STAT h.val) Fld.NEAR_MRG_STAT_BUSY = false
       ∧ s'.fld (Reg.NEAR_MRG_STAT h.val) Fld.NEAR_MRG_STAT_DONE = 1
       ∧ s'.fld (Reg.NEAR_MRG_STAT h.val) Fld.NEAR_MRG_STAT_PASS = pass.toNat
       ∧ s'.fld (Reg.NEAR_MRG_STAT h.val) Fld.NEAR_MRG_STAT_ERRS = errs.toNat
       ∧ mfind s'.nearMargin h.val = none ∧ framed s s' [Reg.NEAR_MRG_STAT h.val])
   ∧ (∀ (n : Fin 4) (v : Word32) (s : State), s.uncEnabled (16 + n.val) = true →
     (let w : Word := v.setWidth 64
      wordFld w Fld.RCH_MRG_CTL_START = 1 → s.flag (Reg.RCH_MRG_STAT n.val) Fld.RCH_MRG_STAT_BUSY = false →
      s.portSegsRun n.val = false →
      ∃ s', exec (.rchMarginStart n v) s = .next s' ∧ s'.flag (Reg.RCH_MRG_STAT n.val) Fld.RCH_MRG_STAT_BUSY = true
       ∧ s'.fld (Reg.RCH_MRG_CTL n.val) Fld.RCH_MRG_CTL_LANE = wordFld w Fld.RCH_MRG_CTL_LANE
       ∧ framed s s' [Reg.RCH_MRG_CTL n.val, Reg.RCH_MRG_STAT n.val]))
   ∧ (∀ (n : Fin 4) (pass : BitVec 6) (errs : BitVec 16) (s : State), s.power.xbLost = false →
     s.flag (Reg.RCH_MRG_STAT n.val) Fld.RCH_MRG_STAT_BUSY = true →
     ∃ s', exec (.rchMarginDone n pass errs) s = .next s'
         ∧ s'.flag (Reg.RCH_MRG_STAT n.val) Fld.RCH_MRG_STAT_BUSY = false
       ∧ s'.fld (Reg.RCH_MRG_STAT n.val) Fld.RCH_MRG_STAT_DONE = 1
       ∧ s'.fld (Reg.RCH_MRG_STAT n.val) Fld.RCH_MRG_STAT_PASS = pass.toNat
       ∧ s'.fld (Reg.RCH_MRG_STAT n.val) Fld.RCH_MRG_STAT_ERRS = errs.toNat ∧ framed s s' [Reg.RCH_MRG_STAT n.val])
   ∧ (∀ (p : Port) (v : Word32) (s : State), s.uncEnabled (20 + p.val / 4) = true → s.xbOk = true →
     (let w : Word := v.setWidth 64
      let st := Reg.NRL_MRG_STAT (p.val / 4) (p.val % 4)
      wordFld w Fld.NRL_MRG_CTL_START = 1 → wordFld w Fld.NRL_MRG_CTL_EYE ≠ 3 → wordFld w Fld.NRL_MRG_CTL_STEPS ≠ 0 →
      (∀ i < 4, s.flag (Reg.NRL_MRG_STAT (p.val / 4) i) Fld.NRL_MRG_STAT_BUSY = false) → s.portOwner = [] →
      ∃ s', exec (.nrlMarginStart p v) s = .next s' ∧ s'.flag st Fld.NRL_MRG_STAT_BUSY = true
       ∧ s'.fld (Reg.NRL_MRG_CTL (p.val / 4) (p.val % 4)) Fld.NRL_MRG_CTL_EYE = wordFld w Fld.NRL_MRG_CTL_EYE
       ∧ s'.portState p.val = 5
       ∧ framed s s' [Reg.NRL_MRG_CTL (p.val / 4) (p.val % 4), st, Reg.NRL_STAT (p.val / 4) (p.val % 4)]))
   ∧ (∀ (p : Port) (pass : BitVec 6) (errs : BitVec 16) (s : State), s.xbOk = true →
     (let st := Reg.NRL_MRG_STAT (p.val / 4) (p.val % 4)
      s.flag st Fld.NRL_MRG_STAT_BUSY = true →
      ∃ s', exec (.nrlMarginDone p pass errs) s = .next s' ∧ s'.flag st Fld.NRL_MRG_STAT_BUSY = false
       ∧ s'.fld st Fld.NRL_MRG_STAT_DONE = (if s.portDisabled p.val then 1 else s.fld st Fld.NRL_MRG_STAT_DONE)
       ∧ (s'.port p.val).margined = !s.portDisabled p.val ∧ s'.fld st Fld.NRL_MRG_STAT_PASS = pass.toNat
       ∧ s'.fld st Fld.NRL_MRG_STAT_ERRS = errs.toNat ∧ s'.portState p.val = (if s.portDisabled p.val then 0 else 1)
       ∧ framed s s' [st, Reg.NRL_STAT (p.val / 4) (p.val % 4)])))


/-! Banks: pennants and hoists. -/

/-- PENNANT_OP (R183–R186): a SIG at its bank changes the value, the record names its stream, and the stream goes on; a
registration whose condition holds is served with a wake, MODE 2 taking IMM, and else stands in the bank's table.

PENNANT_WAKE (R185): the stream goes on. PENNANT_FORWARD (R186): the value joins those that the waiter has seen of PEN2; it
is served where a pair of values now meets its condition.
What it says beyond the rules is the model's choice (log entry 32). -/
def Obligations.BankMessagesWakesAndForwardsAct : Prop :=
  ((∀ (id k op amount iid idx bank v : Nat) (c : CoreId) (t : Strm) (s : State), s.still = true → s.coreStill c.val = true →
     k < 32768 → s.penTable = [] → s.penMsgs = [⟨id, k, .sig ⟨c.val, t⟩ op amount iid idx bank⟩] →
     (s.strm c.val t).hold = .signal iid → penApply (s.penCounting k) (s.penVal k) op amount = .ok v →
     ∃ s', exec (.pennantOp id) s = .next s' ∧ signalled s s' k v ∧ s'.penMsgs = [] ∧ s'.penTable = []
       ∧ s'.fld (Reg.PEN_LAST (k / 8192) (k % 8192)) Fld.PEN_LAST_CORE = c.val
       ∧ s'.fld (Reg.PEN_LAST (k / 8192) (k % 8192)) Fld.PEN_LAST_STREAM = sidx t
       ∧ s'.fld (Reg.PEN_LAST (k / 8192) (k % 8192)) Fld.PEN_LAST_DEV = s.rank
       ∧ (s'.strm c.val t).hold = .free ∧ s'.fld (Reg.STRM_STAT c.val (sidx t)) Fld.STRM_STAT_WAITON = 0
       ∧ framed s s' (Reg.STRM_STAT c.val (sidx t) :: penRegs k) ∧ sameCoresBut s s' c.val)
   ∧ (∀ (id k : Nat) (w : Waiter) (s : State), s.still = true → k < 32768 → s.penTable = [] →
     s.penMsgs = [⟨id, k, .wait w⟩] →
     ∃ s', exec (.pennantOp id) s = .next s' ∧ s'.penMsgs = [] ∧ s'.cores = s.cores
       ∧ (w.mode ≠ 2 → w.holds (s.penVal k) = true →
           s'.penWakes = s.penWakes ++ [w.who] ∧ s'.penTable = [] ∧ framed s s' [])
       ∧ (w.mode = 2 → w.imm ≤ s.penVal k →
           s'.penWakes = s.penWakes ++ [w.who] ∧ s'.penTable = [] ∧ s'.penVal k = s.penVal k - w.imm
           ∧ framed s s' [penValReg k])
       ∧ (w.holds (s.penVal k) = false →
           s'.penWakes = s.penWakes ∧ s'.penTable = [(k, [w])] ∧ framed s s' [])))
  ∧
  ((∀ (c : CoreId) (t : Strm) (s : State), s.still = true → s.coreStill c.val = true → ⟨c.val, t⟩ ∈ s.penWakes →
     ∃ s', exec (.pennantWake c t) s = .next s' ∧ (s'.strm c.val t).hold = .free
       ∧ s'.fld (Reg.STRM_STAT c.val (sidx t)) Fld.STRM_STAT_WAITON = 0 ∧ s'.penWakes = s.penWakes.erase ⟨c.val, t⟩
       ∧ framed s s' [Reg.STRM_STAT c.val (sidx t)] ∧ sameCoresBut s s' c.val)
   ∧ (∀ (f : PenForward) (w : Waiter) (s : State), s.still = true → f.pen < 32768 → s.penFwds = [f] → s.penMsgs = [] →
     s.penTable = [(f.pen, [w])] → w.who = f.who → w.mode = 1 →
     ∃ s', exec (.pennantForward f.id) s = .next s' ∧ s'.penFwds = [] ∧ framed s s' [] ∧ s'.cores = s.cores
       ∧ ((w.vals1.any fun p => (w.vals2 ++ [f.value]).any fun q => decide ((p + 2 ^ 48 - q) % 2 ^ 48 < w.imm)) = true →
           s'.penTable = [] ∧ s'.penWakes = s.penWakes ++ [w.who])
       ∧ ((w.vals1.any fun p => (w.vals2 ++ [f.value]).any fun q => decide ((p + 2 ^ 48 - q) % 2 ^ 48 < w.imm)) = false →
           s'.penTable = [(f.pen, [{ w with vals2 := w.vals2 ++ [f.value] }])] ∧ s'.penWakes = s.penWakes)))

/-- PEN_HOST_SIG (R189, R403): the host's signal, in its function's context, changes the pennant that its identifier names
there, and the record shows the host; a refused one and an identifier that names none are recorded in PEN_ERR with R198's
codes, and no pennant changes; where a BAR2 write of the function still waits for a margining run the signal waits too.

REMOTE_SIGNAL, LANDING_NOTICE (R190–R192): a remote signal whose source's sectors have landed changes its pennant at once;
an earlier one is held in the pending table and changes nothing; a landing notice advances LANDED by one.
What it says beyond the rules is the model's choice (log entries 34, 35). -/
def Obligations.HostAndRemoteSignalsAct : Prop :=
  (∀ (fn : Fn) (v : Word32) (x : Nat) (s : State), s.still = true → s.pwrState = 0 →
     s.hears (.host fn) Reg.PEN_HOST_SIG = true → s.quietBanks → (∀ p ∈ s.parked, p.fn ≠ some fn.val) →
     (fn.val = 0 → wordFld (v.setWidth 64) Fld.PEN_HOST_SIG_CTX = x ∧ s.partExists x = true) →
     (fn.val ≠ 0 → s.vfCtx fn.val = some x) → s.killed.contains x = false →
     (let w : Word := v.setWidth 64
      let vid := wordFld w Fld.PEN_HOST_SIG_PEN
      let op := wordFld w Fld.PEN_HOST_SIG_OP
      let amount := wordFld w Fld.PEN_HOST_SIG_AMOUNT
      ∃ s', exec (.penHostSig fn v) s = .next s' ∧ s'.cores = s.cores
       ∧ (∀ k u, s.penTranslate (some x) vid = some k → penApply (s.penCounting k) (s.penVal k) op amount = .ok u →
           signalled s s' k u ∧ s'.fld (Reg.PEN_LAST (k / 8192) (k % 8192)) Fld.PEN_LAST_HOST = 1
           ∧ framed s s' (penRegs k))
       ∧ (∀ k e, s.penTranslate (some x) vid = some k → penApply (s.penCounting k) (s.penVal k) op amount = .error e →
           s'.penVal k = s.penVal k
           ∧ (s.flag Reg.PEN_ERR Fld.PEN_ERR_VALID = false → s'.fld Reg.PEN_ERR Fld.PEN_ERR_CODE = 0x1400 + e
               ∧ s'.fld Reg.PEN_ERR Fld.PEN_ERR_HOST = 1 ∧ s'.fld Reg.PEN_ERR Fld.PEN_ERR_PEN = vid))
       ∧ (s.penTranslate (some x) vid = none → s.flag Reg.PEN_ERR Fld.PEN_ERR_VALID = false →
           s'.fld Reg.PEN_ERR Fld.PEN_ERR_CODE = 0x1404 ∧ s'.fld Reg.PEN_ERR Fld.PEN_ERR_HOST = 1
           ∧ s'.fld Reg.PEN_ERR Fld.PEN_ERR_PEN = vid)))
  ∧ (∀ (fn : Fn) (v : Word32) (s : State), s.pwrState = 0 → (∃ p ∈ s.parked, p.fn = some fn.val) →
     exec (.penHostSig fn v) s = .next { s with margHeld := s.margHeld ++ [.penHostSig fn v] })
  ∧
  ((∀ (p : Port) (m : Msg) (ctx die e : Nat) (s : State), s.still = true → s.rxFirst p.val m = true →
     m.dst.toNat = s.rank → m.kind = 3 → s.run.quiescent = false → s.portCtx p.val = some ctx →
     s.killed.contains ctx = false → (s.port p.val).txq = [] → (s.port p.val).part = [] →
     s.landEntry m.srcDev.toNat m.srcCore.toNat = some (die, e) →
     s.fld (Reg.LAND die e) Fld.LAND_SRC_DEV = m.srcDev.toNat →
         s.fld (Reg.LAND die e) Fld.LAND_SRC_CORE = m.srcCore.toNat →
     s.pendTab = [] → s.quietBanks →
     ∃ s', exec (.remoteSignal p m) s = .next s' ∧ (s'.port p.val).rx = (s.port p.val).rx.erase m
       ∧ s'.cores = s.cores
       ∧ (∀ k v, landedFor (s.fld (Reg.LAND die e) Fld.LAND_LANDED) (m.addr.toNat / 2 ^ 16) = true →
           s.penTranslate (some ctx) m.tag.toNat = some k → k / 8192 = die →
           penApply (s.penCounting k) (s.penVal k) (m.flags.toNat % 2) (m.addr.toNat % 2 ^ 16) = .ok v →
           signalled s s' k v ∧ mget s'.pendTab [] die = [] ∧ framed s s' (penRegs k))
       ∧ (landedFor (s.fld (Reg.LAND die e) Fld.LAND_LANDED) (m.addr.toNat / 2 ^ 16) = false →
           (mget s'.pendTab [] die).map (·.vid) = [m.tag.toNat]
           ∧ (mget s'.pendTab [] die).map (·.wseq) = [m.addr.toNat / 2 ^ 16] ∧ framed s s' []))
   ∧ (∀ (src : Rank) (core : BitVec 12) (die e : Nat) (s : State), s.still = true →
     (let k := src.toNat * 4096 + core.toNat
      0 < mget s.notices 0 k → mwf s.notices = true → s.pendTab = [] →
      s.landEntry src.toNat core.toNat = some (die, e) →
      ∃ s', exec (.landingNotice src core) s = .next s'
       ∧ s'.fld (Reg.LAND die e) Fld.LAND_LANDED = (s.fld (Reg.LAND die e) Fld.LAND_LANDED + 1) % 2 ^ 32
       ∧ mget s'.notices 0 k = mget s.notices 0 k - 1 ∧ framed s s' [Reg.LAND die e] ∧ s'.cores = s.cores)))

/-- HOIST_ARRIVAL (R195) of a die hoist: it counts in its round's slot, which takes WCOUNT where it was free; the last one
releases the round, with a release to every stream that waits for it. HOIST_DEPARTURE: it counts down; the last one after
the release frees the slot and ends the round. HOIST_RELEASE: the stream goes on and its departure leaves.

DEVICE_ARRIVAL, DEVICE_FINISHED, CROSS_DEVICE_RELEASE (R196): a device that is not the root passes arrivals and finished
rounds on; the root counts an arrival, holds one that is two rounds ahead, and the last finished device frees its slot, which lets
a held arrival in; a release frees the open round here
and goes on down the tree. What it says beyond the rules is the model's choice (log entries 33, 36). -/
def Obligations.HoistsCountOnDieAndTree : Prop :=
  ((∀ (m : HoistMsg) (s : State), s.still = true → s.hoistMsgs = [m] → m.arrive = true → m.hoist < 1024 →
     roundBlocked m.round (s.hoistDone m.hoist) = false → s.flag (hstSlot m.hoist m.round) Fld.HST_SLOT_INUSE = true →
     (let a := hstSlot m.hoist m.round
      let n := (s.fld a Fld.HST_SLOT_ARRIVED + 1) % 2 ^ 14
      ∃ s', exec (.hoistArrival m.id) s = .next s' ∧ s'.hoistMsgs = [] ∧ s'.cores = s.cores
       ∧ s'.fld a Fld.HST_SLOT_ARRIVED = n
       ∧ (n ≠ s.fld (hstBase m.hoist) Fld.HST_CFG_COUNT → s'.fld a Fld.HST_SLOT_REL = s.fld a Fld.HST_SLOT_REL
           ∧ s'.hoistRels = s.hoistRels ∧ framed s s' [a])
       ∧ (n = s.fld (hstBase m.hoist) Fld.HST_CFG_COUNT → s'.fld a Fld.HST_SLOT_REL = 1
           ∧ (s'.reg (hstReleased m.hoist)).toNat = (m.round + 1) % 2 ^ 32
           ∧ s'.hoistRels = s.hoistRels ++ (s.hoistWaiters m.hoist m.round).map (fun w => ⟨m.hoist, w, m.round⟩)
           ∧ framed s s' [a, hstReleased m.hoist]
           ∧ (s.fld a Fld.HST_SLOT_DEP_PEND = 0 → s'.fld a Fld.HST_SLOT_INUSE = 0
               ∧ s'.hoistDone m.hoist = (m.round + 1) % 2 ^ 32)
           ∧ (s.fld a Fld.HST_SLOT_DEP_PEND ≠ 0 → s'.fld a Fld.HST_SLOT_INUSE = 1
               ∧ s'.hoistDone m.hoist = s.hoistDone m.hoist))))
   ∧ (∀ (m : HoistMsg) (s : State), s.still = true → s.hoistMsgs = [m] → m.arrive = true → m.hoist < 1024 →
     roundBlocked m.round (s.hoistDone m.hoist) = false → s.flag (hstSlot m.hoist m.round) Fld.HST_SLOT_INUSE = false →
     s.fld (hstBase m.hoist) Fld.HST_CFG_COUNT ≠ 1 →
     (let a := hstSlot m.hoist m.round
      ∃ s', exec (.hoistArrival m.id) s = .next s' ∧ s'.hoistMsgs = [] ∧ s'.fld a Fld.HST_SLOT_INUSE = 1
       ∧ s'.fld a Fld.HST_SLOT_ARRIVED = 1 ∧ s'.fld a Fld.HST_SLOT_REL = 0
       ∧ s'.fld a Fld.HST_SLOT_DEP_PEND = s.fld (hstBase m.hoist) Fld.HST_CFG_WCOUNT ∧ framed s s' [a]))
   ∧ (∀ (m : HoistMsg) (s : State), s.still = true → s.hoistMsgs = [m] → m.arrive = false → m.hoist < 1024 →
     (let a := hstSlot m.hoist m.round
      s.flag a Fld.HST_SLOT_INUSE = true →
      ∃ s', exec (.hoistDeparture m.id) s = .next s' ∧ s'.hoistMsgs = [] ∧ s'.cores = s.cores ∧ framed s s' [a]
       ∧ s'.fld a Fld.HST_SLOT_DEP_PEND = s.fld a Fld.HST_SLOT_DEP_PEND - 1
       ∧ (s.flag a Fld.HST_SLOT_REL = true → s.fld a Fld.HST_SLOT_DEP_PEND ≤ 1 →
           s'.fld a Fld.HST_SLOT_INUSE = 0 ∧ s'.hoistDone m.hoist = (m.round + 1) % 2 ^ 32)
       ∧ (s.flag a Fld.HST_SLOT_REL = false ∨ 1 < s.fld a Fld.HST_SLOT_DEP_PEND →
           s'.fld a Fld.HST_SLOT_INUSE = 1 ∧ s'.hoistDone m.hoist = s.hoistDone m.hoist)))
   ∧ (∀ (c : CoreId) (t : Strm) (r : HoistRel) (s : State), s.still = true → s.coreStill c.val = true →
     s.hoistRels = [r] → r.who = ⟨c.val, t⟩ →
     ∃ s', exec (.hoistRelease c t) s = .next s' ∧ s'.hoistRels = [] ∧ (s'.strm c.val t).hold = .free
       ∧ s'.fld (Reg.STRM_STAT c.val (sidx t)) Fld.STRM_STAT_WAITON = 0
       ∧ s'.hoistMsgs = s.hoistMsgs ++ [⟨s.nextId, r.hoist, r.who, r.round, false, true⟩]
       ∧ framed s s' [Reg.STRM_STAT c.val (sidx t)] ∧ sameCoresBut s s' c.val))
  ∧
  ((∀ (h : Fin 64) (round : Word32) (s : State), s.run.quiescent = false → s.still = true → s.mgr.verify = none →
     s.hoistRoot h.val = false →
     (∃ s', exec (.deviceArrival h round) s = .next s' ∧ s' = s.emit (.hoist 0 h.val round.toNat))
     ∧ (s.rootHeld = [] → ∃ s', exec (.deviceFinished h round) s = .next s' ∧ s' = s.emit (.hoist 1 h.val round.toNat)))
   ∧ (∀ (h : Fin 64) (round : Word32) (s : State), s.run.quiescent = false → s.still = true → s.mgr.verify = none →
     s.hoistRoot h.val = true → roundBlocked round.toNat (mget s.rootFin 0 h.val) = true →
     exec (.deviceArrival h round) s = .next { s with rootHeld := s.rootHeld ++ [(h.val, round.toNat)] })
   ∧ (∀ (h : Fin 64) (round : Word32) (s : State), s.run.quiescent = false → s.still = true → s.mgr.verify = none →
     s.hoistRoot h.val = true → roundBlocked round.toNat (mget s.rootFin 0 h.val) = false →
     (let a := Reg.XH_ROOT h.val (round.toNat % 2)
      let n := s.fld (Reg.XH_DEVS h.val) Fld.XH_DEVS_DEV_COUNT
      s.flag a Fld.XH_ROOT_INUSE = true → (s.fld a Fld.XH_ROOT_DEV_ARR + 1) % 2 ^ 11 ≠ n →
      ∃ s', exec (.deviceArrival h round) s = .next s'
       ∧ s'.fld a Fld.XH_ROOT_DEV_ARR = (s.fld a Fld.XH_ROOT_DEV_ARR + 1) % 2 ^ 11
       ∧ s'.fld a Fld.XH_ROOT_REL = s.fld a Fld.XH_ROOT_REL ∧ s'.out = s.out ∧ onlyRegs s s' [a]))
   ∧ (∀ (h : Fin 64) (round r : Word32) (s : State), s.run.quiescent = false → s.still = true → s.hoistRoot h.val = true →
     s.mgr.verify = none → s.rootHeld = [(h.val, r.toNat)] → r.toNat % 2 = round.toNat % 2 →
     roundBlocked r.toNat ((round.toNat + 1) % 2 ^ 32) = false → 2 ≤ s.fld (Reg.XH_DEVS h.val) Fld.XH_DEVS_DEV_COUNT →
     (let a := Reg.XH_ROOT h.val (round.toNat % 2)
      s.flag a Fld.XH_ROOT_INUSE = true → s.flag a Fld.XH_ROOT_REL = true → s.fld a Fld.XH_ROOT_DEV_FIN ≤ 1 →
      ∃ s', exec (.deviceFinished h round) s = .next s' ∧ framed s s' [a] ∧ s'.cores = s.cores ∧ s'.rootHeld = []
       ∧ s'.fld a Fld.XH_ROOT_INUSE = 1 ∧ s'.fld a Fld.XH_ROOT_DEV_ARR = 1 ∧ s'.fld a Fld.XH_ROOT_REL = 0
       ∧ s'.fld a Fld.XH_ROOT_DEV_FIN = s.fld (Reg.XH_DEVS h.val) Fld.XH_DEVS_DEV_COUNT
       ∧ mget s'.rootFin 0 h.val = (round.toNat + 1) % 2 ^ 32))
   ∧ (∀ (h : Fin 64) (round : Word32) (s : State), s.run.quiescent = false → s.still = true → s.hoistRoot h.val = true →
     s.rootHeld = [] →
     (let a := Reg.XH_ROOT h.val (round.toNat % 2)
      s.flag a Fld.XH_ROOT_INUSE = true → s.flag a Fld.XH_ROOT_REL = true →
      ∃ s', exec (.deviceFinished h round) s = .next s' ∧ framed s s' [a] ∧ s'.cores = s.cores
       ∧ s'.fld a Fld.XH_ROOT_DEV_FIN = s.fld a Fld.XH_ROOT_DEV_FIN - 1
       ∧ (s.fld a Fld.XH_ROOT_DEV_FIN ≤ 1 → s'.fld a Fld.XH_ROOT_INUSE = 0
           ∧ mget s'.rootFin 0 h.val = (round.toNat + 1) % 2 ^ 32)
       ∧ (1 < s.fld a Fld.XH_ROOT_DEV_FIN → s'.fld a Fld.XH_ROOT_INUSE = 1 ∧ s'.rootFin = s.rootFin)))
   ∧ (∀ (h : Fin 64) (round : Word32) (s : State), s.run.quiescent = false → s.still = true → s.stepActive = false →
     (let k := 1024 + h.val
      let a := hstSlot k round.toNat
      roundOpen round.toNat (s.hoistDone k) = true → s.flag a Fld.HST_SLOT_INUSE = true →
      s.flag a Fld.HST_SLOT_REL = false → s.fld a Fld.HST_SLOT_DEP_PEND ≠ 0 →
      ∃ s', exec (.crossDeviceRelease h round) s = .next s' ∧ s'.fld a Fld.HST_SLOT_REL = 1
       ∧ (s'.reg (hstReleased k)).toNat = (round.toNat + 1) % 2 ^ 32
       ∧ s'.out = .hoist 2 h.val round.toNat :: s.out
       ∧ s'.hoistRels = s.hoistRels ++ (s.hoistWaiters k round.toNat).map (fun w => ⟨k, w, round.toNat⟩)
       ∧ framed s s' [a, hstReleased k] ∧ s'.cores = s.cores)))

/-! The mesh. -/

/-- RED_SECTOR (R211–R213): without an entry for its tag the sector goes on along its route; at an entry it waits in its
input's buffer until every input holds one; then the entry's sum, in ascending input index, goes on to its address, or to the stop
of its chain's port group, where the chain takes it; DONE counts. FLIT_LATE (R208): a flit that waited beyond its channel's threshold is counted, saturating.
What it says beyond the rules is the model's choice (log entry 37). -/
def Obligations.ReductionSectorsJoin : Prop :=
  (∀ (router : CoreId) (port : Fin 7) (tag : BitVec 12) (addr : BitVec 48) (data : Sector) (srcs : List RedSrc) (s : State),
    s.still = true → s.redFlits = [⟨router.val, port.val, tag.toNat, addr.toNat, data, srcs, none⟩] →
    (∀ d hop r x, s.redEntry router.val tag.toNat = none → s.destOf router.val addr.toNat = some d → d ≠ router.val →
      s.nextHop router.val d = hop → 1 ≤ hop → hop ≤ 4 → neighbour router.val hop = some (r, x) →
      ∃ s', exec (.redSector router port tag addr data) s = .next s'
        ∧ s' = { s with redFlits := [⟨r, oppositePort hop, tag.toNat, addr.toNat, data, srcs, none⟩] })
    ∧ (∀ e i, s.redEntry router.val tag.toNat = some e → e.ins.findIdx? (· == port.val) = some i →
      (let key (j : Nat) : Nat := redKey router.val e.t j
       let old (j : Nat) : List RedIn := mget s.redBuf [] (key j)
       ((old i).length < 8 → (∃ j < e.ins.length, j ≠ i ∧ old j = []) →
          ∃ s', exec (.redSector router port tag addr data) s = .next s'
            ∧ s' = { s with redFlits := [], redBuf := mset s.redBuf (key i) (old i ++ [⟨addr.toNat, data, srcs⟩]) })
       ∧ (∀ hd : Nat → RedIn, old i = [] → hd i = ⟨addr.toNat, data, srcs⟩ →
          (∀ j < e.ins.length, j ≠ i → (old j).head? = some (hd j)) → (∀ j < e.ins.length, (hd j).addr = addr.toNat) →
          (let ds := (List.range e.ins.length).map fun j => (hd j).data
           let f : RedFlit := ⟨router.val, 0, tag.toNat, addr.toNat, redSumAll e.fmt ds,
             (List.range e.ins.length).flatMap fun j => (hd j).srcs, if e.toChain then some e.group else none⟩
           e.fmt ≠ 2 ∨ redOverflow ds = false →
           ∀ d hop, s.redDest f = some d → d ≠ router.val → s.nextHop router.val d = hop →
           1 ≤ hop → hop ≤ 5 → (hop = 5 → e.toChain = true ∧ stopAt router.val 5 = some d) →
           (hop ≤ 4 → (neighbour router.val hop).isSome = true) →
           ∃ s', exec (.redSector router port tag addr data) s = .next s'
            ∧ (∀ r x, hop ≤ 4 → neighbour router.val hop = some (r, x) →
                s'.redFlits = [{ f with router := r, port := oppositePort hop }] ∧ s'.chainIn = s.chainIn)
            ∧ (hop = 5 → s'.redFlits = [] ∧ s'.chainIn = s.chainIn ++ [{ f with router := e.group, port := 5 }])
            ∧ s'.fld (Reg.MR_RTAG router.val e.t) Fld.MR_RTAG_DONE
                = (s.fld (Reg.MR_RTAG router.val e.t) Fld.MR_RTAG_DONE + 1) % 2 ^ 16
            ∧ framed s s' [Reg.MR_RTAG router.val e.t] ∧ s'.cores = s.cores)))))
  ∧ (∀ (router : CoreId) (bulk : Bool) (waited : BitVec 16) (s : State),
    (let thr := s.fld Reg.MESH_CFG (if bulk then Fld.MESH_CFG_BULK_LATE_THR else Fld.MESH_CFG_RED_LATE_THR)
     let a := Reg.MR_LATE router.val
     ∃ s', exec (.flitLate router bulk waited) s = .next s' ∧ onlyRegs s s' [a]
      ∧ s'.fld a Fld.MR_LATE_COUNT = if thr < waited.toNat
          then min (2 ^ Fld.MR_LATE_COUNT.width - 1) (s.fld a Fld.MR_LATE_COUNT + 1) else s.fld a Fld.MR_LATE_COUNT))

/-! The Nirlo links. -/

/-- FLIT_RECEIVE (R236, R237, R239, R240) at a port that is up, of a flit that brings only heads for other devices: a good flit
in sequence is acknowledged, what its ACK covers leaves the retry buffer, its credits are taken, and its messages wait to pass
through; one that fails its CRC or leaves a gap is dropped, and a NAK stands; one received before is dropped. The FEC counts
are kept each time. What it says beyond the rules is the model's choice (log entries 47, 48). -/
def Obligations.FlitsAreTakenInSequence : Prop :=
  ∀ (p : Port) (f : Flit) (s : State), s.still = true → s.portState p.val = 3 → s.power.xbLost = false →
    s.power.asleep = [] → s.run.quiescent = false → (s.port p.val).txq = [] → (s.port p.val).part = [] →
    (s.port p.val).credOut = [] → f.nak = false → (∀ x ∈ f.slots, s.passSlot x = true) →
    (let g := p.val / 4
     let i := p.val % 4
     let d := (f.seq.toNat + 4096 - (s.port p.val).rxSeq) % 4096
     ∃ s', exec (.flitReceive p f) s = .next s' ∧ s'.cores = s.cores
      ∧ framed s s' [Reg.NRL_FEC_CORR g i, Reg.NRL_FEC_UNC g i, Reg.NRL_CRED g i]
      ∧ s'.fld (Reg.NRL_FEC_CORR g i) Fld.NRL_FEC_CORR_COUNT
          = min (2 ^ Fld.NRL_FEC_CORR_COUNT.width - 1) (s.fld (Reg.NRL_FEC_CORR g i) Fld.NRL_FEC_CORR_COUNT + f.fecCorr.toNat)
      ∧ s'.fld (Reg.NRL_FEC_UNC g i) Fld.NRL_FEC_UNC_COUNT
          = min (2 ^ Fld.NRL_FEC_UNC_COUNT.width - 1) (s.fld (Reg.NRL_FEC_UNC g i) Fld.NRL_FEC_UNC_COUNT + f.fecUnc.toNat)
      ∧ (crcOk f = true → d = 1 →
          (s'.port p.val).rxSeq = f.seq.toNat ∧ (s'.port p.val).nak = false
          ∧ (s'.port p.val).rx = (s.port p.val).rx ++ f.slots.flatMap slotMsgs
          ∧ (s'.port p.val).retry = ackTrim f.ack.toNat (s.port p.val).retry
          ∧ s'.fld (Reg.NRL_CRED g i) (vcCredit f.crVc.toNat)
              = min (vcBuffer f.crVc.toNat) (s.fld (Reg.NRL_CRED g i) (vcCredit f.crVc.toNat) + f.crN.toNat)
          ∧ told s s' p.val f.seq.toNat false)
      ∧ (crcOk f = false ∨ (2 ≤ d ∧ d < 2048) → (s'.port p.val).rxSeq = (s.port p.val).rxSeq
          ∧ (s'.port p.val).nak = true ∧ (s'.port p.val).rx = (s.port p.val).rx
          ∧ (s'.port p.val).retry = (s.port p.val).retry ∧ s'.reg (Reg.NRL_CRED g i) = s.reg (Reg.NRL_CRED g i)
          ∧ told s s' p.val (s.port p.val).rxSeq true)
      ∧ (crcOk f = true → d = 0 ∨ 2048 ≤ d → s'.port p.val = s.port p.val
          ∧ s'.reg (Reg.NRL_CRED g i) = s.reg (Reg.NRL_CRED g i) ∧ told s s' p.val (s.port p.val).rxSeq (s.port p.val).nak))

/-- LINK_ACK_TIMEOUT, LANE_LOCK_LOSS (R239, R248): a link without ACK progress or without lane lock is in FAULT with its buffers
discarded and its credits gone, E_LINK_DOWN is recorded where the record was free, and lost lanes read 0.

NRL_TRAIN, LANE_TRAINING_DONE, CAPABILITY_EXCHANGE (R245, R246, R254): a port that is DOWN, FAULT or OUT and not disabled
starts to train; with eight lanes locked it sends its capability word, or is UP with every credit where the version has been
agreed, and with fewer it is DOWN; with a peer that shares a version and is in its place it trains again, at that version; one
that shares none, or is out of place, leaves it OUT with the record.
What it says beyond the rules is the model's choice (log entries 50, 51, 111). -/
def Obligations.LinksFailTrainAndComeUp : Prop :=
  (∀ (p : Port) (s : State), s.still = true → s.run.quiescent = false → s.power.xbLost = false →
     (s.portState p.val = 3 → (s.port p.val).retry ≠ [] →
       ∃ s', exec (.linkAckTimeout p) s = .next s' ∧ s'.portState p.val = 4 ∧ s'.port p.val = PortState.reset
         ∧ (s'.reg (nrlCred p.val)).toNat = 0 ∧ s'.cores = s.cores ∧ s'.spad = s.spad ∧ s'.near = s.near
         ∧ (s.flag (nrlErr p.val) Fld.NRL_ERR_VALID = false → s'.fld (nrlErr p.val) Fld.NRL_ERR_CODE = 0x3501))
     ∧ (s.portState p.val = 3 →
       ∃ s', exec (.laneLockLoss p) s = .next s' ∧ s'.portState p.val = 4 ∧ s'.port p.val = PortState.reset
         ∧ s'.fld (nrlStat p.val) Fld.NRL_STAT_LANES = 0 ∧ s'.cores = s.cores ∧ s'.spad = s.spad ∧ s'.near = s.near
         ∧ (s.flag (nrlErr p.val) Fld.NRL_ERR_VALID = false → s'.fld (nrlErr p.val) Fld.NRL_ERR_CODE = 0x3501)))
  ∧
  (∀ (p : Port) (s : State), s.xbOk = true →
     (let fresh : PortState := { PortState.reset with margined := (s.port p.val).margined }
      let peer := s.reg (Reg.NRL_CAP_PEER (p.val / 4) (p.val % 4))
      let ver := s.fld (nrlStat p.val) Fld.NRL_STAT_VER
      ((s.portState p.val = 0 ∨ s.portState p.val = 4 ∨ s.portState p.val = 6) → s.portDisabled p.val = false →
       s.regGated (nrlCtl p.val) = false →
       ∃ s', exec (.nrlTrain p) s = .next s' ∧ s'.portState p.val = 1 ∧ s'.fld (nrlStat p.val) Fld.NRL_STAT_LANES = 0
         ∧ s'.fld (nrlStat p.val) Fld.NRL_STAT_VER = 0 ∧ s'.port p.val = fresh ∧ framed s s' [nrlStat p.val])
     ∧ (∀ (n : Fin 9) (temp : Byte) (values : Word), s.portState p.val = 1 →
       ∃ s', exec (.laneTrainingDone p ⟨n, temp, values⟩) s = .next s'
         ∧ framed s s' [nrlStat p.val, nrlCred p.val, Reg.NRL_MRG_STAT (p.val / 4) (p.val % 4)] ∧ s'.cores = s.cores
         ∧ s'.fld (nrlStat p.val) Fld.NRL_STAT_LANES = n.val
         ∧ (n.val = 8 → ver = 0 → s'.portState p.val = 2 ∧ s'.boot = s.boot ∧ framed s s' [nrlStat p.val]
             ∧ s'.out = .capability p.val (BitVec.ofNat 64 (s.capWord (p.val / 4))) :: s.out)
         ∧ (n.val = 8 → ver ≠ 0 → s'.portState p.val = 3 ∧ s'.out = s.out ∧ s'.fld (nrlStat p.val) Fld.NRL_STAT_VER = ver
             ∧ s'.fld (nrlCred p.val) Fld.NRL_CRED_SIG = 64 ∧ s'.fld (nrlCred p.val) Fld.NRL_CRED_LCR = 256
             ∧ s'.fld (nrlCred p.val) Fld.NRL_CRED_RED = 512 ∧ s'.fld (nrlCred p.val) Fld.NRL_CRED_BULK = 512
             ∧ ((s.port p.val).margined = true →
                 s'.fld (Reg.NRL_MRG_STAT (p.val / 4) (p.val % 4)) Fld.NRL_MRG_STAT_DONE = 1)
             ∧ ((s.port p.val).margined = false →
                 s'.reg (Reg.NRL_MRG_STAT (p.val / 4) (p.val % 4)) = s.reg (Reg.NRL_MRG_STAT (p.val / 4) (p.val % 4)))
             ∧ (s'.port p.val).margined = false
             ∧ (s.boot.warm = false → mfind s'.boot.kept (12 + p.val)
                 = some ⟨values, Config.trainCheck (12 + p.val) values peer temp.toNat, peer, temp.toNat⟩))
         ∧ (n.val < 8 → s'.portState p.val = 0 ∧ s'.out = s.out ∧ s'.fld (nrlStat p.val) Fld.NRL_STAT_VER = 0
             ∧ framed s s' [nrlStat p.val]))
     ∧ (∀ w : Word, s.portState p.val = 2 → s.peerRefusal p.val w.toNat = 0 →
       ∃ s', exec (.capabilityExchange p w) s = .next s' ∧ s'.portState p.val = 1
         ∧ s'.reg (Reg.NRL_CAP_PEER (p.val / 4) (p.val % 4)) = w ∧ s'.port p.val = fresh ∧ s'.out = s.out
         ∧ s'.fld (nrlStat p.val) Fld.NRL_STAT_VER = min 2 (w.toNat / 2 ^ 60 % 16)
         ∧ s'.fld (nrlStat p.val) Fld.NRL_STAT_FEAT = (w.toNat / 2 ^ 44 % 4096 &&& 0x07F)
         ∧ framed s s' [nrlStat p.val, Reg.NRL_CAP_PEER (p.val / 4) (p.val % 4)])
     ∧ (∀ w : Word, s.portState p.val = 2 → s.peerRefusal p.val w.toNat ≠ 0 →
       ∃ s', exec (.capabilityExchange p w) s = .next s' ∧ s'.portState p.val = 6
         ∧ s'.reg (Reg.NRL_CAP_PEER (p.val / 4) (p.val % 4)) = w
         ∧ (s.flag (nrlErr p.val) Fld.NRL_ERR_VALID = false →
             s'.fld (nrlErr p.val) Fld.NRL_ERR_CODE = s.peerRefusal p.val w.toNat
             ∧ (min 2 (w.toNat / 2 ^ 60 % 16) < max 1 (w.toNat / 2 ^ 56 % 16) →
                 s'.fld (nrlErr p.val) Fld.NRL_ERR_CODE = 0x7503)))))

/-- PASS_THROUGH, NIRLO_WRITE_MESSAGE, NIRLO_READ_REQUEST, NIRLO_READ_DATA (R238, R241, R191): a message for another rank
leaves by the port that routing chooses; a write of one sector lands in the scratchpad it names, with its enabled bytes
and a landing notice; a read request of one sector is answered with the data; read data leaves its buffer,
and the credits for its slots go back.

TIME_SYNC_MESSAGE, TICK_SYNC_EXCHANGE, TICK_UNSYNC_TIMEOUT, TICK_ALIGNMENT_MESSAGE (R257, R258): the offset is shown; beyond
two ticks the device is unsynchronised; an exchange starts below the top of the tree; without a good one for long the
device is unsynchronised; an aligned tick that comes down is never jumped back to, and goes on.
What it says beyond the rules is the model's choice (log entries 53, 54, 59). -/
def Obligations.MessagesPassAndTickIsKept : Prop :=
  (∀ (p : Port) (m : Msg) (s : State), s.still = true → s.run.quiescent = false → s.rxFirst p.val m = true →
     (s.port p.val).txq = [] → (s.port p.val).part = [] → (s.port p.val).credOut = [] →
     (let u := s.rxTake p.val m
     (m.dst.toNat ≠ s.rank → m.data.length ≤ 64 → ∀ q < 32, u.sendsBy (s.portCtx p.val) m q = true →
       ∃ s', exec (.passThrough p m) s = .next s' ∧ sentBy u s' q m ∧ (s'.port p.val).rx = (s.port p.val).rx.erase m
         ∧ framed s s' [nrlCred q] ∧ s'.cores = s.cores)
     ∧ (∀ d, m.dst.toNat = s.rank → m.kind = 0 → m.data = [d] → s.noChecks = true → Memory.wf s.spad = true →
       (s.portCtx p.val).isSome = true → s.openSector (s.portCtx p.val) m.addr.toNat = true →
       ∃ s', exec (.nirloWriteMessage p m) s = .next s' ∧ (s'.port p.val).rx = (s.port p.val).rx.erase m
         ∧ wroteBytes s.spad s'.spad (m.addr.toNat - spadBase) d (m.be.getD 0 beAll) ∧ sameFar s s' ∧ sameRegsBut s s' []
         ∧ (let k := m.srcDev.toNat * 4096 + m.srcCore.toNat; mget s'.notices 0 k = mget s.notices 0 k + 1)
         ∧ s'.cores = s.cores)
     ∧ (∀ q < 32, m.dst.toNat = s.rank → m.kind = 1 → m.nsecM1 = 0 → (s.portCtx p.val).isSome = true →
       s.openSector (s.portCtx p.val) m.addr.toNat = true →
       (let r : Msg := { dst := m.srcDev, srcDev := BitVec.ofNat 10 s.rank, srcCore := m.srcCore, kind := 2, tag := m.tag
                         flags := 0, addr := m.addr, vc := m.vc, nsecM1 := 0, data := [s.spadAt m.addr.toNat] }
        u.sendsBy (s.portCtx p.val) r q = true →
        ∃ s', exec (.nirloReadRequest p m) s = .next s' ∧ sentBy u s' q r
            ∧ (s'.port p.val).rx = (s.port p.val).rx.erase m
         ∧ framed s s' [nrlCred q] ∧ s'.cores = s.cores))
     ∧ (m.dst.toNat = s.rank → m.kind = 2 →
       ∃ s', exec (.nirloReadData p m) s = .next s' ∧ (s'.port p.val).rx = (s.port p.val).rx.erase m
         ∧ framed s s' [] ∧ s'.cores = s.cores
         ∧ (s.portState p.val = 3 → (s.port p.val).retry.length < 512 → mget (s.port p.val).runs [] m.vc.toNat = [1] →
             msgSlots m < 128 →
             ∃ f, s'.out = .flit p.val f :: s.out ∧ crcOk f = true ∧ f.crVc = m.vc ∧ f.crN.toNat = msgSlots m))))
  ∧
  (∀ s : State,
     (∀ o : BitVec 8, ∃ t, exec (.timeSyncMessage o) s = .next t ∧ t.fld Reg.TICK_SYNC Fld.TICK_SYNC_OFFSET = o.toNat
       ∧ t.tick = s.tick ∧ t.cores = s.cores
       ∧ (32 < o.toInt.natAbs → t.flag Reg.TICK_SYNC Fld.TICK_SYNC_UNSYNC = true)
       ∧ (o.toInt.natAbs ≤ 32 → onlyRegs s { t with tickFix := s.tickFix, tickFixed := s.tickFixed } [Reg.TICK_SYNC]
           ∧ t.fld Reg.TICK_SYNC Fld.TICK_SYNC_UNSYNC = s.fld Reg.TICK_SYNC Fld.TICK_SYNC_UNSYNC))
     ∧ exec .tickSyncExchange s = .next (if s.topOfTree then s else s.emit .tickSync)
     ∧ (∃ t, exec .tickUnsyncTimeout s = .next t ∧ t.flag Reg.TICK_SYNC Fld.TICK_SYNC_UNSYNC = true ∧ t.tick = s.tick
         ∧ t.cores = s.cores
         ∧ (s.flag Reg.TICK_SYNC Fld.TICK_SYNC_UNSYNC = false → s.flag Reg.STEP_ERR Fld.STEP_ERR_VALID = false →
             t.fld Reg.STEP_ERR Fld.STEP_ERR_CODE = 0x3582))
     ∧ (∀ v : Word, ∃ t, exec (.tickAlignmentMessage true v) s = .next t ∧ t.tick = max s.tick v.toNat
         ∧ t.out = .tickAlign true (max s.tick v.toNat) :: s.out ∧ framed s t [Reg.TICK] ∧ t.cores = s.cores)
     ∧ (∀ v : Word, s.topOfTree = false →
         (let m := max (max v.toNat s.tick) s.alignMax
          exec (.tickAlignmentMessage false v) s = .next ({ s with alignMax := m }.emit (.tickAlign false m)))))

/-! The tick. -/

/-! Chains and the exchange. -/

/-- CHAIN_PARTIAL, CHAIN_LOCAL_SECTOR (R249, R250): a partial without its local sector waits in order; with it the sum is formed
as the format says, and at the tail on the owner it stands at the partial's address; a local sector waits for its
partial.

CHAIN_DEADLINE (R251, R298): past its deadline an entry without LATE only notes whether local sectors are outstanding; one
with LATE passes a partial that waits on alone, counted as skipped.
What it says beyond the rules is the model's choice (log entries 56, 58). -/
def Obligations.ChainsPairPartialsOrRunLate : Prop :=
  ((∀ (p : Port) (m : Msg) (d : Sector) (e : ChainCfg) (s : State), s.still = true → s.run.quiescent = false →
     s.rxFirst p.val m = true → m.dst.toNat = s.rank → m.kind = 5 → m.data = [d] →
     s.partialEntry (p.val / 4) m.tag.toNat = some e → (s.chain e.g e.c).inq = [] → (s.chain e.g e.c).inMsg = none →
     (s.port p.val).txq = [] → (s.port p.val).part = [] →
     (let x := s.chain e.g e.c
      let flag := m.flags.toNat % 2 == 1
      ((x.locq = [] → x.passed = false →
         ∃ s', exec (.chainPartial p m) s = .next s' ∧ (s'.port p.val).rx = (s.port p.val).rx.erase m
           ∧ s'.chain e.g e.c = { x with inq := [⟨x.nIn, m.addr.toNat, d, flag, none, 0, (x.nIn, 1)⟩], nIn := x.nIn + 1 }
           ∧ framed s s' [] ∧ s'.cores = s.cores)
       ∧ (∀ l, x.locq = [l] → l.pos = x.nIn → l.slot = none → e.pos = 2 → e.mode = 0 → e.next = s.rank →
         s.noChecks = true → Memory.wf s.spad = true → (e.ctx s).isSome = true →
         s.openSector (e.ctx s) m.addr.toNat = true →
         ∃ s', exec (.chainPartial p m) s = .next s' ∧ (s'.port p.val).rx = (s.port p.val).rx.erase m
           ∧ s'.chain e.g e.c = { x with locq := [], nIn := x.nIn + 1 }
           ∧ wroteBytes s.spad s'.spad (m.addr.toNat - spadBase) (chainAdd e.fmt d flag l.data l.flag).1 beAll
           ∧ sameFar s s' ∧ sameRegsBut s s' [Reg.NRL_CH_CNT e.g] ∧ s'.cores = s.cores))))
   ∧ (∀ (g : Group) (tag : BitVec 12) (addr : BitVec 48) (data : Sector) (k : Nat) (srcs : List RedSrc) (ch : Option Nat)
       (e : ChainCfg) (s : State), s.still = true → s.power.xbLost = false →
     s.chainIn = [⟨g.val, k, tag.toNat, addr.toNat, data, srcs, ch⟩] →
     s.ltagEntry g.val tag.toNat = some e → e.mode = 0 → e.pos ≠ 0 →
     (let x := s.chain e.g e.c
      x.locq.length < 16 → x.inq = [] → x.skipped.contains x.nLoc = false →
      ∃ s', exec (.chainLocalSector g tag addr data) s = .next s' ∧ s'.chainIn = []
       ∧ (s'.chain e.g e.c).locq = x.locq ++ [⟨x.nLoc, addr.toNat, data, false, none, 0, (0, 0)⟩]
       ∧ (s'.chain e.g e.c).nLoc = x.nLoc + 1 ∧ (s'.chain e.g e.c).arrived = x.nLoc :: x.arrived
       ∧ framed s s' [] ∧ s'.cores = s.cores)))
  ∧
  (∀ (g : Group) (c : Fin 64) (e : ChainCfg) (s : State), s.chainCfg g.val c.val = some e → s.stepActive = true →
     s.run.quiescent = false → (s.chain g.val c.val).passed = false → e.mode ≠ 2 →
     (let x := s.chain g.val c.val
      (s.chainLate e = false →
         ∃ s', exec (.chainDeadline g c) s = .next s' ∧ framed s s' [] ∧ s'.cores = s.cores
           ∧ s'.chain g.val c.val = { x with passed := true, late := (List.range e.nsec).any fun k => !x.arrived.contains k })
      ∧ (∀ p, s.chainLate e = true → e.pos = 2 → e.mode = 0 → e.next = s.rank → x.inq = [p] → s.noChecks = true →
         Memory.wf s.spad = true → (e.ctx s).isSome = true → s.openSector (e.ctx s) p.addr = true →
         ∃ s', exec (.chainDeadline g c) s = .next s' ∧ s'.cores = s.cores
           ∧ s'.chain g.val c.val = { x with passed := true, inq := [], skipped := p.pos :: x.skipped, nSkip := x.nSkip + 1 }
           ∧ s'.fld (Reg.NRL_CH_CNT g.val) Fld.NRL_CH_CNT_CH_SKIP
               = min (2 ^ Fld.NRL_CH_CNT_CH_SKIP.width - 1) (s.fld (Reg.NRL_CH_CNT g.val) Fld.NRL_CH_CNT_CH_SKIP + 1)
           ∧ wroteBytes s.spad s'.spad (p.addr - spadBase) p.data beAll ∧ sameFar s s'
           ∧ sameRegsBut s s' [Reg.NRL_CH_CNT g.val])))

/-- SHARE_SLOT, SETTLE_SLOT (R288–R292, R295): the four sectors of a slot leave the mesh and become its entry's local
sector: void without an agreement, else the block's share; a settled slot without an agreement only counts, and one with an
agreement and no flag writes its update, the sum scaled, to UPD.

CHECK_SLOT, CHECK_COMPARE (R296, R297): a sampled slot's held share becomes the next local sector of the check entry, one
that is not sampled is dropped; a check sum is passed over where either side is flagged, else compared, and a difference
counts as a mismatch. What it says beyond the rules is the model's choice (log entry 57). -/
def Obligations.SharesSettleAndChecksCompare : Prop :=
  ((∀ (g : Group) (c : Fin 64) (addr : BitVec 48) (x0 x1 x2 x3 : Sector) (k : Nat) (ch : Option Nat) (e : ChainCfg) (s : State),
     s.still = true → s.power.xbLost = false → s.chainCfg g.val c.val = some e → e.mode = 1 → s.ltagEntry g.val e.ltag = some e → e.pos ≠ 0 →
     addr.toNat = e.loc s + 128 * k →
     s.chainIn = [⟨g.val, 5, e.ltag, addr.toNat, x0, [], ch⟩, ⟨g.val, 5, e.ltag, addr.toNat + 32, x1, [], ch⟩,
       ⟨g.val, 5, e.ltag, addr.toNat + 64, x2, [], ch⟩, ⟨g.val, 5, e.ltag, addr.toNat + 96, x3, [], ch⟩] →
     (let x := s.chain g.val c.val
      x.locq = [] → x.inq = [] → x.skipped = [] →
      (∀ b sc, s.agreement e k = some (b, sc) → s.blockOk (e.ctx s) (e.xin s + 128 * b) = true
         ∧ s.blockOk (e.ctx s) (e.upd s + 128 * b) = true) →
      ∃ s', exec (.shareSlot g c addr x0 x1 x2 x3) s = .next s' ∧ s'.chainIn = [] ∧ framed s s' [] ∧ s'.cores = s.cores
       ∧ (s'.chain g.val c.val).locq = [shareOf k addr.toNat (s.agreement e k) [x0, x1, x2, x3]]
       ∧ (s.agreement e k = none → (s'.chain g.val c.val).locq = [⟨k, addr.toNat, 0, false,
           some ⟨0, 0, 0, [x0, x1, x2, x3]⟩, k, (0, 0)⟩])))
   ∧ (∀ (g : Group) (c : Fin 64) (addr : BitVec 48) (sum : Sector) (k : Nat) (ch : Option Nat) (e : ChainCfg) (s : State),
     s.still = true → s.power.xbLost = false → s.chainCfg g.val c.val = some e → e.mode = 1 → s.stagEntry g.val e.stag = some e →
     e.doneEn = false → addr.toNat = e.sum s + 32 * k → s.chainIn = [⟨g.val, 5, e.stag, addr.toNat, sum, [], ch⟩] →
     ∃ s', exec (.settleSlot g c addr sum) s = .next s' ∧ s'.chainIn = [] ∧ s'.cores = s.cores
       ∧ ((s.agreement e k = none → s'.fld (Reg.XCH_CNT1 g.val) Fld.XCH_CNT1_SETTLED
             = min (2 ^ Fld.XCH_CNT1_SETTLED.width - 1) (s.fld (Reg.XCH_CNT1 g.val) Fld.XCH_CNT1_SETTLED + 1)
           ∧ framed s s' [Reg.XCH_CNT1 g.val])
       ∧ (∀ b sc, s.agreement e k = some (b, sc) → (e.ctx s).isSome = true →
           s.rdNat ((e.flagAt s + k) % 2 ^ 48) 1 = 0 → s.blockOk (e.ctx s) (e.xin s + 128 * b) = true →
           (∀ j < 4, s.openSector (e.ctx s) (e.upd s + 128 * b + 32 * j) = true) → Memory.wf s.spad = true →
           (∀ j < 4, s'.spadAt (e.upd s + 128 * b + 32 * j)
             = BitVec.ofNat 256 (packBits 32 ((((sectorI8 sum).drop (8 * j)).take 8).map fun q =>
                 FFmt.fp32.round ((Num.ofInt q).scale ((sc : Int) - 133)))))
           ∧ (∀ a, a < e.upd s + 128 * b ∨ e.upd s + 128 * b + 128 ≤ a → spadBase ≤ a →
               memGet s'.spad (a - spadBase) = memGet s.spad (a - spadBase))
           ∧ sameFar s s' ∧ sameRegsBut s s' [Reg.XCH_CNT1 g.val]))))
  ∧
  ((∀ (g : Group) (c : Fin 64) (addr : BitVec 48) (d : Sector) (k : Nat) (ch : Option Nat) (e : ChainCfg) (s : State),
     s.still = true → s.power.xbLost = false → s.chainCfg g.val c.val = some e → e.mode = 2 → s.ltagEntry g.val e.ltag = some e → e.pos ≠ 0 →
     addr.toNat = e.loc s + 32 * k → s.chainIn = [⟨g.val, 5, e.ltag, addr.toNat, d, [], ch⟩] →
     (let x := s.chain g.val c.val
      x.locq = [] → x.inq = [] → x.skipped = [] →
      ∃ s', exec (.checkSlot g c addr d) s = .next s' ∧ s'.chainIn = [] ∧ framed s s' [] ∧ s'.cores = s.cores
       ∧ (s'.chain g.val c.val).locq = if sampled s.run.seed1.toNat k e.tag e.chk
           then [⟨x.nLoc, addr.toNat, d, false, none, k, (0, 0)⟩] else []))
   ∧ (∀ (g : Group) (c : Fin 64) (k : Nat) (sum : Sector) (flag : Bool) (e : ChainCfg) (s : State),
     s.chainCfg g.val c.val = some e →
     (let x := s.chain g.val c.val
      let a := Reg.XCH_CHK g.val
      let marked := flag || s.rdNat ((e.flagAt s + k) % 2 ^ 48) 1 != 0
      let same := decide (s.rdAt ((e.sum s + 32 * k) % 2 ^ 48) = sum)
      let up (f : FieldPos) (b : Bool) : Nat := if b then min (2 ^ f.width - 1) (s.fld a f + 1) else s.fld a f
      ⟨k, sum, flag⟩ ∈ x.checks → k ∈ x.sums → k ∈ x.flags →
      ∃ s', exec (.checkCompare g c k sum flag) s = .next s'
       ∧ (s'.chain g.val c.val).checks = x.checks.erase ⟨k, sum, flag⟩ ∧ s'.cores = s.cores
       ∧ s'.fld a Fld.XCH_CHK_SKIP = up Fld.XCH_CHK_SKIP marked
       ∧ s'.fld a Fld.XCH_CHK_CMP = up Fld.XCH_CHK_CMP (!marked)
       ∧ s'.fld a Fld.XCH_CHK_MIS = up Fld.XCH_CHK_MIS (!marked && !same)
       ∧ (marked = true ∨ same = true → framed s s' [a]))))


/-! Step control. -/

/-- STEP_START_MESSAGE, STEP_T0 (R259–R261, R280): a start message of the loaded image gives the step's number and attempt,
stands the step information block in memory and clears the detectors; one of another image leaves the ports OUT with
E_PLAN_MISMATCH; at T0 the step is in progress in its first phase and STEP_PEN rises by 1; a T0 that a muster holds only waits.

SOFT_DEADLINE, HARD_TIMEOUT (R259, R263): a phase past its soft deadline is noted and nothing else changes; past its hard
one E_DEADLINE is recorded; before apply, the manager counts a repeat cause and tells the group to repeat.
What it says beyond the rules is the model's choice (log entries 60, 61, 64, 71). -/
def Obligations.StepsStartAndMeetDeadlines : Prop :=
  ((∀ (m : StartMsg) (x : Nat) (s : State), s.still = true → s.tablesWf → m.meas = s.imageMeas → s.stepActive = false →
     s.tick ≤ m.t0.toNat → s.stepCtx = some x → Memory.wf s.spad = true →
     (let a := s.fld Reg.INFO_ADDR Fld.INFO_ADDR_ADDR
      a % 32 = 0 → (∀ j < 3, s.openSector (some x) (a + 32 * j) = true) →
      ∃ s', exec (.stepStartMessage m) s = .next s' ∧ s'.reg Reg.STEP_NUM = m.step
       ∧ s'.fld Reg.STEP_STAT Fld.STEP_STAT_ATTEMPT = min 15 m.attempt.toNat
       ∧ s'.fld Reg.STEP_STAT Fld.STEP_STAT_HALTED = 0
       ∧ s'.run = { StepRun.reset with waiting := true, t0 := m.t0.toNat, evalDue := m.evalDue,
                                       seed1 := BitVec.ofNat 32 (s.seed 1 m.step.toNat) }
       ∧ (∀ b, inWindows b = true → detOffsets.contains (b % 0x1_0000) = true → s.coreCtx (windowCore b) = some x →
           s'.reg b = regReset b)
       ∧ (∀ i < 96, memGet s'.spad (a - spadBase + i) = (s.infoBytes m).getD i 0)
       ∧ (∀ b, b < a ∨ a + 96 ≤ b → spadBase ≤ b → memGet s'.spad (b - spadBase) = memGet s.spad (b - spadBase))
       ∧ sameFar s s' ∧ s'.cores = s.cores))
   ∧ (∀ (m : StartMsg) (x p : Nat) (s : State), s.still = true → m.meas ≠ s.imageMeas → s.stepCtx = some x → p < 32 →
     s.portCtx p = some x →
     ∃ s', exec (.stepStartMessage m) s = .next s' ∧ s'.portState p = 6 ∧ s'.cores = s.cores ∧ s'.run = s.run
       ∧ s'.reg Reg.STEP_NUM = s.reg Reg.STEP_NUM
       ∧ (s.flag Reg.STEP_ERR Fld.STEP_ERR_VALID = false → s'.fld Reg.STEP_ERR Fld.STEP_ERR_CODE = 0x7585))
   ∧ (∀ s : State, s.still = true → s.run.waiting = true → s.power.mustering = true →
     exec .stepT0 s = .next { s with run := { s.run with t0Held := true } })
   ∧ (∀ s : State, s.still = true → s.run.waiting = true → s.power.mustering = false → s.quietBanks →
     ∃ s', exec .stepT0 s = .next s' ∧ s'.stepActive = true
         ∧ s'.run = { s.run with waiting := false, cur := s.firstOpen }
       ∧ s'.fld Reg.STEP_STAT Fld.STEP_STAT_PHASE = (if s.firstOpen < 6 then s.firstOpen + 1 else 1)
       ∧ s'.chains = [] ∧ s'.chainIn = [] ∧ s'.cores = s.cores
       ∧ (s.flag Reg.STEP_PEN_ID Fld.STEP_PEN_ID_VALID = false →
           framed s s' [Reg.STEP_STAT, Reg.DIE_OPP 0, Reg.DIE_OPP 1, Reg.DIE_OPP 2, Reg.DIE_OPP 3])
       ∧ (∀ k v, s.flag Reg.STEP_PEN_ID Fld.STEP_PEN_ID_VALID = true →
           s.penTranslate s.stepCtx (s.fld Reg.STEP_PEN_ID Fld.STEP_PEN_ID_PEN) = some k →
           penApply (s.penCounting k) (s.penVal k) 0 1 = .ok v → signalled s s' k v ∧ v = s.penVal k + 1)))
  ∧
  (∀ (ph : Fin 6) (s : State), s.still = true → s.stepActive = true → s.run.quiescent = false →
       s.planValid ph.val = true →
     ph.val ∉ s.run.done →
     (ph.val ≠ 2 → ph.val ∉ s.run.missed →
       exec (.softDeadline ph) s = .next { s with run := { s.run with missed := ph.val :: s.run.missed } })
     ∧ (ph.val ≠ 5 → s.isManager = false →
       ∃ s', exec (.hardTimeout ph) s = .next s' ∧ s'.run = s.run ∧ s'.mgr = s.mgr ∧ s'.cores = s.cores
         ∧ s'.spad = s.spad ∧ s'.near = s.near
         ∧ (s.flag Reg.STEP_ERR Fld.STEP_ERR_VALID = false → s'.fld Reg.STEP_ERR Fld.STEP_ERR_CODE = 0x0581))
     ∧ (ph.val ≠ 5 → s.isManager = true → s.mgr.state = .run → s.applyBegun = false →
         s.mgr.nCause + 1 < s.fld Reg.REPEAT_CFG Fld.REPEAT_CFG_REPEAT_MAX →
       ∃ s', exec (.hardTimeout ph) s = .next s' ∧ s'.mgr.state = .repeating ∧ s'.mgr.causes = (if ph.val = 2 ∧ s.holdsContribution = true then s.mgr.causes ||| 8 else s.mgr.causes) ||| 2
         ∧ s'.mgr.nCause = s.mgr.nCause + 1 ∧ s'.out.head? = some (.stepRepeat .again) ∧ s'.run = s.run
         ∧ s'.cores = s.cores ∧ s'.spad = s.spad ∧ s'.near = s.near
         ∧ (s.flag Reg.STEP_ERR Fld.STEP_ERR_VALID = false → s'.fld Reg.STEP_ERR Fld.STEP_ERR_CODE = 0x0581)))

/-- REPEAT_MESSAGE, RESUME_MESSAGE, RELOAD_DONE (R264): a repeat begins the scrub of every core of the step's partition and
leaves the device quiescent in phase 7, counted; a skip does the same but for the count and the phase; a halt message leaves
it halted; a resume ends the quiescence and writes what the resident copy holds; once the reload is done, the manager starts
the next attempt. What it says beyond the rules is the model's choice (log entries 62, 69, 109). -/
def Obligations.RepeatsGoThroughTheirSteps : Prop :=
  (∀ (x : Nat) (s : State), s.still = true → s.tablesWf → s.stepCtx = some x →
      (∀ c ∈ s.ctxCores x, s.coreStill c = true) →
    (∃ s', exec (.repeatMessage .again) s = .next s' ∧ s'.run.quiescent = true ∧ s'.run.cur = 6 ∧ s'.run.waiting = false
      ∧ s'.fld Reg.STEP_STAT Fld.STEP_STAT_PHASE = 7
      ∧ s'.fld Reg.STEP_STAT Fld.STEP_STAT_REPEATS = min 65535 (s.fld Reg.STEP_STAT Fld.STEP_STAT_REPEATS + 1)
      ∧ s'.chains = [] ∧ s'.chainIn = [] ∧ (∀ c ∈ s.ctxCores x, s'.scrubBegun c))
    ∧ (∃ s', exec (.repeatMessage .skip) s = .next s' ∧ s'.run.quiescent = true ∧ s'.run.cur = 6 ∧ s'.run.waiting = false
      ∧ s'.reg Reg.STEP_STAT = s.reg Reg.STEP_STAT
      ∧ s'.chains = [] ∧ s'.chainIn = [] ∧ (∀ c ∈ s.ctxCores x, s'.scrubBegun c)))
  ∧ (∀ s : State, s.still = true → s.runningCores = [] → s.stepActive = false →
    ∃ s', exec (.repeatMessage .halt) s = .next s' ∧ s'.fld Reg.STEP_STAT Fld.STEP_STAT_HALTED = 1
      ∧ onlyRegs (s.relay (.stepRepeat .halt)) s' [Reg.STEP_STAT])
  ∧ (∀ (x : Nat) (l : List Item) (s : State), s.run.quiescent = true → s.run.quiet = true → s.stepCtx = some x →
    (let t := (s.relay .stepResume).modRun fun r => { r with quiescent := false, quiet := false }
     t.resident = (t, l) → (∀ c ∈ s.ctxCores x, (t.putItems l).flag (Reg.CB_CFG c) Fld.CB_CFG_EN = false) →
     exec .resumeMessage s = .next (t.putItems l)))
  ∧ (∀ s : State, s.run.quiescent = false → s.run.cur = 6 → s.stepActive = true → s.run.restart = [] →
    (s.isManager = false → exec .reloadDone s = .next s)
    ∧ (s.isManager = true → s.mgr.state = .repeating →
      ∃ s', exec .reloadDone s = .next s' ∧ s'.mgr.state = .run ∧ s'.mgr.attempt = s.mgr.attempt + 1
        ∧ s'.mgr.dets = [] ∧ s'.mgr.ends = [] ∧ s'.regs = s.regs ∧ s'.cores = s.cores ∧ sameMemory s s'
        ∧ s'.out = .stepStart ⟨BitVec.ofNat 64 s.mgr.step, BitVec.ofNat 16 (s.mgr.attempt + 1),
            BitVec.ofNat 64 (s.tick + s.fld Reg.REPEAT_CFG Fld.REPEAT_CFG_START_LEAD), s.mgr.evalDue, s.replay,
            s.mgr.prevApplied, s.imageMeas⟩ :: s.out))

/-- DEVICE_REPORT, VERIFY_REPORT, QUIESCENT_REPORT, GROUP_RECORD_HASH, STEP_ATTEST_REPORT (R256, R263, R264, R267, R384) at the
manager: a device's report before apply is a repeat cause; a verify report is kept by its rank; the last quiescent report
sends the resume; a group's hash is kept, and with one of every group they enter the ring in ascending group order;
attestations are kept. Nothing else of the device changes. Another device passes a report on.

STEP_RUN, STEP_SINGLE, STEP_HALT_NOW (R256, R260, R281) on a manager between steps: RUN and SINGLE send the start message of
the step that STEP_NUM names, START_LEAD ticks ahead, with evaluate due by EVAL_CFG; RUN 0 ends the run; HALT_NOW records
E_GROUP_HALT and halts the group.
What it says beyond the rules is the model's choice (log entries 60, 63, 67, 70). -/
def Obligations.ManagerTakesReportsAndRunsSteps : Prop :=
  (∀ (rank : Rank) (s : State), s.isManager = true →
     (∀ k : ReportKind, s.still = true → s.mgr.state = .run → s.stepActive = true → s.applyBegun = false →
       s.mgr.nCause + 1 < s.fld Reg.REPEAT_CFG Fld.REPEAT_CFG_REPEAT_MAX →
       ∃ s', exec (.deviceReport rank k) s = .next s' ∧ s'.out = .stepRepeat .again :: s.out ∧ s'.mgr.state = .repeating
         ∧ s'.mgr.causes = s.mgr.causes ||| (match k with
             | .mismatch => 1
             | .coreError => 4
             | .lostContribution => 8)
         ∧ s' = { s with mgr := s'.mgr, out := s'.out })
     ∧ (∀ r : VerifyReport, s.mgr.state = .run → s.mgr.verify = none → mfind s.mgr.dets rank.toNat = none →
       exec (.verifyReport rank r) s = .next { s with mgr := { s.mgr with dets := mset s.mgr.dets rank.toNat r } })
     ∧ (∀ r : VerifyReport, s.mgr.state = .run → s.stepActive = true → (mfind s.mgr.dets rank.toNat).isSome = true →
       exec (.verifyReport rank r) s = .next { s with mgr := { s.mgr with
         ends := mset s.mgr.ends rank.toNat r, known := mset s.mgr.known rank.toNat (r.fw, r.dum) } })
     ∧ (s.mgr.state = .repeating ∨ s.mgr.state = .skipping → s.mgr.quiet.contains rank.toNat = false →
       exec (.quiescentReport rank) s = .next { s with
         mgr := { s.mgr with quiet := rank.toNat :: s.mgr.quiet }
         out := (if s.mgr.quiet.length + 1 = s.groupSize then [OutMsg.stepResume] else []) ++ s.out })
     ∧ (∀ (g : Fin 16) (h : Hash), s.role = 2 → s.mgr.due = false →
       (let l := s.mgr.groups ++ [(g.val, h)]
        ∃ s', exec (.groupRecordHash g h) s = .next s' ∧ s' = { s with mgr := s'.mgr, out := .recordHash (some g.val) h :: s.out }
         ∧ ((firstHashes l).length < Config.groupCount → s'.mgr = { s.mgr with groups := l })
         ∧ (Config.groupCount ≤ (firstHashes l).length →
             s'.mgr.lockstep = false ∧ s'.mgr.ring = (firstHashes l).map (·.2) :: s.mgr.ring)))
     ∧ (s.mgr.due = false →
       exec (.stepAttestReport rank) s = .next { s with mgr := { s.mgr with attested := rank.toNat :: s.mgr.attested } }))
  ∧
  (∀ (rank : Rank) (s : State), s.isManager = false → rank.toNat ≠ s.rank →
     (∀ k : ReportKind, exec (.deviceReport rank k) s = .next (s.emit (.deviceReport rank.toNat k)))
     ∧ (∀ r : VerifyReport, exec (.verifyReport rank r) s = .next (s.emit (.verifyReport rank.toNat r)))
     ∧ exec (.quiescentReport rank) s = .next (s.emit (.quiescentReport rank.toNat))
     ∧ exec (.stepAttestReport rank) s = .next (s.emit (.attestReport rank.toNat)))
  ∧
  (∀ s : State, s.role = 1 → s.stepActive = false → s.mgr.state = .idle → s.groupsHold = false →
     (let started (s' : State) : Prop :=
        s'.mgr.state = .run ∧ s'.mgr.attempt = 1 ∧ s'.mgr.step = (s.reg Reg.STEP_NUM).toNat ∧ s'.cores = s.cores
          ∧ ∃ ev, s'.out = .stepStart ⟨s.reg Reg.STEP_NUM, 1,
              BitVec.ofNat 64 (s.tick + s.fld Reg.REPEAT_CFG Fld.REPEAT_CFG_START_LEAD), ev, s.replay, s.mgr.prevApplied,
              s.imageMeas⟩ :: s.out
            ∧ (ev = true ↔ (s.reg Reg.EVAL_CFG).toNat ≠ 0 ∧ (s.reg Reg.STEP_NUM).toNat % (s.reg Reg.EVAL_CFG).toNat = 0)
      (s.attestHolds = false → ∃ s', exec (.stepRun true) s = .next s' ∧ started s'
         ∧ s'.fld Reg.STEP_CTL Fld.STEP_CTL_RUN = 1 ∧ framed s s' [Reg.STEP_CTL])
      ∧ (∃ s', exec (.stepRun false) s = .next s' ∧ s'.fld Reg.STEP_CTL Fld.STEP_CTL_RUN = 0 ∧ s'.out = s.out
         ∧ framed s s' [Reg.STEP_CTL] ∧ s'.cores = s.cores)
      ∧ (s.attestHolds = false → ∃ s', exec .stepSingle s = .next s' ∧ started s' ∧ framed s s' [])
      ∧ (∃ s', exec .stepHaltNow s = .next s' ∧ s'.out.head? = some (.stepRepeat .halt) ∧ s'.mgr.due = false
         ∧ s'.mgr.single = false ∧ s'.cores = s.cores
         ∧ (s.flag Reg.STEP_ERR Fld.STEP_ERR_VALID = false → s'.fld Reg.STEP_ERR Fld.STEP_ERR_CODE = 0x2583))))

/-! Images and profiles. -/

/-- IMAGE_LOAD_START, IMAGE_LOAD_DONE (R319–R321, R328, R329): a start that nothing refuses shows the load under way; one whose
fields do not agree commits nothing, with E_CFG_COMMIT; a load that fails a check leaves everything unchanged with the
check's code; one that passes them all is loaded, with its measurement in IMG_MEAS and the counts of the last image gone;
one that meets an uncorrectable sector while it commits ends in state 5.

PROFILE_SWITCH_CMD, PROFILE_CHECK_REQUEST, PROFILE_CHECK_REPORT (R324): the manager asks every device; a device passes the
request on to its children, its children's answers up, and answers with what it finds; the last consent sends the command to switch, which is then pending until the step boundary.
What it says beyond the rules is the model's choice (log entries 68, 74, 75). -/
def Obligations.ImagesLoadAndProfilesSwitch : Prop :=
  ((∀ (who : Writer) (part : Ctx) (s : State), s.hears who Reg.IMG_CTL = true →
     (let x := s.imagePart who part.val
      s.fld (Reg.PART_STAT x) Fld.PART_STAT_STATE ≠ 2 → s.imgLoad = none → s.partRuns x = false → x < 8 →
      (s.loadAgrees x (s.fld Reg.IMG_SRC Fld.IMG_SRC_ADDR) = true →
       ∃ s', exec (.imageLoadStart who part) s = .next s' ∧ s'.fld Reg.IMG_STAT Fld.IMG_STAT_STATE = 1
       ∧ s'.imgLoad = some ⟨x, s.fld Reg.IMG_SRC Fld.IMG_SRC_ADDR, none⟩ ∧ s'.fld Reg.IMG_CTL Fld.IMG_CTL_PART = x
       ∧ framed s s' [Reg.IMG_CTL, Reg.IMG_STAT] ∧ s'.cores = s.cores)
      ∧ (s.loadAgrees x (s.fld Reg.IMG_SRC Fld.IMG_SRC_ADDR) = false →
       ∃ s', exec (.imageLoadStart who part) s = .next s' ∧ s'.imgLoad = none ∧ s'.boot = s.boot
       ∧ framed s s' [Reg.IMG_CTL, Reg.CFG_ERR, Reg.CFG_ERR_ADDR] ∧ s'.cores = s.cores
       ∧ (s.flag Reg.CFG_ERR Fld.CFG_ERR_VALID = false → s'.fld Reg.CFG_ERR Fld.CFG_ERR_CODE = 0x75FE))))
   ∧ (∀ (img : List SectionBody) (j : ImgLoad) (s : State), s.imgLoad = some j → s.startStep ≠ 10 → j.part < 8 →
     (let u : State := { s with imgLoad := none }
      let h := u.imgHdr j
      let secs := u.imgSections j h
      let l := u.imgApplied secs img
      let code := if u.imgFileCheck j ≠ 0 then u.imgFileCheck j else u.imgPlaceCheck j l
      let b := gather (u.imgFn j h l) l
      (u.imgFileCheck j ≠ 0 ∨ bodiesFit secs img = true) →
      ∃ s', exec (.imageLoadDone img) s = .next s' ∧ s'.imgLoad = none
       ∧ (code ≠ 0 → s'.fld Reg.IMG_STAT Fld.IMG_STAT_STATE = 4 ∧ s'.fld Reg.IMG_STAT Fld.IMG_STAT_CODE = code
           ∧ framed s s' [Reg.IMG_STAT] ∧ s'.images = s.images ∧ s'.cores = s.cores)
       ∧ (code = 0 → (∀ x ∈ l, u.imgUe j x.1.off x.1.len = false) →
           s'.fld Reg.IMG_STAT Fld.IMG_STAT_STATE = 3 ∧ mfind s'.images j.part = some b ∧ s'.imageMeas = u.imgMeas j h
           ∧ s'.fld Reg.IMG_STAT Fld.IMG_STAT_FOLDED = (if s.gridRows < h.rows then 1 else 0)
           ∧ s'.logEntry (6 + j.part) = u.imgMeas j h ∧ (s'.reg Reg.LOSS_N).toNat = 0
           ∧ (s'.reg Reg.STEP_QDROP).toNat = 0 ∧ s'.mgr.prevHash = 0 ∧ s'.managerRank = b.manager)
       ∧ (code = 0 → (∃ x ∈ l, u.imgUe j x.1.off x.1.len = true) →
           s'.fld Reg.IMG_STAT Fld.IMG_STAT_STATE = 5 ∧ s'.fld Reg.IMG_STAT Fld.IMG_STAT_CODE = 0x45CB
           ∧ s'.imgFailed.contains j.part = true ∧ s'.images = s.images))))
  ∧
  (∀ (sel : Fin 4) (s : State),
     (∀ runs, s.isManager = true → exec (.profileSwitchCmd sel runs) s = .next
       { s with mgr := { s.mgr with profile := some sel.val, checks := [] }, out := .profileCheck sel.val false :: s.out })
     ∧ (s.stepActive = true → s.isManager = false → s.profValid sel.val = true →
       ∃ s', exec (.profileSwitchCmd sel false) s = .next s' ∧ onlyRegs s s' [Reg.PROF_STAT]
         ∧ s'.fld Reg.PROF_STAT Fld.PROF_STAT_PENDING = 1 ∧ s'.fld Reg.PROF_STAT Fld.PROF_STAT_NEXT = sel.val)
     ∧ (s.stepActive = true →
       ∃ s', exec (.profileCheckRequest sel true) s = .next s'
         ∧ onlyRegs (s.relay (.profileCheck sel.val true)) s' [Reg.PROF_STAT]
         ∧ s'.fld Reg.PROF_STAT Fld.PROF_STAT_PENDING = 1 ∧ s'.fld Reg.PROF_STAT Fld.PROF_STAT_NEXT = sel.val)
     ∧ (∃ s', exec (.profileCheckRequest sel false) s = .next s'
         ∧ s'.out = .profileReport s.rank sel.val (s.profFits sel.val) :: (s.relay (.profileCheck sel.val false)).out
         ∧ framed s s' [Reg.PROF_STAT] ∧ s'.fld Reg.PROF_STAT Fld.PROF_STAT_PENDING = s.fld Reg.PROF_STAT Fld.PROF_STAT_PENDING)
     ∧ (∀ (rank : Rank) (valid : Bool), s.isManager = false → rank.toNat ≠ s.rank →
       exec (.profileCheckReport rank sel valid) s = .next (s.emit (.profileReport rank.toNat sel.val valid)))
     ∧ (∀ rank : Rank, s.isManager = true → s.mgr.profile = some sel.val →
       (let l := mset s.mgr.checks rank.toNat true
        exec (.profileCheckReport rank sel true) s = .next
         (if l.length = s.groupSize then
           { s with mgr := { s.mgr with profile := none, checks := [] }, out := .profileCheck sel.val true :: s.out }
          else { s with mgr := { s.mgr with checks := l } }))))


/-! Expert routing. -/

/-- ROUTE_WINDOW_WRITE, ROUTE_BUILD, ROUTE_BUILD_DONE (R302–R304): a whole sector in the window gives the build eight entries;
a full build takes its epoch from the OPEN pennant and counts the entries that name no expert; when its writes are
complete they stand in the scratchpad and DONE rises by 1.

COMBINE_HEADER, COMBINE_ROW_SECTOR (R307–R309): at an idle lane a header of a live epoch is stored and the lane receives;
its row sectors are stored and counted, and the last one leaves it landed with an arrival in its half's pennant. A header
of an epoch that is not live is discarded and counted.
What it says beyond the rules is the model's choice (log entries 72, 73). -/
def Obligations.RouteBuildsAndCombineLanesAct : Prop :=
  ((∀ (c : CoreId) (off : BitVec 21) (d : Sector) (s : State), (s.routeOf c.val).winq = [(off.toNat, d, beAll)] →
     s.buildFull c.val = false → (s.routeOf c.val).busy = false →
         s.fld (Reg.RT_WIN c.val) Fld.RT_WIN_OFFSET ≤ off.toNat →
     (let w := s.fld (Reg.RT_WIN c.val) Fld.RT_WIN_OFFSET
      ∃ s', exec (.routeWindowWrite c off d beAll) s = .next s' ∧ (s'.routeOf c.val).winq = []
       ∧ (∀ i < 8, mget (s'.routeOf c.val).entries 0 ((off.toNat - w) / 4 + i) = BitVec.ofNat 32 (d.toNat / 2 ^ (32 * i)))
       ∧ (∀ k, k < (off.toNat - w) / 4 ∨ (off.toNat - w) / 4 + 8 ≤ k →
           mfind (s'.routeOf c.val).entries k = mfind (s.routeOf c.val).entries k)
       ∧ s'.fld (Reg.RT_STAT c.val) Fld.RT_STAT_WRITTEN = (s'.routeOf c.val).entries.length % 2 ^ 12
       ∧ framed s s' [Reg.RT_STAT c.val] ∧ sameCoresBut s s' c.val))
   ∧ (∀ (c : CoreId) (s : State), s.flag (Reg.RT_CFG c.val) Fld.RT_CFG_EN = true → (s.routeOf c.val).busy = false →
     s.buildFull c.val = true →
     (let o := s.penVal (localKey c.val (s.fld (Reg.RT_PEN c.val) Fld.RT_PEN_OPEN))
      let bad := (List.range (s.routeCount c.val)).filter fun m =>
        decide (s.fld (Reg.RT_CFG c.val) Fld.RT_CFG_NEXP_M1 + 1 ≤ (mget (s.routeOf c.val).entries 0 m).toNat)
      o ≠ 0 →
      ∃ s', exec (.routeBuild c) s = .next s' ∧ (s'.routeOf c.val).entries = [] ∧ (s'.routeOf c.val).busy = true
       ∧ s'.fld (Reg.RT_STAT c.val) Fld.RT_STAT_BUSY = 1 ∧ s'.fld (Reg.RT_STAT c.val) Fld.RT_STAT_WRITTEN = 0
       ∧ s'.fld (Reg.RT_STAT c.val) Fld.RT_STAT_EPOCH = (o + 2 ^ 16 - 1) % 2 ^ 16
       ∧ s'.fld (Reg.RT_CNT c.val) Fld.RT_CNT_NOCH
           = min (2 ^ 32 - 1) (s.fld (Reg.RT_CNT c.val) Fld.RT_CNT_NOCH + bad.length)
       ∧ framed s s' [Reg.RT_STAT c.val, Reg.RT_CNT c.val] ∧ sameCoresBut s s' c.val))
   ∧ (∀ (c : CoreId) (off : Nat) (bs : List Byte) (v : Nat) (s : State), (s.routeOf c.val).busy = true →
     (s.routeOf c.val).writes = [(off, bs)] → off + bs.length ≤ 0x20_0000 → Memory.wf s.spad = true → s.quietBanks →
     s.coreStill c.val = true →
     (let k := localKey c.val (s.fld (Reg.RT_PEN c.val) Fld.RT_PEN_DONE)
      let a := c.val * 0x20_0000 + off
      penApply (s.penCounting k) (s.penVal k) 0 1 = .ok v →
      ∃ s', exec (.routeBuildDone c) s = .next s' ∧ (s'.routeOf c.val).busy = false ∧ (s'.routeOf c.val).writes = []
       ∧ s'.fld (Reg.RT_STAT c.val) Fld.RT_STAT_BUSY = 0 ∧ s'.penVal k = v ∧ v = s.penVal k + 1
       ∧ (∀ i < bs.length, memGet s'.spad (a + i) = bs.getD i 0)
       ∧ (∀ b, b < a ∨ a + bs.length ≤ b → memGet s'.spad b = memGet s.spad b) ∧ sameFar s s' ∧ sameCoresBut s s' c.val)))
  ∧
  ((∀ (c : CoreId) (lane : Fin 64) (d : Sector) (s : State), s.coreIdle c.val = true →
     s.flag (Reg.CB_CFG c.val) Fld.CB_CFG_EN = true → s.laneState c.val lane.val = 0 → s.spadOpen c.val = true →
     Memory.wf s.spad = true → (s.routeOf c.val).lanes = [] → (s.routeOf c.val).span = s.spanExceeded c.val →
     (let off := s.fld (Reg.CB_HDR c.val) Fld.CB_HDR_OFFSET + 32 * lane.val
      let e := d.toNat % 2 ^ 16
      off + 32 ≤ 0x20_0000 → (s.routeOf c.val).combq = [(off, d, beAll)] →
      ∃ s', exec (.combineHeader c lane d) s = .next s' ∧ (s'.routeOf c.val).combq = [] ∧ sameFar s s'
       ∧ (s.epochLive c.val (s.laneHalf c.val lane.val) e = true →
           s'.laneState c.val lane.val = 1 ∧ s'.lane c.val lane.val = (e, 0)
           ∧ wroteBytes s.spad s'.spad (c.val * 0x20_0000 + off) d beAll
           ∧ sameRegsBut s s' [Reg.CB_LANE c.val (lane.val / 8)])
       ∧ (s.epochLive c.val (s.laneHalf c.val lane.val) e = false →
           s'.laneState c.val lane.val = 2 ∧ s'.spad = s.spad
           ∧ s'.fld (Reg.CB_CNT c.val) Fld.CB_CNT_STALE = min (2 ^ 32 - 1) (s.fld (Reg.CB_CNT c.val) Fld.CB_CNT_STALE + 1)
           ∧ sameRegsBut s s' [Reg.CB_LANE c.val (lane.val / 8), Reg.CB_CNT c.val])))
   ∧ (∀ (c : CoreId) (lane : Fin 64) (off : BitVec 21) (d : Sector) (e n : Nat) (s : State), s.coreIdle c.val = true →
     (∀ p ∈ s.cores, p.1 = c.val ∨ s.coreStill p.1 = true) →
     s.flag (Reg.CB_CFG c.val) Fld.CB_CFG_EN = true → s.laneState c.val lane.val = 1 → s.spadOpen c.val = true →
     Memory.wf s.spad = true → (s.routeOf c.val).lanes = [(lane.val, (e, n))] → (s.routeOf c.val).span = false →
     s.epochLive c.val (s.laneHalf c.val lane.val) e = true → s.quietBanks →
     (let base := s.fld (Reg.CB_ROWS c.val) Fld.CB_ROWS_OFFSET + lane.val * s.combRows c.val * 32
      let pen := s.fld (Reg.CB_PEN c.val) (if s.laneHalf c.val lane.val = 0 then Fld.CB_PEN_ARR_A else Fld.CB_PEN_ARR_B)
      let k := localKey c.val pen
      base ≤ off.toNat → off.toNat < base + 32 * s.combRows c.val → off.toNat % 32 = 0 →
      (s.routeOf c.val).combq = [(off.toNat, d, beAll)] →
      ∃ s', exec (.combineRowSector c lane off d) s = .next s' ∧ (s'.routeOf c.val).combq = [] ∧ sameFar s s'
       ∧ wroteBytes s.spad s'.spad (c.val * 0x20_0000 + off.toNat) d beAll
       ∧ s'.lane c.val lane.val = (e, n + 1)
       ∧ (n + 1 < s.combRows c.val → s'.laneState c.val lane.val = 1 ∧ sameRegsBut s s' [])
       ∧ (∀ v, s.combRows c.val ≤ n + 1 → pen ≠ s.fld (Reg.CB_PEN c.val) Fld.CB_PEN_OPEN →
           pen ≠ s.fld (Reg.CB_PEN c.val) Fld.CB_PEN_CLOSE →
           penApply (s.penCounting k) (s.penVal k) 0 1 = .ok v →
           s'.laneState c.val lane.val = 3 ∧ s'.penVal k = v ∧ v = s.penVal k + 1))))

/-! Clocks and power. -/

/-- PATTERN_BOUNDARY, MUSTER, OPP_SETTLE (R337, R338, R342–R344): at a boundary every die takes its target, every island's
pattern its frequency and every rail its target's voltage; a muster shows MUSTER_DONE; a ramp that settles leaves SETTLED at the target and the rail within
5 mV of its voltage. What it says beyond the rules is the model's choice (log entries 80, 104). -/
def Obligations.OperatingPointsFollowTargets : Prop :=
  ∀ s : State,
    (s.replay = false → s.held = [] → mwf s.power.islOpp = true →
      (let dies := [Reg.DIE_OPP 0, Reg.DIE_OPP 1, Reg.DIE_OPP 2, Reg.DIE_OPP 3]
       let acts (t : State) : Prop :=
         (∀ q < 4, t.fld (Reg.DIE_OPP q) Fld.DIE_OPP_TARGET = s.oppTarget q)
         ∧ (∀ i < 72, mget t.power.islOpp 0 i = t.islandOpp i) ∧ t.cores = s.cores
         ∧ (s.power.pwmMid = false → s.pwrState < 3 → s.power.coreMv.length = 4 → s.power.sramMv.length = 4 →
             ∀ q < 4, t.power.coreMv.getD q 0 = oppMv (s.oppTarget q) ∧ t.power.sramMv.getD q 0 = oppSramMv (s.oppTarget q))
       (∃ t, exec .patternBoundary s = .next t ∧ acts t ∧ framed s t dies)
       ∧ (s.run.t0Held = false → s.still = true → ∃ t, exec .muster s = .next t ∧ acts t ∧ t.fld Reg.CLK_STAT Fld.CLK_STAT_MUSTER_DONE = 1
          ∧ framed s t (Reg.CLK_STAT :: dies))))
    ∧ (∀ q : Die, s.flag (Reg.DIE_OPP q.val) Fld.DIE_OPP_RAMPING = true → s.power.trip = 0 →
      (let a := Reg.DIE_OPP q.val
       ∃ t, exec (.oppSettle q) s = .next t ∧ t.fld a Fld.DIE_OPP_SETTLED = s.fld a Fld.DIE_OPP_TARGET
        ∧ t.fld a Fld.DIE_OPP_TARGET = s.fld a Fld.DIE_OPP_TARGET ∧ t.fld a Fld.DIE_OPP_RAMPING = 0
        ∧ oppMv (s.fld a Fld.DIE_OPP_TARGET) ≤ t.fld a Fld.DIE_OPP_VCORE_MV + 5
        ∧ t.fld a Fld.DIE_OPP_VCORE_MV ≤ oppMv (s.fld a Fld.DIE_OPP_TARGET) + 5
        ∧ framed s t [a] ∧ t.cores = s.cores))

/-- RAIL_SETTLE_TIMEOUT, VCORE_TOLERANCE_TRIP, PHASE_LIMIT_TRIP, PMBUS_POLL, CLOCK_LOSS (R344, R350–R352): a rail out of its
tolerance, a phase at its limit and a rail that faults or misses its third poll trip the part, each with its error; a rail
that answers well is only shown; a lost crystal unlocks its PLLs with E_CLK_LOST.

POWER_MEASURE, POWER_CAP_STEP, THERMAL_SAMPLE, THERMAL_CAP_STEP (R345–R347) outside a step: measurements are shown; under an
excess every die's cap goes to one OPP below the point it runs to, and under a hot sensor its die's; the hottest sensor is
shown, the peak kept. What it says beyond the rules is the model's choice (log entries 80, 81). -/
def Obligations.TripsAndCapsAct : Prop :=
  (∀ s : State, s.power.trip = 0 →
     (∀ q : Die, s.flag (Reg.DIE_OPP q.val) Fld.DIE_OPP_RAMPING = true →
       ∃ t, exec (.railSettleTimeout q) s = .next t ∧ tripped s t 2
         (if s.fld (Reg.DIE_OPP q.val) Fld.DIE_OPP_SETTLED < s.fld (Reg.DIE_OPP q.val) Fld.DIE_OPP_TARGET then 0x5644
          else 0x5645))
     ∧ (∀ (q : Die) (high : Bool), ∃ t, exec (.vcoreToleranceTrip q high) s = .next t
         ∧ tripped s t 2 (if high then 0x5645 else 0x5644))
     ∧ (∀ (q : Die) (pp : Fin 24), pp.val < s.fld (Reg.PH_CFG q.val) Fld.PH_CFG_PHASES →
         ∃ t, exec (.phaseLimitTrip q pp) s = .next t ∧ tripped s t 2 0x5646)
     ∧ (∀ (r : Fin 10) (pgood : Bool) (mv : BitVec 12),
         (∃ t, exec (.pmbusPoll r true false pgood mv) s = .next t
           ∧ t.fld (Reg.RAIL_STAT r.val) Fld.RAIL_STAT_PGOOD = (if pgood then 1 else 0)
           ∧ t.fld (Reg.RAIL_STAT r.val) Fld.RAIL_STAT_MV = mv.toNat ∧ framed s t [Reg.RAIL_STAT r.val]
               ∧ t.cores = s.cores)
         ∧ (∃ t, exec (.pmbusPoll r true true pgood mv) s = .next t ∧ tripped s t 2 0x5647
           ∧ t.flag (Reg.RAIL_STAT r.val) Fld.RAIL_STAT_FAULT = true)
         ∧ (s.power.missed[r.val]? = some 2 →
             ∃ t, exec (.pmbusPoll r false false pgood mv) s = .next t ∧ tripped s t 2 0x5647)
         ∧ (∀ n, n < 2 → s.power.missed[r.val]? = some n →
             ∃ t, exec (.pmbusPoll r false false pgood mv) s = .next t ∧ t.power.missed[r.val]? = some (n + 1)
               ∧ framed s t [] ∧ t.cores = s.cores))
     ∧ (∀ xb : Bool, ∃ t, exec (.clockLoss xb) s = .next t
         ∧ t.fld Reg.CLK_STAT (if xb then Fld.CLK_STAT_XB_OK else Fld.CLK_STAT_XA_OK) = 0
         ∧ t.fld Reg.CLK_STAT Fld.CLK_STAT_PLL_LOCK
             = s.fld Reg.CLK_STAT Fld.CLK_STAT_PLL_LOCK &&& (if xb then 0xEFFF else 0x1000)
         ∧ (s.flag Reg.CLK_ERR Fld.CLK_ERR_VALID = false → t.fld Reg.CLK_ERR Fld.CLK_ERR_CODE = 0x5604)
         ∧ t.cores = s.cores ∧ t.spad = s.spad ∧ t.near = s.near))
  ∧
  (∀ s : State, s.stepActive = false → s.power.capPwr.length = 4 → s.power.capTherm.length = 4 →
     (∀ c ∈ s.power.capPwr, c ≤ 7) → (∀ c ∈ s.power.capTherm, c ≤ 7) →
     (∀ a b : BitVec 16, ∃ t, exec (.powerMeasure a b) s = .next t ∧ t.fld Reg.PWR_MEAS Fld.PWR_MEAS_AVG_1US = a.toNat
       ∧ t.fld Reg.PWR_MEAS Fld.PWR_MEAS_AVG_10MS = b.toNat
       ∧ (t.power.excess = true ↔ 6 * s.fld Reg.PWR_LIMIT Fld.PWR_LIMIT_LIMIT_W < 5 * a.toNat
           ∨ s.fld Reg.PWR_LIMIT Fld.PWR_LIMIT_LIMIT_W < b.toNat)
       ∧ framed s t [Reg.PWR_MEAS] ∧ t.cores = s.cores)
     ∧ (s.power.excess = true → ∃ t, exec (.powerCapStep false) s = .next t ∧ t.cores = s.cores
       ∧ t.fld Reg.PWR_THROT Fld.PWR_THROT_LIMIT = min 65535 (s.fld Reg.PWR_THROT Fld.PWR_THROT_LIMIT + 1)
       ∧ (∀ q < 4, t.fld (Reg.DIE_OPP q) Fld.DIE_OPP_CAP
           = min (min (s.power.capPwr.getD q 7) (s.capDrop q)) (s.power.capTherm.getD q 7))
       ∧ framed s t [Reg.PWR_THROT, Reg.DIE_OPP 0, Reg.DIE_OPP 1, Reg.DIE_OPP 2, Reg.DIE_OPP 3])
     ∧ (∀ ts : List Byte, ts ≠ [] → ts.length ≤ 96 → (∀ x ∈ ts, x.toNat < 120) →
       ∃ t, exec (.thermalSample ts) s = .next t ∧ framed s t [Reg.THERM_MAX] ∧ t.cores = s.cores
         ∧ (∀ x ∈ ts, x.toNat ≤ t.fld Reg.THERM_MAX Fld.THERM_MAX_TEMP_C)
         ∧ (ts.getD (t.fld Reg.THERM_MAX Fld.THERM_MAX_SENSOR) 0).toNat = t.fld Reg.THERM_MAX Fld.THERM_MAX_TEMP_C
         ∧ t.fld Reg.THERM_MAX Fld.THERM_MAX_PEAK_C
             = max (t.fld Reg.THERM_MAX Fld.THERM_MAX_TEMP_C) (s.fld Reg.THERM_MAX Fld.THERM_MAX_PEAK_C))
     ∧ (∀ q : Die, s.power.hot.getD q.val false = true →
       ∃ t, exec (.thermalCapStep q false) s = .next t ∧ t.cores = s.cores
         ∧ t.fld Reg.PWR_THROT Fld.PWR_THROT_THERMAL = min 65535 (s.fld Reg.PWR_THROT Fld.PWR_THROT_THERMAL + 1)
         ∧ t.fld (Reg.DIE_OPP q.val) Fld.DIE_OPP_CAP
             = min (s.power.capPwr.getD q.val 7) (min (s.power.capTherm.getD q.val 7) (s.capDrop q.val))
         ∧ framed s t [Reg.PWR_THROT, Reg.DIE_OPP q.val]))

/-- POWER_STATE_ENTRY, POWER_STATE_ENTRY_DONE, POWER_STATE_EXIT, LAT_TOL_WRITE (R231, R348, R349): an idle part enters the
deepest state its tolerances allow, Gated and deeper only between runs; the entry done, near memory is in self-refresh
from Retain on, and in Deep the cores hold nothing; an exit leads to Active; a tolerance is stored and shows what it
allows. What it says beyond the rules is the model's choice (log entries 82, 83). -/
def Obligations.PowerStatesEnterAndExit : Prop :=
  ∀ s : State,
    (s.inactive = true → s.pwrState < s.entryState → s.power.waking = false → s.power.trip = 0 →
      ∃ t, exec .powerStateEntry s = .next t ∧ t.pwrState = s.entryState
        ∧ t.flag Reg.PWR_STAT Fld.PWR_STAT_ENTERING = true ∧ onlyRegs s t [Reg.PWR_STAT])
    ∧ (s.flag Reg.PWR_STAT Fld.PWR_STAT_ENTERING = true →
      ∃ t, exec .powerStateEntryDone s = .next t ∧ t.flag Reg.PWR_STAT Fld.PWR_STAT_ENTERING = false
        ∧ t.pwrState = s.pwrState ∧ t.near = s.near
        ∧ (s.pwrState < 3 → onlyRegs s t [Reg.PWR_STAT])
        ∧ (3 ≤ s.pwrState → ∀ h < 8, t.flag (Reg.NEAR_STAT h) Fld.NEAR_STAT_SELFREF = true)
        ∧ (s.pwrState = 3 → t.cores = s.cores ∧ t.spad = s.spad)
        ∧ (s.pwrState = 4 → t.cores = [] ∧ t.spad = [] ∧ t.dbgLevel = 0))
    ∧ (s.power.waking = true → s.pwrState ≤ 1 → s.power.asleep = [] →
      ∃ t, exec .powerStateExit s = .next t ∧ t.pwrState = 0 ∧ t.power.waking = false
        ∧ t.flag Reg.PWR_STAT Fld.PWR_STAT_ENTERING = false ∧ t.cores = s.cores ∧ sameMemory s t
        ∧ (∀ h < 8, t.flag (Reg.NEAR_STAT h) Fld.NEAR_STAT_SELFREF = false))
    ∧ (∀ (who : Writer) (fn : Fn) (ns : Word32), s.hears who (Reg.LAT_TOL fn.val) = true →
      ∃ t, exec (.latTolWrite who fn ns) s = .next t ∧ (t.reg (Reg.LAT_TOL fn.val)).toNat = ns.toNat
        ∧ t.fld Reg.PWR_STAT Fld.PWR_STAT_ALLOWED = deepestFor t.tolerance
        ∧ (t.tolerance < exitNs s.pwrState → s.pwrState ≠ 0 → t.power.waking = true)
        ∧ framed s t [Reg.LAT_TOL fn.val, Reg.PWR_STAT] ∧ t.cores = s.cores)

/-! Resets and starts. -/

/-- POWER_ON_RESET, VAON_LOSS, RST_N_ASSERT, RST_N_RELEASE (R355, R356, R360): power-on and the release of RST_N begin a cold
start with the strap's average sampled; below the threshold the part is Off, and under RST_N it is held with cause 1;
either leaves nothing in its memories.
What it says beyond the rules is the model's choice (log entries 4, 44, 86). -/
def Obligations.ColdResetsBeginAtStepOne : Prop :=
  ∀ s : State,
    (∀ a0 a1 a2 a3 : Byte,
      (let avg := (a0.toNat + a1.toNat + a2.toNat + a3.toNat) / 4
       (s.boot.held = false → ∃ t, exec (.powerOnReset a0 a1 a2 a3) s = .next t ∧ coldBegun t 1
          ∧ t.fld Reg.STRAP Fld.STRAP_A = avg ∧ t.strap = avg / 16 ∧ t.flash = s.flash
          ∧ (∀ a, keepMask 0 a = 0 → a ≠ Reg.RST_STAT → a ≠ Reg.STRAP → t.reg a = regReset a))
       ∧ (s.boot.held = true → s.boot.off = false → s.cores = [] → s.spad = [] → s.near = [] → s.reqs = [] →
          s.started = false →
          ∃ t, exec (.rstNRelease a0 a1 a2 a3) s = .next t ∧ coldBegun t 1 ∧ t.boot.held = false
            ∧ t.fld Reg.STRAP Fld.STRAP_A = avg ∧ t.strap = avg / 16)))
    ∧ (∃ t, exec .vaonLoss s = .next t ∧ t.boot.off = true ∧ t.cores = [] ∧ t.spad = [] ∧ t.near = [] ∧ t.reqs = []
        ∧ t.started = false)
    ∧ (s.boot.off = false → ∃ t, exec .rstNAssert s = .next t ∧ t.boot.held = true
        ∧ t.fld Reg.RST_STAT Fld.RST_STAT_CAUSE = 1 ∧ t.cores = [] ∧ t.spad = [] ∧ t.near = [] ∧ t.reqs = [])

/-- PERST_N_ASSERT, WATCHDOG_EXPIRY, INBAND_RESET, HOST_WARM_RESET, SECURITY_VIOLATION (R356–R359, R390, R391): each source of a
warm reset begins a warm start with its cause; PERST_N's scope 1 resets the host port alone; a violation is counted;
PERST_N_RELEASE only lets the link train.

CORE_ARRAY_RESET, PARTITION_RESET, HOST_LINK_DOWN, HOST_LINK_UP (R180, R352, R356, R394): the first two begin the scrub of the
cores of every partition, or of the one named; a link that goes down leaves the functions as at reset, and one that comes
up shows its rate and width. What it says beyond the rules is the model's choice (log entries 84, 85, 87, 92). -/
def Obligations.WarmAndPartialResetsAct : Prop :=
  (∀ s : State, s.mayReset → s.tablesWf →
     (s.fld Reg.RST_CFG Fld.RST_CFG_PERST_SCOPE = 0 → ∃ t, exec .perstNAssert s = .next t ∧ warmBegun s t 2)
     ∧ (s.fld Reg.RST_CFG Fld.RST_CFG_PERST_SCOPE = 1 → ∃ t, exec .perstNAssert s = .next t
         ∧ t.fld Reg.RST_STAT Fld.RST_STAT_CAUSE = 2 ∧ t.cmdq = [] ∧ t.dmaCh = [] ∧ t.cpls = []
         ∧ t.reg Reg.HOST_LINK = regReset Reg.HOST_LINK ∧ t.cores = s.cores ∧ sameMemory s t)
     ∧ (exec .perstNRelease s = .next s)
     ∧ (s.boot.watchdog = true → s.boot.waitImage = false → ∃ t, exec .watchdogExpiry s = .next t ∧ warmBegun s t 3
         ∧ (s.flag Reg.RST_ERR Fld.RST_ERR_VALID = false → t.fld Reg.RST_ERR Fld.RST_ERR_CODE = 0x0689))
     ∧ (s.pwrState = 0 → s.flag Reg.RST_CFG Fld.RST_CFG_INBAND_EN = true → s.lifecycle = 1 ∨ s.lifecycle = 2 →
         ∃ t, exec .inbandReset s = .next t ∧ warmBegun s t 4)
     ∧ (s.pwrState = 0 → ∃ t, exec .hostWarmReset s = .next t ∧ warmBegun s t 5)
     ∧ (∃ t, exec .securityViolation s = .next t ∧ warmBegun s t 7
         ∧ t.fld Reg.SEC_STAT Fld.SEC_STAT_VIOL_CNT = min 255 (s.fld Reg.SEC_STAT Fld.SEC_STAT_VIOL_CNT + 1)))
  ∧
  (∀ s : State,
     (s.mayReset → s.tablesWf → s.pwrState = 0 →
       (∃ t, exec .coreArrayReset s = .next t ∧ t.near = s.near
         ∧ ∀ x < 8, s.partExists x = true → ∀ c ∈ s.ctxCores x, t.scrubBegun c)
       ∧ ∀ x : Ctx, ∃ t, exec (.partitionReset x) s = .next t ∧ (∀ c ∈ s.ctxCores x.val, t.scrubBegun c)
           ∧ t.near = s.near)
     ∧ (∃ t, exec .hostLinkDown s = .next t ∧ t.cmdq = [] ∧ t.dmaCh = [] ∧ t.cpls = [] ∧ t.cplPhase = [] ∧ t.d3 = []
         ∧ t.reg Reg.HOST_LINK = regReset Reg.HOST_LINK ∧ (∀ f < 9, t.reg (Reg.HF_STAT f) = regReset (Reg.HF_STAT f))
         ∧ t.cores = s.cores ∧ sameMemory s t)
     ∧ (∀ (flit : Bool) (rate : BitVec 4) (width : BitVec 5), ∃ t, exec (.hostLinkUp flit rate width) s = .next t
         ∧ t.fld Reg.HOST_LINK Fld.HOST_LINK_UP = 1 ∧ t.fld Reg.HOST_LINK Fld.HOST_LINK_FLIT = (if flit then 1 else 0)
         ∧ t.fld Reg.HOST_LINK Fld.HOST_LINK_RATE = rate.toNat ∧ t.fld Reg.HOST_LINK Fld.HOST_LINK_WIDTH = width.toNat
         ∧ onlyRegs s t [Reg.HOST_LINK]))

/-- START_STEP_DONE, XTAL_SETTLE_EXPIRY, XTAL_JUDGE_WINDOW, BOOT_GO (R228, R333–R338, R366, R367, R371, R372): the steps follow
each other with what each leaves: firmware measured, judged crystals, locked PLLs and a muster, rails that are on, trained
stacks; the last shows STARTED and counts the boot; a crystal is stable after its settle count, or after four windows in
bounds; without an edge in the first window a part that may lack XB goes on without it.

XTAL_JUDGE_TIMEOUT, PLL_LOCK_TIMEOUT, RAIL_PGOOD_TIMEOUT, START_RETRY, RECOVERY_RESTART, FSC_CLR (R333, R334, R367, R369,
R370, R375): each failure below the third is counted and recorded with its code, and the start waits to begin again;
after the wait a cold start begins at step 2, a warm one at 3; in recovery FSC can be cleared and a cold start asked
for. What it says beyond the rules is the model's choice (log entries 86, 88, 89). -/
def Obligations.StartsGoStepByStepOrBeginAgain : Prop :=
  (∀ s : State,
     (s.startStep = 1 → exec (.startStepDone .done) s = .next (s.setStep 2))
     ∧ (s.startStep = 5 → s.flag Reg.CLK_STAT Fld.CLK_STAT_XA_OK = true → s.xbOk = true →
       exec (.startStepDone (.clocks true)) s = .next (s.setStep 6))
     ∧ (s.startStep = 6 → ∃ t, exec (.startStepDone .done) s = .next t ∧ t.startStep = 7
         ∧ t.fld Reg.CLK_STAT Fld.CLK_STAT_PLL_LOCK = (if s.xbOk then 0xFFFF else 0xEFFF)
         ∧ t.fld Reg.CLK_STAT Fld.CLK_STAT_MUSTER_DONE = 1 ∧ t.cores = s.cores ∧ sameMemory s t)
     ∧ (s.startStep = 7 → s.boot.recovering = false → ∃ t, exec (.startStepDone .done) s = .next t ∧ t.startStep = 8
         ∧ (∀ r < 10, t.flag (Reg.RAIL_STAT r) Fld.RAIL_STAT_ON = true
             ∧ t.flag (Reg.RAIL_STAT r) Fld.RAIL_STAT_PGOOD = true)
         ∧ t.power.pwmMid = false ∧ t.power.trip = 0 ∧ t.cores = s.cores ∧ sameMemory s t)
     ∧ (s.startStep = 11 → s.power.asleep = [] → ∃ t, exec (.startStepDone .done) s = .next t ∧ t.started = true
         ∧ t.startStep = 0 ∧ t.fld Reg.RST_STAT Fld.RST_STAT_FSC = 0
         ∧ t.fld Reg.HOST_BOOT_ID Fld.HOST_BOOT_ID_COUNT = (s.fld Reg.HOST_BOOT_ID Fld.HOST_BOOT_ID_COUNT + 1) % 2 ^ 32
         ∧ framed s t [Reg.RST_STAT, Reg.HOST_BOOT_ID, Reg.START_TIME] ∧ t.cores = s.cores)
     ∧ (s.judging = true → s.boot.hostPath = false → s.flag Reg.CLK_STAT Fld.CLK_STAT_XA_MODE = false →
       ∃ t, exec (.xtalSettleExpiry false) s = .next t ∧ t.flag Reg.CLK_STAT Fld.CLK_STAT_XA_OK = true
         ∧ onlyRegs s t [Reg.CLK_STAT])
     ∧ (∀ n : BitVec 16, s.judging = true → s.boot.hostPath = false → s.flag Reg.CLK_STAT Fld.CLK_STAT_XA_MODE = true →
         s.flag Reg.CLK_STAT Fld.CLK_STAT_XB_MODE = true → n.toNat ≠ 0 →
       ∃ t, exec (.xtalJudgeWindow n) s = .next t
         ∧ t.boot.windows = (if 49990 ≤ n.toNat ∧ n.toNat ≤ 50010 then s.boot.windows + 1 else 0)
         ∧ (4 ≤ t.boot.windows → t.flag Reg.CLK_STAT Fld.CLK_STAT_XA_OK = true ∧ t.xbOk = true)
         ∧ (t.boot.windows < 4 → t.reg Reg.CLK_STAT = s.reg Reg.CLK_STAT)
         ∧ framed s t [Reg.CLK_STAT, Reg.CLK_XB_PPM] ∧ t.cores = s.cores)
     ∧ (s.judging = true → s.boot.judged = false → s.xbMayLack = true →
       ∃ t, exec (.xtalJudgeWindow 0) s = .next t ∧ t.flag Reg.CLK_STAT Fld.CLK_STAT_XA_MODE = false ∧ t.boot.judged = true
         ∧ framed s t [Reg.CLK_STAT, Reg.CLK_XB_PPM] ∧ t.cores = s.cores)
     ∧ (∀ perStack : List (Option Trained), s.startStep = 8 → perStack.length = 8 → (∀ x ∈ perStack, x.isSome = true) →
       ∃ t, exec (.startStepDone (.training perStack [])) s = .next t ∧ t.startStep = 9
         ∧ (∀ h < 8, t.flag (Reg.NEAR_STAT h) Fld.NEAR_STAT_TRAINED = true
             ∧ t.flag (Reg.NEAR_STAT h) Fld.NEAR_STAT_SELFREF = false)
         ∧ t.cores = s.cores ∧ sameMemory s t)
     ∧ (s.startStep = 4 → ((List.range 3).all fun i => s.fwSigned i (s.fwImages.getD i none)) = true →
         State.fwFit (s.fwImages.filterMap id) = true → s.lifecycle ≠ 2 →
       ∃ t, exec (.startStepDone .done) s = .next t ∧ t.startStep = (if s.boot.warm then 6 else 5) ∧ t.boot.watchdog = true
         ∧ t.logEntry 0 = Config.sha512 (((s.fwImages.filterMap id).map (·.bytes)).getD 0 []) ∧ t.cores = s.cores
         ∧ sameMemory s t)
     ∧ (s.boot.hostPath = true → s.flag Reg.CLK_STAT Fld.CLK_STAT_XA_OK = true →
       ∃ t, exec .bootGo s = .next t ∧ t.startStep = 4 ∧ t.boot.hostPath = false ∧ framed s t [Reg.RST_STAT]))
  ∧
  (∀ s : State,
     (s.fld Reg.RST_STAT Fld.RST_STAT_FSC < 2 →
       (s.startStep = 4 → ((List.range 3).all fun i => s.fwSigned i (s.fwImages.getD i none)) = false →
         ∃ t, exec (.startStepDone .done) s = .next t ∧ startFailed s t 0x6682)
       ∧ (s.startStep = 4 → ((List.range 3).all fun i => s.fwSigned i (s.fwImages.getD i none)) = true →
           State.fwFit (s.fwImages.filterMap id) = false →
         ∃ t, exec (.startStepDone .done) s = .next t ∧ startFailed s t 0x7684)
       ∧ (∀ (perStack : List (Option Trained)) (reach : List (Fin 4 × Trained × BitVec 4 × BitVec 5 × BitVec 10)),
           s.startStep = 8 → (∃ x ∈ perStack, x = none) →
         ∃ t, exec (.startStepDone (.training perStack reach)) s = .next t ∧ startFailed s t 0x4685)
       ∧
       (∀ xb : Bool, s.judging = true →
           s.flag Reg.CLK_STAT (if xb then Fld.CLK_STAT_XB_OK else Fld.CLK_STAT_XA_OK) = false →
           s.xbMayLack = false →
           ∃ t, exec (.xtalJudgeTimeout xb) s = .next t ∧ startFailed s t 0x5601)
       ∧ (∀ n : Fin 16, s.startStep = 6 → ∃ t, exec (.pllLockTimeout n) s = .next t ∧ startFailed s t 0x5603)
       ∧ (∀ (vcore : Bool) (r : Fin 10), s.startStep = 7 →
           ∃ t, exec (.railPgoodTimeout vcore r) s = .next t ∧ startFailed s t (if vcore then 0x5644 else 0x5647)))
     ∧ (s.boot.retry = true → ∃ t, exec .startRetry s = .next t ∧ t.boot.retry = false ∧ t.cores = s.cores
         ∧ (s.boot.warm = true → t.startStep = 3)
         ∧ (s.boot.warm = false → s.inRecovery = false → t.startStep = 2))
     ∧ (s.pwrState = 0 → s.inRecovery = true →
         (∃ t, exec .fscClr s = .next t ∧ t.fld Reg.RST_STAT Fld.RST_STAT_FSC = 0 ∧ onlyRegs s t [Reg.RST_STAT])
         ∧ (s.strap ≠ 15 → ∃ t, exec .recoveryRestart s = .next t ∧ t.startStep = 2 ∧ t.inRecovery = false
             ∧ t.fld Reg.RST_STAT Fld.RST_STAT_FSC = 0 ∧ t.boot.warm = false)))


/-! Security and debug. -/

/-- ATTEST, STEP_ATTEST_REQUEST, STEP_ATTEST_RUN, STEP_ATTEST_DONE (R383, R384, R393): a report is written behind its nonce;
a request over regions that are whole sectors of the partition's memory is taken, at once outside a step, else at its
boundary, and one over others fails with E_SA_REGION; it ends with the hash of the regions' bytes, or with E_SA_UE.
What it says beyond the rules is the model's choice (log entries 10, 93, 95). -/
def Obligations.AttestationsAnswerRequests : Prop :=
  ∀ s : State,
    (s.pwrState = 0 → ∀ (fn : Fn) (nonce : List Byte) (t0 : State), s.secArg 32 = some nonce →
      s.putSectors (s.fld Reg.SEC_ARG Fld.SEC_ARG_ADDR + 32) (sectorsOf 26 (s.attestReport (s.secPart fn.val) nonce)) = some t0 →
      ∃ t, exec (.attest fn) s = .next t ∧ t.near = t0.near ∧ t.cores = s.cores ∧ t.spad = s.spad
        ∧ t.fld Reg.SEC_CMD_STAT Fld.SEC_CMD_STAT_DONE = 1 ∧ t.fld Reg.SEC_CMD_STAT Fld.SEC_CMD_STAT_FAIL = 0
        ∧ sameRegsBut t0 t [Reg.SEC_CMD_STAT])
    ∧ (s.pwrState = 0 → ∀ (fn : Fn) (l : List Byte), s.flag Reg.SA_STAT Fld.SA_STAT_PENDING = false →
      s.flag Reg.SA_STAT Fld.SA_STAT_BUSY = false → s.secArg 64 = some l →
      ∃ t, exec (.stepAttestRequest fn) s = .next t ∧ t.cores = s.cores
        ∧ ((regionList l).all (s.regionOk (s.secPart fn.val)) = true →
            t.fld Reg.SEC_CMD_STAT Fld.SEC_CMD_STAT_DONE = 1 ∧ t.fld Reg.SA_STAT Fld.SA_STAT_PART = s.secPart fn.val
            ∧ t.enclave.saRegs = regionList l ∧ t.fld Reg.SA_STAT Fld.SA_STAT_DONE = 0
            ∧ (s.stepActive = true → t.flag Reg.SA_STAT Fld.SA_STAT_PENDING = true
                ∧ t.flag Reg.SA_STAT Fld.SA_STAT_BUSY = false)
            ∧ (s.stepActive = false → t.flag Reg.SA_STAT Fld.SA_STAT_PENDING = false
                ∧ t.flag Reg.SA_STAT Fld.SA_STAT_BUSY = true)
            ∧ framed s t [Reg.SEC_CMD_STAT, Reg.SA_STAT])
        ∧ ((regionList l).all (s.regionOk (s.secPart fn.val)) = false →
            t.fld Reg.SEC_CMD_STAT Fld.SEC_CMD_STAT_FAIL = 1 ∧ t.fld Reg.SEC_CMD_STAT Fld.SEC_CMD_STAT_CODE = 0x76C4
            ∧ t.reg Reg.SA_STAT = s.reg Reg.SA_STAT))
    ∧ (s.flag Reg.SA_STAT Fld.SA_STAT_PENDING = true → s.stepActive = false →
      ∃ t, exec .stepAttestRun s = .next t ∧ t.flag Reg.SA_STAT Fld.SA_STAT_PENDING = false
        ∧ t.flag Reg.SA_STAT Fld.SA_STAT_BUSY = true ∧ onlyRegs s t [Reg.SA_STAT])
    ∧ (s.flag Reg.SA_STAT Fld.SA_STAT_BUSY = true →
      (let secs := s.enclave.saRegs.flatMap fun (e : Nat × Nat) => (List.range (e.2 / 32)).map fun i => e.1 + 32 * i
       let x := s.fld Reg.SA_STAT Fld.SA_STAT_PART
       (∃ t, exec (.stepAttestDone true) s = .next t ∧ t.flag Reg.SA_STAT Fld.SA_STAT_BUSY = false
          ∧ t.fld Reg.SEC_CMD_STAT Fld.SEC_CMD_STAT_FAIL = 1 ∧ t.fld Reg.SEC_CMD_STAT Fld.SEC_CMD_STAT_CODE = 0x46C5
          ∧ (∀ i < 8, t.reg (Reg.SA_HASH i) = 0) ∧ t.cores = s.cores)
       ∧ ((∀ q ∈ secs, ∃ l o, s.place q = some (l, o) ∧ s.ueLoc l = none) →
          ∃ t, exec (.stepAttestDone false) s = .next t ∧ t.flag Reg.SA_STAT Fld.SA_STAT_BUSY = false
            ∧ t.fld Reg.SA_STAT Fld.SA_STAT_DONE = 1 ∧ t.cores = s.cores ∧ sameMemory s t
            ∧ ∃ h : Hash, mfind t.enclave.attested x = some (h, s.enclave.saList)
              ∧ h = Config.sha512 (secs.flatMap fun q => natBytes (s.rdAt q).toNat 32)
              ∧ ∀ i < 8, t.reg (Reg.SA_HASH i) = BitVec.ofNat 64 (h.toNat / 2 ^ (64 * i)))))

/-- NEW_CHALLENGE, CHALLENGE_EXPIRY, INSTALL_BURGEE, KEY_INSTALL, KEY_REVOKE, LIFECYCLE_TRANSITION (R376–R381): a challenge is
a free value and expires to zero; a burgee of the part, and no other, is stored; a signed command that passes its checks
installs or revokes the owner slot that it names, or sets the lifecycle state and resets the part; one that fails a check
shows its error and changes no key and no state.
What it says beyond the rules is the model's choice (log entries 9, 10, 94). -/
def Obligations.SignedCommandsChangeWhatTheyName : Prop :=
  ∀ s : State, s.pwrState = 0 →
    (let done (t : State) : Prop := t.fld Reg.SEC_CMD_STAT Fld.SEC_CMD_STAT_DONE = 1
       ∧ t.fld Reg.SEC_CMD_STAT Fld.SEC_CMD_STAT_FAIL = 0
     let failed (t : State) (e : Nat) : Prop := t.fld Reg.SEC_CMD_STAT Fld.SEC_CMD_STAT_FAIL = 1
       ∧ t.fld Reg.SEC_CMD_STAT Fld.SEC_CMD_STAT_CODE = e % 2 ^ 16 ∧ t.reg Reg.SEC_STAT = s.reg Reg.SEC_STAT
       ∧ ∀ k < 4, t.reg (Reg.SEC_KEY k) = s.reg (Reg.SEC_KEY k)
     let chal := [Reg.SEC_CHAL 0, Reg.SEC_CHAL 1, Reg.SEC_CHAL 2, Reg.SEC_CHAL 3]
     let slot (k : Nat) : List Nat := [Reg.SEC_KEY k, Reg.SEC_KEY_PUB k 0, Reg.SEC_KEY_PUB k 1, Reg.SEC_KEY_PUB k 2,
       Reg.SEC_KEY_PUB k 3, Reg.SEC_STAT, Reg.SEC_CMD_STAT]
     (∃ t, exec .newChallenge s = .next t ∧ done t ∧ t.enclave.live = true
        ∧ t.challenge = (Config.freeWord s.free : BitVec 256).toNat ∧ framed s t (Reg.SEC_CMD_STAT :: chal)
            ∧ t.cores = s.cores)
     ∧ (s.enclave.live = true → ∃ t, exec .challengeExpiry s = .next t ∧ t.challenge = 0 ∧ t.enclave.live = false
        ∧ framed s t chal ∧ t.cores = s.cores)
     ∧ (∀ bs, s.secArg 192 = some bs → ∃ t, exec .installBurgee s = .next t
        ∧ if s.burgeeOk bs then done t ∧ t.fld Reg.SEC_STAT Fld.SEC_STAT_BURGEE = 1
            ∧ (∀ i < 24, t.reg (Reg.SEC_BURGEE i) = BitVec.ofNat 64 (bytesAt bs (8 * i) 8))
          else failed t 0x76C2)
     ∧ (∃ t, exec .keyInstall s = .next t ∧ onAnswer (s.signedCheck 1).1 (failed t) fun c =>
        done t ∧ t.fld (Reg.SEC_KEY c.arg0) Fld.SEC_KEY_VALID = 1 ∧ t.fld (Reg.SEC_KEY c.arg0) Fld.SEC_KEY_ROLE = c.arg1
        ∧ (∀ i < 4, t.reg (Reg.SEC_KEY_PUB c.arg0 i) = BitVec.ofNat 64 (c.pub / 2 ^ (64 * i)))
        ∧ t.fld Reg.SEC_STAT ⟨24 + c.arg0, 1⟩ = 1 ∧ t.enclave.live = false ∧ framed s t (chal ++ slot c.arg0)
        ∧ t.cores = s.cores)
     ∧ (∃ t, exec .keyRevoke s = .next t ∧ onAnswer (s.signedCheck 2).1 (failed t) fun c =>
        done t ∧ t.fld (Reg.SEC_KEY c.arg0) Fld.SEC_KEY_VALID = 0 ∧ (∀ i < 4, t.reg (Reg.SEC_KEY_PUB c.arg0 i) = 0)
        ∧ t.fld Reg.SEC_STAT ⟨24 + c.arg0, 1⟩ = 0
        ∧ (s.enclave.session = some c.arg0 → t.dbgLevel = 0 ∧ t.enclave.session = none)
        ∧ framed s t (chal ++ slot c.arg0 ++ [Reg.DBG_STAT]) ∧ t.cores = s.cores)
     ∧ (∃ t, exec .lifecycleTransition s = .next t ∧ onAnswer (s.signedCheck 3).1 (failed t) fun c =>
        t.lifecycle = c.arg0 ∧ t.dbgLevel = 0 ∧ warmBegun s t 5
        ∧ (c.arg0 = 3 → t.enclave.idKey = none ∧ ∀ k < 4, t.fld (Reg.SEC_KEY k) Fld.SEC_KEY_VALID = 0)))

/-- DEBUG_UNLOCK, DBG_OBSERVE, DBG_CLOSE (R385, R386, R388): an unlock that passes its checks sets the level it names; one that
fails is counted, and the eighth locks; OBSERVE needs no unlock except in Deployed; CLOSE ends the level.
What it says beyond the rules is the model's choice (log entry 96). -/
def Obligations.DebugLevelsOpenAndClose : Prop :=
  ∀ s : State, s.pwrState = 0 →
    (s.flag Reg.DBG_STAT Fld.DBG_STAT_LOCKED = false →
      ∃ t, exec .debugUnlock s = .next t ∧ t.cores = s.cores ∧ onAnswer (s.signedCheck 4).1
        (fun _ => t.dbgLevel = s.dbgLevel ∧ t.fld Reg.SEC_CMD_STAT Fld.SEC_CMD_STAT_FAIL = 1
          ∧ t.fld Reg.DBG_STAT Fld.DBG_STAT_FAILS = min 8 (s.fld Reg.DBG_STAT Fld.DBG_STAT_FAILS + 1)
          ∧ (7 ≤ s.fld Reg.DBG_STAT Fld.DBG_STAT_FAILS → t.flag Reg.DBG_STAT Fld.DBG_STAT_LOCKED = true))
        fun c => t.dbgLevel = c.arg0 ∧ (c.arg0 = 2 → t.dbgPart = c.arg1) ∧ t.fld Reg.DBG_STAT Fld.DBG_STAT_FAILS = 0
          ∧ t.fld Reg.SEC_CMD_STAT Fld.SEC_CMD_STAT_DONE = 1 ∧ sameMemory s t)
    ∧ (s.flag Reg.DBG_STAT Fld.DBG_STAT_LOCKED = true → ∃ t, exec .debugUnlock s = .next t ∧ t.dbgLevel = s.dbgLevel
        ∧ t.fld Reg.SEC_CMD_STAT Fld.SEC_CMD_STAT_CODE = 0x6703 ∧ t.cores = s.cores)
    ∧ (∃ t, exec .dbgObserve s = .next t ∧ t.cores = s.cores
        ∧ (s.lifecycle ≠ 2 → t.dbgLevel = 1 ∧ framed s t [Reg.DBG_STAT])
        ∧ (s.lifecycle = 2 → t.dbgLevel = s.dbgLevel ∧ t.fld Reg.DBG_ACC Fld.DBG_ACC_CODE = 0x7702))
    ∧ (∃ t, exec .dbgClose s = .next t ∧ t.dbgLevel = 0 ∧ t.enclave.session = none ∧ framed s t [Reg.DBG_STAT]
        ∧ t.cores = s.cores)

/-- DBG_HALT, DBG_STEP, DBG_RESUME, DBG_READ, DBG_WRITE, DBGAP_ACCESS, TAP_RESET, UPDATE_IR (R385–R389): under Full debug a
core of the partition halts, resumes, and steps over one instruction (shown for a CADD); words of its partition's memory
are read and written; below the level an access is refused; the TAP takes an instruction that is available, else
BYPASS. What it says beyond the rules is the model's choice (log entries 96, 97, 98). -/
def Obligations.DebugAccessesObeyTheLevel : Prop :=
  ∀ s : State, s.pwrState = 0 →
    (let full (c : CoreId) : Prop := s.dbgLevel = 2 ∧ s.coreCtx c.val = some s.dbgPart ∧ s.coreStill c.val = true
     let a := s.fld Reg.DBG_ADDR Fld.DBG_ADDR_ADDR / 4 * 4
     let v := s.fld Reg.DBG_DATA Fld.DBG_DATA_DATA
     let mine (l : Loc) : Prop := s.dbgLevel = 2 ∧ State.isData a = true ∧ inWindows a = false
       ∧ s.place (a / 32 * 32) = some (l, some s.dbgPart) ∧ s.gated l = false ∧ s.ueLoc l = none ∧ l.space = .near
     (∀ c : CoreId, full c → ∃ t, exec (.dbgHalt c) s = .next t ∧ t.enclave.touched = true
        ∧ (∀ x, t.strmState c.val x = if s.strmState c.val x = 1 then 0 else s.strmState c.val x)
        ∧ framed s t [Reg.STRM_STAT c.val 0, Reg.STRM_STAT c.val 1] ∧ sameCoresBut s t c.val)
     ∧ (∀ (c : CoreId) (x : Strm), full c → s.dbgMayRun c.val = true → s.strmState c.val x ≠ 1 →
         s.strmState c.val x ≠ 3 →
        s.power.xaLost = false → (s.strm c.val x).hold = .free → (s.strm c.val x).pastEnd = false →
            s.earlierDone c.val x = true →
        (let i : Nat := (mget (s.strm c.val x).imem 0 (s.strmBank c.val x * 2048 + s.strmIndex c.val x)).toNat
         let w : Body := BitVec.ofNat 122 i
         let k := bits w 121 119
         i / 2 ^ 122 = 0x05 → opReservedOk 0x05 w = true → bit1 w 118 = false → s.strmIndex c.val x < 2047 →
         ∃ t, exec (.dbgStep c x) s = .next t ∧ t.cnt c.val x k = (s.cnt c.val x k + bits w 31 0) % 2 ^ 32
          ∧ t.strmState c.val x = 0 ∧ t.strmIndex c.val x = s.strmIndex c.val x + 1
          ∧ t.fld Reg.DBG_CORE Fld.DBG_CORE_DONE = 1
          ∧ framed s t [Reg.STRM_STAT c.val (sidx x), Reg.CNT c.val (sidx x) k, Reg.DBG_CORE]))
     ∧ (∀ c : CoreId, full c → s.dbgMayRun c.val = true → (∀ x, s.strmState c.val x = 0 ∨ s.strmState c.val x = 2) →
        ∃ t, exec (.dbgResume c) s = .next t ∧ (∀ x, t.strmState c.val x = 1
            ∧ t.strmIndex c.val x = s.strmIndex c.val x)
          ∧ framed s t [Reg.STRM_STAT c.val 0, Reg.STRM_STAT c.val 1])
     ∧ (∀ l, mine l → ∃ t, exec .dbgRead s = .next t
         ∧ t.fld Reg.DBG_DATA Fld.DBG_DATA_DATA = memNat s.near (l.key + a % 32) 4
          ∧ t.fld Reg.DBG_ACC Fld.DBG_ACC_DONE = 1 ∧ t.fld Reg.DBG_ACC Fld.DBG_ACC_REFUSED = 0
          ∧ framed s t [Reg.DBG_DATA, Reg.DBG_ACC] ∧ t.cores = s.cores)
     ∧ (∀ l, mine l → s.weakIn l = 0 → Memory.wf s.near = true → ∃ t, exec .dbgWrite s = .next t ∧ memNat t.near (l.key + a % 32) 4 = v
          ∧ (∀ b, b < l.key + a % 32 ∨ l.key + a % 32 + 4 ≤ b → memGet t.near b = memGet s.near b)
          ∧ t.enclave.touched = true ∧ t.fld Reg.DBG_ACC Fld.DBG_ACC_REFUSED = 0 ∧ sameRegsBut s t [Reg.DBG_ACC]
          ∧ t.reach = s.reach ∧ t.spad = s.spad ∧ t.cores = s.cores)
     ∧ (s.dbgLevel = 0 → ∃ t u, exec .dbgRead s = .next t ∧ exec .dbgWrite s = .next u
          ∧ t.fld Reg.DBG_ACC Fld.DBG_ACC_REFUSED = 1 ∧ t.fld Reg.DBG_ACC Fld.DBG_ACC_CODE = 0x7702
          ∧ u.fld Reg.DBG_ACC Fld.DBG_ACC_REFUSED = 1 ∧ u.near = s.near ∧ u.reach = s.reach ∧ u.spad = s.spad)
     ∧ (∀ dr : BitVec 81, s.enclave.tapIr = 0x10 → 1 ≤ s.dbgLevel → s.boot.off = false → dr.toNat / 2 ^ 80 = 0 →
        (let q := dr.toNat / 2 ^ 32 % 2 ^ 48 / 4 * 4
         State.isData q = false → State.observable q = true → State.enclavePrivate q = false →
         ∃ t, exec (.dbgapAccess dr) s = .next t ∧ t.enclave.tapData = s.readWord q ∧ t.enclave.tapRefused = false
          ∧ framed s t [] ∧ t.cores = s.cores))
     ∧ (∃ t, exec .tapReset s = .next t ∧ t.enclave.tapIr = 0x01 ∧ framed s t [] ∧ t.cores = s.cores)
     ∧ (∀ code : Byte, s.boot.off = false → ∃ t, exec (.updateIr code) s = .next t ∧ framed s t [] ∧ t.cores = s.cores
          ∧ t.enclave.tapIr = if s.tapAllows code.toNat then code.toNat else 0xFF))

/-! The host. -/

/-- HOST_BAR2_READ, HOST_BAR2_WRITE, HOST_BAR0_READ, CONFIGURATION_REQUEST (R394–R397, R407): a read of mapped sectors answers
their bytes, one of an unmapped sector is refused, one that meets an uncorrectable sector aborts; a write changes its bytes alone, and discards what is unmapped; a word
of BAR0 in the function's scope answers what its register reads; a configuration request is retried before the start and
then sets D3hot and the size of BAR2. What it says beyond the rules is the model's choice (log entries 92, 99). -/
def Obligations.HostReachesMemoryAndRegisters : Prop :=
  ∀ (s : State) (fn : Fn),
    (s.pwrState = 0 → ∀ (off : BitVec 48) (len : Fin 4097) (a : Nat), s.bar2Addr fn.val off.toNat len.val = some a →
      ((∀ q ∈ State.sectorsIn a len.val, ∃ l, s.hostPlace fn.val q = some l ∧ s.answersPlainly l) →
        ∃ t bs, exec (.hostBar2Read fn off len) s = .next t ∧ t.out.head? = some (.completion fn.val 0 bs)
          ∧ bs.length = len.val
          ∧ (∀ i < len.val, ∃ l, s.hostPlace fn.val ((a + i) / 32 * 32) = some l
              ∧ bs.getD i 0 = BitVec.ofNat 8 ((s.rdLoc l).toNat / 256 ^ ((a + i) % 32)))
          ∧ framed s t [] ∧ t.cores = s.cores)
      ∧ ((∃ q ∈ State.sectorsIn a len.val, s.hostPlace fn.val q = none) →
        ∃ t, exec (.hostBar2Read fn off len) s = .next t ∧ t.out.head? = some (.completion fn.val 1 []))
      ∧ ((∀ q ∈ State.sectorsIn a len.val, ∃ l, s.hostPlace fn.val q = some l ∧ s.gated l = false ∧ s.margined l = false) →
        (∃ q ∈ State.sectorsIn a len.val, ∃ l, s.hostPlace fn.val q = some l ∧ s.ueLoc l ≠ none) →
        ∃ t, exec (.hostBar2Read fn off len) s = .next t ∧ t.out.head? = some (.completion fn.val 2 [])))
    ∧ (s.pwrState = 0 → ∀ (off : BitVec 48) (bs : List Byte) (a : Nat), s.bar2Addr fn.val off.toNat bs.length = some a →
      (∀ l, bs ≠ [] → a % 32 + bs.length ≤ 32 → s.hostPlace fn.val (a / 32 * 32) = some l → s.gated l = false →
          l.space = .near →
        Memory.wf s.near = true → s.answersPlainly l →
        ∃ t, exec (.hostBar2Write fn off bs) s = .next t ∧ t.reach = s.reach ∧ t.spad = s.spad ∧ t.hostMem = s.hostMem
          ∧ (∀ b, memGet t.near b = if l.key + a % 32 ≤ b
              ∧ b < l.key + a % 32 + bs.length then bs.getD (b - (l.key + a % 32)) 0
              else memGet s.near b)
          ∧ sameRegsBut s t [] ∧ t.cores = s.cores)
      ∧ ((∀ q ∈ State.sectorsIn a bs.length, s.hostPlace fn.val q = none) →
        ∃ t, exec (.hostBar2Write fn off bs) s = .next t ∧ t.near = s.near ∧ t.reach = s.reach ∧ t.spad = s.spad
          ∧ t.cores = s.cores))
    ∧ (∀ (off : BitVec 29) (a0 : Nat), bar0Addr off.toNat = some a0 → off.toNat % 4 = 0 →
      (let a := ownPage (.host fn) a0
       s.pwrState = 0 ∨ answersAsleep a0 = true → s.inBootBuf a = false → s.inFlash a = false → s.regGated a = false →
       (s.inScope fn.val a = true → ∃ t, exec (.hostBar0Read fn off 4) s = .next t
          ∧ t.out.head? = some (.completion fn.val 0 (natBytes (s.readWord a).toNat 4)) ∧ framed s t []
              ∧ t.cores = s.cores)
       ∧ (s.inScope fn.val a = false → ∃ t, exec (.hostBar0Read fn off 4) s = .next t
          ∧ t.out.head? = some (.completion fn.val 0 [0, 0, 0, 0]))))
    ∧ (∀ (d3hot : Option Bool) (bar2 : Option (Fin 12)),
      (s.started = false → ∃ t, exec (.configurationRequest fn d3hot bar2) s = .next t
        ∧ t.out.head? = some (.completion fn.val 3 []) ∧ t = { s with out := t.out })
      ∧ (s.started = true → ∃ t, exec (.configurationRequest fn d3hot bar2) s = .next t
        ∧ t.out.head? = some (.completion fn.val 0 []) ∧ framed s t [] ∧ t.cores = s.cores
        ∧ (t.d3.contains fn.val = d3hot.getD (s.d3.contains fn.val))
        ∧ mget t.bar2 11 fn.val = (bar2.map (·.val)).getD (mget s.bar2 11 fn.val)))

/-- RING_DOORBELL, RING_CONS_WRITE, OPEN (R398–R401): a doorbell takes the entry that the host has put into its ring, and one
beyond the ring is refused; a consumer index is stored; OPEN settles on the highest version both sides have, or on none
and answers the range. What it says beyond the rules is the model's choice (log entry 100). -/
def Obligations.RingsCarryCommands : Prop :=
  ∀ (s : State) (fn : Fn),
    (∀ prod : BitVec 16, s.pwrState = 0 → s.d3.contains fn.val = false → ringEn s fn.val 0 = true →
      (let c := s.fld (Reg.HF_RING_CONS fn.val 0) Fld.HF_RING_CONS_INDEX
       let bs := memBytes s.hostMem ((s.reg (Reg.HF_RING_BASE fn.val 0)).toNat + c * 64) 64
       prod.toNat < ringSize s fn.val 0 → c < ringSize s fn.val 0 → (c + 1) % ringSize s fn.val 0 = prod.toNat →
       mget s.cmdq [] fn.val = [] → s.cmdValid fn.val bs = true →
       ∃ t, exec (.ringDoorbell fn prod) s = .next t ∧ mget t.cmdq [] fn.val = [bs]
        ∧ t.fld (Reg.HF_RING_PROD fn.val 0) Fld.HF_RING_PROD_INDEX = prod.toNat
        ∧ t.fld (Reg.HF_RING_CONS fn.val 0) Fld.HF_RING_CONS_INDEX = prod.toNat
        ∧ framed s t [Reg.HF_RING_PROD fn.val 0, Reg.HF_RING_CONS fn.val 0] ∧ t.cores = s.cores))
    ∧ (∀ prod : BitVec 16, s.pwrState = 0 → s.d3.contains fn.val = false → ringSize s fn.val 0 ≤ prod.toNat →
      ∃ t, exec (.ringDoorbell fn prod) s = .next t ∧ t.cmdq = s.cmdq ∧ t.cores = s.cores
        ∧ t.reg (Reg.HF_RING_PROD fn.val 0) = s.reg (Reg.HF_RING_PROD fn.val 0))
    ∧ (∀ (err : Bool) (cons : BitVec 16), s.cpls = [] → mget s.cmdq [] fn.val = [] →
      (let r := if err then 2 else 1
       cons.toNat < ringSize s fn.val r →
       ∃ t, exec (.ringConsWrite fn err cons) s = .next t
        ∧ t.fld (Reg.HF_RING_CONS fn.val r) Fld.HF_RING_CONS_INDEX = cons.toNat
            ∧ onlyRegs s t [Reg.HF_RING_CONS fn.val r]))
    ∧ (∀ bs : List Byte, s.cmdReady fn.val 1 bs → s.flag (Reg.HF_STAT fn.val) Fld.HF_STAT_OPEN = false →
      (let a := Reg.HF_STAT fn.val
       let lo := s.fld Reg.HOST_ABI_RANGE Fld.HOST_ABI_RANGE_MIN
       let hi := s.fld Reg.HOST_ABI_RANGE Fld.HOST_ABI_RANGE_MAX
       let v := min (bytesAt bs 0xA 2) hi
       ∃ t, exec (.openAbi fn) s = .next t ∧ t.cmdq = [] ∧ t.cores = s.cores
           ∧ sameRegsBut s t [a, Reg.HF_RING_PROD fn.val 1]
        ∧ (max (bytesAt bs 8 2) lo ≤ v → t.fld a Fld.HF_STAT_OPEN = 1 ∧ t.fld a Fld.HF_STAT_ABI = v
            ∧ completed s t fn.val (cmdHdr bs) 0 v)
        ∧ (v < max (bytesAt bs 8 2) lo → t.fld a Fld.HF_STAT_OPEN = 0 ∧ t.fld a Fld.HF_STAT_ABI = 0
            ∧ completed s t fn.val (cmdHdr bs) 0x7747 (lo * 2 ^ 32 + hi * 2 ^ 16))))

/-- DMA, DMA_DONE (R402): a command on a channel of its function over memory that it reaches queues there, another one
completes with its error; when it is done every sector of it has moved, out of device memory or into near memory, and its
completion shows the bytes moved. What it says beyond the rules is the model's choice (log entries 100, 102). -/
def Obligations.DmaMovesItsBytes : Prop :=
  (∀ (s : State) (fn : Fn) (bs : List Byte) (x : Nat), s.cmdReady fn.val 2 bs →
    (let ch := bytesAt bs 8 1
     let len := bytesAt bs 0x10 4
     let host := bytesAt bs 0x18 8
     let dev := bytesAt bs 0x20 8
     let fits : Prop := ch ≤ 15 ∧ s.chanFn ch = fn.val ∧ bytesAt bs 9 1 ≤ 1 ∧ len % 32 = 0 ∧ host % 32 = 0
         ∧ dev % 32 = 0 ∧ 32 ≤ len
     (fits → s.dmaCtx fn.val dev = some x → s.fld (Reg.PART_STAT x) Fld.PART_STAT_STATE ≠ 2 →
       (s.dmaPlace fn.val dev).isSome = true → (s.dmaPlace fn.val (dev + len - 32)).isSome = true →
       ∃ t j, exec (.dma fn) s = .next t ∧ mget t.dmaCh [] ch = mget s.dmaCh [] ch ++ [j] ∧ j.fn = fn.val ∧ j.len = len
        ∧ j.host = host ∧ j.dev = dev ∧ j.tag = bytesAt bs 4 4 ∧ (j.toDevice = true ↔ bytesAt bs 9 1 = 0) ∧ j.ctx = x
        ∧ t.cmdq = [] ∧ framed s t [] ∧ t.cores = s.cores)
     ∧ (¬ fits → ∃ t, exec (.dma fn) s = .next t ∧ t.dmaCh = s.dmaCh ∧ completed s t fn.val (cmdHdr bs) 0x7745 0)))
  ∧ (∀ (s : State) (ch : Fin 16) (j : DmaJob), mfind s.dmaCh ch.val = some [j] → mwf s.dmaCh = true → j.pen = none → s.ringOpen j.fn →
      s.still = true →
    s.held = [] → s.nearMargin = [] → mget s.cmdq [] j.fn = [] → 32 ≤ j.len → j.len < 2 ^ 32 →
    (let h : CmdHdr := ⟨2, j.irq, false, j.vec, j.tag⟩
     let e := (s.reg (Reg.HF_RING_BASE j.fn 1)).toNat + 16 * s.fld (Reg.HF_RING_PROD j.fn 1) Fld.HF_RING_PROD_INDEX
     let n := j.len / 32
     (j.toDevice = false →
       (∀ i < n, ∃ l, s.dmaPlace j.fn (j.dev + 32 * i) = some l ∧ s.answersPlainly l) →
       ∃ t, exec (.dmaDone ch) s = .next t ∧ completed s t j.fn h 0 (32 * n) ∧ mget t.dmaCh [] ch.val = []
        ∧ t.near = s.near ∧ t.reach = s.reach ∧ t.spad = s.spad ∧ t.cores = s.cores
        ∧ (∀ i < n, ∀ b < 32, ∃ l, s.dmaPlace j.fn (j.dev + 32 * i) = some l
            ∧ (j.host + 32 * i + b < e ∨ e + 16 ≤ j.host + 32 * i + b →
                memGet t.hostMem (j.host + 32 * i + b) = BitVec.ofNat 8 ((s.rdLoc l).toNat / 256 ^ b)))
        ∧ (∀ b, b < j.host ∨ j.host + 32 * n ≤ b → b < e ∨ e + 16 ≤ b → memGet t.hostMem b = memGet s.hostMem b))
     ∧ (∀ L : Nat → Loc, j.toDevice = true → Memory.wf s.near = true →
       (∀ i < n, s.dmaPlace j.fn (j.dev + 32 * i) = some (L i) ∧ (L i).space = .near ∧ s.gated (L i) = false) →
       (∀ i < n, ∀ k < n, i ≠ k → (L i).key + 32 ≤ (L k).key ∨ (L k).key + 32 ≤ (L i).key) →
       ∃ t, exec (.dmaDone ch) s = .next t ∧ completed s t j.fn h 0 (32 * n) ∧ mget t.dmaCh [] ch.val = []
        ∧ t.reach = s.reach ∧ t.spad = s.spad ∧ t.cores = s.cores
        ∧ (∀ i < n, ∀ b < 32, memGet t.near ((L i).key + b) = memGet s.hostMem (j.host + 32 * i + b))
        ∧ (∀ b, (∀ i < n, b < (L i).key ∨ (L i).key + 32 ≤ b) → memGet t.near b = memGet s.near b))))

/-- PART_CREATE, PART_KILL, PART_KILL_DONE (R405, R406): a partition of free resources comes into being and owns them; one that
exists is not made again; a kill begins the scrub of its cores and regions, and completes when they have ended: the
partition is there again, or its resources are free.
What it says beyond the rules is the model's choice (log entries 30, 101). -/
def Obligations.PartitionsAreMadeAndKilled : Prop :=
  (∀ (s : State) (bs : List Byte), s.cmdReady 0 3 bs →
    (let x := bytesAt bs 8 1
     let vf := bytesAt bs 9 1
     let isl := maskBits (bytesAt bs 0xA 9) 72
     let pcs := maskBits (bytesAt bs 0x13 32) 256
     let ports := maskBits (bytesAt bs 0x33 4) 32
     let segs := maskBits (bytesAt bs 0x37 8) 64
     x ≤ 7 → vf ≤ 8 →
     (s.partExists x = false → (vf = 0 ∨ s.vfCtx vf = none) → isl ≠ [] → pcs ≠ [] →
         s.beingScrubbed isl pcs segs = false →
       (∀ k ∈ isl, mfind s.islOwner k = none) → (∀ k ∈ pcs, mfind s.pcOwner k = none) →
       (∀ k ∈ ports, mfind s.portOwner k = none) → (∀ k ∈ segs, mfind s.segOwner k = none) →
       ∃ t, exec (.partCreate 0) s = .next t ∧ completed s t 0 (cmdHdr bs) 0 0 ∧ t.cores = s.cores
        ∧ t.fld (Reg.PART_STAT x) Fld.PART_STAT_STATE = 1 ∧ t.fld (Reg.PART_STAT x) Fld.PART_STAT_VF = vf
        ∧ (∀ k, mfind t.islOwner k = if k ∈ isl then some x else mfind s.islOwner k)
        ∧ (∀ k, mfind t.pcOwner k = if k ∈ pcs then some x else mfind s.pcOwner k)
        ∧ (∀ k, mfind t.portOwner k = if k ∈ ports then some x else mfind s.portOwner k)
        ∧ (∀ k, mfind t.segOwner k = if k ∈ segs then some x else mfind s.segOwner k)
        ∧ t.near = s.near ∧ t.reach = s.reach ∧ t.spad = s.spad)
     ∧ (s.partExists x = true → ∃ t, exec (.partCreate 0) s = .next t ∧ completed s t 0 (cmdHdr bs) 0x7748 0
        ∧ t.islOwner = s.islOwner ∧ t.pcOwner = s.pcOwner ∧ t.portOwner = s.portOwner ∧ t.segOwner = s.segOwner
        ∧ t.reg (Reg.PART_STAT x) = s.reg (Reg.PART_STAT x))))
  ∧ (∀ (s : State) (fn : Fn) (bs : List Byte), s.cmdReady fn.val 4 bs → s.still = true → s.tablesWf → s.held = [] →
    s.dmaCh = [] → s.imgLoad = none →
    (let x := bytesAt bs 8 1
     x ≤ 7 → (fn.val = 0 ∨ s.vfCtx fn.val = some x) → s.killable x = true → mfind s.kills x = none →
     ∃ t k, exec (.partKill fn) s = .next t ∧ t.fld (Reg.PART_STAT x) Fld.PART_STAT_STATE = 2 ∧ t.cmdq = []
      ∧ mfind t.kills x = some k ∧ k.cpls = [cplOf fn.val (cmdHdr bs) 0 0] ∧ k.start = s.tick
      ∧ (k.release = true ↔ bytesAt bs 9 1 = 1) ∧ (∀ c ∈ s.ctxCores x, t.scrubBegun c) ∧ t.near = s.near
          ∧ t.reach = s.reach))
  ∧ (∀ (s : State) (x : Ctx) (k : KillState) (p : PendingCpl), mfind s.kills x.val = some k → mwf s.kills = true →
    k.cpls = [p] →
    p.status = 0 → p.op = 4 → p.tag < 2 ^ 32 → s.scrubsOver x.val = true → s.ringOpen p.fn → s.cmdq = [] →
        s.partExists x.val = true →
    ∃ t, exec (.partKillDone x) s = .next t ∧ mfind t.kills x.val = none ∧ t.cores = s.cores
      ∧ completed s t p.fn ⟨4, p.irq, false, p.vec, p.tag⟩ 0 ((s.tick - k.start) / 100)
      ∧ (k.release = false → t.fld (Reg.PART_STAT x.val) Fld.PART_STAT_STATE = 1 ∧ t.islOwner = s.islOwner
          ∧ t.pcOwner = s.pcOwner ∧ t.portOwner = s.portOwner ∧ t.segOwner = s.segOwner)
      ∧ (k.release = true → t.reg (Reg.PART_STAT x.val) = 0
          ∧ ∀ r, mfind t.islOwner r ≠ some x.val ∧ mfind t.pcOwner r ≠ some x.val ∧ mfind t.portOwner r ≠ some x.val
            ∧ mfind t.segOwner r ≠ some x.val))

/-! Reset and every step. -/

/-- What the spec gives at reset: the cold start stands at step 1 with the part not started (R366); every core's streams are
stopped with empty queues (R150), its array promotes every second issue (R73), its scratchpad is patrolled (R182) and its
routes lead to no next hop (R215); rings hold 16 entries and are disabled (R409); the thermal limits stand (R354). Every
memory is in its canonical form. What it says beyond the rules is the model's choice (log entry 38). -/
def Obligations.ResetLeavesTheStatedValues : Prop :=
  State.reset.startStep = 1 ∧ State.reset.started = false ∧ State.reset.pending = [] ∧ State.reset.memoriesWf
    ∧ State.reset.tablesWf
    ∧ (∀ c : CoreId, (∀ t, State.reset.strmState c.val t = 0 ∧ State.reset.strmIndex c.val t = 0)
        ∧ (∀ q, State.reset.queue c.val q = [])
        ∧ State.reset.fld (Reg.ARRAY_CFG c.val) Fld.ARRAY_CFG_PROMOTE_EVERY = 2
        ∧ State.reset.fld (Reg.SP_CFG c.val) Fld.SP_CFG_PATROL_EN = 1
        ∧ (∀ i : Fin 320, (State.reset.reg (Reg.MR_NEXT c.val i.val)).toNat = 2 ^ 32 - 1))
    ∧ (∀ (fn : Fn) (r : Fin 3), ringSize State.reset fn.val r.val = 16 ∧ ringEn State.reset fn.val r.val = false)
    ∧ State.reset.fld Reg.THERM_CFG Fld.THERM_CFG_TRIP_C = 120
        ∧ State.reset.fld Reg.THERM_CFG Fld.THERM_CFG_THROTTLE_C = 100
    ∧ ∀ q : Die, State.reset.fld (Reg.DIE_OPP q.val) Fld.DIE_OPP_CAP = 7

/-- Every step keeps every memory in its canonical form: from a state whose memories have it, a step answers a next state
whose memories have it. What it says beyond the rules is the model's choice (log entry 5). -/
def Obligations.EveryStepKeepsMemoriesCanonical : Prop :=
  ∀ s : State, s.memoriesWf → ∃ t, step s = .next t ∧ t.memoriesWf

/-- Whatever a command does, it answers a next state, leaves the queue of commands that wait to their senders, and enables no
core that the part has disabled (R3). What it says beyond the rules is the model's choice (log entries 1, 7). -/
def Obligations.CommandsKeepTheQueueAndDisabledCores : Prop :=
  ∀ (i : Instr) (s : State), ∃ t, exec i s = .next t ∧ t.pending = s.pending ∧ t.disabled = s.disabled
end

