-- ==== Sys2Proof/Laws/Maps.lean ====
section
/-! SUPPORT. What sparse maps and memories hold after an update, and that every update keeps a memory's canonical form. -/

namespace Sys2Proof.Machine

open Sys2Proof

/-! Sparse maps. -/

@[simp] theorem mfind_mset_self {α : Type} (m : SMap α) (k : Nat) (v : α) : mfind (mset m k v) k = some v := by
  induction m with
  | nil => simp [mset, mfind]
  | cons e m ih =>
    obtain ⟨j, w⟩ := e
    by_cases h : k < j
    · simp [mset, mfind, h]
    · by_cases h' : k = j
      · simp [mset, mfind, h']
      · simp [mset, mfind, h, h', ih]

theorem mfind_mset_ne {α : Type} (m : SMap α) (k j : Nat) (v : α) (h : j ≠ k) : mfind (mset m k v) j = mfind m j := by
  induction m with
  | nil =>
    simp only [mset, mfind]
    split
    · rfl
    · simp
  | cons e m ih =>
    obtain ⟨i, w⟩ := e
    by_cases h1 : k < i
    · simp only [mset, h1, if_true]
      by_cases h2 : j < k
      · have h3 : j < i := by omega
        simp [mfind, h2, h3]
      · simp [mfind, h2, h]
    · by_cases h1' : k = i
      · subst h1'
        simp [mset, mfind, h]
      · simp only [mset, h1, h1', if_false, mfind, ih]

theorem mfind_mset {α : Type} (m : SMap α) (k j : Nat) (v : α) :
    mfind (mset m k v) j = if j = k then some v else mfind m j := by
  by_cases h : j = k
  · subst h; simp
  · simp [h, mfind_mset_ne]

@[simp] theorem mget_mset_self {α : Type} (m : SMap α) (d v : α) (k : Nat) : mget (mset m k v) d k = v := by
  simp [mget]

theorem mget_mset_ne {α : Type} (m : SMap α) (d v : α) (k j : Nat) (h : j ≠ k) : mget (mset m k v) d j = mget m d j := by
  simp [mget, mfind_mset_ne m k j v h]

@[simp] theorem mget_nil {α : Type} (d : α) (k : Nat) : mget [] d k = d := rfl

/-! Order of the keys. -/

theorem mwfFrom_weaken {α : Type} {k j : Nat} {m : SMap α} (h : j ≤ k) (hm : mwfFrom k m = true) : mwfFrom j m = true := by
  cases m with
  | nil => rfl
  | cons e m =>
    obtain ⟨i, w⟩ := e
    simp only [mwfFrom, Bool.and_eq_true, decide_eq_true_eq] at hm ⊢
    exact ⟨by omega, hm.2⟩

theorem mwfFrom_mset {α : Type} {m : SMap α} {b k : Nat} {v : α} (hk : b < k) (hm : mwfFrom b m = true) :
    mwfFrom b (mset m k v) = true := by
  induction m generalizing b with
  | nil => simp [mset, mwfFrom, hk]
  | cons e m ih =>
    obtain ⟨i, w⟩ := e
    simp only [mwfFrom, Bool.and_eq_true, decide_eq_true_eq] at hm
    by_cases h1 : k < i
    · simp [mset, h1, mwfFrom, hk, hm.2]
    · by_cases h2 : k = i
      · subst h2; simp [mset, mwfFrom, hk, hm.2]
      · simp only [mset, h1, h2, if_false, mwfFrom, Bool.and_eq_true, decide_eq_true_eq]
        exact ⟨hm.1, ih (by omega) hm.2⟩

theorem mwf_mset {α : Type} {m : SMap α} {k : Nat} {v : α} (hm : mwf m = true) : mwf (mset m k v) = true := by
  cases m with
  | nil => simp [mset, mwf, mwfFrom]
  | cons e m =>
    obtain ⟨i, w⟩ := e
    simp only [mwf] at hm
    by_cases h1 : k < i
    · simp [mset, h1, mwf, mwfFrom, hm]
    · by_cases h2 : k = i
      · subst h2; simp [mset, mwf, hm]
      · simp only [mset, h1, h2, if_false, mwf]
        exact mwfFrom_mset (by omega) hm

theorem mwfFrom_mdel {α : Type} {m : SMap α} {b k : Nat} (hm : mwfFrom b m = true) : mwfFrom b (mdel m k) = true := by
  induction m generalizing b with
  | nil => rfl
  | cons e m ih =>
    obtain ⟨i, w⟩ := e
    simp only [mwfFrom, Bool.and_eq_true, decide_eq_true_eq] at hm
    by_cases h1 : k < i
    · simp [mdel, h1, mwfFrom, hm]
    · by_cases h2 : k = i
      · subst h2; simpa [mdel] using mwfFrom_weaken (by omega) hm.2
      · simp only [mdel, h1, h2, if_false, mwfFrom, Bool.and_eq_true, decide_eq_true_eq]
        exact ⟨hm.1, ih hm.2⟩

theorem mwf_mdel {α : Type} {m : SMap α} {k : Nat} (hm : mwf m = true) : mwf (mdel m k) = true := by
  cases m with
  | nil => rfl
  | cons e m =>
    obtain ⟨i, w⟩ := e
    simp only [mwf] at hm
    by_cases h1 : k < i
    · simp [mdel, h1, mwf, hm]
    · by_cases h2 : k = i
      · subst h2
        simp only [mdel, h1, if_false, if_true]
        cases m with
        | nil => rfl
        | cons e m =>
          obtain ⟨j, w⟩ := e
          simp only [mwfFrom, Bool.and_eq_true] at hm
          exact hm.2
      · simp only [mdel, h1, h2, if_false, mwf]
        exact mwfFrom_mdel hm

theorem mwfFrom_filter {α : Type} {m : SMap α} {b : Nat} (p : Nat × α → Bool) (hm : mwfFrom b m = true) :
    mwfFrom b (m.filter p) = true := by
  induction m generalizing b with
  | nil => rfl
  | cons e m ih =>
    obtain ⟨i, w⟩ := e
    simp only [mwfFrom, Bool.and_eq_true, decide_eq_true_eq] at hm
    by_cases h : p (i, w) = true
    · simp only [List.filter_cons, h, if_true, mwfFrom, Bool.and_eq_true, decide_eq_true_eq]
      exact ⟨hm.1, ih hm.2⟩
    · simp only [List.filter_cons, h]
      exact ih (mwfFrom_weaken (by omega) hm.2)

theorem mwf_filter {α : Type} {m : SMap α} (p : Nat × α → Bool) (hm : mwf m = true) : mwf (m.filter p) = true := by
  induction m with
  | nil => rfl
  | cons e m ih =>
    obtain ⟨i, w⟩ := e
    simp only [mwf] at hm
    have hm' : mwf m = true := by
      cases m with
      | nil => rfl
      | cons e m =>
        obtain ⟨j, w⟩ := e
        simp only [mwfFrom, Bool.and_eq_true] at hm
        exact hm.2
    by_cases h : p (i, w) = true
    · simp only [List.filter_cons, h, if_true, mwf]
      exact mwfFrom_filter p hm
    · simp only [List.filter_cons, h]
      exact ih hm'

theorem mfind_none_of_mwfFrom {α : Type} {m : SMap α} {b k : Nat} (hm : mwfFrom b m = true) (h : k ≤ b) :
    mfind m k = none := by
  cases m with
  | nil => rfl
  | cons e m =>
    obtain ⟨i, w⟩ := e
    simp only [mwfFrom, Bool.and_eq_true, decide_eq_true_eq] at hm
    have : k < i := by omega
    simp [mfind, this]

theorem mfind_mdel_self {α : Type} {m : SMap α} {k : Nat} (hm : mwf m = true) : mfind (mdel m k) k = none := by
  induction m with
  | nil => rfl
  | cons e m ih =>
    obtain ⟨i, w⟩ := e
    simp only [mwf] at hm
    have hm' : mwf m = true := by
      cases m with
      | nil => rfl
      | cons e m =>
        obtain ⟨j, w⟩ := e
        simp only [mwfFrom, Bool.and_eq_true] at hm
        exact hm.2
    by_cases h1 : k < i
    · simp [mdel, h1, mfind]
    · by_cases h2 : k = i
      · subst h2; simpa [mdel] using mfind_none_of_mwfFrom hm (Nat.le_refl _)
      · simp [mdel, h1, h2, mfind, ih hm']

theorem mfind_mdel_ne {α : Type} {m : SMap α} {k j : Nat} (hm : mwf m = true) (h : j ≠ k) :
    mfind (mdel m k) j = mfind m j := by
  induction m with
  | nil => rfl
  | cons e m ih =>
    obtain ⟨i, w⟩ := e
    simp only [mwf] at hm
    have hm' : mwf m = true := by
      cases m with
      | nil => rfl
      | cons e m =>
        obtain ⟨j, w⟩ := e
        simp only [mwfFrom, Bool.and_eq_true] at hm
        exact hm.2
    by_cases h1 : k < i
    · simp [mdel, h1]
    · by_cases h2 : k = i
      · subst h2
        simp only [mdel, h1, if_false, if_true, mfind, h]
        by_cases h3 : j < k
        · simp [h3, mfind_none_of_mwfFrom hm (by omega : j ≤ k)]
        · simp [h3]
      · simp only [mdel, h1, h2, if_false, mfind, ih hm']

/-! Memory. -/

theorem all_mset {α : Type} {m : SMap α} {p : Nat × α → Bool} {k : Nat} {v : α} (hv : p (k, v) = true)
    (hm : m.all p = true) : (mset m k v).all p = true := by
  induction m with
  | nil => simp [mset, hv]
  | cons e m ih =>
    obtain ⟨i, w⟩ := e
    simp only [List.all_cons, Bool.and_eq_true] at hm
    by_cases h1 : k < i
    · simp only [mset, h1, if_true, List.all_cons, hv, hm.1, hm.2, Bool.and_self]
    · by_cases h2 : k = i
      · subst h2
        simp only [mset, Nat.lt_irrefl, if_false, if_true, List.all_cons, Bool.and_eq_true]
        exact ⟨hv, hm.2⟩
      · simp only [mset, h1, h2, if_false, List.all_cons, Bool.and_eq_true]
        exact ⟨hm.1, ih hm.2⟩

theorem all_mdel {α : Type} {m : SMap α} {p : Nat × α → Bool} {k : Nat} (hm : m.all p = true) :
    (mdel m k).all p = true := by
  induction m with
  | nil => rfl
  | cons e m ih =>
    obtain ⟨i, w⟩ := e
    simp only [List.all_cons, Bool.and_eq_true] at hm
    by_cases h1 : k < i
    · simp only [mdel, h1, if_true, List.all_cons, Bool.and_eq_true]; exact hm
    · by_cases h2 : k = i
      · subst h2; simp only [mdel, Nat.lt_irrefl, if_false, if_true]; exact hm.2
      · simp only [mdel, h1, h2, if_false, List.all_cons, Bool.and_eq_true]
        exact ⟨hm.1, ih hm.2⟩

theorem Memory.wf_nil : Memory.wf [] = true := rfl

theorem Memory.wf_memSet {m : Mem} (h : Memory.wf m = true) (a : Nat) (b : Byte) : Memory.wf (memSet m a b) = true := by
  simp only [Memory.wf, Bool.and_eq_true] at h ⊢
  unfold memSet
  split
  · exact ⟨mwf_mdel h.1, all_mdel h.2⟩
  · rename_i hb
    exact ⟨mwf_mset h.1, all_mset (by simpa using hb) h.2⟩

theorem Memory.wf_filter {m : Mem} (h : Memory.wf m = true) (p : Host.Cell → Bool) : Memory.wf (m.filter p) = true := by
  simp only [Memory.wf, Bool.and_eq_true] at h ⊢
  refine ⟨mwf_filter p h.1, ?_⟩
  have h2 := h.2
  rw [List.all_eq_true] at h2 ⊢
  exact fun x hx => h2 x (List.mem_filter.mp hx).1

theorem Memory.wf_memClear {m : Mem} (h : Memory.wf m = true) (a n : Nat) : Memory.wf (memClear m a n) = true :=
  Memory.wf_filter h _

theorem Memory.wf_memPut {m : Mem} (h : Memory.wf m = true) (a : Nat) (bs : List Byte) : Memory.wf (memPut m a bs) = true := by
  induction bs generalizing m a with
  | nil => exact h
  | cons b bs ih => exact ih (Memory.wf_memSet h a b) (a + 1)

theorem Memory.wf_memPutBe {m : Mem} (h : Memory.wf m = true) (a d be n : Nat) : Memory.wf (memPutBe m a d be n) = true := by
  induction n generalizing m with
  | zero => exact h
  | succ n ih =>
    simp only [memPutBe]
    apply ih
    split
    · exact Memory.wf_memSet h _ _
    · exact h

/-- A byte written reads back, and no other byte changes. -/
theorem memGet_memSet {m : Mem} (h : Memory.wf m = true) (a x : Nat) (b : Byte) :
    memGet (memSet m a b) x = if x = a then b else memGet m x := by
  simp only [Memory.wf, Bool.and_eq_true] at h
  unfold memSet memGet mget
  by_cases hb : b = 0
  · by_cases hx : x = a
    · subst hx; simp [hb, mfind_mdel_self h.1]
    · simp [hb, hx, mfind_mdel_ne h.1 hx]
  · rw [if_neg hb]
    by_cases hx : x = a
    · subst hx; simp
    · simp [hx, mfind_mset_ne _ _ _ _ hx]

/-- A run of bytes written reads back, and no byte outside it changes. -/
theorem memGet_memPut {m : Mem} (h : Memory.wf m = true) (a x : Nat) (bs : List Byte) :
    memGet (memPut m a bs) x = if a ≤ x ∧ x < a + bs.length then bs.getD (x - a) 0 else memGet m x := by
  induction bs generalizing m a with
  | nil => simp only [memPut, List.length_nil]; rw [if_neg (by omega)]
  | cons b bs ih =>
    simp only [memPut, ih (Memory.wf_memSet h a b), memGet_memSet h, List.length_cons]
    by_cases h1 : x = a
    · subst h1
      rw [if_neg (by omega), if_pos rfl, if_pos (by omega)]
      simp
    · by_cases h2 : a + 1 ≤ x ∧ x < a + 1 + bs.length
      · rw [if_pos h2]
        have h3 : a ≤ x ∧ x < a + (bs.length + 1) := by omega
        have h4 : x - a = (x - (a + 1)) + 1 := by omega
        rw [if_pos h3, h4, List.getD_cons_succ]
      · have h3 : ¬(a ≤ x ∧ x < a + (bs.length + 1)) := by omega
        rw [if_neg h2, if_neg h3, if_neg h1]

end Sys2Proof.Machine
end

