-- ==== Sys2Proof/Laws/Regs.lean ====
section
/-! SUPPORT. What registers and their fields hold after a write. -/

namespace Sys2Proof.Machine

open Sys2Proof

theorem reg_setReg (s : State) (a b : Nat) (v : Word) : (s.setReg a v).reg b = if b = a then v else s.reg b := by
  unfold State.setReg State.reg
  simp only [mfind_mset]
  by_cases h : b = a <;> simp [h]

@[simp] theorem reg_setReg_self (s : State) (a : Nat) (v : Word) : (s.setReg a v).reg a = v := by simp [reg_setReg]

theorem reg_setReg_ne (s : State) {a b : Nat} (v : Word) (h : b ≠ a) : (s.setReg a v).reg b = s.reg b := by
  simp [reg_setReg, h]

theorem reg_setFld (s : State) (a b : Nat) (f : FieldPos) (v : Nat) :
    (s.setFld a f v).reg b = if b = a then wordSet (s.reg a) f v else s.reg b := reg_setReg _ _ _ _

theorem reg_setFld_ne (s : State) {a b : Nat} (f : FieldPos) (v : Nat) (h : b ≠ a) : (s.setFld a f v).reg b = s.reg b := by
  simp [reg_setFld, h]

/-- The three parts of a word around a field. -/
theorem toNat_wordSet (w : Word) (f : FieldPos) (v : Nat) (h : f.lo + f.width ≤ 64) :
    (wordSet w f v).toNat = w.toNat / 2 ^ (f.lo + f.width) * 2 ^ (f.lo + f.width) + v % 2 ^ f.width * 2 ^ f.lo
      + w.toNat % 2 ^ f.lo := by
  unfold wordSet
  rw [BitVec.toNat_ofNat, Nat.mod_eq_of_lt]
  have hw := w.isLt
  have h1 : v % 2 ^ f.width < 2 ^ f.width := Nat.mod_lt _ (by positivity)
  have h2 : w.toNat % 2 ^ f.lo < 2 ^ f.lo := Nat.mod_lt _ (by positivity)
  have h3 : w.toNat / 2 ^ (f.lo + f.width) < 2 ^ (64 - (f.lo + f.width)) := by
    rw [Nat.div_lt_iff_lt_mul (by positivity), ← pow_add]
    rwa [Nat.sub_add_cancel h]
  have h4 : v % 2 ^ f.width * 2 ^ f.lo + w.toNat % 2 ^ f.lo < 2 ^ (f.lo + f.width) := by
    rw [pow_add]
    nlinarith [(by positivity : 0 < 2 ^ f.lo)]
  have h5 : 2 ^ 64 = 2 ^ (64 - (f.lo + f.width)) * 2 ^ (f.lo + f.width) := by rw [← pow_add, Nat.sub_add_cancel h]
  rw [h5]
  calc _ = w.toNat / 2 ^ (f.lo + f.width) * 2 ^ (f.lo + f.width)
          + (v % 2 ^ f.width * 2 ^ f.lo + w.toNat % 2 ^ f.lo) := by ring
    _ < w.toNat / 2 ^ (f.lo + f.width) * 2 ^ (f.lo + f.width) + 2 ^ (f.lo + f.width) := by omega
    _ = (w.toNat / 2 ^ (f.lo + f.width) + 1) * 2 ^ (f.lo + f.width) := by ring
    _ ≤ _ := Nat.mul_le_mul_right _ h3

/-- A field set reads back, cut to its width. -/
theorem wordFld_wordSet_self (w : Word) (f : FieldPos) (v : Nat) (h : f.lo + f.width ≤ 64) :
    wordFld (wordSet w f v) f = v % 2 ^ f.width := by
  unfold wordFld
  rw [toNat_wordSet w f v h]
  have h2 : w.toNat % 2 ^ f.lo < 2 ^ f.lo := Nat.mod_lt _ (by positivity)
  have e : w.toNat / 2 ^ (f.lo + f.width) * 2 ^ (f.lo + f.width) + v % 2 ^ f.width * 2 ^ f.lo + w.toNat % 2 ^ f.lo
      = w.toNat % 2 ^ f.lo + 2 ^ f.lo * (w.toNat / 2 ^ (f.lo + f.width) * 2 ^ f.width + v % 2 ^ f.width) := by
    rw [pow_add]; ring
  rw [e, Nat.add_mul_div_left _ _ (by positivity), Nat.div_eq_of_lt h2, Nat.zero_add, Nat.mul_comm, Nat.mul_add_mod]
  exact Nat.mod_eq_of_lt (Nat.mod_lt _ (by positivity))

/-- A field that lies apart from the one set keeps its value. -/
theorem wordFld_wordSet_ne (w : Word) (f g : FieldPos) (v : Nat) (h : f.lo + f.width ≤ 64)
    (d : g.lo + g.width ≤ f.lo ∨ f.lo + f.width ≤ g.lo) : wordFld (wordSet w f v) g = wordFld w g := by
  unfold wordFld
  rw [toNat_wordSet w f v h]
  have h2 : w.toNat % 2 ^ f.lo < 2 ^ f.lo := Nat.mod_lt _ (by positivity)
  have h1 : v % 2 ^ f.width < 2 ^ f.width := Nat.mod_lt _ (by positivity)
  rcases d with d | d
  · -- the field lies below
    obtain ⟨k, hk⟩ : ∃ k, f.lo = g.lo + g.width + k := ⟨f.lo - (g.lo + g.width), by omega⟩
    set m := w.toNat % 2 ^ f.lo with hm
    have e : w.toNat / 2 ^ (f.lo + f.width) * 2 ^ (f.lo + f.width) + v % 2 ^ f.width * 2 ^ f.lo + m
        = m + 2 ^ g.lo * (2 ^ g.width * (2 ^ k * (w.toNat / 2 ^ (f.lo + f.width) * 2 ^ f.width + v % 2 ^ f.width))) := by
      rw [pow_add, hk, pow_add, pow_add]; ring
    rw [e, Nat.add_mul_div_left _ _ (by positivity), Nat.add_mul_mod_self_left, hm, hk]
    rw [pow_add, pow_add, Nat.mul_assoc, Nat.mod_mul_right_div_self, Nat.mod_mul_right_mod]
  · -- the field lies above
    obtain ⟨k, hk⟩ : ∃ k, g.lo = f.lo + f.width + k := ⟨g.lo - (f.lo + f.width), by omega⟩
    have h4 : v % 2 ^ f.width * 2 ^ f.lo + w.toNat % 2 ^ f.lo < 2 ^ (f.lo + f.width) := by
      rw [pow_add]
      nlinarith [(by positivity : 0 < 2 ^ f.lo)]
    have e : ∀ x y : Nat, y < 2 ^ (f.lo + f.width) → (x * 2 ^ (f.lo + f.width) + y) / 2 ^ (f.lo + f.width + k) = x / 2 ^ k := by
      intro x y hy
      rw [pow_add _ (f.lo + f.width) k, ← Nat.div_div_eq_div_mul, Nat.mul_comm, Nat.mul_add_div (by positivity),
        Nat.div_eq_of_lt hy, Nat.add_zero]
    rw [hk, Nat.add_assoc (_ * _), e _ _ h4, pow_add _ (f.lo + f.width) k, Nat.div_div_eq_div_mul]

theorem fld_setFld_self (s : State) (a : Nat) (f : FieldPos) (v : Nat) (h : f.lo + f.width ≤ 64) :
    (s.setFld a f v).fld a f = v % 2 ^ f.width := by
  simp [State.fld, reg_setFld, wordFld_wordSet_self _ _ _ h]

theorem fld_setFld_apart (s : State) (a b : Nat) (f g : FieldPos) (v : Nat) (h : f.lo + f.width ≤ 64)
    (d : g.lo + g.width ≤ f.lo ∨ f.lo + f.width ≤ g.lo) : (s.setFld a f v).fld b g = s.fld b g := by
  unfold State.fld
  rw [reg_setFld]
  split
  · rename_i hb; rw [wordFld_wordSet_ne _ _ _ _ h d, hb]
  · rfl

theorem fld_setFld_ne (s : State) {a b : Nat} (f g : FieldPos) (v : Nat) (h : b ≠ a) :
    (s.setFld a f v).fld b g = s.fld b g := by
  simp [State.fld, reg_setFld_ne s f v h]

theorem fld_setReg_ne (s : State) {a b : Nat} (g : FieldPos) (v : Word) (h : b ≠ a) :
    (s.setReg a v).fld b g = s.fld b g := by
  simp [State.fld, reg_setReg_ne s v h]

@[simp] theorem fld_setReg_self (s : State) (a : Nat) (g : FieldPos) (v : Word) : (s.setReg a v).fld a g = wordFld v g := by
  simp [State.fld]

end Sys2Proof.Machine
end

