-- ==== Sys2Proof/Laws/State.lean ====
section
/-! SUPPORT. Which fields of the state an update leaves alone: one lemma per field per update. -/

namespace Sys2Proof.Machine

open Sys2Proof

/-! `setReg` changes only `regs`. -/

@[simp] theorem held_setReg (s : State) (a : Nat) (v : Word) : (s.setReg a v).held = s.held := (rfl)
@[simp] theorem lowHalf_setReg (s : State) (a : Nat) (v : Word) : (s.setReg a v).lowHalf = s.lowHalf := (rfl)
@[simp] theorem near_setReg (s : State) (a : Nat) (v : Word) : (s.setReg a v).near = s.near := (rfl)
@[simp] theorem reach_setReg (s : State) (a : Nat) (v : Word) : (s.setReg a v).reach = s.reach := (rfl)
@[simp] theorem spad_setReg (s : State) (a : Nat) (v : Word) : (s.setReg a v).spad = s.spad := (rfl)
@[simp] theorem hostMem_setReg (s : State) (a : Nat) (v : Word) : (s.setReg a v).hostMem = s.hostMem := (rfl)
@[simp] theorem flash_setReg (s : State) (a : Nat) (v : Word) : (s.setReg a v).flash = s.flash := (rfl)
@[simp] theorem bootBuf_setReg (s : State) (a : Nat) (v : Word) : (s.setReg a v).bootBuf = s.bootBuf := (rfl)
@[simp] theorem spUe_setReg (s : State) (a : Nat) (v : Word) : (s.setReg a v).spUe = s.spUe := (rfl)
@[simp] theorem nearUe_setReg (s : State) (a : Nat) (v : Word) : (s.setReg a v).nearUe = s.nearUe := (rfl)
@[simp] theorem spWeak_setReg (s : State) (a : Nat) (v : Word) : (s.setReg a v).spWeak = s.spWeak := (rfl)
@[simp] theorem nearWeak_setReg (s : State) (a : Nat) (v : Word) : (s.setReg a v).nearWeak = s.nearWeak := (rfl)
@[simp] theorem reachUe_setReg (s : State) (a : Nat) (v : Word) : (s.setReg a v).reachUe = s.reachUe := (rfl)
@[simp] theorem lcrLast_setReg (s : State) (a : Nat) (v : Word) : (s.setReg a v).lcrLast = s.lcrLast := (rfl)
@[simp] theorem rchLast_setReg (s : State) (a : Nat) (v : Word) : (s.setReg a v).rchLast = s.rchLast := (rfl)
@[simp] theorem rchTurn_setReg (s : State) (a : Nat) (v : Word) : (s.setReg a v).rchTurn = s.rchTurn := (rfl)
@[simp] theorem parked_setReg (s : State) (a : Nat) (v : Word) : (s.setReg a v).parked = s.parked := (rfl)
@[simp] theorem margHeld_setReg (s : State) (a : Nat) (v : Word) : (s.setReg a v).margHeld = s.margHeld := (rfl)
@[simp] theorem rootHeld_setReg (s : State) (a : Nat) (v : Word) : (s.setReg a v).rootHeld = s.rootHeld := (rfl)
@[simp] theorem killed_setReg (s : State) (a : Nat) (v : Word) : (s.setReg a v).killed = s.killed := (rfl)
@[simp] theorem routed_setReg (s : State) (a : Nat) (v : Word) : (s.setReg a v).routed = s.routed := (rfl)
@[simp] theorem cores_setReg (s : State) (a : Nat) (v : Word) : (s.setReg a v).cores = s.cores := (rfl)
@[simp] theorem reqs_setReg (s : State) (a : Nat) (v : Word) : (s.setReg a v).reqs = s.reqs := (rfl)
@[simp] theorem lcrWin_setReg (s : State) (a : Nat) (v : Word) : (s.setReg a v).lcrWin = s.lcrWin := (rfl)
@[simp] theorem rchWin_setReg (s : State) (a : Nat) (v : Word) : (s.setReg a v).rchWin = s.rchWin := (rfl)
@[simp] theorem nearMargin_setReg (s : State) (a : Nat) (v : Word) : (s.setReg a v).nearMargin = s.nearMargin := (rfl)
@[simp] theorem nearWait_setReg (s : State) (a : Nat) (v : Word) : (s.setReg a v).nearWait = s.nearWait := (rfl)
@[simp] theorem nextId_setReg (s : State) (a : Nat) (v : Word) : (s.setReg a v).nextId = s.nextId := (rfl)
@[simp] theorem penMsgs_setReg (s : State) (a : Nat) (v : Word) : (s.setReg a v).penMsgs = s.penMsgs := (rfl)
@[simp] theorem penFwds_setReg (s : State) (a : Nat) (v : Word) : (s.setReg a v).penFwds = s.penFwds := (rfl)
@[simp] theorem penTable_setReg (s : State) (a : Nat) (v : Word) : (s.setReg a v).penTable = s.penTable := (rfl)
@[simp] theorem penWakes_setReg (s : State) (a : Nat) (v : Word) : (s.setReg a v).penWakes = s.penWakes := (rfl)
@[simp] theorem pendTab_setReg (s : State) (a : Nat) (v : Word) : (s.setReg a v).pendTab = s.pendTab := (rfl)
@[simp] theorem notices_setReg (s : State) (a : Nat) (v : Word) : (s.setReg a v).notices = s.notices := (rfl)
@[simp] theorem landOwner_setReg (s : State) (a : Nat) (v : Word) : (s.setReg a v).landOwner = s.landOwner := (rfl)
@[simp] theorem hoistMsgs_setReg (s : State) (a : Nat) (v : Word) : (s.setReg a v).hoistMsgs = s.hoistMsgs := (rfl)
@[simp] theorem hoistRels_setReg (s : State) (a : Nat) (v : Word) : (s.setReg a v).hoistRels = s.hoistRels := (rfl)
@[simp] theorem hoistFin_setReg (s : State) (a : Nat) (v : Word) : (s.setReg a v).hoistFin = s.hoistFin := (rfl)
@[simp] theorem rootFin_setReg (s : State) (a : Nat) (v : Word) : (s.setReg a v).rootFin = s.rootFin := (rfl)
@[simp] theorem redFlits_setReg (s : State) (a : Nat) (v : Word) : (s.setReg a v).redFlits = s.redFlits := (rfl)
@[simp] theorem redBuf_setReg (s : State) (a : Nat) (v : Word) : (s.setReg a v).redBuf = s.redBuf := (rfl)
@[simp] theorem chainIn_setReg (s : State) (a : Nat) (v : Word) : (s.setReg a v).chainIn = s.chainIn := (rfl)
@[simp] theorem ports_setReg (s : State) (a : Nat) (v : Word) : (s.setReg a v).ports = s.ports := (rfl)
@[simp] theorem unreach_setReg (s : State) (a : Nat) (v : Word) : (s.setReg a v).unreach = s.unreach := (rfl)
@[simp] theorem chains_setReg (s : State) (a : Nat) (v : Word) : (s.setReg a v).chains = s.chains := (rfl)
@[simp] theorem islOwner_setReg (s : State) (a : Nat) (v : Word) : (s.setReg a v).islOwner = s.islOwner := (rfl)
@[simp] theorem pcOwner_setReg (s : State) (a : Nat) (v : Word) : (s.setReg a v).pcOwner = s.pcOwner := (rfl)
@[simp] theorem portOwner_setReg (s : State) (a : Nat) (v : Word) : (s.setReg a v).portOwner = s.portOwner := (rfl)
@[simp] theorem segOwner_setReg (s : State) (a : Nat) (v : Word) : (s.setReg a v).segOwner = s.segOwner := (rfl)
@[simp] theorem cmdq_setReg (s : State) (a : Nat) (v : Word) : (s.setReg a v).cmdq = s.cmdq := (rfl)
@[simp] theorem dmaCh_setReg (s : State) (a : Nat) (v : Word) : (s.setReg a v).dmaCh = s.dmaCh := (rfl)
@[simp] theorem cpls_setReg (s : State) (a : Nat) (v : Word) : (s.setReg a v).cpls = s.cpls := (rfl)
@[simp] theorem kills_setReg (s : State) (a : Nat) (v : Word) : (s.setReg a v).kills = s.kills := (rfl)
@[simp] theorem cplPhase_setReg (s : State) (a : Nat) (v : Word) : (s.setReg a v).cplPhase = s.cplPhase := (rfl)
@[simp] theorem d3_setReg (s : State) (a : Nat) (v : Word) : (s.setReg a v).d3 = s.d3 := (rfl)
@[simp] theorem bar2_setReg (s : State) (a : Nat) (v : Word) : (s.setReg a v).bar2 = s.bar2 := (rfl)
@[simp] theorem stepActive_setReg (s : State) (a : Nat) (v : Word) : (s.setReg a v).stepActive = s.stepActive := (rfl)
@[simp] theorem run_setReg (s : State) (a : Nat) (v : Word) : (s.setReg a v).run = s.run := (rfl)
@[simp] theorem mgr_setReg (s : State) (a : Nat) (v : Word) : (s.setReg a v).mgr = s.mgr := (rfl)
@[simp] theorem managerRank_setReg (s : State) (a : Nat) (v : Word) : (s.setReg a v).managerRank = s.managerRank := (rfl)
@[simp] theorem treeDepth_setReg (s : State) (a : Nat) (v : Word) : (s.setReg a v).treeDepth = s.treeDepth := (rfl)
@[simp] theorem tickFix_setReg (s : State) (a : Nat) (v : Word) : (s.setReg a v).tickFix = s.tickFix := (rfl)
@[simp] theorem tickFixed_setReg (s : State) (a : Nat) (v : Word) : (s.setReg a v).tickFixed = s.tickFixed := (rfl)
@[simp] theorem alignMax_setReg (s : State) (a : Nat) (v : Word) : (s.setReg a v).alignMax = s.alignMax := (rfl)
@[simp] theorem profile_setReg (s : State) (a : Nat) (v : Word) : (s.setReg a v).profile = s.profile := (rfl)
@[simp] theorem power_setReg (s : State) (a : Nat) (v : Word) : (s.setReg a v).power = s.power := (rfl)
@[simp] theorem boot_setReg (s : State) (a : Nat) (v : Word) : (s.setReg a v).boot = s.boot := (rfl)
@[simp] theorem enclave_setReg (s : State) (a : Nat) (v : Word) : (s.setReg a v).enclave = s.enclave := (rfl)
@[simp] theorem images_setReg (s : State) (a : Nat) (v : Word) : (s.setReg a v).images = s.images := (rfl)
@[simp] theorem imgLoad_setReg (s : State) (a : Nat) (v : Word) : (s.setReg a v).imgLoad = s.imgLoad := (rfl)
@[simp] theorem imgFailed_setReg (s : State) (a : Nat) (v : Word) : (s.setReg a v).imgFailed = s.imgFailed := (rfl)
@[simp] theorem disabled_setReg (s : State) (a : Nat) (v : Word) : (s.setReg a v).disabled = s.disabled := (rfl)
@[simp] theorem out_setReg (s : State) (a : Nat) (v : Word) : (s.setReg a v).out = s.out := (rfl)
@[simp] theorem free_setReg (s : State) (a : Nat) (v : Word) : (s.setReg a v).free = s.free := (rfl)
@[simp] theorem pending_setReg (s : State) (a : Nat) (v : Word) : (s.setReg a v).pending = s.pending := (rfl)

/-! `setFld` changes only `regs`. -/

@[simp] theorem held_setFld (s : State) (a : Nat) (f : FieldPos) (v : Nat) : (s.setFld a f v).held = s.held := (rfl)
@[simp] theorem lowHalf_setFld (s : State) (a : Nat) (f : FieldPos) (v : Nat) : (s.setFld a f v).lowHalf = s.lowHalf := (rfl)
@[simp] theorem near_setFld (s : State) (a : Nat) (f : FieldPos) (v : Nat) : (s.setFld a f v).near = s.near := (rfl)
@[simp] theorem reach_setFld (s : State) (a : Nat) (f : FieldPos) (v : Nat) : (s.setFld a f v).reach = s.reach := (rfl)
@[simp] theorem spad_setFld (s : State) (a : Nat) (f : FieldPos) (v : Nat) : (s.setFld a f v).spad = s.spad := (rfl)
@[simp] theorem hostMem_setFld (s : State) (a : Nat) (f : FieldPos) (v : Nat) : (s.setFld a f v).hostMem = s.hostMem := (rfl)
@[simp] theorem flash_setFld (s : State) (a : Nat) (f : FieldPos) (v : Nat) : (s.setFld a f v).flash = s.flash := (rfl)
@[simp] theorem bootBuf_setFld (s : State) (a : Nat) (f : FieldPos) (v : Nat) : (s.setFld a f v).bootBuf = s.bootBuf := (rfl)
@[simp] theorem spUe_setFld (s : State) (a : Nat) (f : FieldPos) (v : Nat) : (s.setFld a f v).spUe = s.spUe := (rfl)
@[simp] theorem nearUe_setFld (s : State) (a : Nat) (f : FieldPos) (v : Nat) : (s.setFld a f v).nearUe = s.nearUe := (rfl)
@[simp] theorem spWeak_setFld (s : State) (a : Nat) (f : FieldPos) (v : Nat) : (s.setFld a f v).spWeak = s.spWeak := (rfl)
@[simp] theorem nearWeak_setFld (s : State) (a : Nat) (f : FieldPos) (v : Nat) : (s.setFld a f v).nearWeak = s.nearWeak := (rfl)
@[simp] theorem reachUe_setFld (s : State) (a : Nat) (f : FieldPos) (v : Nat) : (s.setFld a f v).reachUe = s.reachUe := (rfl)
@[simp] theorem lcrLast_setFld (s : State) (a : Nat) (f : FieldPos) (v : Nat) : (s.setFld a f v).lcrLast = s.lcrLast := (rfl)
@[simp] theorem rchLast_setFld (s : State) (a : Nat) (f : FieldPos) (v : Nat) : (s.setFld a f v).rchLast = s.rchLast := (rfl)
@[simp] theorem rchTurn_setFld (s : State) (a : Nat) (f : FieldPos) (v : Nat) : (s.setFld a f v).rchTurn = s.rchTurn := (rfl)
@[simp] theorem parked_setFld (s : State) (a : Nat) (f : FieldPos) (v : Nat) : (s.setFld a f v).parked = s.parked := (rfl)
@[simp] theorem margHeld_setFld (s : State) (a : Nat) (f : FieldPos) (v : Nat) : (s.setFld a f v).margHeld = s.margHeld := (rfl)
@[simp] theorem rootHeld_setFld (s : State) (a : Nat) (f : FieldPos) (v : Nat) : (s.setFld a f v).rootHeld = s.rootHeld := (rfl)
@[simp] theorem killed_setFld (s : State) (a : Nat) (f : FieldPos) (v : Nat) : (s.setFld a f v).killed = s.killed := (rfl)
@[simp] theorem routed_setFld (s : State) (a : Nat) (f : FieldPos) (v : Nat) : (s.setFld a f v).routed = s.routed := (rfl)
@[simp] theorem cores_setFld (s : State) (a : Nat) (f : FieldPos) (v : Nat) : (s.setFld a f v).cores = s.cores := (rfl)
@[simp] theorem reqs_setFld (s : State) (a : Nat) (f : FieldPos) (v : Nat) : (s.setFld a f v).reqs = s.reqs := (rfl)
@[simp] theorem lcrWin_setFld (s : State) (a : Nat) (f : FieldPos) (v : Nat) : (s.setFld a f v).lcrWin = s.lcrWin := (rfl)
@[simp] theorem rchWin_setFld (s : State) (a : Nat) (f : FieldPos) (v : Nat) : (s.setFld a f v).rchWin = s.rchWin := (rfl)
@[simp] theorem nearMargin_setFld (s : State) (a : Nat) (f : FieldPos) (v : Nat) : (s.setFld a f v).nearMargin = s.nearMargin := (rfl)
@[simp] theorem nearWait_setFld (s : State) (a : Nat) (f : FieldPos) (v : Nat) : (s.setFld a f v).nearWait = s.nearWait := (rfl)
@[simp] theorem nextId_setFld (s : State) (a : Nat) (f : FieldPos) (v : Nat) : (s.setFld a f v).nextId = s.nextId := (rfl)
@[simp] theorem penMsgs_setFld (s : State) (a : Nat) (f : FieldPos) (v : Nat) : (s.setFld a f v).penMsgs = s.penMsgs := (rfl)
@[simp] theorem penFwds_setFld (s : State) (a : Nat) (f : FieldPos) (v : Nat) : (s.setFld a f v).penFwds = s.penFwds := (rfl)
@[simp] theorem penTable_setFld (s : State) (a : Nat) (f : FieldPos) (v : Nat) : (s.setFld a f v).penTable = s.penTable := (rfl)
@[simp] theorem penWakes_setFld (s : State) (a : Nat) (f : FieldPos) (v : Nat) : (s.setFld a f v).penWakes = s.penWakes := (rfl)
@[simp] theorem pendTab_setFld (s : State) (a : Nat) (f : FieldPos) (v : Nat) : (s.setFld a f v).pendTab = s.pendTab := (rfl)
@[simp] theorem notices_setFld (s : State) (a : Nat) (f : FieldPos) (v : Nat) : (s.setFld a f v).notices = s.notices := (rfl)
@[simp] theorem landOwner_setFld (s : State) (a : Nat) (f : FieldPos) (v : Nat) : (s.setFld a f v).landOwner = s.landOwner := (rfl)
@[simp] theorem hoistMsgs_setFld (s : State) (a : Nat) (f : FieldPos) (v : Nat) : (s.setFld a f v).hoistMsgs = s.hoistMsgs := (rfl)
@[simp] theorem hoistRels_setFld (s : State) (a : Nat) (f : FieldPos) (v : Nat) : (s.setFld a f v).hoistRels = s.hoistRels := (rfl)
@[simp] theorem hoistFin_setFld (s : State) (a : Nat) (f : FieldPos) (v : Nat) : (s.setFld a f v).hoistFin = s.hoistFin := (rfl)
@[simp] theorem rootFin_setFld (s : State) (a : Nat) (f : FieldPos) (v : Nat) : (s.setFld a f v).rootFin = s.rootFin := (rfl)
@[simp] theorem redFlits_setFld (s : State) (a : Nat) (f : FieldPos) (v : Nat) : (s.setFld a f v).redFlits = s.redFlits := (rfl)
@[simp] theorem redBuf_setFld (s : State) (a : Nat) (f : FieldPos) (v : Nat) : (s.setFld a f v).redBuf = s.redBuf := (rfl)
@[simp] theorem chainIn_setFld (s : State) (a : Nat) (f : FieldPos) (v : Nat) : (s.setFld a f v).chainIn = s.chainIn := (rfl)
@[simp] theorem ports_setFld (s : State) (a : Nat) (f : FieldPos) (v : Nat) : (s.setFld a f v).ports = s.ports := (rfl)
@[simp] theorem unreach_setFld (s : State) (a : Nat) (f : FieldPos) (v : Nat) : (s.setFld a f v).unreach = s.unreach := (rfl)
@[simp] theorem chains_setFld (s : State) (a : Nat) (f : FieldPos) (v : Nat) : (s.setFld a f v).chains = s.chains := (rfl)
@[simp] theorem islOwner_setFld (s : State) (a : Nat) (f : FieldPos) (v : Nat) : (s.setFld a f v).islOwner = s.islOwner := (rfl)
@[simp] theorem pcOwner_setFld (s : State) (a : Nat) (f : FieldPos) (v : Nat) : (s.setFld a f v).pcOwner = s.pcOwner := (rfl)
@[simp] theorem portOwner_setFld (s : State) (a : Nat) (f : FieldPos) (v : Nat) : (s.setFld a f v).portOwner = s.portOwner := (rfl)
@[simp] theorem segOwner_setFld (s : State) (a : Nat) (f : FieldPos) (v : Nat) : (s.setFld a f v).segOwner = s.segOwner := (rfl)
@[simp] theorem cmdq_setFld (s : State) (a : Nat) (f : FieldPos) (v : Nat) : (s.setFld a f v).cmdq = s.cmdq := (rfl)
@[simp] theorem dmaCh_setFld (s : State) (a : Nat) (f : FieldPos) (v : Nat) : (s.setFld a f v).dmaCh = s.dmaCh := (rfl)
@[simp] theorem cpls_setFld (s : State) (a : Nat) (f : FieldPos) (v : Nat) : (s.setFld a f v).cpls = s.cpls := (rfl)
@[simp] theorem kills_setFld (s : State) (a : Nat) (f : FieldPos) (v : Nat) : (s.setFld a f v).kills = s.kills := (rfl)
@[simp] theorem cplPhase_setFld (s : State) (a : Nat) (f : FieldPos) (v : Nat) : (s.setFld a f v).cplPhase = s.cplPhase := (rfl)
@[simp] theorem d3_setFld (s : State) (a : Nat) (f : FieldPos) (v : Nat) : (s.setFld a f v).d3 = s.d3 := (rfl)
@[simp] theorem bar2_setFld (s : State) (a : Nat) (f : FieldPos) (v : Nat) : (s.setFld a f v).bar2 = s.bar2 := (rfl)
@[simp] theorem stepActive_setFld (s : State) (a : Nat) (f : FieldPos) (v : Nat) : (s.setFld a f v).stepActive = s.stepActive := (rfl)
@[simp] theorem run_setFld (s : State) (a : Nat) (f : FieldPos) (v : Nat) : (s.setFld a f v).run = s.run := (rfl)
@[simp] theorem mgr_setFld (s : State) (a : Nat) (f : FieldPos) (v : Nat) : (s.setFld a f v).mgr = s.mgr := (rfl)
@[simp] theorem managerRank_setFld (s : State) (a : Nat) (f : FieldPos) (v : Nat) : (s.setFld a f v).managerRank = s.managerRank := (rfl)
@[simp] theorem treeDepth_setFld (s : State) (a : Nat) (f : FieldPos) (v : Nat) : (s.setFld a f v).treeDepth = s.treeDepth := (rfl)
@[simp] theorem tickFix_setFld (s : State) (a : Nat) (f : FieldPos) (v : Nat) : (s.setFld a f v).tickFix = s.tickFix := (rfl)
@[simp] theorem tickFixed_setFld (s : State) (a : Nat) (f : FieldPos) (v : Nat) : (s.setFld a f v).tickFixed = s.tickFixed := (rfl)
@[simp] theorem alignMax_setFld (s : State) (a : Nat) (f : FieldPos) (v : Nat) : (s.setFld a f v).alignMax = s.alignMax := (rfl)
@[simp] theorem profile_setFld (s : State) (a : Nat) (f : FieldPos) (v : Nat) : (s.setFld a f v).profile = s.profile := (rfl)
@[simp] theorem power_setFld (s : State) (a : Nat) (f : FieldPos) (v : Nat) : (s.setFld a f v).power = s.power := (rfl)
@[simp] theorem boot_setFld (s : State) (a : Nat) (f : FieldPos) (v : Nat) : (s.setFld a f v).boot = s.boot := (rfl)
@[simp] theorem enclave_setFld (s : State) (a : Nat) (f : FieldPos) (v : Nat) : (s.setFld a f v).enclave = s.enclave := (rfl)
@[simp] theorem images_setFld (s : State) (a : Nat) (f : FieldPos) (v : Nat) : (s.setFld a f v).images = s.images := (rfl)
@[simp] theorem imgLoad_setFld (s : State) (a : Nat) (f : FieldPos) (v : Nat) : (s.setFld a f v).imgLoad = s.imgLoad := (rfl)
@[simp] theorem imgFailed_setFld (s : State) (a : Nat) (f : FieldPos) (v : Nat) : (s.setFld a f v).imgFailed = s.imgFailed := (rfl)
@[simp] theorem disabled_setFld (s : State) (a : Nat) (f : FieldPos) (v : Nat) : (s.setFld a f v).disabled = s.disabled := (rfl)
@[simp] theorem out_setFld (s : State) (a : Nat) (f : FieldPos) (v : Nat) : (s.setFld a f v).out = s.out := (rfl)
@[simp] theorem free_setFld (s : State) (a : Nat) (f : FieldPos) (v : Nat) : (s.setFld a f v).free = s.free := (rfl)
@[simp] theorem pending_setFld (s : State) (a : Nat) (f : FieldPos) (v : Nat) : (s.setFld a f v).pending = s.pending := (rfl)

/-! `emit` changes only `out`. -/

@[simp] theorem regs_emit (s : State) (m : OutMsg) : (s.emit m).regs = s.regs := (rfl)
@[simp] theorem held_emit (s : State) (m : OutMsg) : (s.emit m).held = s.held := (rfl)
@[simp] theorem lowHalf_emit (s : State) (m : OutMsg) : (s.emit m).lowHalf = s.lowHalf := (rfl)
@[simp] theorem near_emit (s : State) (m : OutMsg) : (s.emit m).near = s.near := (rfl)
@[simp] theorem reach_emit (s : State) (m : OutMsg) : (s.emit m).reach = s.reach := (rfl)
@[simp] theorem spad_emit (s : State) (m : OutMsg) : (s.emit m).spad = s.spad := (rfl)
@[simp] theorem hostMem_emit (s : State) (m : OutMsg) : (s.emit m).hostMem = s.hostMem := (rfl)
@[simp] theorem flash_emit (s : State) (m : OutMsg) : (s.emit m).flash = s.flash := (rfl)
@[simp] theorem bootBuf_emit (s : State) (m : OutMsg) : (s.emit m).bootBuf = s.bootBuf := (rfl)
@[simp] theorem spUe_emit (s : State) (m : OutMsg) : (s.emit m).spUe = s.spUe := (rfl)
@[simp] theorem nearUe_emit (s : State) (m : OutMsg) : (s.emit m).nearUe = s.nearUe := (rfl)
@[simp] theorem spWeak_emit (s : State) (m : OutMsg) : (s.emit m).spWeak = s.spWeak := (rfl)
@[simp] theorem nearWeak_emit (s : State) (m : OutMsg) : (s.emit m).nearWeak = s.nearWeak := (rfl)
@[simp] theorem reachUe_emit (s : State) (m : OutMsg) : (s.emit m).reachUe = s.reachUe := (rfl)
@[simp] theorem lcrLast_emit (s : State) (m : OutMsg) : (s.emit m).lcrLast = s.lcrLast := (rfl)
@[simp] theorem rchLast_emit (s : State) (m : OutMsg) : (s.emit m).rchLast = s.rchLast := (rfl)
@[simp] theorem rchTurn_emit (s : State) (m : OutMsg) : (s.emit m).rchTurn = s.rchTurn := (rfl)
@[simp] theorem parked_emit (s : State) (m : OutMsg) : (s.emit m).parked = s.parked := (rfl)
@[simp] theorem margHeld_emit (s : State) (m : OutMsg) : (s.emit m).margHeld = s.margHeld := (rfl)
@[simp] theorem rootHeld_emit (s : State) (m : OutMsg) : (s.emit m).rootHeld = s.rootHeld := (rfl)
@[simp] theorem killed_emit (s : State) (m : OutMsg) : (s.emit m).killed = s.killed := (rfl)
@[simp] theorem routed_emit (s : State) (m : OutMsg) : (s.emit m).routed = s.routed := (rfl)
@[simp] theorem cores_emit (s : State) (m : OutMsg) : (s.emit m).cores = s.cores := (rfl)
@[simp] theorem reqs_emit (s : State) (m : OutMsg) : (s.emit m).reqs = s.reqs := (rfl)
@[simp] theorem lcrWin_emit (s : State) (m : OutMsg) : (s.emit m).lcrWin = s.lcrWin := (rfl)
@[simp] theorem rchWin_emit (s : State) (m : OutMsg) : (s.emit m).rchWin = s.rchWin := (rfl)
@[simp] theorem nearMargin_emit (s : State) (m : OutMsg) : (s.emit m).nearMargin = s.nearMargin := (rfl)
@[simp] theorem nearWait_emit (s : State) (m : OutMsg) : (s.emit m).nearWait = s.nearWait := (rfl)
@[simp] theorem nextId_emit (s : State) (m : OutMsg) : (s.emit m).nextId = s.nextId := (rfl)
@[simp] theorem penMsgs_emit (s : State) (m : OutMsg) : (s.emit m).penMsgs = s.penMsgs := (rfl)
@[simp] theorem penFwds_emit (s : State) (m : OutMsg) : (s.emit m).penFwds = s.penFwds := (rfl)
@[simp] theorem penTable_emit (s : State) (m : OutMsg) : (s.emit m).penTable = s.penTable := (rfl)
@[simp] theorem penWakes_emit (s : State) (m : OutMsg) : (s.emit m).penWakes = s.penWakes := (rfl)
@[simp] theorem pendTab_emit (s : State) (m : OutMsg) : (s.emit m).pendTab = s.pendTab := (rfl)
@[simp] theorem notices_emit (s : State) (m : OutMsg) : (s.emit m).notices = s.notices := (rfl)
@[simp] theorem landOwner_emit (s : State) (m : OutMsg) : (s.emit m).landOwner = s.landOwner := (rfl)
@[simp] theorem hoistMsgs_emit (s : State) (m : OutMsg) : (s.emit m).hoistMsgs = s.hoistMsgs := (rfl)
@[simp] theorem hoistRels_emit (s : State) (m : OutMsg) : (s.emit m).hoistRels = s.hoistRels := (rfl)
@[simp] theorem hoistFin_emit (s : State) (m : OutMsg) : (s.emit m).hoistFin = s.hoistFin := (rfl)
@[simp] theorem rootFin_emit (s : State) (m : OutMsg) : (s.emit m).rootFin = s.rootFin := (rfl)
@[simp] theorem redFlits_emit (s : State) (m : OutMsg) : (s.emit m).redFlits = s.redFlits := (rfl)
@[simp] theorem redBuf_emit (s : State) (m : OutMsg) : (s.emit m).redBuf = s.redBuf := (rfl)
@[simp] theorem chainIn_emit (s : State) (m : OutMsg) : (s.emit m).chainIn = s.chainIn := (rfl)
@[simp] theorem ports_emit (s : State) (m : OutMsg) : (s.emit m).ports = s.ports := (rfl)
@[simp] theorem unreach_emit (s : State) (m : OutMsg) : (s.emit m).unreach = s.unreach := (rfl)
@[simp] theorem chains_emit (s : State) (m : OutMsg) : (s.emit m).chains = s.chains := (rfl)
@[simp] theorem islOwner_emit (s : State) (m : OutMsg) : (s.emit m).islOwner = s.islOwner := (rfl)
@[simp] theorem pcOwner_emit (s : State) (m : OutMsg) : (s.emit m).pcOwner = s.pcOwner := (rfl)
@[simp] theorem portOwner_emit (s : State) (m : OutMsg) : (s.emit m).portOwner = s.portOwner := (rfl)
@[simp] theorem segOwner_emit (s : State) (m : OutMsg) : (s.emit m).segOwner = s.segOwner := (rfl)
@[simp] theorem cmdq_emit (s : State) (m : OutMsg) : (s.emit m).cmdq = s.cmdq := (rfl)
@[simp] theorem dmaCh_emit (s : State) (m : OutMsg) : (s.emit m).dmaCh = s.dmaCh := (rfl)
@[simp] theorem cpls_emit (s : State) (m : OutMsg) : (s.emit m).cpls = s.cpls := (rfl)
@[simp] theorem kills_emit (s : State) (m : OutMsg) : (s.emit m).kills = s.kills := (rfl)
@[simp] theorem cplPhase_emit (s : State) (m : OutMsg) : (s.emit m).cplPhase = s.cplPhase := (rfl)
@[simp] theorem d3_emit (s : State) (m : OutMsg) : (s.emit m).d3 = s.d3 := (rfl)
@[simp] theorem bar2_emit (s : State) (m : OutMsg) : (s.emit m).bar2 = s.bar2 := (rfl)
@[simp] theorem stepActive_emit (s : State) (m : OutMsg) : (s.emit m).stepActive = s.stepActive := (rfl)
@[simp] theorem run_emit (s : State) (m : OutMsg) : (s.emit m).run = s.run := (rfl)
@[simp] theorem mgr_emit (s : State) (m : OutMsg) : (s.emit m).mgr = s.mgr := (rfl)
@[simp] theorem managerRank_emit (s : State) (m : OutMsg) : (s.emit m).managerRank = s.managerRank := (rfl)
@[simp] theorem treeDepth_emit (s : State) (m : OutMsg) : (s.emit m).treeDepth = s.treeDepth := (rfl)
@[simp] theorem tickFix_emit (s : State) (m : OutMsg) : (s.emit m).tickFix = s.tickFix := (rfl)
@[simp] theorem tickFixed_emit (s : State) (m : OutMsg) : (s.emit m).tickFixed = s.tickFixed := (rfl)
@[simp] theorem alignMax_emit (s : State) (m : OutMsg) : (s.emit m).alignMax = s.alignMax := (rfl)
@[simp] theorem profile_emit (s : State) (m : OutMsg) : (s.emit m).profile = s.profile := (rfl)
@[simp] theorem power_emit (s : State) (m : OutMsg) : (s.emit m).power = s.power := (rfl)
@[simp] theorem boot_emit (s : State) (m : OutMsg) : (s.emit m).boot = s.boot := (rfl)
@[simp] theorem enclave_emit (s : State) (m : OutMsg) : (s.emit m).enclave = s.enclave := (rfl)
@[simp] theorem images_emit (s : State) (m : OutMsg) : (s.emit m).images = s.images := (rfl)
@[simp] theorem imgLoad_emit (s : State) (m : OutMsg) : (s.emit m).imgLoad = s.imgLoad := (rfl)
@[simp] theorem imgFailed_emit (s : State) (m : OutMsg) : (s.emit m).imgFailed = s.imgFailed := (rfl)
@[simp] theorem disabled_emit (s : State) (m : OutMsg) : (s.emit m).disabled = s.disabled := (rfl)
@[simp] theorem free_emit (s : State) (m : OutMsg) : (s.emit m).free = s.free := (rfl)
@[simp] theorem pending_emit (s : State) (m : OutMsg) : (s.emit m).pending = s.pending := (rfl)

/-! `setCore` changes only `cores`. -/

@[simp] theorem regs_setCore (s : State) (c : Nat) (k : Core) : (s.setCore c k).regs = s.regs := (rfl)
@[simp] theorem held_setCore (s : State) (c : Nat) (k : Core) : (s.setCore c k).held = s.held := (rfl)
@[simp] theorem lowHalf_setCore (s : State) (c : Nat) (k : Core) : (s.setCore c k).lowHalf = s.lowHalf := (rfl)
@[simp] theorem near_setCore (s : State) (c : Nat) (k : Core) : (s.setCore c k).near = s.near := (rfl)
@[simp] theorem reach_setCore (s : State) (c : Nat) (k : Core) : (s.setCore c k).reach = s.reach := (rfl)
@[simp] theorem spad_setCore (s : State) (c : Nat) (k : Core) : (s.setCore c k).spad = s.spad := (rfl)
@[simp] theorem hostMem_setCore (s : State) (c : Nat) (k : Core) : (s.setCore c k).hostMem = s.hostMem := (rfl)
@[simp] theorem flash_setCore (s : State) (c : Nat) (k : Core) : (s.setCore c k).flash = s.flash := (rfl)
@[simp] theorem bootBuf_setCore (s : State) (c : Nat) (k : Core) : (s.setCore c k).bootBuf = s.bootBuf := (rfl)
@[simp] theorem spUe_setCore (s : State) (c : Nat) (k : Core) : (s.setCore c k).spUe = s.spUe := (rfl)
@[simp] theorem nearUe_setCore (s : State) (c : Nat) (k : Core) : (s.setCore c k).nearUe = s.nearUe := (rfl)
@[simp] theorem spWeak_setCore (s : State) (c : Nat) (k : Core) : (s.setCore c k).spWeak = s.spWeak := (rfl)
@[simp] theorem nearWeak_setCore (s : State) (c : Nat) (k : Core) : (s.setCore c k).nearWeak = s.nearWeak := (rfl)
@[simp] theorem reachUe_setCore (s : State) (c : Nat) (k : Core) : (s.setCore c k).reachUe = s.reachUe := (rfl)
@[simp] theorem lcrLast_setCore (s : State) (c : Nat) (k : Core) : (s.setCore c k).lcrLast = s.lcrLast := (rfl)
@[simp] theorem rchLast_setCore (s : State) (c : Nat) (k : Core) : (s.setCore c k).rchLast = s.rchLast := (rfl)
@[simp] theorem rchTurn_setCore (s : State) (c : Nat) (k : Core) : (s.setCore c k).rchTurn = s.rchTurn := (rfl)
@[simp] theorem parked_setCore (s : State) (c : Nat) (k : Core) : (s.setCore c k).parked = s.parked := (rfl)
@[simp] theorem margHeld_setCore (s : State) (c : Nat) (k : Core) : (s.setCore c k).margHeld = s.margHeld := (rfl)
@[simp] theorem rootHeld_setCore (s : State) (c : Nat) (k : Core) : (s.setCore c k).rootHeld = s.rootHeld := (rfl)
@[simp] theorem killed_setCore (s : State) (c : Nat) (k : Core) : (s.setCore c k).killed = s.killed := (rfl)
@[simp] theorem routed_setCore (s : State) (c : Nat) (k : Core) : (s.setCore c k).routed = s.routed := (rfl)
@[simp] theorem reqs_setCore (s : State) (c : Nat) (k : Core) : (s.setCore c k).reqs = s.reqs := (rfl)
@[simp] theorem lcrWin_setCore (s : State) (c : Nat) (k : Core) : (s.setCore c k).lcrWin = s.lcrWin := (rfl)
@[simp] theorem rchWin_setCore (s : State) (c : Nat) (k : Core) : (s.setCore c k).rchWin = s.rchWin := (rfl)
@[simp] theorem nearMargin_setCore (s : State) (c : Nat) (k : Core) : (s.setCore c k).nearMargin = s.nearMargin := (rfl)
@[simp] theorem nearWait_setCore (s : State) (c : Nat) (k : Core) : (s.setCore c k).nearWait = s.nearWait := (rfl)
@[simp] theorem nextId_setCore (s : State) (c : Nat) (k : Core) : (s.setCore c k).nextId = s.nextId := (rfl)
@[simp] theorem penMsgs_setCore (s : State) (c : Nat) (k : Core) : (s.setCore c k).penMsgs = s.penMsgs := (rfl)
@[simp] theorem penFwds_setCore (s : State) (c : Nat) (k : Core) : (s.setCore c k).penFwds = s.penFwds := (rfl)
@[simp] theorem penTable_setCore (s : State) (c : Nat) (k : Core) : (s.setCore c k).penTable = s.penTable := (rfl)
@[simp] theorem penWakes_setCore (s : State) (c : Nat) (k : Core) : (s.setCore c k).penWakes = s.penWakes := (rfl)
@[simp] theorem pendTab_setCore (s : State) (c : Nat) (k : Core) : (s.setCore c k).pendTab = s.pendTab := (rfl)
@[simp] theorem notices_setCore (s : State) (c : Nat) (k : Core) : (s.setCore c k).notices = s.notices := (rfl)
@[simp] theorem landOwner_setCore (s : State) (c : Nat) (k : Core) : (s.setCore c k).landOwner = s.landOwner := (rfl)
@[simp] theorem hoistMsgs_setCore (s : State) (c : Nat) (k : Core) : (s.setCore c k).hoistMsgs = s.hoistMsgs := (rfl)
@[simp] theorem hoistRels_setCore (s : State) (c : Nat) (k : Core) : (s.setCore c k).hoistRels = s.hoistRels := (rfl)
@[simp] theorem hoistFin_setCore (s : State) (c : Nat) (k : Core) : (s.setCore c k).hoistFin = s.hoistFin := (rfl)
@[simp] theorem rootFin_setCore (s : State) (c : Nat) (k : Core) : (s.setCore c k).rootFin = s.rootFin := (rfl)
@[simp] theorem redFlits_setCore (s : State) (c : Nat) (k : Core) : (s.setCore c k).redFlits = s.redFlits := (rfl)
@[simp] theorem redBuf_setCore (s : State) (c : Nat) (k : Core) : (s.setCore c k).redBuf = s.redBuf := (rfl)
@[simp] theorem chainIn_setCore (s : State) (c : Nat) (k : Core) : (s.setCore c k).chainIn = s.chainIn := (rfl)
@[simp] theorem ports_setCore (s : State) (c : Nat) (k : Core) : (s.setCore c k).ports = s.ports := (rfl)
@[simp] theorem unreach_setCore (s : State) (c : Nat) (k : Core) : (s.setCore c k).unreach = s.unreach := (rfl)
@[simp] theorem chains_setCore (s : State) (c : Nat) (k : Core) : (s.setCore c k).chains = s.chains := (rfl)
@[simp] theorem islOwner_setCore (s : State) (c : Nat) (k : Core) : (s.setCore c k).islOwner = s.islOwner := (rfl)
@[simp] theorem pcOwner_setCore (s : State) (c : Nat) (k : Core) : (s.setCore c k).pcOwner = s.pcOwner := (rfl)
@[simp] theorem portOwner_setCore (s : State) (c : Nat) (k : Core) : (s.setCore c k).portOwner = s.portOwner := (rfl)
@[simp] theorem segOwner_setCore (s : State) (c : Nat) (k : Core) : (s.setCore c k).segOwner = s.segOwner := (rfl)
@[simp] theorem cmdq_setCore (s : State) (c : Nat) (k : Core) : (s.setCore c k).cmdq = s.cmdq := (rfl)
@[simp] theorem dmaCh_setCore (s : State) (c : Nat) (k : Core) : (s.setCore c k).dmaCh = s.dmaCh := (rfl)
@[simp] theorem cpls_setCore (s : State) (c : Nat) (k : Core) : (s.setCore c k).cpls = s.cpls := (rfl)
@[simp] theorem kills_setCore (s : State) (c : Nat) (k : Core) : (s.setCore c k).kills = s.kills := (rfl)
@[simp] theorem cplPhase_setCore (s : State) (c : Nat) (k : Core) : (s.setCore c k).cplPhase = s.cplPhase := (rfl)
@[simp] theorem d3_setCore (s : State) (c : Nat) (k : Core) : (s.setCore c k).d3 = s.d3 := (rfl)
@[simp] theorem bar2_setCore (s : State) (c : Nat) (k : Core) : (s.setCore c k).bar2 = s.bar2 := (rfl)
@[simp] theorem stepActive_setCore (s : State) (c : Nat) (k : Core) : (s.setCore c k).stepActive = s.stepActive := (rfl)
@[simp] theorem run_setCore (s : State) (c : Nat) (k : Core) : (s.setCore c k).run = s.run := (rfl)
@[simp] theorem mgr_setCore (s : State) (c : Nat) (k : Core) : (s.setCore c k).mgr = s.mgr := (rfl)
@[simp] theorem managerRank_setCore (s : State) (c : Nat) (k : Core) : (s.setCore c k).managerRank = s.managerRank := (rfl)
@[simp] theorem treeDepth_setCore (s : State) (c : Nat) (k : Core) : (s.setCore c k).treeDepth = s.treeDepth := (rfl)
@[simp] theorem tickFix_setCore (s : State) (c : Nat) (k : Core) : (s.setCore c k).tickFix = s.tickFix := (rfl)
@[simp] theorem tickFixed_setCore (s : State) (c : Nat) (k : Core) : (s.setCore c k).tickFixed = s.tickFixed := (rfl)
@[simp] theorem alignMax_setCore (s : State) (c : Nat) (k : Core) : (s.setCore c k).alignMax = s.alignMax := (rfl)
@[simp] theorem profile_setCore (s : State) (c : Nat) (k : Core) : (s.setCore c k).profile = s.profile := (rfl)
@[simp] theorem power_setCore (s : State) (c : Nat) (k : Core) : (s.setCore c k).power = s.power := (rfl)
@[simp] theorem boot_setCore (s : State) (c : Nat) (k : Core) : (s.setCore c k).boot = s.boot := (rfl)
@[simp] theorem enclave_setCore (s : State) (c : Nat) (k : Core) : (s.setCore c k).enclave = s.enclave := (rfl)
@[simp] theorem images_setCore (s : State) (c : Nat) (k : Core) : (s.setCore c k).images = s.images := (rfl)
@[simp] theorem imgLoad_setCore (s : State) (c : Nat) (k : Core) : (s.setCore c k).imgLoad = s.imgLoad := (rfl)
@[simp] theorem imgFailed_setCore (s : State) (c : Nat) (k : Core) : (s.setCore c k).imgFailed = s.imgFailed := (rfl)
@[simp] theorem disabled_setCore (s : State) (c : Nat) (k : Core) : (s.setCore c k).disabled = s.disabled := (rfl)
@[simp] theorem out_setCore (s : State) (c : Nat) (k : Core) : (s.setCore c k).out = s.out := (rfl)
@[simp] theorem free_setCore (s : State) (c : Nat) (k : Core) : (s.setCore c k).free = s.free := (rfl)
@[simp] theorem pending_setCore (s : State) (c : Nat) (k : Core) : (s.setCore c k).pending = s.pending := (rfl)

/-! `modCore` changes only `cores`. -/

@[simp] theorem regs_modCore (s : State) (c : Nat) (f : Core → Core) : (s.modCore c f).regs = s.regs := (rfl)
@[simp] theorem held_modCore (s : State) (c : Nat) (f : Core → Core) : (s.modCore c f).held = s.held := (rfl)
@[simp] theorem lowHalf_modCore (s : State) (c : Nat) (f : Core → Core) : (s.modCore c f).lowHalf = s.lowHalf := (rfl)
@[simp] theorem near_modCore (s : State) (c : Nat) (f : Core → Core) : (s.modCore c f).near = s.near := (rfl)
@[simp] theorem reach_modCore (s : State) (c : Nat) (f : Core → Core) : (s.modCore c f).reach = s.reach := (rfl)
@[simp] theorem spad_modCore (s : State) (c : Nat) (f : Core → Core) : (s.modCore c f).spad = s.spad := (rfl)
@[simp] theorem hostMem_modCore (s : State) (c : Nat) (f : Core → Core) : (s.modCore c f).hostMem = s.hostMem := (rfl)
@[simp] theorem flash_modCore (s : State) (c : Nat) (f : Core → Core) : (s.modCore c f).flash = s.flash := (rfl)
@[simp] theorem bootBuf_modCore (s : State) (c : Nat) (f : Core → Core) : (s.modCore c f).bootBuf = s.bootBuf := (rfl)
@[simp] theorem spUe_modCore (s : State) (c : Nat) (f : Core → Core) : (s.modCore c f).spUe = s.spUe := (rfl)
@[simp] theorem nearUe_modCore (s : State) (c : Nat) (f : Core → Core) : (s.modCore c f).nearUe = s.nearUe := (rfl)
@[simp] theorem spWeak_modCore (s : State) (c : Nat) (f : Core → Core) : (s.modCore c f).spWeak = s.spWeak := (rfl)
@[simp] theorem nearWeak_modCore (s : State) (c : Nat) (f : Core → Core) : (s.modCore c f).nearWeak = s.nearWeak := (rfl)
@[simp] theorem reachUe_modCore (s : State) (c : Nat) (f : Core → Core) : (s.modCore c f).reachUe = s.reachUe := (rfl)
@[simp] theorem lcrLast_modCore (s : State) (c : Nat) (f : Core → Core) : (s.modCore c f).lcrLast = s.lcrLast := (rfl)
@[simp] theorem rchLast_modCore (s : State) (c : Nat) (f : Core → Core) : (s.modCore c f).rchLast = s.rchLast := (rfl)
@[simp] theorem rchTurn_modCore (s : State) (c : Nat) (f : Core → Core) : (s.modCore c f).rchTurn = s.rchTurn := (rfl)
@[simp] theorem parked_modCore (s : State) (c : Nat) (f : Core → Core) : (s.modCore c f).parked = s.parked := (rfl)
@[simp] theorem margHeld_modCore (s : State) (c : Nat) (f : Core → Core) : (s.modCore c f).margHeld = s.margHeld := (rfl)
@[simp] theorem rootHeld_modCore (s : State) (c : Nat) (f : Core → Core) : (s.modCore c f).rootHeld = s.rootHeld := (rfl)
@[simp] theorem killed_modCore (s : State) (c : Nat) (f : Core → Core) : (s.modCore c f).killed = s.killed := (rfl)
@[simp] theorem routed_modCore (s : State) (c : Nat) (f : Core → Core) : (s.modCore c f).routed = s.routed := (rfl)
@[simp] theorem reqs_modCore (s : State) (c : Nat) (f : Core → Core) : (s.modCore c f).reqs = s.reqs := (rfl)
@[simp] theorem lcrWin_modCore (s : State) (c : Nat) (f : Core → Core) : (s.modCore c f).lcrWin = s.lcrWin := (rfl)
@[simp] theorem rchWin_modCore (s : State) (c : Nat) (f : Core → Core) : (s.modCore c f).rchWin = s.rchWin := (rfl)
@[simp] theorem nearMargin_modCore (s : State) (c : Nat) (f : Core → Core) : (s.modCore c f).nearMargin = s.nearMargin := (rfl)
@[simp] theorem nearWait_modCore (s : State) (c : Nat) (f : Core → Core) : (s.modCore c f).nearWait = s.nearWait := (rfl)
@[simp] theorem nextId_modCore (s : State) (c : Nat) (f : Core → Core) : (s.modCore c f).nextId = s.nextId := (rfl)
@[simp] theorem penMsgs_modCore (s : State) (c : Nat) (f : Core → Core) : (s.modCore c f).penMsgs = s.penMsgs := (rfl)
@[simp] theorem penFwds_modCore (s : State) (c : Nat) (f : Core → Core) : (s.modCore c f).penFwds = s.penFwds := (rfl)
@[simp] theorem penTable_modCore (s : State) (c : Nat) (f : Core → Core) : (s.modCore c f).penTable = s.penTable := (rfl)
@[simp] theorem penWakes_modCore (s : State) (c : Nat) (f : Core → Core) : (s.modCore c f).penWakes = s.penWakes := (rfl)
@[simp] theorem pendTab_modCore (s : State) (c : Nat) (f : Core → Core) : (s.modCore c f).pendTab = s.pendTab := (rfl)
@[simp] theorem notices_modCore (s : State) (c : Nat) (f : Core → Core) : (s.modCore c f).notices = s.notices := (rfl)
@[simp] theorem landOwner_modCore (s : State) (c : Nat) (f : Core → Core) : (s.modCore c f).landOwner = s.landOwner := (rfl)
@[simp] theorem hoistMsgs_modCore (s : State) (c : Nat) (f : Core → Core) : (s.modCore c f).hoistMsgs = s.hoistMsgs := (rfl)
@[simp] theorem hoistRels_modCore (s : State) (c : Nat) (f : Core → Core) : (s.modCore c f).hoistRels = s.hoistRels := (rfl)
@[simp] theorem hoistFin_modCore (s : State) (c : Nat) (f : Core → Core) : (s.modCore c f).hoistFin = s.hoistFin := (rfl)
@[simp] theorem rootFin_modCore (s : State) (c : Nat) (f : Core → Core) : (s.modCore c f).rootFin = s.rootFin := (rfl)
@[simp] theorem redFlits_modCore (s : State) (c : Nat) (f : Core → Core) : (s.modCore c f).redFlits = s.redFlits := (rfl)
@[simp] theorem redBuf_modCore (s : State) (c : Nat) (f : Core → Core) : (s.modCore c f).redBuf = s.redBuf := (rfl)
@[simp] theorem chainIn_modCore (s : State) (c : Nat) (f : Core → Core) : (s.modCore c f).chainIn = s.chainIn := (rfl)
@[simp] theorem ports_modCore (s : State) (c : Nat) (f : Core → Core) : (s.modCore c f).ports = s.ports := (rfl)
@[simp] theorem unreach_modCore (s : State) (c : Nat) (f : Core → Core) : (s.modCore c f).unreach = s.unreach := (rfl)
@[simp] theorem chains_modCore (s : State) (c : Nat) (f : Core → Core) : (s.modCore c f).chains = s.chains := (rfl)
@[simp] theorem islOwner_modCore (s : State) (c : Nat) (f : Core → Core) : (s.modCore c f).islOwner = s.islOwner := (rfl)
@[simp] theorem pcOwner_modCore (s : State) (c : Nat) (f : Core → Core) : (s.modCore c f).pcOwner = s.pcOwner := (rfl)
@[simp] theorem portOwner_modCore (s : State) (c : Nat) (f : Core → Core) : (s.modCore c f).portOwner = s.portOwner := (rfl)
@[simp] theorem segOwner_modCore (s : State) (c : Nat) (f : Core → Core) : (s.modCore c f).segOwner = s.segOwner := (rfl)
@[simp] theorem cmdq_modCore (s : State) (c : Nat) (f : Core → Core) : (s.modCore c f).cmdq = s.cmdq := (rfl)
@[simp] theorem dmaCh_modCore (s : State) (c : Nat) (f : Core → Core) : (s.modCore c f).dmaCh = s.dmaCh := (rfl)
@[simp] theorem cpls_modCore (s : State) (c : Nat) (f : Core → Core) : (s.modCore c f).cpls = s.cpls := (rfl)
@[simp] theorem kills_modCore (s : State) (c : Nat) (f : Core → Core) : (s.modCore c f).kills = s.kills := (rfl)
@[simp] theorem cplPhase_modCore (s : State) (c : Nat) (f : Core → Core) : (s.modCore c f).cplPhase = s.cplPhase := (rfl)
@[simp] theorem d3_modCore (s : State) (c : Nat) (f : Core → Core) : (s.modCore c f).d3 = s.d3 := (rfl)
@[simp] theorem bar2_modCore (s : State) (c : Nat) (f : Core → Core) : (s.modCore c f).bar2 = s.bar2 := (rfl)
@[simp] theorem stepActive_modCore (s : State) (c : Nat) (f : Core → Core) : (s.modCore c f).stepActive = s.stepActive := (rfl)
@[simp] theorem run_modCore (s : State) (c : Nat) (f : Core → Core) : (s.modCore c f).run = s.run := (rfl)
@[simp] theorem mgr_modCore (s : State) (c : Nat) (f : Core → Core) : (s.modCore c f).mgr = s.mgr := (rfl)
@[simp] theorem managerRank_modCore (s : State) (c : Nat) (f : Core → Core) : (s.modCore c f).managerRank = s.managerRank := (rfl)
@[simp] theorem treeDepth_modCore (s : State) (c : Nat) (f : Core → Core) : (s.modCore c f).treeDepth = s.treeDepth := (rfl)
@[simp] theorem tickFix_modCore (s : State) (c : Nat) (f : Core → Core) : (s.modCore c f).tickFix = s.tickFix := (rfl)
@[simp] theorem tickFixed_modCore (s : State) (c : Nat) (f : Core → Core) : (s.modCore c f).tickFixed = s.tickFixed := (rfl)
@[simp] theorem alignMax_modCore (s : State) (c : Nat) (f : Core → Core) : (s.modCore c f).alignMax = s.alignMax := (rfl)
@[simp] theorem profile_modCore (s : State) (c : Nat) (f : Core → Core) : (s.modCore c f).profile = s.profile := (rfl)
@[simp] theorem power_modCore (s : State) (c : Nat) (f : Core → Core) : (s.modCore c f).power = s.power := (rfl)
@[simp] theorem boot_modCore (s : State) (c : Nat) (f : Core → Core) : (s.modCore c f).boot = s.boot := (rfl)
@[simp] theorem enclave_modCore (s : State) (c : Nat) (f : Core → Core) : (s.modCore c f).enclave = s.enclave := (rfl)
@[simp] theorem images_modCore (s : State) (c : Nat) (f : Core → Core) : (s.modCore c f).images = s.images := (rfl)
@[simp] theorem imgLoad_modCore (s : State) (c : Nat) (f : Core → Core) : (s.modCore c f).imgLoad = s.imgLoad := (rfl)
@[simp] theorem imgFailed_modCore (s : State) (c : Nat) (f : Core → Core) : (s.modCore c f).imgFailed = s.imgFailed := (rfl)
@[simp] theorem disabled_modCore (s : State) (c : Nat) (f : Core → Core) : (s.modCore c f).disabled = s.disabled := (rfl)
@[simp] theorem out_modCore (s : State) (c : Nat) (f : Core → Core) : (s.modCore c f).out = s.out := (rfl)
@[simp] theorem free_modCore (s : State) (c : Nat) (f : Core → Core) : (s.modCore c f).free = s.free := (rfl)
@[simp] theorem pending_modCore (s : State) (c : Nat) (f : Core → Core) : (s.modCore c f).pending = s.pending := (rfl)

/-! `modStrm` changes only `cores`. -/

@[simp] theorem regs_modStrm (s : State) (c : Nat) (t : Strm) (f : StreamState → StreamState) : (s.modStrm c t f).regs = s.regs := (rfl)
@[simp] theorem held_modStrm (s : State) (c : Nat) (t : Strm) (f : StreamState → StreamState) : (s.modStrm c t f).held = s.held := (rfl)
@[simp] theorem lowHalf_modStrm (s : State) (c : Nat) (t : Strm) (f : StreamState → StreamState) : (s.modStrm c t f).lowHalf = s.lowHalf := (rfl)
@[simp] theorem near_modStrm (s : State) (c : Nat) (t : Strm) (f : StreamState → StreamState) : (s.modStrm c t f).near = s.near := (rfl)
@[simp] theorem reach_modStrm (s : State) (c : Nat) (t : Strm) (f : StreamState → StreamState) : (s.modStrm c t f).reach = s.reach := (rfl)
@[simp] theorem spad_modStrm (s : State) (c : Nat) (t : Strm) (f : StreamState → StreamState) : (s.modStrm c t f).spad = s.spad := (rfl)
@[simp] theorem hostMem_modStrm (s : State) (c : Nat) (t : Strm) (f : StreamState → StreamState) : (s.modStrm c t f).hostMem = s.hostMem := (rfl)
@[simp] theorem flash_modStrm (s : State) (c : Nat) (t : Strm) (f : StreamState → StreamState) : (s.modStrm c t f).flash = s.flash := (rfl)
@[simp] theorem bootBuf_modStrm (s : State) (c : Nat) (t : Strm) (f : StreamState → StreamState) : (s.modStrm c t f).bootBuf = s.bootBuf := (rfl)
@[simp] theorem spUe_modStrm (s : State) (c : Nat) (t : Strm) (f : StreamState → StreamState) : (s.modStrm c t f).spUe = s.spUe := (rfl)
@[simp] theorem nearUe_modStrm (s : State) (c : Nat) (t : Strm) (f : StreamState → StreamState) : (s.modStrm c t f).nearUe = s.nearUe := (rfl)
@[simp] theorem spWeak_modStrm (s : State) (c : Nat) (t : Strm) (f : StreamState → StreamState) : (s.modStrm c t f).spWeak = s.spWeak := (rfl)
@[simp] theorem nearWeak_modStrm (s : State) (c : Nat) (t : Strm) (f : StreamState → StreamState) : (s.modStrm c t f).nearWeak = s.nearWeak := (rfl)
@[simp] theorem reachUe_modStrm (s : State) (c : Nat) (t : Strm) (f : StreamState → StreamState) : (s.modStrm c t f).reachUe = s.reachUe := (rfl)
@[simp] theorem lcrLast_modStrm (s : State) (c : Nat) (t : Strm) (f : StreamState → StreamState) : (s.modStrm c t f).lcrLast = s.lcrLast := (rfl)
@[simp] theorem rchLast_modStrm (s : State) (c : Nat) (t : Strm) (f : StreamState → StreamState) : (s.modStrm c t f).rchLast = s.rchLast := (rfl)
@[simp] theorem rchTurn_modStrm (s : State) (c : Nat) (t : Strm) (f : StreamState → StreamState) : (s.modStrm c t f).rchTurn = s.rchTurn := (rfl)
@[simp] theorem parked_modStrm (s : State) (c : Nat) (t : Strm) (f : StreamState → StreamState) : (s.modStrm c t f).parked = s.parked := (rfl)
@[simp] theorem margHeld_modStrm (s : State) (c : Nat) (t : Strm) (f : StreamState → StreamState) : (s.modStrm c t f).margHeld = s.margHeld := (rfl)
@[simp] theorem rootHeld_modStrm (s : State) (c : Nat) (t : Strm) (f : StreamState → StreamState) : (s.modStrm c t f).rootHeld = s.rootHeld := (rfl)
@[simp] theorem killed_modStrm (s : State) (c : Nat) (t : Strm) (f : StreamState → StreamState) : (s.modStrm c t f).killed = s.killed := (rfl)
@[simp] theorem routed_modStrm (s : State) (c : Nat) (t : Strm) (f : StreamState → StreamState) : (s.modStrm c t f).routed = s.routed := (rfl)
@[simp] theorem reqs_modStrm (s : State) (c : Nat) (t : Strm) (f : StreamState → StreamState) : (s.modStrm c t f).reqs = s.reqs := (rfl)
@[simp] theorem lcrWin_modStrm (s : State) (c : Nat) (t : Strm) (f : StreamState → StreamState) : (s.modStrm c t f).lcrWin = s.lcrWin := (rfl)
@[simp] theorem rchWin_modStrm (s : State) (c : Nat) (t : Strm) (f : StreamState → StreamState) : (s.modStrm c t f).rchWin = s.rchWin := (rfl)
@[simp] theorem nearMargin_modStrm (s : State) (c : Nat) (t : Strm) (f : StreamState → StreamState) : (s.modStrm c t f).nearMargin = s.nearMargin := (rfl)
@[simp] theorem nearWait_modStrm (s : State) (c : Nat) (t : Strm) (f : StreamState → StreamState) : (s.modStrm c t f).nearWait = s.nearWait := (rfl)
@[simp] theorem nextId_modStrm (s : State) (c : Nat) (t : Strm) (f : StreamState → StreamState) : (s.modStrm c t f).nextId = s.nextId := (rfl)
@[simp] theorem penMsgs_modStrm (s : State) (c : Nat) (t : Strm) (f : StreamState → StreamState) : (s.modStrm c t f).penMsgs = s.penMsgs := (rfl)
@[simp] theorem penFwds_modStrm (s : State) (c : Nat) (t : Strm) (f : StreamState → StreamState) : (s.modStrm c t f).penFwds = s.penFwds := (rfl)
@[simp] theorem penTable_modStrm (s : State) (c : Nat) (t : Strm) (f : StreamState → StreamState) : (s.modStrm c t f).penTable = s.penTable := (rfl)
@[simp] theorem penWakes_modStrm (s : State) (c : Nat) (t : Strm) (f : StreamState → StreamState) : (s.modStrm c t f).penWakes = s.penWakes := (rfl)
@[simp] theorem pendTab_modStrm (s : State) (c : Nat) (t : Strm) (f : StreamState → StreamState) : (s.modStrm c t f).pendTab = s.pendTab := (rfl)
@[simp] theorem notices_modStrm (s : State) (c : Nat) (t : Strm) (f : StreamState → StreamState) : (s.modStrm c t f).notices = s.notices := (rfl)
@[simp] theorem landOwner_modStrm (s : State) (c : Nat) (t : Strm) (f : StreamState → StreamState) : (s.modStrm c t f).landOwner = s.landOwner := (rfl)
@[simp] theorem hoistMsgs_modStrm (s : State) (c : Nat) (t : Strm) (f : StreamState → StreamState) : (s.modStrm c t f).hoistMsgs = s.hoistMsgs := (rfl)
@[simp] theorem hoistRels_modStrm (s : State) (c : Nat) (t : Strm) (f : StreamState → StreamState) : (s.modStrm c t f).hoistRels = s.hoistRels := (rfl)
@[simp] theorem hoistFin_modStrm (s : State) (c : Nat) (t : Strm) (f : StreamState → StreamState) : (s.modStrm c t f).hoistFin = s.hoistFin := (rfl)
@[simp] theorem rootFin_modStrm (s : State) (c : Nat) (t : Strm) (f : StreamState → StreamState) : (s.modStrm c t f).rootFin = s.rootFin := (rfl)
@[simp] theorem redFlits_modStrm (s : State) (c : Nat) (t : Strm) (f : StreamState → StreamState) : (s.modStrm c t f).redFlits = s.redFlits := (rfl)
@[simp] theorem redBuf_modStrm (s : State) (c : Nat) (t : Strm) (f : StreamState → StreamState) : (s.modStrm c t f).redBuf = s.redBuf := (rfl)
@[simp] theorem chainIn_modStrm (s : State) (c : Nat) (t : Strm) (f : StreamState → StreamState) : (s.modStrm c t f).chainIn = s.chainIn := (rfl)
@[simp] theorem ports_modStrm (s : State) (c : Nat) (t : Strm) (f : StreamState → StreamState) : (s.modStrm c t f).ports = s.ports := (rfl)
@[simp] theorem unreach_modStrm (s : State) (c : Nat) (t : Strm) (f : StreamState → StreamState) : (s.modStrm c t f).unreach = s.unreach := (rfl)
@[simp] theorem chains_modStrm (s : State) (c : Nat) (t : Strm) (f : StreamState → StreamState) : (s.modStrm c t f).chains = s.chains := (rfl)
@[simp] theorem islOwner_modStrm (s : State) (c : Nat) (t : Strm) (f : StreamState → StreamState) : (s.modStrm c t f).islOwner = s.islOwner := (rfl)
@[simp] theorem pcOwner_modStrm (s : State) (c : Nat) (t : Strm) (f : StreamState → StreamState) : (s.modStrm c t f).pcOwner = s.pcOwner := (rfl)
@[simp] theorem portOwner_modStrm (s : State) (c : Nat) (t : Strm) (f : StreamState → StreamState) : (s.modStrm c t f).portOwner = s.portOwner := (rfl)
@[simp] theorem segOwner_modStrm (s : State) (c : Nat) (t : Strm) (f : StreamState → StreamState) : (s.modStrm c t f).segOwner = s.segOwner := (rfl)
@[simp] theorem cmdq_modStrm (s : State) (c : Nat) (t : Strm) (f : StreamState → StreamState) : (s.modStrm c t f).cmdq = s.cmdq := (rfl)
@[simp] theorem dmaCh_modStrm (s : State) (c : Nat) (t : Strm) (f : StreamState → StreamState) : (s.modStrm c t f).dmaCh = s.dmaCh := (rfl)
@[simp] theorem cpls_modStrm (s : State) (c : Nat) (t : Strm) (f : StreamState → StreamState) : (s.modStrm c t f).cpls = s.cpls := (rfl)
@[simp] theorem kills_modStrm (s : State) (c : Nat) (t : Strm) (f : StreamState → StreamState) : (s.modStrm c t f).kills = s.kills := (rfl)
@[simp] theorem cplPhase_modStrm (s : State) (c : Nat) (t : Strm) (f : StreamState → StreamState) : (s.modStrm c t f).cplPhase = s.cplPhase := (rfl)
@[simp] theorem d3_modStrm (s : State) (c : Nat) (t : Strm) (f : StreamState → StreamState) : (s.modStrm c t f).d3 = s.d3 := (rfl)
@[simp] theorem bar2_modStrm (s : State) (c : Nat) (t : Strm) (f : StreamState → StreamState) : (s.modStrm c t f).bar2 = s.bar2 := (rfl)
@[simp] theorem stepActive_modStrm (s : State) (c : Nat) (t : Strm) (f : StreamState → StreamState) : (s.modStrm c t f).stepActive = s.stepActive := (rfl)
@[simp] theorem run_modStrm (s : State) (c : Nat) (t : Strm) (f : StreamState → StreamState) : (s.modStrm c t f).run = s.run := (rfl)
@[simp] theorem mgr_modStrm (s : State) (c : Nat) (t : Strm) (f : StreamState → StreamState) : (s.modStrm c t f).mgr = s.mgr := (rfl)
@[simp] theorem managerRank_modStrm (s : State) (c : Nat) (t : Strm) (f : StreamState → StreamState) : (s.modStrm c t f).managerRank = s.managerRank := (rfl)
@[simp] theorem treeDepth_modStrm (s : State) (c : Nat) (t : Strm) (f : StreamState → StreamState) : (s.modStrm c t f).treeDepth = s.treeDepth := (rfl)
@[simp] theorem tickFix_modStrm (s : State) (c : Nat) (t : Strm) (f : StreamState → StreamState) : (s.modStrm c t f).tickFix = s.tickFix := (rfl)
@[simp] theorem tickFixed_modStrm (s : State) (c : Nat) (t : Strm) (f : StreamState → StreamState) : (s.modStrm c t f).tickFixed = s.tickFixed := (rfl)
@[simp] theorem alignMax_modStrm (s : State) (c : Nat) (t : Strm) (f : StreamState → StreamState) : (s.modStrm c t f).alignMax = s.alignMax := (rfl)
@[simp] theorem profile_modStrm (s : State) (c : Nat) (t : Strm) (f : StreamState → StreamState) : (s.modStrm c t f).profile = s.profile := (rfl)
@[simp] theorem power_modStrm (s : State) (c : Nat) (t : Strm) (f : StreamState → StreamState) : (s.modStrm c t f).power = s.power := (rfl)
@[simp] theorem boot_modStrm (s : State) (c : Nat) (t : Strm) (f : StreamState → StreamState) : (s.modStrm c t f).boot = s.boot := (rfl)
@[simp] theorem enclave_modStrm (s : State) (c : Nat) (t : Strm) (f : StreamState → StreamState) : (s.modStrm c t f).enclave = s.enclave := (rfl)
@[simp] theorem images_modStrm (s : State) (c : Nat) (t : Strm) (f : StreamState → StreamState) : (s.modStrm c t f).images = s.images := (rfl)
@[simp] theorem imgLoad_modStrm (s : State) (c : Nat) (t : Strm) (f : StreamState → StreamState) : (s.modStrm c t f).imgLoad = s.imgLoad := (rfl)
@[simp] theorem imgFailed_modStrm (s : State) (c : Nat) (t : Strm) (f : StreamState → StreamState) : (s.modStrm c t f).imgFailed = s.imgFailed := (rfl)
@[simp] theorem disabled_modStrm (s : State) (c : Nat) (t : Strm) (f : StreamState → StreamState) : (s.modStrm c t f).disabled = s.disabled := (rfl)
@[simp] theorem out_modStrm (s : State) (c : Nat) (t : Strm) (f : StreamState → StreamState) : (s.modStrm c t f).out = s.out := (rfl)
@[simp] theorem free_modStrm (s : State) (c : Nat) (t : Strm) (f : StreamState → StreamState) : (s.modStrm c t f).free = s.free := (rfl)
@[simp] theorem pending_modStrm (s : State) (c : Nat) (t : Strm) (f : StreamState → StreamState) : (s.modStrm c t f).pending = s.pending := (rfl)

end Sys2Proof.Machine
end

