-- ==== Sys2Proof/Laws/Cores.lean ====
section
/-! SUPPORT. What a core and its streams hold after an update, and which registers the updates of cores leave alone. -/

namespace Sys2Proof.Machine

open Sys2Proof

theorem reg_of_regs {s t : State} (h : t.regs = s.regs) (a : Nat) : t.reg a = s.reg a := by
  simp only [State.reg, h]

theorem fld_of_regs {s t : State} (h : t.regs = s.regs) (a : Nat) (f : FieldPos) : t.fld a f = s.fld a f := by
  simp only [State.fld, reg_of_regs h]

@[simp] theorem reg_setCore (s : State) (c : Nat) (k : Core) (a : Nat) : (s.setCore c k).reg a = s.reg a := (rfl)
@[simp] theorem reg_modCore (s : State) (c : Nat) (f : Core → Core) (a : Nat) : (s.modCore c f).reg a = s.reg a := (rfl)
@[simp] theorem reg_modStrm (s : State) (c : Nat) (t : Strm) (f : StreamState → StreamState) (a : Nat) :
    (s.modStrm c t f).reg a = s.reg a := (rfl)
@[simp] theorem reg_emit (s : State) (m : OutMsg) (a : Nat) : (s.emit m).reg a = s.reg a := (rfl)
@[simp] theorem fld_setCore (s : State) (c : Nat) (k : Core) (a : Nat) (g : FieldPos) : (s.setCore c k).fld a g = s.fld a g := (rfl)
@[simp] theorem fld_modCore (s : State) (c : Nat) (f : Core → Core) (a : Nat) (g : FieldPos) :
    (s.modCore c f).fld a g = s.fld a g := (rfl)
@[simp] theorem fld_modStrm (s : State) (c : Nat) (t : Strm) (f : StreamState → StreamState) (a : Nat) (g : FieldPos) :
    (s.modStrm c t f).fld a g = s.fld a g := (rfl)

@[simp] theorem core_setReg (s : State) (a : Nat) (v : Word) (c : Nat) : (s.setReg a v).core c = s.core c := (rfl)
@[simp] theorem core_setFld (s : State) (a : Nat) (f : FieldPos) (v : Nat) (c : Nat) : (s.setFld a f v).core c = s.core c := (rfl)
@[simp] theorem strm_setReg (s : State) (a : Nat) (v : Word) (c : Nat) (t : Strm) : (s.setReg a v).strm c t = s.strm c t := (rfl)
@[simp] theorem strm_setFld (s : State) (a : Nat) (f : FieldPos) (v : Nat) (c : Nat) (t : Strm) :
    (s.setFld a f v).strm c t = s.strm c t := (rfl)

@[simp] theorem core_setCore_self (s : State) (c : Nat) (k : Core) : (s.setCore c k).core c = k := by
  simp [State.core, State.setCore]

theorem core_setCore_ne (s : State) {c d : Nat} (k : Core) (h : d ≠ c) : (s.setCore c k).core d = s.core d := by
  simp [State.core, State.setCore, mget_mset_ne _ _ _ _ _ h]

@[simp] theorem core_modCore_self (s : State) (c : Nat) (f : Core → Core) : (s.modCore c f).core c = f (s.core c) := by
  simp [State.modCore]

theorem core_modCore_ne (s : State) {c d : Nat} (f : Core → Core) (h : d ≠ c) : (s.modCore c f).core d = s.core d :=
  core_setCore_ne s _ h

theorem core_modStrm_ne (s : State) {c d : Nat} (t : Strm) (f : StreamState → StreamState) (h : d ≠ c) :
    (s.modStrm c t f).core d = s.core d := core_setCore_ne s _ h

@[simp] theorem strm_setStrm_self (k : Core) (t : Strm) (x : StreamState) : (k.setStrm t x).strm t = x := by
  cases t <;> rfl

theorem strm_setStrm_ne (k : Core) {t u : Strm} (x : StreamState) (h : u ≠ t) : (k.setStrm t x).strm u = k.strm u := by
  cases t <;> cases u <;> first | rfl | exact absurd rfl h

@[simp] theorem strm_modStrm_self (s : State) (c : Nat) (t : Strm) (f : StreamState → StreamState) :
    (s.modStrm c t f).strm c t = f (s.strm c t) := by
  simp [State.modStrm, State.strm]

theorem strm_modStrm_ne (s : State) (c : Nat) {t u : Strm} (f : StreamState → StreamState) (h : u ≠ t) :
    (s.modStrm c t f).strm c u = s.strm c u := by
  simp [State.modStrm, State.strm, strm_setStrm_ne _ _ h]

/-- A stream's update leaves everything else of its core alone. -/
theorem core_modStrm_units (s : State) (c : Nat) (t : Strm) (f : StreamState → StreamState) :
    ((s.modStrm c t f).core c).units = (s.core c).units ∧ ((s.modStrm c t f).core c).flights = (s.core c).flights
      ∧ ((s.modStrm c t f).core c).pred = (s.core c).pred ∧ ((s.modStrm c t f).core c).queues = (s.core c).queues
      ∧ ((s.modStrm c t f).core c).acc = (s.core c).acc ∧ ((s.modStrm c t f).core c).engine = (s.core c).engine
      ∧ ((s.modStrm c t f).core c).nextIid = (s.core c).nextIid := by
  simp only [State.modStrm, core_modCore_self]
  cases t <;> exact ⟨rfl, rfl, rfl, rfl, rfl, rfl, rfl⟩

end Sys2Proof.Machine
end

