-- ==== Sys2Proof/Laws/Pump.lean ====
section
/-! SUPPORT. Where a core can move nothing, letting it go on changes nothing. -/

namespace Sys2Proof.Machine

open Sys2Proof

theorem pumpLoop_of_rest {s : State} {c : Nat} (h : coreStep s c = none) (n : Nat) : pumpLoop c n s = s := by
  cases n with
  | zero => rfl
  | succ n => simp [pumpLoop, h]

theorem pump_of_rest {s : State} {c : Nat} (ht : s.tidy c = s) (h : coreStep s c = none) : s.pump c = s := by
  rw [State.pump, ht, pumpLoop_of_rest h]

theorem calm_parts {s : State} {c : Nat} (h : s.coreCalm c = true) :
    (s.core c).units = [] ∧ (s.core c).pred = none ∧ (s.core c).a.hold.settled = true
      ∧ (s.core c).e.hold.settled = true ∧ (s.core c).a.stepping = false ∧ (s.core c).e.stepping = false
      ∧ s.flag (Reg.ARRAY_STAT c) Fld.ARRAY_STAT_BUSY = false ∧ s.flag (Reg.CB_CFG c) Fld.CB_CFG_EN = false
      ∧ (s.core c).disarmAt = none := by
  simp only [State.coreCalm, Bool.and_eq_true, List.isEmpty_iff, Option.isNone_iff_eq_none, Bool.not_eq_true'] at h
  obtain ⟨⟨⟨⟨⟨⟨⟨⟨h1, h3⟩, h4⟩, h5⟩, h6⟩, h7⟩, h8⟩, h9⟩, h10⟩ := h
  exact ⟨h1, h3, h4, h5, h6, h7, h8, h9, h10⟩

theorem still_parts {s : State} {c : Nat} (h : s.coreStill c = true) :
    s.coreCalm c = true ∧ (s.core c).flights = [] ∧ (s.core c).feeds = [] := by
  simpa only [State.coreStill, Bool.and_eq_true, List.isEmpty_iff, and_assoc] using h

/-- What a core is calm by depends on its units, its streams' holds, and two of its registers. -/
theorem calm_of {s t : State} {c : Nat} (h : s.coreCalm c = true) (hc : (t.core c).units = (s.core c).units)
    (hp : (t.core c).pred = (s.core c).pred) (ha : (t.core c).a.hold.settled = true)
    (he : (t.core c).e.hold.settled = true) (ha' : (t.core c).a.stepping = (s.core c).a.stepping)
    (he' : (t.core c).e.stepping = (s.core c).e.stepping) (h1 : t.reg (Reg.ARRAY_STAT c) = s.reg (Reg.ARRAY_STAT c))
    (h2 : t.reg (Reg.CB_CFG c) = s.reg (Reg.CB_CFG c)) (hd : (t.core c).disarmAt = (s.core c).disarmAt) :
    t.coreCalm c = true := by
  obtain ⟨a1, a3, a4, a5, a6, a7, a8, a9, a10⟩ := calm_parts h
  simp only [State.flag, State.fld, bne_eq_false_iff_eq] at a8 a9
  simp [State.coreCalm, hc, hp, ha, he, ha', he', a1, a3, a6, a7, State.flag, State.fld, h1, h2, a8, a9, hd, a10]

/-- What has come back leaves a core's flights; nothing else changes. -/
theorem tidyFlights_cases (s : State) (c : Nat) :
    s.tidyFlights c = s ∨ ∃ fs : List Flight → List Flight,
      s.tidyFlights c = s.modCore c fun k => { k with flights := fs k.flights } := by
  unfold State.tidyFlights
  dsimp only
  split <;> split <;> first
    | exact .inl rfl
    | exact .inr ⟨_, rfl⟩

theorem tidyFlights_calm {s : State} {c : Nat} (h : s.coreCalm c = true) : (s.tidyFlights c).coreCalm c = true := by
  obtain ⟨-, -, h4, h5, -⟩ := calm_parts h
  rcases tidyFlights_cases s c with e | ⟨fs, e⟩
  · rw [e]; exact h
  · rw [e]; apply calm_of h <;> simp [h4, h5]

/-- Of a calm core only what has come back leaves the flights. -/
theorem tidy_of_calm {s : State} {c : Nat} (h : s.coreCalm c = true) : s.tidy c = s.tidyFlights c := by
  obtain ⟨h1, -, -, -, h6, h7, h8, h9, h3⟩ := calm_parts (tidyFlights_calm h)
  unfold State.tidy
  generalize s.tidyFlights c = u at *
  have e2 : u.tidyPred c = u := by simp [State.tidyPred, h3]
  have e3 : u.showArray c false = u := by simp [State.showArray, State.unit, h1, h8]
  have e4 : u.epochs c = u := by simp [State.epochs, h9]
  have e5 : u.tidyStep c .access = u := by simp [State.tidyStep, State.strm, Core.strm, h6]
  have e6 : u.tidyStep c .execute = u := by simp [State.tidyStep, State.strm, Core.strm, h7]
  rw [e2, e3, e4, e5, e6]

theorem tidy_of_still {s : State} {c : Nat} (h : s.coreStill c = true) : s.tidy c = s := by
  rw [tidy_of_calm (still_parts h).1]
  simp [State.tidyFlights, (still_parts h).2.1]

theorem strmStep_of_settled {s : State} {c : Nat} {t : Strm} (h : (s.strm c t).hold.settled = true) :
    strmStep s c t = none := by
  unfold strmStep
  cases hh : (s.strm c t).hold <;> simp_all [Hold.settled]

theorem coreStep_of_calm {s : State} {c : Nat} (h : s.coreCalm c = true) : coreStep s c = none := by
  obtain ⟨h1, -, h4, h5, -⟩ := calm_parts h
  have hu : ∀ u, unitStep s c u = none := fun u => by simp [unitStep, State.unit, h1]
  have ha : strmStep s c .access = none := strmStep_of_settled h4
  have he : strmStep s c .execute = none := strmStep_of_settled h5
  simp [coreStep, List.findSome?_eq_none_iff.mpr (fun u _ => hu u), ha, he]

/-- A calm core stays as it is, but for the flights that have come back. -/
theorem pump_of_calm {s : State} {c : Nat} (h : s.coreCalm c = true) : s.pump c = s.tidyFlights c := by
  rw [State.pump, tidy_of_calm h, pumpLoop_of_rest (coreStep_of_calm (tidyFlights_calm h))]

/-- A still core stays as it is. -/
theorem pump_of_still {s : State} {c : Nat} (h : s.coreStill c = true) : s.pump c = s :=
  pump_of_rest (tidy_of_still h) (coreStep_of_calm (still_parts h).1)

/-- Where every core is still, letting all of them go on changes nothing. -/
theorem pumpAll_of_still {s : State} (h : s.still = true) : s.pumpAll = s := by
  have hs : ∀ e ∈ s.cores, s.coreStill e.1 = true := by simpa [State.still, List.all_eq_true] using h
  have : ∀ l : SMap Core, (∀ e ∈ l, s.coreStill e.1 = true) → l.foldl (fun s e => s.pump e.1) s = s := by
    intro l
    induction l with
    | nil => intro _; rfl
    | cons e l ih =>
      intro hl
      rw [List.foldl_cons, pump_of_still (hl e (by simp))]
      exact ih fun x hx => hl x (by simp [hx])
  exact this _ fun e he => hs e (List.mem_filter.mp he).1

/-- A stream that may issue issues: the instruction's own effect, and then what goes on. -/
theorem issueInstr_of_ready {s : State} {c : Nat} {t : Strm} {op : Nat} {w : Body} (h : s.ready c t op w = true) :
    issueInstr s c t op w = (issueEffect s c t op w).pump c := by
  simp only [State.ready, Bool.and_eq_true, Bool.not_eq_true'] at h
  obtain ⟨⟨⟨⟨h1, h2⟩, h3⟩, h4⟩, -⟩ := h
  simp [issueInstr, h1, h2, h3, h4]

end Sys2Proof.Machine
end

