-- ==== Sys2Proof/Machine/Package.lean ====
section
/-! DEFINITION. The package: its ball map (R411–R416) and the limits of its supplies (R418, R419). It is one constant of
every grade; no command reads or changes it. -/

namespace Sys2Proof.Machine

/-- A supply rail, by die where each die has its own. -/
inductive Supply where
  | vcore (die : Nat)
  | vsram (die : Nat)
  | vhbmDd | vhbmDdq | vhbmPp | vlink | vlinkH | vpcie | vaon | vio18
  deriving DecidableEq, Repr

/-- A block of SerDes lanes: a Nirlo port, a reach port or the host port. -/
inductive Serdes where
  | nirlo (port : Nat)
  | reach (port : Nat)
  | host
  deriving DecidableEq, Repr

/-- What a ball carries. -/
inductive Ball where
  | vss
  | rsvd
  | supply (s : Supply)
  /-- A lane of a block: receive or transmit, negative or positive. -/
  | lane (b : Serdes) (rx : Bool) (l : Nat) (neg : Bool)
  /-- A management pin, by its name in R414. -/
  | pin (name : String)
  | pwm (die phase : Nat)
  | isen (die phase : Nat) (neg : Bool)
  | vsns (die : Nat) (neg : Bool)
  deriving DecidableEq, Repr

/-- The quadrant of a ball, and its row and column in Q0 orientation (R411). -/
def ballPlace (r c : Nat) : Nat × Nat × Nat :=
  ((if 48 < r then 2 else 0) + (if 48 < c then 1 else 0), if 48 < r then 97 - r else r, if 48 < c then 97 - c else c)

/-- A position of a SerDes block of `n` lanes: `i` inward from the edge, `j` along it (R413). -/
def serdesBall (b : Serdes) (n i j : Nat) : Ball :=
  if i % 2 = 1 then .vss
  else .lane b (decide (n / 4 ≤ i / 2)) (4 * (i / 2 % (n / 4)) + j / 2) (j % 2 == 1)

/-- Rows 2, 4, 6 and 8 of the management corner, from column 2 (R414). -/
def mgmtPins : List (List String) :=
  [["XA_IN", "XA_OUT", "XB_IN", "XB_OUT", "PROFILE_SEL", "RST_N", "PERST_N"],
   ["PCIE_REFCLK_P", "PCIE_REFCLK_N", "THERMTRIP_N", "ALERT_N", "PMB_SCL", "PMB_SDA", "I3C_SCL"],
   ["I3C_SDA", "UART_TX", "UART_RX", "QSPI_CS_N", "QSPI_CLK", "QSPI_D0", "QSPI_D1"],
   ["QSPI_D2", "QSPI_D3", "TCK", "TMS", "TDI", "TDO", "TRST_N"]]

/-- The corner: management pins on Q0, reserved balls in its mirrors (R412, R414). -/
def cornerBall (q r c : Nat) : Ball :=
  if q = 0 then
    if r % 2 = 0 ∧ 2 ≤ c then
      match (mgmtPins.getD (r / 2 - 1) [])[c - 2]? with
      | some n => .pin n
      | none => .vss
    else .vss
  else if r ≤ 2 ∧ 3 ≤ c then .rsvd else .vss

/-- The regulator block (R415). -/
def regulatorBall (q r c : Nat) : Ball :=
  let pp := r - 9 + 8 * ((c - 9) / 3)
  if c = 18 then (if r = 9 then .vsns q false else if r = 10 then .vsns q true else .vss)
  else
    match (c - 9) % 3 with
    | 0 => .pwm q pp
    | 1 => .isen q pp false
    | _ => .isen q pp true

/-- A position of the band: no block of R412 holds it. -/
def inBand (q r c : Nat) : Bool :=
  !(decide (r ≤ 8 ∧ c ≤ 40) || decide (c ≤ 8 ∧ r ≤ 40) || decide (r ≤ 16 ∧ 41 ≤ c) || decide (q = 0 ∧ c ≤ 16 ∧ 41 ≤ r)
    || decide (9 ≤ r ∧ r ≤ 16 ∧ 9 ≤ c ∧ c ≤ 18) || decide (17 ≤ r ∧ 17 ≤ c))

/-- How many band positions come before one, in ascending row, then ascending column (R416). -/
def bandIndex (q r c : Nat) : Nat :=
  (((List.range (r - 1)).map fun i => ((List.range 48).filter fun j => inBand q (i + 1) (j + 1)).length).sum)
    + ((List.range (c - 1)).filter fun j => inBand q r (j + 1)).length

/-- The band's supplies in order, and how many balls each has on die q (R416). -/
def bandSupplies (q : Nat) : List (Supply × Nat) :=
  [(.vsram q, 128), (.vhbmDd, 48), (.vhbmDdq, 40), (.vhbmPp, 6), (.vlink, 56), (.vlinkH, 28),
   (.vpcie, if q = 0 then 44 else 12), (.vaon, 6), (.vio18, if q = 0 then 8 else 0)]

/-- The supply of a band position, VSS past the last. -/
def bandPick : List (Supply × Nat) → Nat → Ball
  | [], _ => .vss
  | (s, n) :: rest, i => if i < n then .supply s else bandPick rest (i - n)

/-- What ball rrr-ccc carries (R411–R416). The centre's parity is taken in Q0 orientation, as every position of R412 is.
DEDUCED: log entry 113. -/
def ballOf (row col : Nat) : Option Ball :=
  if row < 1 ∨ 96 < row ∨ col < 1 ∨ 96 < col then none
  else
    let (q, r, c) := ballPlace row col
    some
      (if r ≤ 8 ∧ c ≤ 8 then cornerBall q r c
      else if c ≤ 8 ∧ r ≤ 40 then serdesBall (.nirlo (8 * q + (r - 9) / 8)) 8 (c - 1) ((r - 9) % 8)
      else if r ≤ 8 ∧ c ≤ 40 then serdesBall (.nirlo (8 * q + 4 + (c - 9) / 8)) 8 (r - 1) ((c - 9) % 8)
      else if r ≤ 16 ∧ 41 ≤ c then serdesBall (.reach q) 16 (r - 1) (c - 41)
      else if q = 0 ∧ c ≤ 16 ∧ 41 ≤ r then serdesBall .host 16 (c - 1) (r - 41)
      else if 9 ≤ r ∧ r ≤ 16 ∧ 9 ≤ c ∧ c ≤ 18 then regulatorBall q r c
      else if 17 ≤ r ∧ 17 ≤ c then (if (r + c) % 2 = 0 then .supply (.vcore q) else .vss)
      else bandPick (bandSupplies q) (bandIndex q r c))

/-- Absolute maximum ratings of a supply, in millivolts (R418). -/
def Supply.absMax : Supply → Int × Int
  | .vcore _ | .vsram _ | .vlink | .vpcie | .vaon => (-300, 950)
  | .vhbmDd => (-300, 1260)
  | .vhbmDdq => (-300, 550)
  | .vhbmPp | .vio18 => (-300, 2100)
  | .vlinkH => (-300, 1400)

/-- Operating value of a supply, least and most, in millivolts, and its continuous and 10 ms currents in units of 0.1 A
(R419). -/
def Supply.operating : Supply → (Nat × Nat) × Nat × Nat
  | .vcore _ => ((550, 850), 4500, 5400)
  | .vsram _ => ((700, 800), 1200, 1400)
  | .vhbmDd => ((1100, 1100), 1700, 1900)
  | .vhbmDdq => ((400, 400), 1300, 1500)
  | .vhbmPp => ((1800, 1800), 140, 160)
  | .vlink => ((750, 750), 2100, 2300)
  | .vlinkH => ((1200, 1200), 950, 1050)
  | .vpcie => ((750, 750), 650, 700)
  | .vaon => ((750, 750), 180, 200)
  | .vio18 => ((1800, 1800), 8, 10)

end Sys2Proof.Machine
end

