-- ==== Sys2Proof/Tests/Slice0.lean ====
section
/-! SUPPORT. Tests: what WellFormed refuses, and states that meet the hypotheses of each statement, clause by clause. The
values are hand calculations from the rules that the statements cite. `_first` and `_second` (or a command) name the parts of a
statement. -/

namespace Sys2Proof.Tests

open Sys2Proof Sys2Proof.Machine

/-! States. -/

/-- A result is a value and no error. -/
def isOk {α : Type} [DecidableEq α] (x : Except AccErr α) (a : α) : Bool :=
  match x with
  | .ok b => decide (b = a)
  | .error _ => false

theorem eq_ok {α : Type} [DecidableEq α] {x : Except AccErr α} {a : α} (h : isOk x a = true) : x = .ok a := by
  cases x <;> simp_all [isOk]

/-- An instruction's bits from its fields: low bit and value. -/
def body (fs : List (Nat × Nat)) : Body := BitVec.ofNat 122 (fs.foldl (fun v f => v + f.2 * 2 ^ f.1) 0)

/-- Fields of registers set one after the other. -/
def put (s : State) (fs : List (Nat × FieldPos × Nat)) : State := fs.foldl (fun s f => s.setFld f.1 f.2.1 f.2.2) s

/-- A started part with every core enabled: its clocks run, partition 0 owns island 0 (cores 0–7 of rows 0–3), a pseudo-channel and a port; core 0
reaches stack 0 by the stop at its own router (R204). -/
def up : State :=
  let s := { State.reset with regs := [], disabled := [], islOwner := [(0, 0)], pcOwner := [(0, 0)], portOwner := [(0, 0)] }
  let s := ((s.setReg Reg.CLK_EN_ISL (BitVec.allOnes 64)).setReg Reg.CLK_EN_UNC 0xFFFF_FFFF).setReg (Reg.MR_NEXT 0 291) 0x5FFF_FFFF
  put s [(Reg.CLK_STAT, Fld.CLK_STAT_PLL_LOCK, 0xFFFF), (Reg.CLK_STAT, Fld.CLK_STAT_XA_OK, 1),
    (Reg.CLK_STAT, Fld.CLK_STAT_XB_OK, 1), (Reg.RST_STAT, Fld.RST_STAT_STARTED, 1), (Reg.PART_STAT 0, Fld.PART_STAT_STATE, 1),
    (Reg.STEP_CTL, Fld.STEP_CTL_ROLE, 0)]

/-- Both streams of core 0 run, at index `i`. -/
def runAt (i : Nat) : State :=
  put up [(Reg.STRM_STAT 0 0, Fld.STRM_STAT_STATE, 1), (Reg.STRM_STAT 0 1, Fld.STRM_STAT_STATE, 1),
    (Reg.STRM_STAT 0 0, Fld.STRM_STAT_INDEX, i), (Reg.STRM_STAT 0 1, Fld.STRM_STAT_INDEX, i)]

/-- As `runAt`, with one word of the access stream's bank 0. -/
def withWord (i k : Nat) (op : Nat) (w : Body) : State :=
  (runAt i).modStrm 0 .access fun x => { x with imem := mset x.imem k (BitVec.ofNat 128 (op * 2 ^ 122 + w.toNat)) }

/-! The streams' own instructions. -/

theorem meets_StepRunsFrontCommand : ({ up with pending := [.tapReset] } : State).pending = .tapReset :: [] := by decide

theorem meets_EmptyQueueTicks : up.pending = [] ∧ up.fld Reg.CLK_STAT Fld.CLK_STAT_PLL_LOCK / 2 ^ 15 ≠ 0
    ∧ (put up [(Reg.CLK_STAT, Fld.CLK_STAT_PLL_LOCK, 0)]).fld Reg.CLK_STAT Fld.CLK_STAT_PLL_LOCK / 2 ^ 15 = 0 := by decide

/-- HALT with SWAP 1. -/
def swap : Body := body [(121, 1)]
def bankReadyAt : State := put (runAt 5) [(Reg.IMEM_LD_STAT 0 0, Fld.IMEM_LD_STAT_READY1, 1)]

theorem meets_HaltStopsSwapsOrWaits : (runAt 5).ready 0 .access 0x01 0 = true
    ∧ ((runAt 5).ready 0 .access 0x01 swap = true ∧ (runAt 5).bankReady 0 .access 1 = false)
    ∧ bankReadyAt.ready 0 .access 0x01 swap = true ∧ bankReadyAt.bankReady 0 .access 1 = true := by decide

/-- LOOP of `n` iterations to an ENDL at 7, with C2 as its index counter. -/
def loop3 : Body := body [(94, 3), (83, 7), (80, 2)]
def loop0 : Body := body [(83, 7), (80, 2)]
def loopBack : Body := body [(94, 3), (83, 5)]
def loopNoEnd : Body := body [(94, 3), (83, 6)]
def atLoop : State := withWord 5 7 0x03 0
/-- `n` loops are open, the innermost over 4 to `e` with two iterations left. -/
def open' (n e left ctr : Nat) : State :=
  (withWord 5 7 0x03 0).modStrm 0 .access fun x => { x with loops := List.replicate n ⟨4, e, left, ctr⟩ }

theorem meets_LoopsOpenBranchBackAndClose_first :
    (atLoop.ready 0 .access 0x02 loop3 = true ∧ atLoop.strmIndex 0 .access < bits loop3 93 83
      ∧ atLoop.opAt 0 .access 7 = 0x03 ∧ (atLoop.strm 0 .access).loops.length < 4)
    ∧ (atLoop.ready 0 .access 0x02 loop0 = true ∧ bits loop0 117 94 = 0)
    ∧ (atLoop.ready 0 .access 0x02 loopBack = true ∧ bits loopBack 93 83 ≤ atLoop.strmIndex 0 .access)
    ∧ (atLoop.ready 0 .access 0x02 loopNoEnd = true ∧ atLoop.opAt 0 .access 6 ≠ 0x03)
    ∧ (open' 4 7 2 0).ready 0 .access 0x02 loop3 = true ∧ 4 ≤ ((open' 4 7 2 0).strm 0 .access).loops.length := by decide

theorem meets_LoopsOpenBranchBackAndClose_second :
    ((runAt 5).ready 0 .access 0x03 0 = true ∧ ((runAt 5).strm 0 .access).loops = [])
    ∧ ((open' 1 5 2 3).ready 0 .access 0x03 0 = true ∧ (open' 1 5 2 3).strmIndex 0 .access = 5
      ∧ ((open' 1 5 2 3).strm 0 .access).loops = [⟨4, 5, 2, 3⟩])
    ∧ ((open' 1 5 1 3).ready 0 .access 0x03 0 = true ∧ ((open' 1 5 1 3).strm 0 .access).loops = [⟨4, 5, 1, 3⟩])
    ∧ (open' 1 7 2 0).ready 0 .access 0x03 0 = true ∧ ((open' 1 7 2 0).strm 0 .access).loops = [⟨4, 7, 2, 0⟩] := by decide

def cset7 : Body := body [(118, 7), (0, 0xFFFF_FFFF)]
def csetSel : Body := body [(118, 7), (115, 1)]
def csetComp : Body := body [(118, 11), (115, 3), (112, 5), (0, 9)]
def csetRel6 : Body := body [(118, 8), (112, 6)]
def cset12 : Body := body [(118, 12)]

theorem meets_CountersAndComparators_cset :
    ((runAt 5).ready 0 .execute 0x04 cset7 = true ∧ bits cset7 121 118 = 7 ∧ bits cset7 117 115 = 0 ∧ bits cset7 114 112 = 0)
    ∧ ((runAt 5).ready 0 .execute 0x04 csetComp = true ∧ bits csetComp 121 118 = 11 ∧ bits csetComp 114 112 = 5)
    ∧ ((runAt 5).ready 0 .execute 0x04 csetSel = true ∧ bits csetSel 117 115 ≠ 0)
    ∧ ((runAt 5).ready 0 .execute 0x04 csetRel6 = true ∧ bits csetRel6 114 112 = 6)
    ∧ (runAt 5).ready 0 .execute 0x04 cset12 = true ∧ bits cset12 121 118 = 12 := by decide

def caddImm : Body := body [(119, 1), (0, 0xFFFF_FFFF)]
def caddSrc : Body := body [(119, 1), (118, 1), (115, 2)]
/-- C1 is 1 and C2 is 7 in both streams. -/
def counted : State :=
  ((((runAt 5).setReg (Reg.CNT 0 0 1) 1).setReg (Reg.CNT 0 0 2) 7).setReg (Reg.CNT 0 1 1) 1).setReg (Reg.CNT 0 1 2) 7

theorem meets_CountersAndComparators_cadd : (counted.ready 0 .access 0x05 caddImm = true ∧ bit1 caddImm 118 = false)
    ∧ counted.ready 0 .access 0x05 caddSrc = true ∧ bit1 caddSrc 118 = true := by decide

/-- C1 + 2^32 − 1 is 0 for C1 = 1 (R140). -/
theorem test_cadd_wraps : (match exec (.cadd 0 .access caddImm) counted with
    | .next t => t.cnt 0 .access 1 == 0 && t.strmIndex 0 .access == 6
    | _ => false) = true := by decide

/-- Comparator 1: C1 against −1 by the relation. -/
def compared (rel : Nat) : State :=
  (put counted [(Reg.COMP_CFG 0 0, compSel 1, 1), (Reg.COMP_CFG 0 0, compRel 1, rel)]).setReg (Reg.COMP_REF 0 0 1) 0xFFFF_FFFF
def cmpb : Body := body [(120, 1), (108, 3)]

theorem meets_CountersAndComparators_cmpb :
    ((compared 2).ready 0 .access 0x06 cmpb = true ∧ (∀ k < 8, (compared 2).cnt 0 .access k < 2 ^ 32)
      ∧ (∀ k < 4, ((compared 2).reg (Reg.COMP_REF 0 0 k)).toNat < 2 ^ 32) ∧ comparatorIs (compared 2) 0 .access 1 true)
    ∧ ((compared 4).ready 0 .access 0x06 cmpb = true ∧ comparatorIs (compared 4) 0 .access 1 false)
    ∧ (compared 6).ready 0 .access 0x06 cmpb = true ∧ 6 ≤ (compared 6).fld (Reg.COMP_CFG 0 0) (compRel 1) := by
  refine ⟨⟨by decide, by decide, by decide, ?_⟩, ⟨by decide, ?_⟩, by decide, by decide⟩
  · show true = decide _; decide
  · show false = decide _; decide

/-- Queue 1 holds a sector. -/
def queued (q : Nat) (l : List Sector) : State := (runAt 5).qPush 0 q l
def syncq01 : Body := body [(118, 3)]
def syncq0 : Body := body [(118, 1)]

theorem meets_SyncqWaitsForQueues :
    ((queued 1 [7]).ready 0 .access 0x17 syncq0 = true ∧ bit1 syncq0 118 = true ∧ (queued 1 [7]).queue 0 0 = [])
    ∧ (queued 1 [7]).ready 0 .access 0x17 syncq01 = true ∧ bit1 syncq01 119 = true ∧ (queued 1 [7]).queue 0 1 ≠ [] := by decide

/-! Pennants and hoists. -/

def sigUp : Body := body [(108, 63), (86, 5)]
def sigShared : Body := body [(120, 1), (108, 9), (86, 5)]
def sigRemote : Body := body [(120, 2), (108, 9), (103, 4), (86, 5)]
/-- Pennant 9 of context 0 is pennant 3 of die 1. -/
def pennants : State :=
  (put (runAt 5) [(Reg.PEN_XLT 0 9, Fld.PEN_XLT_VALID, 1), (Reg.PEN_XLT 0 9, Fld.PEN_XLT_DIE, 1),
    (Reg.PEN_XLT 0 9, Fld.PEN_XLT_INDEX, 3), (Reg.PEN_CFG 1 3, Fld.PEN_CFG_ALLOC, 1), (Reg.SEQ 0 2, Fld.SEQ_VALID, 1),
    (Reg.SEQ 0 2, Fld.SEQ_WSEQ, 44), (Reg.LPEN_STAT 0 7, Fld.LPEN_STAT_KIND, 1), (Reg.LPEN_VAL 0 7, Fld.LPEN_VAL_VALUE, 3)])

theorem meets_SigAndWaitActOnPennants_first :
    ((runAt 5).ready 0 .access 0x07 sigUp = true ∧ (runAt 5).earlierDone 0 .access = true ∧ bits sigUp 121 120 = 0
      ∧ bits sigUp 119 108 < 64 ∧ (runAt 5).penTable = [] ∧ (runAt 5).penMsgs = [] ∧ penApply false 0 0 5 = .ok 5)
    ∧ (pennants.ready 0 .access 0x07 sigShared = true ∧ bits sigShared 121 120 = 1
      ∧ pennants.penTranslate (pennants.coreCtx 0) 9 = some (8192 + 3))
    ∧ pennants.ready 0 .access 0x07 sigRemote = true ∧ bits sigRemote 121 120 = 2
      ∧ pennants.ptrAddr 0 .access 4 % 32 = 0 ∧ pennants.ptrDev 0 .access 4 = pennants.rank ∧ pennants.seqEntry 0 0 = some 2 := by
  refine ⟨⟨?_, ?_, ?_, ?_, ?_, ?_, rfl⟩, ?_, ?_⟩ <;> decide

def wait0 (v : Nat) : Body := body [(108, 63), (0, v)]
def wait2 (v : Nat) : Body := body [(108, 7), (94, 2), (0, v)]

theorem meets_SigAndWaitActOnPennants_second :
    ((runAt 5).ready 0 .execute 0x08 (wait0 0) = true ∧ (runAt 5).ready 0 .execute 0x08 (wait0 1) = true
      ∧ bits (wait0 1) 121 120 = 0 ∧ bits (wait0 1) 119 108 < 64 ∧ bits (wait0 1) 95 94 = 0
      ∧ (runAt 5).penVal (localKey 0 63) = 0)
    ∧ pennants.ready 0 .execute 0x08 (wait2 3) = true ∧ pennants.ready 0 .execute 0x08 (wait2 4) = true
      ∧ bits (wait2 4) 95 94 = 2 ∧ pennants.penCounting (localKey 0 7) = true ∧ pennants.penVal (localKey 0 7) = 3
      ∧ pennants.penTable = [] ∧ pennants.penMsgs = [] ∧ bits (wait2 4) 47 0 < 2 ^ 32 := by decide

/-- Hoist 5 of context 0 is hoist 6 of die 0, and binding 3 of the access stream of core 0 takes it. -/
def hoists (wait round : Nat) : State :=
  put (runAt 5) [(Reg.HST_XLT 0 5, Fld.HST_XLT_VALID, 1), (Reg.HST_XLT 0 5, Fld.HST_XLT_INDEX, 6),
    (hstBase 6, Fld.HST_CFG_ALLOC, 1), (hstBase 6, Fld.HST_CFG_COUNT, 2), (Reg.HBIND 0 0 3, Fld.HBIND_VALID, 1),
    (Reg.HBIND 0 0 3, Fld.HBIND_HID, 5), (Reg.HBIND 0 0 3, Fld.HBIND_WAIT, wait), (Reg.HBIND 0 0 3, Fld.HBIND_ROUND, round)]
def hoist5 : Body := body [(113, 5)]
/-- The fill and copy engine of core 0 writes 5 into three sectors at 0x1000, and has written one of them. -/
def filling : EngineJob := ⟨9, 5, 0, none, ⟨spadAddr 0 0x1000, 3, 1, 1, 1, 32, 0, 0, 0, false⟩, 5, 1⟩
def engineBusy (s : State) : State := s.modCore 0 fun k => { k with engine := some filling }

theorem meets_HoistArrives :
    ((hoists 1 0).ready 0 .access 0x16 hoist5 = true ∧ bit1 hoist5 121 = false
      ∧ (hoists 1 0).hoistBinding 0 .access false 5 = some (Reg.HBIND 0 0 3)
      ∧ (hoists 1 0).hoistTranslate ((hoists 1 0).coreCtx 0) false 5 = some 6 ∧ (hoists 1 0).earlierDone 0 .access = true
      ∧ roundBlocked 0 ((hoists 1 0).hoistDone 6) = false ∧ (hoists 1 0).flag (Reg.HBIND 0 0 3) Fld.HBIND_WAIT = true)
    ∧ ((hoists 0 1).ready 0 .access 0x16 hoist5 = true ∧ (hoists 0 1).flag (Reg.HBIND 0 0 3) Fld.HBIND_WAIT = false)
    ∧ ((hoists 0 2).ready 0 .access 0x16 hoist5 = true ∧ roundBlocked 2 ((hoists 0 2).hoistDone 6) = true)
    ∧ (engineBusy (hoists 0 1)).ready 0 .access 0x16 hoist5 = true ∧ (engineBusy (hoists 0 1)).earlierDone 0 .access = false := by
  decide

/-! Moves and execute instructions. -/

/-- A descriptor of two dimensions: counts `c0`, `c1` and strides `s0`, `s1` (R151). -/
def descWord (base c0 c1 s0 s1 : Nat) : Sector :=
  BitVec.ofNat 256 (base + (c0 - 1) * 2 ^ 48 + s0 * 2 ^ 64 + (c1 - 1) * 2 ^ 112 + s1 * 2 ^ 128)

/-- Core 0 with bytes in its scratchpad and five descriptors in both streams: 0 three sectors at 0x100; 1 three at 0x1000, 64 B
apart; 2 two sectors of near memory; 3 rows of two sectors at 0x100; 4 a sector of indices 3 and 1 at 0x2000. -/
def moves : State :=
  let ds : SMap Sector := [(0, descWord (spadAddr 0 0x100) 3 1 32 0), (1, descWord (spadAddr 0 0x1000) 3 1 64 0),
    (2, descWord 0 2 1 32 0), (3, descWord (spadAddr 0 0x100) 2 4 32 64), (4, descWord (spadAddr 0 0x2000) 1 1 0 0)]
  let s := (runAt 5).modStrm 0 .access fun x => { x with descs := ds, ptrs := [(4, 0x0003_0000_0000_0040)] }
  let s := s.modStrm 0 .execute fun x => { x with descs := ds }
  { (put s [(Reg.NEAR_SET_CFG 0, Fld.NEAR_SET_CFG_VALID, 1), (Reg.SEQ 0 2, Fld.SEQ_VALID, 1), (Reg.SEQ 0 2, Fld.SEQ_DEV, 3)]) with
    spad := [(0x100, 1), (0x120, 2), (0x13F, 3), (0x140, 4), (0x1C1, 9), (0x2000, 3), (0x2004, 1)] }

def ldq0 : Body := body []
def ldqNear : Body := body [(117, 2)]
def ldx : Body := body [(117, 4), (112, 3), (107, 2), (75, 2)]
def stq1 : Body := body [(117, 1), (113, 1)]
def fill1 : Body := body [(117, 1), (0, 0xDEAD_BEEF)]
def copy01 : Body := body [(117, 0), (109, 1)]
def send0 : Body := body [(116, 0), (108, 4), (103, 1)]

theorem meets_LdqAndLdxFillQueues_first :
    (moves.ready 0 .access 0x10 ldq0 = true ∧ (moves.core 0).groups = [] ∧ fmtPlain (bits ldq0 111 108) (bits ldq0 107 104) = true
      ∧ moveFmtOk (bits ldq0 111 108) (bits ldq0 107 104) true = true ∧ moves.checkDesc 0 .access (moves.desc 0 .access 0 0) = .ok ()
      ∧ (moves.desc 0 .access 0 0).total ≤ moves.qSpace 0 0 ∧ moves.queue 0 0 = [] ∧ moves.spadOpen 0 = true
      ∧ ∀ i < 3, ownSector 0 ((moves.desc 0 .access 0 0).sector i) = true)
    ∧ moves.ready 0 .access 0x10 ldqNear = true ∧ moves.checkDesc 0 .access (moves.desc 0 .access 2 0) = .ok ()
      ∧ (moves.desc 0 .access 2 0).total = 2
      ∧ moves.readIn 0 ((moves.desc 0 .access 2 0).sector 0) = .ok (⟨.near, 0, 0⟩, none)
      ∧ moves.readIn 0 ((moves.desc 0 .access 2 0).sector 1) = .ok (⟨.near, 32, 32⟩, none) := by
  refine ⟨⟨?_, ?_, ?_, ?_, rfl, ?_, ?_, ?_, ?_⟩, ?_, rfl, ?_, eq_ok ?_, eq_ok ?_⟩ <;> decide +kernel

theorem meets_LdqAndLdxFillQueues_second :
    moves.ready 0 .access 0x11 ldx = true ∧ fmtPlain (bits ldx 106 103) (bits ldx 102 99) = true
    ∧ moveFmtOk (bits ldx 106 103) (bits ldx 102 99) false = true
    ∧ (let x := moves.desc 0 .access (bits ldx 121 117) (bits ldx 111 109)
       let d := moves.desc 0 .access (bits ldx 116 112) 0
       moves.checkDesc 0 .access x = .ok () ∧ moves.checkDesc 0 .access d = .ok () ∧ d.c2 = 1 ∧ d.c3 = 1
       ∧ bits ldx 98 75 ≤ x.total * 8 ∧ bits ldx 98 75 * d.c0 ≤ moves.qSpace 0 (bits ldx 108 107)
       ∧ moves.queue 0 (bits ldx 108 107) = [] ∧ (∀ i < 1, ownSector 0 (x.sector i) = true)
       ∧ ∀ n < 4, ldxIndex moves x d n < d.c1 ∧ ownSector 0 (ldxPlace moves x d n) = true) := by
  refine ⟨by decide, by decide, by decide, rfl, rfl, ?_⟩; decide

def stqState : State := moves.qPush 0 5 [7, 8, 9]

theorem meets_StqStoresQueueSectors :
    stqState.ready 0 .access 0x12 stq1 = true ∧ Memory.wf stqState.spad = true ∧ mwf (stqState.core 0).queues = true
    ∧ fmtPlain (bits stq1 112 109) (bits stq1 108 105) = true ∧ moveFmtOk (bits stq1 112 109) (bits stq1 108 105) false = true
    ∧ (let d := stqState.desc 0 .access (bits stq1 121 117) (bits stq1 116 114)
       stqState.checkDesc 0 .access d = .ok () ∧ stqState.spadOpen 0 = true ∧ (∀ i < 3, ownSector 0 (d.sector i) = true)
       ∧ d.total * fmtBits (bits stq1 112 109) % fmtBits (bits stq1 108 105) = 0
       ∧ (∀ m < 3, ∀ n < 3, d.sector m = d.sector n → m = n) ∧ stqState.qReady 0 5 d.total = [7, 8, 9]) := by
  refine ⟨by decide, by decide, by decide, by decide, by decide, rfl, ?_⟩; decide

theorem meets_FillAndCopyWriteTheirSectors_first :
    (moves.ready 0 .access 0x13 fill1 = true ∧ (moves.core 0).engine = none
      ∧ moves.checkDesc 0 .access (moves.desc 0 .access (bits fill1 121 117) (bits fill1 116 114)) = .ok ()
      ∧ ownDesc 0 (moves.desc 0 .access (bits fill1 121 117) (bits fill1 116 114)) = true)
    ∧ moves.ready 0 .access 0x14 copy01 = true
    ∧ (let x := moves.desc 0 .access (bits copy01 121 117) (bits copy01 116 114)
       let d := moves.desc 0 .access (bits copy01 113 109) (bits copy01 108 106)
       moves.checkDesc 0 .access x = .ok () ∧ moves.checkDesc 0 .access d = .ok () ∧ x.total = d.total ∧ ownDesc 0 x = true
       ∧ ownDesc 0 d = true) := by
  refine ⟨⟨by decide, by decide, rfl, by decide⟩, by decide, rfl, rfl, by decide⟩

/-- The engine copies the three sectors at 0x100 to 0x1000 and on, 64 B apart. -/
def copying : EngineJob := { filling with src := some (moves.desc 0 .access 0 0), dst := moves.desc 0 .access 1 0, pos := 0 }
def engineCopies : State := moves.modCore 0 fun k => { k with engine := some copying }

theorem meets_FillAndCopyWriteTheirSectors_second :
    (((engineBusy moves).core 0).engine = some filling ∧ (engineBusy moves).coreCalm 0 = true ∧ Memory.wf moves.spad = true
      ∧ (engineBusy moves).spadOpen 0 = true ∧ (∀ i < 3, ownSector 0 (filling.dst.sector i) = true) ∧ filling.dst.total = 3
      ∧ filling.src = none)
    ∧ (engineCopies.core 0).engine = some copying ∧ engineCopies.coreCalm 0 = true ∧ copying.dst.total = 3
      ∧ (∀ i < 3, ownSector 0 (copying.dst.sector i) = true ∧ ownSector 0 ((moves.desc 0 .access 0 0).sector i) = true)
      ∧ ∀ m < 3, ∀ n < 3, (moves.desc 0 .access 0 0).sector m ≠ copying.dst.sector n
        ∧ (copying.dst.sector m = copying.dst.sector n → m = n) := by decide +kernel

theorem meets_SendLeavesAsMessage :
    moves.ready 0 .access 0x15 send0 = true ∧ bit1 send0 121 = false ∧ bits send0 90 75 = 0 ∧ bits send0 104 103 = 1
    ∧ (let x := moves.desc 0 .access (bits send0 120 116) (bits send0 115 113)
       moves.checkDesc 0 .access x = .ok () ∧ moves.ptrAddr 0 .access 4 % 32 = 0 ∧ moves.ptrDev 0 .access 4 ≠ moves.rank
       ∧ moves.seqEntry 0 3 = some 2 ∧ moves.sendRouted 0 3 = true ∧ (∀ i < 3, ownSector 0 (x.sector i) = true) ∧ x.total ≤ 64) := by
  refine ⟨by decide, by decide, by decide, by decide, rfl, ?_⟩; decide +kernel

/-- COPY moves the three sectors to 64-B places and leaves the source (R175). -/
theorem test_copy : (match exec (.fillCopyEngineDone 0) engineCopies with
    | .next t => memGet t.spad 0x1000 == 1 && memGet t.spad 0x1040 == 2 && memGet t.spad 0x105F == 3 && memGet t.spad 0x1080 == 4
        && memGet t.spad 0x100 == 1
    | _ => false) = true := by decide +kernel

def bits64 (fs : List (Nat × Nat)) : Nat := fs.foldl (fun v p => v + p.2 * 2 ^ p.1) 0

/-- As `moves`, with queue data, a strip set of two strips at 0x4000 (R38; strip 0 of one group of class 4 in bf16) and the
parameters of PRR, PRED and CMPR behind pointers 5 to 8 (R98, R116, R110), pointer 9 at 0xD000. -/
def arrays : State :=
  let q := ((moves.qPush 0 0 (List.replicate 16 0)).qPush 0 1 [0, 0]).qPush 0 2 [0, 0]
  let sp (o : Nat) := spadAddr 0 o
  let at' (m : Mem) (o n : Nat) (fs : List (Nat × Nat)) : Mem := memPut m o (natBytes (bits64 fs) n)
  let m := at' q.spad 0x4000 64 [(0, sp 0x4400), (64, sp 0x4800), (128, sp 0x5000), (192, sp 0x6000), (256, sp 0x7000), (448, 1),
    (452, 4), (472, 2)]
  let m := at' m 0x4400 32 [(52, 2), (45, 4), (32, 0), (0, 1)]
  let m := at' m 0x4100 32 [(64, sp 0x8000), (128, sp 0x9000)]
  let m := at' m 0x4140 64 [(0, sp 0xA000), (64, sp 0xB000), (128, sp 0xC000), (320, 1)]
  let m := at' m 0x41C0 32 [(96, 16), (76, 2), (72, 4), (69, 4)]
  { q with spad := m }.modStrm 0 .execute fun x => { x with
    ptrs := [(5, BitVec.ofNat 64 (sp 0x4000)), (6, BitVec.ofNat 64 (sp 0x4100)), (7, BitVec.ofNat 64 (sp 0x4140)),
      (8, BitVec.ofNat 64 (sp 0x41C0)), (9, BitVec.ofNat 64 (sp 0xD000))]
    descs := x.descs ++ [(5, descWord (spadAddr 0 0x100) 32 8 32 1024)] }

/-- A body of each execute instruction that runs to its end on `arrays`. -/
def executeBodies : List (Nat × Body) :=
  [(0x20, body [(117, 5), (90, 1), (28, 5)]), (0x21, body [(117, 5), (90, 1), (28, 5), (32, 1)]),
   (0x22, body [(117, 5), (116, 1), (35, 5), (28, 5), (3, 9), (2, 1)]), (0x23, body [(117, 5), (8, 9), (38, 5), (31, 5)]),
   (0x24, body [(117, 5), (61, 6)]), (0x25, body [(117, 7), (82, 5)]), (0x26, body []),
   (0x28, body [(118, 1), (96, 1), (45, 1), (30, 1), (24, 1), (2, 1)]), (0x29, body [(64, 1)]),
   (0x2A, body [(116, 1), (104, 1), (64, 1)]), (0x2B, body []), (0x2C, body []), (0x2D, body [(117, 5), (20, 1), (14, 8)])]

/-- Accepted at issue, ready, and run to its end. -/
def runsOn (s : State) (p : Nat × Body) : Bool :=
  s.ready 0 .execute p.1 p.2 && match unitOf p.1, execIssue s 0 p.1 p.2 with
    | some u, .ok j => (s.runsAlone 0 u (s.jobOf 0 j)).isSome
    | _, _ => false

theorem meets_AclrClearsColumnsOrSlots : (runAt 5).ready 0 .execute 0x26 (body [(121, 1)]) = true
    ∧ (runAt 5).ready 0 .execute 0x26 (body [(113, 200), (105, 55)]) = true
    ∧ ((runAt 5).ready 0 .execute 0x26 (body [(113, 200), (105, 56)]) = true)
    ∧ mwf ((runAt 5).core 0).acc = true ∧ mwf ((runAt 5).core 0).slots = true := by decide

theorem meets_ExecuteInstructionsRun : executeBodies.map (·.1) = executeInstrs.map (·.1)
    ∧ executeBodies.all (runsOn arrays) = true := by decide +kernel

/-! Events and commands of a core. -/

theorem meets_IssueRefusesWrongInstructions :
    ((0x01, Instr.halt) ∈ streamInstrs ∧ (runAt 5).canIssue 0 .access = true ∧ (runAt 5).coreStill 0 = true)
    ∧ (((runAt 5).modStrm 0 .access fun x => { x with pastEnd := true }).strm 0 .access).pastEnd = true
    ∧ (opAllowed 0x10 .execute = false) ∧ opAllowed 0x01 .access = true ∧ opReservedOk 0x01 1 = false := by
  refine ⟨⟨.head _, ?_⟩, ?_⟩ <;> decide

/-- An instruction that is done in unit `u` of core 0. -/
def doneIn (u : Nat) : State :=
  let s := (runAt 5).setUnit 0 u ⟨some { Job.mk0 0x26 0 with started := true, computed := true }, none⟩
  if u = 0 then put s [(Reg.ARRAY_STAT 0, Fld.ARRAY_STAT_BUSY, 1)] else s

theorem meets_UnitsEngineAndReturnsComplete_first :
    ((doneIn 0).unit 0 (unitNum .array) = ⟨some { Job.mk0 0x26 0 with started := true, computed := true }, none⟩
      ∧ (((doneIn 0).setUnit 0 0 ⟨none, none⟩).setFld (Reg.ARRAY_STAT 0) Fld.ARRAY_STAT_BUSY 0).coreStill 0 = true)
    ∧ ((doneIn 3).unit 0 (unitNum .compressor) = ⟨some { Job.mk0 0x26 0 with started := true, computed := true }, none⟩
      ∧ (((doneIn 3).setUnit 0 3 ⟨none, none⟩).setFld (Reg.ARRAY_STAT 0) Fld.ARRAY_STAT_BUSY 0).coreStill 0 = true
      ∧ (doneIn 3).flag (Reg.ARRAY_STAT 0) Fld.ARRAY_STAT_BUSY = false)
    ∧ ((engineBusy (runAt 5)).core 0).engine = some filling ∧ (engineBusy (runAt 5)).coreCalm 0 = true := by decide

/-- A load group of two sectors for queue 0 waits for sector `pos` of address 32·pos, the other being there when `have'`; the
request stands at `stage` on `path`, from core 0. -/
def loading (path : ReqPath) (addr pos : Nat) (stage : ReqStage) (have' : Bool) : State :=
  let s := (runAt 5).modCore 0 fun k => { k with
    queues := [(0, [.reserved 3, .reserved 3])]
    groups := [{ gid := 3, iid := 1, bank := 0, index := 4, q := 0, sfmt := 2, qfmt := 2, nData := 2, nElem := 0, nOut := 2,
                 nSrc := 2, scaleAt := [], got := if have' then [(0, 5)] else [] }] }
  { s with reqs := [⟨7, 0, 1, path, addr, false, false, .read 3 pos, stage, none⟩], nextId := 8 }
/-- As `loading`, for a write of a sector of ones in its low four bytes. -/
def storing (path : ReqPath) (addr : Nat) (stage : ReqStage) : State :=
  { runAt 5 with reqs := [⟨7, 0, 1, path, addr, false, false, .write (BitVec.allOnes 256) 15, stage, none⟩], nextId := 8 }

theorem meets_UnitsEngineAndReturnsComplete_second :
    (∃ r g, (loading .near 32 1 (.served 6) true).reqOf 7 = some r ∧ r.kind = .read 3 1 ∧ r.stage = .served 6
      ∧ (loading .near 32 1 (.served 6) true).coreCalm 0 = true ∧ mwf ((loading .near 32 1 (.served 6) true).core 0).queues = true
      ∧ ((loading .near 32 1 (.served 6) true).core 0).groups.find? (fun g => g.gid == 3) = some g ∧ g.nSrc ≤ (mset g.got 1 6).length
      ∧ fmtPlain g.sfmt g.qfmt = true)
    ∧ (∃ g, ((loading .near 32 1 (.served 6) false).core 0).groups.find? (fun g => g.gid == 3) = some g
      ∧ (mset g.got 1 6).length < g.nSrc)
    ∧ (∃ r, (storing .near 0 (.served 0)).reqOf 7 = some r ∧ r.kind = .write (BitVec.allOnes 256) 15 ∧ r.stage = .served 0
      ∧ (storing .near 0 (.served 0)).coreCalm 0 = true) := by
  refine ⟨⟨_, _, rfl, rfl, rfl, ?_, ?_, rfl, ?_, ?_⟩, ⟨_, rfl, ?_⟩, ⟨_, rfl, rfl, rfl, ?_⟩⟩ <;> decide

/-- A running RED waits for queue 0, another behind it, the execute stream for their unit, the access stream in SYNCQ. -/
def stuck : State :=
  let s := (runAt 5).setUnit 0 1 ⟨some { Job.mk0 0x29 0 with started := true, takes := [(0, 1)] }, some (Job.mk0 0x29 0)⟩
  (s.modStrm 0 .access fun x => { x with hold := .issue 0x17 syncq0 }).modStrm 0 .execute fun x => { x with hold := .issue 0x29 0 }

theorem meets_DeadlockHaltsBothStreams : stuck.deadlocked 0 = true := by decide

theorem meets_CoreCommandsStartStopAndClear :
    (up.hears .firmware (Reg.CORE_CTL 0) = true ∧ up.canStart 0 = true)
    ∧ (up.hears (.host 0) (Reg.CORE_CTL 0) = true)
    ∧ ((runAt 5).hears .core (Reg.CORE_CTL 0) = true ∧ (∀ t : Strm, ((runAt 5).strm 0 t).hold = .free))
    ∧ (up.qPush 0 4 [1]).coreRuns 0 = false ∧ (up.qPush 0 4 [1]).coreCalm 0 = true
      ∧ (up.qPush 0 4 [1]).hears .firmware (Reg.CORE_CTL 0) = true := by
  refine ⟨by decide, by decide, ⟨by decide, fun t => ?_⟩, by decide⟩; cases t <;> rfl

def ldCtl (bank target count first : Nat) : Word32 :=
  ([(Fld.IMEM_LD_CTL_START, 1), (Fld.IMEM_LD_CTL_BANK, bank), (Fld.IMEM_LD_CTL_TARGET, target), (Fld.IMEM_LD_CTL_COUNT, count),
    (Fld.IMEM_LD_CTL_FIRST, first)].foldl (fun (w : Word) f => wordSet w f.1 f.2) 0).setWidth 32
/-- The access stream's source is offset 0x100 of its own scratchpad. -/
def loader : State := { moves with regs := (moves.setFld (Reg.IMEM_LD_SRC 0 0) Fld.IMEM_LD_SRC_SRC (spadAddr 0 0x100)).regs }
def loaderOf (target count first : Nat) : State :=
  loader.modStrm 0 .access fun x => { x with load := some ⟨spadAddr 0 0x100, target, 1, count, first⟩ }

theorem meets_LoaderFillsBanks :
    (loader.hears .core (Reg.IMEM_LD_CTL 0 0) = true ∧ (loader.strm 0 .access).load = none
      ∧ wordFld ((ldCtl 1 0 3 2045).setWidth 64) Fld.IMEM_LD_CTL_START = 1
      ∧ wordFld ((ldCtl 1 0 3 2045).setWidth 64) Fld.IMEM_LD_CTL_BANK ≠ loader.strmBank 0 .access
      ∧ wordFld ((ldCtl 1 0 3 2045).setWidth 64) Fld.IMEM_LD_CTL_COUNT = 3
      ∧ wordFld ((ldCtl 1 0 3 2045).setWidth 64) Fld.IMEM_LD_CTL_FIRST = 2045
      ∧ loader.fld (Reg.IMEM_LD_SRC 0 0) Fld.IMEM_LD_SRC_SRC % 32 = 0)
    ∧ wordFld ((ldCtl 0 0 1 0).setWidth 64) Fld.IMEM_LD_CTL_BANK = loader.strmBank 0 .access
    ∧ ((loaderOf 0 3 2045).strm 0 .access).load = some ⟨spadAddr 0 0x100, 0, 1, 3, 2045⟩ ∧ (loaderOf 0 3 2045).coreCalm 0 = true
    ∧ (loaderOf 0 3 2045).fetchSec 0 .access 4 (spadAddr 0 0x100) = (loaderOf 0 3 2045, .ok (loader.spadAt (spadAddr 0 0x100)))
    ∧ (loaderOf 0 3 2045).fetchSec 0 .access 4 (spadAddr 0 0x120) = (loaderOf 0 3 2045, .ok (loader.spadAt (spadAddr 0 0x120))) := by
  refine ⟨by decide, by decide, by decide, by decide, rfl, rfl⟩

theorem meets_CountersClear_first : up.islEnabled (coreIsland 2303) = true := by decide
theorem meets_CountersClear_second : (∀ b < 32, up.uncEnabled b = true) ∧ up.boot.pwrCopy = false := by decide

/-! Register writes and the memories at work. -/

/-- A register of the table, by its address. -/
def specAt (a : Nat) : RegSpec :=
  match regFind a with
  | some (r, _, _) => r
  | none => { name := "", base := 0, dims := [], bytes := 0, owner := .always, boundary := .none, block := 0, fields := [] }

theorem meets_RegisterWriteFollowsAccessClasses :
    (regFind Reg.MESH_CFG = some (specAt Reg.MESH_CFG, [], 0) ∧ (specAt Reg.MESH_CFG).bytes = 4
      ∧ up.plainWrite .firmware (specAt Reg.MESH_CFG) [] Reg.MESH_CFG 0x1234)
    ∧ (Reg.MESH_CFG % 4 = 0 ∧ up.inBootBuf Reg.MESH_CFG = false ∧ up.inFlash Reg.MESH_CFG = false
      ∧ up.regGated Reg.MESH_CFG = false ∧ up.held = [])
    ∧ (regFind (Reg.ARRAY_CFG 0) = some (specAt (Reg.ARRAY_CFG 0), [0], 0)
      ∧ (runAt 5).plainWrite .firmware (specAt (Reg.ARRAY_CFG 0)) [0] (Reg.ARRAY_CFG 0) 0
      ∧ (runAt 5).ownerRuns (specAt (Reg.ARRAY_CFG 0)) [0] = true
      ∧ (specAt (Reg.ARRAY_CFG 0)).fields.any fun f =>
          f.access == .rws && (runAt 5).fld (Reg.ARRAY_CFG 0) f.pos != wordFld 0 f.pos)
    ∧ regFind (Reg.STRM_ERR 0 0) = some (specAt (Reg.STRM_ERR 0 0), [0, 0], 0)
      ∧ ((specAt (Reg.STRM_ERR 0 0)).fields.any fun f => f.access == .w1c) := by
  refine ⟨⟨by decide, by decide, ?_⟩, by decide, ⟨by decide, ?_, by decide, by decide⟩, by decide, by decide⟩
  · exact ⟨rfl, rfl, by decide, by decide, by decide, rfl, rfl, fun _ => rfl, fun _ => rfl, fun _ => rfl⟩
  · exact ⟨rfl, rfl, by decide, by decide, by decide, rfl, rfl, fun _ => rfl, fun _ => rfl, fun _ => rfl⟩

/-- Of the first four words of core 2 one has a wrong bit and the third is uncorrectable; of stack 7's first sectors that of
pseudo-channel 0 is weak and that of 1 uncorrectable. -/
def worn : State := { up with
  spWeak := [0x10_0001], spUe := [0x10_0002], nearWeak := [224 * 2 ^ 26], nearUe := [225 * 2 ^ 26] }

theorem meets_PatrolsCountAndRecord :
    (up.flag (Reg.SP_CFG 2) Fld.SP_CFG_PATROL_EN = true ∧ up.islEnabled (coreIsland 2) = true ∧ up.coreEnabled 2 = true ∧ up.held = []
      ∧ up.spUe = [] ∧ up.flag (Reg.SP_ECC 2) Fld.SP_ECC_UE = false ∧ worn.fld (Reg.SP_PATROL 2) Fld.SP_PATROL_ROW = 0
      ∧ (put up [(Reg.SP_CFG 2, Fld.SP_CFG_PATROL_EN, 0)]).flag (Reg.SP_CFG 2) Fld.SP_CFG_PATROL_EN = false)
    ∧ up.flag (Reg.NEAR_CTL 7) Fld.NEAR_CTL_PATROL_EN = true ∧ up.uncEnabled 15 = true
      ∧ up.flag (Reg.NEAR_STAT 7) Fld.NEAR_STAT_SELFREF = false ∧ up.nearUe = []
      ∧ up.flag (Reg.NEAR_ECC 7) Fld.NEAR_ECC_UE = false ∧ worn.fld (Reg.NEAR_PATROL 7) Fld.NEAR_PATROL_SECTOR = 0
      ∧ ((32 * 7 + 1) * 2 ^ 31 + 0) / 32 ∈ worn.nearUe ∧ ((32 * 7 + 0) * 2 ^ 31 + 0) / 32 ∈ worn.nearWeak := by decide

/-- A word corrected by the read and one known before, beside a known uncorrectable one (R177). -/
theorem test_sp_patrol_line : (match exec (.spPatrol 2 0 3 .corrected) worn with
    | .next t => t.fld (Reg.SP_ECC 2) Fld.SP_ECC_CORR_CNT == 2 && (t.reg (Reg.SP_UE_LOC 2)).toNat == 8 && t.spWeak == []
    | _ => false) = true := by decide

/-- The patrols' last place. -/
def patrolEnd : State := put up [(Reg.SP_PATROL 2, Fld.SP_PATROL_ROW, 2047), (Reg.NEAR_PATROL 7, Fld.NEAR_PATROL_SECTOR, 2 ^ 26 - 1)]

/-- The last bank of the last row ends a sweep (R177). -/
theorem test_sp_patrol_sweep : (match exec (.spPatrol 2 63 3 .corrected) patrolEnd with
    | .next t => t.fld (Reg.SP_PATROL 2) Fld.SP_PATROL_ROW == 0 && t.fld (Reg.SP_PATROL 2) Fld.SP_PATROL_SWEEPS == 1
        && t.fld (Reg.SP_ECC 2) Fld.SP_ECC_CORR_CNT == 1
    | _ => false) = true := by decide

/-- As `loading` and `storing` at a place of near memory, which holds 5 there, of reach memory, and of the scratchpad of core 1;
every route is as firmware builds it. -/
def tiers (s : State) : State :=
  { put s [(Reg.NEAR_SET_CFG 0, Fld.NEAR_SET_CFG_VALID, 1), (Reg.RCH_SEG 1 0, Fld.RCH_SEG_VALID, 1), (Reg.RCH_SEG 1 0, Fld.RCH_SEG_CTX, 0),
      (Reg.RCH_SEG 1 0, Fld.RCH_SEG_DSEG, 2), (Reg.RCH_STAT 1, Fld.RCH_STAT_LINK_UP, 1), (Reg.RCH_STAT 1, Fld.RCH_STAT_CAP_GIB, 512)] with
    near := [(32, 5)], reach := [(2 ^ 39 + 2 ^ 35 + 64, 6)], spad := [(0x20_0100, 7)], segOwner := [(16, 0)], routed := true }
def reachAt : Nat := reachBase + 2 ^ 38 + 64
def reachLoc : Loc := ⟨.reach, 2 ^ 39 + 2 ^ 35 + 64, reachAt⟩
/-- A read of a sector, latency-critical when `lcr`, as the 600th of its pseudo-channel. -/
def nearRead (lcr : Bool) : State :=
  { tiers (runAt 5) with reqs := [⟨7, 0, 1, .near, 32, lcr, false, .read 3 0, .issued, none⟩], lcrWin := [(0, 599)] }

theorem meets_RequestsAreServed :
    (let s := tiers (loading .remote (spadAddr 1 0x100) 0 .issued false)
     ∃ r, s.reqOf 7 = some r ∧ r.path = .remote ∧ r.stage = .issued ∧ r.kind = .read 3 0
      ∧ s.place r.addr = some (⟨.spad, 0x20_0100, spadAddr 1 0x100⟩, some 0)
      ∧ s.arrives r ⟨.spad, 0x20_0100, spadAddr 1 0x100⟩ = true ∧ s.spadOpen 1 = true ∧ s.inCombine 1 0x100 = false
      ∧ Memory.wf s.spad = true)
    ∧ (let s := tiers (storing .near 32 .issued)
     ∃ r, s.reqOf 7 = some r ∧ r.path = .near ∧ r.stage = .issued ∧ r.kind = .write (BitVec.allOnes 256) 15
      ∧ s.place r.addr = some (⟨.near, 32, 32⟩, some 0)
      ∧ s.arrives r ⟨.near, 32, 32⟩ = true ∧ s.gated ⟨.near, 32, 32⟩ = false ∧ s.margined ⟨.near, 32, 32⟩ = false
      ∧ s.nearTurn r 0 = true ∧ s.scrubHides ⟨.near, 32, 32⟩ = false ∧ s.nearUe = [] ∧ s.nearWeak = [] ∧ Memory.wf s.near = true)
    ∧ (∀ lcr, ∃ r, (nearRead lcr).reqOf 7 = some r ∧ r.critical = lcr ∧ (nearRead lcr).arrives r ⟨.near, 32, 32⟩ = true
      ∧ (nearRead lcr).nearTurn r 0 = true ∧ mget (nearRead lcr).lcrWin 0 0 = 599) := by
  refine ⟨⟨_, rfl, rfl, rfl, rfl, rfl, ?_⟩, ⟨_, rfl, rfl, rfl, rfl, rfl, ?_⟩, fun lcr => ⟨_, rfl, ?_⟩⟩
  · decide +kernel
  · decide +kernel
  · cases lcr <;> decide +kernel

/-- Two reads of one granule over reach port 1 at a stage, paired when `m`; the core has their load in flight. -/
def granule (stage : ReqStage) (m : Bool) : State :=
  let s := (runAt 5).modCore 0 fun k => { k with flights := [⟨1, 4, 0, [], []⟩] }
  { tiers s with reqs := [⟨7, 0, 1, .reach, reachAt, false, false, .read 3 0, stage, if m then some 8 else none⟩,
      ⟨8, 0, 1, .reach, reachAt + 32, false, false, .read 3 1, stage, if m then some 7 else none⟩] }

theorem meets_ReachRequestsComeBackOrFail_first :
    (let s := granule .issued false
     ∃ r, s.reqOf 7 = some r ∧ r.path = .reach ∧ r.stage = .issued ∧ s.place r.addr = some (reachLoc, some 0)
      ∧ s.arrives r reachLoc = true ∧ s.gated reachLoc = false ∧ s.power.xbLost = false ∧ s.reachUp (reachPort r.addr) = true
      ∧ s.reachTurn (reachPort r.addr) r = true ∧ (s.mateOf r).isSome = true)
    ∧ (let s := tiers (loading .reach reachAt 0 .issued false)
     ∃ r, s.reqOf 7 = some r ∧ s.arrives r reachLoc = true ∧ s.reachTurn (reachPort r.addr) r = true ∧ s.mateOf r = none)
    ∧ (let s := granule .deviceWait true
     ∃ r, s.reqOf 7 = some r ∧ r.path = .reach ∧ r.stage = .deviceWait ∧ s.power.xbLost = false ∧ s.granuleBusy r = false
      ∧ (s.reqs.map (·.id)).Nodup ∧ (s.transfer r).length = 2
      ∧ (s.transfer r).all (fun q => !q.kind.isWrite && match s.place q.addr with
          | some (l, _) => l.space == .reach && !s.gated l && (mfind s.reachUe (l.key / 32)).isNone && !s.scrubHides l
          | none => false) = true)
    ∧ (let s := tiers (storing .reach reachAt .deviceWait)
     ∃ r, s.reqOf 7 = some r ∧ r.path = .reach ∧ r.stage = .deviceWait ∧ s.granuleBusy r = false ∧ s.transfer r = [r]
      ∧ r.kind = .write (BitVec.allOnes 256) 15 ∧ s.place r.addr = some (reachLoc, some 0) ∧ s.gated reachLoc = false
      ∧ Memory.wf s.reach = true) := by
  refine ⟨⟨_, rfl, rfl, rfl, rfl, ?_⟩, ⟨_, rfl, ?_⟩, ⟨_, rfl, rfl, rfl, ?_⟩, ⟨_, rfl, rfl, rfl, ?_⟩⟩ <;> decide +kernel

theorem meets_ReachRequestsComeBackOrFail_second :
    (let s := granule .deviceWait false
     ∃ r f, s.reqOf 7 = some r ∧ r.path = .reach ∧ r.stage = .deviceWait ∧ s.power.xbLost = false ∧ s.transfer r = [r]
      ∧ r.kind = .read 3 0 ∧ s.place r.addr = some (reachLoc, some 0) ∧ r.core = 0 ∧ s.coreCalm 0 = true
      ∧ (s.core 0).flights.find? (fun f => f.iid == r.iid) = some f)
    ∧ (let s := tiers (storing .reach reachAt .deviceWait)
     (s.reqs.map (·.id)).Nodup ∧ s.power.xbLost = false ∧ Memory.wf s.reach = true
      ∧ ∀ r ∈ s.reqs, r.path = .reach → reachPort r.addr = 1 → r.kind.isWrite = true) := by
  refine ⟨⟨_, _, rfl, rfl, rfl, rfl, ?_, rfl, rfl, rfl, ?_, rfl⟩, ?_⟩ <;> decide +kernel

/-- A held write of MESH_CFG (boundary: the 1 µs window, R215) and one of SP_CFG (the patrol's row, R182). -/
def heldAt (a : Nat) : State := { up with held := [⟨a, 0xFFFF_FFFF, 0x11⟩] }

theorem meets_TierWindowAppliesHeldFields :
    (∃ r, regFind Reg.MESH_CFG = some (r, [], 0) ∧ r.boundary = .window) ∧ (heldAt Reg.MESH_CFG).rchWin = []
    ∧ ∃ r, regFind (Reg.SP_CFG 1) = some (r, [1], 0) ∧ r.boundary = .patrolRow := by
  refine ⟨⟨specAt Reg.MESH_CFG, ?_⟩, rfl, ⟨specAt (Reg.SP_CFG 1), ?_⟩⟩ <;> decide

/-- Scrubs of core 0, of set 0 and of port 1's segment 0. -/
def scrubbing : State :=
  (tiers (put (runAt 5) [(Reg.SP_SCRUB 0, Fld.SP_SCRUB_BUSY, 1), (Reg.NEAR_SCRUB 0, Fld.NEAR_SCRUB_BUSY, 1),
    (Reg.RCH_SCRUB 1, Fld.RCH_SCRUB_BUSY, 1), (Reg.RCH_SEG 1 0, Fld.RCH_SEG_SCRUB, 1), (Reg.CNT 0 0 3, ⟨0, 32⟩, 7)])).modCore 0
    fun k => { k with scrubbing := true, acc := [(4, 9)] }

theorem meets_ScrubsAndMarginRunsEnd_first : ((scrubbing.core 0).scrubbing = true ∧ Memory.wf scrubbing.spad = true)
    ∧ (scrubbing.flag (Reg.NEAR_SCRUB 0) Fld.NEAR_SCRUB_BUSY = true ∧ Memory.wf scrubbing.near = true)
    ∧ scrubbing.flag (Reg.RCH_SCRUB 1) Fld.RCH_SCRUB_BUSY = true ∧ Memory.wf scrubbing.reach = true := by decide

def regWord (fs : List (FieldPos × Nat)) : Word32 := (fs.foldl (fun (w : Word) f => wordSet w f.1 f.2) 0).setWidth 32
def nearMrg : Word32 := regWord [(Fld.NEAR_MRG_CTL_START, 1), (Fld.NEAR_MRG_CTL_STEPS, 9), (Fld.NEAR_MRG_CTL_PC, 31)]
def rchMrg : Word32 := regWord [(Fld.RCH_MRG_CTL_START, 1), (Fld.RCH_MRG_CTL_LANE, 5)]
def nrlMrg : Word32 := regWord [(Fld.NRL_MRG_CTL_START, 1), (Fld.NRL_MRG_CTL_STEPS, 9), (Fld.NRL_MRG_CTL_EYE, 2)]
/-- Margin runs under way at stack 3, reach port 2 and Nirlo port 6. -/
def margining : State :=
  { put up [(Reg.NEAR_MRG_STAT 3, Fld.NEAR_MRG_STAT_BUSY, 1), (Reg.RCH_MRG_STAT 2, Fld.RCH_MRG_STAT_BUSY, 1),
      (Reg.NRL_MRG_STAT 1 2, Fld.NRL_MRG_STAT_BUSY, 1)] with nearMargin := [(3, 31)] }

theorem meets_ScrubsAndMarginRunsEnd_second :
    (up.uncEnabled 11 = true ∧ wordFld (nearMrg.setWidth 64) Fld.NEAR_MRG_CTL_START = 1
      ∧ wordFld (nearMrg.setWidth 64) Fld.NEAR_MRG_CTL_STEPS ≠ 0 ∧ up.flag (Reg.NEAR_MRG_STAT 3) Fld.NEAR_MRG_STAT_BUSY = false
      ∧ up.pcRuns (96 + 31) = false)
    ∧ (mwf margining.nearMargin = true ∧ margining.nearWait = [] ∧ margining.parked = [] ∧ margining.margHeld = []
      ∧ margining.flag (Reg.NEAR_MRG_STAT 3) Fld.NEAR_MRG_STAT_BUSY = true)
    ∧ (up.uncEnabled 18 = true ∧ wordFld (rchMrg.setWidth 64) Fld.RCH_MRG_CTL_START = 1
      ∧ up.flag (Reg.RCH_MRG_STAT 2) Fld.RCH_MRG_STAT_BUSY = false ∧ up.portSegsRun 2 = false)
    ∧ margining.flag (Reg.RCH_MRG_STAT 2) Fld.RCH_MRG_STAT_BUSY = true ∧ margining.power.xbLost = false ∧ margining.xbOk = true
    ∧ (wordFld (nrlMrg.setWidth 64) Fld.NRL_MRG_CTL_START = 1 ∧ wordFld (nrlMrg.setWidth 64) Fld.NRL_MRG_CTL_EYE = 2
      ∧ wordFld (nrlMrg.setWidth 64) Fld.NRL_MRG_CTL_STEPS ≠ 0 ∧ ({ up with portOwner := [] } : State).portOwner = []
      ∧ ∀ i < 4, up.flag (Reg.NRL_MRG_STAT 1 i) Fld.NRL_MRG_STAT_BUSY = false)
    ∧ margining.flag (Reg.NRL_MRG_STAT 1 2) Fld.NRL_MRG_STAT_BUSY = true := by decide

/-! Banks, hoists, the mesh. -/

/-- The access stream of core 0 holds for a signal to pennant 8195, or its waiter is on the way there. -/
def bank (op : PenOp) : State :=
  { (runAt 5).modStrm 0 .access fun x => { x with hold := .signal 4 } with penMsgs := [⟨1, 8195, op⟩] }
def waiter (mode imm : Nat) : Waiter := ⟨⟨0, .access⟩, mode, imm, 0, [], []⟩
def counting (v : Nat) (s : State) : State := put s [(Reg.PEN_CFG 1 3, Fld.PEN_CFG_KIND, 1), (Reg.PEN_VAL 1 3, ⟨0, 48⟩, v)]

theorem meets_BankMessagesWakesAndForwardsAct_first :
    ((bank (.sig ⟨0, .access⟩ 0 5 1 5 0)).still = true ∧ (bank (.sig ⟨0, .access⟩ 0 5 1 5 0)).coreStill 0 = true
      ∧ (bank (.sig ⟨0, .access⟩ 0 5 1 5 0)).penTable = []
      ∧ (bank (.sig ⟨0, .access⟩ 0 5 1 5 0)).penMsgs = [⟨1, 8195, .sig ⟨0, .access⟩ 0 5 1 5 0⟩]
      ∧ ((bank (.sig ⟨0, .access⟩ 0 5 1 5 0)).strm 0 .access).hold = .signal 4
      ∧ (bank (.sig ⟨0, .access⟩ 0 5 1 5 0)).penCounting 8195 = false ∧ (bank (.sig ⟨0, .access⟩ 0 5 1 5 0)).penVal 8195 = 0)
    ∧ penApply false 0 0 5 = .ok 5
    ∧ (bank (.wait (waiter 0 0))).still = true ∧ (waiter 0 0).holds 0 = true ∧ (waiter 0 1).holds 0 = false
    ∧ (counting 7 (bank (.wait (waiter 2 7)))).still = true ∧ (counting 7 (bank (.wait (waiter 2 7)))).penVal 8195 = 7 := by
  refine ⟨by decide, rfl, by decide⟩

def waking : State :=
  { (runAt 5).modStrm 0 .access fun x => { x with hold := .pennant } with penWakes := [⟨0, .access⟩] }
/-- A waiter on 8195 and 9 has seen 3 of PEN; a change of PEN2 is on its way. -/
def forwarding (v : Nat) : State :=
  { (runAt 5).modStrm 0 .access fun x => { x with hold := .pennant } with
    penTable := [(8195, [{ waiter 1 2 with pen2 := 9, vals1 := [3] }])], penFwds := [⟨6, 8195, ⟨0, .access⟩, v⟩] }

theorem meets_BankMessagesWakesAndForwardsAct_second :
    (waking.still = true ∧ waking.coreStill 0 = true ∧ waking.penWakes = [⟨0, .access⟩])
    ∧ ((forwarding 2).still = true ∧ (forwarding 2).penMsgs = []
      ∧ (([3].any fun p => ([] ++ [2]).any fun q => decide ((p + 2 ^ 48 - q) % 2 ^ 48 < 2)) = true))
    ∧ (forwarding 9).still = true ∧ (([3].any fun p => ([] ++ [9]).any fun q => decide ((p + 2 ^ 48 - q) % 2 ^ 48 < 2)) = false) := by
  decide

def hostSig (op vid amount : Nat) : Word32 :=
  regWord [(Fld.PEN_HOST_SIG_OP, op), (Fld.PEN_HOST_SIG_PEN, vid), (Fld.PEN_HOST_SIG_AMOUNT, amount)]

theorem meets_HostAndRemoteSignalsAct_first :
    (pennants.still = true ∧ pennants.pwrState = 0 ∧ pennants.hears (.host 0) Reg.PEN_HOST_SIG = true ∧ pennants.parked = [] ∧ pennants.penTable = []
      ∧ pennants.penMsgs = [] ∧ wordFld ((hostSig 0 9 5).setWidth 64) Fld.PEN_HOST_SIG_CTX = 0 ∧ pennants.partExists 0 = true
      ∧ wordFld ((hostSig 0 9 5).setWidth 64) Fld.PEN_HOST_SIG_PEN = 9 ∧ pennants.penTranslate (some 0) 9 = some 8195
      ∧ pennants.killed.contains 0 = false ∧ pennants.penTranslate (some 0) 10 = none ∧ pennants.flag Reg.PEN_ERR Fld.PEN_ERR_VALID = false)
    ∧ penApply (pennants.penCounting 8195) (pennants.penVal 8195) 0 5 = .ok 5
    ∧ penApply (pennants.penCounting 8195) (pennants.penVal 8195) 1 5 = .error 3
    ∧ (put pennants [(Reg.PART_STAT 0, Fld.PART_STAT_VF, 4)]).vfCtx 4 = some 0 := by
  refine ⟨by decide, rfl, rfl, by decide⟩

/-- A BAR2 write of function 0 waits for a margining run. -/
def posted : State := { State.reset with parked := [⟨0, 0, 0, [], some 0⟩] }

theorem meets_HostAndRemoteSignalsAct_posted : posted.pwrState = 0 ∧ ∃ p ∈ posted.parked, p.fn = some (0 : Fn).val := by
  refine ⟨by decide, ?_⟩
  decide

def sigMsg (wseq : Nat) : Msg :=
  { dst := 0, srcDev := 3, srcCore := 8, kind := 3, tag := 9, flags := 0, addr := BitVec.ofNat 48 (wseq * 2 ^ 16 + 5), vc := 0, data := [] }
/-- Port 0 has taken a signal of core 8 of rank 3, of whose sectors 44 have landed at entry 2 of die 1. -/
def remote (wseq : Nat) : State :=
  let s := put pennants [(Reg.LAND 1 2, Fld.LAND_VALID, 1), (Reg.LAND 1 2, Fld.LAND_SRC_DEV, 3), (Reg.LAND 1 2, Fld.LAND_SRC_CORE, 8),
    (Reg.LAND 1 2, Fld.LAND_LANDED, 44), (Reg.NRL_STAT 0 0, Fld.NRL_STAT_STATE, 3)]
  { s with ports := [(0, { s.port 0 with rx := [sigMsg wseq] })], notices := [(3 * 4096 + 8, 2)] }

theorem meets_HostAndRemoteSignalsAct_second :
    ((remote 44).still = true ∧ (remote 44).rxFirst 0 (sigMsg 44) = true ∧ (sigMsg 44).dst.toNat = (remote 44).rank
      ∧ (remote 44).run.quiescent = false ∧ (remote 44).portCtx 0 = some 0 ∧ (remote 44).landEntry 3 8 = some (1, 2)
      ∧ (remote 44).fld (Reg.LAND 1 2) Fld.LAND_SRC_DEV = 3 ∧ (remote 44).fld (Reg.LAND 1 2) Fld.LAND_SRC_CORE = 8
      ∧ (remote 44).killed.contains 0 = false ∧ ((remote 44).port 0).txq = [] ∧ ((remote 44).port 0).part = []
      ∧ (remote 44).pendTab = [] ∧ (remote 44).penTable = [] ∧ (remote 44).penMsgs = [] ∧ landedFor 44 44 = true
      ∧ (remote 44).penTranslate (some 0) 9 = some 8195)
    ∧ ((remote 45).rxFirst 0 (sigMsg 45) = true ∧ landedFor 44 45 = false)
    ∧ 0 < mget (remote 44).notices 0 (3 * 4096 + 8) ∧ mwf (remote 44).notices = true := by decide

/-- A message to hoist 6 of die 0 (COUNT 2), whose slot of round 0 is in use with `arr` arrivals and `dep` departures to come. -/
def slot (inuse arr dep rel : Nat) (m : HoistMsg) : State :=
  { put (hoists 1 0) [(hstSlot 6 0, Fld.HST_SLOT_INUSE, inuse), (hstSlot 6 0, Fld.HST_SLOT_ARRIVED, arr),
      (hstSlot 6 0, Fld.HST_SLOT_DEP_PEND, dep), (hstSlot 6 0, Fld.HST_SLOT_REL, rel)] with hoistMsgs := [m] }
def arrival : HoistMsg := ⟨2, 6, ⟨0, .access⟩, 0, true, true⟩
def departure : HoistMsg := ⟨2, 6, ⟨0, .access⟩, 0, false, true⟩
def releasing : State :=
  { (runAt 5).modStrm 0 .access fun x => { x with hold := .hoist 6 0 } with hoistRels := [⟨6, ⟨0, .access⟩, 0⟩] }

theorem meets_HoistsCountOnDieAndTree_first :
    ((slot 1 1 1 0 arrival).still = true ∧ (slot 1 1 1 0 arrival).hoistMsgs = [arrival]
      ∧ roundBlocked 0 ((slot 1 1 1 0 arrival).hoistDone 6) = false ∧ (slot 1 1 1 0 arrival).flag (hstSlot 6 0) Fld.HST_SLOT_INUSE = true
      ∧ (slot 1 1 1 0 arrival).fld (hstSlot 6 0) Fld.HST_SLOT_ARRIVED = 1 ∧ (slot 1 1 1 0 arrival).fld (hstBase 6) Fld.HST_CFG_COUNT = 2)
    ∧ ((slot 0 0 0 0 arrival).flag (hstSlot 6 0) Fld.HST_SLOT_INUSE = false ∧ (slot 0 0 0 0 arrival).still = true)
    ∧ ((slot 1 2 1 1 departure).hoistMsgs = [departure] ∧ (slot 1 2 1 1 departure).flag (hstSlot 6 0) Fld.HST_SLOT_INUSE = true
      ∧ (slot 1 2 1 1 departure).still = true)
    ∧ releasing.still = true ∧ releasing.coreStill 0 = true ∧ releasing.hoistRels = [⟨6, ⟨0, .access⟩, 0⟩] := by decide

/-- Cross-device hoist 5: this device is the root of three when `root`; its slots of round 1. -/
def cross (root arr fin rel : Nat) : State :=
  put (runAt 5) [(Reg.XH_CFG 5, Fld.XH_CFG_ROOT, root), (Reg.XH_CFG 5, Fld.XH_CFG_ALLOC, 1), (Reg.XH_DEVS 5, Fld.XH_DEVS_DEV_COUNT, 3),
    (Reg.XH_ROOT 5 1, Fld.XH_ROOT_INUSE, 1), (Reg.XH_ROOT 5 1, Fld.XH_ROOT_DEV_ARR, arr), (Reg.XH_ROOT 5 1, Fld.XH_ROOT_DEV_FIN, fin),
    (Reg.XH_ROOT 5 1, Fld.XH_ROOT_REL, rel), (hstSlot 1029 1, Fld.HST_SLOT_INUSE, 1), (hstSlot 1029 1, Fld.HST_SLOT_DEP_PEND, 1)]

/-- The root, where an arrival of round `r` is held and round 1 has one device to finish. -/
def ahead (r : Nat) : State := { cross 1 3 1 1 with rootHeld := [(5, r)] }

theorem meets_HoistsCountOnDieAndTree_second :
    ((cross 0 0 0 0).run.quiescent = false ∧ (cross 0 0 0 0).still = true ∧ (cross 0 0 0 0).mgr.verify = none
      ∧ (cross 0 0 0 0).hoistRoot 5 = false ∧ (cross 0 0 0 0).rootHeld = [])
    ∧ roundBlocked 2 (mget (cross 1 1 3 0).rootFin 0 5) = true
    ∧ ((ahead 3).still = true ∧ (ahead 3).hoistRoot 5 = true ∧ (ahead 3).mgr.verify = none ∧ (ahead 3).rootHeld = [(5, 3)]
      ∧ roundBlocked 3 ((1 + 1) % 2 ^ 32) = false ∧ 2 ≤ (ahead 3).fld (Reg.XH_DEVS 5) Fld.XH_DEVS_DEV_COUNT
      ∧ (ahead 3).flag (Reg.XH_ROOT 5 1) Fld.XH_ROOT_INUSE = true ∧ (ahead 3).flag (Reg.XH_ROOT 5 1) Fld.XH_ROOT_REL = true
      ∧ (ahead 3).fld (Reg.XH_ROOT 5 1) Fld.XH_ROOT_DEV_FIN ≤ 1)
    ∧ ((cross 1 1 3 0).still = true ∧ (cross 1 1 3 0).hoistRoot 5 = true ∧ roundBlocked 1 (mget (cross 1 1 3 0).rootFin 0 5) = false
      ∧ (cross 1 1 3 0).flag (Reg.XH_ROOT 5 1) Fld.XH_ROOT_INUSE = true
      ∧ ((cross 1 1 3 0).fld (Reg.XH_ROOT 5 1) Fld.XH_ROOT_DEV_ARR + 1) % 2 ^ 11 ≠ (cross 1 1 3 0).fld (Reg.XH_DEVS 5) Fld.XH_DEVS_DEV_COUNT)
    ∧ ((cross 1 3 1 1).still = true ∧ (cross 1 3 1 1).hoistRoot 5 = true ∧ (cross 1 3 1 1).flag (Reg.XH_ROOT 5 1) Fld.XH_ROOT_REL = true
      ∧ (cross 1 3 1 1).fld (Reg.XH_ROOT 5 1) Fld.XH_ROOT_DEV_FIN = 1 ∧ (cross 1 3 2 1).fld (Reg.XH_ROOT 5 1) Fld.XH_ROOT_DEV_FIN = 2)
    ∧ (cross 0 0 0 0).stepActive = false ∧ roundOpen 1 ((cross 0 0 0 0).hoistDone 1029) = true
      ∧ (cross 0 0 0 0).flag (hstSlot 1029 1) Fld.HST_SLOT_INUSE = true ∧ (cross 0 0 0 0).flag (hstSlot 1029 1) Fld.HST_SLOT_REL = false
      ∧ (cross 0 0 0 0).fld (hstSlot 1029 1) Fld.HST_SLOT_DEP_PEND ≠ 0 := by decide

/-- A RED sector of tag 7 for address 32 at router `r`, whose table sends stack 0's stop west: its entry there adds the inputs 4
and 0 for chain group 2 when `entry`, with `held` at input 0. That group's stop is at router 255 (R204), and router 1 sends to it
by the west too. -/
def reducing (r entry : Nat) (held : List RedIn) : State :=
  let s := put (((moves.setReg (Reg.MR_NEXT 1 291) 0x44FF_FFFF).setReg (Reg.MR_NEXT 1 298) 0x44_FFFF).setReg (Reg.MR_NEXT 255 298) 0x5F_FFFF)
    [(Reg.MR_RTAG r 0, Fld.MR_RTAG_VALID, entry), (Reg.MR_RTAG r 0, Fld.MR_RTAG_NIN, 2),
    (Reg.MR_RTAG r 0, Fld.MR_RTAG_IN0, 4), (Reg.MR_RTAG r 0, Fld.MR_RTAG_IN1, 0), (Reg.MR_RTAG r 0, Fld.MR_RTAG_TAG, 7),
    (Reg.MR_RTAG r 0, Fld.MR_RTAG_FMT, 2), (Reg.MR_RTAG r 0, Fld.MR_RTAG_TO_CHAIN, 1), (Reg.MR_RTAG r 0, Fld.MR_RTAG_GROUP, 2)]
  { s with redFlits := [⟨r, 4, 7, 32, 9, [⟨0, 2, 3⟩], none⟩], redBuf := if held.isEmpty then [] else [(redKey r 0 1, held)] }
/-- Its sum, with 6 at the other input. -/
def summed (r : Nat) : RedFlit := ⟨r, 0, 7, 32, 15, [⟨0, 2, 3⟩], some 2⟩

theorem meets_ReductionSectorsJoin :
    ((reducing 1 0 []).still = true ∧ (reducing 1 0 []).redEntry 1 7 = none ∧ (reducing 1 0 []).destOf 1 32 = some 2334
      ∧ (reducing 1 0 []).nextHop 1 2334 = 4 ∧ neighbour 1 4 = some (0, 1))
    ∧ ((reducing 1 1 []).redEntry 1 7 = some ⟨0, 2, [4, 0], true, 2⟩ ∧ [4, 0].findIdx? (· == 4) = some 0
      ∧ mget (reducing 1 1 []).redBuf [] (redKey 1 0 1) = [])
    ∧ (∀ r ∈ [1, 255], mget (reducing r 1 [⟨32, 6, []⟩]).redBuf [] (redKey r 0 1) = [⟨32, 6, []⟩]
      ∧ mget (reducing r 1 [⟨32, 6, []⟩]).redBuf [] (redKey r 0 0) = []
      ∧ (reducing r 1 [⟨32, 6, []⟩]).redEntry r 7 = some ⟨0, 2, [4, 0], true, 2⟩
      ∧ (reducing r 1 [⟨32, 6, []⟩]).redDest (summed r) = some 2389)
    ∧ (reducing 1 1 [⟨32, 6, []⟩]).nextHop 1 2389 = 4 ∧ (reducing 255 1 [⟨32, 6, []⟩]).nextHop 255 2389 = 5
    ∧ stopAt 255 5 = some 2389 ∧ redOverflow [9, 6] = false := by decide +kernel

/-- An int32 sum of two inputs goes to the chain (R212, R213). -/
theorem test_red_sum : (match exec (.redSector 255 4 7 32 9) (reducing 255 1 [⟨32, 6, []⟩]) with
    | .next t => t.chainIn == [⟨2, 5, 7, 32, 15, [⟨0, 2, 3⟩], some 2⟩]
    | _ => false) = true := by decide +kernel

/-! The Nirlo links. -/

/-- Rank 0 of a torus of two by one by one by one. Port 0, and port 8 of group 2, lead to rank 1; each is up, in service and
has its credits, and has received `rx`. -/
def links (rx : List Msg) : State :=
  let s := { (runAt 5) with portOwner := [(0, 0), (8, 0)], ports := [(0, { PortState.reset with rx := rx }), (8, { PortState.reset with rx := rx })] }
  let s := put s [(Reg.NRL_TORUS 0, Fld.NRL_TORUS_X, 2), (Reg.NRL_TORUS 0, Fld.NRL_TORUS_Y, 1), (Reg.NRL_TORUS 0, Fld.NRL_TORUS_Z, 1),
    (Reg.NRL_TORUS 0, Fld.NRL_TORUS_W, 1), (Reg.NRL_DG_MAP 0, Fld.NRL_DG_MAP_PORT, 14), (Reg.NRL_STAT 0 0, Fld.NRL_STAT_STATE, 3),
    (Reg.NRL_STAT 0 0, Fld.NRL_STAT_INSERV, 1), (Reg.NRL_STAT 2 0, Fld.NRL_STAT_STATE, 3)]
  (s.setReg (Reg.NRL_CRED 0 0) (BitVec.ofNat 64 (100 * 2 ^ 30 + 100 * 2 ^ 20 + 100 * 2 ^ 11 + 20))).setFld (Reg.NRL_FEC_CORR 0 0)
    Fld.NRL_FEC_CORR_COUNT (2 ^ 32 - 2)

def passing : Msg := { dst := 1, srcDev := 3, srcCore := 8, kind := 0, tag := 0, flags := 0, addr := 0, vc := 3, data := [7] }
/-- A read request of device 3 for device 1. -/
def asked : Msg := { passing with kind := 1, vc := 1, data := [] }
def unacked : List TxFlit := [⟨10, [], 3, 2, 0, false⟩, ⟨11, [], 3, 2, 0, false⟩]
/-- As `links`, with two flits of port 0 unacknowledged. -/
def linked : State := let s := links []; s.setPort 0 { s.port 0 with rxSeq := 5, retry := unacked }
/-- A flit of one head slot, with its CRC or a false one. -/
def flit (seq : Nat) (ok : Bool) : Flit :=
  let f := sealFlit { seq := BitVec.ofNat 12 seq, ack := 10, nak := false, crVc := 3, crN := 100
                      slots := [.heads 1 [asked], .empty, .empty, .empty], crc := 0, fecCorr := 3, fecUnc := 1 }
  if ok then f else { f with crc := f.crc + 1 }

theorem word_ne (x : Word32) : x ≠ x + 1 := by bv_omega

theorem meets_FlitsAreTakenInSequence :
    (linked.still = true ∧ linked.portState 0 = 3 ∧ linked.power.xbLost = false ∧ linked.power.asleep = [] ∧ linked.run.quiescent = false
      ∧ (linked.port 0).txq = [] ∧ (linked.port 0).part = [] ∧ (linked.port 0).credOut = [] ∧ (flit 6 true).nak = false
      ∧ (∀ x ∈ (flit 6 true).slots, linked.passSlot x = true) ∧ (linked.port 0).rxSeq + 1 = 6)
    ∧ crcOk (flit 6 true) = true ∧ crcOk (flit 6 false) = false := by
  refine ⟨by decide, decide_eq_true rfl, decide_eq_false fun h => word_ne (Config.crc32 (flitBytes (flit 6 true))) h⟩

theorem meets_LinksFailTrainAndComeUp_first : linked.still = true ∧ linked.run.quiescent = false ∧ linked.power.xbLost = false
    ∧ linked.portState 0 = 3 ∧ (linked.port 0).retry ≠ [] ∧ linked.flag (nrlErr 0) Fld.NRL_ERR_VALID = false := by decide

/-- As `links`, with port 0 in a state of its training, at a version, after a margining run when `m`. -/
def training (st ver : Nat) (m : Bool) : State :=
  let s := put (links []) [(Reg.NRL_STAT 0 0, Fld.NRL_STAT_STATE, st), (Reg.NRL_STAT 0 0, Fld.NRL_STAT_VER, ver)]
  s.setPort 0 { s.port 0 with margined := m }
/-- The capability word of a peer of version 2 to `vmin` at coordinate x = 1. -/
def peerWord (vmin : Nat) : Word := BitVec.ofNat 64 (2 * 2 ^ 60 + vmin * 2 ^ 56 + 0x07F * 2 ^ 44 + 1)

theorem meets_LinksFailTrainAndComeUp_second :
    (training 4 0 false).xbOk = true
    ∧ ((training 4 0 false).portState 0 = 4 ∧ (training 4 0 false).portDisabled 0 = false
      ∧ (training 4 0 false).regGated (nrlCtl 0) = false)
    ∧ (∀ m, (training 1 0 m).xbOk = true ∧ (training 1 0 m).portState 0 = 1 ∧ (training 1 0 m).fld (nrlStat 0) Fld.NRL_STAT_VER = 0
      ∧ (training 1 2 m).fld (nrlStat 0) Fld.NRL_STAT_VER = 2 ∧ ((training 1 2 m).port 0).margined = m
      ∧ (training 1 2 m).boot.warm = false)
    ∧ ((training 2 0 false).portState 0 = 2 ∧ (training 2 0 false).peerRefusal 0 (peerWord 1).toNat = 0
      ∧ (training 2 0 false).peerRefusal 0 (peerWord 3).toNat ≠ 0)
    ∧ min 2 ((peerWord 3).toNat / 2 ^ 60 % 16) < max 1 ((peerWord 3).toNat / 2 ^ 56 % 16)
    ∧ (training 2 0 false).flag (nrlErr 0) Fld.NRL_ERR_VALID = false := by decide

/-- A message of a kind for this device's sector at 0x100 of core 0. -/
def incoming (kind vc : Nat) (data : List Sector) : Msg :=
  { dst := 0, srcDev := 1, srcCore := 8, kind := BitVec.ofNat 4 kind, tag := 9, flags := 0, addr := BitVec.ofNat 48 (spadAddr 0 0x100),
    vc := BitVec.ofNat 2 vc, data := data, be := if kind == 0 then [0xF000_0001] else [] }

def answer : Msg := { incoming 2 1 [0] with dst := 1, srcDev := 0 }
/-- As `links`, where the head slots received are those of the message. -/
def landed (m : Msg) : State :=
  let s := links [m]
  s.setPort 0 { s.port 0 with runs := [(m.vc.toNat, [1])] }

theorem meets_MessagesPassAndTickIsKept_first :
    ((links [passing]).still = true ∧ (links [passing]).run.quiescent = false ∧ (links [passing]).rxFirst 0 passing = true
      ∧ ((links [passing]).port 0).txq = [] ∧ ((links [passing]).port 0).part = [] ∧ ((links [passing]).port 0).credOut = []
      ∧ passing.dst.toNat ≠ (links [passing]).rank
      ∧ ((links [passing]).rxTake 0 passing).sendsBy ((links [passing]).portCtx 0) passing 0 = true)
    ∧ ((links [incoming 0 3 [7]]).rxFirst 0 (incoming 0 3 [7]) = true ∧ (incoming 0 3 [7]).dst.toNat = (links []).rank
      ∧ (links [incoming 0 3 [7]]).noChecks = true ∧ Memory.wf (links []).spad = true ∧ ((links []).portCtx 0).isSome = true
      ∧ (links []).openSector ((links []).portCtx 0) (incoming 0 3 [7]).addr.toNat = true)
    ∧ ((links [incoming 1 1 []]).rxFirst 0 (incoming 1 1 []) = true
      ∧ ((links [incoming 1 1 []]).rxTake 0 (incoming 1 1 [])).sendsBy (some 0) answer 0 = true)
    ∧ (landed (incoming 2 1 [7])).rxFirst 0 (incoming 2 1 [7]) = true ∧ (landed (incoming 2 1 [7])).portState 0 = 3
      ∧ mget ((landed (incoming 2 1 [7])).port 0).runs [] 1 = [1] ∧ msgSlots (incoming 2 1 [7]) < 128 := by decide

theorem meets_MessagesPassAndTickIsKept_second :
    up.topOfTree = false ∧ 32 < (BitVec.ofInt 8 (-33)).toInt.natAbs ∧ (BitVec.ofInt 8 (-32)).toInt.natAbs ≤ 32
      ∧ up.flag Reg.TICK_SYNC Fld.TICK_SYNC_UNSYNC = false ∧ up.flag Reg.STEP_ERR Fld.STEP_ERR_VALID = false := by decide

/-! Chains. -/

/-- As `links`, with entry 5 of group 2 at a place `pos` of chain 9 (local tag 7) whose tail is on this device, three sectors long,
in an exchange mode. -/
def chained (pos mode late : Nat) (rx : List Msg) : State :=
  let s := put (links rx) [(Reg.NRL_CHAIN 2 5, Fld.NRL_CHAIN_VALID, 1), (Reg.NRL_CHAIN 2 5, Fld.NRL_CHAIN_POS, pos),
    (Reg.NRL_CHAIN 2 5, Fld.NRL_CHAIN_TAG, 9), (Reg.NRL_CHAIN 2 5, Fld.NRL_CHAIN_LTAG, 7), (Reg.NRL_CHAIN 2 5, Fld.NRL_CHAIN_LATE, late),
    (Reg.NRL_CHAIN_DL 2 5, Fld.NRL_CHAIN_DL_NSEC, 3), (Reg.XCH_CFG 2 5, Fld.XCH_CFG_MODE, mode)]
  let at' (k : Nat) (s : State) (r : Nat) : State := s.setReg r (BitVec.ofNat 64 (spadAddr 0 (0x1000 * k)))
  let s := (((at' 1 s (Reg.XCH_LOC 2 5)) |> (at' 2 · (Reg.XCH_XIN 2 5))) |> (at' 3 · (Reg.XCH_UPD 2 5))) |> (at' 4 · (Reg.XCH_SUM 2 5))
  let s := ((at' 5 s (Reg.XCH_FLAG 2 5)) |> (at' 6 · (Reg.XCH_AGV 2 5))) |> (at' 7 · (Reg.XCH_AGI 2 5))
  s

def local7 (pos : Nat) : ChainIn := ⟨pos, spadAddr 0 0x100, 0x7F03, false, none, 0, (0, 0)⟩
def withLocal (x : ChainState) (s : State) : State := s.setChain 2 5 x
def partial5 : Msg := incoming 5 2 [0x0105]
def tail : State := chained 2 0 0 [partial5]
def middle : State := chained 1 0 0 []
def arriving (tag a : Nat) (d : Sector) (s : State) : State := { s with chainIn := [⟨2, 5, tag, a, d, [], none⟩] }

theorem meets_ChainsPairPartialsOrRunLate_first :
    (tail.still = true ∧ tail.run.quiescent = false ∧ tail.rxFirst 8 partial5 = true ∧ partial5.dst.toNat = tail.rank
      ∧ (tail.port 8).txq = [] ∧ (tail.port 8).part = []
      ∧ (∃ e, tail.partialEntry 2 9 = some e ∧ e.g = 2 ∧ e.c = 5 ∧ e.pos = 2 ∧ e.mode = 0 ∧ e.next = tail.rank
        ∧ (e.ctx tail).isSome = true ∧ tail.openSector (e.ctx tail) partial5.addr.toNat = true)
      ∧ (tail.chain 2 5).inq = [] ∧ (tail.chain 2 5).inMsg = none ∧ (tail.chain 2 5).locq = [] ∧ (tail.chain 2 5).passed = false
      ∧ tail.noChecks = true)
    ∧ ((withLocal { tail.chain 2 5 with locq := [local7 0] } tail).partialEntry 2 9).isSome = true
    ∧ ((arriving 7 96 5 middle).still = true ∧ (arriving 7 96 5 middle).power.xbLost = false
      ∧ (∃ e, (arriving 7 96 5 middle).ltagEntry 2 7 = some e ∧ e.mode = 0 ∧ e.pos ≠ 0)
      ∧ ((arriving 7 96 5 middle).chain 2 5).inq = []) := by
  refine ⟨⟨by decide, by decide, by decide, by decide, by decide, by decide, ⟨_, rfl, by decide⟩, by decide⟩, by decide, by decide, by decide,
    ⟨_, rfl, by decide⟩, by decide⟩

/-- Entry 5 with LATE and a partial that waits for its local sector; a step is in progress. -/
def overdue (late : Nat) : State :=
  let s := (chained 2 0 late []).setFld Reg.STEP_CTL Fld.STEP_CTL_REPLAY 0
  { withLocal { s.chain 2 5 with inq := [local7 0], nIn := 1 } s with stepActive := true }
theorem meets_ChainsPairPartialsOrRunLate_second :
    (∃ e, (overdue 0).chainCfg 2 5 = some e ∧ (overdue 0).chainLate e = false ∧ e.mode ≠ 2)
    ∧ ((overdue 0).stepActive = true ∧ (overdue 0).run.quiescent = false ∧ ((overdue 0).chain 2 5).passed = false)
    ∧ ∃ e, (overdue 1).chainCfg 2 5 = some e ∧ (overdue 1).chainLate e = true ∧ e.pos = 2 ∧ e.next = (overdue 1).rank
      ∧ ((overdue 1).chain 2 5).inq = [local7 0] ∧ (overdue 1).noChecks = true ∧ (e.ctx (overdue 1)).isSome = true
      ∧ (overdue 1).openSector (e.ctx (overdue 1)) (local7 0).addr = true :=
  ⟨⟨_, rfl, by decide⟩, by decide, ⟨_, rfl, by decide⟩⟩

/-- Four sectors of fp32 elements with 3.0 in element `i`. -/
def fp32At (i : Nat) (v : Nat) : List Sector := (List.range 4).map fun j =>
  BitVec.ofNat 256 (if i / 8 = j then v * 2 ^ (32 * (i % 8)) else 0)
/-- As `chained` in share mode, where slot 2 has the agreement of block 1 at scale exponent s + 133 = 130, or none. -/
def sharing (agreed : Bool) : State :=
  let s := put (chained 1 1 0 []) [(Reg.XCH_CFG 2 5, Fld.XCH_CFG_K_M1, 15)]
  { s with spad := if agreed then [(0x6005, 0x41), (0x7008, 1)] else [] }
def slotAddr : Nat := spadAddr 0 0x1000 + 256
def shared' (agreed : Bool) (xs : List Sector) : State :=
  { sharing agreed with chainIn := (List.range 4).map fun j => ⟨2, 5, 7, slotAddr + 32 * j, xs.getD j 0, [], none⟩ }

/-- The entry as its registers give it. -/
def entry (s : State) : ChainCfg :=
  (s.chainCfg 2 5).getD ⟨0, 0, 0, 0, false, 0, 0, 0, 0, 0, 0, false, 0, 0, 0, 0, false, 0⟩

theorem meets_SharesSettleAndChecksCompare_first :
    (let s := shared' true (fp32At 9 0x40400000)
     let e := entry s
     s.chainCfg 2 5 = some e ∧ e.mode = 1 ∧ e.pos ≠ 0 ∧ s.ltagEntry 2 e.ltag = some e ∧ slotAddr = e.loc s + 128 * 2
      ∧ s.power.xbLost = false ∧ s.agreement e 2 = some (1, 130) ∧ s.blockOk (e.ctx s) (e.xin s + 128 * 1) = true
      ∧ s.blockOk (e.ctx s) (e.upd s + 128 * 1) = true ∧ (shared' false (fp32At 9 0x40400000)).agreement e 2 = none)
    ∧ (let s := arriving 0 (spadAddr 0 0x4000 + 64) 5 (sharing true)
     let e := entry s
     s.chainCfg 2 5 = some e ∧ s.stagEntry 2 e.stag = some e ∧ e.doneEn = false
      ∧ spadAddr 0 0x4000 + 64 = e.sum s + 32 * 2 ∧ s.rdNat ((e.flagAt s + 2) % 2 ^ 48) 1 = 0
      ∧ (∀ j < 4, s.openSector (e.ctx s) (e.upd s + 128 * 1 + 32 * j) = true)) := by decide +kernel

/-- As `chained` in check mode. -/
def checking (lg : Nat) : State := put (chained 1 2 0 []) [(Reg.XCH_CFG 2 5, Fld.XCH_CFG_CHK_LOG2, lg)]
/-- Slot 2's check sum of 5 has come, and its sum `held` and flag here. -/
def checked (held : Nat) : State :=
  let s := checking 0
  { withLocal { s.chain 2 5 with checks := [⟨2, 5, false⟩], sums := [2], flags := [2] } s with spad := [(0x4040, BitVec.ofNat 8 held)] }

theorem meets_SharesSettleAndChecksCompare_second :
    (let s := arriving 7 (spadAddr 0 0x1000 + 64) 5 (checking 3)
     let e := entry s
     s.chainCfg 2 5 = some e ∧ e.mode = 2 ∧ e.pos ≠ 0 ∧ s.ltagEntry 2 e.ltag = some e ∧ spadAddr 0 0x1000 + 64 = e.loc s + 32 * 2)
    ∧ (let s := checked 5
     let e := entry s
     s.chainCfg 2 5 = some e ∧ ⟨2, 5, false⟩ ∈ (s.chain 2 5).checks ∧ 2 ∈ (s.chain 2 5).sums ∧ 2 ∈ (s.chain 2 5).flags
      ∧ s.rdNat ((e.flagAt s + 2) % 2 ^ 48) 1 = 0 ∧ s.rdAt ((e.sum s + 64) % 2 ^ 48) = 5) := by decide +kernel

/-! Step control. -/

/-- Rank 0 of a group of two, with phases 0 (forward) and 3 (verify) in its plan and its information block at 0x2000; a manager
when `role` is 1. -/
def group (role : Nat) : State :=
  put (links []) [(Reg.STEP_CTL, Fld.STEP_CTL_ROLE, role), (Reg.PLAN_HST 0, Fld.PLAN_HST_VALID, 1), (Reg.PLAN_HST 3, Fld.PLAN_HST_VALID, 1),
    (Reg.INFO_ADDR, Fld.INFO_ADDR_ADDR, spadAddr 0 0x2000), (Reg.REPEAT_CFG, Fld.REPEAT_CFG_REPEAT_MAX, 3),
    (Reg.REPEAT_CFG, Fld.REPEAT_CFG_START_LEAD, 50), (Reg.STEP_NUM, Fld.STEP_NUM_STEP, 6), (Reg.TICK, Fld.TICK_TICK, 1000)]
def startMsg (s : State) : StartMsg := ⟨7, 1, 1050, false, false, true, s.imageMeas⟩
/-- STEP_PEN is pennant 9 of context 0, a counting pennant that reads 4. -/
def stepPennant : State :=
  put (group 0) [(Reg.STEP_PEN_ID, Fld.STEP_PEN_ID_VALID, 1), (Reg.STEP_PEN_ID, Fld.STEP_PEN_ID_PEN, 9), (Reg.PEN_XLT 0 9, Fld.PEN_XLT_VALID, 1),
    (Reg.PEN_XLT 0 9, Fld.PEN_XLT_DIE, 1), (Reg.PEN_XLT 0 9, Fld.PEN_XLT_INDEX, 3), (Reg.PEN_CFG 1 3, Fld.PEN_CFG_ALLOC, 1),
    (Reg.PEN_CFG 1 3, Fld.PEN_CFG_KIND, 1), (Reg.PEN_VAL 1 3, ⟨0, 48⟩, 4)]
def waitingStart (s : State) : State := { s with run := { s.run with waiting := true } }

theorem meets_StepsStartAndMeetDeadlines_first :
    ((group 0).still = true ∧ mwf (group 0).regs = true ∧ mwf (group 0).cores = true ∧ (group 0).stepActive = false
      ∧ (group 0).tick ≤ (startMsg (group 0)).t0.toNat ∧ (group 0).stepCtx = some 0 ∧ Memory.wf (group 0).spad = true
      ∧ (group 0).fld Reg.INFO_ADDR Fld.INFO_ADDR_ADDR % 32 = 0
      ∧ (∀ j < 3, (group 0).openSector (some 0) ((group 0).fld Reg.INFO_ADDR Fld.INFO_ADDR_ADDR + 32 * j) = true))
    ∧ ((group 0).portCtx 8 = some 0 ∧ (group 0).flag Reg.STEP_ERR Fld.STEP_ERR_VALID = false)
    ∧ ((waitingStart stepPennant).run.waiting = true ∧ (waitingStart stepPennant).still = true ∧ (waitingStart stepPennant).penTable = []
      ∧ (waitingStart stepPennant).penMsgs = [] ∧ (waitingStart stepPennant).power.mustering = false
      ∧ ({ waitingStart stepPennant with power := { stepPennant.power with mustering := true } } : State).still = true
      ∧ (waitingStart stepPennant).penTranslate (some 0) 9 = some 8195)
    ∧ penApply (stepPennant.penCounting 8195) (stepPennant.penVal 8195) 0 1 = .ok 5 := by
  refine ⟨by decide, by decide, by decide, rfl⟩

/-- A step is in progress, in its first phase; on a manager of role 1 its own. -/
def inStep (role : Nat) : State :=
  let s := group role
  { s with stepActive := true, run := { s.run with cur := 0 }, mgr := { s.mgr with state := .run, step := 6, attempt := 1 } }

theorem meets_StepsStartAndMeetDeadlines_second :
    ((inStep 0).still = true ∧ (inStep 0).stepActive = true ∧ (inStep 0).run.quiescent = false ∧ (inStep 0).planValid 0 = true
      ∧ 0 ∉ (inStep 0).run.done ∧ 0 ∉ (inStep 0).run.missed ∧ (inStep 0).isManager = false)
    ∧ ((inStep 1).still = true ∧ (inStep 1).isManager = true ∧ (inStep 1).mgr.state = .run ∧ (inStep 1).applyBegun = false
      ∧ (inStep 1).mgr.nCause + 1 < (inStep 1).fld Reg.REPEAT_CFG Fld.REPEAT_CFG_REPEAT_MAX) := by decide

/-- Quiescent, with a resident copy at near address 0 of one entry: 5 into MESH_CFG. -/
def quiet : State :=
  let s := put (inStep 0) [(Reg.NEAR_SET_CFG 0, Fld.NEAR_SET_CFG_VALID, 1), (Reg.IMG_STAT, Fld.IMG_STAT_RES_64K, 1)]
  { s with
    run := { s.run with quiescent := true, quiet := true }
    near := (0, 5) :: ((List.range 8).map fun i => (8 + i, BitVec.ofNat 8 (Reg.MESH_CFG / 256 ^ i))).filter (·.2 != 0) ++ [(32, 5)] }
/-- A repeat whose reload is complete. -/
def reloaded (role : Nat) : State :=
  let s := inStep role
  { s with run := { s.run with cur := 6 }, mgr := { s.mgr with state := .repeating } }

theorem meets_RepeatsGoThroughTheirSteps :
    ((inStep 0).still = true ∧ mwf (inStep 0).regs = true ∧ mwf (inStep 0).cores = true ∧ (inStep 0).stepCtx = some 0
      ∧ (∀ c ∈ (inStep 0).ctxCores 0, (inStep 0).coreStill c = true))
    ∧ ((links []).still = true ∧ up.runningCores = [] ∧ up.still = true ∧ up.stepActive = false)
    ∧ (quiet.run.quiescent = true ∧ quiet.run.quiet = true ∧ quiet.stepCtx = some 0
      ∧ (let t := (quiet.relay .stepResume).modRun fun r => { r with quiescent := false, quiet := false }
         t.resident = (t, [⟨5, 0, 0, Reg.MESH_CFG, 5⟩])
           ∧ ∀ c ∈ quiet.ctxCores 0, (t.putItems [⟨5, 0, 0, Reg.MESH_CFG, 5⟩]).flag (Reg.CB_CFG c) Fld.CB_CFG_EN = false))
    ∧ ((reloaded 0).run.quiescent = false ∧ (reloaded 0).run.cur = 6 ∧ (reloaded 0).stepActive = true ∧ (reloaded 0).run.restart = []
      ∧ (reloaded 0).isManager = false)
    ∧ (reloaded 1).isManager = true ∧ (reloaded 1).mgr.state = .repeating := by decide +kernel

def report0 : VerifyReport := { VerifyReport.zero with nfPos := 3 }
/-- The manager as a step is under way with a first report of rank 1, or as a repeat is. -/
def heard : State := let s := inStep 1; { s with mgr := { s.mgr with dets := [(1, report0)] } }

theorem meets_ManagerTakesReportsAndRunsSteps_first :
    (heard.isManager = true ∧ heard.mgr.state = .run ∧ heard.stepActive = true ∧ heard.applyBegun = false ∧ heard.still = true
      ∧ heard.mgr.nCause + 1 < heard.fld Reg.REPEAT_CFG Fld.REPEAT_CFG_REPEAT_MAX ∧ heard.mgr.verify = none
      ∧ mfind heard.mgr.dets 0 = none ∧ (mfind heard.mgr.dets 1).isSome = true)
    ∧ ((reloaded 1).mgr.quiet.contains 1 = false) ∧ ((group 2).role = 2 ∧ (group 2).mgr.due = false)
    ∧ (group 0).isManager = false ∧ (group 0).rank ≠ 1 := by decide

theorem meets_ManagerTakesReportsAndRunsSteps_second :
    (group 1).role = 1 ∧ (group 1).stepActive = false ∧ (group 1).mgr.state = .idle ∧ (group 1).attestHolds = false
      ∧ (group 1).flag Reg.STEP_ERR Fld.STEP_ERR_VALID = false ∧ (group 1).groupsHold = false :=
  ⟨by decide, by decide, by decide, by decide, by decide, Bool.and_false _⟩

/-! Images and profiles. -/

/-- An image file of one REGS section of 32 bytes for every rank, and no signature; `magic` is a byte of its MAGIC, 0x37 where it
is right. -/
def imageFile (magic : Nat) : Mem :=
  [(0, 0x52), (1, 0x56), (2, BitVec.ofNat 8 magic), (3, 0x49), (4, 2), (8, 0xC0), (9, 8), (0xA, 64), (0xB, 35), (0xC, 1), (0x10, 0xC0),
    (0x11, 1), (0x19, 1), (0x100, 4), (0x106, 0xFF), (0x107, 0xFF), (0x108, 0x20), (0x109, 1), (0x110, 0x20), (0x140, 0xFF)]
/-- Its load for partition 0 is under way, from boot flash or from core 0's scratchpad, where the section has an uncorrectable word. -/
def job (flash : Bool) : ImgLoad := ⟨0, spadAddr 0 0, if flash then some (0, 448) else none⟩
def imaging (magic : Nat) (flash : Bool) : State :=
  { put up [(Reg.NRL_TORUS 0, Fld.NRL_TORUS_X, 1), (Reg.NRL_TORUS 0, Fld.NRL_TORUS_Y, 1), (Reg.NRL_TORUS 0, Fld.NRL_TORUS_Z, 1),
      (Reg.NRL_TORUS 0, Fld.NRL_TORUS_W, 1), (Reg.NEAR_SET_CFG 0, Fld.NEAR_SET_CFG_VALID, 1)] with
    flash := imageFile magic, spad := imageFile magic, spUe := [72], imgLoad := some (job flash) }
def content : List SectionBody := [.regs [(Reg.LOSS_N, 0)]]
def sections (flash : Bool) : List (ImgSection × SectionBody) :=
  let s := imaging 0x37 flash
  s.imgApplied (s.imgSections (job flash) (s.imgHdr (job flash))) content

theorem memNat_lt (m : Mem) : ∀ n a, memNat m a n < 256 ^ n
  | 0, _ => by simp [memNat]
  | n + 1, a => by have := memNat_lt m n (a + 1); have := (memGet m a).isLt; simp only [memNat, Nat.pow_succ]; omega

theorem memNat_byte (m : Mem) : ∀ n a k, k < n → BitVec.ofNat 8 (memNat m a n / 256 ^ k) = memGet m (a + k)
  | n + 1, a, 0, _ => by
    apply BitVec.eq_of_toNat_eq
    have := (memGet m a).isLt
    simp only [memNat, BitVec.toNat_ofNat, Nat.pow_zero, Nat.div_one, Nat.add_zero]; omega
  | n + 1, a, k + 1, h => by
    have := (memGet m a).isLt
    rw [memNat, Nat.pow_succ', ← Nat.div_div_eq_div_mul,
      show ((memGet m a).toNat + 256 * memNat m (a + 1) n) / 256 = memNat m (a + 1) n by omega, memNat_byte m n (a + 1) k (by omega)]
    congr 1; omega

/-- A byte as its sector has it. -/
def byteOf (s : State) (a k : Nat) : Byte :=
  match s.place a with
  | none => 0
  | some (l, _) =>
    if s.gated l then 0
    else match l.space with
      | .near => memGet s.near (l.key + k)
      | .reach => memGet s.reach (l.key + k)
      | .spad => if s.scrubs (l.key / 0x20_0000) then 0 else memGet s.spad (l.key + k)

theorem rdAt_byte (s : State) (a k : Nat) (h : k < 32) : BitVec.ofNat 8 ((s.rdAt a).toNat / 256 ^ k) = byteOf s a k := by
  have sec (m : Mem) (a : Nat) : BitVec.ofNat 8 ((memSector m a).toNat / 256 ^ k) = memGet m (a + k) := by
    rw [memSector, BitVec.toNat_ofNat, show (2 : Nat) ^ 256 = 256 ^ 32 from rfl, Nat.mod_eq_of_lt (memNat_lt m 32 a), memNat_byte m 32 a k h]
  have z : BitVec.ofNat 8 ((0 : Sector).toNat / 256 ^ k) = 0 := by simp
  unfold State.rdAt byteOf
  cases s.place a with
  | none => exact z
  | some p =>
    obtain ⟨l, o⟩ := p
    simp only [State.rdLoc]
    cases s.gated l with
    | true => exact z
    | false =>
      cases l.space with
      | near => exact sec _ _
      | reach => exact sec _ _
      | spad =>
        simp only [Bool.false_eq_true, if_false]
        cases s.scrubs (l.key / 0x20_0000) with
        | true => exact z
        | false => exact sec _ _

theorem imgByte_byteOf (s : State) (j : ImgLoad) (h : j.flash = none) :
    s.imgByte j = fun i => byteOf s ((j.src + i) / 32 * 32) ((j.src + i) % 32) := by
  funext i
  unfold State.imgByte
  rw [h]
  exact rdAt_byte _ _ _ (Nat.mod_lt _ (by decide))

theorem meets_ImagesLoadAndProfilesSwitch_first :
    (up.hears .firmware Reg.IMG_CTL = true ∧ up.fld (Reg.PART_STAT (up.imagePart .firmware 0)) Fld.PART_STAT_STATE ≠ 2 ∧ up.imgLoad = none
      ∧ up.partRuns 0 = false ∧ up.loadAgrees 0 (up.fld Reg.IMG_SRC Fld.IMG_SRC_ADDR) = false
      ∧ (imaging 0x37 false).loadAgrees 0 ((imaging 0x37 false).fld Reg.IMG_SRC Fld.IMG_SRC_ADDR) = true
      ∧ up.flag Reg.CFG_ERR Fld.CFG_ERR_VALID = false)
    ∧ ((imaging 0x36 true).imgLoad = some (job true) ∧ (imaging 0x36 true).startStep ≠ 10
      ∧ (imaging 0x36 true).imgFileCheck (job true) = 0x75C1)
    ∧ ((imaging 0x37 true).imgFileCheck (job true) = 0 ∧ (imaging 0x37 false).imgFileCheck (job false) = 0)
    ∧ (∀ f, (imaging 0x37 f).imgPlaceCheck (job f) (sections f) = 0
      ∧ bodiesFit ((imaging 0x37 f).imgSections (job f) ((imaging 0x37 f).imgHdr (job f))) content = true
      ∧ (sections f).any (fun x => (imaging 0x37 f).imgUe (job f) x.1.off x.1.len) = !f) := by
  refine ⟨by decide, by decide +kernel, ⟨by decide +kernel, ?_⟩, fun f => by cases f <;> decide +kernel⟩
  unfold State.imgFileCheck State.imgFormed State.imgHdr State.imgSections State.imgMeas State.imgZero State.imgNat
  rw [imgByte_byteOf _ _ rfl]
  decide +kernel

/-- The manager waits for the devices' answers about record 2. -/
def asking : State := let s := group 1; { s with mgr := { s.mgr with profile := some 2, checks := [(0, true)] } }

/-- A flash whose profile record 2 at offset 0 is all zero but for its magic and number, with the digest `h`. -/
def profFlash (h : Nat) : Mem :=
  [(0, 0x52), (1, 0x56), (2, 0x50), (3, 0x46), (4, 2)] ++ ((List.range 64).map fun i => (256 + i, BitVec.ofNat 8 (h / 256 ^ i))) ++ [(320, 0xFF)]

theorem memNat_of_bytes (m : Mem) : ∀ (n a h : Nat), (∀ i < n, memGet m (a + i) = BitVec.ofNat 8 (h / 256 ^ i)) →
    memNat m a n = h % 256 ^ n
  | 0, _, _, _ => by simp [memNat, Nat.mod_one]
  | n + 1, a, h, H => by
    have h0 := H 0 (by omega)
    have ih := memNat_of_bytes m n (a + 1) (h / 256) fun i hi => by
      have := H (i + 1) (by omega)
      rw [show a + 1 + i = a + (i + 1) by omega, this, Nat.div_div_eq_div_mul, Nat.pow_succ, Nat.mul_comm (256 ^ i)]
    simp only [memNat, ih]
    simp only [Nat.add_zero, Nat.pow_zero, Nat.div_one] at h0
    rw [h0, BitVec.toNat_ofNat, show 256 ^ (n + 1) = 256 * 256 ^ n by rw [Nat.pow_succ, Nat.mul_comm], Nat.mod_mul]

theorem profFlash_hash (h : Hash) : memHash (profFlash h.toNat) 256 = h := by
  have H : (List.range 64).map (fun i => memGet (profFlash h.toNat) (256 + i)) = (List.range 64).map fun i => BitVec.ofNat 8 (h.toNat / 256 ^ i) := rfl
  rw [List.map_inj_left] at H
  unfold memHash
  rw [memNat_of_bytes _ 64 256 h.toNat fun i hi => H i (List.mem_range.2 hi)]
  apply BitVec.eq_of_toNat_eq
  rw [BitVec.toNat_ofNat, show (256 : Nat) ^ 64 = 2 ^ 512 by rw [show (256 : Nat) = 2 ^ 8 from rfl, ← Nat.pow_mul], Nat.mod_mod,
    Nat.mod_eq_of_lt h.isLt]

theorem profFlash_head (h : Nat) : memBytes (profFlash h) 0 256 = memBytes (profFlash 0) 0 256 := by
  have : ∀ i < 256, memGet (profFlash h) (0 + i) = memGet (profFlash 0) (0 + i) := by
    intro i hi
    have z (h : Nat) : profFlash h = (0, 0x52) :: (1, 0x56) :: (2, 0x50) :: (3, 0x46) :: (4, 2) :: (256, BitVec.ofNat 8 (h / 1)) ::
        ((List.range 63).map fun i => (257 + i, BitVec.ofNat 8 (h / 256 ^ (i + 1)))) ++ [(320, 0xFF)] := by
      unfold profFlash; rw [show List.range 64 = 0 :: (List.range 63).map (· + 1) from rfl]; simp [Nat.add_comm]
    simp only [memGet, mget, z, List.cons_append, mfind, Nat.zero_add, hi, if_true]
  exact List.map_congr_left fun i hi => this i (List.mem_range.1 hi)

def profDig : Hash := Config.sha512 (memBytes (profFlash 0) 0 256)
/-- A part whose flash holds profile record 2, in a step. -/
def profiled : State :=
  let s := inStep 0
  { s with flash := profFlash profDig.toNat, boot := { s.boot with hdr := { s.boot.hdr with profOff := [64, 64, 0, 64] } } }

set_option maxRecDepth 20000 in
theorem profiled_valid : profiled.profValid 2 = true := by
  have f : profiled.flash = profFlash profDig.toNat := rfl
  have h : memHash profiled.flash 256 = Config.sha512 (memBytes profiled.flash 0 256) := by
    rw [f, profFlash_hash, profFlash_head]; rfl
  have a : (profiled.profOff 2) = some 0 := rfl
  have b : (memNat profiled.flash 0 4 == 0x46505652 && memNat profiled.flash 4 1 == 2) = true := rfl
  have c : ((List.range 24).all fun i =>
      decide ((profileAt profiled.flash 0).opp.getD i 0 ≤ (profileAt profiled.flash 0).oppMax.getD (i % 4) 0)) = true := by rfl
  have d (l : List Byte) : profiled.sigRule (memNat profiled.flash 0x140 1) l (memHash profiled.flash 0x180) = true := rfl
  unfold State.profValid
  rw [a]
  simp only [Nat.zero_add, b, c, d, h, beq_self_eq_true, Bool.and_self]

theorem meets_ImagesLoadAndProfilesSwitch_second :
    (asking.isManager = true ∧ asking.mgr.profile = some 2) ∧ (group 0).isManager = false ∧ (group 0).rank ≠ 1
    ∧ profiled.stepActive = true ∧ profiled.isManager = false ∧ profiled.profValid 2 = true :=
  ⟨by decide, by decide, by decide, rfl, rfl, profiled_valid⟩

/-! Expert routing. -/

/-- Core 0 routes: builds of eight entries (two tokens of four choices, four experts) in the window at 0x800; OPEN is pennant 1,
which reads 5, and DONE pennant 2. -/
def routing (f : RouteState → RouteState) : State :=
  let s := put (runAt 5) [(Reg.RT_CFG 0, Fld.RT_CFG_EN, 1), (Reg.RT_CFG 0, Fld.RT_CFG_NEXP_M1, 3), (Reg.RT_CFG 0, Fld.RT_CFG_KSEL_M1, 3),
    (Reg.RT_CFG 0, Fld.RT_CFG_NTOK_M1, 1), (Reg.RT_WIN 0, Fld.RT_WIN_OFFSET, 0x800), (Reg.RT_PEN 0, Fld.RT_PEN_OPEN, 1),
    (Reg.RT_PEN 0, Fld.RT_PEN_DONE, 2), (Reg.LPEN_STAT 0 1, Fld.LPEN_STAT_KIND, 1), (Reg.LPEN_VAL 0 1, Fld.LPEN_VAL_VALUE, 5),
    (Reg.LPEN_STAT 0 2, Fld.LPEN_STAT_KIND, 1), (Reg.LPEN_VAL 0 2, Fld.LPEN_VAL_VALUE, 7)]
  s.modRoute 0 f
def entries8 : SMap Word32 := (List.range 8).map fun i => (i, BitVec.ofNat 32 (i % 5))
def collecting : State := routing fun r => { r with winq := [(0x800, 0x0001_0000_0002, beAll)] }
def complete : State := routing fun r => { r with entries := entries8 }
def building : State := routing fun r => { r with busy := true, writes := [(0x40, [1, 2, 3])] }

theorem meets_RouteBuildsAndCombineLanesAct_first :
    ((collecting.routeOf 0).winq = [(0x800, 0x0001_0000_0002, beAll)] ∧ collecting.buildFull 0 = false
      ∧ (collecting.routeOf 0).busy = false ∧ collecting.fld (Reg.RT_WIN 0) Fld.RT_WIN_OFFSET ≤ 0x800)
    ∧ (complete.flag (Reg.RT_CFG 0) Fld.RT_CFG_EN = true ∧ complete.buildFull 0 = true
      ∧ complete.penVal (localKey 0 (complete.fld (Reg.RT_PEN 0) Fld.RT_PEN_OPEN)) = 5)
    ∧ ((building.routeOf 0).busy = true ∧ Memory.wf building.spad = true ∧ building.penTable = [] ∧ building.penMsgs = []
      ∧ building.coreStill 0 = true)
    ∧ penApply (building.penCounting (localKey 0 2)) (building.penVal (localKey 0 2)) 0 1 = .ok 8 := by
  refine ⟨by decide, by decide, by decide, rfl⟩

/-- Core 0 combines: four experts, lanes of two row sectors; headers at 0x1000, rows at 0x2000. OPEN (pennant 1) reads 5 and
CLOSE (pennant 3) 2, so that epochs 2 to 4 are live, the even ones for half 0; its arrivals are pennant 4. -/
def combining (fs : List (Nat × FieldPos × Nat)) (f : RouteState → RouteState) : State :=
  let s := put (runAt 5) ([(Reg.CB_CFG 0, Fld.CB_CFG_EN, 1), (Reg.CB_CFG 0, Fld.CB_CFG_NEXP_M1, 3), (Reg.CB_CFG 0, Fld.CB_CFG_ROW_SEC_M1, 1),
    (Reg.CB_HDR 0, Fld.CB_HDR_OFFSET, 0x1000), (Reg.CB_ROWS 0, Fld.CB_ROWS_OFFSET, 0x2000), (Reg.CB_PEN 0, Fld.CB_PEN_OPEN, 1),
    (Reg.CB_PEN 0, Fld.CB_PEN_CLOSE, 3), (Reg.CB_PEN 0, Fld.CB_PEN_ARR_A, 4), (Reg.LPEN_STAT 0 1, Fld.LPEN_STAT_KIND, 1),
    (Reg.LPEN_VAL 0 1, Fld.LPEN_VAL_VALUE, 5), (Reg.LPEN_STAT 0 3, Fld.LPEN_STAT_KIND, 1), (Reg.LPEN_VAL 0 3, Fld.LPEN_VAL_VALUE, 2),
    (Reg.LPEN_STAT 0 4, Fld.LPEN_STAT_KIND, 1)] ++ fs)
  s.modRoute 0 f
def headed (e : Nat) : State := combining [] fun r => { r with combq := [(0x1060, BitVec.ofNat 256 e, beAll)] }
/-- Lane 3 receives for epoch 4 and has `n` of its two row sectors; one for the row at 0x20C0 + 32n has come. -/
def receiving (n : Nat) : State :=
  combining [(Reg.CB_LANE 0 0, ⟨12, 4⟩, 1)] fun r => { r with lanes := [(3, (4, n))], combq := [(0x20C0 + 32 * n, 9, beAll)] }

theorem meets_RouteBuildsAndCombineLanesAct_second :
    (∀ e ∈ [4, 5], (headed e).coreIdle 0 = true ∧ (headed e).flag (Reg.CB_CFG 0) Fld.CB_CFG_EN = true ∧ (headed e).laneState 0 3 = 0
      ∧ (headed e).spadOpen 0 = true ∧ Memory.wf (headed e).spad = true ∧ ((headed e).routeOf 0).lanes = []
      ∧ ((headed e).routeOf 0).span = (headed e).spanExceeded 0
      ∧ ((headed e).routeOf 0).combq = [((headed e).fld (Reg.CB_HDR 0) Fld.CB_HDR_OFFSET + 32 * 3, BitVec.ofNat 256 e, beAll)])
    ∧ ((headed 4).epochLive 0 ((headed 4).laneHalf 0 3) 4 = true ∧ (headed 5).epochLive 0 ((headed 5).laneHalf 0 3) 5 = false)
    ∧ (∀ n ∈ [0, 1], (receiving n).coreIdle 0 = true ∧ (receiving n).laneState 0 3 = 1 ∧ (receiving n).spadOpen 0 = true
      ∧ (∀ p ∈ (receiving n).cores, p.1 = 0 ∨ (receiving n).coreStill p.1 = true)
      ∧ ((receiving n).routeOf 0).lanes = [(3, (4, n))] ∧ ((receiving n).routeOf 0).span = false
      ∧ (receiving n).epochLive 0 ((receiving n).laneHalf 0 3) 4 = true ∧ (receiving n).penTable = [] ∧ (receiving n).penMsgs = []
      ∧ ((receiving n).routeOf 0).combq
          = [((receiving n).fld (Reg.CB_ROWS 0) Fld.CB_ROWS_OFFSET + 3 * (receiving n).combRows 0 * 32 + 32 * n, 9, beAll)])
    ∧ (receiving 1).combRows 0 = 2
    ∧ penApply ((receiving 1).penCounting (localKey 0 4)) ((receiving 1).penVal (localKey 0 4)) 0 1 = .ok 1 := by
  refine ⟨by decide, by decide, by decide, by decide, rfl⟩

/-! Clocks and power. -/

/-- Die 1 ramps from OPP 1 to its target 3 of a profile that allows 5. -/
def ramping : State := { put up [(Reg.DIE_OPP 1, Fld.DIE_OPP_TARGET, 3), (Reg.DIE_OPP 1, Fld.DIE_OPP_SETTLED, 1),
    (Reg.DIE_OPP 1, Fld.DIE_OPP_RAMPING, 1), (Reg.PH_CFG 1, Fld.PH_CFG_PHASES, 12)] with
  power := { up.power with pwmMid := false } }

theorem meets_OperatingPointsFollowTargets :
    ramping.replay = false ∧ ramping.held = [] ∧ mwf ramping.power.islOpp = true ∧ ramping.run.t0Held = false ∧ ramping.still = true
      ∧ ramping.power.pwmMid = false ∧ ramping.pwrState < 3 ∧ ramping.power.coreMv.length = 4 ∧ ramping.power.sramMv.length = 4
      ∧ ramping.flag (Reg.DIE_OPP 1) Fld.DIE_OPP_RAMPING = true ∧ ramping.power.trip = 0 := by decide

theorem meets_TripsAndCapsAct_first :
    ramping.power.trip = 0 ∧ ramping.flag (Reg.DIE_OPP 1) Fld.DIE_OPP_RAMPING = true
      ∧ 11 < ramping.fld (Reg.PH_CFG 1) Fld.PH_CFG_PHASES ∧ ramping.power.missed[4]? = some 0
      ∧ ({ ramping with power := { ramping.power with missed := ramping.power.missed.set 4 2 } } : State).power.missed[4]? = some 2
      ∧ ramping.flag Reg.PWR_ERR Fld.PWR_ERR_VALID = false ∧ ramping.flag Reg.CLK_ERR Fld.CLK_ERR_VALID = false := by decide

/-- Power in excess, and die 1 hot. -/
def stressed : State := { ramping with power := { ramping.power with excess := true, hot := [false, true, false, false] } }

theorem meets_TripsAndCapsAct_second :
    stressed.stepActive = false ∧ stressed.power.capPwr.length = 4 ∧ stressed.power.capTherm.length = 4
      ∧ (∀ c ∈ stressed.power.capPwr, c ≤ 7) ∧ (∀ c ∈ stressed.power.capTherm, c ≤ 7) ∧ stressed.power.excess = true
      ∧ stressed.power.hot.getD 1 false = true := by decide

/-- An idle part whose tolerance is 3 µs, in a power state `st` that it enters or wakes from. -/
def resting (st entering : Nat) (waking : Bool) : State :=
  let s := put up [(Reg.PWR_STAT, Fld.PWR_STAT_STATE, st), (Reg.PWR_STAT, Fld.PWR_STAT_ENTERING, entering), (Reg.LAT_TOL 0, ⟨0, 32⟩, 3000)]
  { s with power := { s.power with waking := waking } }

theorem meets_PowerStatesEnterAndExit :
    ((resting 0 0 false).inactive = true ∧ (resting 0 0 false).pwrState < (resting 0 0 false).entryState
      ∧ (resting 0 0 false).power.trip = 0)
    ∧ ((resting 4 1 false).flag Reg.PWR_STAT Fld.PWR_STAT_ENTERING = true ∧ (resting 4 1 false).pwrState = 4
      ∧ (resting 3 1 false).pwrState = 3)
    ∧ ((resting 1 0 true).power.waking = true ∧ (resting 1 0 true).pwrState ≤ 1 ∧ (resting 1 0 true).power.asleep = [])
    ∧ (resting 3 0 false).hears .firmware (Reg.LAT_TOL 0) = true := by decide

/-! Resets and starts. -/

/-- The part held in RST_N. -/
def held : State := { State.reset with boot := { State.reset.boot with held := true } }
theorem meets_ColdResetsBeginAtStepOne :
    up.boot.held = false ∧ up.boot.off = false ∧ held.boot.held = true ∧ held.boot.off = false ∧ held.cores = [] ∧ held.spad = []
      ∧ held.near = [] ∧ held.reqs = [] ∧ held.started = false ∧ keepMask 0 Reg.MESH_CFG = 0 := by decide +kernel

/-- As `up`, with the watchdog armed and lifecycle state 1, in-band resets on, and PERST_N's scope. -/
def watched (scope : Nat) : State :=
  let s := put (moves.setReg Reg.MESH_CFG 0) [(Reg.RST_CFG, Fld.RST_CFG_PERST_SCOPE, scope), (Reg.RST_CFG, Fld.RST_CFG_INBAND_EN, 1),
    (Reg.SEC_STAT, Fld.SEC_STAT_LC, 1), (Reg.RST_STAT, Fld.RST_STAT_STEP, 0)]
  { s with boot := { s.boot with watchdog := true }, near := [(32, 5)] }

theorem meets_WarmAndPartialResetsAct_first :
    (watched 0).outranked = false ∧ (watched 0).inStart = false ∧ mwf (watched 0).regs = true ∧ mwf (watched 0).cores = true
      ∧ (watched 0).fld Reg.RST_CFG Fld.RST_CFG_PERST_SCOPE = 0 ∧ (watched 1).fld Reg.RST_CFG Fld.RST_CFG_PERST_SCOPE = 1
      ∧ (watched 0).boot.watchdog = true ∧ (watched 0).boot.waitImage = false ∧ (watched 0).pwrState = 0
      ∧ (watched 0).flag Reg.RST_CFG Fld.RST_CFG_INBAND_EN = true ∧ (watched 0).lifecycle = 1
      ∧ (watched 0).flag Reg.RST_ERR Fld.RST_ERR_VALID = false := by decide

theorem meets_WarmAndPartialResetsAct_second :
    (watched 0).outranked = false ∧ (watched 0).inStart = false ∧ mwf (watched 0).regs = true ∧ mwf (watched 0).cores = true
      ∧ (watched 0).pwrState = 0 ∧ (watched 0).partExists 0 = true ∧ 0 ∈ (watched 0).ctxCores 0 := by decide +kernel

/-- A start at a step, its crystals judged or judged by comparison. -/
def starting (step ok mode : Nat) : State :=
  put up [(Reg.RST_STAT, Fld.RST_STAT_STARTED, 0), (Reg.RST_STAT, Fld.RST_STAT_STEP, step), (Reg.CLK_STAT, Fld.CLK_STAT_XA_OK, ok),
    (Reg.CLK_STAT, Fld.CLK_STAT_XB_OK, ok), (Reg.CLK_STAT, Fld.CLK_STAT_XA_MODE, mode), (Reg.CLK_STAT, Fld.CLK_STAT_XB_MODE, mode)]
def hostPath : State := { starting 3 1 0 with boot := { up.boot with hostPath := true } }

/-- Host boot without boot flash, in step 5. -/
def noXb : State := { (starting 5 0 1).setFld Reg.STRAP Fld.STRAP_A 240 with boot := { up.boot with recovering := true, hdrOk := false } }

/-- Boot flash with three empty firmware images of every kind, which serve stepping 0 as `st` has it. -/
def fwFlash (st : Nat) : Mem := (List.range 3).flatMap fun i =>
  let a := 256 * i
  [(a, 0x52), (a + 1, 0x56), (a + 2, 0x37), (a + 3, 0x46), (a + 4, BitVec.ofNat 8 i), (a + 16, BitVec.ofNat 8 st)]
/-- A warm start at step 4, where the measurements of those images stand in the log. -/
def fwState (st : Nat) : State :=
  let b := { up.boot with warm := true, hdr := { up.boot.hdr with fwLoc := [(0, 256), (256, 256), (512, 256), (0, 0)] } }
  let s := { starting 4 1 0 with boot := b, flash := fwFlash st }
  (List.range 3).foldl (fun s i => s.setLog i (Config.sha512 (memBytes (fwFlash st) (256 * i) 256))) s

theorem words_sum (x : Nat) : ∀ n, (List.range n).foldl (fun v j => v + x / 2 ^ (64 * j) % 2 ^ 64 * 2 ^ (64 * j)) 0 = x % 2 ^ (64 * n)
  | 0 => by simp [Nat.mod_one]
  | n + 1 => by
    rw [List.range_succ, List.foldl_append, words_sum x n, show 64 * (n + 1) = 64 * n + 64 by omega, Nat.pow_add, Nat.mod_mul]
    simp [Nat.mul_comm]

def fwHash (st i : Nat) : Hash := Config.sha512 (memBytes (fwFlash st) (256 * i) 256)

theorem reg_setLog (s : State) (i k j : Nat) (h : Hash) (hj : j < 8) : (s.setLog i h).reg (Reg.SEC_MLOG k j)
    = if k = i then BitVec.ofNat 64 (h.toNat / 2 ^ (64 * j)) else s.reg (Reg.SEC_MLOG k j) := by
  have g : ∀ n ≤ 8, ((List.range n).foldl (fun s m => s.setReg (Reg.SEC_MLOG i m) (BitVec.ofNat 64 (h.toNat / 2 ^ (64 * m)))) s).reg
      (Reg.SEC_MLOG k j) = if k = i ∧ j < n then BitVec.ofNat 64 (h.toNat / 2 ^ (64 * j)) else s.reg (Reg.SEC_MLOG k j) := by
    intro n
    induction n with
    | zero => intro _; simp
    | succ n ih =>
      intro hn
      have a : Reg.SEC_MLOG k j = Reg.SEC_MLOG i n ↔ k = i ∧ j = n := by unfold Reg.SEC_MLOG; omega
      rw [List.range_succ, List.foldl_append]
      simp only [List.foldl, reg_setReg, a, ih (by omega)]
      by_cases e : k = i ∧ j = n
      · rw [if_pos e, if_pos (by omega), e.2]
      · rw [if_neg e]
        by_cases e2 : k = i ∧ j < n
        · rw [if_pos e2, if_pos (by omega)]
        · rw [if_neg e2, if_neg (by omega)]
  have := g 8 (Nat.le_refl _)
  unfold State.setLog
  rw [this]
  by_cases e : k = i <;> simp [e, hj]

theorem logEntry_setLog (s : State) (i k : Nat) (h : Hash) : (s.setLog i h).logEntry k = if k = i then h else s.logEntry k := by
  have g (f w : Nat → Nat) (n : Nat) (hf : ∀ j < n, f j = w j) : (List.range n).foldl (fun v j => v + f j * 2 ^ (64 * j)) 0
      = (List.range n).foldl (fun v j => v + w j * 2 ^ (64 * j)) 0 := by
    induction n with
    | zero => rfl
    | succ n ih => rw [List.range_succ, List.foldl_append, List.foldl_append, ih fun j hj => hf j (by omega)]; simp [hf n (by omega)]
  unfold State.logEntry
  by_cases e : k = i
  · rw [g _ (fun j => h.toNat / 2 ^ (64 * j) % 2 ^ 64) 8 fun j hj => by rw [reg_setLog s i k j h hj, if_pos e, BitVec.toNat_ofNat],
      words_sum, Nat.mod_eq_of_lt h.isLt, if_pos e]
    simp
  · rw [g _ (fun j => (s.reg (Reg.SEC_MLOG k j)).toNat) 8 fun j hj => by rw [reg_setLog s i k j h hj, if_neg e], if_neg e]

theorem setLog_boot (s : State) (i : Nat) (h : Hash) : (s.setLog i h).boot = s.boot := rfl
theorem setLog_flash (s : State) (i : Nat) (h : Hash) : (s.setLog i h).flash = s.flash := rfl

theorem fwState_images (st : Nat) (hs : st < 2) :
    (fwState st).fwImages = (List.range 3).map fun i => State.fwImageAt (fwFlash st) (256 * i) 256 := by
  have hb : (fwState st).hostBoot = false := by
    match st, hs with
    | 0, _ | 1, _ => decide +kernel
  have b : (fwState st).boot.hdr.fwLoc = [(0, 256), (256, 256), (512, 256), (0, 0)] := by
    simp only [fwState, show List.range 3 = [0, 1, 2] from rfl, List.foldl, setLog_boot]
  have f : (fwState st).flash = fwFlash st := by
    simp only [fwState, show List.range 3 = [0, 1, 2] from rfl, List.foldl, setLog_flash]
  unfold State.fwImages
  rw [hb, b, f]
  simp only [Bool.false_eq_true, if_false]
  refine List.map_congr_left fun i hi => ?_
  match i, List.mem_range.1 hi with
  | 0, _ | 1, _ | 2, _ => simp

theorem fwImages_stand : ∀ st < 2, ∀ i < 3, (State.fwImageAt (fwFlash st) (256 * i) 256).any
    (fun f => f.kind == i && f.bytes == memBytes (fwFlash st) (256 * i) 256) = true := by decide +kernel

theorem fwState_signed (st : Nat) (hs : st < 2) :
    ((List.range 3).all fun i => (fwState st).fwSigned i ((fwState st).fwImages.getD i none)) = true := by
  rw [List.all_eq_true]
  intro i hi
  have hi := List.mem_range.1 hi
  have l : (fwState st).logEntry i = fwHash st i := by
    simp only [fwState, show List.range 3 = [0, 1, 2] from rfl, List.foldl, logEntry_setLog]
    repeat' split
    all_goals first | (subst_vars; rfl) | omega
  have w : (fwState st).boot.warm = true := by
    simp only [fwState, show List.range 3 = [0, 1, 2] from rfl, List.foldl, setLog_boot]
  have m : (fwState st).fwImages.getD i none = State.fwImageAt (fwFlash st) (256 * i) 256 := by
    rw [fwState_images st hs, List.getD_eq_getElem?_getD, List.getElem?_map, List.getElem?_range hi]; rfl
  have h := fwImages_stand st hs i hi
  rw [m]
  cases e : State.fwImageAt (fwFlash st) (256 * i) 256 with
  | none => rw [e] at h; simp at h
  | some f =>
    simp only [e, Option.any_some, Bool.and_eq_true, beq_iff_eq] at h
    simp only [State.fwSigned, State.FwImage.measure, h.1, h.2, l, w, fwHash, beq_self_eq_true, Bool.and_self, Bool.true_or]

theorem meets_StartsGoStepByStepOrBeginAgain_firmware :
    (∀ st < 2, (fwState st).startStep = 4 ∧ (fwState st).lifecycle ≠ 2 ∧ (fwState st).fld Reg.RST_STAT Fld.RST_STAT_FSC < 2
      ∧ ((List.range 3).all fun i => (fwState st).fwSigned i ((fwState st).fwImages.getD i none)) = true)
    ∧ State.fwFit ((fwState 1).fwImages.filterMap id) = true ∧ State.fwFit ((fwState 0).fwImages.filterMap id) = false
    ∧ (starting 4 1 0).startStep = 4
    ∧ ((List.range 3).all fun i => (starting 4 1 0).fwSigned i ((starting 4 1 0).fwImages.getD i none)) = false := by
  refine ⟨fun st h => ⟨?_, ?_, ?_, fwState_signed st h⟩, ?_, ?_, by decide, by decide +kernel⟩
  · match st, h with
    | 0, _ | 1, _ => decide +kernel
  · match st, h with
    | 0, _ | 1, _ => decide +kernel
  · match st, h with
    | 0, _ | 1, _ => decide +kernel
  · rw [fwState_images 1 (by decide)]; decide +kernel
  · rw [fwState_images 0 (by decide)]; decide +kernel

theorem meets_StartsGoStepByStepOrBeginAgain_first :
    (starting 1 0 0).startStep = 1
    ∧ ((starting 5 1 0).startStep = 5 ∧ (starting 5 1 0).flag Reg.CLK_STAT Fld.CLK_STAT_XA_OK = true ∧ (starting 5 1 0).xbOk = true)
    ∧ (starting 6 1 0).startStep = 6 ∧ (starting 7 1 0).startStep = 7 ∧ (starting 7 1 0).boot.recovering = false
    ∧ (starting 11 1 0).startStep = 11 ∧ (starting 11 1 0).power.asleep = []
    ∧ ((starting 5 0 0).judging = true ∧ (starting 5 0 0).boot.hostPath = false
      ∧ (starting 5 0 0).flag Reg.CLK_STAT Fld.CLK_STAT_XA_MODE = false)
    ∧ ((starting 5 0 1).judging = true ∧ (starting 5 0 1).flag Reg.CLK_STAT Fld.CLK_STAT_XA_MODE = true
      ∧ (starting 5 0 1).flag Reg.CLK_STAT Fld.CLK_STAT_XB_MODE = true)
    ∧ (noXb.judging = true ∧ noXb.boot.judged = false ∧ noXb.xbMayLack = true) ∧ (starting 8 1 0).startStep = 8
    ∧ hostPath.boot.hostPath = true ∧ hostPath.flag Reg.CLK_STAT Fld.CLK_STAT_XA_OK = true := by decide

/-- A failed start that waits, of a kind. -/
def failed (warm : Bool) : State := { starting 0 1 0 with boot := { up.boot with retry := true, warm := warm } }
def recovery : State := put up [(Reg.RST_STAT, Fld.RST_STAT_RECOVERY, 1), (Reg.RST_STAT, Fld.RST_STAT_FSC, 3)]

theorem meets_StartsGoStepByStepOrBeginAgain_second :
    ((starting 5 0 1).fld Reg.RST_STAT Fld.RST_STAT_FSC < 2 ∧ (starting 5 0 1).judging = true
      ∧ (starting 5 0 1).flag Reg.CLK_STAT Fld.CLK_STAT_XB_OK = false ∧ (starting 5 0 1).xbMayLack = false)
    ∧ (starting 6 1 0).fld Reg.RST_STAT Fld.RST_STAT_FSC < 2 ∧ (starting 7 1 0).fld Reg.RST_STAT Fld.RST_STAT_FSC < 2
    ∧ (starting 6 1 0).flag Reg.RST_ERR Fld.RST_ERR_VALID = false
    ∧ (failed true).boot.retry = true ∧ (failed true).boot.warm = true ∧ (failed false).boot.warm = false
    ∧ (failed false).inRecovery = false ∧ recovery.pwrState = 0 ∧ recovery.inRecovery = true ∧ recovery.strap ≠ 15 := by decide

/-! Security and debug. -/

/-- A started part with near memory of partition 0 up from address 0, which holds `bs` at 0x400, where SEC_ARG points; lifecycle
state `lc`, a live challenge of 0, no keys. -/
def secured (lc : Nat) (bs : Mem) : State :=
  let s := put up [(Reg.NEAR_SET_CFG 0, Fld.NEAR_SET_CFG_VALID, 1), (Reg.SEC_STAT, Fld.SEC_STAT_LC, lc), (Reg.SEC_ARG, Fld.SEC_ARG_ADDR, 0x400)]
  { s with near := bs, enclave := { s.enclave with live := true } }
/-- A signed command of an operation with its arguments, by slot 0xFF, with public key 7. -/
def signedMem (op a0 a1 pub : Nat) : Mem :=
  [(0x400, 0x52), (0x401, 0x56), (0x402, 0x37), (0x403, 0x53), (0x404, BitVec.ofNat 8 op), (0x405, 0xFF), (0x406, BitVec.ofNat 8 a0),
    (0x407, BitVec.ofNat 8 a1), (0x438, BitVec.ofNat 8 pub)]
/-- A region list: 64 bytes from 0x800. -/
def regions (len : Nat) : Mem := [(0x401, 8), (0x408, BitVec.ofNat 8 len)]
def attesting (pend busy : Nat) : State :=
  let s := put (secured 1 [(0x800, 3)]) [(Reg.SA_STAT, Fld.SA_STAT_PENDING, pend), (Reg.SA_STAT, Fld.SA_STAT_BUSY, busy)]
  { s with enclave := { s.enclave with saRegs := [(0x800, 64)] } }

theorem meets_AttestationsAnswerRequests :
    ((secured 1 []).pwrState = 0 ∧ ((secured 1 []).secArg 32).isSome = true)
    ∧ ((secured 1 []).putSectors ((secured 1 []).fld Reg.SEC_ARG Fld.SEC_ARG_ADDR + 32) (sectorsOf 26
        ((secured 1 []).attestReport ((secured 1 []).secPart 0) (((secured 1 []).secArg 32).getD [])))).isSome = true
    ∧ ((secured 1 (regions 64)).flag Reg.SA_STAT Fld.SA_STAT_PENDING = false
      ∧ (secured 1 (regions 64)).flag Reg.SA_STAT Fld.SA_STAT_BUSY = false
      ∧ ((secured 1 (regions 64)).secArg 64).any (fun l => (regionList l).all ((secured 1 (regions 64)).regionOk 0)) = true
      ∧ ((secured 1 (regions 65)).secArg 64).any (fun l => !(regionList l).all ((secured 1 (regions 65)).regionOk 0)) = true)
    ∧ ((attesting 1 0).flag Reg.SA_STAT Fld.SA_STAT_PENDING = true ∧ (attesting 1 0).stepActive = false)
    ∧ (attesting 0 1).flag Reg.SA_STAT Fld.SA_STAT_BUSY = true
      ∧ ∀ q ∈ [0x800, 0x820], ∃ l o, (attesting 0 1).place q = some (l, o) ∧ (attesting 0 1).ueLoc l = none := by
  refine ⟨by decide, rfl, by decide, by decide, by decide, fun q hq => ?_⟩
  simp only [List.mem_cons, List.not_mem_nil, or_false] at hq
  rcases hq with rfl | rfl <;> exact ⟨_, _, rfl, rfl⟩

theorem meets_SignedCommandsChangeWhatTheyName :
    (secured 1 []).pwrState = 0 ∧ (secured 1 []).enclave.live = true ∧ ((secured 1 []).secArg 192).isSome = true := by decide

/-- A first key install and a deployment without an owner key pass their checks by slot 0xFF (R379, R381). -/
theorem test_signed_without_key :
    (match ((secured 1 (signedMem 1 2 5 7)).signedCheck 1).1 with
      | .ok c => c.arg0 == 2 && c.arg1 == 5 && c.pub == 7
      | .error _ => false) = true
    ∧ (match ((secured 1 (signedMem 3 2 0 0)).signedCheck 3).1 with
      | .ok c => c.arg0 == 2
      | .error _ => false) = true := by decide

def locked (v : Nat) : State := put (secured 2 []) [(Reg.DBG_STAT, Fld.DBG_STAT_LOCKED, v), (Reg.DBG_STAT, Fld.DBG_STAT_FAILS, 7)]

theorem meets_DebugLevelsOpenAndClose : (locked 0).pwrState = 0 ∧ (locked 0).flag Reg.DBG_STAT Fld.DBG_STAT_LOCKED = false
    ∧ (locked 1).flag Reg.DBG_STAT Fld.DBG_STAT_LOCKED = true ∧ (locked 0).lifecycle = 2 ∧ (secured 1 []).lifecycle ≠ 2 := by decide

/-- A debug level over partition 0, of core 0 whose streams stand at index 5 in state `st`, where the access stream finds a CADD
of 7 to counter 2; the address is 0x824 of near memory. -/
def debugging (level st : Nat) : State :=
  let s := put (withWord 5 5 0x05 (body [(119, 2), (0, 7)])) [(Reg.NEAR_SET_CFG 0, Fld.NEAR_SET_CFG_VALID, 1),
    (Reg.STRM_STAT 0 0, Fld.STRM_STAT_STATE, st), (Reg.STRM_STAT 0 1, Fld.STRM_STAT_STATE, st), (Reg.DBG_STAT, Fld.DBG_STAT_LEVEL, level),
    (Reg.DBG_ADDR, Fld.DBG_ADDR_ADDR, 0x824), (Reg.DBG_DATA, Fld.DBG_DATA_DATA, 0x00070009)]
  { s with near := [(0x825, 3), (0x830, 4)], enclave := { s.enclave with tapIr := 0x10 } }

theorem meets_DebugAccessesObeyTheLevel :
    ((debugging 2 1).pwrState = 0 ∧ (debugging 2 1).dbgLevel = 2 ∧ (debugging 2 1).coreCtx 0 = some (debugging 2 1).dbgPart
      ∧ (debugging 2 1).coreStill 0 = true)
    ∧ ((debugging 2 0).dbgMayRun 0 = true ∧ (debugging 2 0).strmState 0 .access = 0 ∧ (debugging 2 0).strmState 0 .execute = 0
      ∧ (debugging 2 0).coreStill 0 = true ∧ (debugging 2 0).power.xaLost = false ∧ ((debugging 2 0).strm 0 .access).hold = .free
      ∧ ((debugging 2 0).strm 0 .access).pastEnd = false ∧ (debugging 2 0).earlierDone 0 .access = true
      ∧ (debugging 2 0).strmIndex 0 .access < 2047)
    ∧ (let i := (mget ((debugging 2 0).strm 0 .access).imem 0
        ((debugging 2 0).strmBank 0 .access * 2048 + (debugging 2 0).strmIndex 0 .access)).toNat
       i / 2 ^ 122 = 0x05 ∧ opReservedOk 0x05 (BitVec.ofNat 122 i) = true ∧ bit1 (BitVec.ofNat 122 i) 118 = false)
    ∧ (∃ l, (debugging 2 0).place 0x820 = some (l, some (debugging 2 0).dbgPart) ∧ (debugging 2 0).gated l = false
      ∧ (debugging 2 0).ueLoc l = none ∧ l.space = .near ∧ (debugging 2 0).weakIn l = 0)
    ∧ (State.isData 0x824 = true ∧ inWindows 0x824 = false ∧ Memory.wf (debugging 2 0).near = true)
    ∧ (debugging 0 0).dbgLevel = 0
    ∧ ((debugging 1 0).enclave.tapIr = 0x10 ∧ 1 ≤ (debugging 1 0).dbgLevel ∧ (debugging 1 0).boot.off = false
      ∧ State.isData Reg.DBG_STAT = false ∧ State.observable Reg.DBG_STAT = true ∧ State.enclavePrivate Reg.DBG_STAT = false) := by
  refine ⟨by decide, by decide, by decide, ⟨_, rfl, by decide⟩, by decide, by decide, by decide⟩

/-! The host. -/

/-- What a read needs to answer plainly. -/
def plain (s : State) (l : Loc) : Bool :=
  !s.gated l && !s.cutOff l && !s.margined l && !s.scrubHides l && (s.ueLoc l).isNone && s.weakIn l == 0

theorem answersPlainly_of {s : State} {l : Loc} (h : plain s l = true) : s.answersPlainly l := by
  simp only [plain, Bool.and_eq_true, Bool.not_eq_true', Option.isNone_iff_eq_none, beq_iff_eq] at h
  exact ⟨h.1.1.1.1.1, h.1.1.1.1.2, h.1.1.1.2, h.1.1.2, h.1.2, h.2⟩

/-- As `secured`, with an uncorrectable sector at 0x440. -/
def marred : State := { secured 1 [] with nearUe := [0x440 / 32] }

theorem meets_HostReachesMemoryAndRegisters :
    ((secured 1 [(0x43F, 9)]).bar2Addr 0 0x43F 2 = some 0x43F ∧ State.sectorsIn 0x43F 2 = [0x420, 0x440])
    ∧ (∀ q ∈ [0x420, 0x440], ∃ l, (secured 1 [(0x43F, 9)]).hostPlace 0 q = some l ∧ (secured 1 [(0x43F, 9)]).answersPlainly l)
    ∧ up.hostPlace 0 0x420 = none
    ∧ (∀ q ∈ [0x420, 0x440], ((marred.hostPlace 0 q).any fun l => !marred.gated l && !marred.margined l
        && ((marred.ueLoc l).isSome == (q == 0x440))) = true)
    ∧ (∃ l, (secured 1 []).hostPlace 0 0x440 = some l ∧ l.space = .near ∧ (secured 1 []).answersPlainly l)
    ∧ (bar0Addr 0x0100_0000 = some 0x0381_0000_0000 ∨ bar0Addr (Reg.TICK - globalBase) = some Reg.TICK)
    ∧ (up.pwrState = 0 ∧ up.inBootBuf Reg.TICK = false ∧ up.inFlash Reg.TICK = false ∧ up.regGated Reg.TICK = false
      ∧ up.inScope 0 Reg.TICK = true ∧ up.inScope 1 Reg.STEP_ERR = false)
    ∧ up.started = true ∧ State.reset.started = false := by
  refine ⟨by decide, fun q hq => ?_, by decide, by decide +kernel, ⟨_, rfl, rfl, answersPlainly_of (by decide +kernel)⟩, by decide, by decide,
    by decide⟩
  simp only [List.mem_cons, List.not_mem_nil, or_false] at hq
  rcases hq with rfl | rfl <;> exact ⟨_, rfl, answersPlainly_of (by decide +kernel)⟩

/-- A command entry of 64 bytes from its fields: place and byte. -/
def cmdEntry (fs : List (Nat × Byte)) : List Byte := (List.range 64).map fun i => ((fs.find? fun f => f.1 == i).map (·.2)).getD 0
/-- Function 0's rings are enabled and hold 16 entries; its completion ring lies at 0x1000. The command waits when `waits`. -/
def rings (waits : Bool) (bs : List Byte) (s : State) : State :=
  let s := put s [(Reg.HF_RING_CFG 0 0, Fld.HF_RING_CFG_EN, 1), (Reg.HF_RING_CFG 0 1, Fld.HF_RING_CFG_EN, 1),
    (Reg.HF_RING_BASE 0 1, Fld.HF_RING_BASE_BASE, 0x1000), (Reg.HF_STAT 0, Fld.HF_STAT_OPEN, if bytesAt bs 0 1 = 1 then 0 else 1),
    (Reg.HF_STAT 0, Fld.HF_STAT_ABI, 0x0200), (Reg.HOST_DMA_MAP, ⟨0, 64⟩, 0)]
  if waits then { s with cmdq := [(0, [bs])] } else s
def openEntry (lo hi : Byte) : List Byte := cmdEntry [(0, 1), (4, 9), (9, lo), (11, hi)]
/-- A ring in host memory at 0 whose first entry is an OPEN. -/
def belled : State := { rings false (openEntry 1 2) up with hostMem := [(0, 1), (4, 9), (9, 1), (11, 2)] }

theorem meets_RingsCarryCommands :
    (belled.pwrState = 0 ∧ belled.d3.contains 0 = false ∧ ringEn belled 0 0 = true ∧ 1 < ringSize belled 0 0
      ∧ (belled.fld (Reg.HF_RING_CONS 0 0) Fld.HF_RING_CONS_INDEX + 1) % ringSize belled 0 0 = 1 ∧ mget belled.cmdq [] 0 = []
      ∧ belled.cmdValid 0 (memBytes belled.hostMem ((belled.reg (Reg.HF_RING_BASE 0 0)).toNat + 0 * 64) 64) = true
      ∧ ringSize belled 0 0 ≤ 16 ∧ belled.cpls = [])
    ∧ (rings true (openEntry 1 2) up).cmdReady 0 1 (openEntry 1 2) ∧ (rings true (openEntry 9 9) up).cmdReady 0 1 (openEntry 9 9)
    ∧ (rings true (openEntry 1 2) up).flag (Reg.HF_STAT 0) Fld.HF_STAT_OPEN = false := by
  refine ⟨by decide, by decide +kernel, by decide +kernel, by decide⟩

/-- A DMA of two sectors of near memory at 0x800 on channel 3 to or from host memory at 0x2000. -/
def dmaEntry (dir len : Byte) : List Byte := cmdEntry [(0, 2), (4, 9), (8, 3), (9, dir), (0x10, len), (0x19, 0x20), (0x21, 8)]
def dmaJob (toDevice : Bool) : DmaJob :=
  { fn := 0, tag := 9, vec := 0, irq := false, toDevice := toDevice, pen := none, len := 64, host := 0x2000, dev := 0x800, ctx := 0
    status := 0, moved := 0 }
def dmaRuns (toDevice : Bool) : State :=
  { rings false (dmaEntry 0 64) (secured 1 [(0x805, 7), (0x830, 8)]) with
    dmaCh := [(3, [dmaJob toDevice])], hostMem := [(0x2003, 5), (0x203F, 6)] }

theorem meets_DmaMovesItsBytes :
    ((rings true (dmaEntry 1 64) (secured 1 [])).cmdReady 0 2 (dmaEntry 1 64)
      ∧ (rings true (dmaEntry 1 64) (secured 1 [])).chanFn 3 = 0 ∧ (rings true (dmaEntry 1 64) (secured 1 [])).dmaCtx 0 0x800 = some 0
      ∧ (rings true (dmaEntry 1 64) (secured 1 [])).fld (Reg.PART_STAT 0) Fld.PART_STAT_STATE ≠ 2
      ∧ ((rings true (dmaEntry 1 64) (secured 1 [])).dmaPlace 0 0x820).isSome = true)
    ∧ (rings true (dmaEntry 1 65) (secured 1 [])).cmdReady 0 2 (dmaEntry 1 65)
    ∧ (∀ d, mfind (dmaRuns d).dmaCh 3 = some [dmaJob d] ∧ (dmaRuns d).ringOpen 0 ∧ (dmaRuns d).still = true ∧ (dmaRuns d).held = [] ∧ (dmaRuns d).nearMargin = []
      ∧ mget (dmaRuns d).cmdq [] 0 = [] ∧ mwf (dmaRuns d).dmaCh = true)
    ∧ (∀ i < 2, ∃ l, (dmaRuns false).dmaPlace 0 (0x800 + 32 * i) = some l ∧ (dmaRuns false).answersPlainly l)
    ∧ Memory.wf (dmaRuns true).near = true
    ∧ (∀ i < 2, (dmaRuns true).dmaPlace 0 (0x800 + 32 * i) = some ⟨.near, 0x800 + 32 * i, 0x800 + 32 * i⟩
        ∧ (dmaRuns true).gated ⟨.near, 0x800 + 32 * i, 0x800 + 32 * i⟩ = false) := by
  refine ⟨by decide +kernel, by decide +kernel, fun d => by cases d <;> decide +kernel, ?_, by decide, by decide⟩
  intro i hi
  match i, hi with
  | 0, _ | 1, _ => exact ⟨_, rfl, answersPlainly_of (by decide +kernel)⟩

/-- PART_CREATE of context 2 with island 3, pseudo-channel 5 and no more; PART_KILL of context 0. -/
def createEntry (x : Byte) : List Byte := cmdEntry [(0, 3), (4, 9), (8, x), (0xA, 8), (0x13, 32)]
def killEntry (release : Byte) : List Byte := cmdEntry [(0, 4), (4, 9), (9, release)]
def creating (x : Byte) : State := rings true (createEntry x) up
def killing : State := rings true (killEntry 1) (runAt 5)
/-- A kill of context 0 whose scrubs are over. -/
def killed (release : Bool) : State :=
  { put (rings false (killEntry 1) up) [(Reg.TICK, Fld.TICK_TICK, 1500)] with
    kills := [(0, ⟨[cplOf 0 (cmdHdr (killEntry 1)) 0 0], release, 1000⟩)] }

theorem meets_PartitionsAreMadeAndKilled :
    ((creating 2).cmdReady 0 3 (createEntry 2) ∧ (creating 2).partExists 2 = false
      ∧ maskBits (bytesAt (createEntry 2) 0xA 9) 72 = [3] ∧ maskBits (bytesAt (createEntry 2) 0x13 32) 256 = [5]
      ∧ (creating 2).beingScrubbed [3] [5] [] = false ∧ mfind (creating 2).islOwner 3 = none ∧ mfind (creating 2).pcOwner 5 = none)
    ∧ ((creating 0).cmdReady 0 3 (createEntry 0) ∧ (creating 0).partExists 0 = true)
    ∧ (killing.cmdReady 0 4 (killEntry 1) ∧ killing.still = true ∧ mwf killing.regs = true ∧ mwf killing.cores = true ∧ killing.held = []
      ∧ killing.dmaCh = [] ∧ killing.imgLoad = none ∧ killing.killable 0 = true ∧ mfind killing.kills 0 = none)
    ∧ ∀ r, (∃ k p, mfind (killed r).kills 0 = some k ∧ k.cpls = [p] ∧ p.status = 0 ∧ p.op = 4 ∧ p.tag < 2 ^ 32 ∧ k.release = r)
      ∧ mwf (killed r).kills = true ∧ (killed r).scrubsOver 0 = true ∧ (killed r).ringOpen 0 ∧ (killed r).cmdq = []
      ∧ (killed r).partExists 0 = true := by
  refine ⟨by decide +kernel, by decide +kernel, by decide +kernel, fun r => ⟨⟨_, _, rfl, rfl, by cases r <;> decide +kernel⟩, ?_⟩⟩
  cases r <;> decide +kernel

/-! Every step. -/

theorem meets_EveryStepKeepsMemoriesCanonical : (secured 1 [(0x805, 7)]).memoriesWf := by
  unfold State.memoriesWf; decide

/-! What WellFormed refuses: one ill-formed command for each of its checks, beside a well-formed one. -/

def writeMsg (kind : Nat) (nsecM1 : BitVec 6) (data : List Sector) (be : List Word32) : Msg :=
  { incoming kind 3 data with nsecM1 := nsecM1, be := be }

theorem test_wellFormed_messages :
    (Instr.passThrough 0 (writeMsg 0 0 [7] [1])).wellFormed = true ∧ (Instr.passThrough 0 (writeMsg 0 1 [7] [])).wellFormed = false
    ∧ (Instr.passThrough 0 (writeMsg 1 0 [7] [])).wellFormed = false ∧ (Instr.passThrough 0 (writeMsg 3 1 [] [])).wellFormed = false
    ∧ (Instr.passThrough 0 (writeMsg 0 0 [7] [1, 2])).wellFormed = false
    ∧ (Instr.remoteSignal 0 (writeMsg 1 0 [] [])).wellFormed = false ∧ (Instr.chainPartial 0 (writeMsg 0 0 [7] [])).wellFormed = false
    ∧ (Instr.nirloWriteMessage 0 (writeMsg 5 0 [7] [])).wellFormed = false
    ∧ (Instr.nirloReadRequest 0 (writeMsg 3 0 [] [])).wellFormed = false
    ∧ (Instr.nirloReadData 0 (writeMsg 0 0 [7] [])).wellFormed = false := by decide

theorem test_wellFormed_lengths :
    (Instr.flitReceive 0 (flit 6 true)).wellFormed = true
    ∧ (Instr.flitReceive 0 { flit 6 true with slots := [.heads 1 [asked], .empty] }).wellFormed = false
    ∧ (Instr.flitReceive 0 { flit 6 true with slots := [.heads 3 [{ passing with data := [] }, asked], .empty, .empty, .empty] }).wellFormed
        = false
    ∧ (Instr.flitReceive 0 { flit 6 true with slots := [.heads 3 [passing], .empty, .empty, .empty] }).wellFormed = false
    ∧ (Instr.thermalSample [50]).wellFormed = false
    ∧ (Instr.startStepDone (.training [none] [])).wellFormed = false ∧ (Instr.hostBar2Write 0 0 []).wellFormed = false
    ∧ (Instr.hostBar2Write 0 0 (List.replicate 4097 0)).wellFormed = false ∧ (Instr.hostBar2Read 0 0 0).wellFormed = false
    ∧ (Instr.hostBar0Read 0 0 0).wellFormed = false := by
  refine ⟨rfl, rfl, rfl, rfl, by decide +kernel, by decide +kernel, by decide +kernel, by decide +kernel, by decide +kernel, by decide +kernel⟩

/-! The spec's worked examples. -/

/-- Number formats: six accumulator values stored as f8e4 and as OFP8 E4M3; 0.3 by its fp32 bits. -/
theorem test_stores_as_f8e4_and_ofp8 :
    [FFmt.fp32.decode 0x3E99_999A, .fin false 232 0, .fin false 248 0, .fin true 300 0, .fin true 1 (-10), .nan].map
        (fun x => (fmtRound 0 x, fmtRound 6 x))
      = [(0x2A, 0x2A), (0x76, 0x76), (0x78, 0x78), (0xF8, 0xF9), (0x80, 0x80), (0x7C, 0x7F)] := by decide

/-- Number formats: 15.0, 5.0, −0.7 and 0.2 (the last two in fp32), with zeros, as an MXFP4 block. -/
theorem test_mxfp4_block :
    blockStore 0xC ([.fin false 15 0, .fin false 5 0, FFmt.fp32.decode 0xBF33_3333, FFmt.fp32.decode 0x3E4C_CCCD]
        ++ List.replicate 28 (.fin false 0 0))
      = (0x80, [7, 4, 9, 0] ++ List.replicate 28 0) := by decide +kernel

/-- Number formats: 2.0, −5.0, +0, NaN, 5.0, −∞, NaN and −0 ranked with K 4 under both keys. -/
theorem test_topk_ranks :
    let xs := [0x4000_0000, 0xC0A0_0000, 0, 0x7FC0_0000, 0x40A0_0000, 0xFF80_0000, 0x7FC0_0001, 0x8000_0000]
    (topkGroup false 4 4 xs).map (·.1) = [3, 6, 4, 0]
    ∧ topkGroup true 4 4 xs = [(3, 0x7FC0_0000), (6, 0x7FC0_0001), (5, 0xFF80_0000), (1, 0xC0A0_0000)] := by decide +kernel

/-- Mask evolution: groups 3 and 4 of row 5 in the regrowth update of strip 7; only group 3 swaps slot 2 for code 9. -/
theorem test_prr_selects :
    let p : PrrParam := { prrParamOf 0 with ratio := 0x3F00_0000, thrEn := false }
    prrSelect p 0 0 1 4096 3 [(1, 0x3F40_0000), (5, 0x3FC0_0000), (12, 0x3A80_0000), (14, 0x4040_0000)] [0xBED0_0019]
      = ⟨[2], [9], 0, 0⟩
    ∧ prrSelect p 0 0 1 4096 4 [(0, 0x3F00_0000), (2, 0x3E80_0000), (7, 0x3F80_0000), (11, 0x3E00_0000)] [0x3D40_0016]
      = ⟨[], [], 0, 0⟩ := by decide +kernel

/-- Memory tiers: token row 900 of Skerry-44 in a set of 256 at base 0 (R217). -/
theorem test_near_decodes :
    (put up [(Reg.NEAR_SET_CFG 0, Fld.NEAR_SET_CFG_LOG2N, 8), (Reg.NEAR_SET_LIST 0 11, Fld.NEAR_SET_LIST_PC0, 44)]).nearDecode 0
      0x2119_4000 = (44, 0x21_1800) := by decide

/-- Nirlo links: the route from rank 0 to rank 180 in the 4×4×4×4 torus takes D0, D0, D3 and D4 (R243, R244). -/
theorem test_routes :
    [0, 64, 128, 176].map (fun a => dirTo [4, 4, 4, 4] a 180) = [some 0, some 0, some 3, some 4]
    ∧ dirTo [4, 4, 4, 4] 180 180 = none := by decide

/-- Nirlo links: blocks A and B of the chain of four; B leaves int8 at the second rank, and the flag stays (R249). -/
theorem test_chain_overflows :
    (chainAdd 0 60 false 40 false).1 = 100 ∧ (chainAdd 0 60 false 40 false).2 = (false, false)
    ∧ chainAdd 0 70 false 10 false = (80, false, false)
    ∧ chainAdd 0 100 false 50 false = (0, true, true) ∧ chainAdd 0 0 true 20 false = (0, true, false) := by decide

/-- Core streams: the MMF of the load example, by its word 0x8060_0000_1C00_0000_0000_0008_4000_FF00. -/
theorem test_mmf_fields :
    let w : BitVec 128 := 0x8060_0000_1C00_0000_0000_0008_4000_FF00
    let b : Body := w.setWidth 122
    w.toNat / 2 ^ 122 = 0x20 ∧ bits b 121 117 = 3 ∧ bits b 113 90 = 7 ∧ bits b 36 35 = 1 ∧ bits b 32 28 = 4
    ∧ bits b 15 8 = 255 := by decide

/-- Package: N13's receive lane 5 lies at 007-078 and 007-077. -/
theorem test_ball_map : ballOf 7 78 = some (.lane (.nirlo 13) true 5 false) ∧ ballOf 7 77 = some (.lane (.nirlo 13) true 5 true)
    ∧ ballOf 97 1 = none := by decide

end Sys2Proof.Tests
end

section
/-! PROOFS. A step and the queue of commands (R1). -/

namespace Sys2Proof.Machine

open Sys2Proof

/-- Settles O1, by the equation of `step` at a queue that is not empty. -/
theorem stepRunsFrontCommand : Obligations.StepRunsFrontCommand := by
  intro i is s h
  simp only [step, h]

end Sys2Proof.Machine
end

section
/-! PROOFS. What no command changes (R3, R4): each function of the state that a command calls leaves the queue and the
disabled cores as they are, in the order of the model's files. -/

namespace Sys2Proof.Machine

open Sys2Proof

/-- What no command changes: the commands that wait and the cores that the part has disabled. -/
def State.fixed : State → List Instr × List Nat
  | { pending, disabled, .. } => (pending, disabled)

/-- What is fixed in a state given by its fields. The proof cites the equation, so that `simp` records each use as a
rewrite: by `rfl` the kernel would compare the other fields' values instead. -/
@[simp] theorem fixed_mk : type_of% @State.fixed.eq_1 := by
  intros
  exact State.fixed.eq_1 ..

@[simp] theorem fixed_eta (s : State) : (s.pending, s.disabled) = s.fixed := (rfl)

@[simp] theorem fixed_ite (c : Prop) [Decidable c] (s t : State) :
    (if c then s else t).fixed = if c then s.fixed else t.fixed := apply_ite _ _ _ _

@[simp] theorem fixed_foldl {α : Type} {f : State → α → State} (h : ∀ s x, (f s x).fixed = s.fixed) (l : List α) (s : State) :
    (l.foldl f s).fixed = s.fixed := by
  induction l generalizing s with
  | nil => rfl
  | cons x l ih => rw [List.foldl_cons, ih, h]

theorem fixed_fst {α : Type} {r : State × α} {t : State} {x : α} (h : r = (t, x)) : t.fixed = r.1.fixed := by rw [h]

theorem fixed_snd {α : Type} {r : α × State} {t : State} {x : α} (h : r = (x, t)) : t.fixed = r.2.fixed := by rw [h]

theorem exists_of_map_ok {ε α β : Type} {f : α → β} {x : Except ε α} {b : β} (h : x.map f = .ok b) :
    ∃ a, x = .ok a ∧ f a = b := by
  cases x with
  | error e => cases h
  | ok a => exact ⟨a, rfl, Except.ok.inj h⟩

/-- A command answers a next state, with what no command changes as in `s`. -/
def keeps (s : State) (o : Out) : Prop := ∃ t, o = .next t ∧ t.fixed = s.fixed

@[simp] theorem keeps_next (s t : State) : keeps s (.next t) ↔ t.fixed = s.fixed :=
  ⟨fun ⟨_, h, ht⟩ => by cases h; exact ht, fun h => ⟨t, rfl, h⟩⟩

theorem fixed_after {s : State} {o : Out} (h : keeps s o) : (after s o).fixed = s.fixed := by
  obtain ⟨t, rfl, ht⟩ := h
  exact ht

/-! The records of the state: units, queues, counters, holds. -/

@[simp] theorem fixed_setReg (s : State) (a : Nat) (v : Word) : (s.setReg a v).fixed = s.fixed := by
  simp [State.setReg]

@[simp] theorem fixed_unsetRegs (s : State) (p : Nat → Bool) : (s.unsetRegs p).fixed = s.fixed := by
  simp [State.unsetRegs]

@[simp] theorem fixed_setFld (s : State) (a : Nat) (f : FieldPos) (v : Nat) : (s.setFld a f v).fixed = s.fixed := by
  simp [State.setFld]

@[simp] theorem fixed_bump (s : State) (a : Nat) (f : FieldPos) (n : Nat) : (s.bump a f n).fixed = s.fixed := by
  simp [State.bump]

@[simp] theorem fixed_addMod (s : State) (a : Nat) (f : FieldPos) (n : Nat) : (s.addMod a f n).fixed = s.fixed := by
  simp [State.addMod]

@[simp] theorem fixed_clearFlds (s : State) (xs : List (Nat × FieldPos)) : (s.clearFlds xs).fixed = s.fixed := by
  simp [State.clearFlds]

@[simp] theorem fixed_emit (s : State) (m : OutMsg) : (s.emit m).fixed = s.fixed := by simp [State.emit]

@[simp] theorem fixed_setCore (s : State) (c : Nat) (k : Core) : (s.setCore c k).fixed = s.fixed := by
  simp [State.setCore]

@[simp] theorem fixed_modCore (s : State) (c : Nat) (f : Core → Core) : (s.modCore c f).fixed = s.fixed := by
  simp [State.modCore]

@[simp] theorem fixed_modStrm (s : State) (c : Nat) (t : Strm) (f : StreamState → StreamState) :
    (s.modStrm c t f).fixed = s.fixed := by
  simp [State.modStrm]

@[simp] theorem fixed_setStrmState (s : State) (c : Nat) (t : Strm) (v : Nat) :
    (s.setStrmState c t v).fixed = s.fixed := by
  simp [State.setStrmState]

@[simp] theorem fixed_setWaitOn (s : State) (c : Nat) (t : Strm) (v : Nat) : (s.setWaitOn c t v).fixed = s.fixed := by
  simp [State.setWaitOn]

@[simp] theorem fixed_ringPut (s : State) (f r esz : Nat) (bs : List Byte) :
    (ringPut s f r esz bs).fixed = s.fixed := by
  simp [ringPut]

@[simp] theorem fixed_errRingPut (s : State) (f : Nat) (bs : List Byte) : (errRingPut s f bs).fixed = s.fixed := by
  simp [errRingPut]

@[simp] theorem fixed_report (s : State) (code : Nat) (ctx core : Option Nat) (detail : Nat) :
    (s.report code ctx core detail).fixed = s.fixed := by
  unfold State.report; split <;> simp

@[simp] theorem fixed_stopStream (s : State) (c : Nat) (t : Strm) (st : Nat) :
    (s.stopStream c t st).fixed = s.fixed := by
  simp [State.stopStream]

@[simp] theorem fixed_stopAtBoundary (s : State) (c : Nat) (t : Strm) (st : Nat) :
    (s.stopAtBoundary c t st).fixed = s.fixed := by
  unfold State.stopAtBoundary; split <;> simp

@[simp] theorem fixed_dropAfter (s : State) (c iid : Nat) : (s.dropAfter c iid).fixed = s.fixed := by
  simp [State.dropAfter]

@[simp] theorem fixed_recordStrmErr (s : State) (c : Nat) (t : Strm) (code index bank detail : Nat) :
    (s.recordStrmErr c t code index bank detail).fixed = s.fixed := by
  simp [State.recordStrmErr]

@[simp] theorem fixed_stepCoreError (s : State) (c code : Nat) : (s.stepCoreError c code).fixed = s.fixed := by
  simp [State.stepCoreError]

@[simp] theorem fixed_haltCore (s : State) (c : Nat) (t : Strm) (iid code index bank detail : Nat) :
    (s.haltCore c t iid code index bank detail).fixed = s.fixed := by
  simp only [State.haltCore]
  repeat' split
  all_goals simp

@[simp] theorem fixed_irrepro (s : State) (x : Option Nat) : (s.irrepro x).fixed = s.fixed := by simp [State.irrepro]

@[simp] theorem fixed_wake (s : State) : s.wake.fixed = s.fixed := by simp [State.wake]

@[simp] theorem fixed_awake (s : State) (i : Instr) {f : State → State} (h : ∀ t, (f t).fixed = t.fixed) :
    (s.awake i f).fixed = s.fixed := by
  simp [State.awake, h]

@[simp] theorem fixed_asked (s : State) (who : Writer) (c : Nat) (i : Instr) {f : State → State}
    (h : ∀ t, (f t).fixed = t.fixed) : (s.asked who c i f).fixed = s.fixed := by
  unfold State.asked; split <;> simp [h]

/-! Registers, errors and the debug records. -/

@[simp] theorem fixed_cfgError (s : State) (who : Writer) (code addr : Nat) :
    (s.cfgError who code addr).fixed = s.fixed := by
  simp [State.cfgError]

@[simp] theorem fixed_hold (s : State) (a : Nat) (mask v : Word) : (s.hold a mask v).fixed = s.fixed := by
  unfold State.hold; split <;> simp

@[simp] theorem fixed_applyHeld (s : State) (p : RegSpec → List Nat → Bool) : (s.applyHeld p).fixed = s.fixed := by
  simp [State.applyHeld]

@[simp] theorem fixed_unhold (s : State) (a : Nat) (mask : Word) : (s.unhold a mask).fixed = s.fixed := by
  simp [State.unhold]

@[simp] theorem fixed_putReg (s : State) (who : Writer) (a : Nat) (r : RegSpec) (is : List Nat) (old v : Word) (keep : Nat) :
    (s.putReg who a r is old v keep).fixed = s.fixed := by
  simp [State.putReg]

@[simp] theorem fixed_imgPut (s : State) (a : Nat) (v : Word) : (s.imgPut a v).fixed = s.fixed := by
  unfold State.imgPut; split <;> simp

@[simp] theorem fixed_imgPuts (s : State) (l : List (Nat × Word)) : (s.imgPuts l).fixed = s.fixed := by
  simp [State.imgPuts]

/-! Memories, sectors and their wrong bits. -/

@[simp] theorem fixed_corrects (s : State) (l : Loc) (n : Nat) : (s.corrects l n).fixed = s.fixed := by
  simp only [State.corrects]
  repeat' split
  all_goals simp

@[simp] theorem fixed_takeLoc (s : State) (l : Loc) : (s.takeLoc l).1.fixed = s.fixed := by
  simp only [State.takeLoc]
  repeat' split
  all_goals simp

@[simp] theorem fixed_pushWindow (s : State) (c off : Nat) (d : Sector) (be : Word32) :
    (s.pushWindow c off d be).fixed = s.fixed := by
  simp [State.pushWindow]

@[simp] theorem fixed_stLoc (s : State) (l : Loc) (d : Sector) (be : Word32) :
    (s.stLoc l d be).1.fixed = s.fixed := by
  simp only [State.stLoc]
  repeat' split
  all_goals simp

@[simp] theorem fixed_noteSpUe (s : State) (c src off : Nat) : (s.noteSpUe c src off).fixed = s.fixed := by
  simp [State.noteSpUe]

@[simp] theorem fixed_noteNearUe (s : State) (pc src addr : Nat) : (s.noteNearUe pc src addr).fixed = s.fixed := by
  simp [State.noteNearUe]

@[simp] theorem fixed_noteReachUe (s : State) (n kind addr : Nat) : (s.noteReachUe n kind addr).fixed = s.fixed := by
  simp [State.noteReachUe]

@[simp] theorem fixed_noteUe (s : State) (l : Loc) (src addr : Nat) : (s.noteUe l src addr).fixed = s.fixed := by
  unfold State.noteUe; split <;> simp

@[simp] theorem fixed_meshTry (s : State) (l : Loc) (d : Sector) (be : Word32) :
    (s.meshTry l d be).1.fixed = s.fixed := by
  simp only [State.meshTry]
  repeat' split
  all_goals simp

@[simp] theorem fixed_notice (s : State) (dev core : Nat) : (s.notice dev core).fixed = s.fixed := by
  simp [State.notice]

@[simp] theorem fixed_meshSt (s : State) (l : Loc) (d : Sector) (be : Word32) (srcs : List (Nat × Nat)) (fn : Option Nat) :
    (s.meshSt l d be srcs fn).fixed = s.fixed := by
  unfold State.meshSt
  split
  · simp
  · split
    · simp
    · split <;> next h => simp [fixed_fst h]

@[simp] theorem fixed_meshRead (s : State) (l : Loc) : (s.meshRead l).1.fixed = s.fixed := by
  unfold State.meshRead
  split
  · simp
  · split
    · next h => simp [fixed_fst h]
    · simp

@[simp] theorem fixed_meshReads (s : State) (x : List Loc) : (s.meshReads x).1.fixed = s.fixed := by
  induction x generalizing s with
  | nil => rfl
  | cons l ls ih =>
    unfold State.meshReads
    split <;> next h => simp [ih, fixed_fst h]

@[simp] theorem fixed_holdFor (s : State) (i : Instr) (ls : List Loc) {t : State} (h : t.fixed = s.fixed) :
    (s.holdFor i ls t).fixed = s.fixed := by
  simp [State.holdFor, h]

@[simp] theorem fixed_request (s : State) (c iid : Nat) (l : Loc) (lcr sent : Bool) (k : ReqKind) :
    (s.request c iid l lcr sent k).fixed = s.fixed := by
  simp [State.request]

@[simp] theorem fixed_accessing (s : State) (c : Nat) (key : FeedKey) : (s.accessing c key).fixed = s.fixed := by
  simp [State.accessing]

@[simp] theorem fixed_addFeed (s : State) (c a : Nat) (d : FeedData) : (s.addFeed c a d).fixed = s.fixed := by
  simp [State.addFeed]

@[simp] theorem fixed_fillFeed (s : State) (c : Nat) (key : FeedKey) (a : Nat) (d : FeedData) :
    (s.fillFeed c key a d).fixed = s.fixed := by
  simp [State.fillFeed]

@[simp] theorem fixed_dropFeeds (s : State) (c : Nat) (key : FeedKey) : (s.dropFeeds c key).fixed = s.fixed := by
  simp [State.dropFeeds]

theorem fixed_of_writeSec {s t : State} {c : Nat} {st : Strm} {src a : Nat} {d : Sector} {be : Word32}
    (h : s.writeSec c st src a d be = .ok t) : t.fixed = s.fixed := by
  unfold State.writeSec at h
  repeat' split at h
  all_goals cases h
  · next h => simp [fixed_fst h]
  · simp

@[simp] theorem fixed_askFor (s : State) (c : Nat) (e : AccErr) : (s.askFor c e).fixed = s.fixed := by
  simp only [State.askFor]
  repeat' split
  all_goals simp

@[simp] theorem fixed_fetchSec (s : State) (c : Nat) (t : Strm) (src a : Nat) :
    (s.fetchSec c t src a).1.fixed = s.fixed := by
  unfold State.fetchSec
  split
  · rfl
  · split
    · rfl
    · split <;> next h => simp [fixed_fst h]

@[simp] theorem fixed_noteErr (s : State) (e : AccErr) : (s.noteErr e).fixed = s.fixed := by
  unfold State.noteErr; split <;> simp

/-! Operands and descriptors. -/

@[simp] theorem fixed_writeAll (s : State) (c : Nat) (t : Strm) (src : Nat) (x : List (Nat × Sector × Word32)) :
    (s.writeAll c t src x).1.fixed = s.fixed := by
  induction x generalizing s with
  | nil => rfl
  | cons w ws ih =>
    obtain ⟨a, d, be⟩ := w
    unfold State.writeAll
    split
    · rfl
    · next h => simp [ih, fixed_of_writeSec h]

/-! Pennants and hoists. -/

@[simp] theorem fixed_resume (s : State) (c : Nat) (t : Strm) : (s.resume c t).fixed = s.fixed := by
  simp [State.resume]

@[simp] theorem fixed_setPenVal (s : State) (k v : Nat) : (s.setPenVal k v).fixed = s.fixed := by
  simp [State.setPenVal]

@[simp] theorem fixed_penStamp (s : State) (k : Nat) (src : Signaller) : (s.penStamp k src).fixed = s.fixed := by
  simp [State.penStamp]

@[simp] theorem fixed_penWake (s : State) (k : Nat) (who : StreamId) : (s.penWake k who).fixed = s.fixed := by
  simp [State.penWake]

@[simp] theorem fixed_penServe (s : State) (k : Nat) : (s.penServe k).fixed = s.fixed := by simp [State.penServe]

@[simp] theorem fixed_penChanged (s : State) (ch : Nat) : (s.penChanged ch).fixed = s.fixed := by
  simp [State.penChanged]

theorem fixed_of_penSignal {s t : State} {k : Nat} {src : Signaller} {op amount : Nat}
    (h : s.penSignal k src op amount = .ok t) : t.fixed = s.fixed := by
  unfold State.penSignal at h
  split at h <;> cases h
  simp

@[simp] theorem fixed_penErr (s : State) (code : Nat) (src : Signaller) (vid : Nat) (ctx : Option Nat) :
    (s.penErr code src vid ctx).fixed = s.fixed := by
  simp [State.penErr]

@[simp] theorem fixed_penQuiet (s : State) (k : Nat) (src : Signaller) (op amount vid : Nat) (ctx : Option Nat) :
    (s.penQuiet k src op amount vid ctx).fixed = s.fixed := by
  unfold State.penQuiet
  split
  · next h => exact fixed_of_penSignal h
  · simp

@[simp] theorem fixed_pendApply (s : State) (die : Nat) (p : PendSig) : (s.pendApply die p).fixed = s.fixed := by
  unfold State.pendApply; split <;> simp

@[simp] theorem fixed_pendDrain (die e n : Nat) (s : State) : (s.pendDrain die e n).fixed = s.fixed := by
  induction n generalizing s with
  | zero => rfl
  | succ n ih =>
    simp only [State.pendDrain]
    split <;> simp [ih]

theorem fixed_of_pendEnter {s t : State} {p : PendSig} (h : s.pendEnter p = some t) : t.fixed = s.fixed := by
  unfold State.pendEnter at h
  split at h
  · cases h
    simp
  · split at h
    · cases h
      simp
    · simp only at h
      split at h <;> cases h
      simp

@[simp] theorem fixed_landed (s : State) (dev core : Nat) : (s.landed dev core).fixed = s.fixed := by
  simp only [State.landed]
  repeat' split
  all_goals simp

@[simp] theorem fixed_penArrive (s : State) (id : Nat) : (s.penArrive id).fixed = s.fixed := by
  simp only [State.penArrive]
  split
  · rfl
  · split
    · split
      · next h => simp [fixed_of_penSignal h]
      · simp
    · simp
    · simp
    · split
      · next h => simp [fixed_of_pendEnter h]
      · rfl

@[simp] theorem fixed_penWoken (s : State) (c : Nat) (t : Strm) : (s.penWoken c t).fixed = s.fixed := by
  simp [State.penWoken]

@[simp] theorem fixed_penForwarded (s : State) (id : Nat) : (s.penForwarded id).fixed = s.fixed := by
  unfold State.penForwarded; split <;> simp

@[simp] theorem fixed_penHost (s : State) (ctx : Option Nat) (v : Word32) : (s.penHost ctx v).fixed = s.fixed := by
  simp only [State.penHost]
  repeat' split
  all_goals simp

@[simp] theorem fixed_hoistFree (s : State) (k round : Nat) : (s.hoistFree k round).fixed = s.fixed := by
  simp [State.hoistFree]

@[simp] theorem fixed_hoistRelease (s : State) (k round : Nat) : (s.hoistRelease k round).fixed = s.fixed := by
  simp [State.hoistRelease]

@[simp] theorem fixed_hoistArrive (s : State) (k round : Nat) : (s.hoistArrive k round).fixed = s.fixed := by
  simp [State.hoistArrive]

@[simp] theorem fixed_hoistMsg (s : State) (id : Nat) (arrive : Bool) : (s.hoistMsg id arrive).fixed = s.fixed := by
  unfold State.hoistMsg; split <;> simp

@[simp] theorem fixed_hoistReleased (s : State) (c : Nat) (t : Strm) : (s.hoistReleased c t).fixed = s.fixed := by
  unfold State.hoistReleased; split <;> simp

@[simp] theorem fixed_crossRelease (s : State) (h round : Nat) : (s.crossRelease h round).fixed = s.fixed := by
  simp [State.crossRelease]

@[simp] theorem fixed_rootRelease (s : State) (h round : Nat) : (s.rootRelease h round).fixed = s.fixed := by
  simp [State.rootRelease]

@[simp] theorem fixed_deviceArrive (s : State) (h round : Nat) : (s.deviceArrive h round).fixed = s.fixed := by
  simp [State.deviceArrive]

@[simp] theorem fixed_deviceFinish (s : State) (h round : Nat) : (s.deviceFinish h round).fixed = s.fixed := by
  simp [State.deviceFinish]

@[simp] theorem fixed_hoistsKilled (s : State) (x : Nat) : (s.hoistsKilled x).fixed = s.fixed := by
  simp [State.hoistsKilled]

@[simp] theorem fixed_penKilled (s : State) (x : Nat) (cores : List Nat) : (s.penKilled x cores).fixed = s.fixed := by
  simp [State.penKilled]

/-! The combine buffer and the arrivals of results. -/

@[simp] theorem fixed_combErr (s : State) (c code lane epoch : Nat) :
    (s.combErr c code lane epoch).fixed = s.fixed := by
  simp [State.combErr]

@[simp] theorem fixed_raiseLocal (s : State) (c n lane epoch : Nat) :
    (s.raiseLocal c n lane epoch).fixed = s.fixed := by
  unfold State.raiseLocal
  split
  · next h => exact fixed_of_penSignal h
  · simp

@[simp] theorem fixed_setLaneState (s : State) (c lane v : Nat) : (s.setLaneState c lane v).fixed = s.fixed := by
  simp [State.setLaneState]

@[simp] theorem fixed_setLane (s : State) (c lane : Nat) (x : Option (Nat × Nat)) :
    (s.setLane c lane x).fixed = s.fixed := by
  simp [State.setLane]

@[simp] theorem fixed_arrival (s : State) (c lane epoch : Nat) : (s.arrival c lane epoch).fixed = s.fixed := by
  simp [State.arrival]

@[simp] theorem fixed_credit (s : State) (c lane epoch : Nat) : (s.credit c lane epoch).fixed = s.fixed := by
  simp only [State.credit]
  split
  · simp
  · split
    · next h => simp [fixed_of_penSignal h]
    · simp

@[simp] theorem fixed_laneCheck (s : State) (c lane : Nat) : (s.laneCheck c lane).fixed = s.fixed := by
  unfold State.laneCheck; split <;> simp

@[simp] theorem fixed_epochs (s : State) (c : Nat) : (s.epochs c).fixed = s.fixed := by simp [State.epochs]

@[simp] theorem fixed_combineCheck (s : State) (c : Nat) : (s.combineCheck c).fixed = s.fixed := by
  simp [State.combineCheck]

/-! The links between ranks. -/

@[simp] theorem fixed_setPort (s : State) (p : Nat) (x : PortState) : (s.setPort p x).fixed = s.fixed := by
  simp [State.setPort]

@[simp] theorem fixed_setPortState (s : State) (p v : Nat) : (s.setPortState p v).fixed = s.fixed := by
  simp [State.setPortState]

@[simp] theorem fixed_portErr (s : State) (p code tag : Nat) : (s.portErr p code tag).fixed = s.fixed := by
  simp [State.portErr]

@[simp] theorem fixed_deviceReport (s : State) (k : ReportKind) : (s.deviceReport k).fixed = s.fixed := by
  simp [State.deviceReport]

@[simp] theorem fixed_portLose (s : State) (p : Nat) (m : Msg) : (s.portLose p m).fixed = s.fixed := by
  simp [State.portLose]

@[simp] theorem fixed_portTell (s : State) (p : Nat) : (s.portTell p).fixed = s.fixed := by simp [State.portTell]

@[simp] theorem fixed_portSend (s : State) (p : Nat) (vc : Option Nat) : (s.portSend p vc).fixed = s.fixed := by
  unfold State.portSend; split <;> simp

@[simp] theorem fixed_portDrain (p n : Nat) (s : State) : (s.portDrain p n).fixed = s.fixed := by
  induction n generalizing s with
  | zero => rfl
  | succ n ih =>
    simp only [State.portDrain]
    split
    · rfl
    · split <;> simp [ih]

@[simp] theorem fixed_portGive (s : State) (p : Nat) (m : Msg) : (s.portGive p m).fixed = s.fixed := by
  simp [State.portGive]

@[simp] theorem fixed_nirloSend (s : State) (x : Option Nat) (m : Msg) : (s.nirloSend x m).fixed = s.fixed := by
  simp only [State.nirloSend]
  repeat' split
  all_goals simp

@[simp] theorem fixed_creditBack (s : State) (p vc n : Nat) : (s.creditBack p vc n).fixed = s.fixed := by
  simp [State.creditBack]

@[simp] theorem fixed_rxTake (s : State) (p : Nat) (m : Msg) : (s.rxTake p m).fixed = s.fixed := by
  simp [State.rxTake]

@[simp] theorem fixed_rxKeep (s : State) (p : Nat) (m rest : Msg) : (s.rxKeep p m rest).fixed = s.fixed := by
  simp [State.rxKeep]

/-! Writes and reads through the mesh. -/

@[simp] theorem fixed_meshErr (s : State) (router tag code : Nat) : (s.meshErr router tag code).fixed = s.fixed := by
  simp [State.meshErr]

@[simp] theorem fixed_redDeliver (s : State) (addr : Nat) (data : Sector) (srcs : List RedSrc) :
    (s.redDeliver addr data srcs).fixed = s.fixed := by
  unfold State.redDeliver; split <;> simp

@[simp] theorem fixed_redEnd (s : State) (f : RedFlit) : (s.redEnd f).fixed = s.fixed := by
  unfold State.redEnd; split <;> simp

@[simp] theorem fixed_redForward (s : State) (f : RedFlit) : (s.redForward f).fixed = s.fixed := by
  simp only [State.redForward]
  repeat' split
  all_goals simp

@[simp] theorem fixed_redFire (s : State) (router tag : Nat) (e : RedEntry) :
    (s.redFire router tag e).fixed = s.fixed := by
  simp [State.redFire]

@[simp] theorem fixed_redArrive (s : State) (f : RedFlit) : (s.redArrive f).fixed = s.fixed := by
  simp only [State.redArrive]
  repeat' split
  all_goals simp

@[simp] theorem fixed_redSector (s : State) (router port tag addr : Nat) (data : Sector) :
    (s.redSector router port tag addr data).fixed = s.fixed := by
  unfold State.redSector; split <;> simp

@[simp] theorem fixed_flitLate (s : State) (router : Nat) (bulk : Bool) (waited : Nat) :
    (s.flitLate router bulk waited).fixed = s.fixed := by
  simp [State.flitLate]

/-! Flags of the registers. -/

@[simp] theorem fixed_examine (s : State) (c : Nat) (w : NfFrom) (xs : List Num) :
    (s.examine c w xs).fixed = s.fixed := by
  unfold State.examine; split <;> simp

@[simp] theorem fixed_addGnorm (s : State) (c : Nat) (xs : List Nat) : (s.addGnorm c xs).fixed = s.fixed := by
  simp [State.addGnorm]

/-! The tensor array. -/

@[simp] theorem fixed_noteAccUe (s : State) (c file row col : Nat) :
    (s.noteAccUe c file row col).fixed = s.fixed := by
  simp [State.noteAccUe]

@[simp] theorem fixed_noteAny (s : State) (c : Nat) (e : AccErr) : (s.noteAny c e).fixed = s.fixed := by
  unfold State.noteAny; split <;> simp

@[simp] theorem fixed_putAcc (s : State) (c : Nat) (xs : List (Nat × Nat × Nat)) :
    (s.putAcc c xs).fixed = s.fixed := by
  simp [State.putAcc]

@[simp] theorem fixed_accCorrects (s : State) (c n : Nat) : (s.accCorrects c n).fixed = s.fixed := by
  simp [State.accCorrects]

theorem fixed_of_accRead {s t : State} {c block : Nat} {xs : List (Nat × Nat)} (h : s.accRead c block xs = .ok t) :
    t.fixed = s.fixed := by
  unfold State.accRead at h
  split at h <;> cases h
  simp

@[simp] theorem fixed_arrayWork (s : State) (c act useful : Nat) : (s.arrayWork c act useful).fixed = s.fixed := by
  simp [State.arrayWork]

@[simp] theorem fixed_setDone (s : State) (c : Nat) : (s.setDone c).fixed = s.fixed := by simp [State.setDone]

@[simp] theorem fixed_partEnd (s : State) (j : Job) : (partEnd s j).s.fixed = s.fixed := by simp [partEnd]

@[simp] theorem fixed_partErr (s : State) (j : Job) (e : AccErr) : (partErr s j e).s.fixed = s.fixed := by
  simp [partErr]

@[simp] theorem fixed_Done_part (r : Done) (j : Job) : (r.part j).s.fixed = r.1.fixed := by
  unfold Done.part
  split <;> simp

theorem fixed_of_mmfSetCol {s t : State} {c : Nat} {p : Path} {h : Hdr} {ofmt col0 : Nat} {ws : List (Nat × Window)}
    {d : Desc} {j : Nat} (ht : mmfSetCol s c p h ofmt col0 ws d j = .ok t) : t.fixed = s.fixed := by
  unfold mmfSetCol at ht
  split at ht
  · cases ht
  · obtain ⟨u, hu, rfl⟩ := exists_of_map_ok ht
    simp [fixed_of_accRead hu]

@[simp] theorem fixed_columnsGo {f : State → Nat → Except AccErr State} (h : ∀ s j t, f s j = .ok t → t.fixed = s.fixed)
    (js : List Nat) (s : State) (n : Nat) : (columnsGo f js s n).1.fixed = s.fixed := by
  induction js generalizing s n with
  | nil => rfl
  | cons j js ih =>
    unfold columnsGo
    split
    · rfl
    · next ht => rw [ih, h _ _ _ ht]

@[simp] theorem fixed_showPred (s : State) (c : Nat) : (s.showPred c).fixed = s.fixed := by
  unfold State.showPred; split <;> simp

@[simp] theorem fixed_disarmStrip (s : State) (c strip : Nat) : (s.disarmStrip c strip).fixed = s.fixed := by
  simp [State.disarmStrip]

@[simp] theorem fixed_disarmPred (s : State) (c : Nat) : (s.disarmPred c).fixed = s.fixed := by
  simp [State.disarmPred]

@[simp] theorem fixed_predFinish (s : State) (c col0 rows actThr : Nat) (cols : List PredCol) :
    (predFinish s c col0 rows actThr cols).fixed = s.fixed := by
  simp [predFinish]

@[simp] theorem fixed_streamSet (s : State) (c : Nat) (ws : List Window) : (s.streamSet c ws).fixed = s.fixed := by
  simp [State.streamSet]

@[simp] theorem fixed_mmfBegin (s : State) (c : Nat) (j : Job) : (mmfBegin s c j).1.fixed = s.fixed := by
  simp only [mmfBegin]
  repeat' split
  all_goals simp

@[simp] theorem fixed_mmfExamine (s : State) (c : Nat) (j : Job) : (mmfExamine s c j).fixed = s.fixed := by
  simp [mmfExamine]

@[simp] theorem fixed_mmfPart (s : State) (c : Nat) (j : Job) : (mmfPart s c j).s.fixed = s.fixed := by
  unfold mmfPart
  extract_lets w h ofmt p t col0 ws s₁ skip r en cyc s₂ s₃ j' s₄
  have hs : s₂.fixed = s.fixed := by
    rw [fixed_arrayWork, fixed_columnsGo fun _ _ _ h => fixed_of_mmfSetCol h]
    simp [s₁]
  split
  · split <;> simp [hs]
  · have h₃ : s₃.fixed = s.fixed := by simp [s₃, hs]
    split
    · exact h₃
    · have h₄ : s₄.fixed = s.fixed := by
        simp only [s₄]
        split <;> simp [h₃]
      simp [h₄]

theorem fixed_of_mmtSetCol {s u : State} {c : Nat} {p : Path} {n vfmt ofmt w col0 t : Nat} {d : Desc}
    {set : List (Nat × Hdr × Window)} {j : Nat} (hu : mmtSetCol s c p n vfmt ofmt w col0 t d set j = .ok u) :
    u.fixed = s.fixed := by
  unfold mmtSetCol at hu
  split at hu
  · cases hu
  · obtain ⟨v, hv, rfl⟩ := exists_of_map_ok hu
    simp [fixed_of_accRead hv]

@[simp] theorem fixed_mmtBegin (s : State) (c : Nat) (j : Job) : (mmtBegin s c j).1.fixed = s.fixed := by
  simp [mmtBegin]

@[simp] theorem fixed_mmtExamine (s : State) (c : Nat) (j : Job) : (mmtExamine s c j).fixed = s.fixed := by
  simp [mmtExamine]

@[simp] theorem fixed_mmtSet (s : State) (c : Nat) (j : Job) (upTo : Nat) :
    (mmtSet s c j upTo).1.fixed = s.fixed := by
  unfold mmtSet
  extract_lets w h ofmt p t win hs k0 idx set s₁ r en subs actSub cyc s₂
  have h₂ : s₂.fixed = s.fixed := by
    rw [fixed_arrayWork, fixed_columnsGo fun _ _ _ h => fixed_of_mmtSetCol h]
    simp [s₁]
  split <;> simp [h₂]

@[simp] theorem fixed_mmtPart (s : State) (c : Nat) (j : Job) : (mmtPart s c j).s.fixed = s.fixed := by
  unfold mmtPart
  extract_lets n sz stop k next
  have hstop : ∀ t e, (stop t e).s.fixed = t.fixed := fun t e => by simp [stop]
  have hnext : ∀ t j', (next t j').s.fixed = t.fixed := fun t j' => by
    simp only [next]
    split <;> simp
  split
  · split <;> next h => rw [hstop, fixed_fst h, fixed_mmtSet]
  · split
    · split
      · simp
      · split
        · exact hstop ..
        · simp
    · split
      · split
        · next h => rw [hstop, fixed_fst h, fixed_mmtSet]
        · next h => rw [hnext, fixed_fst h, fixed_mmtSet]
      · exact hnext ..

@[simp] theorem fixed_mmoWindowBegin (s : State) (c : Nat) (j : Job) : (mmoWindowBegin s c j).1.fixed = s.fixed := by
  unfold mmoWindowBegin; split <;> simp

@[simp] theorem fixed_mmoAccumulate (s : State) (c : Nat) (j : Job) (h : Hdr) (w : Nat) :
    (mmoAccumulate s c j h w).s.fixed = s.fixed := by
  unfold mmoAccumulate
  extract_lets b xf wd k init present s₁ s₂ r s₃ en cyc s₄ s₅ n src s₆
  have hs : s₄.fixed = s.fixed := by simp [s₁, s₂, s₃, s₄]
  split
  · simp [s₁]
  · split
    · simp [hs]
    · split
      · simp [s₅, n, hs]
      · simp [s₅, s₆, hs]

@[simp] theorem fixed_mmoDrain (s : State) (c : Nat) (j : Job) (h : Hdr) (w : Nat) :
    (mmoDrain s c j h w).s.fixed = s.fixed := by
  unfold mmoDrain
  extract_lets b dfmt wb k s₁ src es s₂ s₃
  have hs : s₃.fixed = s.fixed := by simp [s₁, s₂, s₃]
  split
  · simp
  · split <;> next h => simp [fixed_fst h, hs]

@[simp] theorem fixed_mmoPart (s : State) (c : Nat) (j : Job) : (mmoPart s c j).s.fixed = s.fixed := by
  simp only [mmoPart]
  repeat' split
  all_goals simp

@[simp] theorem fixed_aclrCompute (s : State) (c : Nat) (j : Job) : (aclrCompute s c j).1.fixed = s.fixed := by
  simp only [aclrCompute]
  repeat' split
  all_goals simp

/-! The masked and sampled array work. -/

@[simp] theorem fixed_scanEnd (s : State) (c : Nat) (j : Job) : (scanEnd s c j).s.fixed = s.fixed := by
  simp only [scanEnd]
  split <;> simp

@[simp] theorem fixed_scanPart (s : State) (c : Nat) (j : Job) : (scanPart s c j).s.fixed = s.fixed := by
  simp only [scanPart]
  split
  · simp
  · split
    · simp
    · split <;> next h => simp [fixed_fst h]

@[simp] theorem fixed_prrStrip (s : State) (c : Nat) (j : Job) (d : SetDesc) (p : PrrParam) (st : Nat) :
    (prrStrip s c j d p st).s.fixed = s.fixed := by
  simp only [prrStrip]
  repeat' split
  all_goals simp
  all_goals next h => simp [fixed_fst h]

@[simp] theorem fixed_prrFlip (s : State) (c : Nat) (j : Job) (d : SetDesc) (st : Nat) :
    (prrFlip s c j d st).s.fixed = s.fixed := by
  unfold prrFlip
  split <;> next h => simp [fixed_fst h]

@[simp] theorem fixed_prrPart (s : State) (c : Nat) (j : Job) : (prrPart s c j).s.fixed = s.fixed := by
  simp only [prrPart]
  repeat' split
  all_goals simp

@[simp] theorem fixed_cmprRun (s : State) (c : Nat) (p : CmprParam) (nf : NfFrom) (sf : Nat) (rows : List (List Nat)) :
    (cmprRun s c p nf sf rows).1.fixed = s.fixed := by
  unfold cmprRun
  extract_lets raw wide group gs most need cls n capped drops s₁ s₂ ng w0 nw wins s₃ writes
  have hs : s₃.fixed = s.fixed := by simp [s₁, s₂, s₃]
  split <;> next h => simp [fixed_fst h, hs]

theorem fixed_of_accRows {s t : State} {c block col0 n : Nat} {rows : List (List Nat)}
    (h : accRows s c block col0 n = .ok (t, rows)) : t.fixed = s.fixed := by
  obtain ⟨u, hu, e⟩ := exists_of_map_ok h
  cases e
  exact fixed_of_accRead hu

@[simp] theorem fixed_cmprCompute (s : State) (c : Nat) (j : Job) : (cmprCompute s c j).1.fixed = s.fixed := by
  simp only [cmprCompute]
  split
  · split <;> simp
  · split
    · rfl
    · next h => simp [fixed_of_accRows h]

@[simp] theorem fixed_predStrips (c : Nat) (p : PredParam) (ufmt t col0 : Nat) (u : Desc) (l : List (Nat × Nat))
    (s : State) (ms : List StripMap) : (predStrips c p ufmt t col0 u l s ms).1.1.fixed = s.fixed := by
  induction l generalizing s ms with
  | nil => rfl
  | cons x l ih =>
    obtain ⟨k, strip⟩ := x
    simp only [predStrips]
    split
    · rfl
    · split
      · rfl
      · split
        · next h => simp [fixed_fst h]
        · next h => simp [ih, fixed_fst h]

@[simp] theorem fixed_predCompute (s : State) (c : Nat) (j : Job) : (predCompute s c j).1.fixed = s.fixed := by
  simp only [predCompute]
  split <;> next h => simp [fixed_fst (congrArg Prod.fst h)]

/-! The vector unit, the top-k unit and conversions. -/

@[simp] theorem fixed_unlessAsked (s : State) (e : Option AccErr) {f : DoneQ} (h : f.1.fixed = s.fixed) :
    (unlessAsked s e f).1.fixed = s.fixed := by
  unfold unlessAsked
  split
  · split
    · rfl
    · exact h
  · exact h

@[simp] theorem fixed_putResults (s : State) (c dst : Nat) (d : Desc) (nbits v : Nat) (cut : Bool) :
    (putResults s c dst d nbits v cut).1.fixed = s.fixed := by
  simp only [putResults]
  repeat' split
  all_goals simp

@[simp] theorem fixed_vopCompute (s : State) (c : Nat) (j : Job) : (vopCompute s c j).1.fixed = s.fixed := by
  unfold vopCompute
  extract_lets w fn us imm vs s₁ r v df out s₂
  have h₁ : s₁.fixed = s.fixed := by simp [s₁]
  rw [fixed_unlessAsked, h₁]
  split <;> next h => simp [fixed_fst h, s₂]

@[simp] theorem fixed_redCompute (s : State) (c : Nat) (j : Job) : (redCompute s c j).1.fixed = s.fixed := by
  unfold redCompute
  extract_lets w us n vs s₁ r v xs g full df out s₂
  have h₁ : s₁.fixed = s.fixed := by simp [s₁]
  rw [fixed_unlessAsked, h₁]
  split <;> next h => simp [fixed_fst h, s₂]

@[simp] theorem fixed_topkCompute (s : State) (c : Nat) (j : Job) : (topkCompute s c j).1.fixed = s.fixed := by
  unfold topkCompute
  extract_lets w us n f k vs s₁ r v g full sel
  have h₁ : s₁.fixed = s.fixed := by simp [s₁]
  rw [fixed_unlessAsked, h₁]
  split
  · next h => simp [fixed_fst h]
  · next h => split <;> next h' => simp [fixed_fst h', fixed_fst h]

@[simp] theorem fixed_cvtCompute (s : State) (c : Nat) (j : Job) : (cvtCompute s c j).1.fixed = s.fixed := by
  unfold cvtCompute
  extract_lets w a d us vs s₁ v0 v1 r n blocks s₂ out
  have h₁ : s₁.fixed = s.fixed := by simp [s₁]
  rw [fixed_unlessAsked, h₁]
  split
  · next h => simp [fixed_fst h, s₂]
  · next h =>
    have h₂ := (fixed_fst h).trans (fixed_putResults ..)
    split
    · split <;> next h' => simp [fixed_fst h', h₂, s₂]
    · simp [h₂, s₂]

/-! The store engine. -/

@[simp] theorem fixed_staStore (s : State) (c : Nat) (j : Job) : (staStore s c j).1.fixed = s.fixed := by
  unfold staStore
  extract_lets w t col0 dfmt ls block bad stop per n ls' s₁ src cv s₂ nb v err rest d be ws
  have h₂ : s₂.fixed = s.fixed := by simp [s₁, s₂]
  have hrest : ∀ t q, (rest t q).1.fixed = t.fixed := fun t q => by
    simp only [rest]
    split
    · split <;> next h => simp [fixed_fst h]
    · rfl
  split
  · rw [hrest, h₂]
  · split
    · next h => simp [fixed_fst h, h₂]
    · next h => simp [hrest, fixed_fst h, h₂]

@[simp] theorem fixed_staCmpr (s : State) (c : Nat) (j : Job) : (staCmpr s c j).1.fixed = s.fixed := by
  simp only [staCmpr]
  split
  · rfl
  · next h => simp [fixed_of_accRows h]

@[simp] theorem fixed_staCompute (s : State) (c : Nat) (j : Job) : (staCompute s c j).1.fixed = s.fixed := by
  unfold staCompute; split <;> simp

/-! The instruction streams and their issue. -/

@[simp] theorem fixed_setQueue (s : State) (c q : Nat) (l : List QSlot) : (s.setQueue c q l).fixed = s.fixed := by
  simp [State.setQueue]

@[simp] theorem fixed_qPush (s : State) (c q : Nat) (ds : List Sector) : (s.qPush c q ds).fixed = s.fixed := by
  simp [State.qPush]

@[simp] theorem fixed_qReserve (s : State) (c q gid n : Nat) : (s.qReserve c q gid n).fixed = s.fixed := by
  simp [State.qReserve]

@[simp] theorem fixed_qDrop (s : State) (c q n : Nat) : (s.qDrop c q n).fixed = s.fixed := by simp [State.qDrop]

@[simp] theorem fixed_raise (s : State) (c : Nat) (t : Strm) (iid index bank : Nat) (e : AccErr) :
    (s.raise c t iid index bank e).fixed = s.fixed := by
  simp [State.raise]

@[simp] theorem fixed_raiseAt (s : State) (c : Nat) (t : Strm) (e : AccErr) : (s.raiseAt c t e).fixed = s.fixed := by
  simp [State.raiseAt]

@[simp] theorem fixed_holdIssue (s : State) (c : Nat) (t : Strm) (op : Nat) (w : Body) (on : Nat) :
    (s.holdIssue c t op w on).fixed = s.fixed := by
  simp [State.holdIssue]

@[simp] theorem fixed_goTo (s : State) (c : Nat) (t : Strm) (i : Nat) : (s.goTo c t i).fixed = s.fixed := by
  simp [State.goTo]

@[simp] theorem fixed_issuedTo (s : State) (c : Nat) (t : Strm) (i : Nat) : (s.issuedTo c t i).fixed = s.fixed := by
  simp [State.issuedTo]

@[simp] theorem fixed_issued (s : State) (c : Nat) (t : Strm) : (s.issued c t).fixed = s.fixed := by
  simp [State.issued]

@[simp] theorem fixed_issuedHolding (s : State) (c : Nat) (t : Strm) (h : Hold) (on : Nat) :
    (s.issuedHolding c t h on).fixed = s.fixed := by
  simp [State.issuedHolding]

@[simp] theorem fixed_setLoops (s : State) (c : Nat) (t : Strm) (l : List LoopFrame) :
    (s.setLoops c t l).fixed = s.fixed := by
  simp [State.setLoops]

@[simp] theorem fixed_issueHalt (s : State) (c : Nat) (t : Strm) (w : Body) :
    (issueHalt s c t w).fixed = s.fixed := by
  simp [issueHalt]

@[simp] theorem fixed_setCnt (s : State) (c : Nat) (t : Strm) (k v : Nat) : (s.setCnt c t k v).fixed = s.fixed := by
  simp [State.setCnt]

@[simp] theorem fixed_issueLoop (s : State) (c : Nat) (t : Strm) (w : Body) :
    (issueLoop s c t w).fixed = s.fixed := by
  simp [issueLoop]

@[simp] theorem fixed_issueEndl (s : State) (c : Nat) (t : Strm) (w : Body) :
    (issueEndl s c t w).fixed = s.fixed := by
  unfold issueEndl; split <;> simp

@[simp] theorem fixed_issueCset (s : State) (c : Nat) (t : Strm) (w : Body) :
    (issueCset s c t w).fixed = s.fixed := by
  simp [issueCset]

@[simp] theorem fixed_issueCadd (s : State) (c : Nat) (t : Strm) (w : Body) :
    (issueCadd s c t w).fixed = s.fixed := by
  simp [issueCadd]

@[simp] theorem fixed_issueCmpb (s : State) (c : Nat) (t : Strm) (w : Body) :
    (issueCmpb s c t w).fixed = s.fixed := by
  simp [issueCmpb]

@[simp] theorem fixed_countSent (s : State) (c dev n : Nat) : (s.countSent c dev n).fixed = s.fixed := by
  unfold State.countSent; split <;> simp

@[simp] theorem fixed_postPen (s : State) (k : Nat) (op : PenOp) : (s.postPen k op).fixed = s.fixed := by
  simp [State.postPen]

@[simp] theorem fixed_issueSig (s : State) (c : Nat) (t : Strm) (w : Body) : (issueSig s c t w).fixed = s.fixed := by
  unfold issueSig
  extract_lets scope pen op amount src after
  have hafter : ∀ {f : State}, f.fixed = s.fixed → (after f).fixed = s.fixed := fun hf => by simp [after, hf]
  split
  · simp
  · split
    · refine hafter ?_
      split
      · next h => simp [fixed_of_penSignal h]
      · simp
    · split
      · split
        · simp
        · exact hafter (by simp)
      · split
        · simp
        · split
          · simp
          · exact hafter (by simp)

@[simp] theorem fixed_register (s : State) (c : Nat) (t : Strm) (k : Nat) (wt : Waiter) :
    (s.register c t k wt).fixed = s.fixed := by
  simp [State.register]

@[simp] theorem fixed_waitOn (s : State) (c : Nat) (t : Strm) (k k2 mode imm : Nat) :
    (s.waitOn c t k k2 mode imm).fixed = s.fixed := by
  simp [State.waitOn]

@[simp] theorem fixed_issueWait (s : State) (c : Nat) (t : Strm) (w : Body) :
    (issueWait s c t w).fixed = s.fixed := by
  simp only [issueWait]
  repeat' split
  all_goals simp

@[simp] theorem fixed_issueHoist (s : State) (c : Nat) (t : Strm) (w : Body) :
    (issueHoist s c t w).fixed = s.fixed := by
  simp only [issueHoist]
  repeat' split
  all_goals simp

@[simp] theorem fixed_issueSyncq (s : State) (c : Nat) (t : Strm) (w : Body) :
    (issueSyncq s c t w).fixed = s.fixed := by
  simp [issueSyncq]

/-! The moves of a core. -/

theorem fixed_of_writeOut {s t : State} {c iid a : Nat} {d : Sector} {sent lcr : Bool}
    (h : s.writeOut c iid a d sent lcr = .ok t) : t.fixed = s.fixed := by
  unfold State.writeOut at h
  split at h
  · cases h
  · split at h
    · split at h <;> cases h
      next h => simp [fixed_of_writeSec h]
    · split at h <;> cases h
      simp

@[simp] theorem fixed_deliver (s : State) (c gid pos : Nat) (d : Sector) :
    (s.deliver c gid pos d).fixed = s.fixed := by
  unfold State.deliver; split <;> simp

@[simp] theorem fixed_askGroup (s : State) (c : Nat) (m : Move) (lcr : Bool) (gid n : Nat) (x : List (Loc × Option Sector)) :
    (s.askGroup c m lcr gid n x).fixed = s.fixed := by
  induction x generalizing s n with
  | nil => rfl
  | cons p l ih =>
    obtain ⟨l, x⟩ := p
    unfold State.askGroup
    cases x <;> simp [ih]

/-- The state that a piece of a move leaves has what no command changes from `s`. -/
def Piece.fixes (s : State) : Piece → Prop
  | .stop t => t.fixed = s.fixed
  | .more t _ => t.fixed = s.fixed
  | .wait .. => True
  | .ask .. => True

@[simp] theorem fixes_stop (s t : State) : (Piece.stop t).fixes s ↔ t.fixed = s.fixed := Iff.rfl

@[simp] theorem fixes_more (s t : State) (m : Move) : (Piece.more t m).fixes s ↔ t.fixed = s.fixed := Iff.rfl

@[simp] theorem fixes_wait (s : State) (m : Move) (on : Nat) : (Piece.wait m on).fixes s := trivial

@[simp] theorem fixes_ask (s : State) (m : Move) (e : AccErr) : (Piece.ask m e).fixes s := trivial

@[simp] theorem fixes_moveErr (s : State) (c : Nat) (m : Move) (e : AccErr) : (moveErr s c m e).fixes s := by
  unfold moveErr
  split <;> simp

@[simp] theorem fixes_loadPiece_go (s : State) (c : Nat) (m : Move) (plain : Bool) (ws : Nat) (elems outs : Nat → Nat)
    (src : List (Loc × Option Sector)) (err : Option AccErr) (r : Nat) :
    (loadPiece.go s c m plain ws elems outs src err r).fixes s := by
  unfold loadPiece.go
  extract_lets n block b0 nb ss gid g s₁ s₂
  split
  · simp
  · extract_lets s₃
    have h₃ : s₃.fixed = s.fixed := by simp [s₁, s₂, s₃]
    split <;> simp [h₃]

@[simp] theorem fixes_loadPiece (s : State) (c : Nat) (m : Move) : (loadPiece s c m).fixes s := by
  unfold loadPiece
  extract_lets
  split
  · repeat' split
    all_goals simp
  · split <;> simp

@[simp] theorem fixed_writeOuts (s : State) (c iid : Nat) (x : List (Nat × Sector)) :
    (s.writeOuts c iid x).1.fixed = s.fixed := by
  induction x generalizing s with
  | nil => rfl
  | cons w ws ih =>
    obtain ⟨a, d⟩ := w
    unfold State.writeOuts
    split
    · rfl
    · next h => simp [ih, fixed_of_writeOut h]

@[simp] theorem fixes_storePiece (s : State) (c : Nat) (m : Move) : (storePiece s c m).fixes s := by
  unfold storePiece
  extract_lets plain ws wd per r ne take ds s₁ o cv s₂
  have h₂ : s₂.fixed = s.fixed := by simp [s₁, s₂]
  split
  · simp
  · split <;> next h => simp [fixed_fst h, h₂]

@[simp] theorem fixed_sendOut_go (c dev a : Nat) (f : Nat → Sector → RedFlit) (s : State) (x : List (Nat × Sector)) :
    (State.sendOut.go c dev a f s x).1.fixed = s.fixed := by
  induction x generalizing s with
  | nil => rfl
  | cons w ws ih =>
    obtain ⟨i, d⟩ := w
    unfold State.sendOut.go
    split <;> simp [ih]

@[simp] theorem fixed_sendOut_put (c iid dev vc : Nat) (s : State) (x : List (Nat × Sector)) :
    (State.sendOut.put c iid dev vc s x).1.fixed = s.fixed := by
  induction x generalizing s with
  | nil => rfl
  | cons w ws ih =>
    obtain ⟨a, d⟩ := w
    unfold State.sendOut.put
    split
    · rfl
    · next h => simp [ih, fixed_of_writeOut h]

@[simp] theorem fixed_sendOut (s : State) (c iid dev vc rtag a : Nat) (ds : List Sector) :
    (s.sendOut c iid dev vc rtag a ds).1.fixed = s.fixed := by
  unfold State.sendOut
  split
  · split <;> simp
  · split <;> simp

@[simp] theorem fixes_sendPiece (s : State) (c : Nat) (m : Move) : (sendPiece s c m).fixes s := by
  unfold sendPiece
  split
  · split <;> next h => simp [fixed_fst h]
  · simp

@[simp] theorem fixes_fillPiece (s : State) (c : Nat) (m : Move) : (fillPiece s c m).fixes s := by
  unfold fillPiece
  split
  · simp
  · next h => simp [fixed_of_writeOut h]

@[simp] theorem fixes_copyPiece (s : State) (c : Nat) (m : Move) : (copyPiece s c m).fixes s := by
  unfold copyPiece
  extract_lets x
  split
  · simp
  · split
    · simp
    · split
      · simp
      · next h => simp [fixed_of_writeOut h]

@[simp] theorem fixes_sendDescPiece (s : State) (c : Nat) (m : Move) : (sendDescPiece s c m).fixes s := by
  unfold sendDescPiece
  extract_lets r rd out
  have hout : (out s).1.fixed = s.fixed := by
    simp only [out]
    split <;> simp
  split
  · split
    · simp
    · split <;> next h => simp [fixed_fst h, hout]
  · split <;> next h => simp [fixed_fst h, hout]

theorem fixes_movePiece (s : State) (c : Nat) (m : Move) : (movePiece s c m).fixes s := by
  unfold movePiece
  split <;> simp

theorem fixed_of_stop {s t : State} {c : Nat} {m : Move} (h : movePiece s c m = .stop t) : t.fixed = s.fixed := by
  have := fixes_movePiece s c m
  rwa [h] at this

theorem fixed_of_more {s t : State} {c : Nat} {m m' : Move} (h : movePiece s c m = .more t m') : t.fixed = s.fixed := by
  have := fixes_movePiece s c m
  rwa [h] at this

@[simp] theorem fixed_moveDone (s : State) (c : Nat) : (s.moveDone c).fixed = s.fixed := by
  unfold State.moveDone; split <;> simp

@[simp] theorem fixed_runMove (c n : Nat) (m : Move) (s : State) : (runMove c n m s).fixed = s.fixed := by
  induction n generalizing m s with
  | zero => rfl
  | succ n ih =>
    unfold runMove
    split
    · simp
    · extract_lets s₁
      have h₁ : s₁.fixed = s.fixed := by simp [s₁]
      split
      · next h => rw [fixed_of_stop h, h₁]
      · simp [h₁]
      · simp [ih, h₁]
      · next h => simp [ih, fixed_of_more h, h₁]

@[simp] theorem fixed_begin (s : State) (c : Nat) (reads writes : List Span) :
    (s.begin c reads writes).fixed = s.fixed := by
  simp [State.begin]

@[simp] theorem fixed_startMove (s : State) (c op : Nat) (w : Body) (m : Move) (reads writes : List Span) :
    (startMove s c op w m reads writes).fixed = s.fixed := by
  simp [startMove]

@[simp] theorem fixed_issueLdq (s : State) (c : Nat) (w : Body) : (issueLdq s c w).fixed = s.fixed := by
  simp only [issueLdq]
  repeat' split
  all_goals simp

@[simp] theorem fixed_issueLdx (s : State) (c : Nat) (w : Body) : (issueLdx s c w).fixed = s.fixed := by
  simp only [issueLdx]
  repeat' split
  all_goals simp

@[simp] theorem fixed_issueStq (s : State) (c : Nat) (w : Body) : (issueStq s c w).fixed = s.fixed := by
  simp only [issueStq]
  repeat' split
  all_goals simp

@[simp] theorem fixed_handed (s : State) (c : Nat) : (s.handed c).fixed = s.fixed := by simp [State.handed]

@[simp] theorem fixed_startEngine (s : State) (c op : Nat) (w : Body) (src : Option Desc) (dst : Desc) (value : Sector) :
    (startEngine s c op w src dst value).fixed = s.fixed := by
  simp [startEngine]

@[simp] theorem fixed_engineGo (c n : Nat) (s : State) : (engineGo c n s).fixed = s.fixed := by
  induction n generalizing s with
  | zero => rfl
  | succ n ih =>
    unfold engineGo
    split
    · rfl
    · split
      · simp
      · extract_lets fail d
        have hd : d.1.fixed = s.fixed := by
          simp only [d]
          split <;> simp
        clear_value d
        obtain ⟨t, x | v⟩ := d
        · simpa [fail] using hd
        · dsimp only
          split
          · simpa [fail] using hd
          · next h => simpa [ih, fixed_of_writeSec h] using hd

@[simp] theorem fixed_issueFill (s : State) (c : Nat) (w : Body) : (issueFill s c w).fixed = s.fixed := by
  simp only [issueFill]
  repeat' split
  all_goals simp

@[simp] theorem fixed_issueCopy (s : State) (c : Nat) (w : Body) : (issueCopy s c w).fixed = s.fixed := by
  simp only [issueCopy]
  repeat' split
  all_goals simp

@[simp] theorem fixed_issueSend (s : State) (c : Nat) (w : Body) : (issueSend s c w).fixed = s.fixed := by
  simp only [issueSend]
  repeat' split
  all_goals simp

/-! The units at work and the pump of a core. -/

@[simp] theorem fixed_setUnit (s : State) (c u : Nat) (x : UnitState) : (s.setUnit c u x).fixed = s.fixed := by
  simp [State.setUnit]

@[simp] theorem fixed_setRun (s : State) (c u : Nat) (j : Job) : (s.setRun c u j).fixed = s.fixed := by
  simp [State.setRun]

@[simp] theorem fixed_issueExec (s : State) (c op : Nat) (w : Body) : (issueExec s c op w).fixed = s.fixed := by
  simp only [issueExec]
  repeat' split
  all_goals simp

@[simp] theorem fixed_issueEffect (s : State) (c : Nat) (t : Strm) (op : Nat) (w : Body) :
    (issueEffect s c t op w).fixed = s.fixed := by
  unfold issueEffect; split <;> simp

@[simp] theorem fixed_jobBegin (s : State) (c : Nat) (j : Job) : (jobBegin s c j).1.fixed = s.fixed := by
  unfold jobBegin; split <;> simp

@[simp] theorem fixed_DoneQ_part (r : DoneQ) (j : Job) : (DoneQ.part r j).s.fixed = r.1.fixed := rfl

@[simp] theorem fixed_jobPart (s : State) (c : Nat) (j : Job) : (jobPart s c j).s.fixed = s.fixed := by
  unfold jobPart
  split <;> simp

@[simp] theorem fixed_showArray (s : State) (c : Nat) (fresh : Bool) : (s.showArray c fresh).fixed = s.fixed := by
  unfold State.showArray; split <;> simp

theorem fixed_of_askOnce {s t : State} {c : Nat} {e : AccErr} (h : s.askOnce c e = some t) : t.fixed = s.fixed := by
  unfold State.askOnce at h
  extract_lets u at h
  split at h
  · cases h
  · simp [← Option.some.inj h, u]

theorem fixed_of_runPart {s t : State} {c u : Nat} {j : Job} (h : s.runPart c u j = some t) : t.fixed = s.fixed := by
  unfold State.runPart at h
  split at h
  · cases h
  · extract_lets s₁ r at h
    have hr : r.s.fixed = s.fixed := by simp [r, s₁]
    split at h
    · cases h
      simp [hr]
    · split at h
      · simp [fixed_of_askOnce h, s₁]
      · cases h
        simp [hr]

theorem fixed_of_startJob {s t : State} {c u : Nat} {j : Job} (h : s.startJob c u j = some t) : t.fixed = s.fixed := by
  unfold State.startJob at h
  extract_lets earlier s₁ r j' s₂ at h
  split at h
  · cases h
  · split at h
    · split at h
      · split at h
        · simp [fixed_of_askOnce h, s₁]
        · cases h
          simp [s₁]
      · cases h
        simp [s₁]
    · split at h
      · cases h
      · simp [← Option.some.inj h, r, s₂]

theorem fixed_of_takeSectors {s t : State} {c u : Nat} {j : Job} {q n : Nat} {rest : List (Nat × Nat)}
    (h : s.takeSectors c u j q n rest = some t) : t.fixed = s.fixed := by
  unfold State.takeSectors at h
  split at h
  · cases h
  · split at h
    · split at h <;> cases h
      simp
    · cases h
      simp

theorem fixed_of_unitStep {s t : State} {c u : Nat} (h : unitStep s c u = some t) : t.fixed = s.fixed := by
  unfold unitStep at h
  split at h
  · cases h
  · split at h
    · exact fixed_of_startJob h
    · split at h
      · split at h
        · exact fixed_of_runPart h
        · exact fixed_of_takeSectors h
      · split at h
        · split at h <;> cases h
          simp
        · split at h <;> cases h
          simp

theorem fixed_of_strmStep {s u : State} {c : Nat} {t : Strm} (h : strmStep s c t = some u) : u.fixed = s.fixed := by
  unfold strmStep at h
  extract_lets moved at h
  have hmoved : ∀ v x, moved v x = some u → v = u := fun v x hv => by
    simp only [moved] at hv
    split at hv <;> cases hv
    rfl
  split at h
  · split at h
    · simp [← hmoved _ _ h]
    · cases h
  · simp [← hmoved _ _ h]
  · cases h

@[simp] theorem fixed_tidyFlights (s : State) (c : Nat) : (s.tidyFlights c).fixed = s.fixed := by
  simp [State.tidyFlights]

@[simp] theorem fixed_tidyPred (s : State) (c : Nat) : (s.tidyPred c).fixed = s.fixed := by
  unfold State.tidyPred; split <;> simp

@[simp] theorem fixed_tidyStep (s : State) (c : Nat) (t : Strm) : (s.tidyStep c t).fixed = s.fixed := by
  simp [State.tidyStep]

@[simp] theorem fixed_tidy (s : State) (c : Nat) : (s.tidy c).fixed = s.fixed := by simp [State.tidy]

theorem fixed_of_coreStep {s t : State} {c : Nat} (h : coreStep s c = some t) : t.fixed = s.fixed := by
  unfold coreStep at h
  split at h
  · next hu =>
    cases h
    obtain ⟨u, -, hu⟩ := List.exists_of_findSome?_eq_some hu
    exact fixed_of_unitStep hu
  · split at h
    · next ha =>
      cases h
      exact fixed_of_strmStep ha
    · exact fixed_of_strmStep h

@[simp] theorem fixed_pumpLoop (c n : Nat) (s : State) : (pumpLoop c n s).fixed = s.fixed := by
  induction n generalizing s with
  | zero => rfl
  | succ n ih =>
    unfold pumpLoop
    split
    · next h => simp [ih, fixed_of_coreStep h]
    · rfl

@[simp] theorem fixed_pump (s : State) (c : Nat) : (s.pump c).fixed = s.fixed := by simp [State.pump]

@[simp] theorem fixed_pumpAll (s : State) : s.pumpAll.fixed = s.fixed := by simp [State.pumpAll]

@[simp] theorem fixed_issueInstr (s : State) (c : Nat) (t : Strm) (op : Nat) (w : Body) :
    (issueInstr s c t op w).fixed = s.fixed := by
  simp [issueInstr]

@[simp] theorem fixed_issueNext (s : State) (c : Nat) (t : Strm) : (s.issueNext c t).fixed = s.fixed := by
  simp [State.issueNext]

/-! Accesses from outside a core. -/

@[simp] theorem fixed_clkErr (s : State) (code unit : Nat) : (s.clkErr code unit).fixed = s.fixed := by
  simp [State.clkErr]

@[simp] theorem fixed_gatedHost (s : State) : s.gatedHost.fixed = s.fixed := by simp [State.gatedHost]

@[simp] theorem fixed_passes (s : State) (who : Writer) (a : Nat) : (s.passes who a).2.fixed = s.fixed := by
  simp only [State.passes]
  repeat' split
  all_goals simp

@[simp] theorem fixed_command (s : State) (who : Writer) (a : Nat) {f : State → State}
    (h : ∀ t, (f t).fixed = t.fixed) : (s.command who a f).fixed = s.fixed := by
  unfold State.command
  split <;> next hp => simp [h, fixed_snd hp]

@[simp] theorem fixed_ungated (s : State) (a : Nat) {f : State → State} (h : ∀ t, (f t).fixed = t.fixed) :
    (s.ungated a f).fixed = s.fixed := by
  simp [State.ungated, h]

/-! The commands of the cores. -/

@[simp] theorem fixed_finish (s : State) (c u : Nat) : (s.finish c u).fixed = s.fixed := by
  simp only [State.finish]
  repeat' split
  all_goals simp

theorem keeps_execFillCopyEngineDone (c : CoreId) (s : State) : keeps s (execFillCopyEngineDone c s) := by
  rw [execFillCopyEngineDone, keeps_next]
  split <;> simp

@[simp] theorem fixed_dropReq (s : State) (id : Nat) : (s.dropReq id).fixed = s.fixed := by simp [State.dropReq]

theorem keeps_execReadDataReturn (id : Nat) (s : State) : keeps s (execReadDataReturn id s) := by
  simp only [execReadDataReturn, keeps_next]
  repeat' split
  all_goals simp

theorem keeps_execWriteAck (id : Nat) (s : State) : keeps s (execWriteAck id s) := by
  simp only [execWriteAck, keeps_next]
  repeat' split
  all_goals simp

@[simp] theorem fixed_startStream (s : State) (c : Nat) (t : Strm) : (s.startStream c t).fixed = s.fixed := by
  simp [State.startStream]

@[simp] theorem fixed_startCore (s : State) (c : Nat) : (s.startCore c).fixed = s.fixed := by simp [State.startCore]

@[simp] theorem fixed_stopCore (s : State) (c : Nat) : (s.stopCore c).fixed = s.fixed := by simp [State.stopCore]

@[simp] theorem fixed_loadStart (s : State) (c : Nat) (t : Strm) (v : Word32) :
    (s.loadStart c t v).fixed = s.fixed := by
  simp only [State.loadStart]
  repeat' split
  all_goals simp

@[simp] theorem fixed_loadSectors (c : Nat) (t : Strm) (n a : Nat) (s : State) :
    (loadSectors c t n a s).2.fixed = s.fixed := by
  induction n generalizing a s with
  | zero => rfl
  | succ n ih =>
    unfold loadSectors
    split <;> next h => simp [ih, fixed_fst h]

@[simp] theorem fixed_loadDone (s : State) (c : Nat) (t : Strm) : (s.loadDone c t).fixed = s.fixed := by
  unfold State.loadDone; split <;> simp

@[simp] theorem fixed_clearCounters (s : State) (c : Nat) : (s.clearCounters c).fixed = s.fixed := by
  simp [State.clearCounters]

/-! The memory tiers. -/

@[simp] theorem fixed_failReq (s : State) (r : Req) (e : AccErr) : (s.failReq r e).fixed = s.fixed := by
  unfold State.failReq; split <;> simp

@[simp] theorem fixed_serveReq (s : State) (id : Nat) (d : Sector) : (s.serveReq id d).fixed = s.fixed := by
  simp [State.serveReq]

@[simp] theorem fixed_landWrite (s : State) (r : Req) (l : Loc) (d : Sector) (be : Word32) :
    (s.landWrite r l d be).fixed = s.fixed := by
  unfold State.landWrite
  split <;> next h => simp [fixed_fst h]

@[simp] theorem fixed_answerRead (s : State) (r : Req) (l : Loc) (e : Ecc) :
    (s.answerRead r l e).fixed = s.fixed := by
  unfold State.answerRead
  extract_lets w live add ue weak s₁
  have h₁ : s₁.fixed = s.fixed := by simp [s₁]
  split <;> next h => simp [fixed_fst h, h₁]

@[simp] theorem fixed_serveAt (s : State) (r : Req) (l : Loc) (e : Ecc) : (s.serveAt r l e).fixed = s.fixed := by
  simp only [State.serveAt]
  repeat' split
  all_goals simp

@[simp] theorem fixed_patrolLine (s : State) (c off : Nat) : (s.patrolLine c off).fixed = s.fixed := by
  simp only [State.patrolLine]
  repeat' split
  all_goals simp

@[simp] theorem fixed_patrolSp (s : State) (c bank word : Nat) (e : Ecc) :
    (s.patrolSp c bank word e).fixed = s.fixed := by
  simp [State.patrolSp]

@[simp] theorem fixed_serveRemote (s : State) (r : Req) (e : Ecc) : (s.serveRemote r e).fixed = s.fixed := by
  unfold State.serveRemote; split <;> simp

theorem keeps_execRemoteSpRequest (id : Nat) (e : Ecc) (s : State) : keeps s (execRemoteSpRequest id e s) := by
  rw [execRemoteSpRequest, keeps_next]
  split <;> simp

@[simp] theorem fixed_clearReductions (s : State) (p : Nat → Bool) : (s.clearReductions p).fixed = s.fixed := by
  simp [State.clearReductions]

@[simp] theorem fixed_scrubCore (s : State) (c : Nat) : (s.scrubCore c).fixed = s.fixed := by simp [State.scrubCore]

@[simp] theorem fixed_scrubEnd (s : State) (c : Nat) : (s.scrubEnd c).fixed = s.fixed := by simp [State.scrubEnd]

@[simp] theorem fixed_countNear (s : State) (pc : Nat) : (s.countNear pc).fixed = s.fixed := by simp [State.countNear]

@[simp] theorem fixed_serveNear (s : State) (r : Req) (e : Ecc) : (s.serveNear r e).fixed = s.fixed := by
  unfold State.serveNear; split <;> simp

theorem keeps_execNearRequest (id : Nat) (e : Ecc) (s : State) : keeps s (execNearRequest id e s) := by
  rw [execNearRequest, keeps_next]
  split <;> simp

@[simp] theorem fixed_patrolNear (s : State) (h pc : Nat) (e : Ecc) (dieCorr : Nat) :
    (s.patrolNear h pc e dieCorr).fixed = s.fixed := by
  simp only [State.patrolNear]
  repeat' split
  all_goals simp

@[simp] theorem fixed_tierBoundary (s : State) : s.tierBoundary.fixed = s.fixed := by simp [State.tierBoundary]

@[simp] theorem fixed_countReach (s : State) (n x : Nat) (lcr : Bool) : (s.countReach n x lcr).fixed = s.fixed := by
  simp [State.countReach]

@[simp] theorem fixed_setStage (s : State) (id : Nat) (st : ReqStage) : (setStage s id st).fixed = s.fixed := by
  simp [setStage]

@[simp] theorem fixed_linkLost (s : State) (r : Req) : (s.linkLost r).fixed = s.fixed := by simp [State.linkLost]

@[simp] theorem fixed_takeTurn (s : State) (n : Nat) (r : Req) : (s.takeTurn n r).fixed = s.fixed := by
  simp [State.takeTurn]

@[simp] theorem fixed_sendReach (s : State) (r : Req) : (s.sendReach r).fixed = s.fixed := by
  simp only [State.sendReach]
  repeat' split
  all_goals simp

theorem keeps_execReachRequest (id : Nat) (s : State) : keeps s (execReachRequest id s) := by
  rw [execReachRequest, keeps_next]
  split <;> simp

@[simp] theorem fixed_reachFail (s : State) (r : Req) (kind : Nat) : (s.reachFail r kind).fixed = s.fixed := by
  simp [State.reachFail]

@[simp] theorem fixed_reachDoneOne (s : State) (r : Req) (st : ReachStatus) :
    (s.reachDoneOne r st).fixed = s.fixed := by
  simp only [State.reachDoneOne]
  repeat' split
  all_goals simp

@[simp] theorem fixed_reachDone (s : State) (r : Req) (st : ReachStatus) : (s.reachDone r st).fixed = s.fixed := by
  simp [State.reachDone]

theorem keeps_execReachCompletion (id : Nat) (st : ReachStatus) (s : State) : keeps s (execReachCompletion id st s) := by
  rw [execReachCompletion, keeps_next]
  split <;> simp

theorem keeps_execReachTimeout (id : Nat) (s : State) : keeps s (execReachTimeout id s) := by
  rw [execReachTimeout, keeps_next]
  split <;> simp

@[simp] theorem fixed_reachForgets (s : State) (p : Nat → Bool) : (s.reachForgets p).fixed = s.fixed := by
  simp [State.reachForgets]

@[simp] theorem fixed_reachDown (s : State) (n : Nat) : (s.reachDown n).fixed = s.fixed := by
  unfold State.reachDown
  extract_lets s₁ s₂ out
  rw [fixed_foldl fun t r => by split <;> simp]
  simp [s₁, s₂]

@[simp] theorem fixed_putFlds (s : State) (a : Nat) (v : Word32) (fs : List FieldPos) :
    (s.putFlds a v fs).fixed = s.fixed := by
  simp [State.putFlds]

@[simp] theorem fixed_marginRefuse (s : State) (a : Nat) (f : FieldPos) (busy : Bool) (code detail : Nat) :
    (s.marginRefuse a f busy code detail).fixed = s.fixed := by
  simp [State.marginRefuse]

@[simp] theorem fixed_nearMarginGo (s : State) (h : Nat) (v : Word32) : (s.nearMarginGo h v).fixed = s.fixed := by
  simp [State.nearMarginGo]

@[simp] theorem fixed_nearScrubs (s : State) : s.nearScrubs.fixed = s.fixed := by simp [State.nearScrubs]

@[simp] theorem fixed_reachMarginGo (s : State) (n : Nat) (v : Word32) : (s.reachMarginGo n v).fixed = s.fixed := by
  simp [State.reachMarginGo]

@[simp] theorem fixed_scrubTiers (s : State) (x : Nat) : (s.scrubTiers x).fixed = s.fixed := by
  unfold State.scrubTiers
  extract_lets sets s₁
  refine (fixed_foldl (fun t n => ?_) _ _).trans (by simp [s₁])
  extract_lets segs u
  have hu : u.fixed = t.fixed := by simp [u]
  clear_value u segs
  cases segs <;> simp [hu]

@[simp] theorem fixed_nearScrubbed (s : State) (n : Nat) : (s.nearScrubbed n).fixed = s.fixed := by
  simp [State.nearScrubbed]

@[simp] theorem fixed_returnScrubbed (s : State) : s.returnScrubbed.fixed = s.fixed := by simp [State.returnScrubbed]

@[simp] theorem fixed_reachScrubbed (s : State) (n : Nat) : (s.reachScrubbed n).fixed = s.fixed := by
  simp [State.reachScrubbed]

/-! Chains of routers. -/

@[simp] theorem fixed_unitSignaller (s : State) : s.unitSignaller.2.fixed = s.fixed := by simp [State.unitSignaller]

@[simp] theorem fixed_unitSignal (s : State) (ctx : Option Nat) (vid : Nat) :
    (s.unitSignal ctx vid).fixed = s.fixed := by
  simp only [State.unitSignal]
  repeat' split
  all_goals simp

@[simp] theorem fixed_wrSec (s : State) (x : Option Nat) (a : Nat) (d : Sector) (be : Word32) :
    (s.wrSec x a d be).fixed = s.fixed := by
  unfold State.wrSec; split <;> simp

@[simp] theorem fixed_wrBytes (s : State) (x : Option Nat) (a : Nat) (bs : List Byte) :
    (s.wrBytes x a bs).fixed = s.fixed := by
  simp [State.wrBytes]

@[simp] theorem fixed_setChain (s : State) (g c : Nat) (x : ChainState) : (s.setChain g c x).fixed = s.fixed := by
  simp [State.setChain]

@[simp] theorem fixed_chainErr (s : State) (e : ChainCfg) (code : Nat) : (s.chainErr e code).fixed = s.fixed := by
  simp [State.chainErr]

@[simp] theorem fixed_noteWrote (s : State) (a : Nat) (be : Word32) : (s.noteWrote a be).fixed = s.fixed := by
  simp [State.noteWrote]

@[simp] theorem fixed_chainWrite (s : State) (e : ChainCfg) (ws : List (Nat × Sector × Word32)) :
    (s.chainWrite e ws).fixed = s.fixed := by
  unfold State.chainWrite; split <;> simp

@[simp] theorem fixed_tailFlag (s : State) (e : ChainCfg) (pos : Nat) (flag : Bool) (batch : Nat × Nat) :
    (s.tailFlag e pos flag batch).fixed = s.fixed := by
  simp [State.tailFlag]

@[simp] theorem fixed_chainOut (s : State) (e : ChainCfg) (pos addr : Nat) (d : Sector) (flag : Bool) (number : Nat) (batch : Nat × Nat) :
    (s.chainOut e pos addr d flag number batch).fixed = s.fixed := by
  simp [State.chainOut]

@[simp] theorem fixed_doneSignal (s : State) (e : ChainCfg) : (s.doneSignal e).fixed = s.fixed := by
  simp [State.doneSignal]

@[simp] theorem fixed_commitSlot (s : State) (e : ChainCfg) (l : ChainIn) (late : Bool) :
    (s.commitSlot e l late).fixed = s.fixed := by
  simp only [State.commitSlot]
  repeat' split
  all_goals simp

@[simp] theorem fixed_chainPair (s : State) (e : ChainCfg) (p l : ChainIn) : (s.chainPair e p l).fixed = s.fixed := by
  simp [State.chainPair]

@[simp] theorem fixed_chainSkip (s : State) (e : ChainCfg) (p : ChainIn) : (s.chainSkip e p).fixed = s.fixed := by
  simp [State.chainSkip]

@[simp] theorem fixed_chainLocal (s : State) (e : ChainCfg) (l : ChainIn) : (s.chainLocal e l).fixed = s.fixed := by
  simp only [State.chainLocal]
  repeat' split
  all_goals simp

@[simp] theorem fixed_chainPartialSec (s : State) (e : ChainCfg) (addr : Nat) (d : Sector) (flag : Bool) (batch : Nat × Nat) :
    (s.chainPartialSec e addr d flag batch).fixed = s.fixed := by
  simp only [State.chainPartialSec]
  repeat' split
  all_goals simp

@[simp] theorem fixed_quietDrop (s : State) : s.quietDrop.fixed = s.fixed := by simp [State.quietDrop]

@[simp] theorem fixed_nirloIn (s : State) (p : Nat) (m : Msg) (kinds : List Nat) {f : State → State}
    (h : ∀ t, (f t).fixed = t.fixed) : (s.nirloIn p m kinds f).fixed = s.fixed := by
  simp [State.nirloIn, h]

@[simp] theorem fixed_chainFeed (e : ChainCfg) (batch : Nat × Nat) (l : List (Nat × Sector × Word32 × Bool)) (s : State) :
    (chainFeed e batch l s).2.fixed = s.fixed := by
  induction l generalizing s with
  | nil => rfl
  | cons x l ih =>
    unfold chainFeed
    split <;> simp [ih]

@[simp] theorem fixed_partialIn (s : State) (e : ChainCfg) (p : Nat) (m : Msg) :
    (s.partialIn e p m).fixed = s.fixed := by
  simp [State.partialIn]

@[simp] theorem fixed_chainPartial (s : State) (p : Nat) (m : Msg) : (s.chainPartial p m).fixed = s.fixed := by
  unfold State.chainPartial; split <;> simp

@[simp] theorem fixed_chainTake (s : State) (f : RedFlit) : (s.chainTake f).fixed = s.fixed := by
  simp [State.chainTake]

@[simp] theorem fixed_chainLocalSector (s : State) (g tag addr : Nat) (d : Sector) :
    (s.chainLocalSector g tag addr d).fixed = s.fixed := by
  simp only [State.chainLocalSector]
  repeat' split
  all_goals simp

@[simp] theorem fixed_chainDeadline (s : State) (g c : Nat) : (s.chainDeadline g c).fixed = s.fixed := by
  unfold State.chainDeadline; split <;> simp

@[simp] theorem fixed_shareSlot (s : State) (g c addr : Nat) (xs : List Sector) :
    (s.shareSlot g c addr xs).fixed = s.fixed := by
  simp only [State.shareSlot]
  repeat' split
  all_goals simp

@[simp] theorem fixed_settleSlot (s : State) (g c addr : Nat) (sum : Sector) :
    (s.settleSlot g c addr sum).fixed = s.fixed := by
  simp only [State.settleSlot]
  repeat' split
  all_goals simp

@[simp] theorem fixed_checkSlot (s : State) (g c addr : Nat) (d : Sector) :
    (s.checkSlot g c addr d).fixed = s.fixed := by
  simp only [State.checkSlot]
  repeat' split
  all_goals simp

@[simp] theorem fixed_checkCompare (s : State) (g c k : Nat) (sum : Sector) (flag : Bool) :
    (s.checkCompare g c k sum flag).fixed = s.fixed := by
  unfold State.checkCompare; split <;> simp

@[simp] theorem fixed_chainsFresh (s : State) : s.chainsFresh.fixed = s.fixed := by simp [State.chainsFresh]

/-! The Nirlo ports and their messages. -/

@[simp] theorem fixed_linkFail (s : State) (p : Nat) : (s.linkFail p).fixed = s.fixed := by simp [State.linkFail]

@[simp] theorem fixed_quietCheck (s : State) : s.quietCheck.fixed = s.fixed := by simp [State.quietCheck]

@[simp] theorem fixed_replayPort (s : State) (p : Nat) : (s.replayPort p).fixed = s.fixed := by
  simp [State.replayPort]

@[simp] theorem fixed_msgArrive (s : State) (p : Nat) (m : Msg) : (s.msgArrive p m).fixed = s.fixed := by
  simp [State.msgArrive]

@[simp] theorem fixed_slotTake (s : State) (p : Nat) (x : Slot) : (s.slotTake p x).fixed = s.fixed := by
  simp only [State.slotTake]
  repeat' split
  all_goals simp

@[simp] theorem fixed_ackTake (s : State) (p : Nat) (f : Flit) : (s.ackTake p f).fixed = s.fixed := by
  simp [State.ackTake]

@[simp] theorem fixed_flitTake (s : State) (p : Nat) (f : Flit) : (s.flitTake p f).fixed = s.fixed := by
  simp [State.flitTake]

@[simp] theorem fixed_flitReceive (s : State) (p : Nat) (f : Flit) : (s.flitReceive p f).fixed = s.fixed := by
  simp [State.flitReceive]

@[simp] theorem fixed_portTrain (s : State) (p : Nat) : (s.portTrain p).fixed = s.fixed := by simp [State.portTrain]

@[simp] theorem fixed_keepTraining (s : State) (u : Nat) (t : Trained) : (s.keepTraining u t).fixed = s.fixed := by
  simp [State.keepTraining]

@[simp] theorem fixed_keepPort (s : State) (p : Nat) (temp : Byte) (values : Word) :
    (s.keepPort p temp values).fixed = s.fixed := by
  simp [State.keepPort]

@[simp] theorem fixed_margDone (s : State) (p : Nat) : (s.margDone p).fixed = s.fixed := by simp [State.margDone]

@[simp] theorem fixed_portUp (s : State) (p : Nat) : (s.portUp p).fixed = s.fixed := by simp [State.portUp]

@[simp] theorem fixed_capExchange (s : State) (p : Nat) (word : Word) : (s.capExchange p word).fixed = s.fixed := by
  simp only [State.capExchange]
  repeat' split
  all_goals simp

@[simp] theorem fixed_portBoundary (s : State) (p : Nat) : (s.portBoundary p).fixed = s.fixed := by
  simp [State.portBoundary]

@[simp] theorem fixed_nirloBoundary (s : State) : s.nirloBoundary.fixed = s.fixed := by simp [State.nirloBoundary]

@[simp] theorem fixed_nirloMarginGo (s : State) (p : Nat) (v : Word32) : (s.nirloMarginGo p v).fixed = s.fixed := by
  simp [State.nirloMarginGo]

@[simp] theorem fixed_writeMsgSec (s : State) (p : Nat) (m : Msg) (a : Nat) (d : Sector) (be : Word32) :
    (s.writeMsgSec p m a d be).fixed = s.fixed := by
  simp only [State.writeMsgSec]
  repeat' split
  all_goals simp

@[simp] theorem fixed_readMsgSecs (ls : List (Option Loc)) (s : State) : (readMsgSecs ls s).2.fixed = s.fixed := by
  induction ls generalizing s with
  | nil => rfl
  | cons x ls ih =>
    cases x with
    | none => simp [readMsgSecs, ih]
    | some l =>
      unfold readMsgSecs
      split <;> next h => simp [ih, fixed_fst h]

theorem keeps_execNirloReadRequest (p : Port) (m : Msg) (s : State) : keeps s (execNirloReadRequest p m s) := by
  simp only [execNirloReadRequest, keeps_next]
  refine fixed_holdFor _ _ _ (fixed_nirloIn _ _ _ _ fun t => ?_)
  split <;> next h => simp [fixed_snd h]

/-! Power states, clocks and caps. -/

@[simp] theorem fixed_pwrErr (s : State) (code loc : Nat) : (s.pwrErr code loc).fixed = s.fixed := by
  simp [State.pwrErr]

@[simp] theorem fixed_driveRails (s : State) (q core sram : Nat) : (s.driveRails q core sram).fixed = s.fixed := by
  simp [State.driveRails]

@[simp] theorem fixed_retarget (s : State) (q : Nat) : (s.retarget q).fixed = s.fixed := by simp [State.retarget]

@[simp] theorem fixed_retargetAll (s : State) : s.retargetAll.fixed = s.fixed := by simp [State.retargetAll]

@[simp] theorem fixed_showCap (s : State) (q : Nat) : (s.showCap q).fixed = s.fixed := by simp [State.showCap]

@[simp] theorem fixed_restartPatterns (s : State) : s.restartPatterns.fixed = s.fixed := by
  simp [State.restartPatterns]

@[simp] theorem fixed_railsFollow (s : State) : s.railsFollow.fixed = s.fixed := by simp [State.railsFollow]

@[simp] theorem fixed_applyOvr (s : State) : s.applyOvr.fixed = s.fixed := by simp [State.applyOvr]

@[simp] theorem fixed_patternBoundary (s : State) : s.patternBoundary.fixed = s.fixed := by
  simp [State.patternBoundary]

@[simp] theorem fixed_oppSettle (s : State) (q : Nat) : (s.oppSettle q).fixed = s.fixed := by simp [State.oppSettle]

@[simp] theorem fixed_coresLost (s : State) : s.coresLost.fixed = s.fixed := by simp [State.coresLost]

@[simp] theorem fixed_railsOff (s : State) : s.railsOff.fixed = s.fixed := by simp [State.railsOff]

@[simp] theorem fixed_tripNow (s : State) (kind code loc : Nat) : (s.tripNow kind code loc).fixed = s.fixed := by
  simp [State.tripNow]

@[simp] theorem fixed_clockLoss (s : State) (xb : Bool) : (s.clockLoss xb).fixed = s.fixed := by
  simp [State.clockLoss]

@[simp] theorem fixed_throttled (s : State) (code : Nat) (logged : Bool) :
    (s.throttled code logged).fixed = s.fixed := by
  simp [State.throttled]

@[simp] theorem fixed_powerCap (s : State) (raise : Bool) : (s.powerCap raise).fixed = s.fixed := by
  simp [State.powerCap]

@[simp] theorem fixed_thermalSample (s : State) (ts : List Byte) : (s.thermalSample ts).fixed = s.fixed := by
  simp [State.thermalSample]

@[simp] theorem fixed_thermalCap (s : State) (q : Nat) (raise : Bool) : (s.thermalCap q raise).fixed = s.fixed := by
  simp [State.thermalCap]

@[simp] theorem fixed_pmbusPoll (s : State) (r : Nat) (answered fault pgood : Bool) (mv : Nat) :
    (s.pmbusPoll r answered fault pgood mv).fixed = s.fixed := by
  simp [State.pmbusPoll]

@[simp] theorem fixed_showAllowed (s : State) : s.showAllowed.fixed = s.fixed := by simp [State.showAllowed]

@[simp] theorem fixed_powerEntry (s : State) : s.powerEntry.fixed = s.fixed := by simp [State.powerEntry]

@[simp] theorem fixed_fullEnds (s : State) : s.fullEnds.fixed = s.fixed := by simp [State.fullEnds]

@[simp] theorem fixed_debugEnds (s : State) : s.debugEnds.fixed = s.fixed := by simp [State.debugEnds]

@[simp] theorem fixed_selfRefresh (s : State) (v : Nat) : (s.selfRefresh v).fixed = s.fixed := by
  simp [State.selfRefresh]

@[simp] theorem fixed_powerEntered (s : State) : s.powerEntered.fixed = s.fixed := by simp [State.powerEntered]

@[simp] theorem fixed_latTolWrite (s : State) (fn ns : Nat) : (s.latTolWrite fn ns).fixed = s.fixed := by
  simp [State.latTolWrite]

/-! The profiler. -/

@[simp] theorem fixed_setLog (s : State) (i : Nat) (h : Hash) : (s.setLog i h).fixed = s.fixed := by
  simp [State.setLog]

@[simp] theorem fixed_showProfiles (s : State) : s.showProfiles.fixed = s.fixed := by simp [State.showProfiles]

@[simp] theorem fixed_takeProfile (s : State) (p : Nat) : (s.takeProfile p).fixed = s.fixed := by
  simp [State.takeProfile]

@[simp] theorem fixed_profLoad (s : State) (f : Profile) : (s.profLoad f).fixed = s.fixed := by
  unfold State.profLoad; split <;> simp

@[simp] theorem fixed_profSwitch (s : State) : s.profSwitch.fixed = s.fixed := by simp [State.profSwitch]

/-! The tables of steps and headers. -/

@[simp] theorem fixed_putItem (s : State) (x : Item) : (s.putItem x).fixed = s.fixed := by
  unfold State.putItem; split <;> simp

@[simp] theorem fixed_putItems (s : State) (l : List Item) : (s.putItems l).fixed = s.fixed := by
  simp [State.putItems]

@[simp] theorem fixed_residentPut (s : State) (a : Nat) (ds : List Sector) : (s.residentPut a ds).fixed = s.fixed := by
  induction ds generalizing a s with
  | nil => rfl
  | cons d ds ih =>
    simp only [State.residentPut, ih]
    split <;> simp

@[simp] theorem fixed_residentSec (s : State) (a : Nat) : (s.residentSec a).1.fixed = s.fixed := by
  unfold State.residentSec
  split
  · rfl
  · split <;> next h => simp [fixed_fst h]

@[simp] theorem fixed_residentItems (n a : Nat) (s : State) : (State.residentItems n a s).1.fixed = s.fixed := by
  induction n generalizing a s with
  | zero => rfl
  | succ n ih =>
    unfold State.residentItems
    split
    next h =>
      split
      · simp [fixed_fst h]
      · split
        next h' => simp [ih, fixed_fst h', fixed_fst h]

@[simp] theorem fixed_resident (s : State) : s.resident.1.fixed = s.fixed := by simp [State.resident]

@[simp] theorem fixed_reload (s : State) (x : Nat) : (s.reload x).fixed = s.fixed := by simp [State.reload]

@[simp] theorem fixed_loadEval (s : State) : s.loadEval.fixed = s.fixed := by unfold State.loadEval; split <;> simp

@[simp] theorem fixed_unloadEval (s : State) : s.unloadEval.fixed = s.fixed := by simp [State.unloadEval]

/-! The manager of steps. -/

@[simp] theorem fixed_relay (s : State) (m : OutMsg) : (s.relay m).fixed = s.fixed := by simp [State.relay]

@[simp] theorem fixed_relayUp (s : State) (rank : Nat) (m : OutMsg) : (s.relayUp rank m).fixed = s.fixed := by
  simp [State.relayUp]

@[simp] theorem fixed_modRun (s : State) (f : StepRun → StepRun) : (s.modRun f).fixed = s.fixed := by
  simp [State.modRun]

@[simp] theorem fixed_modMgr (s : State) (f : Manager → Manager) : (s.modMgr f).fixed = s.fixed := by
  simp [State.modMgr]

@[simp] theorem fixed_stepErr (s : State) (code dev : Nat) : (s.stepErr code dev).fixed = s.fixed := by
  simp [State.stepErr]

@[simp] theorem fixed_showPhase (s : State) (v : Nat) : (s.showPhase v).fixed = s.fixed := by simp [State.showPhase]

@[simp] theorem fixed_clearDetectors (s : State) : s.clearDetectors.fixed = s.fixed := by simp [State.clearDetectors]

@[simp] theorem fixed_verifySend (s : State) : s.verifySend.fixed = s.fixed := by simp [State.verifySend]

@[simp] theorem fixed_stepT0 (s : State) : s.stepT0.fixed = s.fixed := by simp [State.stepT0]

@[simp] theorem fixed_exchDeadlines (s : State) : s.exchDeadlines.fixed = s.fixed := by
  simp only [State.exchDeadlines]
  repeat' split
  all_goals simp

@[simp] theorem fixed_stepBoundary (s : State) (next : Bool) : (s.stepBoundary next).fixed = s.fixed := by
  simp [State.stepBoundary]

@[simp] theorem fixed_planMismatch (s : State) : s.planMismatch.fixed = s.fixed := by simp [State.planMismatch]

@[simp] theorem fixed_startMessage (s : State) (m : StartMsg) : (s.startMessage m).fixed = s.fixed := by
  simp [State.startMessage]

@[simp] theorem fixed_muster (s : State) : s.muster.fixed = s.fixed := by simp [State.muster]

@[simp] theorem fixed_tryStart (s : State) : s.tryStart.fixed = s.fixed := by simp [State.tryStart]

@[simp] theorem fixed_wantStep (s : State) : s.wantStep.fixed = s.fixed := by simp [State.wantStep]

@[simp] theorem fixed_groupBit (s : State) (known all : Bool) : (s.groupBit known all).2.fixed = s.fixed := by
  simp only [State.groupBit]
  repeat' split
  all_goals simp

@[simp] theorem fixed_recordBytes (s : State) (e : StepEnd) : (s.recordBytes e).2.fixed = s.fixed := by
  unfold State.recordBytes
  extract_lets g dets ends all known vers shown nfApply ls kept unknown fw irr uns thr s₁
  have hfw : fw.2.fixed = s.fixed := fixed_groupBit ..
  have hirr : irr.2.fixed = s.fixed := by
    simp only [irr]
    split <;> simp [hfw]
  have h₁ : s₁.fixed = s.fixed := by simp [s₁, thr, uns, hirr]
  simp only [fixed_mk, fixed_eta, h₁]

@[simp] theorem fixed_writeRecord (s : State) (e : StepEnd) : (s.writeRecord e).fixed = s.fixed := by
  simp [State.writeRecord]

@[simp] theorem fixed_groupHalt (s : State) (applied incomplete : Bool) :
    (s.groupHalt applied incomplete).fixed = s.fixed := by
  simp [State.groupHalt]

@[simp] theorem fixed_repeatCause (s : State) (bit : Nat) : (s.repeatCause bit).fixed = s.fixed := by
  simp [State.repeatCause]

@[simp] theorem fixed_finishStep (s : State) (skipped : Bool) : (s.finishStep skipped).fixed = s.fixed := by
  simp [State.finishStep]

@[simp] theorem fixed_checkFinish (s : State) : s.checkFinish.fixed = s.fixed := by simp [State.checkFinish]

@[simp] theorem fixed_learnLoss (s : State) (x : Nat) : (s.learnLoss x).fixed = s.fixed := by simp [State.learnLoss]

@[simp] theorem fixed_stepDone (s : State) : s.stepDone.fixed = s.fixed := by simp [State.stepDone]

@[simp] theorem fixed_enterPhase (s : State) (prev : Nat) : (s.enterPhase prev).fixed = s.fixed := by
  simp [State.enterPhase]

@[simp] theorem fixed_phaseDone (s : State) (p : Nat) : (s.phaseDone p).fixed = s.fixed := by simp [State.phaseDone]

@[simp] theorem fixed_stepReleased (s : State) (h : Nat) : (s.stepReleased h).fixed = s.fixed := by
  simp only [State.stepReleased]
  repeat' split
  all_goals simp

@[simp] theorem fixed_verdictCheck (s : State) : s.verdictCheck.fixed = s.fixed := by
  unfold State.verdictCheck; split <;> simp

@[simp] theorem fixed_verifyArrived (s : State) (h : Nat) : (s.verifyArrived h).fixed = s.fixed := by
  simp [State.verifyArrived]

@[simp] theorem fixed_stopStepCores (s : State) : s.stopStepCores.fixed = s.fixed := by simp [State.stopStepCores]

@[simp] theorem fixed_evalHalt (s : State) : s.evalHalt.fixed = s.fixed := by simp [State.evalHalt]

@[simp] theorem fixed_hardTimeout (s : State) (p : Nat) : (s.hardTimeout p).fixed = s.fixed := by
  simp [State.hardTimeout]

@[simp] theorem fixed_reportArrives (s : State) (k : ReportKind) : (s.reportArrives k).fixed = s.fixed := by
  simp [State.reportArrives]

@[simp] theorem fixed_verifyArrives (s : State) (rank : Nat) (r : VerifyReport) :
    (s.verifyArrives rank r).fixed = s.fixed := by
  simp [State.verifyArrives]

@[simp] theorem fixed_haltMessage (s : State) : s.haltMessage.fixed = s.fixed := by simp [State.haltMessage]

@[simp] theorem fixed_resetCores (s : State) (x : Nat) : (s.resetCores x).fixed = s.fixed := by
  simp [State.resetCores]

@[simp] theorem fixed_repeatMessage (s : State) (again : Bool) : (s.repeatMessage again).fixed = s.fixed := by
  simp only [State.repeatMessage]
  repeat' split
  all_goals simp

theorem keeps_execRepeatMessage (k : RepeatKind) (s : State) : keeps s (execRepeatMessage k s) := by
  simp only [execRepeatMessage, keeps_next]
  split <;> simp

@[simp] theorem fixed_quietArrives (s : State) (rank : Nat) : (s.quietArrives rank).fixed = s.fixed := by
  simp [State.quietArrives]

theorem keeps_execResumeMessage (s : State) : keeps s (execResumeMessage s) := by
  simp only [execResumeMessage, keeps_next]
  split
  · split <;> simp
  · simp

@[simp] theorem fixed_nextAttempt (s : State) : s.nextAttempt.fixed = s.fixed := by simp [State.nextAttempt]

@[simp] theorem fixed_reloadDone (s : State) : s.reloadDone.fixed = s.fixed := by
  simp only [State.reloadDone]
  repeat' split
  all_goals simp

@[simp] theorem fixed_groupHash (s : State) (grp : Nat) (h : Hash) : (s.groupHash grp h).fixed = s.fixed := by
  simp [State.groupHash]

@[simp] theorem fixed_haltNow (s : State) : s.haltNow.fixed = s.fixed := by
  simp only [State.haltNow]
  repeat' split
  all_goals simp

@[simp] theorem fixed_timeSync (s : State) (offset : BitVec 8) : (s.timeSync offset).fixed = s.fixed := by
  simp [State.timeSync]

@[simp] theorem fixed_tickAtLeast (s : State) (t : Nat) : (s.tickAtLeast t).fixed = s.fixed := by
  simp [State.tickAtLeast]

@[simp] theorem fixed_tickAlign (s : State) (down : Bool) (t : Nat) : (s.tickAlign down t).fixed = s.fixed := by
  simp [State.tickAlign]

@[simp] theorem fixed_profRefused (s : State) (sel : Nat) : (s.profRefused sel).fixed = s.fixed := by
  simp [State.profRefused]

@[simp] theorem fixed_profSchedule (s : State) (sel : Nat) : (s.profSchedule sel).fixed = s.fixed := by
  simp [State.profSchedule]

@[simp] theorem fixed_profCommand (s : State) (sel : Nat) (groupRuns : Bool) :
    (s.profCommand sel groupRuns).fixed = s.fixed := by
  simp [State.profCommand]

@[simp] theorem fixed_profAnswer (s : State) (rank sel : Nat) (valid : Bool) :
    (s.profAnswer rank sel valid).fixed = s.fixed := by
  simp [State.profAnswer]

/-! The commands of pennants and hoists. -/

@[simp] theorem fixed_hostSignal (s : State) (fn : Nat) (v : Word32) : (s.hostSignal fn v).fixed = s.fixed := by
  simp [State.hostSignal]

@[simp] theorem fixed_remoteSignal (s : State) (p : Nat) (m : Msg) : (s.remoteSignal p m).fixed = s.fixed := by
  unfold State.remoteSignal
  split
  · split
    · simp
    · split
      · simp
      · split
        · next h => simp [fixed_of_pendEnter h]
        · rfl
  · rfl

@[simp] theorem fixed_hoistIn (s : State) (n : Nat) {f : State → State} (h : ∀ t, (f t).fixed = t.fixed) :
    (s.hoistIn n f).fixed = s.fixed := by
  simp [State.hoistIn, h]

@[simp] theorem fixed_hoistRow (s : State) (id : Nat) (arrive : Bool) : (s.hoistRow id arrive).fixed = s.fixed := by
  simp only [State.hoistRow]
  repeat' split
  all_goals simp

@[simp] theorem fixed_arriveRow (s : State) (h round : Nat) : (s.arriveRow h round).fixed = s.fixed := by
  simp only [State.arriveRow]
  repeat' split
  all_goals simp

@[simp] theorem fixed_finishRow (s : State) (h round : Nat) : (s.finishRow h round).fixed = s.fixed := by
  simp [State.finishRow]

/-! Routing and the combine rows. -/

@[simp] theorem fixed_modRoute (s : State) (c : Nat) (f : RouteState → RouteState) :
    (s.modRoute c f).fixed = s.fixed := by
  simp [State.modRoute]

@[simp] theorem fixed_takeEntries (s : State) (c off : Nat) (d : Sector) (be : Word32) :
    (s.takeEntries c off d be).fixed = s.fixed := by
  simp [State.takeEntries]

@[simp] theorem fixed_routeWrite (s : State) (c off : Nat) (d : Sector) (be : Word32) :
    (s.routeWrite c off d be).fixed = s.fixed := by
  simp [State.routeWrite]

@[simp] theorem fixed_routeBuild (s : State) (c : Nat) : (s.routeBuild c).fixed = s.fixed := by
  simp [State.routeBuild]

@[simp] theorem fixed_spadPut (s : State) (c off : Nat) (bs : List Byte) : (s.spadPut c off bs).fixed = s.fixed := by
  simp [State.spadPut]

@[simp] theorem fixed_routeDone (s : State) (c : Nat) : (s.routeDone c).fixed = s.fixed := by simp [State.routeDone]

@[simp] theorem fixed_combDrop (s : State) (c : Nat) : (s.combDrop c).fixed = s.fixed := by simp [State.combDrop]

@[simp] theorem fixed_combStore (s : State) (c off : Nat) (d : Sector) (be : Word32) :
    (s.combStore c off d be).fixed = s.fixed := by
  -- Unfolded as a function: applied, the kernel would evaluate `stLoc` at numerals too large to recurse on.
  generalize hf : State.combStore = f
  delta State.combStore at hf
  subst hf
  beta_reduce
  extract_lets l
  split <;> next h => simp [fixed_fst h]

@[simp] theorem fixed_combHeader (s : State) (c lane : Nat) (d : Sector) :
    (s.combHeader c lane d).fixed = s.fixed := by
  simp only [State.combHeader]
  repeat' split
  all_goals simp

@[simp] theorem fixed_combRow (s : State) (c lane off : Nat) (d : Sector) :
    (s.combRow c lane off d).fixed = s.fixed := by
  simp only [State.combRow]
  repeat' split
  all_goals simp

/-! Images, their load and their checks. -/

@[simp] theorem fixed_imageStart (s : State) (who : Writer) (x : Nat) : (s.imageStart who x).fixed = s.fixed := by
  simp [State.imageStart]

theorem keeps_execImageLoadStart (who : Writer) (part : Ctx) (s : State) : keeps s (execImageLoadStart who part s) := by
  simp only [execImageLoadStart, keeps_next]
  split <;> simp

@[simp] theorem fixed_putData (s : State) (x : Nat × Nat × Nat) : (s.putData x).fixed = s.fixed := by
  unfold State.putData; split <;> simp

@[simp] theorem fixed_setBit (s : State) (a i : Nat) : (s.setBit a i).fixed = s.fixed := by simp [State.setBit]

@[simp] theorem fixed_enableFor (s : State) (b : ImageBody) : (s.enableFor b).fixed = s.fixed := by
  simp [State.enableFor]

@[simp] theorem fixed_bindLandings (s : State) (x : Nat) (l : List Nat) : (s.bindLandings x l).fixed = s.fixed := by
  simp [State.bindLandings]

@[simp] theorem fixed_putRed (s : State) (f : Nat → Option Nat) (x : Nat × RedImage) :
    (s.putRed f x).fixed = s.fixed := by
  simp [State.putRed]

@[simp] theorem fixed_putSections (s : State) (x : Nat) (f : Nat → Option Nat) (b : ImageBody) :
    (s.putSections x f b).fixed = s.fixed := by
  simp [State.putSections]

@[simp] theorem fixed_putResident (s : State) (b : ImageBody) : (s.putResident b).fixed = s.fixed := by
  simp [State.putResident]

@[simp] theorem fixed_imageCommit (s : State) (j : ImgLoad) (l : List (ImgSection × SectionBody)) :
    (s.imageCommit j l).fixed = s.fixed := by
  simp [State.imageCommit]

@[simp] theorem fixed_imageFails (s : State) (j : ImgLoad) (l : List (ImgSection × SectionBody)) (n : Nat) :
    (s.imageFails j l n).fixed = s.fixed := by
  simp [State.imageFails]

@[simp] theorem fixed_imageWrites (s : State) (j : ImgLoad) (l : List (ImgSection × SectionBody)) :
    (s.imageWrites j l).fixed = s.fixed := by
  unfold State.imageWrites; split <;> simp

@[simp] theorem fixed_imageRefused (s : State) (j : ImgLoad) (code : Nat) :
    (s.imageRefused j code).fixed = s.fixed := by
  simp [State.imageRefused]

/-! Resets. -/

@[simp] theorem fixed_afterReset (s : State) (lvl : Nat) : (s.afterReset lvl).fixed = s.fixed := by
  simp [State.afterReset]

@[simp] theorem fixed_setStep (s : State) (n : Nat) : (s.setStep n).fixed = s.fixed := by simp [State.setStep]

@[simp] theorem fixed_setCause (s : State) (c : Nat) : (s.setCause c).fixed = s.fixed := by simp [State.setCause]

@[simp] theorem fixed_modBoot (s : State) (f : Boot → Boot) : (s.modBoot f).fixed = s.fixed := by simp [State.modBoot]

@[simp] theorem fixed_sampleStrap (s : State) (a0 a1 a2 a3 : Byte) : (s.sampleStrap a0 a1 a2 a3).fixed = s.fixed := by
  simp [State.sampleStrap]

@[simp] theorem fixed_rstErr (s : State) (code : Nat) : (s.rstErr code).fixed = s.fixed := by simp [State.rstErr]

@[simp] theorem fixed_markRecovery (s : State) : s.markRecovery.fixed = s.fixed := by simp [State.markRecovery]

@[simp] theorem fixed_beginCold (s : State) (step : Nat) : (s.beginCold step).fixed = s.fixed := by
  simp [State.beginCold]

@[simp] theorem fixed_takeHeader (s : State) (h : FlashHdr) (ok : Bool) : (s.takeHeader h ok).fixed = s.fixed := by
  simp [State.takeHeader]

@[simp] theorem fixed_takeHostHeader (s : State) : s.takeHostHeader.fixed = s.fixed := by
  unfold State.takeHostHeader; split <;> simp

@[simp] theorem fixed_hostPathGoes (s : State) : s.hostPathGoes.fixed = s.fixed := by simp [State.hostPathGoes]

@[simp] theorem fixed_enterHostPath (s : State) : s.enterHostPath.fixed = s.fixed := by simp [State.enterHostPath]

@[simp] theorem fixed_beginWarm (s : State) (recovering : Bool) : (s.beginWarm recovering).fixed = s.fixed := by
  simp [State.beginWarm]

@[simp] theorem fixed_warmReset (s : State) (cause : Nat) : (s.warmReset cause).fixed = s.fixed := by
  simp [State.warmReset]

@[simp] theorem fixed_warmSource (s : State) (cause : Nat) : (s.warmSource cause).fixed = s.fixed := by
  simp [State.warmSource]

@[simp] theorem fixed_unitErr (s : State) (code unit : Nat) : (s.unitErr code unit).fixed = s.fixed := by
  simp [State.unitErr]

@[simp] theorem fixed_beginRecovery (s : State) : s.beginRecovery.fixed = s.fixed := by simp [State.beginRecovery]

@[simp] theorem fixed_failStart (s : State) (code : Nat) : (s.failStart code).fixed = s.fixed := by
  simp [State.failStart]

@[simp] theorem fixed_startRetry (s : State) : s.startRetry.fixed = s.fixed := by simp [State.startRetry]

@[simp] theorem fixed_restartKind (s : State) (cause : Nat) : (s.restartKind cause).fixed = s.fixed := by
  simp [State.restartKind]

@[simp] theorem fixed_resetCtx (s : State) (x : Nat) : (s.resetCtx x).fixed = s.fixed := by simp [State.resetCtx]

@[simp] theorem fixed_partReset (s : State) (x : Nat) : (s.partReset x).fixed = s.fixed := by simp [State.partReset]

@[simp] theorem fixed_arrayReset (s : State) : s.arrayReset.fixed = s.fixed := by simp [State.arrayReset]

@[simp] theorem fixed_hostPortReset (s : State) : s.hostPortReset.fixed = s.fixed := by simp [State.hostPortReset]

@[simp] theorem fixed_powerOn (s : State) (a0 a1 a2 a3 : Byte) : (s.powerOn a0 a1 a2 a3).fixed = s.fixed := by
  simp [State.powerOn]

@[simp] theorem fixed_perst (s : State) : s.perst.fixed = s.fixed := by
  simp only [State.perst]
  repeat' split
  all_goals simp

@[simp] theorem fixed_watchdogFires (s : State) : s.watchdogFires.fixed = s.fixed := by simp [State.watchdogFires]

@[simp] theorem fixed_inband (s : State) : s.inband.fixed = s.fixed := by simp [State.inband]

@[simp] theorem fixed_violation (s : State) : s.violation.fixed = s.fixed := by simp [State.violation]

/-! Life cycle, debug access and the enclave. -/

@[simp] theorem fixed_secOk (s : State) : s.secOk.fixed = s.fixed := by simp [State.secOk]

@[simp] theorem fixed_secFail (s : State) (code : Nat) : (s.secFail code).fixed = s.fixed := by simp [State.secFail]

theorem fixed_of_putSectors {s t : State} {a : Nat} {ds : List Sector} (h : s.putSectors a ds = some t) :
    t.fixed = s.fixed := by
  induction ds generalizing a s with
  | nil =>
    cases h
    rfl
  | cons d ds ih =>
    unfold State.putSectors at h
    split at h
    · split at h
      · simp [ih h]
      · cases h
    · cases h

@[simp] theorem fixed_modEnclave (s : State) (f : Enclave → Enclave) : (s.modEnclave f).fixed = s.fixed := by
  simp [State.modEnclave]

@[simp] theorem fixed_attest (s : State) (fn : Nat) : (s.attest fn).fixed = s.fixed := by
  unfold State.attest
  split
  · simp
  · split
    · simp
    · next h => simp [fixed_of_putSectors h]

@[simp] theorem fixed_attestBegins (s : State) : s.attestBegins.fixed = s.fixed := by simp [State.attestBegins]

@[simp] theorem fixed_attestAsked (s : State) (fn : Nat) : (s.attestAsked fn).fixed = s.fixed := by
  simp only [State.attestAsked]
  repeat' split
  all_goals simp

@[simp] theorem fixed_setSaHash (s : State) (h : Hash) : (s.setSaHash h).fixed = s.fixed := by simp [State.setSaHash]

@[simp] theorem fixed_attestEnds (s : State) (ue : Bool) : (s.attestEnds ue).fixed = s.fixed := by
  simp [State.attestEnds]

@[simp] theorem fixed_setChallenge (s : State) (v : BitVec 256) (live : Bool) :
    (s.setChallenge v live).fixed = s.fixed := by
  simp [State.setChallenge]

@[simp] theorem fixed_newChallenge (s : State) : s.newChallenge.fixed = s.fixed := by simp [State.newChallenge]

@[simp] theorem fixed_installBurgee (s : State) : s.installBurgee.fixed = s.fixed := by
  unfold State.installBurgee; split <;> simp

@[simp] theorem fixed_signedCheck (s : State) (op : Nat) : (s.signedCheck op).2.fixed = s.fixed := by
  simp only [State.signedCheck]
  repeat' split
  all_goals simp

@[simp] theorem fixed_signed (s : State) (op : Nat) {f : SignedCmd → State → State} (h : ∀ c t, (f c t).fixed = t.fixed) :
    (s.signed op f).fixed = s.fixed := by
  unfold State.signed
  split <;> next hc => simp [h, fixed_snd hc]

@[simp] theorem fixed_setKey (s : State) (slot : Nat) (valid : Bool) (role pub : Nat) :
    (s.setKey slot valid role pub).fixed = s.fixed := by
  simp [State.setKey]

@[simp] theorem fixed_showIdPub (s : State) : s.showIdPub.fixed = s.fixed := by simp [State.showIdPub]

@[simp] theorem fixed_transition (s : State) (target : Nat) : (s.transition target).fixed = s.fixed := by
  simp [State.transition]

theorem keeps_execLifecycleTransition (s : State) : keeps s (execLifecycleTransition s) := by
  rw [execLifecycleTransition, keeps_next]
  refine fixed_awake _ _ fun t => ?_
  split <;> next h => simp [fixed_snd h]

@[simp] theorem fixed_dbgRefuse (s : State) (code addr : Nat) : (s.dbgRefuse code addr).fixed = s.fixed := by
  simp [State.dbgRefuse]

@[simp] theorem fixed_setLevel (s : State) (level part : Nat) (slot : Option Nat) :
    (s.setLevel level part slot).fixed = s.fixed := by
  simp [State.setLevel]

@[simp] theorem fixed_unlockFails (s : State) : s.unlockFails.fixed = s.fixed := by simp [State.unlockFails]

@[simp] theorem fixed_unlock (s : State) : s.unlock.fixed = s.fixed := by
  unfold State.unlock
  split
  · simp
  · split <;> next h => simp [fixed_snd h]

@[simp] theorem fixed_observe (s : State) : s.observe.fixed = s.fixed := by simp [State.observe]

@[simp] theorem fixed_dbgOnCore (s : State) (c : Nat) {f : State → State} (h : ∀ t, (f t).fixed = t.fixed) :
    (s.dbgOnCore c f).fixed = s.fixed := by
  simp [State.dbgOnCore, h]

@[simp] theorem fixed_dbgHalt (s : State) (c : Nat) : (s.dbgHalt c).fixed = s.fixed := by simp [State.dbgHalt]

@[simp] theorem fixed_dbgIndex (s : State) (c : Nat) (t : Strm) : (s.dbgIndex c t).fixed = s.fixed := by
  simp [State.dbgIndex]

@[simp] theorem fixed_dbgResume (s : State) (c : Nat) : (s.dbgResume c).fixed = s.fixed := by simp [State.dbgResume]

@[simp] theorem fixed_dbgStep (s : State) (c : Nat) (t : Strm) : (s.dbgStep c t).fixed = s.fixed := by
  simp [State.dbgStep]

@[simp] theorem fixed_putAccWord (s : State) (c off : Nat) (v : Word32) : (s.putAccWord c off v).fixed = s.fixed := by
  simp [State.putAccWord]

@[simp] theorem fixed_dbgMem (s : State) (l : Loc) (i : Nat) : (s.dbgMem l i).2.fixed = s.fixed := by
  simp only [State.dbgMem]
  repeat' split
  all_goals simp

@[simp] theorem fixed_dbgTouched (s : State) : s.dbgTouched.fixed = s.fixed := by simp [State.dbgTouched]

@[simp] theorem fixed_dbgData (s : State) (write : Bool) (a : Nat) (v : Word32) :
    (s.dbgData write a v).2.1.fixed = s.fixed := by
  unfold State.dbgData
  split
  · rfl
  · split
    · extract_lets c
      split
      · rfl
      · split
        · rfl
        · split <;> simp
    · split
      · split
        · rfl
        · split <;> simp
      · rfl

@[simp] theorem fixed_dbgWord (s : State) (write : Bool) (a : Nat) (v : Word32) :
    (s.dbgWord write a v).2.1.fixed = s.fixed := by
  unfold State.dbgWord
  repeat' split
  all_goals simp

theorem fixed_of_dbgWord {s t : State} {write : Bool} {a code : Nat} {v d : Word32} (h : s.dbgWord write a v = (d, t, code)) :
    t.fixed = s.fixed := by
  rw [← fixed_dbgWord s write a v, h]

@[simp] theorem fixed_dbgAccess (s : State) (write : Bool) : (s.dbgAccess write).fixed = s.fixed := by
  unfold State.dbgAccess
  extract_lets a
  split
  next h => simp [fixed_of_dbgWord h]

@[simp] theorem fixed_dbgapDebug (s : State) (a : Nat) (v : Word32) : (s.dbgapDebug a v).fixed = s.fixed := by
  simp [State.dbgapDebug]

@[simp] theorem fixed_dbgap (s : State) (dr : BitVec 81) : (s.dbgap dr).fixed = s.fixed := by
  unfold State.dbgap
  extract_lets write a v
  split
  · simp
  · split
    · simp
    · split
      next h => simp [fixed_of_dbgWord h]

/-! The host interface. -/

@[simp] theorem fixed_completes (s : State) (fn status : Nat) (data : List Byte) :
    (s.completes fn status data).fixed = s.fixed := by
  simp [State.completes]

@[simp] theorem fixed_bar2Read (s : State) (i : Instr) (fn off len : Nat) :
    (s.bar2Read i fn off len).fixed = s.fixed := by
  unfold State.bar2Read
  split
  · simp
  · extract_lets qs ls
    split
    · simp
    · split
      · simp
      · refine fixed_holdFor _ _ _ ?_
        split <;> next h => simp [fixed_fst h]

@[simp] theorem fixed_bar2Write (s : State) (fn off : Nat) (bs : List Byte) :
    (s.bar2Write fn off bs).fixed = s.fixed := by
  unfold State.bar2Write
  split
  · rfl
  · extract_lets qs s₁ s₂
    have h₁ : s₁.fixed = s.fixed := by
      simp only [s₁]
      split <;> simp
    rw [fixed_foldl fun t q => by split <;> simp]
    simp [s₂, h₁]

@[simp] theorem fixed_bar0Read (s : State) (fn off len : Nat) : (s.bar0Read fn off len).fixed = s.fixed := by
  simp only [State.bar0Read]
  repeat' split
  all_goals simp

theorem keeps_execHostBar0Read (fn : Fn) (off : BitVec 29) (len : Fin 9) (s : State) : keeps s (execHostBar0Read fn off len s) := by
  simp only [execHostBar0Read, keeps_next]
  split <;> simp

@[simp] theorem fixed_cplPut (s : State) (p : PendingCpl) : (s.cplPut p).fixed = s.fixed := by simp [State.cplPut]

@[simp] theorem fixed_drainCpls (ps : List PendingCpl) (stuck : List Nat) (s : State) :
    (drainCpls ps stuck s).fixed = s.fixed := by
  induction ps generalizing stuck s with
  | nil => rfl
  | cons p ps ih =>
    unfold drainCpls
    split <;> simp [ih]

@[simp] theorem fixed_drain (s : State) : s.drain.fixed = s.fixed := by simp [State.drain]

@[simp] theorem fixed_complete (s : State) (p : PendingCpl) : (s.complete p).fixed = s.fixed := by
  simp [State.complete]

@[simp] theorem fixed_cmdPop (s : State) (fn : Nat) : (s.cmdPop fn).fixed = s.fixed := by
  unfold State.cmdPop; split <;> simp

@[simp] theorem fixed_ringAdvance (fn n : Nat) (s : State) : (ringAdvance fn n s).fixed = s.fixed := by
  induction n generalizing s with
  | zero => rfl
  | succ n ih =>
    unfold ringAdvance
    split
    · split <;> simp [ih]
    · rfl

@[simp] theorem fixed_advance (s : State) (fn : Nat) : (s.advance fn).fixed = s.fixed := by simp [State.advance]

@[simp] theorem fixed_advanceAll (s : State) : s.advanceAll.fixed = s.fixed := by simp [State.advanceAll]

@[simp] theorem fixed_starts (s : State) (fn op : Nat) {f : List Byte → CmdHdr → State → State}
    (h : ∀ bs c t, (f bs c t).fixed = t.fixed) : (s.starts fn op f).fixed = s.fixed := by
  unfold State.starts
  split
  · split <;> simp [h]
  · rfl

@[simp] theorem fixed_doorbell (s : State) (fn prod : Nat) : (s.doorbell fn prod).fixed = s.fixed := by
  simp [State.doorbell]

@[simp] theorem fixed_consWrite (s : State) (fn r cons : Nat) : (s.consWrite fn r cons).fixed = s.fixed := by
  simp [State.consWrite]

@[simp] theorem fixed_openCmd (s : State) (fn : Nat) (bs : List Byte) (h : CmdHdr) :
    (s.openCmd fn bs h).fixed = s.fixed := by
  simp [State.openCmd]

@[simp] theorem fixed_dmaStart (s : State) (fn : Nat) (bs : List Byte) (h : CmdHdr) :
    (s.dmaStart fn bs h).fixed = s.fixed := by
  simp only [State.dmaStart]
  repeat' split
  all_goals simp

@[simp] theorem fixed_dmaMove (j : DmaJob) (n m : Nat) (s : State) : (dmaMove j n m s).1.fixed = s.fixed := by
  induction n generalizing m s with
  | zero => rfl
  | succ n ih =>
    unfold dmaMove
    split
    · rfl
    · split
      · rfl
      · split
        · simp [ih]
        · split <;> next h => simp [ih, fixed_fst h]

@[simp] theorem fixed_chanNext (s : State) (ch : Nat) : (s.chanNext ch).fixed = s.fixed := by
  unfold State.chanNext; split <;> simp

@[simp] theorem fixed_dmaMapIdle (s : State) : s.dmaMapIdle.fixed = s.fixed := by
  simp only [State.dmaMapIdle]
  repeat' split
  all_goals simp

@[simp] theorem fixed_dmaSignal (s : State) (j : DmaJob) : (s.dmaSignal j).1.fixed = s.fixed := by
  unfold State.dmaSignal
  split
  · rfl
  · split
    · rfl
    · split
      · next h => exact fixed_of_penSignal h
      · rfl

@[simp] theorem fixed_dmaDone (s : State) (ch : Nat) : (s.dmaDone ch).fixed = s.fixed := by
  simp only [State.dmaDone]
  repeat' split
  all_goals simp

@[simp] theorem fixed_writeCtx (s : State) (x : Nat) (pcs segs : List Nat) :
    (s.writeCtx x pcs segs).fixed = s.fixed := by
  simp [State.writeCtx]

@[simp] theorem fixed_ownAll (s : State) (x vf : Nat) (isl pcs ports segs : List Nat) :
    (s.ownAll x vf isl pcs ports segs).fixed = s.fixed := by
  simp [State.ownAll]

@[simp] theorem fixed_partCreate (s : State) (fn : Nat) (bs : List Byte) (h : CmdHdr) :
    (s.partCreate fn bs h).fixed = s.fixed := by
  simp [State.partCreate]

@[simp] theorem fixed_abortDma (s : State) (x : Nat) : (s.abortDma x).fixed = s.fixed := by
  unfold State.abortDma
  extract_lets one
  have hone : ∀ t ch first j, (one t ch first j).fixed = t.fixed := fun t ch first j => by
    unfold one
    split
    · simp
    · extract_lets n
      split
      next h => simp [fixed_fst h]
  rw [fixed_foldl fun t e => by split <;> simp [hone]]
  simp

@[simp] theorem fixed_killBegins (s : State) (x : Nat) (k : KillState) : (s.killBegins x k).fixed = s.fixed := by
  simp only [State.killBegins]
  repeat' split
  all_goals simp

@[simp] theorem fixed_partKill (s : State) (fn : Nat) (bs : List Byte) (h : CmdHdr) :
    (s.partKill fn bs h).fixed = s.fixed := by
  simp only [State.partKill]
  repeat' split
  all_goals simp

@[simp] theorem fixed_closeVf (s : State) (vf : Nat) : (s.closeVf vf).fixed = s.fixed := by simp [State.closeVf]

@[simp] theorem fixed_releaseAll (s : State) (x : Nat) : (s.releaseAll x).fixed = s.fixed := by
  simp [State.releaseAll]

@[simp] theorem fixed_killDone (s : State) (x : Nat) : (s.killDone x).fixed = s.fixed := by
  unfold State.killDone; split <;> simp

@[simp] theorem fixed_configRequest (s : State) (fn : Nat) (d3hot : Option Bool) (bar2 : Option (Fin 12)) :
    (s.configRequest fn d3hot bar2).fixed = s.fixed := by
  simp only [State.configRequest]
  repeat' split
  all_goals simp

/-! The start of the part. -/

@[simp] theorem fixed_readHeader (s : State) : s.readHeader.fixed = s.fixed := by
  simp only [State.readHeader]
  repeat' split
  all_goals simp

@[simp] theorem fixed_enterClocks (s : State) : s.enterClocks.fixed = s.fixed := by simp [State.enterClocks]

@[simp] theorem fixed_firmwareRuns (s : State) (l : List State.FwImage) (tested : Bool) :
    (s.firmwareRuns l tested).fixed = s.fixed := by
  simp [State.firmwareRuns]

@[simp] theorem fixed_firmwareDone (s : State) : s.firmwareDone.fixed = s.fixed := by simp [State.firmwareDone]

@[simp] theorem fixed_xtalOk (s : State) (f : FieldPos) : (s.xtalOk f).fixed = s.fixed := by simp [State.xtalOk]

@[simp] theorem fixed_xtalSettled (s : State) (xb : Bool) : (s.xtalSettled xb).fixed = s.fixed := by
  simp [State.xtalSettled]

@[simp] theorem fixed_xtalWindow (s : State) (count : Nat) : (s.xtalWindow count).fixed = s.fixed := by
  simp [State.xtalWindow]

@[simp] theorem fixed_xtalLate (s : State) (xb : Bool) : (s.xtalLate xb).fixed = s.fixed := by simp [State.xtalLate]

@[simp] theorem fixed_clocksDone (s : State) (xbPresent : Bool) : (s.clocksDone xbPresent).fixed = s.fixed := by
  simp [State.clocksDone]

@[simp] theorem fixed_pllsDone (s : State) : s.pllsDone.fixed = s.fixed := by simp [State.pllsDone]

@[simp] theorem fixed_railsDone (s : State) : s.railsDone.fixed = s.fixed := by simp [State.railsDone]

@[simp] theorem fixed_trained (s : State) (u : Nat) (t : Trained) : (s.trained u t).fixed = s.fixed := by
  simp [State.trained]

@[simp] theorem fixed_stackTrained (s : State) (h : Nat) (t : Trained) : (s.stackTrained h t).fixed = s.fixed := by
  simp [State.stackTrained]

@[simp] theorem fixed_reachTrained (s : State) (n : Nat) (t : Trained) (rate width cap : Nat) :
    (s.reachTrained n t rate width cap).fixed = s.fixed := by
  simp [State.reachTrained]

@[simp] theorem fixed_trainingDone (s : State) (perStack : List (Option Trained)) (reach : List (Fin 4 × Trained × BitVec 4 × BitVec 5 × BitVec 10)) :
    (s.trainingDone perStack reach).fixed = s.fixed := by
  simp [State.trainingDone]

@[simp] theorem fixed_enterImage (s : State) : s.enterImage.fixed = s.fixed := by
  simp only [State.enterImage]
  repeat' split
  all_goals simp

@[simp] theorem fixed_selfTestDone (s : State) (ok : Bool) : (s.selfTestDone ok).fixed = s.fixed := by
  simp [State.selfTestDone]

@[simp] theorem fixed_startPartition (s : State) (j : ImgLoad) (l : List (ImgSection × SectionBody)) :
    (s.startPartition j l).fixed = s.fixed := by
  simp [State.startPartition]

@[simp] theorem fixed_imageDone (s0 : State) (j : ImgLoad) (img : List SectionBody) :
    (s0.imageDone j img).fixed = s0.fixed := by
  simp only [State.imageDone]
  repeat' split
  all_goals simp

@[simp] theorem fixed_enterLinks (s : State) : s.enterLinks.fixed = s.fixed := by simp [State.enterLinks]

@[simp] theorem fixed_afterLoad (s : State) (flash : Bool) : (s.afterLoad flash).fixed = s.fixed := by
  simp [State.afterLoad]

@[simp] theorem fixed_loadOver (s : State) (img : List SectionBody) : (s.loadOver img).fixed = s.fixed := by
  unfold State.loadOver; split <;> simp

@[simp] theorem fixed_startOver (s : State) : s.startOver.fixed = s.fixed := by simp [State.startOver]

theorem stepEnds_failed (s : State) (code : BitVec 16) (unit : Byte) : s.stepEnds (.failed code unit) =
    if s.startStep = 0 then s else (s.unitErr code.toNat unit.toNat).failStart code.toNat := by
  unfold State.stepEnds
  generalize s.startStep = n
  rcases n with _ | _ | _ | _ | _ | _ | _ | _ | _ | _ | _ | _ | n <;> rfl

theorem stepEnds_done (s : State) : s.stepEnds .done =
    if s.startStep = 1 then s.setStep 2
    else if s.startStep = 2 then (s.setLog 5 s.disabledMeas).setStep 3
    else if s.startStep = 3 then (if s.boot.hostPath then s else s.readHeader)
    else if s.startStep = 4 then s.firmwareDone
    else if s.startStep = 6 then s.pllsDone
    else if s.startStep = 7 then s.railsDone
    else if s.startStep = 9 then (if s.boot.warm then s.selfTestDone true else s)
    else if s.startStep = 11 then s.startOver else s := by
  unfold State.stepEnds
  generalize s.startStep = n
  rcases n with _ | _ | _ | _ | _ | _ | _ | _ | _ | _ | _ | _ | n <;> rfl

theorem stepEnds_clocks (s : State) (xb : Bool) :
    s.stepEnds (.clocks xb) = if s.startStep = 5 then s.clocksDone xb else s := by
  unfold State.stepEnds
  generalize s.startStep = n
  rcases n with _ | _ | _ | _ | _ | _ | _ | _ | _ | _ | _ | _ | n <;> rfl

theorem stepEnds_training (s : State) (perStack : List (Option Trained))
    (reach : List (Fin 4 × Trained × BitVec 4 × BitVec 5 × BitVec 10)) :
    s.stepEnds (.training perStack reach) = if s.startStep = 8 then s.trainingDone perStack reach else s := by
  unfold State.stepEnds
  generalize s.startStep = n
  rcases n with _ | _ | _ | _ | _ | _ | _ | _ | _ | _ | _ | _ | n <;> rfl

theorem stepEnds_selfTest (s : State) (ok : Bool) :
    s.stepEnds (.selfTest ok) = if s.startStep = 9 then s.selfTestDone (ok || s.boot.warm) else s := by
  unfold State.stepEnds
  generalize s.startStep = n
  rcases n with _ | _ | _ | _ | _ | _ | _ | _ | _ | _ | _ | _ | n <;> rfl

@[simp] theorem fixed_stepEnds (s : State) (r : StepResult) : (s.stepEnds r).fixed = s.fixed := by
  cases r with
  | done => simp [stepEnds_done]
  | clocks xb => simp [stepEnds_clocks]
  | training perStack reach => simp [stepEnds_training]
  | selfTest ok => simp [stepEnds_selfTest]
  | failed code unit => simp [stepEnds_failed]

@[simp] theorem fixed_bootGo (s : State) : s.bootGo.fixed = s.fixed := by simp [State.bootGo]

/-! Register writes. -/

@[simp] theorem fixed_afterWrite (s : State) (name : String) (is : List Nat) (a : Nat) :
    (s.afterWrite name is a).fixed = s.fixed := by
  unfold State.afterWrite; split <;> simp

@[simp] theorem fixed_putWhole (s : State) (who : Writer) (r : RegSpec) (is : List Nat) (a : Nat) (v0 : Word) :
    (s.putWhole who r is a v0).fixed = s.fixed := by
  simp [State.putWhole]

@[simp] theorem fixed_runRow (i : Instr) (s : State) : (runRow i s).fixed = s.fixed := by
  cases i
  case imageLoadStart => exact fixed_after (keeps_execImageLoadStart ..)
  case hostBar0Read => exact fixed_after (keeps_execHostBar0Read ..)
  case nirloReadRequest => exact fixed_after (keeps_execNirloReadRequest ..)
  case lifecycleTransition => exact fixed_after (keeps_execLifecycleTransition ..)
  all_goals exact fixed_after ⟨_, rfl, by simp⟩

@[simp] theorem fixed_regPut (s : State) (who : Writer) (r : RegSpec) (is : List Nat) (a : Nat) (v : Word) :
    (s.regPut who r is a v).fixed = s.fixed := by
  simp [State.regPut]

@[simp] theorem fixed_wordPut (s : State) (who : Writer) (a : Nat) (v : Word32) :
    (s.wordPut who a v).fixed = s.fixed := by
  simp only [State.wordPut]
  repeat' split
  all_goals simp

@[simp] theorem fixed_regPutAt (s : State) (who : Writer) (a : Nat) (wide : Bool) (v : Word) :
    (s.regPutAt who a wide v).fixed = s.fixed := by
  unfold State.regPutAt
  extract_lets whole
  clear_value whole
  split <;> simp

@[simp] theorem fixed_regWrite (s : State) (who : Writer) (a0 : Nat) (wide : Bool) (v : Word) :
    (s.regWrite who a0 wide v).fixed = s.fixed := by
  unfold State.regWrite
  extract_lets a host
  generalize (if wide = true then 8 else 4) = n
  split
  · split <;> simp
  · split <;> next h => simp [fixed_snd h]

theorem keeps_execRegisterWrite (who : Writer) (addr : BitVec 48) (wide : Bool) (v : Word) (s : State) : keeps s (execRegisterWrite who addr wide v s) := by
  simp only [execRegisterWrite, keeps_next]
  split <;> simp

/-! The end of a wake. -/

@[simp] theorem fixed_serveOne (s : State) (i : Instr) : (serveOne s i).fixed = s.fixed := by
  unfold serveOne
  split
  · exact fixed_after (keeps_execRegisterWrite ..)
  · simp

@[simp] theorem fixed_serveHeld (s : State) : s.serveHeld.fixed = s.fixed := by simp [State.serveHeld]

@[simp] theorem fixed_deepExit (s : State) : s.deepExit.fixed = s.fixed := by simp [State.deepExit]

@[simp] theorem fixed_powerExit (s : State) : s.powerExit.fixed = s.fixed := by simp [State.powerExit]

@[simp] theorem fixed_margEnds (s : State) : s.margEnds.fixed = s.fixed := by
  unfold State.margEnds
  extract_lets t
  have ht : t.fixed = s.fixed := (fixed_foldl (fun u x => by split <;> simp) _ _).trans (by simp)
  simp [ht]


/-- Each command answers a next state and keeps what no command changes. The commands named are those whose effect is a
choice between cases; every other one runs functions of the state, each with its own lemma above. -/
theorem keeps_exec (i : Instr) (s : State) : keeps s (exec i s) := by
  cases i
  case fillCopyEngineDone => exact keeps_execFillCopyEngineDone ..
  case readDataReturn => exact keeps_execReadDataReturn ..
  case writeAck => exact keeps_execWriteAck ..
  case remoteSpRequest => exact keeps_execRemoteSpRequest ..
  case nearRequest => exact keeps_execNearRequest ..
  case reachRequest => exact keeps_execReachRequest ..
  case reachCompletion => exact keeps_execReachCompletion ..
  case reachTimeout => exact keeps_execReachTimeout ..
  case nirloReadRequest => exact keeps_execNirloReadRequest ..
  case repeatMessage => exact keeps_execRepeatMessage ..
  case resumeMessage => exact keeps_execResumeMessage ..
  case imageLoadStart => exact keeps_execImageLoadStart ..
  case lifecycleTransition => exact keeps_execLifecycleTransition ..
  case hostBar0Read => exact keeps_execHostBar0Read ..
  case registerWrite => exact keeps_execRegisterWrite ..
  all_goals exact ⟨_, rfl, by simp⟩

/-- Settles O57, by a lemma for each function of the state that a command calls. -/
theorem commandsKeepTheQueueAndDisabledCores : Obligations.CommandsKeepTheQueueAndDisabledCores := by
  intro i s
  obtain ⟨t, ht, h⟩ := keeps_exec i s
  exact ⟨t, ht, congrArg Prod.fst h, congrArg Prod.snd h⟩

end Sys2Proof.Machine
end

section
/-! PROOFS. A register's fields: which bits of a word the fields of one access class are (R7, R8). -/

namespace Sys2Proof.Machine

open Sys2Proof

/-- A field holds bit `i`. -/
def FieldSpec.has (f : FieldSpec) (i : Nat) : Bool := decide (f.lo ≤ i) && decide (i < f.lo + f.width)

/-- Two fields that share no bit. -/
def FieldSpec.apart (f g : FieldSpec) : Prop := f.lo + f.width ≤ g.lo ∨ g.lo + g.width ≤ f.lo

/-- A description whose fields are not empty, lie within a word and share no bit. -/
def RegSpec.fits (r : RegSpec) : Prop :=
  (∀ f ∈ r.fields, 0 < f.width ∧ f.lo + f.width ≤ 64) ∧ r.fields.Pairwise FieldSpec.apart

/-- The bits of the fields of one class. -/
def RegSpec.accWord (r : RegSpec) (p : Access → Bool) : Word := BitVec.ofNat 64 (accMask r p)

theorem FieldSpec.symm_apart : Std.Symm FieldSpec.apart := ⟨fun _ _ h => Or.symm h⟩

theorem FieldSpec.has_of_apart {f g : FieldSpec} (h : f.apart g) {i : Nat} (hi : g.has i = true) : f.has i = false := by
  simp only [FieldSpec.apart, FieldSpec.has, Bool.and_eq_true, decide_eq_true_eq] at h hi
  simp only [FieldSpec.has, Bool.and_eq_false_iff, decide_eq_false_iff_not]
  omega

theorem FieldSpec.has_add {f : FieldSpec} {i : Nat} (hi : i < f.width) : f.has (f.lo + i) = true := by
  simp [FieldSpec.has, hi]

theorem getLsbD_ofNat_field (f : FieldSpec) {i : Nat} (hi : i < 64) :
    (BitVec.ofNat 64 ((2 ^ f.width - 1) * 2 ^ f.lo)).getLsbD i = f.has i := by
  simp only [BitVec.getLsbD_ofNat, hi, Nat.testBit_mul_two_pow, Nat.testBit_two_pow_sub_one, decide_true, Bool.true_and,
    FieldSpec.has]
  grind

/-- The sum of the masks of fields that share no bit is their union. -/
theorem getLsbD_foldl_accMask {p : Access → Bool} {fs : List FieldSpec} (h : fs.Pairwise FieldSpec.apart) {m : Nat}
    (hm : ∀ f ∈ fs, ∀ i < 64, f.has i = true → (BitVec.ofNat 64 m).getLsbD i = false) {i : Nat} (hi : i < 64) :
    (BitVec.ofNat 64 (fs.foldl (fun m f => if p f.access then m + (2 ^ f.width - 1) * 2 ^ f.lo else m) m)).getLsbD i
      = ((BitVec.ofNat 64 m).getLsbD i || fs.any fun f => p f.access && f.has i) := by
  induction fs generalizing m with
  | nil => simp
  | cons f fs ih =>
    obtain ⟨hf, hfs⟩ := List.pairwise_cons.mp h
    rw [List.foldl_cons]
    by_cases hp : p f.access = true
    · have hsum : ∀ k < 64, (BitVec.ofNat 64 (m + (2 ^ f.width - 1) * 2 ^ f.lo)).getLsbD k
          = ((BitVec.ofNat 64 m).getLsbD k || f.has k) := fun k hk => by
        rw [BitVec.ofNat_add, BitVec.add_eq_or_of_and_eq_zero, BitVec.getLsbD_or, getLsbD_ofNat_field f hk]
        refine BitVec.eq_of_getLsbD_eq fun j hj => ?_
        rw [BitVec.getLsbD_and, getLsbD_ofNat_field f hj]
        cases h : f.has j
        · simp
        · simp [hm f (List.mem_cons_self ..) j hj h]
      rw [if_pos hp, ih hfs, hsum i hi]
      · simp [hp, Bool.or_assoc]
      · intro g hg k hk hgk
        rw [hsum k hk, hm g (List.mem_cons_of_mem _ hg) k hk hgk, FieldSpec.has_of_apart (hf g hg) hgk]
        rfl
    · rw [if_neg hp, ih hfs fun g hg => hm g (List.mem_cons_of_mem _ hg)]
      simp [hp]

theorem RegSpec.getLsbD_accWord {r : RegSpec} (h : r.fits) (p : Access → Bool) {i : Nat} (hi : i < 64) :
    (r.accWord p).getLsbD i = r.fields.any fun f => p f.access && f.has i := by
  rw [RegSpec.accWord, accMask, getLsbD_foldl_accMask h.2 (by simp) hi]
  simp

/-- Within a field the mask of a class is all ones or all zeros. -/
theorem RegSpec.getLsbD_accWord_field {r : RegSpec} (h : r.fits) (p : Access → Bool) {f : FieldSpec} (hf : f ∈ r.fields)
    {i : Nat} (hi : i < f.width) : (r.accWord p).getLsbD (f.lo + i) = p f.access := by
  obtain ⟨hw, hd⟩ := h
  have hlt : f.lo + i < 64 := by have := (hw f hf).2; omega
  rw [RegSpec.getLsbD_accWord ⟨hw, hd⟩ p hlt, Bool.eq_iff_iff, List.any_eq_true]
  constructor
  · rintro ⟨g, hg, hgi⟩
    obtain ⟨hpg, hgi⟩ := Bool.and_eq_true_iff.mp hgi
    have hfg : g = f := by
      by_contra hne
      have := FieldSpec.symm_apart
      have := FieldSpec.has_of_apart (hd.forall hf hg (Ne.symm hne)) hgi
      rw [FieldSpec.has_add hi] at this
      cases this
    rwa [← hfg]
  · exact fun hp => ⟨f, hf, by rw [hp, FieldSpec.has_add hi]; rfl⟩

/-- A field read off its bits. -/
theorem wordFld_pos (w : Word) (f : FieldSpec) : wordFld w f.pos = (w.extractLsb' f.lo f.width).toNat := by
  simp [wordFld, FieldSpec.pos, Nat.shiftRight_eq_div_pow]

theorem wordFld_eq_iff (w w' : Word) (f : FieldSpec) :
    wordFld w f.pos = wordFld w' f.pos ↔ ∀ i < f.width, w.getLsbD (f.lo + i) = w'.getLsbD (f.lo + i) := by
  rw [wordFld_pos, wordFld_pos, BitVec.toNat_inj]
  constructor
  · intro h i hi
    simpa [hi] using congrArg (BitVec.getLsbD · i) h
  · exact fun h => BitVec.eq_of_getLsbD_eq fun i hi => by simp [hi, h i hi]

/-- The bits written 1 taken out of a field. -/
theorem wordFld_and_not (w v : Word) (f : FieldSpec) (h : f.lo + f.width ≤ 64) :
    wordFld (w &&& ~~~v) f.pos = wordFld w f.pos - (wordFld w f.pos &&& wordFld v f.pos) := by
  have hsplit : ∀ x y : BitVec f.width, (x &&& ~~~y).toNat = x.toNat - (x &&& y).toNat := fun x y => by
    have hsum : (x &&& ~~~y) + (x &&& y) = x := by
      rw [BitVec.add_eq_or_of_and_eq_zero]
      · ext i hi; simp; grind
      · ext i hi; simp; grind
    have := BitVec.toNat_add_of_and_eq_zero (x := x &&& ~~~y) (y := x &&& y) (by ext i hi; simp; grind)
    rw [hsum] at this
    omega
  have hext : (w &&& ~~~v).extractLsb' f.lo f.width = w.extractLsb' f.lo f.width &&& ~~~(v.extractLsb' f.lo f.width) := by
    refine BitVec.eq_of_getLsbD_eq fun i hi => ?_
    simp [hi, show f.lo + i < 64 by omega]
  rw [wordFld_pos, wordFld_pos, wordFld_pos, hext, hsplit, BitVec.toNat_and]

/-- Two words agree under the mask of a class when they agree in its fields. -/
theorem RegSpec.and_accWord_eq_iff {r : RegSpec} (h : r.fits) (p : Access → Bool) (w w' : Word) :
    w &&& r.accWord p = w' &&& r.accWord p ↔
      ∀ f ∈ r.fields, p f.access = true → wordFld w f.pos = wordFld w' f.pos := by
  constructor
  · intro he f hf hp
    refine (wordFld_eq_iff ..).mpr fun i hi => ?_
    simpa [RegSpec.getLsbD_accWord_field h p hf hi, hp] using congrArg (BitVec.getLsbD · (f.lo + i)) he
  · refine fun he => BitVec.eq_of_getLsbD_eq fun k hk => ?_
    rw [BitVec.getLsbD_and, BitVec.getLsbD_and, RegSpec.getLsbD_accWord h p hk]
    by_cases hany : (r.fields.any fun f => p f.access && f.has k) = true
    · obtain ⟨f, hf, hfk⟩ := List.any_eq_true.mp hany
      obtain ⟨hp, hfk⟩ := Bool.and_eq_true_iff.mp hfk
      simp only [FieldSpec.has, Bool.and_eq_true, decide_eq_true_eq] at hfk
      have := (wordFld_eq_iff w w' f).mp (he f hf hp) (k - f.lo) (by omega)
      rw [show f.lo + (k - f.lo) = k by omega] at this
      rw [this]
    · simp [hany]

/-! The table of registers. -/

theorem regFindIn_mem {rs : List RegSpec} {a : Nat} {x : RegSpec × List Nat × Nat} (h : regFindIn rs a = some x) :
    x.1 ∈ rs := by
  induction rs with
  | nil => cases h
  | cons r rs ih =>
    rw [regFindIn] at h
    split at h
    · cases h
      exact List.mem_cons_self ..
    · exact List.mem_cons_of_mem _ (ih h)

theorem fits_of_mem_regTable {r : RegSpec} (h : r ∈ regTable) : r.fits := by
  have hall : ∀ r ∈ regTable, (∀ f ∈ r.fields, 0 < f.width ∧ f.lo + f.width ≤ 64)
      ∧ r.fields.Pairwise fun f g => f.lo + f.width ≤ g.lo ∨ g.lo + g.width ≤ f.lo := by decide +kernel
  exact hall r h

theorem block_lt_of_mem_regTable {r : RegSpec} (h : r ∈ regTable) : r.block < 32 := by
  have hall : ∀ r ∈ regTable, r.block < 32 := by decide +kernel
  exact hall r h

end Sys2Proof.Machine
end

section
/-! PROOFS. What an error record changes of the registers (R329, R331, R404). -/

namespace Sys2Proof.Machine

open Sys2Proof

theorem reg_ringPut (s : State) (f n esz : Nat) (bs : List Byte) {b : Nat} (hp : b ≠ Reg.HF_RING_PROD f n) :
    (ringPut s f n esz bs).reg b = s.reg b := by
  unfold ringPut
  exact reg_setFld_ne _ _ _ hp

theorem reg_bump_ne (s : State) {a b : Nat} (f : FieldPos) (n : Nat) (h : b ≠ a) : (s.bump a f n).reg b = s.reg b :=
  reg_setFld_ne _ _ _ h

/-- A record in a function's error ring changes only the ring's producer index and the count of lost records. -/
theorem reg_errRingPut (s : State) (f : Nat) (bs : List Byte) {b : Nat} (hp : b ≠ Reg.HF_RING_PROD f 2)
    (hl : b ≠ Reg.HF_ERR_LOST f) : (errRingPut s f bs).reg b = s.reg b := by
  unfold errRingPut
  split
  · rfl
  · split
    · exact reg_bump_ne _ _ _ hl
    · extract_lets lost s₁
      have h₁ : s₁.reg b = s.reg b := by
        simp only [s₁]
        split
        · rfl
        · rw [reg_emit, reg_ringPut _ _ _ _ _ hp, reg_setFld_ne _ _ _ hl]
      split
      · rw [reg_bump_ne _ _ _ hl, h₁]
      · rw [reg_emit, reg_ringPut _ _ _ _ _ hp, h₁]

@[simp] theorem held_errRingPut (s : State) (f : Nat) (bs : List Byte) : (errRingPut s f bs).held = s.held := by
  unfold errRingPut ringPut State.bump State.emit
  simp only [held_setFld, apply_ite State.held, ite_self]

/-- No error ring lies below the host's pages. -/
theorem reg_errRingPut_of_lt (s : State) (f : Nat) (bs : List Byte) {b : Nat} (h : b < hostBase) :
    (errRingPut s f bs).reg b = s.reg b := by
  unfold hostBase at h
  refine reg_errRingPut s f bs ?_ ?_
  · unfold Reg.HF_RING_PROD
    omega
  · unfold Reg.HF_ERR_LOST
    omega

theorem reg_report_of_lt (s : State) (code : Nat) (ctx core : Option Nat) (detail : Nat) {b : Nat} (h : b < hostBase) :
    (s.report code ctx core detail).reg b = s.reg b := by
  simp only [State.report]
  repeat' split
  all_goals simp only [reg_errRingPut_of_lt _ _ _ h]

theorem reg_report_none (s : State) (code : Nat) (core : Option Nat) (detail : Nat) {b : Nat}
    (hp : b ≠ Reg.HF_RING_PROD 0 2) (hl : b ≠ Reg.HF_ERR_LOST 0) : (s.report code none core detail).reg b = s.reg b :=
  reg_errRingPut s 0 _ hp hl

@[simp] theorem held_report (s : State) (code : Nat) (ctx core : Option Nat) (detail : Nat) :
    (s.report code ctx core detail).held = s.held := by
  simp only [State.report]
  repeat' split
  all_goals simp

@[simp] theorem held_cfgError (s : State) (who : Writer) (code addr : Nat) : (s.cfgError who code addr).held = s.held := by
  simp only [State.cfgError]
  repeat' split
  all_goals simp

/-- A configuration error at a register changes none but its own records and the error rings. -/
theorem reg_cfgError_self (s : State) (who : Writer) (code : Nat) {a : Nat} (he : a ≠ Reg.CFG_ERR)
    (ha : a ≠ Reg.CFG_ERR_ADDR) (hp : a ≠ Reg.HF_RING_PROD 0 2) (hl : a ≠ Reg.HF_ERR_LOST 0) :
    (s.cfgError who code a).reg a = s.reg a := by
  unfold State.cfgError
  extract_lets t c
  have ht : t.reg a = s.reg a := by
    simp only [t]
    split
    · rfl
    · rw [reg_setReg_ne _ _ ha, reg_setReg_ne _ _ he]
  split
  · next h =>
    have hlt : a < hostBase := by
      simp only [c, ctrlBase, nCores] at h
      unfold hostBase
      omega
    rw [reg_report_of_lt _ _ _ _ _ hlt, ht]
  · rw [reg_report_none _ _ _ _ hp hl, ht]

/-- The first configuration error is recorded. -/
theorem cfgError_records (s : State) (who : Writer) {code a : Nat} (hc : code < 2 ^ 16) (ha : a < 2 ^ 48)
    (h : s.flag Reg.CFG_ERR Fld.CFG_ERR_VALID = false) :
    (s.cfgError who code a).fld Reg.CFG_ERR Fld.CFG_ERR_VALID = 1
      ∧ (s.cfgError who code a).fld Reg.CFG_ERR Fld.CFG_ERR_CODE = code
      ∧ ((s.cfgError who code a).reg Reg.CFG_ERR_ADDR).toNat = a := by
  have hw : writerCode who < 4 := by cases who <;> simp [writerCode]
  have herr : (s.cfgError who code a).reg Reg.CFG_ERR = BitVec.ofNat 64 (2 ^ 31 + writerCode who * 2 ^ 29 + code) := by
    simp only [State.cfgError, h]
    split <;> rw [reg_report_of_lt _ _ _ _ _ (by decide), if_neg (by decide), reg_setReg_ne _ _ (by decide),
      reg_setReg_self]
  have haddr : (s.cfgError who code a).reg Reg.CFG_ERR_ADDR = BitVec.ofNat 64 a := by
    simp only [State.cfgError, h]
    split <;> rw [reg_report_of_lt _ _ _ _ _ (by decide), if_neg (by decide), reg_setReg_self]
  refine ⟨?_, ?_, ?_⟩
  · simp only [State.fld, wordFld, herr, Fld.CFG_ERR_VALID, BitVec.toNat_ofNat]
    omega
  · simp only [State.fld, wordFld, herr, Fld.CFG_ERR_CODE, BitVec.toNat_ofNat]
    omega
  · rw [haddr, BitVec.toNat_ofNat]
    omega

end Sys2Proof.Machine
end

section
/-! PROOFS. A write of a register whose chapter adds nothing (R7, R8, R326, R329). -/

namespace Sys2Proof.Machine

open Sys2Proof

namespace State

/-- Some held field of the register waits for its boundary (R326). -/
def waits (s : State) (r : RegSpec) (is : List Nat) : Bool := r.accWord (· == .rwh) != 0 && s.heldWaits r is

/-- A write changes a static field of a block that runs (R325, R329). -/
def refuses (s : State) (r : RegSpec) (is : List Nat) (old v : Word) : Bool :=
  s.ownerRuns r is && (old &&& r.accWord (· == .rws)) != (v &&& r.accWord (· == .rws))

/-- The classes whose fields take the bits written at once (R8, R325, R326). -/
def takes (s : State) (r : RegSpec) (is : List Nat) : Access → Bool
  | .rw | .rwc => true
  | .rws => !s.ownerRuns r is
  | .rwh => !s.heldWaits r is
  | _ => false

/-- The bits that take what is written at once. -/
def takenBits (s : State) (r : RegSpec) (is : List Nat) : Word :=
  r.accWord (fun x => x == .rw || x == .rwc) ||| (if s.ownerRuns r is then 0 else r.accWord (· == .rws))
    ||| (if s.waits r is then 0 else r.accWord (· == .rwh))

/-- The word in effect after a write. -/
def wordTaken (s : State) (r : RegSpec) (is : List Nat) (old v : Word) : Word :=
  maskPut old (s.takenBits r is) v &&& ~~~(r.accWord (· == .w1c) &&& v)

/-- A write without its error: the word in effect, and the held write where one waits. -/
def written (s : State) (a : Nat) (r : RegSpec) (is : List Nat) (old v : Word) : State :=
  let t := s.setReg a (s.wordTaken r is old v)
  if s.waits r is then { t with held := t.held ++ [⟨a, r.accWord (· == .rwh), v &&& r.accWord (· == .rwh)⟩] } else t

theorem hold_of_none {s : State} {a : Nat} (h : ∀ x ∈ s.held, x.addr ≠ a) (mask v : Word) :
    s.hold a mask v = { s with held := s.held ++ [⟨a, mask, v &&& mask⟩] } := by
  have hn : (s.held.find? fun x => x.addr == a) = none := List.find?_eq_none.mpr fun x hx => by simpa using h x hx
  simp only [hold, hn]

theorem unhold_of_none {s : State} {a : Nat} (h : ∀ x ∈ s.held, x.addr ≠ a) (mask : Word) : s.unhold a mask = s := by
  unfold unhold
  extract_lets rest
  have hm : s.held.filterMap rest = s.held := by
    rw [List.filterMap_congr (g := some) fun x hx => if_pos (h x hx), List.filterMap_some]
  split
  · rfl
  · rw [hm]

/-- One write of a register that holds nothing and keeps nothing back. -/
theorem putReg_of_none {s : State} (who : Writer) {a : Nat} (r : RegSpec) (is : List Nat) (old v : Word)
    (h : ∀ x ∈ s.held, x.addr ≠ a) :
    s.putReg who a r is old v 0 = if s.refuses r is old v then
      (s.written a r is old v).cfgError who (cfgLive r.block) a else s.written a r is old v := by
  have hw : ∀ w : Word, w &&& ~~~(0#64) = w := fun w => by rw [BitVec.not_zero, BitVec.and_allOnes]
  have hh : ∀ w m, (s.setReg a w).hold a m v = { s.setReg a w with held := s.held ++ [⟨a, m, v &&& m⟩] } :=
    fun w m => hold_of_none (s := s.setReg a w) h m v
  have hu : ∀ w m, (s.setReg a w).unhold a m = s.setReg a w := fun w m => unhold_of_none (s := s.setReg a w) h m
  simp only [putReg, hw, hh, hu]
  rfl

theorem reg_written (s : State) (a b : Nat) (r : RegSpec) (is : List Nat) (old v : Word) :
    (s.written a r is old v).reg b = if b = a then s.wordTaken r is old v else s.reg b := by
  rw [← reg_setReg]
  unfold written
  split <;> rfl

theorem sameMemory_written (s : State) (a : Nat) (r : RegSpec) (is : List Nat) (old v : Word) :
    sameMemory s (s.written a r is old v) := by
  unfold written
  split <;> exact ⟨fun _ => ⟨rfl, rfl, rfl, rfl, rfl⟩, fun _ => rfl⟩

theorem held_written {s : State} {a : Nat} (r : RegSpec) (is : List Nat) (old v : Word) :
    (s.written a r is old v).held
      = s.held ++ if s.waits r is then [⟨a, r.accWord (· == .rwh), v &&& r.accWord (· == .rwh)⟩] else [] := by
  unfold written
  split <;> simp

section
variable {s : State} {r : RegSpec} {is : List Nat} {f : FieldSpec}

/-- A register with a held field waits where its held fields do. -/
theorem waits_of_held (h : r.fits) (hf : f ∈ r.fields) (ha : f.access = .rwh) : s.waits r is = s.heldWaits r is := by
  have hne : r.accWord (· == .rwh) ≠ 0 := fun h0 => by
    have := RegSpec.getLsbD_accWord_field h (· == .rwh) hf (h.1 f hf).1
    rw [h0, ha] at this
    simp at this
  rw [waits, bne_iff_ne.mpr hne, Bool.true_and]

theorem getLsbD_takenBits (h : r.fits) (hf : f ∈ r.fields) {i : Nat} (hi : i < f.width) :
    (s.takenBits r is).getLsbD (f.lo + i) = s.takes r is f.access := by
  have hm (p : Access → Bool) := RegSpec.getLsbD_accWord_field h p hf hi
  simp only [takenBits, BitVec.getLsbD_or, hm, apply_ite (BitVec.getLsbD · (f.lo + i))]
  cases ha : f.access
  case rwh => simp [takes, waits_of_held h hf ha]
  all_goals simp [takes, beq_eq_decide]

/-- A field takes what is written where its class does so at once. -/
theorem wordFld_wordTaken (h : r.fits) (hf : f ∈ r.fields) (old v : Word) (hc : f.access ≠ .w1c) :
    wordFld (s.wordTaken r is old v) f.pos = if s.takes r is f.access then wordFld v f.pos else wordFld old f.pos := by
  rw [← apply_ite (wordFld · f.pos)]
  refine (wordFld_eq_iff ..).mpr fun i hi => ?_
  have hlt : f.lo + i < 64 := by have := (h.1 f hf).2; omega
  simp only [wordTaken, maskPut, BitVec.getLsbD_and, BitVec.getLsbD_or, BitVec.getLsbD_not, hlt,
    getLsbD_takenBits h hf hi, RegSpec.getLsbD_accWord_field h _ hf hi]
  split <;> simp [*]

/-- A field whose bits clear where 1 is written. -/
theorem wordFld_wordTaken_clear (h : r.fits) (hf : f ∈ r.fields) (old v : Word) (hc : f.access = .w1c) :
    wordFld (s.wordTaken r is old v) f.pos = wordFld old f.pos - (wordFld old f.pos &&& wordFld v f.pos) := by
  rw [← wordFld_and_not _ _ _ (h.1 f hf).2]
  refine (wordFld_eq_iff ..).mpr fun i hi => ?_
  have hlt : f.lo + i < 64 := by have := (h.1 f hf).2; omega
  simp only [wordTaken, maskPut, BitVec.getLsbD_and, BitVec.getLsbD_or, BitVec.getLsbD_not, hlt,
    getLsbD_takenBits h hf hi, RegSpec.getLsbD_accWord_field h _ hf hi, hc]
  simp [takes]

end

/-- A whole register whose chapter adds nothing is written by its classes alone. -/
theorem regPut_of_plain {s : State} {who : Writer} {r : RegSpec} {is : List Nat} {a : Nat} {v : Word}
    (h : s.plainWrite who r is a v) : s.regPut who r is a v = s.putReg who a r is (s.reg a) v 0 := by
  obtain ⟨hscrub, hmgr, hisl, hunc, hhop, hkept, htaken, hafter, hcmds, hsec⟩ := h
  have hput : s.putWhole who r is a v = s.putReg who a r is (s.reg a) v 0 := by
    simp [putWhole, htaken, hscrub, hmgr, hisl, hunc, hhop, hkept, hafter]
  simp [regPut, hput, hsec, hcmds]

/-- A write of 32 bits at a register of four bytes. -/
theorem wordPut_of_regFind {s : State} (who : Writer) {a : Nat} {r : RegSpec} {is : List Nat} {v : Word}
    (hbuf : s.inBootBuf a = false) (hflash : s.inFlash a = false) (hfind : regFind a = some (r, is, 0)) (hr : r.bytes = 4)
    (hv : v.toNat < 2 ^ 32) : s.wordPut who a (v.setWidth 32) = s.regPut who r is a v := by
  have hback : (v.setWidth 32).setWidth 64 = v := by
    refine BitVec.eq_of_toNat_eq ?_
    simp only [BitVec.toNat_setWidth]
    omega
  simp [wordPut, hbuf, hflash, hfind, hr, hback]

theorem regPutAt_narrow (s : State) (who : Writer) (a : Nat) (v : Word) :
    s.regPutAt who a false v = s.wordPut who a (v.setWidth 32) := (rfl)

/-- What firmware, a core or the manager writes gets through at a block whose clock runs. -/
theorem regWrite_of_not_host {s : State} {who : Writer} (hwho : ∀ fn, who ≠ .host fn) {a : Nat} (ha : a % 4 = 0)
    (hgate : s.regGated a = false) (v : Word) : s.regWrite who a false v = s.wordPut who a (v.setWidth 32) := by
  cases who
  case host fn => exact absurd rfl (hwho fn)
  all_goals
    unfold regWrite
    simp only [ownPage, passes, regPutAt_narrow, hgate, ha, ne_eq, not_true, Bool.not_false, Bool.false_and,
      Bool.false_eq_true, if_false]

end State

theorem execRegisterWrite_of_not_host {s : State} {who : Writer} (hwho : ∀ fn, who ≠ .host fn) (addr : BitVec 48)
    (wide : Bool) (v : Word) : execRegisterWrite who addr wide v s = .next (s.regWrite who addr.toNat wide v) := by
  cases who
  case host fn => exact absurd rfl (hwho fn)
  all_goals rfl

/-- The records of configuration errors and the physical function's error ring have no static field. -/
theorem ne_of_static {a : Nat} {r : RegSpec} {is : List Nat} {b : Nat} (hfind : regFind a = some (r, is, b)) {f : FieldSpec}
    (hf : f ∈ r.fields) (hs : f.access = .rws) :
    a ≠ Reg.CFG_ERR ∧ a ≠ Reg.CFG_ERR_ADDR ∧ a ≠ Reg.HF_RING_PROD 0 2 ∧ a ≠ Reg.HF_ERR_LOST 0 := by
  have hnone : ∀ k ∈ [Reg.CFG_ERR, Reg.CFG_ERR_ADDR, Reg.HF_RING_PROD 0 2, Reg.HF_ERR_LOST 0],
      ∀ x ∈ regFind k, ∀ f ∈ x.1.fields, f.access ≠ .rws := by decide +kernel
  have hout : a ∉ [Reg.CFG_ERR, Reg.CFG_ERR_ADDR, Reg.HF_RING_PROD 0 2, Reg.HF_ERR_LOST 0] := fun hk =>
    hnone a hk _ hfind f hf hs
  simpa using hout

section
variable {s : State} {who : Writer} {a : Nat} {r : RegSpec} {is : List Nat} {v : Word}

theorem refuses_iff (h : r.fits) (old : Word) : s.refuses r is old v = true ↔
    ∃ f ∈ r.fields, f.access = .rws ∧ s.ownerRuns r is = true ∧ wordFld old f.pos ≠ wordFld v f.pos := by
  simp only [State.refuses, Bool.and_eq_true, bne_iff_ne, ne_eq, RegSpec.and_accWord_eq_iff h, beq_iff_eq]
  grind

/-- The error of a refused bit leaves the register itself as written. -/
theorem reg_putReg_of_none (hfind : regFind a = some (r, is, 0)) (h : ∀ x ∈ s.held, x.addr ≠ a) :
    (s.putReg who a r is (s.reg a) v 0).reg a = s.wordTaken r is (s.reg a) v := by
  have hfits := fits_of_mem_regTable (regFindIn_mem hfind)
  rw [State.putReg_of_none who r is _ v h]
  split
  · next hbad =>
    obtain ⟨f, hf, hs, -⟩ := (refuses_iff hfits _).mp hbad
    obtain ⟨he, ha, hp, hl⟩ := ne_of_static hfind hf hs
    rw [reg_cfgError_self _ _ _ he ha hp hl, State.reg_written, if_pos rfl]
  · rw [State.reg_written, if_pos rfl]

theorem held_putReg_of_none (h : ∀ x ∈ s.held, x.addr ≠ a) : (s.putReg who a r is (s.reg a) v 0).held = s.held
    ++ if s.waits r is then [⟨a, r.accWord (· == .rwh), v &&& r.accWord (· == .rwh)⟩] else [] := by
  rw [State.putReg_of_none who r is _ v h]
  split <;> simp [State.held_written]

/-- A read returns what was last written to a held field (R326). -/
theorem getReg_putReg_held (hfind : regFind a = some (r, is, 0)) (h : ∀ x ∈ s.held, x.addr ≠ a) {f : FieldSpec}
    (hf : f ∈ r.fields) (hc : f.access = .rwh) :
    wordFld ((s.putReg who a r is (s.reg a) v 0).getReg a) f.pos = wordFld v f.pos := by
  have hfits := fits_of_mem_regTable (regFindIn_mem hfind)
  have hn : (s.held.find? fun x => x.addr == a) = none := List.find?_eq_none.mpr fun x hx => by simpa using h x hx
  rw [State.getReg, held_putReg_of_none h, reg_putReg_of_none hfind h, List.find?_append, hn]
  by_cases hw : s.waits r is = true
  · simp only [hw, if_true, List.find?_singleton, beq_self_eq_true, Option.none_or]
    refine (wordFld_eq_iff ..).mpr fun i hi => ?_
    simp only [maskPut, BitVec.getLsbD_and, BitVec.getLsbD_or, BitVec.getLsbD_not,
      RegSpec.getLsbD_accWord_field hfits _ hf hi, hc]
    simp
  · simp only [hw]
    rw [State.waits_of_held hfits hf hc] at hw
    refine (State.wordFld_wordTaken hfits hf _ _ (by simp [hc])).trans ?_
    simp [State.takes, hc, hw]

end

/-- Settles O21, by the bits of each class's fields in the word that the write leaves. -/
theorem registerWriteFollowsAccessClasses : Obligations.RegisterWriteFollowsAccessClasses := by
  intro who addr v r is s hwho ha hbuf hflash hgate hfind hr hv hplain hheld
  have hmem := regFindIn_mem hfind
  have hfits := fits_of_mem_regTable hmem
  have hreg := reg_putReg_of_none (who := who) (v := v) hfind hheld
  have hblock : r.block < 32 := block_lt_of_mem_regTable hmem
  refine ⟨s.putReg who addr.toNat r is (s.reg addr.toNat) v 0, ?_, fun f hf => ?_, fun hsame => ?_, fun hbad hv he => ?_⟩
  · rw [← State.regPut_of_plain hplain, ← State.wordPut_of_regFind who hbuf hflash hfind hr hv,
      ← State.regWrite_of_not_host hwho ha hgate]
    exact execRegisterWrite_of_not_host hwho ..
  · simp only [State.fld, hreg]
    refine ⟨fun hc => ?_, fun hc => ?_, State.wordFld_wordTaken_clear hfits hf _ _, fun hc => ?_,
      fun hc => ⟨getReg_putReg_held hfind hheld hf hc, ?_⟩⟩
    · rw [State.wordFld_wordTaken hfits hf _ _ (by grind)]
      rcases hc with hc | hc <;> simp [State.takes, hc]
    · rw [State.wordFld_wordTaken hfits hf _ _ (by grind)]
      rcases hc with hc | hc <;> simp [State.takes, hc]
    · rw [State.wordFld_wordTaken hfits hf _ _ (by simp [hc])]
      cases h : s.ownerRuns r is <;> simp [State.takes, hc, h]
    · rw [State.wordFld_wordTaken hfits hf _ _ (by simp [hc])]
      cases h : s.heldWaits r is <;> simp [State.takes, hc, h]
  · have hok : ¬ s.refuses r is (s.reg addr.toNat) v = true := fun hbad => by
      obtain ⟨f, hf, hs, hruns, hne⟩ := (refuses_iff hfits _).mp hbad
      exact hne (hsame f hf hs hruns)
    rw [State.putReg_of_none who r is _ v hheld, if_neg hok]
    refine ⟨fun b hb => ?_, State.sameMemory_written ..⟩
    rw [State.reg_written, if_neg (by simpa using hb)]
  · rw [State.putReg_of_none who r is _ v hheld, if_pos ((refuses_iff hfits _).mpr hbad)]
    have hcode : cfgLive r.block < 2 ^ 16 := by unfold cfgLive; omega
    rw [Nat.mod_eq_of_lt hcode]
    refine cfgError_records _ who hcode addr.isLt ?_
    rw [← hv, State.flag, State.flag, State.fld, State.fld, State.reg_written, if_neg (Ne.symm he)]

end Sys2Proof.Machine
end

section
/-! PROOFS. The registers of a core at reset: every core's window resets alike (R11, R12). -/

namespace Sys2Proof.Machine

open Sys2Proof

/-- Bytes from the first register of nested families to the last. -/
def dimsSpan (ds : List (Nat × Nat)) : Nat := (ds.map fun d => d.1 * (d.2 - 1)).sum

theorem le_dimsSpan_of_dimIndex {ds : List (Nat × Nat)} {off b : Nat} {is : List Nat}
    (h : dimIndex ds off = some (is, b)) : off ≤ dimsSpan ds + b := by
  induction ds generalizing off is with
  | nil =>
    cases h
    exact Nat.le_add_left ..
  | cons d ds ih =>
    obtain ⟨stride, count⟩ := d
    simp only [dimIndex] at h
    split at h
    · next hlt =>
      split at h
      · next hrest =>
        cases h
        have hle := ih hrest
        have hdiv : stride * (off / stride) ≤ stride * (count - 1) := Nat.mul_le_mul_left _ (by omega)
        have hmod := Nat.div_add_mod off stride
        simp only [dimsSpan, List.map_cons, List.sum_cons] at hle ⊢
        omega
      · cases h
    · cases h

theorem any_dimIndex_of_past {ds : List (Nat × Nat)} {off n : Nat} (h : dimsSpan ds + n ≤ off) :
    (dimIndex ds off).any (fun x => decide (x.2 < n)) = false := by
  cases hx : dimIndex ds off with
  | none => rfl
  | some x =>
    have hle := le_dimsSpan_of_dimIndex hx
    simp only [Option.any_some, decide_eq_false_iff_not]
    omega

/-- A register family lies past the cores' windows, or inside each core's window of 64 KiB, where it resets alike. -/
def RegSpec.windowed (r : RegSpec) : Prop :=
  globalBase ≤ r.base ∨ r.name ≠ "HF_STAT" ∧ r.dims.head? = some (0x1_0000, nCores) ∧ ctrlBase ≤ r.base
    ∧ r.base + dimsSpan r.dims.tail + r.bytes ≤ ctrlBase + 0x1_0000

theorem windowed_of_mem_regTable {r : RegSpec} (h : r ∈ regTable) : r.windowed := by
  have hall : ∀ r ∈ regTable, globalBase ≤ r.base ∨ r.name ≠ "HF_STAT" ∧ r.dims.head? = some (0x1_0000, nCores)
      ∧ ctrlBase ≤ r.base ∧ r.base + dimsSpan r.dims.tail + r.bytes ≤ ctrlBase + 0x1_0000 := by decide +kernel
  exact hall r h

theorem globalBase_eq : globalBase = ctrlBase + 0x80_0000_0000 := (rfl)

theorem RegSpec.locate_of_lt {r : RegSpec} {a : Nat} (h : a < r.base) : r.locate a = none := by
  rw [RegSpec.locate, if_pos h]

/-- A family of the cores' windows is found in each of them by its offset there. -/
theorem RegSpec.isSome_locate_window {r : RegSpec} (hr : r.dims.head? = some (0x1_0000, nCores)) {c off : Nat}
    (hc : c < nCores) (ho : off < 0x1_0000) :
    (r.locate (r.base + c * 0x1_0000 + off)).isSome = (dimIndex r.dims.tail off).any fun x => decide (x.2 < r.bytes) := by
  have hdiv : (r.base + c * 0x1_0000 + off - r.base) / 0x1_0000 = c := by omega
  have hmod : (r.base + c * 0x1_0000 + off - r.base) % 0x1_0000 = off := by omega
  rw [RegSpec.locate, List.eq_cons_of_mem_head? hr, if_neg (by omega), dimIndex, hdiv, hmod, if_pos hc, List.tail_cons]
  cases dimIndex r.dims.tail off with
  | none => rfl
  | some x => by_cases hb : x.2 < r.bytes <;> simp [hb]

theorem RegSpec.locate_of_past {r : RegSpec} (hr : r.windowed) {a : Nat} (h : r.base + dimsSpan r.dims.tail + r.bytes ≤ a)
    (ha : a < ctrlBase + 0x1_0000) : r.locate a = none := by
  have hg := globalBase_eq
  obtain hbase | ⟨-, hdims, hbase, -⟩ := hr
  · exact locate_of_lt (by omega)
  · have hloc := isSome_locate_window hdims (c := 0) (off := a - r.base) (by decide) (by omega)
    rw [any_dimIndex_of_past (by omega), show r.base + 0 * 0x1_0000 + (a - r.base) = a by omega] at hloc
    simpa using hloc

/-- At an offset of core `c`'s window a family is found where it is found at that offset of core 0's. -/
theorem RegSpec.isSome_locate_core {r : RegSpec} (hr : r.windowed) {a c : Nat} (ha : ctrlBase ≤ a)
    (ha' : a < ctrlBase + 0x1_0000) (hc : c < nCores) :
    (r.locate (a + c * 0x1_0000)).isSome = (r.locate a).isSome := by
  have hn : nCores = 2304 := rfl
  have hg := globalBase_eq
  obtain hbase | ⟨-, hdims, hbase, hspan⟩ := hr
  · rw [locate_of_lt (by omega), locate_of_lt (by omega)]
  by_cases hlt : a < r.base
  · rw [locate_of_lt hlt]
    cases c with
    | zero => rw [Nat.zero_mul, Nat.add_zero, locate_of_lt hlt]
    | succ c =>
      have heq : a + (c + 1) * 0x1_0000 = r.base + c * 0x1_0000 + (0x1_0000 + a - r.base) := by omega
      rw [heq, isSome_locate_window hdims (by omega) (by omega), any_dimIndex_of_past (by omega)]
      rfl
  · have heq (k : Nat) : a + k * 0x1_0000 = r.base + k * 0x1_0000 + (a - r.base) := by omega
    have hzero := isSome_locate_window hdims (c := 0) (off := a - r.base) (by omega) (by omega)
    rw [← heq, Nat.zero_mul, Nat.add_zero] at hzero
    rw [heq, isSome_locate_window hdims hc (by omega), hzero]

/-- The reset value of the first family that an address is found in. -/
def resetIn (rs : List RegSpec) (a : Nat) : Option Word := (regFindIn rs a).map fun x => x.1.resetWord x.2.1

theorem regReset_eq_resetIn (a : Nat) : regReset a = (resetIn regTable a).getD 0 := by
  unfold regReset resetIn regFind
  cases regFindIn regTable a <;> rfl

theorem resetIn_cons (r : RegSpec) (rs : List RegSpec) (a : Nat) :
    resetIn (r :: rs) a = ((r.locate a).map fun x => r.resetWord x.1).or (resetIn rs a) := by
  unfold resetIn
  rw [regFindIn]
  cases r.locate a <;> rfl

theorem RegSpec.resetWord_eq {r : RegSpec} (h : r.name ≠ "HF_STAT") (is js : List Nat) : r.resetWord is = r.resetWord js := by
  rw [RegSpec.resetWord, RegSpec.resetWord, if_neg h, if_neg h]

theorem RegSpec.resetWord_locate_core {r : RegSpec} (hr : r.windowed) {a c : Nat} (ha : ctrlBase ≤ a)
    (ha' : a < ctrlBase + 0x1_0000) (hc : c < nCores) :
    ((r.locate (a + c * 0x1_0000)).map fun x => r.resetWord x.1) = (r.locate a).map fun x => r.resetWord x.1 := by
  have hsome := isSome_locate_core hr ha ha' hc
  cases h : r.locate a with
  | none => simpa [h] using hsome
  | some x =>
    have hname : r.name ≠ "HF_STAT" := by
      obtain hbase | ⟨hname, -⟩ := hr
      · have hg := globalBase_eq
        rw [locate_of_lt (by omega)] at h
        cases h
      · exact hname
    obtain ⟨y, hy⟩ := Option.isSome_iff_exists.mp (hsome.trans (by rw [h]; rfl))
    rw [hy, Option.map_some, Option.map_some, resetWord_eq hname]

theorem resetIn_core {rs : List RegSpec} (hrs : ∀ r ∈ rs, r.windowed) {a c : Nat} (ha : ctrlBase ≤ a)
    (ha' : a < ctrlBase + 0x1_0000) (hc : c < nCores) : resetIn rs (a + c * 0x1_0000) = resetIn rs a := by
  induction rs with
  | nil => rfl
  | cons r rs ih =>
    rw [resetIn_cons, resetIn_cons, RegSpec.resetWord_locate_core (hrs r List.mem_cons_self) ha ha' hc,
      ih fun x hx => hrs x (List.mem_cons_of_mem _ hx)]

/-- Every core's register resets as core 0's at the same offset does. -/
theorem regReset_core {a c : Nat} (ha : ctrlBase ≤ a) (ha' : a < ctrlBase + 0x1_0000) (hc : c < nCores) :
    regReset (a + c * 0x1_0000) = regReset a := by
  rw [regReset_eq_resetIn, regReset_eq_resetIn, resetIn_core (fun _ => windowed_of_mem_regTable) ha ha' hc]

theorem resetIn_eq_some {rs : List RegSpec} {a : Nat} {v : Word} (hsome : ∃ r ∈ rs, (r.locate a).isSome = true)
    (hall : ∀ r ∈ rs, (r.locate a).isSome = true → ∀ is, r.resetWord is = v) : resetIn rs a = some v := by
  induction rs with
  | nil => simp at hsome
  | cons r rs ih =>
    rw [resetIn_cons]
    cases h : r.locate a with
    | some x => simp [hall r List.mem_cons_self (by rw [h]; rfl) x.1]
    | none =>
      refine ih ?_ fun x hx => hall x (List.mem_cons_of_mem _ hx)
      simpa [h] using hsome

/-- A word of MR_NEXT names no next hop at reset (R215): no other family lies between its first word and its last. -/
theorem regReset_mrNext (i : Fin 320) : regReset (Reg.MR_NEXT 0 i.val) = 0xFFFF_FFFF := by
  have hfound : ∃ r ∈ regTable, r.dims = [(0x1_0000, nCores), (4, 320)] ∧ r.base = Reg.MR_NEXT 0 0 ∧ r.bytes = 4 := by
    decide +kernel
  have hall : ∀ r ∈ regTable, Reg.MR_NEXT 0 320 ≤ r.base ∨ r.base + dimsSpan r.dims.tail + r.bytes ≤ Reg.MR_NEXT 0 0
      ∨ r.name ≠ "HF_STAT" ∧ r.resetWord [] = 0xFFFF_FFFF := by decide +kernel
  have hlo : Reg.MR_NEXT 0 i.val = Reg.MR_NEXT 0 0 + 4 * i.val := by unfold Reg.MR_NEXT; omega
  have hhi : Reg.MR_NEXT 0 320 = Reg.MR_NEXT 0 0 + 1280 := rfl
  have hbase : Reg.MR_NEXT 0 0 = ctrlBase + 0x3A00 := rfl
  rw [regReset_eq_resetIn, resetIn_eq_some (v := 0xFFFF_FFFF), Option.getD_some]
  · obtain ⟨r, hmem, hdims, hb, hbytes⟩ := hfound
    have hloc := RegSpec.isSome_locate_window (r := r) (c := 0) (off := 4 * i.val) (by rw [hdims]; rfl) (by decide) (by omega)
    rw [Nat.zero_mul, Nat.add_zero, hb, ← hlo] at hloc
    refine ⟨r, hmem, hloc.trans ?_⟩
    simp [hdims, hbytes, dimIndex]
  · intro r hmem hloc is
    obtain habove | hbelow | ⟨hname, hword⟩ := hall r hmem
    · rw [RegSpec.locate_of_lt (by omega)] at hloc
      cases hloc
    · rw [hlo, RegSpec.locate_of_past (windowed_of_mem_regTable hmem) (by omega) (by omega)] at hloc
      cases hloc
    · rw [RegSpec.resetWord_eq hname, hword]

theorem regReset_strmStat (t : Strm) : regReset (Reg.STRM_STAT 0 (sidx t)) = 0 := by cases t <;> decide +kernel

theorem reg_reset_of_ne {a : Nat} (h : a ≠ Reg.RST_STAT) : State.reset.reg a = regReset a := by
  have hnone : mfind State.reset.regs a = none := by simp [State.reset, mfind, h]
  rw [State.reg, hnone]

theorem reg_reset_core {a : Nat} (ha : ctrlBase ≤ a) (ha' : a < ctrlBase + 0x1_0000) (c : CoreId) :
    State.reset.reg (a + c.val * 0x1_0000) = regReset a := by
  have hc : c.val < nCores := c.isLt
  have hn : nCores = 2304 := rfl
  have hr : Reg.RST_STAT = ctrlBase + 0x80_0720_0000 := rfl
  rw [reg_reset_of_ne (by omega), regReset_core ha ha' hc]

theorem mrNext_eq (c i : Nat) : Reg.MR_NEXT c i = Reg.MR_NEXT 0 i + c * 0x1_0000 := by
  unfold Reg.MR_NEXT
  omega

theorem strmStat_eq (c i : Nat) : Reg.STRM_STAT c i = Reg.STRM_STAT 0 i + c * 0x1_0000 := by
  unfold Reg.STRM_STAT
  omega

theorem reset_strmStat (c : CoreId) (t : Strm) : State.reset.reg (Reg.STRM_STAT c.val (sidx t)) = 0 := by
  rw [strmStat_eq, reg_reset_core, regReset_strmStat]
  all_goals cases t <;> decide

theorem reset_arrayCfg (c : CoreId) : State.reset.reg (Reg.ARRAY_CFG c.val) = regReset (Reg.ARRAY_CFG 0) :=
  reg_reset_core (a := Reg.ARRAY_CFG 0) (by decide) (by decide) c

theorem reset_spCfg (c : CoreId) : State.reset.reg (Reg.SP_CFG c.val) = regReset (Reg.SP_CFG 0) :=
  reg_reset_core (a := Reg.SP_CFG 0) (by decide) (by decide) c

theorem reset_mrNext (c : CoreId) (i : Fin 320) : State.reset.reg (Reg.MR_NEXT c.val i.val) = 0xFFFF_FFFF := by
  have hlo : ctrlBase ≤ Reg.MR_NEXT 0 i.val := by unfold ctrlBase Reg.MR_NEXT; omega
  have hhi : Reg.MR_NEXT 0 i.val < ctrlBase + 0x1_0000 := by unfold ctrlBase Reg.MR_NEXT; omega
  rw [mrNext_eq, reg_reset_core hlo hhi, regReset_mrNext]

theorem reset_rings : ∀ (fn : Fn) (r : Fin 3),
    ringSize State.reset fn.val r.val = 16 ∧ ringEn State.reset fn.val r.val = false := by decide +kernel

theorem reset_dieOpp : ∀ q : Die, State.reset.fld (Reg.DIE_OPP q.val) Fld.DIE_OPP_CAP = 7 := by decide +kernel

theorem reset_queue (c q : Nat) : State.reset.queue c q = [] := (rfl)

/-- Settles O55: every core's registers reset as core 0's, and the device's others are few. -/
theorem resetLeavesTheStatedValues : Obligations.ResetLeavesTheStatedValues := by
  refine ⟨rfl, rfl, rfl, ⟨rfl, rfl, rfl, rfl, rfl, rfl⟩, ⟨rfl, rfl⟩,
    fun c => ⟨fun t => ?_, reset_queue c.val, ?_, ?_, fun i => ?_⟩, reset_rings, ?_, ?_, reset_dieOpp⟩
  · rw [State.strmState, State.strmIndex, State.fld, State.fld, reset_strmStat]
    exact ⟨rfl, rfl⟩
  · rw [State.fld, reset_arrayCfg]
    decide +kernel
  · rw [State.fld, reset_spCfg]
    decide +kernel
  · rw [reset_mrNext]
    rfl
  · decide +kernel
  · decide +kernel

end Sys2Proof.Machine
end

section
/-! PROOFS. Fields of registers cleared, and the counter clears (R74, R95, R120, R182, R215, R234, R254, R282, R301, R314,
R354). -/

namespace Sys2Proof.Machine

open Sys2Proof

theorem wordFld_congr {w w' : Word} {g : FieldPos} (h : ∀ i < g.width, w.getLsbD (g.lo + i) = w'.getLsbD (g.lo + i)) :
    wordFld w g = wordFld w' g :=
  (wordFld_eq_iff w w' ⟨g.lo, g.width, .ro, 0⟩).mpr h

@[simp] theorem wordFld_zero (g : FieldPos) : wordFld 0 g = 0 := by simp [wordFld]

theorem wordFld_eq_zero_iff (w : Word) (g : FieldPos) :
    wordFld w g = 0 ↔ ∀ i < g.width, w.getLsbD (g.lo + i) = false := by
  rw [← wordFld_zero g]
  exact (wordFld_eq_iff w 0 ⟨g.lo, g.width, .ro, 0⟩).trans (by simp)

/-- A field set to 0 has no bit, and every bit outside it stays. -/
theorem getLsbD_wordSet_zero (w : Word) (f : FieldPos) (i : Nat) :
    (wordSet w f 0).getLsbD i = (w.getLsbD i && (decide (i < f.lo) || decide (f.lo + f.width ≤ i))) := by
  have hlt : w.toNat % 2 ^ f.lo < 2 ^ (f.lo + f.width) :=
    (Nat.mod_lt _ (by positivity)).trans_le (Nat.pow_le_pow_right (by decide) (Nat.le_add_right ..))
  rw [wordSet, BitVec.getLsbD_ofNat, Nat.zero_mod, Nat.zero_mul, Nat.add_zero, Nat.mul_comm,
    Nat.testBit_two_pow_mul_add _ hlt, ← BitVec.testBit_toNat]
  by_cases h64 : i < 64
  · by_cases hi : i < f.lo + f.width
    · simp [h64, hi, Nat.testBit_mod_two_pow, Bool.and_comm, show ¬ f.lo + f.width ≤ i by omega]
    · simp [h64, hi, Nat.testBit_div_two_pow, Nat.sub_add_cancel (Nat.le_of_not_lt hi), Nat.le_of_not_lt hi]
  · have hw : w.getLsbD i = false := BitVec.getLsbD_of_ge _ _ (by omega)
    simp [h64, BitVec.testBit_toNat, hw]

theorem wordFld_wordSet_zero_self (w : Word) (f : FieldPos) : wordFld (wordSet w f 0) f = 0 := by
  rw [wordFld_eq_zero_iff]
  intro i hi
  simp [getLsbD_wordSet_zero, hi]

theorem wordFld_wordSet_zero_of_eq_zero {w : Word} {g : FieldPos} (h : wordFld w g = 0) (f : FieldPos) :
    wordFld (wordSet w f 0) g = 0 := by
  rw [wordFld_eq_zero_iff] at h ⊢
  intro i hi
  simp [getLsbD_wordSet_zero, h i hi]

theorem wordFld_wordSet_zero_apart (w : Word) {f g : FieldPos} (h : g.lo + g.width ≤ f.lo ∨ f.lo + f.width ≤ g.lo) :
    wordFld (wordSet w f 0) g = wordFld w g := by
  refine wordFld_congr fun i hi => ?_
  have hout : g.lo + i < f.lo ∨ f.lo + f.width ≤ g.lo + i := by omega
  simp [getLsbD_wordSet_zero, hout]

/-! `clearFlds` zeroes the fields it lists and nothing else. -/

theorem onlyRegs_clearFlds (s : State) (xs : List (Nat × FieldPos)) :
    s.clearFlds xs = { s with regs := (s.clearFlds xs).regs } := by
  induction xs generalizing s with
  | nil => rfl
  | cons x xs ih => exact ih (s.setFld x.1 x.2 0)

theorem fld_clearFlds_of_eq_zero {s : State} {a : Nat} {g : FieldPos} (h : s.fld a g = 0) (xs : List (Nat × FieldPos)) :
    (s.clearFlds xs).fld a g = 0 := by
  induction xs generalizing s with
  | nil => exact h
  | cons x xs ih =>
    refine ih (s := s.setFld x.1 x.2 0) ?_
    rw [State.fld, reg_setFld]
    split
    · next heq => exact wordFld_wordSet_zero_of_eq_zero (heq ▸ h) _
    · exact h

theorem fld_clearFlds_of_mem {s : State} {xs : List (Nat × FieldPos)} {x : Nat × FieldPos} (h : x ∈ xs) :
    (s.clearFlds xs).fld x.1 x.2 = 0 := by
  induction xs generalizing s with
  | nil => cases h
  | cons y xs ih =>
    cases h with
    | head =>
      refine fld_clearFlds_of_eq_zero (s := s.setFld x.1 x.2 0) ?_ xs
      rw [State.fld, reg_setFld, if_pos rfl, wordFld_wordSet_zero_self]
    | tail _ h => exact ih (s := s.setFld y.1 y.2 0) h

theorem fld_clearFlds_apart (s : State) {xs : List (Nat × FieldPos)} {a : Nat} {g : FieldPos}
    (h : ∀ x ∈ xs, x.1 = a → g.lo + g.width ≤ x.2.lo ∨ x.2.lo + x.2.width ≤ g.lo) :
    (s.clearFlds xs).fld a g = s.fld a g := by
  induction xs generalizing s with
  | nil => rfl
  | cons x xs ih =>
    refine (ih (s.setFld x.1 x.2 0) fun y hy => h y (List.mem_cons_of_mem _ hy)).trans ?_
    rw [State.fld, reg_setFld]
    split
    · next heq => rw [wordFld_wordSet_zero_apart _ (h x List.mem_cons_self heq.symm), ← heq]; rfl
    · rfl

theorem cleared_clearFlds (s : State) (xs : List (Nat × FieldPos)) : cleared s (s.clearFlds xs) xs :=
  ⟨onlyRegs_clearFlds s xs, fun _ => fld_clearFlds_of_mem, fun _ _ => fld_clearFlds_apart s⟩

theorem reg_clearFlds_of_ne (s : State) {xs : List (Nat × FieldPos)} {a : Nat} (h : ∀ x ∈ xs, x.1 ≠ a) :
    (s.clearFlds xs).reg a = s.reg a := by
  induction xs generalizing s with
  | nil => rfl
  | cons x xs ih =>
    refine (ih (s.setFld x.1 x.2 0) fun y hy => h y (List.mem_cons_of_mem _ hy)).trans ?_
    exact reg_setFld_ne s _ _ (h x List.mem_cons_self).symm

theorem clearFlds_append (s : State) (xs ys : List (Nat × FieldPos)) :
    s.clearFlds (xs ++ ys) = (s.clearFlds xs).clearFlds ys := List.foldl_append ..

theorem clearFlds_nil (s : State) : s.clearFlds [] = s := (rfl)

/-- A register whose whole word is cleared holds 0. -/
theorem clearFlds_whole (s : State) (a : Nat) (xs : List (Nat × FieldPos)) :
    s.clearFlds ((a, ⟨0, 64⟩) :: xs) = (s.setReg a 0).clearFlds xs := by
  have hzero : wordSet (s.reg a) ⟨0, 64⟩ 0 = 0 := by
    refine BitVec.eq_of_getLsbD_eq fun i hi => ?_
    rw [getLsbD_wordSet_zero]
    simp [Nat.not_le.mpr hi]
  rw [← hzero]
  rfl

/-! Registers of blocks that are clocked are not gated (R339, R340). -/

/-- A register in a core's window is gated by the core's island alone. -/
theorem regGated_core {s : State} {c : CoreId} (h : s.islEnabled (coreIsland c.val) = true) {off : Nat}
    (ho : off < 0x1_0000) : s.regGated (ctrlBase + off + c.val * 0x1_0000) = false := by
  have hc : c.val < nCores := c.isLt
  have hwin : inWindows (ctrlBase + off + c.val * 0x1_0000) = true := by
    simp only [inWindows, Bool.and_eq_true, decide_eq_true_eq]
    omega
  have hcore : windowCore (ctrlBase + off + c.val * 0x1_0000) = c.val := by unfold windowCore; omega
  simp [State.regGated, hwin, hcore, h]

/-- A register past the cores' windows is gated by the controller, reach port or port group whose block holds it. -/
theorem regGated_of_clocked {s : State} {a : Nat} (ha : globalBase ≤ a)
    (hnear : 0x380_0100_0000 ≤ a → a < 0x380_0180_0000 → s.uncEnabled (8 + (a - 0x380_0100_0000) / 0x10_0000) = true)
    (hreach : 0x380_0200_0000 ≤ a → a < 0x380_0240_0000 → s.uncEnabled (16 + (a - 0x380_0200_0000) / 0x10_0000) = true)
    (hnirlo : 0x380_0300_0000 ≤ a → a < 0x380_0380_0000 → s.uncEnabled (20 + (a - 0x380_0300_0000) / 0x10_0000) = true) :
    s.regGated a = false := by
  have hwin : inWindows a = false := by
    have hg : globalBase = ctrlBase + 0x80_0000_0000 := rfl
    have hn : nCores = 2304 := rfl
    simp only [inWindows, Bool.and_eq_false_iff, decide_eq_false_iff_not]
    omega
  simp only [State.regGated, hwin, Bool.false_eq_true, if_false, Bool.or_eq_false_iff, Bool.and_eq_false_iff,
    decide_eq_false_iff_not, Bool.not_eq_eq_eq_not, Bool.not_false]
  refine ⟨⟨?_, ?_⟩, ?_⟩
  · by_cases h : 0x380_0100_0000 ≤ a ∧ a < 0x380_0180_0000
    · exact .inl (.inr (hnear h.1 h.2))
    · omega
  · by_cases h : 0x380_0200_0000 ≤ a ∧ a < 0x380_0240_0000
    · exact .inr (hreach h.1 h.2)
    · omega
  · by_cases h : 0x380_0300_0000 ≤ a ∧ a < 0x380_0380_0000
    · exact .inr (hnirlo h.1 h.2)
    · omega

/-- A register of near-memory controller `n`. -/
theorem regGated_near {s : State} {n off : Nat} (hn : n < 8) (ho : off < 0x10_0000) (he : s.uncEnabled (8 + n) = true) :
    s.regGated (0x380_0100_0000 + off + n * 0x10_0000) = false := by
  refine regGated_of_clocked (by unfold globalBase; omega) (fun _ _ => ?_) (fun _ _ => by omega) fun _ _ => by omega
  rwa [show (0x380_0100_0000 + off + n * 0x10_0000 - 0x380_0100_0000) / 0x10_0000 = n by omega]

/-- A register of reach port `n`. -/
theorem regGated_reach {s : State} {n off : Nat} (hn : n < 4) (ho : off < 0x10_0000) (he : s.uncEnabled (16 + n) = true) :
    s.regGated (0x380_0200_0000 + off + n * 0x10_0000) = false := by
  refine regGated_of_clocked (by unfold globalBase; omega) (fun _ _ => by omega) (fun _ _ => ?_) fun _ _ => by omega
  rwa [show (0x380_0200_0000 + off + n * 0x10_0000 - 0x380_0200_0000) / 0x10_0000 = n by omega]

/-- A register of Nirlo port group `n`. -/
theorem regGated_nirlo {s : State} {n off : Nat} (hn : n < 8) (ho : off < 0x10_0000) (he : s.uncEnabled (20 + n) = true) :
    s.regGated (0x380_0300_0000 + off + n * 0x10_0000) = false := by
  refine regGated_of_clocked (by unfold globalBase; omega) (fun _ _ => by omega) (fun _ _ => by omega) fun _ _ => ?_
  rwa [show (0x380_0300_0000 + off + n * 0x10_0000 - 0x380_0300_0000) / 0x10_0000 = n by omega]

/-! The commands. -/

theorem exists_cleared_of_ungated {i : Instr} {s : State} {a : Nat} {xs : List (Nat × FieldPos)}
    (hg : s.regGated a = false) (he : exec i s = .next (s.ungated a fun s => s.clearFlds xs)) :
    ∃ t, exec i s = .next t ∧ cleared s t xs := by
  refine ⟨_, he, ?_⟩
  rw [State.ungated, hg]
  exact cleared_clearFlds s xs

theorem execNfCntClr_eq (c : CoreId) (s : State) : execNfCntClr c s
    = .next (s.ungated (Reg.NF_CTL c.val) fun s => s.clearFlds (nfCounters c.val ++ [(Reg.NF_FIRST c.val, ⟨0, 64⟩)])) := by
  simp only [clearFlds_append, clearFlds_whole, clearFlds_nil]
  rfl

theorem execXchCntClr_eq (g : Group) (s : State) : execXchCntClr g s
    = .next (s.ungated (Reg.XCH_CTL g.val) fun s =>
        s.clearFlds [(Reg.XCH_CNT0 g.val, ⟨0, 64⟩), (Reg.XCH_CNT1 g.val, ⟨0, 64⟩), (Reg.XCH_CHK g.val, ⟨0, 64⟩)]) := by
  simp only [clearFlds_whole, clearFlds_nil]
  rfl

/-- The counters that PWR_CTL clears (R354). -/
def pwrCounters : List (Nat × FieldPos) :=
  [(Reg.PWR_THROT, Fld.PWR_THROT_THERMAL), (Reg.PWR_THROT, Fld.PWR_THROT_LIMIT), (Reg.THERM_MAX, Fld.THERM_MAX_PEAK_C)]

/-- A state without the record that a trip left from before the start (R354). -/
def State.dropPwrCopy (s : State) : State :=
  { s.setReg Reg.PWR_ERR 0 with boot := { s.boot with pwrCopy := false } }

theorem exec_pwrCntClr (s : State) :
    exec .pwrCntClr s = .next ((if s.boot.pwrCopy then s.dropPwrCopy else s).clearFlds pwrCounters) := (rfl)

theorem sameMemory_clearFlds (s : State) (xs : List (Nat × FieldPos)) : sameMemory s (s.clearFlds xs) := by
  rw [onlyRegs_clearFlds]
  exact ⟨fun _ => ⟨rfl, rfl, rfl, rfl, rfl⟩, fun _ => rfl⟩

/-- PWR_CTL's CNT_CLR drops a record that a trip left from before the start. -/
theorem pwrCntClr_drops {s : State} (h : s.boot.pwrCopy = true) :
    ∃ t, exec .pwrCntClr s = .next t ∧ (t.reg Reg.PWR_ERR).toNat = 0 ∧ t.boot.pwrCopy = false
      ∧ t.fld Reg.PWR_THROT Fld.PWR_THROT_THERMAL = 0 ∧ t.fld Reg.PWR_THROT Fld.PWR_THROT_LIMIT = 0
      ∧ t.fld Reg.THERM_MAX Fld.THERM_MAX_PEAK_C = 0
      ∧ framed s t [Reg.PWR_ERR, Reg.PWR_THROT, Reg.THERM_MAX] := by
  refine ⟨_, exec_pwrCntClr s, ?_⟩
  rw [if_pos h]
  have hdrop (a : Nat) : s.dropPwrCopy.reg a = if a = Reg.PWR_ERR then 0 else s.reg a := reg_setReg ..
  have hout {a : Nat} (ha : a ≠ Reg.PWR_THROT ∧ a ≠ Reg.THERM_MAX) :
      (s.dropPwrCopy.clearFlds pwrCounters).reg a = s.dropPwrCopy.reg a := by
    refine reg_clearFlds_of_ne _ ?_
    simp [pwrCounters, ha.1.symm, ha.2.symm]
  have hzero (x : Nat × FieldPos) (hx : x ∈ pwrCounters) := fld_clearFlds_of_mem (s := s.dropPwrCopy) hx
  refine ⟨?_, ?_, hzero (_, _) ?_, hzero (_, _) ?_, hzero (_, _) ?_, fun a ha => ?_, sameMemory_clearFlds s.dropPwrCopy _⟩
  · rw [hout (by decide), hdrop, if_pos rfl]
    rfl
  · rw [onlyRegs_clearFlds]
    rfl
  · exact .head _
  · exact .tail _ (.head _)
  · exact .tail _ (.tail _ (.head _))
  · simp only [List.mem_cons, List.not_mem_nil, or_false, not_or] at ha
    rw [hout ha.2, hdrop, if_neg ha.1]

/-- Settles O20: each command clears a list of fields, and its register is not gated. -/
theorem countersClear : Obligations.CountersClear := by
  refine ⟨fun c s h => ?_, fun s => ⟨fun h he => ?_, fun n he => ?_, fun p he => ?_, fun g he => ?_, fun g he => ?_,
    fun h => ?_, pwrCntClr_drops⟩⟩
  · have hg (off : Nat) (ho : off < 0x1_0000) := regGated_core h ho
    exact ⟨exists_cleared_of_ungated (hg 0x302C (by decide)) rfl,
      exists_cleared_of_ungated (hg 0x3110 (by decide)) (execNfCntClr_eq c s),
      exists_cleared_of_ungated (hg 0x3238 (by decide)) rfl,
      exists_cleared_of_ungated (hg 0x332C (by decide)) rfl,
      exists_cleared_of_ungated (hg 0x3904 (by decide)) rfl,
      exists_cleared_of_ungated (hg 0x3128 (by decide)) rfl,
      exists_cleared_of_ungated (hg 0x48A0 (by decide)) rfl⟩
  · exact exists_cleared_of_ungated (regGated_near (off := 0x1C) h.isLt (by decide) he) rfl
  · exact exists_cleared_of_ungated (regGated_reach (off := 0x18) n.isLt (by decide) he) rfl
  · have hg := regGated_nirlo (off := 0x30 + p.val % 4 * 0x1000) (by omega) (by omega) he
    refine exists_cleared_of_ungated (a := Reg.NRL_CTL (p.val / 4) (p.val % 4)) ?_ rfl
    rw [← hg]
    congr 1
    unfold Reg.NRL_CTL
    omega
  · exact exists_cleared_of_ungated (regGated_nirlo (off := 0x8020) g.isLt (by decide) he) rfl
  · exact exists_cleared_of_ungated (regGated_nirlo (off := 0x8040) g.isLt (by decide) he) (execXchCntClr_eq g s)
  · refine ⟨_, exec_pwrCntClr s, ?_⟩
    rw [if_neg (by simp [h])]
    exact cleared_clearFlds s pwrCounters

end Sys2Proof.Machine
end

section
/-! PROOFS. What a unit's end, a read's data and a write's acknowledgement leave behind (R58, R73, R121, R124, R176). -/

namespace Sys2Proof.Machine

open Sys2Proof

/-! Frames. -/

theorem sameMemory_refl (s : State) : sameMemory s s := ⟨fun _ => ⟨rfl, rfl, rfl, rfl, rfl⟩, fun _ => rfl⟩

theorem onlyRegs_refl (s : State) (as : List Nat) : onlyRegs s s as := ⟨rfl, fun _ _ => rfl⟩

theorem onlyRegs_setReg {s t : State} {as : List Nat} (h : onlyRegs s t as) {a : Nat} (ha : a ∈ as) (v : Word) :
    onlyRegs s (t.setReg a v) as := by
  obtain ⟨ht, hregs⟩ := h
  refine ⟨?_, fun b hb => ?_⟩
  · rw [ht]
    rfl
  · rw [reg_setReg_ne _ _ (ne_of_mem_of_not_mem ha hb).symm, hregs b hb]

theorem onlyRegs_setFld {s t : State} {as : List Nat} (h : onlyRegs s t as) {a : Nat} (ha : a ∈ as) (f : FieldPos) (v : Nat) :
    onlyRegs s (t.setFld a f v) as := onlyRegs_setReg h ha _

theorem onlyRegs_bump {s t : State} {as : List Nat} (h : onlyRegs s t as) {a : Nat} (ha : a ∈ as) (f : FieldPos) (n : Nat) :
    onlyRegs s (t.bump a f n) as := onlyRegs_setReg h ha _

theorem core_of_onlyRegs {s t : State} {as : List Nat} (h : onlyRegs s t as) (c : Nat) : t.core c = s.core c := by
  rw [h.1]
  rfl

theorem framed_of_onlyRegs {s t : State} {as : List Nat} (h : onlyRegs s t as) : framed s t as := by
  refine ⟨h.2, ?_⟩
  rw [h.1]
  exact sameMemory_refl s

theorem framed_modCore_left (s t : State) (c : Nat) (f : Core → Core) (as : List Nat) :
    framed (s.modCore c f) t as ↔ framed s t as := Iff.rfl

/-! Units. -/

theorem framed_setUnit_left (s t : State) (c u : Nat) (x : UnitState) (as : List Nat) :
    framed (s.setUnit c u x) t as ↔ framed s t as := Iff.rfl

theorem unit_of_units_nil {s : State} {c : Nat} (h : (s.core c).units = []) (u : Nat) : s.unit c u = ⟨none, none⟩ := by
  rw [State.unit, h, mget_nil]

theorem core_setUnit_ne (s : State) {c k : Nat} (u : Nat) (x : UnitState) (h : k ≠ c) : (s.setUnit c u x).core k = s.core k :=
  core_modCore_ne s _ h

theorem queues_setUnit (s : State) (c u : Nat) (x : UnitState) :
    ((s.setUnit c u x).core c).queues = (s.core c).queues := by
  rw [State.setUnit, core_modCore_self]

theorem acc_setUnit (s : State) (c u : Nat) (x : UnitState) : ((s.setUnit c u x).core c).acc = (s.core c).acc := by
  rw [State.setUnit, core_modCore_self]

theorem still_congr {s t : State} {c : Nat} (hcore : t.core c = s.core c)
    (hbusy : t.flag (Reg.ARRAY_STAT c) Fld.ARRAY_STAT_BUSY = s.flag (Reg.ARRAY_STAT c) Fld.ARRAY_STAT_BUSY)
    (hcb : t.reg (Reg.CB_CFG c) = s.reg (Reg.CB_CFG c)) : t.coreStill c = s.coreStill c := by
  have hcbFlag : t.flag (Reg.CB_CFG c) Fld.CB_CFG_EN = s.flag (Reg.CB_CFG c) Fld.CB_CFG_EN := by
    simp only [State.flag, State.fld, hcb]
  simp only [State.coreStill, State.coreCalm, hcore, hbusy, hcbFlag]

theorem cbCfg_ne_arrayStat (c : Nat) : Reg.CB_CFG c ≠ Reg.ARRAY_STAT c := by
  unfold Reg.CB_CFG Reg.ARRAY_STAT
  omega

theorem busy_setBusy_zero (s : State) (c : Nat) :
    (s.setFld (Reg.ARRAY_STAT c) Fld.ARRAY_STAT_BUSY 0).flag (Reg.ARRAY_STAT c) Fld.ARRAY_STAT_BUSY = false := by
  rw [State.flag, fld_setFld_self _ _ _ _ (by decide)]
  rfl

/-- An array that runs nothing shows idle, and nothing but its status register changes (R73). -/
theorem showArray_idle {s : State} {c : Nat} (h : s.unit c 0 = ⟨none, none⟩) :
    (s.showArray c false).flag (Reg.ARRAY_STAT c) Fld.ARRAY_STAT_BUSY = false
      ∧ onlyRegs s (s.showArray c false) [Reg.ARRAY_STAT c] := by
  have hmem : Reg.ARRAY_STAT c ∈ [Reg.ARRAY_STAT c] := List.mem_singleton_self _
  rw [State.showArray, h]
  dsimp only
  split
  · refine ⟨?_, onlyRegs_setFld (onlyRegs_setFld (onlyRegs_refl ..) hmem ..) hmem ..⟩
    rw [State.flag, fld_setFld_apart _ _ _ _ _ _ (by decide) (by decide)]
    exact busy_setBusy_zero s c
  · next hbusy => exact ⟨by simpa using hbusy, onlyRegs_refl ..⟩

/-- A unit whose instruction is done, of a core with nothing else under way, is left free (R121, R58, R73). -/
theorem finish_frees {s : State} {c u : Nat} {j : Job} (hu : s.unit c u = ⟨some j, none⟩) (hdone : j.computed = true)
    (houts : j.outs = []) (hfail : j.fail = none) (hreqs : s.outstanding c j.iid = false)
    (hstill : ((s.setUnit c u ⟨none, none⟩).setFld (Reg.ARRAY_STAT c) Fld.ARRAY_STAT_BUSY 0).coreStill c = true)
    (hbusy : u ≠ 0 → s.flag (Reg.ARRAY_STAT c) Fld.ARRAY_STAT_BUSY = false) :
    (s.finish c u).flag (Reg.ARRAY_STAT c) Fld.ARRAY_STAT_BUSY = false ∧ (s.finish c u).unit c u = ⟨none, none⟩
      ∧ onlyRegs (s.setUnit c u ⟨none, none⟩) (s.finish c u) [Reg.ARRAY_STAT c] := by
  have hnil : ((s.setUnit c u ⟨none, none⟩).core c).units = [] := (calm_parts (still_parts hstill).1).1
  obtain ⟨t, ht, hflag, honly⟩ : ∃ t,
      (if u = 0 then (s.setUnit c u ⟨none, none⟩).showArray c false else s.setUnit c u ⟨none, none⟩) = t
        ∧ t.flag (Reg.ARRAY_STAT c) Fld.ARRAY_STAT_BUSY = false
        ∧ onlyRegs (s.setUnit c u ⟨none, none⟩) t [Reg.ARRAY_STAT c] := by
    refine ⟨_, rfl, ?_⟩
    split
    · exact showArray_idle (unit_of_units_nil hnil 0)
    · next hne => exact ⟨hbusy hne, onlyRegs_refl ..⟩
  have hpump : t.pump c = t := by
    refine pump_of_still ?_
    rw [← hstill]
    refine still_congr (core_of_onlyRegs honly c) (hflag.trans (busy_setBusy_zero ..).symm) ?_
    rw [honly.2 _ (by simpa using cbCfg_ne_arrayStat c), reg_setFld_ne _ _ _ (cbCfg_ne_arrayStat c)]
  have hfinish : s.finish c u = t := by
    simp only [State.finish, hu, hdone, houts, hfail, hreqs, ht, hpump]
    rfl
  rw [hfinish]
  exact ⟨hflag, unit_of_units_nil (by rw [core_of_onlyRegs honly, hnil]) u, honly⟩

/-! Queues. -/

theorem queue_setQueue {s : State} {c q : Nat} (h : mwf (s.core c).queues = true) (l : List QSlot) :
    (s.setQueue c q l).queue c q = l := by
  rw [State.queue, State.setQueue, core_modCore_self]
  split
  · next hl => rw [mget, mfind_mdel_self h, List.isEmpty_iff.mp hl]; rfl
  · exact mget_mset_self ..

/-! The flags of the arithmetic. -/

/-- The registers that an examination of written elements may change (R95, R266). -/
def flagRegs (c : Nat) : List Nat := [Reg.NF_POS_INF c, Reg.NF_NEG_INF c, Reg.NF_NAN c, Reg.NF_FIRST c, Reg.MAXEXP c]

theorem mem_flagRegs_bounds {a c : Nat} (h : a ∈ flagRegs c) :
    0x300_0000_3100 + c * 0x1_0000 ≤ a ∧ a < 0x300_0000_3130 + c * 0x1_0000 := by
  simp only [flagRegs, Reg.NF_POS_INF, Reg.NF_NEG_INF, Reg.NF_NAN, Reg.NF_FIRST, Reg.MAXEXP, List.mem_cons, List.not_mem_nil,
    or_false] at h
  omega

theorem onlyRegs_examine (s : State) (c : Nat) (w : NfFrom) (xs : List Num) : onlyRegs s (s.examine c w xs) (flagRegs c) := by
  unfold State.examine
  dsimp only
  repeat' split
  all_goals apply_rules [onlyRegs_setFld, onlyRegs_setReg, onlyRegs_bump, onlyRegs_refl]
  all_goals simp [flagRegs]

theorem wordFld_lt (w : Word) (f : FieldPos) : wordFld w f < 2 ^ f.width := Nat.mod_lt _ (by positivity)

theorem wordSet_wordFld (w : Word) (f : FieldPos) : wordSet w f (wordFld w f) = w := by
  have hlo : w.toNat / 2 ^ (f.lo + f.width) = w.toNat / 2 ^ f.lo / 2 ^ f.width := by rw [pow_add, Nat.div_div_eq_div_mul]
  have hsplit : w.toNat / 2 ^ (f.lo + f.width) * 2 ^ (f.lo + f.width) + wordFld w f * 2 ^ f.lo + w.toNat % 2 ^ f.lo
      = w.toNat := by
    rw [wordFld, hlo, pow_add, Nat.mul_comm (2 ^ f.lo), ← Nat.mul_assoc, ← Nat.add_mul, Nat.div_add_mod', Nat.div_add_mod']
  rw [wordSet, Nat.mod_eq_of_lt (wordFld_lt w f), hsplit, BitVec.ofNat_toNat, BitVec.setWidth_eq]

theorem reg_bump_zero (s : State) (a : Nat) (f : FieldPos) (b : Nat) : (s.bump a f 0).reg b = s.reg b := by
  have hmin : min (2 ^ f.width - 1) (s.fld a f + 0) = wordFld (s.reg a) f := by
    have := wordFld_lt (s.reg a) f
    rw [State.fld]
    omega
  rw [State.bump, reg_setFld, hmin, wordSet_wordFld]
  split
  · next h => rw [h]
  · rfl

/-- Where no element has been written, no register reads differently. -/
theorem onlyRegs_examine_nil (s : State) (c : Nat) (w : NfFrom) : onlyRegs s (s.examine c w []) [] := by
  refine ⟨(onlyRegs_examine s c w []).1, fun a _ => ?_⟩
  simp [State.examine, nfKind, reg_bump_zero]

/-! What has come back leaves a core's flights, and nothing else changes. -/

theorem core_tidyFlights_eq (s : State) (c k : Nat) : ∃ fs, (s.tidyFlights c).core k = { s.core k with flights := fs } := by
  rcases tidyFlights_cases s c with h | ⟨fs, h⟩
  · exact ⟨(s.core k).flights, by rw [h]⟩
  · by_cases hk : k = c
    · exact ⟨fs (s.core c).flights, by rw [h, hk, core_modCore_self]⟩
    · exact ⟨(s.core k).flights, by rw [h, core_modCore_ne _ _ hk]⟩

theorem queues_tidyFlights (s : State) (c k : Nat) : ((s.tidyFlights c).core k).queues = (s.core k).queues := by
  obtain ⟨fs, h⟩ := core_tidyFlights_eq s c k
  rw [h]

theorem groups_tidyFlights (s : State) (c k : Nat) : ((s.tidyFlights c).core k).groups = (s.core k).groups := by
  obtain ⟨fs, h⟩ := core_tidyFlights_eq s c k
  rw [h]

theorem queue_tidyFlights (s : State) (c k q : Nat) : (s.tidyFlights c).queue k q = s.queue k q := by
  rw [State.queue, queues_tidyFlights, State.queue]

theorem reqs_tidyFlights (s : State) (c : Nat) : (s.tidyFlights c).reqs = s.reqs := by
  rcases tidyFlights_cases s c with h | ⟨fs, h⟩ <;> simp [h]

theorem framed_tidyFlights {s t : State} {as : List Nat} (h : framed s t as) (c : Nat) : framed s (t.tidyFlights c) as := by
  rcases tidyFlights_cases t c with e | ⟨fs, e⟩ <;> rw [e] <;> exact h

/-! A sector delivered to its load group. -/

theorem groupConvert_plain (g : LoadGroup) (h : fmtPlain g.sfmt g.qfmt = true) :
    groupConvert g = ((List.range g.nData).map fun i => mget g.got 0 i, []) := by
  rw [groupConvert, if_pos h]

/-- A load group with one more sector delivered. -/
abbrev LoadGroup.withSector (g : LoadGroup) (pos : Nat) (d : Sector) : LoadGroup := { g with got := mset g.got pos d }

/-- The groups with a group's record replaced. -/
def putGroup (gid : Nat) (g : LoadGroup) (l : List LoadGroup) : List LoadGroup := l.map fun x => if x.gid = gid then g else x

theorem find?_putGroup {gid : Nat} {g g' : LoadGroup} (hg : g.gid = gid) {l : List LoadGroup}
    (h : l.find? (fun x => x.gid == gid) = some g') : (putGroup gid g l).find? (fun x => x.gid == gid) = some g := by
  induction l with
  | nil => cases h
  | cons x l ih =>
    by_cases hx : x.gid = gid
    · simp [putGroup, hx, hg]
    · simp only [List.find?_cons, beq_eq_false_iff_ne.mpr hx] at h
      simpa [putGroup, hx] using ih h

section
variable {s : State} {c gid pos : Nat} {d : Sector} {g : LoadGroup}

theorem deliver_early (hg : (s.core c).groups.find? (fun g => g.gid == gid) = some g) (h : (mset g.got pos d).length < g.nSrc) :
    s.deliver c gid pos d = s.modCore c fun k => { k with groups := putGroup gid (g.withSector pos d) k.groups } := by
  rw [State.deliver, hg]
  exact if_pos h

/-- What the last sector of a group leaves but for the flags of the arithmetic (R155). -/
def State.groupFilled (s : State) (c gid : Nat) (g : LoadGroup) : State :=
  (s.modCore c fun k => { k with groups := k.groups.filter fun x => x.gid != gid }).setQueue c g.q
    (fillSlots gid (s.queue c g.q) (groupConvert g).1)

theorem queue_modGroups (s : State) (c q : Nat) (f : List LoadGroup → List LoadGroup) :
    (s.modCore c fun k => { k with groups := f k.groups }).queue c q = s.queue c q := by
  rw [State.queue, core_modCore_self, State.queue]

theorem deliver_last (hg : (s.core c).groups.find? (fun g => g.gid == gid) = some g) (h : g.nSrc ≤ (mset g.got pos d).length) :
    s.deliver c gid pos d = (s.groupFilled c gid (g.withSector pos d)).examine c ⟨5, 1, g.bank, g.index⟩
      (groupConvert (g.withSector pos d)).2 := by
  rw [State.deliver, hg]
  dsimp only
  rw [if_neg (Nat.not_lt.mpr h), queue_modGroups]
  rfl

theorem framed_groupFilled_left (s t : State) (c gid : Nat) (g : LoadGroup) (as : List Nat) :
    framed (s.groupFilled c gid g) t as ↔ framed s t as := Iff.rfl

theorem core_groupFilled (s : State) (c gid : Nat) (g : LoadGroup) : ∃ qs, (s.groupFilled c gid g).core c
    = { s.core c with groups := (s.core c).groups.filter fun x => x.gid != gid, queues := qs } := by
  rw [State.groupFilled, State.setQueue, core_modCore_self, core_modCore_self]
  exact ⟨_, rfl⟩

theorem calm_of_queues {t : State} {gs : List LoadGroup} {qs : SMap (List QSlot)} (h : s.coreCalm c = true)
    (hcore : t.core c = { s.core c with groups := gs, queues := qs })
    (hbusy : t.reg (Reg.ARRAY_STAT c) = s.reg (Reg.ARRAY_STAT c)) (hcb : t.reg (Reg.CB_CFG c) = s.reg (Reg.CB_CFG c)) :
    t.coreCalm c = true := by
  obtain ⟨-, -, ha, he, -⟩ := calm_parts h
  refine calm_of h ?_ ?_ ?_ ?_ ?_ ?_ hbusy hcb ?_ <;> simp only [hcore, ha, he]

theorem calm_deliver (h : s.coreCalm c = true) (hg : (s.core c).groups.find? (fun g => g.gid == gid) = some g) :
    (s.deliver c gid pos d).coreCalm c = true := by
  by_cases hlt : (mset g.got pos d).length < g.nSrc
  · rw [deliver_early hg hlt]
    exact calm_of_queues h (core_modCore_self ..) rfl rfl
  · rw [deliver_last hg (Nat.not_lt.mp hlt)]
    obtain ⟨qs, hcore⟩ := core_groupFilled s c gid (g.withSector pos d)
    have honly := onlyRegs_examine (s.groupFilled c gid (g.withSector pos d)) c ⟨5, 1, g.bank, g.index⟩
      (groupConvert (g.withSector pos d)).2
    refine calm_of_queues h ((core_of_onlyRegs honly c).trans hcore) (honly.2 _ ?_) (honly.2 _ ?_)
    · exact fun hmem => absurd (mem_flagRegs_bounds hmem) (by unfold Reg.ARRAY_STAT; omega)
    · exact fun hmem => absurd (mem_flagRegs_bounds hmem) (by unfold Reg.CB_CFG; omega)

theorem reqs_deliver (s : State) (c gid pos : Nat) (d : Sector) : (s.deliver c gid pos d).reqs = s.reqs := by
  cases hg : (s.core c).groups.find? fun g => g.gid == gid with
  | none => rw [State.deliver, hg]
  | some g =>
    by_cases h : (mset g.got pos d).length < g.nSrc
    · rw [deliver_early hg h]
      rfl
    · rw [deliver_last hg (Nat.not_lt.mp h), (onlyRegs_examine ..).1]
      rfl

/-- An earlier sector of a group is kept with it (R124, R176). -/
theorem deliver_keeps (hg : (s.core c).groups.find? (fun g => g.gid == gid) = some g)
    (h : (mset g.got pos d).length < g.nSrc) (q : Nat) :
    (s.deliver c gid pos d).queue c q = s.queue c q
      ∧ ((s.deliver c gid pos d).core c).groups.find? (fun g => g.gid == gid) = some (g.withSector pos d) := by
  have hgid : g.gid = gid := by simpa using List.find?_some hg
  rw [deliver_early hg h]
  refine ⟨queue_modGroups .., ?_⟩
  rw [core_modCore_self]
  exact find?_putGroup (g := (g.withSector pos d)) hgid hg

/-- The last sector of a group in the queue's own format fills its places there (R124, R155). -/
theorem deliver_fills (hg : (s.core c).groups.find? (fun g => g.gid == gid) = some g)
    (h : g.nSrc ≤ (mset g.got pos d).length) (hplain : fmtPlain g.sfmt g.qfmt = true)
    (hq : mwf (s.core c).queues = true) :
    (s.deliver c gid pos d).queue c g.q
        = fillSlots gid (s.queue c g.q) ((List.range g.nData).map fun i => mget (mset g.got pos d) 0 i)
      ∧ ((s.deliver c gid pos d).core c).groups = (s.core c).groups.filter fun x => x.gid != gid := by
  have hcore := core_of_onlyRegs (onlyRegs_examine (s.groupFilled c gid (g.withSector pos d)) c
    ⟨5, 1, g.bank, g.index⟩ (groupConvert (g.withSector pos d)).2) c
  rw [deliver_last hg h, State.queue, hcore, ← State.queue]
  constructor
  · rw [State.groupFilled, queue_setQueue, groupConvert_plain (g.withSector pos d) hplain]
    rwa [core_modCore_self]
  · obtain ⟨qs, hfilled⟩ := core_groupFilled s c gid (g.withSector pos d)
    rw [hfilled]

theorem framed_deliver (hg : (s.core c).groups.find? (fun g => g.gid == gid) = some g)
    (hplain : fmtPlain g.sfmt g.qfmt = true) : framed s (s.deliver c gid pos d) [] := by
  by_cases h : (mset g.got pos d).length < g.nSrc
  · rw [deliver_early hg h]
    exact (framed_modCore_left ..).mp (framed_of_onlyRegs (onlyRegs_refl ..))
  · rw [deliver_last hg (Nat.not_lt.mp h), groupConvert_plain (g.withSector pos d) hplain]
    exact (framed_groupFilled_left ..).mp (framed_of_onlyRegs (onlyRegs_examine_nil ..))

end

/-! The events. -/

/-- A read that was served is delivered, and its core goes on. -/
theorem exec_readDataReturn {s : State} {id gid pos : Nat} {r : Req} {d : Sector} (hr : s.reqOf id = some r)
    (hkind : r.kind = .read gid pos) (hstage : r.stage = .served d) :
    exec (.readDataReturn id) s = .next (((s.dropReq id).deliver r.core gid pos d).pump r.core) := by
  change execReadDataReturn id s = _
  simp only [execReadDataReturn, hr, hkind, hstage]

theorem exec_writeAck {s : State} {id : Nat} {r : Req} {d0 d : Sector} {be : Word32} (hr : s.reqOf id = some r)
    (hkind : r.kind = .write d0 be) (hstage : r.stage = .served d) :
    exec (.writeAck id) s = .next ((s.dropReq id).pump r.core) := by
  change execWriteAck id s = _
  simp only [execWriteAck, hr, hkind, hstage]

theorem framed_dropReq (s : State) (id : Nat) : framed s (s.dropReq id) [] :=
  ⟨fun _ _ => rfl, fun _ => ⟨rfl, rfl, rfl, rfl, rfl⟩, fun _ => rfl⟩

/-- Settles O16: a calm core keeps what the event leaves, but for the flights that have come back. -/
theorem unitsEngineAndReturnsComplete : Obligations.UnitsEngineAndReturnsComplete := by
  refine ⟨fun c u s j hu hdone houts hfail hreqs hstill hbusy => ?_, fun id gid pos d r g s hr hkind hstage hcalm hq hg => ?_,
    fun id d0 d be r s hr hkind hstage hcalm => ?_⟩
  · obtain ⟨hidle, hfree, honly⟩ := finish_frees hu hdone houts hfail hreqs hstill hbusy
    have hcore := core_of_onlyRegs honly
    refine ⟨_, rfl, hfree, hidle, ?_, ?_, (framed_setUnit_left ..).mp (framed_of_onlyRegs honly), fun k hk => ?_⟩
    · rw [hcore, queues_setUnit]
    · rw [hcore, acc_setUnit]
    · rw [hcore, core_setUnit_ne _ _ _ hk]
  · have hcalm' : ((s.dropReq id).deliver r.core gid pos d).coreCalm r.core = true := calm_deliver (s := s.dropReq id) hcalm hg
    refine ⟨_, exec_readDataReturn hr hkind hstage, ?_⟩
    rw [pump_of_calm hcalm', reqs_tidyFlights, reqs_deliver, queue_tidyFlights, groups_tidyFlights]
    refine ⟨rfl, fun h => deliver_keeps (s := s.dropReq id) hg h g.q, fun h hplain => deliver_fills (s := s.dropReq id) hg h hplain hq,
      fun hplain => framed_tidyFlights ?_ _⟩
    exact framed_deliver (s := s.dropReq id) hg hplain
  · have hcalm' : (s.dropReq id).coreCalm r.core = true := hcalm
    refine ⟨_, exec_writeAck hr hkind hstage, ?_⟩
    rw [pump_of_calm hcalm', reqs_tidyFlights, queues_tidyFlights]
    exact ⟨rfl, rfl, framed_tidyFlights (framed_dropReq s id) _⟩

end Sys2Proof.Machine
end

section
/-! PROOFS. What an error of the instruction that a stream is issuing leaves of a still core (R149). -/

namespace Sys2Proof.Machine

open Sys2Proof

/-! A core whose streams hold nothing that they could go on with, and whose units hold `us`. -/

/-- Nothing of a core is in flight or asked for, and its units hold `us`. -/
structure Core.Rests (k : Core) (us : SMap UnitState) : Prop where
  units : k.units = us
  flights : k.flights = []
  feeds : k.feeds = []
  pred : k.pred = none
  aHold : k.a.hold.settled = true
  eHold : k.e.hold.settled = true
  aStep : k.a.stepping = false
  eStep : k.e.stepping = false

/-- What a core's instructions compute with: accumulators and queues. -/
def Core.data (k : Core) : SMap Word32 × SMap Word32 × SMap (List QSlot) := (k.acc, k.slots, k.queues)

theorem rests_of_still {s : State} {c : Nat} (h : s.coreStill c = true) : (s.core c).Rests [] := by
  obtain ⟨hcalm, hflights, hfeeds⟩ := still_parts h
  obtain ⟨hunits, hpred, ha, he, has, hes, -⟩ := calm_parts hcalm
  exact ⟨hunits, hflights, hfeeds, hpred, ha, he, has, hes⟩

theorem still_of_rests {s : State} {c : Nat} (h : (s.core c).Rests []) (hd : (s.core c).disarmAt = none)
    (hbusy : s.flag (Reg.ARRAY_STAT c) Fld.ARRAY_STAT_BUSY = false) (hcb : s.flag (Reg.CB_CFG c) Fld.CB_CFG_EN = false) :
    s.coreStill c = true := by
  simp [State.coreStill, State.coreCalm, h.units, h.flights, h.feeds, h.pred, h.aHold, h.eHold, h.aStep, h.eStep,
    hd, hbusy, hcb]

theorem Core.Rests.strm {k : Core} {us : SMap UnitState} (h : k.Rests us) (t : Strm) : (k.strm t).hold.settled = true := by
  cases t
  · exact h.aHold
  · exact h.eHold

/-! `recordStrmErr`. -/

theorem onlyRegs_recordStrmErr (s : State) (c : Nat) (t : Strm) (code index bank detail : Nat) :
    onlyRegs s (s.recordStrmErr c t code index bank detail) [Reg.STRM_ERR c (sidx t), Reg.STRM_ERR_DETAIL c (sidx t)] := by
  unfold State.recordStrmErr
  dsimp only
  split
  · exact onlyRegs_refl ..
  · exact onlyRegs_setReg (onlyRegs_setReg (onlyRegs_refl ..) (.head _) _) (.tail _ (.head _)) _

theorem reg_recordStrmErr {s : State} {c : Nat} {t : Strm} (h : s.flag (Reg.STRM_ERR c (sidx t)) Fld.STRM_ERR_VALID = false)
    (code index bank detail : Nat) : (s.recordStrmErr c t code index bank detail).reg (Reg.STRM_ERR c (sidx t))
      = BitVec.ofNat 64 (2 ^ 31 + bank % 2 * 2 ^ 27 + index % 2048 * 2 ^ 16 + code) := by
  have hne : Reg.STRM_ERR c (sidx t) ≠ Reg.STRM_ERR_DETAIL c (sidx t) := by
    unfold Reg.STRM_ERR Reg.STRM_ERR_DETAIL
    omega
  rw [State.recordStrmErr, h, if_neg Bool.false_ne_true, reg_setReg_ne _ _ hne, reg_setReg_self]

/-! `dropAfter`. -/

theorem core_dropAfter (s : State) (c iid : Nat) : ∃ us fs fe en, (s.dropAfter c iid).core c
    = { s.core c with
        units := mmap us (s.core c).units, flights := (s.core c).flights.filter fs, feeds := (s.core c).feeds.filter fe
        engine := en } :=
  ⟨_, _, _, _, core_modCore_self ..⟩

theorem rests_dropAfter {s : State} {c : Nat} (h : (s.core c).Rests []) (iid : Nat) :
    ((s.dropAfter c iid).core c).Rests [] := by
  obtain ⟨us, fs, fe, en, hcore⟩ := core_dropAfter s c iid
  rw [hcore]
  exact { h with units := by rw [h.units]; rfl, flights := by rw [h.flights]; rfl, feeds := by rw [h.feeds]; rfl }

theorem data_dropAfter (s : State) (c iid : Nat) : ((s.dropAfter c iid).core c).data = (s.core c).data := by
  obtain ⟨us, fs, fe, en, hcore⟩ := core_dropAfter s c iid
  rw [hcore]
  rfl

@[simp] theorem reg_dropAfter (s : State) (c iid b : Nat) : (s.dropAfter c iid).reg b = s.reg b := rfl

/-! `stopStream`. -/

/-- A core with a stream stopped in state `st`. -/
def Core.stopped (k : Core) (t : Strm) (st : Nat) : Core :=
  let k := k.setStrm t { k.strm t with hold := .free, stopReq := none, stepping := (k.strm t).stepping && st == 2 }
  if t = .execute ∧ 2 ≤ st ∧ k.disarmAt = none then { k with disarmAt := some k.nextIid } else k

theorem core_stopStream {s : State} {c : Nat} (h : (s.core c).feeds = []) (t : Strm) (st : Nat) :
    (s.stopStream c t st).core c = (s.core c).stopped t st := by
  unfold State.stopStream
  extract_lets who gone s₁ s₂ s₃ s₄
  have h₁ : s₁.core c
      = (s.core c).setStrm t { (s.core c).strm t with
          hold := .free, stopReq := none, stepping := ((s.core c).strm t).stepping && st == 2 } := core_modCore_self ..
  have h₂ : s₂ = s₁ := by
    have hfeeds : (s₁.core c).feeds = [] := by
      rw [h₁]
      cases t <;> exact h
    simp only [s₂, hfeeds, List.any_nil, Bool.false_eq_true, if_false]
  have h₃ : s₃.core c = s₁.core c := by rw [← h₂]; rfl
  change s₄.core c = _
  simp only [s₄, apply_ite (fun x => State.core x c), core_modCore_self, h₃, h₁]
  rfl

theorem Core.Rests.stopped {k : Core} {us : SMap UnitState} (h : k.Rests us) (t : Strm) {st : Nat} (hst : st ≠ 2) :
    (k.stopped t st).Rests us := by
  have hset : (k.setStrm t { k.strm t with
      hold := .free, stopReq := none, stepping := (k.strm t).stepping && st == 2 }).Rests us := by
    cases t
    · exact { h with aHold := rfl, aStep := by simpa [Core.setStrm] using fun _ => hst }
    · exact { h with eHold := rfl, eStep := by simpa [Core.setStrm] using fun _ => hst }
  rw [Core.stopped]
  dsimp only
  split
  · exact { hset with }
  · exact hset

theorem Core.data_stopped (k : Core) (t : Strm) (st : Nat) : (k.stopped t st).data = k.data := by
  rw [Core.stopped]
  cases t <;> split <;> rfl

theorem reg_stopStream_ne (s : State) (c : Nat) (t : Strm) (st : Nat) {b : Nat} (h : b ≠ Reg.STRM_STAT c (sidx t)) :
    (s.stopStream c t st).reg b = s.reg b := by
  unfold State.stopStream
  extract_lets who gone s₁ s₂ s₃ s₄
  have h₂ : s₂.regs = s.regs := by simp only [s₂, apply_ite State.regs, regs_modCore, ite_self]; rfl
  have h₄ : s₄.regs = s.regs := by simp only [s₄, apply_ite State.regs, regs_modCore, ite_self]; exact h₂
  rw [State.setStrmState, State.setWaitOn, reg_setFld_ne _ _ _ h, reg_setFld_ne _ _ _ h]
  exact reg_of_regs h₄ b

theorem strmState_stopStream (s : State) (c : Nat) (t : Strm) {st : Nat} (h : st < 4) :
    (s.stopStream c t st).strmState c t = st := by
  rw [State.stopStream]
  dsimp only
  rw [State.setStrmState, State.strmState, fld_setFld_self _ _ _ _ (by decide)]
  exact Nat.mod_eq_of_lt h

/-! The report, and the step's share of it. -/

theorem cores_errRingPut (s : State) (f : Nat) (bs : List Byte) : (errRingPut s f bs).cores = s.cores := by
  unfold errRingPut ringPut State.bump State.emit
  simp only [cores_setFld, apply_ite State.cores, ite_self]

theorem core_report (s : State) (code : Nat) (ctx core : Option Nat) (detail c : Nat) :
    (s.report code ctx core detail).core c = s.core c := by
  unfold State.core
  congr 1
  simp only [State.report]
  repeat' split
  all_goals simp only [cores_errRingPut]

theorem stepCoreError_eq (s : State) (c code : Nat) : ∃ o, s.stepCoreError c code = { s with out := o } := by
  rw [State.stepCoreError]
  split
  · exact ⟨_, rfl⟩
  · exact ⟨_, rfl⟩

@[simp] theorem core_stepCoreError (s : State) (c code d : Nat) : (s.stepCoreError c code).core d = s.core d := by
  obtain ⟨o, ho⟩ := stepCoreError_eq s c code
  rw [ho]
  rfl

@[simp] theorem reg_stepCoreError (s : State) (c code b : Nat) : (s.stepCoreError c code).reg b = s.reg b := by
  obtain ⟨o, ho⟩ := stepCoreError_eq s c code
  rw [ho]
  rfl

theorem strmStat_lt_hostBase {c : Nat} (hc : c < nCores) (t : Strm) : Reg.STRM_STAT c (sidx t) < hostBase := by
  unfold nCores at hc
  unfold Reg.STRM_STAT hostBase
  cases t <;> simp only [sidx] <;> omega

theorem strmErr_apart {c : Nat} (hc : c < nCores) (t : Strm) :
    Reg.STRM_ERR c (sidx t) < hostBase ∧ ∀ x, Reg.STRM_ERR c (sidx t) ≠ Reg.STRM_STAT c (sidx x) := by
  unfold nCores at hc
  unfold Reg.STRM_ERR Reg.STRM_STAT hostBase
  refine ⟨?_, fun x => ?_⟩
  · cases t <;> simp only [sidx] <;> omega
  · cases t <;> cases x <;> simp only [sidx] <;> omega

theorem strmErr_ne_predStat (c : Nat) (t : Strm) : Reg.STRM_ERR c (sidx t) ≠ Reg.PRED_STAT c := by
  unfold Reg.STRM_ERR Reg.PRED_STAT
  cases t <;> simp only [sidx] <;> omega

theorem strmStat_ne_predStat (c : Nat) (t : Strm) : Reg.STRM_STAT c (sidx t) ≠ Reg.PRED_STAT c := by
  unfold Reg.STRM_STAT Reg.PRED_STAT
  cases t <;> simp only [sidx] <;> omega

theorem strmStat_ne_other (c : Nat) (t : Strm) : Reg.STRM_STAT c (sidx t) ≠ Reg.STRM_STAT c (sidx (otherStrm t)) := by
  unfold Reg.STRM_STAT
  cases t <;> simp [sidx, otherStrm]

theorem strmState_stopStream_both (s : State) (c : Nat) (t x : Strm) :
    ((s.stopStream c t 3).stopStream c (otherStrm t) 3).strmState c x = 3 := by
  rcases eq_or_ne x (otherStrm t) with rfl | hx
  · exact strmState_stopStream _ _ _ (by decide)
  · obtain rfl : x = t := by cases x <;> cases t <;> simp_all [otherStrm]
    rw [State.strmState, State.fld, reg_stopStream_ne _ _ _ _ (strmStat_ne_other c x)]
    exact strmState_stopStream _ _ _ (by decide)

/-! `haltCore` of a core whose streams hold nothing that they could go on with. -/

theorem Core.Rests.strm_ne_move {k : Core} {us : SMap UnitState} (h : k.Rests us) (t : Strm) (m : Move) :
    (k.strm t).hold ≠ .move m := by
  intro hm
  have hsettled := h.strm t
  rw [hm] at hsettled
  cases hsettled

/-- After a state `s` a core still rests with its accumulators and queues; of its registers only those of its streams' states
and of the halted stream's record, which takes `v` where it was free, differ. -/
structure State.HaltsTo (s t : State) (c : Nat) (st : Strm) (v : Word) : Prop where
  rests : (t.core c).Rests []
  data : (t.core c).data = (s.core c).data
  regs : ∀ b < hostBase, (∀ x : Strm, b ≠ Reg.STRM_STAT c (sidx x)) → b ≠ Reg.STRM_ERR c (sidx st) →
    b ≠ Reg.STRM_ERR_DETAIL c (sidx st) → t.reg b = s.reg b
  states : ∀ x : Strm, t.strmState c x = 3
  record : s.flag (Reg.STRM_ERR c (sidx st)) Fld.STRM_ERR_VALID = false → t.reg (Reg.STRM_ERR c (sidx st)) = v

theorem haltsTo_haltCore {s : State} {c : Nat} (hs : s.coreStill c = true) (hc : c < nCores) (t : Strm)
    (iid code index bank detail : Nat) :
    s.HaltsTo (s.haltCore c t iid code index bank detail) c t
      (BitVec.ofNat 64 (2 ^ 31 + bank % 2 * 2 ^ 27 + index % 2048 * 2 ^ 16 + code)) := by
  unfold State.haltCore
  extract_lets s₁ s₂ s₃ s₄
  have hrec : onlyRegs s s₁ _ := onlyRegs_recordStrmErr ..
  have hcore₁ : s₁.core c = s.core c := core_of_onlyRegs hrec c
  have hrest₂ : (s₂.core c).Rests [] := rests_dropAfter (hcore₁ ▸ rests_of_still hs) iid
  have hdata₂ : (s₂.core c).data = (s.core c).data := hcore₁ ▸ data_dropAfter s₁ c iid
  have hcore₃ : s₃.core c = (s₂.core c).stopped t 3 := core_stopStream hrest₂.feeds t 3
  have hrest₃ : (s₃.core c).Rests [] := hcore₃ ▸ hrest₂.stopped t (by decide)
  have h₄ : s₄ = s₃.stopStream c (otherStrm t) 3 := by
    simp only [s₄]
    split
    case h_1 m hm => exact absurd hm (hrest₃.strm_ne_move _ m)
    case h_2 => rfl
  have hcore₄ : s₄.core c = (s₃.core c).stopped (otherStrm t) 3 := by rw [h₄, core_stopStream hrest₃.feeds]
  have hcore : ((s₄.report code (s₄.coreCtx c) (some c) detail).stepCoreError c code).core c = s₄.core c :=
    (core_stepCoreError ..).trans (core_report ..)
  have hreg : ∀ b < hostBase, ((s₄.report code (s₄.coreCtx c) (some c) detail).stepCoreError c code).reg b = s₄.reg b :=
    fun b hb => (reg_stepCoreError ..).trans (reg_report_of_lt _ _ _ _ _ hb)
  refine ⟨?_, ?_, fun b hb hstat herr hdet => ?_, fun x => ?_, fun hfree => ?_⟩
  · rw [hcore, hcore₄]
    exact hrest₃.stopped _ (by decide)
  · rw [hcore, hcore₄, Core.data_stopped, hcore₃, Core.data_stopped, hdata₂]
  · rw [hreg b hb, h₄, reg_stopStream_ne _ _ _ _ (hstat _), reg_stopStream_ne _ _ _ _ (hstat t), reg_dropAfter]
    exact hrec.2 b (by simp [herr, hdet])
  · rw [State.strmState, State.fld, hreg _ (strmStat_lt_hostBase hc x), h₄]
    exact strmState_stopStream_both s₂ c t x
  · obtain ⟨hlt, hstat⟩ := strmErr_apart hc t
    rw [hreg _ hlt, h₄, reg_stopStream_ne _ _ _ _ (hstat _), reg_stopStream_ne _ _ _ _ (hstat t), reg_dropAfter]
    exact reg_recordStrmErr hfree code index bank detail

/-! What is left of such a core to do is the disarming of its predication. -/

theorem disarmPred_eq (s : State) (c : Nat) :
    s.disarmPred c = (s.modCore c fun k => { k with pred := none }).setReg (Reg.PRED_STAT c) 0 := by
  unfold State.disarmPred State.showPred
  rw [core_modCore_self]

theorem tidyPred_of_none {s : State} {c : Nat} (h : (s.core c).disarmAt = none) : s.tidyPred c = s := by
  rw [State.tidyPred, h]

theorem tidyPred_of_idle {s : State} {c n : Nat} (h : (s.core c).disarmAt = some n) (hunits : (s.core c).units = []) :
    s.tidyPred c = (s.disarmPred c).modCore c fun k => { k with disarmAt := none } := by
  rw [State.tidyPred, h]
  simp only [unit_of_units_nil hunits]
  rfl

theorem core_tidyPred {s : State} {c : Nat} (hunits : (s.core c).units = []) (hpred : (s.core c).pred = none) :
    (s.tidyPred c).core c = { s.core c with disarmAt := none } := by
  cases hd : (s.core c).disarmAt with
  | none =>
    rw [tidyPred_of_none hd, ← hd]
  | some n =>
    rw [tidyPred_of_idle hd hunits, core_modCore_self, disarmPred_eq, core_setReg, core_modCore_self, ← hpred]

theorem reg_tidyPred_ne {s : State} {c b : Nat} (hunits : (s.core c).units = []) (hb : b ≠ Reg.PRED_STAT c) :
    (s.tidyPred c).reg b = s.reg b := by
  cases hd : (s.core c).disarmAt with
  | none => rw [tidyPred_of_none hd]
  | some n => rw [tidyPred_of_idle hd hunits, reg_modCore, disarmPred_eq, reg_setReg_ne _ _ hb, reg_modCore]

theorem tidyFlights_of_nil {s : State} {c : Nat} (h : (s.core c).flights = []) : s.tidyFlights c = s := by
  simp [State.tidyFlights, h]

/-- A core that is still once its predication is disarmed does nothing else. -/
theorem pump_eq_tidyPred {s : State} {c : Nat} (hflights : (s.core c).flights = []) (h : (s.tidyPred c).coreStill c = true) :
    s.pump c = s.tidyPred c := by
  obtain ⟨hcalm, hflights', -⟩ := still_parts h
  obtain ⟨-, -, -, -, -, -, -, -, hd⟩ := calm_parts hcalm
  have htidy : s.tidy c = (s.tidyPred c).tidy c := by
    simp only [State.tidy, tidyFlights_of_nil hflights, tidyFlights_of_nil hflights', tidyPred_of_none hd]
  rw [State.pump, htidy, tidy_of_still h, pumpLoop_of_rest (coreStep_of_calm hcalm)]

/-- A core that has halted disarms its predication and is still. -/
theorem pump_of_haltsTo {s t : State} {c : Nat} {st : Strm} (hs : s.coreStill c = true) (hc : c < nCores)
    {v : Word} (h : s.HaltsTo t c st v) : t.pump c = t.tidyPred c := by
  have hcore := core_tidyPred h.rests.units h.rests.pred
  obtain ⟨-, -, -, -, -, -, hbusy, hcb, -⟩ := calm_parts (still_parts hs).1
  have hkept : ∀ b, b = Reg.ARRAY_STAT c ∨ b = Reg.CB_CFG c → (t.tidyPred c).reg b = s.reg b := by
    intro b hb
    unfold nCores at hc
    have hpred : b ≠ Reg.PRED_STAT c := by
      unfold Reg.PRED_STAT
      unfold Reg.ARRAY_STAT Reg.CB_CFG at hb
      omega
    rw [reg_tidyPred_ne h.rests.units hpred]
    refine h.regs b ?_ (fun x => ?_) ?_ ?_ <;> unfold Reg.ARRAY_STAT Reg.CB_CFG at hb
    · unfold hostBase
      omega
    · unfold Reg.STRM_STAT
      cases x <;> simp only [sidx] <;> omega
    · unfold Reg.STRM_ERR
      cases st <;> simp only [sidx] <;> omega
    · unfold Reg.STRM_ERR_DETAIL
      cases st <;> simp only [sidx] <;> omega
  refine pump_eq_tidyPred h.rests.flights (still_of_rests ?_ ?_ ?_ ?_)
  · rw [hcore]
    exact { h.rests with }
  · rw [hcore]
  · rw [State.flag, State.fld, hkept _ (.inl rfl)]
    exact hbusy
  · rw [State.flag, State.fld, hkept _ (.inr rfl)]
    exact hcb

/-- An error of the instruction that a stream is issuing halts the core; its accumulators and queues stay. -/
theorem pump_raiseAt {s : State} {c : Nat} {t : Strm} {e : AccErr} (hs : s.coreStill c = true) (hc : c < nCores)
    (hnote : e.note = none) :
    haltedBy s ((s.raiseAt c t e).pump c) c t e.code ∧ (((s.raiseAt c t e).pump c).core c).data = (s.core c).data := by
  have hraise : s.raiseAt c t e
      = s.haltCore c t (s.core c).nextIid e.code (s.strmIndex c t) (s.strmBank c t) e.detail := by
    rw [State.raiseAt, State.raise, State.noteAny, hnote]
    simp only [State.noteErr, hnote]
  have hhalt := haltsTo_haltCore hs hc t (s.core c).nextIid e.code (s.strmIndex c t) (s.strmBank c t) e.detail
  rw [hraise, pump_of_haltsTo hs hc hhalt]
  have hunits := hhalt.rests.units
  have hstate : ∀ x, State.strmState (State.tidyPred _ c) c x = 3 := fun x => by
    rw [State.strmState, State.fld, reg_tidyPred_ne hunits (strmStat_ne_predStat c x)]
    exact hhalt.states x
  have hbank : s.strmBank c t % 2 = s.strmBank c t := Nat.mod_eq_of_lt (wordFld_lt _ _)
  have hindex : s.strmIndex c t % 2048 = s.strmIndex c t := Nat.mod_eq_of_lt (wordFld_lt _ _)
  refine ⟨⟨hstate .access, hstate .execute, fun hfree => ?_⟩, ?_⟩
  · rw [reg_tidyPred_ne hunits (strmErr_ne_predStat c t), hhalt.record hfree, hbank, hindex]
  · rw [core_tidyPred hunits hhalt.rests.pred]
    exact hhalt.data

end Sys2Proof.Machine
end

section
/-! PROOFS. How the array runs an instruction of one part, on a core with nothing else under way (R121, R73). -/

namespace Sys2Proof.Machine

open Sys2Proof

/-- Of the state `s`, a core's array has come to run `j` and the core has nothing else under way; its accumulators and queues
are `d`, and beside the core only its execute stream's and its array's status registers differ. -/
structure State.ArrayRuns (s t : State) (c : Nat) (j : Job) (d : SMap Word32 × SMap Word32 × SMap (List QSlot)) : Prop where
  rests : (t.core c).Rests [(0, ⟨some j, none⟩)]
  disarmed : (t.core c).disarmAt = none
  combOff : t.flag (Reg.CB_CFG c) Fld.CB_CFG_EN = false
  data : (t.core c).data = d
  frame : framed s t [Reg.STRM_STAT c 1, Reg.ARRAY_STAT c]
  others : sameCoresBut s t c

section
variable {s t : State} {c : Nat} {j : Job} {d : SMap Word32 × SMap Word32 × SMap (List QSlot)}

theorem cbCfg_ne_strmStat (c : Nat) : Reg.CB_CFG c ≠ Reg.STRM_STAT c 1 := by
  unfold Reg.CB_CFG Reg.STRM_STAT
  omega

theorem State.ArrayRuns.setFld (h : s.ArrayRuns t c j d) {a : Nat} (ha : a = Reg.STRM_STAT c 1 ∨ a = Reg.ARRAY_STAT c)
    (f : FieldPos) (v : Nat) : s.ArrayRuns (t.setFld a f v) c j d := by
  obtain ⟨hregs, hmem⟩ := h.frame
  refine ⟨h.rests, h.disarmed, ?_, h.data, ⟨fun b hb => ?_, hmem⟩, h.others⟩
  · have hne : Reg.CB_CFG c ≠ a := by
      rcases ha with rfl | rfl
      · exact cbCfg_ne_strmStat c
      · exact cbCfg_ne_arrayStat c
    rw [State.flag, fld_setFld_ne _ _ _ _ hne]
    exact h.combOff
  · have hne : b ≠ a := by
      rintro rfl
      exact hb (by simpa using ha)
    rw [reg_setFld_ne _ _ _ hne, hregs b hb]

theorem State.ArrayRuns.modCore (h : s.ArrayRuns t c j d) {f : Core → Core} {j' : Job}
    {d' : SMap Word32 × SMap Word32 × SMap (List QSlot)} (hrests : (f (t.core c)).Rests [(0, ⟨some j', none⟩)])
    (hdisarm : (f (t.core c)).disarmAt = (t.core c).disarmAt) (hdata : (f (t.core c)).data = d') :
    s.ArrayRuns (t.modCore c f) c j' d' := by
  refine ⟨?_, ?_, h.combOff, ?_, h.frame, fun k hk => (core_modCore_ne _ _ hk).trans (h.others k hk)⟩
  · rwa [core_modCore_self]
  · rw [core_modCore_self, hdisarm, h.disarmed]
  · rw [core_modCore_self, hdata]

theorem State.ArrayRuns.unit (h : s.ArrayRuns t c j d) : t.unit c 0 = ⟨some j, none⟩ := by
  rw [State.unit, h.rests.units]
  rfl

theorem State.ArrayRuns.unit_succ (h : s.ArrayRuns t c j d) (u : Nat) : t.unit c (u + 1) = ⟨none, none⟩ := by
  rw [State.unit, h.rests.units]
  simp [mget, mfind]

theorem State.ArrayRuns.setRun (h : s.ArrayRuns t c j d) (j' : Job) : s.ArrayRuns (t.setRun c 0 j') c j' d := by
  rw [State.setRun, h.unit]
  refine h.modCore { h.rests with units := ?_ } rfl h.data
  rw [h.rests.units]
  rfl

theorem State.ArrayRuns.accessing (h : s.ArrayRuns t c j d) (key : FeedKey) : s.ArrayRuns (t.accessing c key) c j d :=
  h.modCore { h.rests with } rfl h.data

theorem dropFeeds_of_nil {s : State} {c : Nat} (h : (s.core c).feeds = []) (key : FeedKey) : s.dropFeeds c key = s := by
  simp [State.dropFeeds, h]

/-- The array shows busy with the mode of what it runs (R73). -/
theorem State.ArrayRuns.showArray (h : s.ArrayRuns t c j d) (fresh : Bool) : s.ArrayRuns (t.showArray c fresh) c j d := by
  rw [State.showArray, h.unit]
  have hmode := (h.setFld (.inr rfl) Fld.ARRAY_STAT_BUSY 1).setFld (.inr rfl) Fld.ARRAY_STAT_MODE (arrayMode j.op)
  cases fresh
  · exact hmode
  · exact hmode.setFld (.inr rfl) _ _

theorem State.ArrayRuns.shows (h : s.ArrayRuns t c j d) :
    (t.showArray c false).fld (Reg.ARRAY_STAT c) Fld.ARRAY_STAT_BUSY = 1
      ∧ (t.showArray c false).fld (Reg.ARRAY_STAT c) Fld.ARRAY_STAT_MODE
          = arrayMode j.op % 2 ^ Fld.ARRAY_STAT_MODE.width := by
  rw [State.showArray, h.unit]
  constructor
  · exact (fld_setFld_apart _ _ _ _ _ _ (by decide) (by decide)).trans (fld_setFld_self _ _ _ _ (by decide))
  · exact fld_setFld_self _ _ _ _ (by decide)

theorem State.ArrayRuns.tidy (h : s.ArrayRuns t c j d) : t.tidy c = t.showArray c false := by
  have hshow := h.showArray false
  have hepochs : (t.showArray c false).epochs c = t.showArray c false := by simp [State.epochs, hshow.combOff]
  have hstep : ∀ x, (t.showArray c false).tidyStep c x = t.showArray c false := fun x => by
    cases x
    · simp [State.tidyStep, State.strm, Core.strm, hshow.rests.aStep]
    · simp [State.tidyStep, State.strm, Core.strm, hshow.rests.eStep]
  rw [State.tidy, tidyFlights_of_nil h.rests.flights, tidyPred_of_none h.disarmed, hepochs, hstep, hstep]

/-! What can move first: the array. -/

theorem State.ArrayRuns.coreStep (h : s.ArrayRuns t c j d) : coreStep t c = unitStep t c 0 := by
  have hother : ∀ u, unitStep t c (u + 1) = none := fun u => by simp [unitStep, h.unit_succ]
  have hunits : ((List.range 5).findSome? fun u => unitStep t c u) = unitStep t c 0 := by
    cases hu : unitStep t c 0 <;> simp [List.range_succ, hu, hother]
  have ha : strmStep t c .access = none := strmStep_of_settled h.rests.aHold
  have he : strmStep t c .execute = none := strmStep_of_settled h.rests.eHold
  rw [Machine.coreStep, hunits, ha, he]
  cases unitStep t c 0 <;> rfl

/-- An instruction that reads no header and first takes nothing starts at once. -/
theorem State.ArrayRuns.coreStep_start (h : s.ArrayRuns t c j d) (hstart : j.started = false) (hhdr : readsHdr j.op = false)
    (hbegin : jobBegin t c j = (t, j)) :
    Machine.coreStep t c = some ((t.setRun c 0 { j with started := true }).showArray c true) := by
  have hearlier : (t.core c).earlier j.iid = [] := by simp [Core.earlier, Core.jobs, h.rests.units]
  rw [h.coreStep, unitStep, h.unit]
  simp [hstart, State.startJob, hearlier, hhdr, hbegin]

/-- An instruction whose part is its last has computed. -/
theorem State.ArrayRuns.coreStep_last (h : s.ArrayRuns t c j d) (hstart : j.started = true) (hcomp : j.computed = false)
    (htakes : j.takes = []) (hop : j.op ≠ 0x24) {u : State}
    (hpart : jobPart (t.accessing c (.job j.iid)) c j = partEnd u j) :
    Machine.coreStep t c
      = some ((u.setRun c 0 { j with computed := true, outs := [] }).dropFeeds c (.job j.iid)) := by
  rw [h.coreStep, unitStep, h.unit]
  simp [hstart, hcomp, htakes, State.runPart, hop, hpart, partEnd]

/-- An instruction that has computed and has nothing to put into a queue waits for its end. -/
theorem State.ArrayRuns.coreStep_done (h : s.ArrayRuns t c j d) (hstart : j.started = true) (hcomp : j.computed = true)
    (houts : j.outs = []) (hfail : j.fail = none) : Machine.coreStep t c = none := by
  rw [h.coreStep, unitStep, h.unit]
  simp [hstart, hcomp, houts, hfail]

theorem pumpLoop_of_step {t t' : State} {c : Nat} (h : coreStep t c = some t') (n : Nat) :
    pumpLoop c (n + 1) t = pumpLoop c n (t'.tidy c) := by
  rw [pumpLoop, h]

end

end Sys2Proof.Machine
end

section
/-! PROOFS. ACLR clears columns of the accumulators, or the slot accumulators (R70). -/

namespace Sys2Proof.Machine

open Sys2Proof

/-! What ACLR computes. -/

/-- An index of the accumulator file that ACLR clears: its column is one from ACC_COL0 to ACC_COL0 + NCOL_M1. -/
def aclrInside (w : Body) (u : Nat) : Bool :=
  decide (bits w 120 113 ≤ u % 256) && decide (u % 256 < bits w 120 113 + (bits w 112 105 + 1))

/-- What ACLR leaves of its core. -/
def Core.cleared (k : Core) (w : Body) : Core :=
  if bit1 w 121 then { k.accRight (· / 2 ^ 20 == 1) with slots := [] }
  else { k.accRight (fun u => decide (u < 2 ^ 20) && aclrInside w u) with
    acc := k.acc.filter fun e => !aclrInside w e.1
    side := (List.range (bits w 112 105 + 1)).foldl (fun m i => mset m (bits w 120 113 + i) false) k.side }

/-- The accumulators and queues that ACLR leaves. -/
def aclrData (w : Body) (d : SMap Word32 × SMap Word32 × SMap (List QSlot)) :
    SMap Word32 × SMap Word32 × SMap (List QSlot) :=
  if bit1 w 121 then (d.1, [], d.2.2) else (d.1.filter fun e => !aclrInside w e.1, d.2)

theorem aclrCompute_eq (s : State) (c : Nat) (j : Job) : aclrCompute s c j = (s.modCore c (·.cleared j.body), none) := by
  unfold aclrCompute Core.cleared
  dsimp only
  split <;> rfl

theorem Core.Rests.cleared {k : Core} {us : SMap UnitState} (h : k.Rests us) (w : Body) : (k.cleared w).Rests us := by
  unfold Core.cleared
  split
  · exact { h with }
  · exact { h with }

theorem Core.disarmAt_cleared (k : Core) (w : Body) : (k.cleared w).disarmAt = k.disarmAt := by
  unfold Core.cleared
  split <;> rfl

theorem Core.data_cleared (k : Core) (w : Body) : (k.cleared w).data = aclrData w k.data := by
  unfold Core.cleared aclrData
  split <;> rfl

theorem mwf_of_mwfFrom {α : Type} {k : Nat} {m : SMap α} (h : mwfFrom k m = true) : mwf m = true := by
  cases m with
  | nil => rfl
  | cons e m =>
    simp only [mwfFrom, Bool.and_eq_true] at h
    exact h.2

theorem mfind_filter {α : Type} {m : SMap α} (hm : mwf m = true) (p : Nat → Bool) (k : Nat) :
    mfind (m.filter fun e => p e.1) k = if p k then mfind m k else none := by
  induction m with
  | nil => simp [mfind]
  | cons e m ih =>
    obtain ⟨i, v⟩ := e
    have hfrom : mwfFrom i m = true := hm
    have htail : mwf m = true := mwf_of_mwfFrom hfrom
    have habsent : k ≤ i → mfind (m.filter fun e => p e.1) k = none := mfind_none_of_mwfFrom (mwfFrom_filter _ hfrom)
    rcases lt_trichotomy k i with hlt | rfl | hgt
    · by_cases hp : p i = true
      · simp [hp, mfind, hlt]
      · simp [hp, mfind, hlt, habsent hlt.le]
    · by_cases hp : p k = true
      · simp [hp, mfind]
      · simp [hp, habsent le_rfl]
    · have hfind : ∀ l : SMap α, mfind ((i, v) :: l) k = mfind l k := fun l => by simp [mfind, hgt.not_gt, hgt.ne']
      by_cases hp : p i = true
      · simp [hp, hfind, ih htail]
      · simp [hp, hfind, ih htail]

theorem mget_filter_aclr {m : SMap Word32} (hm : mwf m = true) (w : Body) (r : Nat) {col : Nat} (hcol : col < 256) :
    mget (m.filter fun e => !aclrInside w e.1) 0 (256 * r + col)
      = if bits w 120 113 ≤ col ∧ col ≤ bits w 120 113 + bits w 112 105 then 0 else mget m 0 (256 * r + col) := by
  have hinside : aclrInside w (256 * r + col)
      = decide (bits w 120 113 ≤ col ∧ col ≤ bits w 120 113 + bits w 112 105) := by
    have hmod : (256 * r + col) % 256 = col := by omega
    rw [aclrInside, hmod, Bool.decide_and]
    congr 2
    exact propext Nat.lt_succ_iff
  rw [mget, mfind_filter hm (fun u => !aclrInside w u), hinside]
  by_cases hin : bits w 120 113 ≤ col ∧ col ≤ bits w 120 113 + bits w 112 105
  · simp [hin]
  · simp only [hin, decide_false, Bool.not_false, if_true, if_false, mget]

/-! From the array's start to the end of what it can do. -/

/-- ACLR at the array, which has nothing else to do, computes and stays until it finishes. -/
theorem pump_of_aclr {s t : State} {c : Nat} {j : Job} {d : SMap Word32 × SMap Word32 × SMap (List QSlot)}
    (h : s.ArrayRuns t c j d) (hop : j.op = 0x26) (hstart : j.started = false) (hcomp : j.computed = false)
    (htakes : j.takes = []) (hfail : j.fail = none) :
    ∃ u j', j'.op = 0x26 ∧ s.ArrayRuns u c j' (aclrData j.body d) ∧ t.pump c = u.showArray c false := by
  have h₀ := h.showArray false
  have hbegin : jobBegin (t.showArray c false) c j = (t.showArray c false, j) := by simp [jobBegin, hop]
  have hstep₁ := h₀.coreStep_start hstart (by simp [readsHdr, hop]) hbegin
  have h₁ := ((h₀.setRun { j with started := true }).showArray true)
  have h₁' := h₁.showArray false
  have hpart : ∀ v, jobPart v c { j with started := true }
      = partEnd (v.modCore c (·.cleared j.body)) { j with started := true } := fun v => by
    simp [jobPart, hop, aclrCompute_eq, Done.part]
  have hstep₂ := h₁'.coreStep_last rfl hcomp htakes (by simp [hop]) (hpart _)
  have hacc := h₁'.accessing (.job j.iid)
  have h₂ := (hacc.modCore (f := (·.cleared j.body)) (hacc.rests.cleared _) (Core.disarmAt_cleared ..)
    ((Core.data_cleared ..).trans (congrArg _ hacc.data))).setRun { j with started := true, computed := true, outs := [] }
  rw [dropFeeds_of_nil h₂.rests.feeds] at hstep₂
  refine ⟨_, { j with started := true, computed := true, outs := [] }, hop, h₂, ?_⟩
  have hdone := (h₂.showArray false).coreStep_done rfl rfl rfl hfail
  have hbound : 2 ^ 40 = 1099511627774 + 1 + 1 := by norm_num
  rw [State.pump, h.tidy, hbound, pumpLoop_of_step hstep₁, h₁.tidy, pumpLoop_of_step hstep₂, h₂.tidy, pumpLoop_of_rest hdone]

/-! The issue. -/

/-- The instruction that an ACLR whose range is right becomes. -/
theorem aclrIssue_of_le {s : State} {c : Nat} {w : Body} (h : bit1 w 121 = true ∨ bits w 120 113 + bits w 112 105 ≤ 255) :
    ∃ ws, aclrIssue s c w = .ok { Job.mk0 0x26 w with writes := ws } := by
  unfold aclrIssue
  split
  · exact ⟨_, rfl⟩
  · next hbit =>
    rw [if_neg (by rcases h with h | h; exacts [absurd h hbit, h.not_gt])]
    exact ⟨_, rfl⟩

theorem aclrIssue_of_gt {s : State} {c : Nat} {w : Body} (hbit : bit1 w 121 = false)
    (h : 255 < bits w 120 113 + bits w 112 105) : aclrIssue s c w = .error (plainErr 0x1083) := by
  rw [aclrIssue, hbit, if_neg Bool.false_ne_true, if_pos h]
  rfl

theorem executeWaits_of_units_nil {s : State} {c : Nat} (h : (s.core c).units = []) (reads writes : List Span) :
    s.executeWaits c reads writes = false := by
  simp [State.executeWaits, Core.jobs, h]

theorem core_accessing (s : State) (c : Nat) (key : FeedKey) : (s.accessing c key).core c = { s.core c with now := key } :=
  core_modCore_self ..

theorem still_accessing {s : State} {c : Nat} (h : s.coreStill c = true) (key : FeedKey) :
    (s.accessing c key).coreStill c = true := by
  obtain ⟨-, -, -, -, -, -, hbusy, hcb, hdisarmed⟩ := calm_parts (still_parts h).1
  have hcore := core_accessing s c key
  refine still_of_rests ?_ ?_ hbusy hcb
  · rw [hcore]
    exact { rests_of_still h with }
  · rw [hcore]
    exact hdisarmed

/-- The execute stream of a still core has an instruction that its check refuses halted with the check's error. -/
theorem issueExec_of_error {s : State} {c op : Nat} {w : Body} {e : AccErr} (h : s.coreStill c = true)
    (hissue : execIssue (s.accessing c (.issue .execute)) c op w = .error e) (hasks : e.asks = false) :
    issueExec s c op w = (s.accessing c (.issue .execute)).raiseAt c .execute e := by
  have hunits := (rests_of_still h).units
  simp [issueExec, unit_of_units_nil hunits, executeWaits_of_units_nil hunits, hissue, hasks]

/-- A job as it is issued: with its number, its place in the program and the counters. -/
def State.issuedJob (s : State) (c : Nat) (j : Job) : Job :=
  { j with
    iid := (s.core c).nextIid, index := s.strmIndex c .execute, bank := s.strmBank c .execute
    ctrs := (List.range 8).map fun k => s.cnt c .execute k }

/-- The execute stream of a still core issues an instruction that its check passes to the instruction's unit. -/
theorem issueExec_of_ok {s : State} {c op : Nat} {w : Body} {j : Job} (h : s.coreStill c = true)
    (hissue : execIssue (s.accessing c (.issue .execute)) c op w = .ok j) :
    issueExec s c op w = ((s.accessing c (.issue .execute)).setUnit c ((unitOf op).getD 0)
      ⟨some ((s.accessing c (.issue .execute)).issuedJob c j), none⟩).issued c .execute := by
  have hunits := (rests_of_still h).units
  have hrests := rests_of_still (still_accessing h (.issue .execute))
  simp [issueExec, unit_of_units_nil hunits, executeWaits_of_units_nil hunits, executeWaits_of_units_nil hrests.units, hissue,
    dropFeeds_of_nil hrests.feeds, State.issuedJob]

/-- An instruction that has been put into the array of a core with nothing else under way. -/
theorem arrayRuns_setUnit {s : State} {c : Nat} (h : s.coreStill c = true) (key : FeedKey) (j : Job) :
    s.ArrayRuns ((s.accessing c key).setUnit c 0 ⟨some j, none⟩) c j (s.core c).data := by
  obtain ⟨-, -, -, -, -, -, -, hcb, hdisarmed⟩ := calm_parts (still_parts h).1
  have hrests := rests_of_still h
  have hcore : ((s.accessing c key).setUnit c 0 ⟨some j, none⟩).core c
      = { s.core c with now := key, units := [(0, ⟨some j, none⟩)] } := by
    rw [State.setUnit, core_modCore_self, core_accessing]
    simp [hrests.units, mset]
  refine ⟨?_, ?_, hcb, ?_, ⟨fun _ _ => rfl, sameMemory_refl s⟩, fun k hk => ?_⟩
  · rw [hcore]
    exact { hrests with units := rfl }
  · rw [hcore]
    exact hdisarmed
  · rw [hcore]
    rfl
  · exact (core_setUnit_ne _ _ _ hk).trans (core_modCore_ne _ _ hk)

/-- The stream goes on behind an instruction that the array runs. -/
theorem State.ArrayRuns.issued {s t : State} {c : Nat} {j : Job} {d : SMap Word32 × SMap Word32 × SMap (List QSlot)}
    (h : s.ArrayRuns t c j d) : s.ArrayRuns (t.issued c .execute) c j d := by
  have hcount := h.modCore (f := fun k => { k with nextIid := k.nextIid + 1 }) { h.rests with } rfl h.data
  have hindex := hcount.setFld (.inl rfl) Fld.STRM_STAT_INDEX ((t.strmIndex c .execute + 1) % 2048)
  have hpast := hindex.modCore
    (f := fun k => k.setStrm .execute { k.strm .execute with pastEnd := decide (2048 ≤ t.strmIndex c .execute + 1) })
    { hindex.rests with } rfl hindex.data
  have hfree := hpast.modCore (f := fun k => k.setStrm .execute { k.strm .execute with hold := .free })
    { hpast.rests with eHold := rfl } rfl hpast.data
  exact hfree.setFld (.inl rfl) Fld.STRM_STAT_WAITON 0

/-- What an ACLR whose range is right leaves. -/
theorem pump_issueAclr {s : State} {c : Nat} {w : Body} (h : s.coreStill c = true)
    (hw : bit1 w 121 = true ∨ bits w 120 113 + bits w 112 105 ≤ 255) :
    ∃ t j, j.op = 0x26 ∧ s.ArrayRuns t c j (aclrData w (s.core c).data)
      ∧ (issueEffect s c .execute 0x26 w).pump c = t.showArray c false := by
  obtain ⟨ws, hissue⟩ := aclrIssue_of_le (s := s.accessing c (.issue .execute)) (c := c) hw
  have hexec : issueEffect s c .execute 0x26 w = _ := issueExec_of_ok h hissue
  rw [hexec]
  obtain ⟨t, j, hop, hruns, ht⟩ := pump_of_aclr (arrayRuns_setUnit h (.issue .execute)
    ((s.accessing c (.issue .execute)).issuedJob c { Job.mk0 0x26 w with writes := ws })).issued rfl rfl rfl rfl rfl
  exact ⟨t, j, hop, hruns, ht⟩

/-- An ACLR whose range ends past column 255 halts its core. -/
theorem pump_issueAclr_of_gt {s : State} {c : Nat} {w : Body} (h : s.coreStill c = true) (hc : c < nCores)
    (hbit : bit1 w 121 = false) (hw : 255 < bits w 120 113 + bits w 112 105) :
    haltedBy s ((issueEffect s c .execute 0x26 w).pump c) c .execute 0x1083
      ∧ (((issueEffect s c .execute 0x26 w).pump c).core c).data = (s.core c).data := by
  have hissue : execIssue (s.accessing c (.issue .execute)) c 0x26 w = .error (plainErr 0x1083) 
    := aclrIssue_of_gt (s := s.accessing c (.issue .execute)) (c := c) hbit hw
  have hexec : issueEffect s c .execute 0x26 w = _ := issueExec_of_error h hissue rfl
  obtain ⟨hhalt, hdata⟩ := pump_raiseAt (t := .execute) (e := plainErr 0x1083) (still_accessing h (.issue .execute)) hc rfl
  rw [hexec]
  refine ⟨hhalt, hdata.trans ?_⟩
  rw [core_accessing]
  rfl

/-- Settles O14: the array of a still core starts the ACLR, computes it and then waits for its end; a range past column 255
is refused at issue. -/
theorem aclrClearsColumnsOrSlots : Obligations.AclrClearsColumnsOrSlots := by
  unfold Obligations.AclrClearsColumnsOrSlots
  intro c w s hready hacc _
  have hstill : s.coreStill c.val = true := by
    simp only [State.ready, Bool.and_eq_true] at hready
    exact hready.2
  refine ⟨_, congrArg Host.Outcome.next (issueInstr_of_ready hready),
    fun hbit => ?_, fun hbit hle => ?_, fun hw => ?_, fun hbit hgt => ?_⟩
  · obtain ⟨t, j, -, hruns, ht⟩ := pump_issueAclr hstill (.inl hbit)
    have hdata := (hruns.showArray false).data
    rw [← ht, aclrData, if_pos hbit] at hdata
    have hslots : (((issueEffect s c.val .execute 0x26 w).pump c.val).core c.val).slots = [] := congrArg (·.2.1) hdata
    exact ⟨fun i => by rw [hslots, mget_nil], congrArg Prod.fst hdata⟩
  · obtain ⟨t, j, -, hruns, ht⟩ := pump_issueAclr hstill (.inr hle)
    have hdata := (hruns.showArray false).data
    rw [← ht, aclrData, if_neg (by simp [hbit])] at hdata
    have hacc' : (((issueEffect s c.val .execute 0x26 w).pump c.val).core c.val).acc = _ := congrArg Prod.fst hdata
    refine ⟨congrArg (·.2.1) hdata, fun r _ col hcol => ?_⟩
    rw [hacc']
    exact mget_filter_aclr hacc w r hcol
  · obtain ⟨t, j, hop, hruns, ht⟩ := pump_issueAclr hstill hw
    have hafter := hruns.showArray false
    obtain ⟨hbusy, hmode⟩ := hruns.shows
    rw [hop] at hmode
    rw [ht]
    exact ⟨hafter.frame, hafter.others, hbusy, hmode⟩
  · obtain ⟨hhalt, hdata⟩ := pump_issueAclr_of_gt hstill c.isLt hbit hgt
    exact ⟨hhalt, congrArg Prod.fst hdata, congrArg (·.2.1) hdata⟩

end Sys2Proof.Machine
end

section
/-! PROOFS. Moves of the access stream where a stop is pending (R149, R150): behind the move the stream stops. -/

namespace Sys2Proof.Machine

open Sys2Proof

/-- The access stream of core 0 runs and holds nothing, and a stop is pending for its next boundary. Descriptor 0 names the
sector at offset 0x100 of the core's own scratchpad, pointer 0 an address of rank 3, to which sequence entry 2 is bound; return
queue 4 holds a sector. -/
def stopPending : State :=
  let stream : StreamState :=
    { (Core.reset.strm .access) with
      descs := [(0, BitVec.ofNat 256 (spadAddr 0 0x100))], ptrs := [(0, 0x0003_0000_0000_0040)], stopReq := some 0 }
  { State.reset with
    regs := [(Reg.STRM_STAT 0 0, 2 ^ 30), (Reg.SEQ 0 2, wordSet (wordSet 0 Fld.SEQ_VALID 1) Fld.SEQ_DEV 3),
      (Reg.CLK_EN_ISL, BitVec.allOnes 64)]
    islOwner := [(0, 0)]
    cores := [(0, { Core.reset.setStrm .access stream with queues := [(4, [.filled 7])] })] }

/-- A command leaves the access stream of core 0 stopped. -/
def stopsAfter (i : Instr) (s : State) : Bool :=
  match exec i s with
  | .next t => t.strmState 0 .access == 0
  | _ => false

theorem not_wentTo_of_stopsAfter {i : Instr} {s t : State} (h : stopsAfter i s = true) (ht : exec i s = .next t) (k : Nat) :
    ¬ t.wentTo 0 .access k := by
  rintro ⟨-, -, -, hstate, -⟩
  simp [stopsAfter, ht, hstate] at h

/-- The sequence of the descriptor of `stopPending` lies in the scratchpad of core 0, which answers plainly. -/
theorem stopPending_own : stopPending.spadOpen 0 = true
    ∧ ownSeq 0 (stopPending.desc 0 .access 0 0) (stopPending.desc 0 .access 0 0).total := by
  unfold ownSeq
  decide +kernel

/-- Refutes O9: the statement leaves a pending stop open, and behind an LDQ with a stop pending the stream stops. -/
theorem not_ldqAndLdxFillQueues : ¬ Obligations.LdqAndLdxFillQueues := by
  rintro ⟨hldq, -⟩
  obtain ⟨hopen, hown⟩ := stopPending_own
  have hqueue : stopPending.queue 0 0 = [] := rfl
  have hload := hldq 0 0 stopPending (by decide +kernel) rfl (by decide) (by decide) rfl (by decide +kernel)
    (fun x hx => by
      change x ∈ stopPending.queue 0 0 at hx
      simp [hqueue] at hx)
  obtain ⟨t, ht, -, hwent, -⟩ := hload.1 hopen hown
  have hstops : stopsAfter (.ldq 0 .access 0) stopPending = true := by decide +kernel
  exact not_wentTo_of_stopsAfter hstops ht _ hwent

/-- Refutes O10: the statement leaves a pending stop open, and behind an STQ with a stop pending the stream stops. -/
theorem not_stqStoresQueueSectors : ¬ Obligations.StqStoresQueueSectors := by
  intro hstq
  obtain ⟨hopen, hown⟩ := stopPending_own
  obtain ⟨t, ht, -, -, hwent, -⟩ := hstq 0 0 stopPending (by decide +kernel) rfl rfl (by decide) (by decide) rfl hopen hown
    (by decide) (by decide +kernel) [7] rfl rfl
  have hstops : stopsAfter (.stq 0 .access 0) stopPending = true := by decide +kernel
  exact not_wentTo_of_stopsAfter hstops ht _ hwent

/-- A SEND of descriptor 0 to pointer 0 on LCR. -/
def sendBody : Body := BitVec.ofNat 122 (2 ^ 103)

/-- Refutes O12: the statement leaves a pending stop open, and behind a SEND with a stop pending the stream stops. -/
theorem not_sendLeavesAsMessage : ¬ Obligations.SendLeavesAsMessage := by
  intro hsend
  obtain ⟨hopen, hown⟩ := stopPending_own
  obtain ⟨t, ht, -, -, -, hwent, -⟩ := hsend 0 sendBody stopPending 2 (by decide +kernel) (by decide) (by decide)
    (by decide) rfl (by decide +kernel) (by decide +kernel) (by decide +kernel) (by decide +kernel) hopen hown
    (by decide +kernel)
  have hstops : stopsAfter (.send 0 .access sendBody) stopPending = true := by decide +kernel
  exact not_wentTo_of_stopsAfter hstops ht _ hwent

/-! ENDL with a loop whose index counter is none of C0 to C7. -/

/-- The access stream of core 0 runs at index 0, where the innermost loop's body ends. The frame's index counter is number
3,001, whose place is that of the array's status register, which holds all ones below BUSY. -/
def strayCounter : State :=
  { State.reset with
    regs := [(Reg.STRM_STAT 0 0, 2 ^ 30), (Reg.ARRAY_STAT 0, 2 ^ 31 - 1)]
    cores := [(0, Core.reset.setStrm .access { (Core.reset.strm .access) with loops := [⟨0, 0, 2, 3001⟩] })] }

/-- Refutes O4: the statement leaves a loop's index counter unbounded. Where counting the iteration sets BUSY of an array that
runs nothing, BUSY is cleared again, and the counter with it. -/
theorem not_loopsOpenBranchBackAndClose : ¬ Obligations.LoopsOpenBranchBackAndClose := by
  rintro ⟨-, hendl⟩
  obtain ⟨t, ht, hcount⟩ := hendl 0 .access 0 strayCounter (by decide +kernel)
  have hcounted : (match exec (.endl 0 .access 0) strayCounter with
      | .next u => u.cnt 0 .access 3001 == 0
      | _ => false) = true := by decide +kernel
  have hone := (hcount.2 (by decide +kernel)).1 (by decide)
  have hbefore : strayCounter.cnt 0 .access 3001 = 2 ^ 31 - 1 := by decide +kernel
  rw [ht] at hcounted
  have hzero : t.cnt 0 .access 3001 = 0 := by simpa using hcounted
  change t.cnt 0 .access 3001 = (strayCounter.cnt 0 .access 3001 + 1) % 2 ^ 32 at hone
  omega

end Sys2Proof.Machine
end

section
/-! PROOFS. What an issue refuses (R127, R143). -/

namespace Sys2Proof.Machine

open Sys2Proof

/-- A stream's instruction, given by a command, is issued (R127). -/
theorem exec_of_mem_instrs {p : Nat × (CoreId → Strm → Body → Instr)} (h : p ∈ streamInstrs ++ executeInstrs) (c : CoreId)
    (t : Strm) (w : Body) (s : State) : exec (p.2 c t w) s = .next (issueInstr s c.val t p.1 w) := by
  fin_cases h <;> rfl

/-- A still core is halted by a plain error of the instruction that a stream is issuing. -/
theorem haltedBy_raiseAt {s : State} {c : CoreId} (h : s.coreStill c.val = true) (t : Strm) (code : Nat) :
    haltedBy s ((s.raiseAt c.val t (plainErr code)).pump c.val) c.val t code :=
  (pump_raiseAt h c.isLt rfl).1

/-- Settles O15: the checks of an issue come one after the other, and each that fails raises its error on a still core. -/
theorem issueRefusesWrongInstructions : Obligations.IssueRefusesWrongInstructions := by
  intro p hp c t w s hissue hstill
  refine ⟨_, exec_of_mem_instrs hp c t w s, fun hpast => ?_, fun hpast hop => ?_, fun hpast hop hbits => ?_⟩
  · have hraise : issueInstr s c.val t p.1 w = (s.raiseAt c.val t (plainErr (strmCode t 0x09))).pump c.val := by
      simp [issueInstr, hissue, hpast]
    rw [hraise]
    exact haltedBy_raiseAt hstill t _
  · have hraise : issueInstr s c.val t p.1 w = (s.raiseAt c.val t (plainErr (strmCode t 0x04))).pump c.val := by
      simp [issueInstr, hissue, hpast, hop]
    rw [hraise]
    exact haltedBy_raiseAt hstill t _
  · have hraise : issueInstr s c.val t p.1 w = (s.raiseAt c.val t (fieldErr t)).pump c.val := by
      simp [issueInstr, hissue, hpast, hop, hbits]
    rw [hraise]
    exact haltedBy_raiseAt hstill t _

end Sys2Proof.Machine
end

section
/-! PROOFS. A stream that goes on or holds, on a core where nothing else moves (R121, R143, R150). -/

namespace Sys2Proof.Machine

open Sys2Proof

/-! States that differ in one stream of a core. -/

@[simp] theorem Core.setStrm_strm (k : Core) (t : Strm) : k.setStrm t (k.strm t) = k := by cases t <;> rfl

@[simp] theorem Core.setStrm_setStrm (k : Core) (t : Strm) (x y : StreamState) :
    (k.setStrm t x).setStrm t y = k.setStrm t y := by cases t <;> rfl

/-- Of the cores only stream `t` of core `c`, which is `x`, and the number of the core's next instruction are not as in `s`; of
the registers and memories only the registers listed. -/
structure State.OnStream (s u : State) (c : Nat) (t : Strm) (x : StreamState) (as : List Nat) : Prop where
  core : ∃ n, u.core c = { (s.core c).setStrm t x with nextIid := n }
  frame : framed s u as
  others : sameCoresBut s u c

theorem State.OnStream.refl (s : State) (c : Nat) (t : Strm) (as : List Nat) : s.OnStream s c t (s.strm c t) as where
  core := ⟨(s.core c).nextIid, by rw [State.strm, Core.setStrm_strm]⟩
  frame := ⟨fun _ _ => rfl, sameMemory_refl s⟩
  others := fun _ _ => rfl

section
variable {s u : State} {c : Nat} {t : Strm} {x : StreamState} {as : List Nat}

theorem State.OnStream.setReg (h : s.OnStream u c t x as) {a : Nat} (ha : a ∈ as) (v : Word) :
    s.OnStream (u.setReg a v) c t x as where
  core := h.core
  frame := ⟨fun b hb => (reg_setReg_ne u v fun e => hb (by rw [e]; exact ha)).trans (h.frame.1 b hb), h.frame.2⟩
  others := h.others

theorem State.OnStream.setFld (h : s.OnStream u c t x as) {a : Nat} (ha : a ∈ as) (f : FieldPos) (v : Nat) :
    s.OnStream (u.setFld a f v) c t x as := h.setReg ha _

theorem State.OnStream.modStrm (h : s.OnStream u c t x as) (f : StreamState → StreamState) :
    s.OnStream (u.modStrm c t f) c t (f x) as where
  core := by
    obtain ⟨n, hcore⟩ := h.core
    refine ⟨n, ?_⟩
    rw [State.modStrm, core_modCore_self, hcore]
    cases t <;> rfl
  frame := h.frame
  others := fun k hk => (core_modStrm_ne u t f hk).trans (h.others k hk)

theorem State.OnStream.count (h : s.OnStream u c t x as) :
    s.OnStream (u.modCore c fun k => { k with nextIid := k.nextIid + 1 }) c t x as where
  core := by
    obtain ⟨n, hcore⟩ := h.core
    exact ⟨n + 1, by rw [core_modCore_self, hcore]⟩
  frame := h.frame
  others := fun k hk => (core_modCore_ne u _ hk).trans (h.others k hk)

theorem State.OnStream.setLoops (h : s.OnStream u c t x as) (ha : Reg.STRM_STAT c (sidx t) ∈ as) (l : List LoopFrame) :
    s.OnStream (u.setLoops c t l) c t { x with loops := l } as := (h.modStrm fun x => { x with loops := l }).setFld ha _ _

theorem State.OnStream.goTo (h : s.OnStream u c t x as) (ha : Reg.STRM_STAT c (sidx t) ∈ as) (i : Nat) :
    s.OnStream (u.goTo c t i) c t { x with pastEnd := decide (2048 ≤ i) } as :=
  (h.setFld ha _ _).modStrm fun x => { x with pastEnd := decide (2048 ≤ i) }

theorem State.OnStream.issuedTo (h : s.OnStream u c t x as) (ha : Reg.STRM_STAT c (sidx t) ∈ as) (i : Nat) :
    s.OnStream (u.issuedTo c t i) c t { x with pastEnd := decide (2048 ≤ i), hold := .free } as :=
  ((h.count.goTo ha i).modStrm _).setFld ha _ _

theorem State.OnStream.holdIssue (h : s.OnStream u c t x as) (ha : Reg.STRM_STAT c (sidx t) ∈ as) (op : Nat) (w : Body)
    (on : Nat) : s.OnStream (u.holdIssue c t op w on) c t { x with hold := .issue op w } as := (h.modStrm _).setFld ha _ _

theorem State.OnStream.issuedHolding (h : s.OnStream u c t x as) (ha : Reg.STRM_STAT c (sidx t) ∈ as) (k : Hold) (on : Nat) :
    s.OnStream (u.issuedHolding c t k on) c t
      { x with pastEnd := decide (2048 ≤ u.strmIndex c t + 1), hold := k } as :=
  ((h.count.goTo ha _).modStrm _).setFld ha _ _

theorem State.OnStream.strm (h : s.OnStream u c t x as) : u.strm c t = x := by
  obtain ⟨n, hcore⟩ := h.core
  rw [State.strm, hcore]
  cases t <;> rfl

theorem State.OnStream.queues (h : s.OnStream u c t x as) : (u.core c).queues = (s.core c).queues := by
  obtain ⟨n, hcore⟩ := h.core
  rw [hcore]
  cases t <;> rfl

/-! Such a state at rest. -/

/-- Neither of the two registers that tell whether the core's array and combine unit work is among those listed. -/
def sparesUnits (c : Nat) (as : List Nat) : Prop := Reg.ARRAY_STAT c ∉ as ∧ Reg.CB_CFG c ∉ as

theorem State.OnStream.flags (h : s.OnStream u c t x as) (has : sparesUnits c as) (hs : s.coreStill c = true) :
    u.flag (Reg.ARRAY_STAT c) Fld.ARRAY_STAT_BUSY = false ∧ u.flag (Reg.CB_CFG c) Fld.CB_CFG_EN = false := by
  obtain ⟨hcalm, -⟩ := still_parts hs
  obtain ⟨-, -, -, -, -, -, hbusy, hcomb, -⟩ := calm_parts hcalm
  simp only [State.flag, State.fld, h.frame.1 _ has.1, h.frame.1 _ has.2] at hbusy hcomb ⊢
  exact ⟨hbusy, hcomb⟩

theorem State.OnStream.still (h : s.OnStream u c t x as) (has : sparesUnits c as) (hs : s.coreStill c = true)
    (hhold : x.hold.settled = true) (hstep : x.stepping = false) : u.coreStill c = true := by
  obtain ⟨n, hcore⟩ := h.core
  obtain ⟨hcalm, -⟩ := still_parts hs
  obtain ⟨-, -, -, -, -, -, -, -, hdisarm⟩ := calm_parts hcalm
  have hrests := rests_of_still hs
  obtain ⟨hbusy, hcomb⟩ := h.flags has hs
  refine still_of_rests ?_ ?_ hbusy hcomb
  · rw [hcore]
    cases t
    · exact { hrests with aHold := hhold, aStep := hstep }
    · exact { hrests with eHold := hhold, eStep := hstep }
  · rw [hcore]
    cases t <;> exact hdisarm

theorem State.OnStream.pump (h : s.OnStream u c t x as) (has : sparesUnits c as) (hs : s.coreStill c = true)
    (hhold : x.hold.settled = true) (hstep : x.stepping = false) : u.pump c = u :=
  pump_of_still (h.still has hs hhold hstep)

/-- The stream of a still core holds an instruction that would only be held again. -/
theorem State.OnStream.pump_holding (h : s.OnStream u c t x as) (has : sparesUnits c as) (hs : s.coreStill c = true)
    {op : Nat} {w : Body} (hhold : x.hold = .issue op w) (hstep : x.stepping = false)
    (hagain : ((issueEffect u c t op w).strm c t).hold = .issue op w)
    (hfeeds : ((issueEffect u c t op w).core c).feeds = []) : u.pump c = u := by
  obtain ⟨n, hcore⟩ := h.core
  obtain ⟨hcalm, -⟩ := still_parts hs
  obtain ⟨-, -, -, -, -, -, -, -, hdisarm⟩ := calm_parts hcalm
  have hrests := rests_of_still hs
  obtain ⟨hbusy, hcomb⟩ := h.flags has hs
  have hunits : (u.core c).units = [] := by rw [hcore]; cases t <;> exact hrests.units
  have hflights : (u.core c).flights = [] := by rw [hcore]; cases t <;> exact hrests.flights
  have hnofeeds : (u.core c).feeds = [] := by rw [hcore]; cases t <;> exact hrests.feeds
  have hdis : (u.core c).disarmAt = none := by rw [hcore]; cases t <;> exact hdisarm
  have hsteps : ∀ y, (u.strm c y).stepping = false := by
    intro y
    rw [State.strm, hcore]
    cases t <;> cases y <;> first | exact hstep | exact hrests.aStep | exact hrests.eStep
  have hunit : ∀ n, u.unit c n = ⟨none, none⟩ := unit_of_units_nil hunits
  have htidy : u.tidy c = u := by
    have hshow : u.showArray c false = u := by simp [State.showArray, hunit, hbusy]
    have hepochs : u.epochs c = u := by simp [State.epochs, hcomb]
    have htidyStep : ∀ y, u.tidyStep c y = u := fun y => by simp [State.tidyStep, hsteps y]
    rw [State.tidy, tidyFlights_of_nil hflights, tidyPred_of_none hdis, hshow, hepochs, htidyStep, htidyStep]
  have hself : strmStep u c t = none := by
    rw [strmStep, h.strm, hhold]
    simp [hagain, hfeeds, hnofeeds]
  have hother : strmStep u c (otherStrm t) = none := by
    refine strmStep_of_settled ?_
    rw [State.strm, hcore]
    cases t
    · exact hrests.eHold
    · exact hrests.aHold
  have hunitSteps : ((List.range 5).findSome? fun n => unitStep u c n) = none :=
    List.findSome?_eq_none_iff.mpr fun n _ => by simp [unitStep, hunit]
  refine pump_of_rest htidy ?_
  rw [coreStep, hunitSteps]
  cases t
  · simp only [hself]
    exact hother
  · have haccess : strmStep u c .access = none := hother
    simp only [haccess]
    exact hself

end

/-! Where a stream stands after an issue. -/

/-- Fields of STRM_STAT other than INDEX and WAITON. -/
def keptFld (f : FieldPos) : Prop :=
  (f.lo + f.width ≤ Fld.STRM_STAT_INDEX.lo ∨ Fld.STRM_STAT_INDEX.lo + Fld.STRM_STAT_INDEX.width ≤ f.lo)
    ∧ (f.lo + f.width ≤ Fld.STRM_STAT_WAITON.lo ∨ Fld.STRM_STAT_WAITON.lo + Fld.STRM_STAT_WAITON.width ≤ f.lo)

theorem fld_setWaitOn_kept (s : State) (c : Nat) (t : Strm) (v : Nat) (a : Nat) {f : FieldPos} (hf : keptFld f) :
    (s.setWaitOn c t v).fld a f = s.fld a f := fld_setFld_apart _ _ _ _ _ _ (by decide) hf.2

theorem fld_goTo_kept (s : State) (c : Nat) (t : Strm) (i a : Nat) {f : FieldPos} (hf : keptFld f) :
    (s.goTo c t i).fld a f = s.fld a f :=
  (fld_modStrm ..).trans (fld_setFld_apart _ _ _ _ _ _ (by decide) hf.1)

theorem fld_issuedTo_kept (s : State) (c : Nat) (t : Strm) (i a : Nat) {f : FieldPos} (hf : keptFld f) :
    (s.issuedTo c t i).fld a f = s.fld a f :=
  (fld_setWaitOn_kept _ _ _ _ _ hf).trans <| (fld_modStrm ..).trans <| (fld_goTo_kept _ _ _ _ _ hf).trans (fld_modCore ..)

theorem reg_issuedTo_ne (s : State) (c : Nat) (t : Strm) (i : Nat) {a : Nat} (h : a ≠ Reg.STRM_STAT c (sidx t)) :
    (s.issuedTo c t i).reg a = s.reg a :=
  (reg_setFld_ne _ _ _ h).trans <| (reg_modStrm ..).trans <| (reg_modStrm ..).trans <| (reg_setFld_ne _ _ _ h).trans
    (reg_modCore ..)

theorem reg_holdIssue_ne (s : State) (c : Nat) (t : Strm) (op : Nat) (w : Body) (on : Nat) {a : Nat}
    (h : a ≠ Reg.STRM_STAT c (sidx t)) : (s.holdIssue c t op w on).reg a = s.reg a :=
  (reg_setFld_ne _ _ _ h).trans (reg_modStrm ..)

theorem keptFld_state : keptFld Fld.STRM_STAT_STATE := by unfold keptFld; decide
theorem keptFld_depth : keptFld Fld.STRM_STAT_DEPTH := by unfold keptFld; decide

/-- STATE, behind a change of DEPTH. -/
theorem strmState_setLoops (s : State) (c : Nat) (t : Strm) (l : List LoopFrame) :
    (s.setLoops c t l).strmState c t = s.strmState c t :=
  (fld_setFld_apart _ _ _ _ _ _ (by decide) (by decide)).trans (fld_modStrm ..)

theorem strmIndex_setLoops (s : State) (c : Nat) (t : Strm) (l : List LoopFrame) :
    (s.setLoops c t l).strmIndex c t = s.strmIndex c t :=
  (fld_setFld_apart _ _ _ _ _ _ (by decide) (by decide)).trans (fld_modStrm ..)

theorem strmState_setReg_ne (s : State) {a : Nat} (v : Word) {c : Nat} {t : Strm} (h : Reg.STRM_STAT c (sidx t) ≠ a) :
    (s.setReg a v).strmState c t = s.strmState c t := fld_setReg_ne _ _ _ h

theorem strmIndex_setReg_ne (s : State) {a : Nat} (v : Word) {c : Nat} {t : Strm} (h : Reg.STRM_STAT c (sidx t) ≠ a) :
    (s.setReg a v).strmIndex c t = s.strmIndex c t := fld_setReg_ne _ _ _ h

theorem index_goTo (s : State) (c : Nat) (t : Strm) (i : Nat) :
    (s.goTo c t i).fld (Reg.STRM_STAT c (sidx t)) Fld.STRM_STAT_INDEX = i % 2048 :=
  (fld_modStrm ..).trans <| (fld_setFld_self _ _ _ _ (by decide)).trans (Nat.mod_eq_of_lt (Nat.mod_lt _ (by decide)))

theorem wentTo_issuedTo {s : State} {c : Nat} {t : Strm} (h : s.strmState c t = 1) (i : Nat) :
    (s.issuedTo c t i).wentTo c t i := by
  have hstrm : (s.issuedTo c t i).strm c t = { s.strm c t with pastEnd := decide (2048 ≤ i), hold := .free } :=
    ((State.OnStream.refl s c t [Reg.STRM_STAT c (sidx t)]).issuedTo (by simp) i).strm
  refine ⟨?_, by rw [hstrm], by rw [hstrm], ?_, ?_⟩
  · exact (fld_setFld_apart _ _ _ _ _ _ (by decide) (by decide)).trans <| (fld_modStrm ..).trans (index_goTo _ _ _ _)
  · exact (fld_issuedTo_kept _ _ _ _ _ keptFld_state).trans h
  · exact fld_setFld_self _ _ _ _ (by decide)

theorem holdsOn_setWaitOn {s : State} {c : Nat} {t : Strm} {k : Hold} {on : Nat} (h : s.strmState c t = 1)
    (hhold : (s.strm c t).hold = k) (hon : on < 16) : (s.setWaitOn c t on).holdsOn c t k on := by
  refine ⟨hhold, (fld_setWaitOn_kept _ _ _ _ _ keptFld_state).trans h, ?_⟩
  exact (fld_setFld_self _ _ _ _ (by decide)).trans (Nat.mod_eq_of_lt hon)

theorem holdsOn_holdIssue {s : State} {c : Nat} {t : Strm} (h : s.strmState c t = 1) (op : Nat) (w : Body) {on : Nat}
    (hon : on < 16) : (s.holdIssue c t op w on).holdsOn c t (.issue op w) on :=
  holdsOn_setWaitOn h (by rw [strm_modStrm_self]) hon

theorem holdsOn_issuedHolding {s : State} {c : Nat} {t : Strm} (h : s.strmState c t = 1) (k : Hold) {on : Nat}
    (hon : on < 16) : (s.issuedHolding c t k on).holdsOn c t k on :=
  holdsOn_setWaitOn ((fld_goTo_kept _ _ _ _ _ keptFld_state).trans h) (by rw [strm_modStrm_self]) hon

/-! A stream that may issue. -/

theorem ready_parts {s : State} {c : Nat} {t : Strm} {op : Nat} {w : Body} (h : s.ready c t op w = true) :
    s.strmState c t = 1 ∧ (s.strm c t).hold = .free ∧ (s.strm c t).stepping = false ∧ s.coreStill c = true := by
  simp only [State.ready, State.canIssue, Bool.and_eq_true, beq_iff_eq, Bool.not_eq_true'] at h
  obtain ⟨⟨⟨⟨⟨⟨⟨hstate, hhold⟩, hstep⟩, -⟩, -⟩, -⟩, -⟩, hstill⟩ := h
  exact ⟨hstate, hhold, hstep, hstill⟩

theorem exec_of_ready {p : Nat × (CoreId → Strm → Body → Instr)} (hp : p ∈ streamInstrs ++ executeInstrs) {s : State}
    {c : CoreId} {t : Strm} {w : Body} (h : s.ready c.val t p.1 w = true) :
    exec (p.2 c t w) s = .next ((issueEffect s c.val t p.1 w).pump c.val) := by
  rw [exec_of_mem_instrs hp, issueInstr_of_ready h]

end Sys2Proof.Machine
end

section
/-! PROOFS. HALT stops its stream, swaps its bank, or waits (R143, R146). -/

namespace Sys2Proof.Machine

open Sys2Proof

/-! Registers of a stream lie apart from those of the units. -/

theorem sidx_le (t : Strm) : sidx t ≤ 1 := by cases t <;> decide

theorem arrayStat_ne_strmStat (c : Nat) (t : Strm) : Reg.ARRAY_STAT c ≠ Reg.STRM_STAT c (sidx t) := by
  have := sidx_le t
  unfold Reg.ARRAY_STAT Reg.STRM_STAT
  omega

theorem cbCfg_ne_strmStat_of (c : Nat) (t : Strm) : Reg.CB_CFG c ≠ Reg.STRM_STAT c (sidx t) := by
  have := sidx_le t
  unfold Reg.CB_CFG Reg.STRM_STAT
  omega

/-! `stopStream` on any core. -/

/-- What the memories hold. -/
def State.memories (s : State) : Mem × Mem × Mem × Mem × Mem × Mem := (s.near, s.reach, s.hostMem, s.flash, s.bootBuf, s.spad)

theorem sameMemory_of_memories {s t : State} (h : t.memories = s.memories) : sameMemory s t := by
  simp only [State.memories, Prod.mk.injEq] at h
  obtain ⟨hnear, hreach, hhost, hflash, hboot, hspad⟩ := h
  exact ⟨fun a => by rw [hnear, hreach, hhost, hflash, hboot]; exact ⟨rfl, rfl, rfl, rfl, rfl⟩, fun a => by rw [hspad]⟩

@[simp] theorem memories_modCore (s : State) (c : Nat) (f : Core → Core) : (s.modCore c f).memories = s.memories := (rfl)
@[simp] theorem memories_setReg (s : State) (a : Nat) (v : Word) : (s.setReg a v).memories = s.memories := (rfl)

theorem memories_stopStream (s : State) (c : Nat) (t : Strm) (st : Nat) : (s.stopStream c t st).memories = s.memories := by
  unfold State.stopStream
  extract_lets who gone s₁ s₂ s₃ s₄
  have h₂ : s₂.memories = s.memories := by simp only [s₂, apply_ite State.memories, memories_modCore, ite_self]; rfl
  have h₄ : s₄.memories = s.memories := by simp only [s₄, apply_ite State.memories, memories_modCore, ite_self]; exact h₂
  exact h₄

theorem framed_stopStream (s : State) (c : Nat) (t : Strm) (st : Nat) :
    framed s (s.stopStream c t st) [Reg.STRM_STAT c (sidx t)] :=
  ⟨fun a ha => reg_stopStream_ne s c t st (by simpa using ha), sameMemory_of_memories (memories_stopStream s c t st)⟩

theorem core_stopStream_ne (s : State) {c k : Nat} (t : Strm) (st : Nat) (h : k ≠ c) :
    (s.stopStream c t st).core k = s.core k := by
  have hmod : ∀ (u : State) (f : Core → Core), (u.modCore c f).core k = u.core k := fun u f => core_modCore_ne u f h
  unfold State.stopStream
  extract_lets who gone s₁ s₂ s₃ s₄
  have h₂ : s₂.core k = s₁.core k := by
    simp only [s₂, apply_ite (fun x => State.core x k), hmod, ite_self]
  have h₄ : s₄.core k = s₃.core k := by
    simp only [s₄, apply_ite (fun x => State.core x k), hmod, ite_self]
  exact h₄.trans (h₂.trans (core_modStrm_ne s t _ h))

theorem queues_stopStream (s : State) (c : Nat) (t : Strm) (st : Nat) :
    ((s.stopStream c t st).core c).queues = (s.core c).queues := by
  unfold State.stopStream
  extract_lets who gone s₁ s₂ s₃ s₄
  have h₂ : (s₂.core c).queues = (s₁.core c).queues := by
    simp only [s₂, apply_ite (fun x => (State.core x c).queues), core_modCore_self, ite_self]
  have h₄ : (s₄.core c).queues = (s₃.core c).queues := by
    simp only [s₄, apply_ite (fun x => (State.core x c).queues), core_modCore_self, ite_self]
  exact h₄.trans (h₂.trans (core_modStrm_units s c t _).2.2.2.1)

/-- Fields of STRM_STAT other than WAITON and STATE, and those of every other register, are as they were. -/
theorem fld_stopStream_kept (s : State) (c : Nat) (t : Strm) (st a : Nat) {f : FieldPos}
    (hwait : f.lo + f.width ≤ Fld.STRM_STAT_WAITON.lo ∨ Fld.STRM_STAT_WAITON.lo + Fld.STRM_STAT_WAITON.width ≤ f.lo)
    (hstate : f.lo + f.width ≤ Fld.STRM_STAT_STATE.lo ∨ Fld.STRM_STAT_STATE.lo + Fld.STRM_STAT_STATE.width ≤ f.lo) :
    (s.stopStream c t st).fld a f = s.fld a f := by
  unfold State.stopStream
  extract_lets who gone s₁ s₂ s₃ s₄
  have h₂ : s₂.regs = s.regs := by simp only [s₂, apply_ite State.regs, regs_modCore, ite_self]; rfl
  have h₄ : s₄.regs = s.regs := by simp only [s₄, apply_ite State.regs, regs_modCore, ite_self]; exact h₂
  exact (fld_setFld_apart _ _ _ _ _ _ (by decide) hstate).trans <|
    (fld_setFld_apart _ _ _ _ _ _ (by decide) hwait).trans (fld_of_regs h₄ a f)

/-! `tidyPred` on any core. -/

theorem tidyPred_cases (s : State) (c : Nat) :
    s.tidyPred c = s ∨ s.tidyPred c
      = ((s.modCore c fun k => { k with pred := none }).setReg (Reg.PRED_STAT c) 0).modCore c
          fun k => { k with disarmAt := none } := by
  rw [← disarmPred_eq]
  unfold State.tidyPred
  split
  · exact .inl rfl
  · dsimp only
    split
    · exact .inl rfl
    · exact .inr rfl

theorem framed_tidyPred (s : State) (c : Nat) : framed s (s.tidyPred c) [Reg.PRED_STAT c] := by
  rcases tidyPred_cases s c with h | h
  · rw [h]
    exact ⟨fun _ _ => rfl, sameMemory_refl s⟩
  · rw [h]
    exact ⟨fun b hb => reg_setReg_ne _ _ (by simpa using hb), sameMemory_refl s⟩

theorem core_tidyPred_ne (s : State) {c k : Nat} (h : k ≠ c) : (s.tidyPred c).core k = s.core k := by
  rcases tidyPred_cases s c with e | e
  · rw [e]
  · rw [e, core_modCore_ne _ _ h, core_setReg, core_modCore_ne _ _ h]

theorem queues_tidyPred (s : State) (c : Nat) : ((s.tidyPred c).core c).queues = (s.core c).queues := by
  rcases tidyPred_cases s c with e | e
  · rw [e]
  · rw [e, core_modCore_self, core_setReg, core_modCore_self]

theorem strm_tidyPred (s : State) (c : Nat) (t : Strm) : (s.tidyPred c).strm c t = s.strm c t := by
  rcases tidyPred_cases s c with e | e
  · rw [e]
  · rw [e, State.strm, core_modCore_self, core_setReg, core_modCore_self]
    cases t <;> rfl

theorem framed_trans {s t u : State} {as bs : List Nat} (h : framed s t as) (h' : framed t u bs) : framed s u (as ++ bs) := by
  obtain ⟨hregs, hfar, hspad⟩ := h
  obtain ⟨hregs', hfar', hspad'⟩ := h'
  refine ⟨fun a ha => ?_, fun a => ?_, fun a => (hspad' a).trans (hspad a)⟩
  · rw [List.mem_append, not_or] at ha
    rw [hregs' a ha.2, hregs a ha.1]
  · obtain ⟨h₁, h₂, h₃, h₄, h₅⟩ := hfar a
    obtain ⟨h₁', h₂', h₃', h₄', h₅'⟩ := hfar' a
    exact ⟨h₁'.trans h₁, h₂'.trans h₂, h₃'.trans h₃, h₄'.trans h₄, h₅'.trans h₅⟩

theorem framed_mono {s t : State} {as bs : List Nat} (h : framed s t as) (hs : as ⊆ bs) : framed s t bs :=
  ⟨fun a ha => h.1 a fun hm => ha (hs hm), h.2⟩

/-! A still core whose stream stops by itself. -/

/-- A core that holds `x` as its stream `t` once it has stopped in state 2. -/
theorem Core.strm_stopped (k : Core) (t : Strm) (st : Nat) :
    (k.stopped t st).strm t
      = { k.strm t with hold := .free, stopReq := none, stepping := (k.strm t).stepping && st == 2 } := by
  rw [Core.stopped]
  cases t <;> split <;> rfl

section
variable {s u : State} {c : Nat} {t : Strm} {x : StreamState} {as : List Nat}

theorem State.OnStream.rests (h : s.OnStream u c t x as) (hs : s.coreStill c = true) (hhold : x.hold.settled = true)
    (hstep : x.stepping = false) : (u.core c).Rests [] ∧ (u.core c).disarmAt = none := by
  obtain ⟨n, hcore⟩ := h.core
  obtain ⟨hcalm, -⟩ := still_parts hs
  obtain ⟨-, -, -, -, -, -, -, -, hdisarm⟩ := calm_parts hcalm
  have hrests := rests_of_still hs
  rw [hcore]
  cases t
  · exact ⟨{ hrests with aHold := hhold, aStep := hstep }, hdisarm⟩
  · exact ⟨{ hrests with eHold := hhold, eStep := hstep }, hdisarm⟩

/-- Behind a stop in state 2 a predicted map is all that is left to go (R116). -/
theorem State.OnStream.pump_stop (h : s.OnStream u c t x as) (has : sparesUnits c as) (hs : s.coreStill c = true)
    (hhold : x.hold.settled = true) (hstep : x.stepping = false) :
    (u.stopStream c t 2).pump c = (u.stopStream c t 2).tidyPred c := by
  obtain ⟨hrests, hdisarm⟩ := h.rests hs hhold hstep
  have hcore := core_stopStream hrests.feeds t 2
  have hstepped : ((u.core c).strm t).stepping = false := by
    cases t
    · exact hrests.aStep
    · exact hrests.eStep
  have hstopped : ((u.core c).stopped t 2).Rests [] := by
    have hset : ((u.core c).setStrm t { (u.core c).strm t with
        hold := .free, stopReq := none, stepping := ((u.core c).strm t).stepping && 2 == 2 }).Rests [] := by
      cases t
      · exact { hrests with aHold := rfl, aStep := by simpa [Core.setStrm] using hstepped }
      · exact { hrests with eHold := rfl, eStep := by simpa [Core.setStrm] using hstepped }
    rw [Core.stopped]
    dsimp only
    split
    · exact { hset with }
    · exact hset
  have hidle : (u.stopStream c t 2).core c = (u.core c).stopped t 2 := hcore
  have hunits : ((u.stopStream c t 2).core c).units = [] := by rw [hidle]; exact hstopped.units
  have hpred : ((u.stopStream c t 2).core c).pred = none := by rw [hidle]; exact hstopped.pred
  have hflights : ((u.stopStream c t 2).core c).flights = [] := by rw [hidle]; exact hstopped.flights
  obtain ⟨hbusy, hcomb⟩ := h.flags has hs
  have hreg : ∀ b, b ≠ Reg.STRM_STAT c (sidx t) → b ≠ Reg.PRED_STAT c →
      ((u.stopStream c t 2).tidyPred c).reg b = u.reg b := fun b hb hb' =>
    (reg_tidyPred_ne hunits hb').trans (reg_stopStream_ne u c t 2 hb)
  have harray := hreg (Reg.ARRAY_STAT c) (arrayStat_ne_strmStat c t)
    (by unfold Reg.ARRAY_STAT Reg.PRED_STAT; omega)
  have hcfg := hreg (Reg.CB_CFG c) (cbCfg_ne_strmStat_of c t)
    (by unfold Reg.CB_CFG Reg.PRED_STAT; omega)
  refine pump_eq_tidyPred hflights (still_of_rests ?_ ?_ ?_ ?_)
  · rw [core_tidyPred hunits hpred, hidle]
    exact { hstopped with }
  · rw [core_tidyPred hunits hpred]
  · rw [State.flag, State.fld, harray]
    exact hbusy
  · rw [State.flag, State.fld, hcfg]
    exact hcomb

end

/-! The three ways of HALT. -/

section
variable {s u : State} {c : Nat} {t : Strm} {x : StreamState} {as : List Nat}

theorem State.OnStream.bankReady (h : s.OnStream u c t x as) (hload : x.load = (s.strm c t).load)
    (ha : Reg.IMEM_LD_STAT c (sidx t) ∉ as) (b : Nat) : u.bankReady c t b = s.bankReady c t b := by
  simp only [State.bankReady, State.flag, State.fld, h.frame.1 _ ha, h.strm, hload]

theorem haltRegs_spareUnits (c : Nat) (t : Strm) :
    sparesUnits c [Reg.STRM_STAT c (sidx t), Reg.STRM_CTL c (sidx t)] := by
  have := sidx_le t
  simp only [sparesUnits, List.mem_cons, List.not_mem_nil, or_false, not_or]
  unfold Reg.ARRAY_STAT Reg.CB_CFG Reg.STRM_STAT Reg.STRM_CTL
  omega

theorem imemLdStat_not_mem_haltRegs (c : Nat) (t : Strm) :
    Reg.IMEM_LD_STAT c (sidx t) ∉ [Reg.STRM_STAT c (sidx t), Reg.STRM_CTL c (sidx t)] := by
  simp only [List.mem_cons, List.not_mem_nil, or_false, not_or]
  unfold Reg.IMEM_LD_STAT Reg.STRM_STAT Reg.STRM_CTL
  omega

theorem strmCtl_ne_strmStat (c : Nat) (t : Strm) : Reg.STRM_CTL c (sidx t) ≠ Reg.STRM_STAT c (sidx t) := by
  unfold Reg.STRM_CTL Reg.STRM_STAT
  omega

theorem strmBank_lt (s : State) (c : Nat) (t : Strm) : s.strmBank c t < 2 := wordFld_lt _ Fld.STRM_CTL_ABANK

theorem depth_setLoops_nil (s : State) (c : Nat) (t : Strm) :
    (s.setLoops c t []).fld (Reg.STRM_STAT c (sidx t)) Fld.STRM_STAT_DEPTH = 0 := fld_setFld_self _ _ _ _ (by decide)

end

/-- What HALT leaves of stream `t` of core `c`, as O3 states it for each of its ways. -/
structure State.Halted (s u : State) (c : Nat) (t : Strm) (as : List Nat) : Prop where
  loops : (u.strm c t).loops = []
  depth : u.fld (Reg.STRM_STAT c (sidx t)) Fld.STRM_STAT_DEPTH = 0
  frame : framed s u as
  others : sameCoresBut s u c
  queues : (u.core c).queues = (s.core c).queues

section
variable {s : State} {c : Nat} {t : Strm} {w : Body}

theorem State.OnStream.halted {u : State} {x : StreamState} {as : List Nat} (h : s.OnStream u c t x as)
    (hloops : x.loops = []) (hdepth : u.fld (Reg.STRM_STAT c (sidx t)) Fld.STRM_STAT_DEPTH = 0) : s.Halted u c t as where
  loops := h.strm ▸ hloops
  depth := hdepth
  frame := h.frame
  others := h.others
  queues := h.queues

/-- SWAP 1 with the other bank ready. -/
theorem pump_halt_swap (h : s.ready c t 0x01 w = true) (hw : bit1 w 121 = true)
    (hbank : s.bankReady c t (1 - s.strmBank c t) = true) :
    s.Halted ((issueHalt s c t w).pump c) c t [Reg.STRM_STAT c (sidx t), Reg.STRM_CTL c (sidx t)]
      ∧ ((issueHalt s c t w).pump c).wentTo c t 0 ∧ ((issueHalt s c t w).pump c).strmBank c t = 1 - s.strmBank c t := by
  obtain ⟨hstate, -, hstep, hstill⟩ := ready_parts h
  have hctl := strmCtl_ne_strmStat c t
  have hclosed := (State.OnStream.refl s c t [Reg.STRM_STAT c (sidx t), Reg.STRM_CTL c (sidx t)]).setLoops (by simp) []
  have hready : (s.setLoops c t []).bankReady c t (1 - s.strmBank c t) = true := by
    rw [hclosed.bankReady rfl (imemLdStat_not_mem_haltRegs c t), hbank]
  have hkeep : (s.setLoops c t []).strmBank c t = s.strmBank c t := fld_setFld_ne _ _ _ _ hctl
  have hissue : issueHalt s c t w = ((s.setLoops c t []).setFld (Reg.STRM_CTL c (sidx t)) Fld.STRM_CTL_ABANK
      (1 - s.strmBank c t)).issuedTo c t 0 := by
    simp [issueHalt, hw, hkeep, hready]
  have hon := (hclosed.setFld (a := Reg.STRM_CTL c (sidx t)) (by simp) Fld.STRM_CTL_ABANK (1 - s.strmBank c t)).issuedTo
    (by simp) 0
  rw [hissue, hon.pump (haltRegs_spareUnits c t) hstill rfl hstep]
  refine ⟨hon.halted rfl ?_, wentTo_issuedTo ?_ 0, ?_⟩
  · rw [fld_issuedTo_kept _ _ _ _ _ keptFld_depth, fld_setFld_ne _ _ _ _ hctl.symm, depth_setLoops_nil]
  · exact (strmState_setReg_ne _ _ hctl.symm).trans ((strmState_setLoops ..).trans hstate)
  · have hlt := strmBank_lt s c t
    rw [State.strmBank, State.fld, reg_issuedTo_ne _ _ _ _ hctl, ← State.fld, fld_setFld_self _ _ _ _ (by decide)]
    exact Nat.mod_eq_of_lt (by change 1 - s.strmBank c t < 2; omega)

/-- SWAP 1 with the other bank not ready: the stream waits, and would only wait again. -/
theorem pump_halt_wait (h : s.ready c t 0x01 w = true) (hw : bit1 w 121 = true)
    (hbank : s.bankReady c t (1 - s.strmBank c t) = false) :
    s.Halted ((issueHalt s c t w).pump c) c t [Reg.STRM_STAT c (sidx t), Reg.STRM_CTL c (sidx t)]
      ∧ ((issueHalt s c t w).pump c).holdsOn c t (.issue 0x01 w) 7
      ∧ ((issueHalt s c t w).pump c).strmBank c t = s.strmBank c t := by
  obtain ⟨hstate, -, hstep, hstill⟩ := ready_parts h
  have hctl := strmCtl_ne_strmStat c t
  have hwaits : ∀ {u : State} {x : StreamState},
      s.OnStream u c t x [Reg.STRM_STAT c (sidx t), Reg.STRM_CTL c (sidx t)] → x.load = (s.strm c t).load →
      u.strmBank c t = s.strmBank c t → issueHalt u c t w = (u.setLoops c t []).holdIssue c t 0x01 w 7 := by
    intro u x hu hload hkeep
    have hclosed : (u.setLoops c t []).strmBank c t = s.strmBank c t := (fld_setFld_ne _ _ _ _ hctl).trans hkeep
    have hready : (u.setLoops c t []).bankReady c t (1 - s.strmBank c t) = false := by
      rw [(hu.setLoops (by simp) []).bankReady hload (imemLdStat_not_mem_haltRegs c t), hbank]
    simp [issueHalt, hw, hclosed, hready]
  have hon := ((State.OnStream.refl s c t [Reg.STRM_STAT c (sidx t), Reg.STRM_CTL c (sidx t)]).setLoops
    (by simp) []).holdIssue (by simp) 0x01 w 7
  have hkeep : ((s.setLoops c t []).holdIssue c t 0x01 w 7).strmBank c t = s.strmBank c t := by
    rw [State.strmBank, State.fld, reg_holdIssue_ne _ _ _ _ _ _ hctl]
    exact fld_setFld_ne _ _ _ _ hctl
  have hagain := (hon.setLoops (by simp) []).holdIssue (by simp) 0x01 w 7
  rw [hwaits (State.OnStream.refl s c t _) rfl rfl, hon.pump_holding (haltRegs_spareUnits c t) hstill rfl hstep ?_ ?_]
  · refine ⟨hon.halted rfl ?_, holdsOn_holdIssue ((strmState_setLoops ..).trans hstate) _ _ (by decide), hkeep⟩
    rw [State.holdIssue, fld_setWaitOn_kept _ _ _ _ _ keptFld_depth, fld_modStrm, depth_setLoops_nil]
  · change ((issueHalt _ c t w).strm c t).hold = _
    rw [hwaits hon rfl hkeep, hagain.strm]
  · change ((issueHalt _ c t w).core c).feeds = _
    rw [hwaits hon rfl hkeep]
    obtain ⟨n, hcore⟩ := hagain.core
    rw [hcore]
    cases t <;> exact (rests_of_still hstill).feeds

theorem issueHalt_stops {c : Nat} {t : Strm} {w : Body} (h : bit1 w 121 = false) (s : State) :
    issueHalt s c t w = ((s.setLoops c t []).issued c t).stopStream c t 2 := by
  simp [issueHalt, h]

/-- SWAP 0: the stream stops in state 2. -/
theorem pump_halt_stop (h : s.ready c t 0x01 w = true) (hw : bit1 w 121 = false) :
    s.Halted ((issueHalt s c t w).pump c) c t ([Reg.STRM_STAT c (sidx t), Reg.STRM_CTL c (sidx t)]
        ++ if t = .execute then [Reg.PRED_STAT c] else [])
      ∧ ((issueHalt s c t w).pump c).strmState c t = 2
      ∧ ((issueHalt s c t w).pump c).strmBank c t = s.strmBank c t := by
  obtain ⟨hstate, -, hstep, hstill⟩ := ready_parts h
  have has : sparesUnits c [Reg.STRM_STAT c (sidx t)] := by
    simpa [sparesUnits] using ⟨arrayStat_ne_strmStat c t, cbCfg_ne_strmStat_of c t⟩
  have hon := ((State.OnStream.refl s c t [Reg.STRM_STAT c (sidx t)]).setLoops (by simp) []).issuedTo (by simp)
    ((s.setLoops c t []).strmIndex c t + 1)
  rw [issueHalt_stops hw, State.issued, hon.pump_stop has hstill rfl hstep]
  generalize hu : (s.setLoops c t []).issuedTo c t ((s.setLoops c t []).strmIndex c t + 1) = u at hon ⊢
  have hpred : Reg.STRM_STAT c (sidx t) ∉ [Reg.PRED_STAT c] := by simpa using strmStat_ne_predStat c t
  have hfld : ∀ f, ((u.stopStream c t 2).tidyPred c).fld (Reg.STRM_STAT c (sidx t)) f
      = (u.stopStream c t 2).fld (Reg.STRM_STAT c (sidx t)) f := fun f => by
    rw [State.fld, (framed_tidyPred _ c).1 _ hpred, State.fld]
  have hframe := framed_trans hon.frame (framed_stopStream u c t 2)
  have hhalt : framed s ((u.stopStream c t 2).tidyPred c) ([Reg.STRM_STAT c (sidx t), Reg.STRM_CTL c (sidx t)]
      ++ if t = .execute then [Reg.PRED_STAT c] else []) := by
    cases t with
    | access =>
      have hdisarm : ((u.stopStream c .access 2).core c).disarmAt = none := by
        obtain ⟨hrests, hnone⟩ := hon.rests hstill rfl hstep
        rw [core_stopStream hrests.feeds]
        exact hnone
      rw [tidyPred_of_none hdisarm]
      exact framed_mono hframe (by simp)
    | execute => exact framed_mono (framed_trans hframe (framed_tidyPred _ c)) (by simp)
  refine ⟨⟨?_, ?_, hhalt, fun k hk => ?_, ?_⟩, ?_, ?_⟩
  · rw [strm_tidyPred, State.strm, core_stopStream (hon.rests hstill rfl hstep).1.feeds, Core.strm_stopped]
    exact congrArg StreamState.loops hon.strm
  · rw [hfld, fld_stopStream_kept _ _ _ _ _ (by decide) (by decide), ← hu, fld_issuedTo_kept _ _ _ _ _ keptFld_depth,
      depth_setLoops_nil]
  · rw [core_tidyPred_ne _ hk, core_stopStream_ne _ _ _ hk, hon.others k hk]
  · rw [queues_tidyPred, queues_stopStream, hon.queues]
  · exact (hfld _).trans (strmState_stopStream u c t (by decide))
  · have hctl : Reg.STRM_CTL c (sidx t) ∉ [Reg.STRM_STAT c (sidx t), Reg.STRM_STAT c (sidx t), Reg.PRED_STAT c] := by
      have := sidx_le t
      simp only [List.mem_cons, List.not_mem_nil, or_false, not_or]
      unfold Reg.STRM_CTL Reg.STRM_STAT Reg.PRED_STAT
      omega
    rw [State.strmBank, State.fld, (framed_trans hframe (framed_tidyPred _ c)).1 _ hctl]
    rfl

end

/-- Settles O3, by the three ways of HALT: it stops its stream, swaps to a ready bank, or waits for one. -/
theorem haltStopsSwapsOrWaits : Obligations.HaltStopsSwapsOrWaits := by
  intro c t w s h
  refine ⟨(issueHalt s c.val t w).pump c.val, exec_of_ready (p := (0x01, .halt)) (by simp [streamInstrs]) h, ?_⟩
  cases hw : bit1 w 121 with
  | false =>
    obtain ⟨⟨hloops, hdepth, hframe, hothers, hqueues⟩, hstate, hbank⟩ := pump_halt_stop h hw
    exact ⟨hloops, hdepth, by simpa [hw] using hframe, hothers, hqueues, fun _ => ⟨hstate, hbank⟩, nofun, nofun⟩
  | true =>
    cases hready : s.bankReady c.val t (1 - s.strmBank c.val t) with
    | true =>
      obtain ⟨⟨hloops, hdepth, hframe, hothers, hqueues⟩, hwent, hbank⟩ := pump_halt_swap h hw hready
      exact ⟨hloops, hdepth, by simpa [hw] using hframe, hothers, hqueues, nofun, fun _ _ => ⟨hwent, hbank⟩, nofun⟩
    | false =>
      obtain ⟨⟨hloops, hdepth, hframe, hothers, hqueues⟩, hholds, hbank⟩ := pump_halt_wait h hw hready
      exact ⟨hloops, hdepth, by simpa [hw] using hframe, hothers, hqueues, nofun, nofun, fun _ _ => ⟨hholds, hbank⟩⟩

end Sys2Proof.Machine
end

section
/-! PROOFS. Counters, comparators and branches of a stream (R140, R141, R143). -/

namespace Sys2Proof.Machine

open Sys2Proof

section
variable {s u : State} {c : Nat} {t : Strm} {x : StreamState} {as : List Nat}

/-- A stream that has issued its instruction on a still core goes on, and nothing else moves. -/
theorem State.OnStream.pump_issuedTo (h : s.OnStream u c t x as) (ha : Reg.STRM_STAT c (sidx t) ∈ as)
    (has : sparesUnits c as) (hs : s.coreStill c = true) (hstep : x.stepping = false) (hstate : u.strmState c t = 1)
    (i : Nat) :
    (u.issuedTo c t i).pump c = u.issuedTo c t i ∧ (u.issuedTo c t i).wentTo c t i ∧ framed s (u.issuedTo c t i) as
      ∧ sameCoresBut s (u.issuedTo c t i) c ∧ ((u.issuedTo c t i).strm c t).loops = x.loops := by
  have hon := h.issuedTo ha i
  exact ⟨hon.pump has hs rfl hstep, wentTo_issuedTo hstate i, hon.frame, hon.others, by rw [hon.strm]⟩

end

theorem bits_lt (w : Body) (hi lo : Nat) : bits w hi lo < 2 ^ (hi - lo + 1) := Nat.mod_lt _ (by positivity)

/-! The registers of a stream's counters and comparators. -/

theorem strmStat_ne_cnt (c : Nat) (t : Strm) (k : Nat) : Reg.STRM_STAT c (sidx t) ≠ Reg.CNT c (sidx t) k := by
  unfold Reg.STRM_STAT Reg.CNT
  omega

theorem cntRegs_spareUnits (c : Nat) (t : Strm) {k : Nat} (hk : k < 8) :
    sparesUnits c [Reg.STRM_STAT c (sidx t), Reg.CNT c (sidx t) k] := by
  have := sidx_le t
  simp only [sparesUnits, List.mem_cons, List.not_mem_nil, or_false, not_or]
  unfold Reg.ARRAY_STAT Reg.CB_CFG Reg.STRM_STAT Reg.CNT
  omega

theorem compRegs_spareUnits (c : Nat) (t : Strm) {k : Nat} (hk : k < 4) :
    sparesUnits c [Reg.STRM_STAT c (sidx t), Reg.COMP_REF c (sidx t) k, Reg.COMP_CFG c (sidx t)] := by
  have := sidx_le t
  simp only [sparesUnits, List.mem_cons, List.not_mem_nil, or_false, not_or]
  unfold Reg.ARRAY_STAT Reg.CB_CFG Reg.STRM_STAT Reg.COMP_REF Reg.COMP_CFG
  omega

theorem compRegs_apart (c : Nat) (t : Strm) {k : Nat} (hk : k < 4) :
    Reg.COMP_REF c (sidx t) k ≠ Reg.COMP_CFG c (sidx t) ∧ Reg.COMP_REF c (sidx t) k ≠ Reg.STRM_STAT c (sidx t)
      ∧ Reg.COMP_CFG c (sidx t) ≠ Reg.STRM_STAT c (sidx t) := by
  unfold Reg.COMP_REF Reg.COMP_CFG Reg.STRM_STAT
  omega

/-! A counter set, and the stream goes on. -/

theorem cnt_setCnt (s : State) (c : Nat) (t : Strm) (k v i : Nat) :
    ((s.setCnt c t k v).issuedTo c t i).cnt c t k = v % 2 ^ 32 := by
  rw [State.cnt, reg_issuedTo_ne _ _ _ _ (strmStat_ne_cnt c t k).symm, State.setCnt, reg_setReg_self, BitVec.toNat_ofNat]
  omega

theorem pump_setCnt {s : State} {c : Nat} {t : Strm} (hstill : s.coreStill c = true) (hstate : s.strmState c t = 1)
    (hstep : (s.strm c t).stepping = false) {k : Nat} (hk : k < 8) (v : Nat) :
    (((s.setCnt c t k v).issued c t).pump c).cnt c t k = v % 2 ^ 32
      ∧ (((s.setCnt c t k v).issued c t).pump c).wentTo c t (s.strmIndex c t + 1)
      ∧ framed s (((s.setCnt c t k v).issued c t).pump c) [Reg.STRM_STAT c (sidx t), Reg.CNT c (sidx t) k]
      ∧ sameCoresBut s (((s.setCnt c t k v).issued c t).pump c) c := by
  have hon := (State.OnStream.refl s c t [Reg.STRM_STAT c (sidx t), Reg.CNT c (sidx t) k]).setReg
    (a := Reg.CNT c (sidx t) k) (by simp) (BitVec.ofNat 64 (v % 2 ^ 32))
  have hindex : (s.setCnt c t k v).strmIndex c t = s.strmIndex c t := strmIndex_setReg_ne _ _ (strmStat_ne_cnt c t k)
  obtain ⟨hpump, hwent, hframe, hothers, -⟩ := hon.pump_issuedTo (by simp) (cntRegs_spareUnits c t hk) hstill hstep
    ((strmState_setReg_ne _ _ (strmStat_ne_cnt c t k)).trans hstate) (s.strmIndex c t + 1)
  rw [State.issued, hindex]
  change ((State.issuedTo (s.setCnt c t k v) c t _).pump c = _) at hpump
  rw [hpump]
  exact ⟨cnt_setCnt .., hwent, hframe, hothers⟩

/-! A comparator set. -/

/-- A comparator's selector, relation and reference written. -/
def State.setComp (s : State) (c : Nat) (t : Strm) (k sel rel ref : Nat) : State :=
  ((s.setReg (Reg.COMP_REF c (sidx t) k) (BitVec.ofNat 64 ref)).setFld (Reg.COMP_CFG c (sidx t)) (compRel k) rel).setFld
    (Reg.COMP_CFG c (sidx t)) (compSel k) sel

theorem fld_setComp_self (s : State) (c : Nat) (t : Strm) {k sel rel : Nat} (hk : k < 4) (hsel : sel < 8) (hrel : rel < 8)
    (ref : Nat) :
    (s.setComp c t k sel rel ref).fld (Reg.COMP_CFG c (sidx t)) (compSel k) = sel
      ∧ (s.setComp c t k sel rel ref).fld (Reg.COMP_CFG c (sidx t)) (compRel k) = rel := by
  have hfits : (compSel k).lo + (compSel k).width ≤ 64 := by simp only [compSel]; omega
  have hfits' : (compRel k).lo + (compRel k).width ≤ 64 := by simp only [compRel]; omega
  constructor
  · exact (fld_setFld_self _ _ _ _ hfits).trans (Nat.mod_eq_of_lt hsel)
  · refine (fld_setFld_apart _ _ _ _ _ _ hfits (.inr ?_)).trans ((fld_setFld_self _ _ _ _ hfits').trans (Nat.mod_eq_of_lt hrel))
    simp only [compSel, compRel]
    omega

theorem fld_setComp_ne (s : State) (c : Nat) (t : Strm) {k j : Nat} (hk : k < 4) (hj : j ≠ k) (sel rel ref : Nat) :
    (s.setComp c t k sel rel ref).fld (Reg.COMP_CFG c (sidx t)) (compSel j) = s.fld (Reg.COMP_CFG c (sidx t)) (compSel j)
      ∧ (s.setComp c t k sel rel ref).fld (Reg.COMP_CFG c (sidx t)) (compRel j)
          = s.fld (Reg.COMP_CFG c (sidx t)) (compRel j) := by
  obtain ⟨href, -, -⟩ := compRegs_apart c t hk
  have hkept : ∀ g : FieldPos, g.lo + g.width ≤ 6 * k ∨ 6 * k + 6 ≤ g.lo →
      (s.setComp c t k sel rel ref).fld (Reg.COMP_CFG c (sidx t)) g = s.fld (Reg.COMP_CFG c (sidx t)) g := fun g hg => by
    refine (fld_setFld_apart _ _ _ _ _ _ ?_ ?_).trans <| (fld_setFld_apart _ _ _ _ _ _ ?_ ?_).trans
      (fld_setReg_ne _ _ _ href.symm)
    all_goals simp only [compSel, compRel]; omega
  constructor
  · exact hkept _ (by simp only [compSel]; omega)
  · exact hkept _ (by simp only [compRel]; omega)

theorem issueCset_comp {w : Body} (hn : 8 ≤ bits w 121 118) (hn' : bits w 121 118 < 12) (hrel : bits w 114 112 < 6)
    (s : State) (c : Nat) (t : Strm) :
    issueCset s c t w
      = (s.setComp c t (bits w 121 118 - 8) (bits w 117 115) (bits w 114 112) (bits w 31 0)).issued c t := by
  have hno : ¬ (bits w 121 118 < 8 ∧ bits w 117 115 = 0 ∧ bits w 114 112 = 0) := by omega
  simp only [issueCset, if_neg hno, if_pos (And.intro hn (And.intro hn' hrel)), State.setComp]

/-- CSET of a comparator. -/
theorem pump_setComp {s : State} {c : Nat} {t : Strm} (hstill : s.coreStill c = true) (hstate : s.strmState c t = 1)
    (hstep : (s.strm c t).stepping = false) {k sel rel ref : Nat} (hk : k < 4) (hsel : sel < 8) (hrel : rel < 8)
    (href : ref < 2 ^ 32) :
    let v := ((s.setComp c t k sel rel ref).issued c t).pump c
    (v.reg (Reg.COMP_REF c (sidx t) k)).toNat = ref
      ∧ v.fld (Reg.COMP_CFG c (sidx t)) (compSel k) = sel ∧ v.fld (Reg.COMP_CFG c (sidx t)) (compRel k) = rel
      ∧ (∀ j < 4, j ≠ k →
          v.fld (Reg.COMP_CFG c (sidx t)) (compSel j) = s.fld (Reg.COMP_CFG c (sidx t)) (compSel j)
          ∧ v.fld (Reg.COMP_CFG c (sidx t)) (compRel j) = s.fld (Reg.COMP_CFG c (sidx t)) (compRel j))
      ∧ v.wentTo c t (s.strmIndex c t + 1)
      ∧ framed s v [Reg.STRM_STAT c (sidx t), Reg.COMP_REF c (sidx t) k, Reg.COMP_CFG c (sidx t)]
      ∧ sameCoresBut s v c := by
  intro v
  obtain ⟨hrefCfg, hrefStat, hcfgStat⟩ := compRegs_apart c t hk
  have hon := (((State.OnStream.refl s c t
    [Reg.STRM_STAT c (sidx t), Reg.COMP_REF c (sidx t) k, Reg.COMP_CFG c (sidx t)]).setReg
    (a := Reg.COMP_REF c (sidx t) k) (by simp) (BitVec.ofNat 64 ref)).setFld (a := Reg.COMP_CFG c (sidx t)) (by simp)
    (compRel k) rel).setFld (a := Reg.COMP_CFG c (sidx t)) (by simp) (compSel k) sel
  change s.OnStream (s.setComp c t k sel rel ref) c t _ _ at hon
  have hstat : ∀ f, (s.setComp c t k sel rel ref).fld (Reg.STRM_STAT c (sidx t)) f
      = s.fld (Reg.STRM_STAT c (sidx t)) f := fun f =>
    (fld_setFld_ne _ _ _ _ hcfgStat.symm).trans <| (fld_setFld_ne _ _ _ _ hcfgStat.symm).trans
      (fld_setReg_ne _ _ _ hrefStat.symm)
  obtain ⟨hpump, hwent, hframe, hothers, -⟩ := hon.pump_issuedTo (by simp) (compRegs_spareUnits c t hk) hstill hstep
    ((hstat _).trans hstate) (s.strmIndex c t + 1)
  have hv : v = (s.setComp c t k sel rel ref).issuedTo c t (s.strmIndex c t + 1) := by
    have hindex : (s.setComp c t k sel rel ref).strmIndex c t = s.strmIndex c t := hstat _
    simp only [v, State.issued, hindex, hpump]
  have hcfg : ∀ f, v.fld (Reg.COMP_CFG c (sidx t)) f = (s.setComp c t k sel rel ref).fld (Reg.COMP_CFG c (sidx t)) f := by
    intro f
    rw [hv, State.fld, reg_issuedTo_ne _ _ _ _ hcfgStat]
    rfl
  obtain ⟨hself, hself'⟩ := fld_setComp_self s c t hk hsel hrel ref
  refine ⟨?_, (hcfg _).trans hself, (hcfg _).trans hself', fun j _ hj => ?_, hv ▸ hwent, hv ▸ hframe, hv ▸ hothers⟩
  · rw [hv, reg_issuedTo_ne _ _ _ _ hrefStat, State.setComp, reg_setFld_ne _ _ _ hrefCfg, reg_setFld_ne _ _ _ hrefCfg,
      reg_setReg_self, BitVec.toNat_ofNat]
    omega
  · obtain ⟨hsel', hrel'⟩ := fld_setComp_ne s c t hk hj sel rel ref
    exact ⟨(hcfg _).trans hsel', (hcfg _).trans hrel'⟩

/-! The branch. -/

theorem toInt_ofNat_eq_sext {v : Nat} (h : v < 2 ^ 32) : (BitVec.ofNat 32 v).toInt = sext 32 v := by
  rw [BitVec.toInt_eq_toNat_cond, BitVec.toNat_ofNat, Nat.mod_eq_of_lt h, sext]
  split <;> split <;> omega

/-- What a comparator's relation gives is its value by R140, for 32-bit counters and references. -/
theorem comparatorIs_iff {s : State} {c : Nat} {t : Strm} {k : Nat} {b : Bool}
    (hv : s.cnt c t (s.fld (Reg.COMP_CFG c (sidx t)) (compSel k)) < 2 ^ 32)
    (hr : (s.reg (Reg.COMP_REF c (sidx t) k)).toNat < 2 ^ 32) :
    comparatorIs s c t k b ↔ s.fld (Reg.COMP_CFG c (sidx t)) (compRel k) < 6
      ∧ b = relHolds (s.fld (Reg.COMP_CFG c (sidx t)) (compRel k))
          (s.cnt c t (s.fld (Reg.COMP_CFG c (sidx t)) (compSel k))) (s.reg (Reg.COMP_REF c (sidx t) k)).toNat := by
  unfold comparatorIs
  simp only [toInt_ofNat_eq_sext hv, toInt_ofNat_eq_sext hr]
  generalize s.fld (Reg.COMP_CFG c (sidx t)) (compRel k) = rel
  match rel with
  | 0 | 1 | 2 | 3 | 4 | 5 => cases b <;> simp [relHolds]
  | rel + 6 => simp

theorem fld_compSel_lt (s : State) (a k : Nat) : s.fld a (compSel k) < 8 := wordFld_lt _ (compSel k)

theorem strmStat_spareUnits (c : Nat) (t : Strm) : sparesUnits c [Reg.STRM_STAT c (sidx t)] := by
  simpa [sparesUnits] using ⟨arrayStat_ne_strmStat c t, cbCfg_ne_strmStat_of c t⟩

/-- CMPB with a relation of R140. -/
theorem pump_cmpb {s : State} {c : Nat} {t : Strm} (hstill : s.coreStill c = true) (hstate : s.strmState c t = 1)
    (hstep : (s.strm c t).stepping = false) {w : Body} {b : Bool}
    (hrel : s.fld (Reg.COMP_CFG c (sidx t)) (compRel (bits w 121 120)) < 6)
    (hb : b = relHolds (s.fld (Reg.COMP_CFG c (sidx t)) (compRel (bits w 121 120)))
      (s.cnt c t (s.fld (Reg.COMP_CFG c (sidx t)) (compSel (bits w 121 120))))
      (s.reg (Reg.COMP_REF c (sidx t) (bits w 121 120))).toNat) :
    let v := (issueCmpb s c t w).pump c
    framed s v [Reg.STRM_STAT c (sidx t)] ∧ sameCoresBut s v c
      ∧ (xor b (bit1 w 119) = true → v.wentTo c t (bits w 118 108)
          ∧ (v.strm c t).loops = leaveLoops (bits w 118 108) (s.strm c t).loops)
      ∧ (xor b (bit1 w 119) = false → v.wentTo c t (s.strmIndex c t + 1) ∧ (v.strm c t).loops = (s.strm c t).loops) := by
  intro v
  have hon := State.OnStream.refl s c t [Reg.STRM_STAT c (sidx t)]
  have hissue : issueCmpb s c t w = if b != bit1 w 119
      then (s.setLoops c t (leaveLoops (bits w 118 108) (s.strm c t).loops)).issuedTo c t (bits w 118 108)
      else s.issued c t := by
    simp only [issueCmpb, if_neg (Nat.not_le.mpr hrel), hb]
  by_cases htaken : xor b (bit1 w 119) = true
  · obtain ⟨hpump, hwent, hframe, hothers, hloops⟩ := (hon.setLoops (by simp) (leaveLoops (bits w 118 108)
      (s.strm c t).loops)).pump_issuedTo (by simp) (strmStat_spareUnits c t) hstill hstep
      ((strmState_setLoops ..).trans hstate) (bits w 118 108)
    have hv : v = (s.setLoops c t (leaveLoops (bits w 118 108) (s.strm c t).loops)).issuedTo c t (bits w 118 108) := by
      simp only [v, hissue, htaken, if_true, hpump]
    rw [hv]
    exact ⟨hframe, hothers, fun _ => ⟨hwent, hloops⟩, by simp [htaken]⟩
  · obtain ⟨hpump, hwent, hframe, hothers, hloops⟩ := hon.pump_issuedTo (by simp) (strmStat_spareUnits c t) hstill hstep
      hstate (s.strmIndex c t + 1)
    have hv : v = s.issuedTo c t (s.strmIndex c t + 1) := by
      simp only [v, hissue, htaken, State.issued, hpump, Bool.false_eq_true, if_false]
    rw [hv]
    exact ⟨hframe, hothers, fun h => absurd h htaken, fun _ => ⟨hwent, hloops⟩⟩

/-- Settles O5, instruction by instruction: CSET, CADD and CMPB. -/
theorem countersAndComparators : Obligations.CountersAndComparators := by
  refine ⟨⟨fun c t w s h => ?_, fun c t w s h => ?_⟩, fun c t w s b h hcnt href => ?_⟩
  · obtain ⟨hstate, -, hstep, hstill⟩ := ready_parts h
    refine ⟨(issueCset s c.val t w).pump c.val, exec_of_ready (p := (0x04, .cset)) (by simp [streamInstrs]) h,
      fun hn hsel hrel => ?_, fun hn hn' hrel => ?_, fun hbad => ?_⟩
    · have hissue : issueCset s c.val t w = (s.setCnt c.val t (bits w 121 118) (bits w 31 0)).issued c.val t := by
        simp only [issueCset, if_pos (And.intro hn (And.intro hsel hrel))]
      rw [hissue]
      have hset := pump_setCnt hstill hstate hstep hn (bits w 31 0)
      rwa [Nat.mod_eq_of_lt (bits_lt w 31 0)] at hset
    · rw [issueCset_comp hn hn' hrel]
      exact pump_setComp hstill hstate hstep (by omega) (bits_lt w 117 115) (by omega) (bits_lt w 31 0)
    · have hissue : issueCset s c.val t w = s.raiseAt c.val t (fieldErr t) := by
        have hno : ¬ (bits w 121 118 < 8 ∧ bits w 117 115 = 0 ∧ bits w 114 112 = 0) := by omega
        have hno' : ¬ (8 ≤ bits w 121 118 ∧ bits w 121 118 < 12 ∧ bits w 114 112 < 6) := by omega
        simp only [issueCset, if_neg hno, if_neg hno']
      rw [hissue]
      exact haltedBy_raiseAt hstill t _
  · obtain ⟨hstate, -, hstep, hstill⟩ := ready_parts h
    obtain ⟨hcnt, hwent, hframe, hothers⟩ := pump_setCnt hstill hstate hstep (bits_lt w 121 119)
      (s.cnt c.val t (bits w 121 119) + if bit1 w 118 then s.cnt c.val t (bits w 117 115) else bits w 31 0)
    have hissue : issueCadd s c.val t w = (s.setCnt c.val t (bits w 121 119) (s.cnt c.val t (bits w 121 119)
        + if bit1 w 118 then s.cnt c.val t (bits w 117 115) else bits w 31 0)).issued c.val t := (rfl)
    rw [← hissue] at hcnt hwent hframe hothers
    refine ⟨(issueCadd s c.val t w).pump c.val, exec_of_ready (p := (0x05, .cadd)) (by simp [streamInstrs]) h,
      fun hw => ?_, fun hw => ?_, hwent, hframe, hothers⟩
    · simpa [hw] using hcnt
    · simpa [hw] using hcnt
  · obtain ⟨hstate, -, hstep, hstill⟩ := ready_parts h
    refine ⟨(issueCmpb s c.val t w).pump c.val, exec_of_ready (p := (0x06, .cmpb)) (by simp [streamInstrs]) h,
      fun hbad => ?_, fun hb => ?_⟩
    · have hissue : issueCmpb s c.val t w = s.raiseAt c.val t (fieldErr t) := by simp only [issueCmpb, if_pos hbad]
      rw [hissue]
      exact haltedBy_raiseAt hstill t _
    · obtain ⟨hrel, hval⟩ := (comparatorIs_iff (hcnt _ (fld_compSel_lt ..)) (href _ (bits_lt w 121 120))).mp hb
      exact pump_cmpb hstill hstate hstep hrel hval

end Sys2Proof.Machine
end

section
/-! PROOFS. SYNCQ waits for queues (R131). -/

namespace Sys2Proof.Machine

open Sys2Proof

/-- The queues that SYNCQ names are empty. -/
def State.namedEmpty (s : State) (c : Nat) (w : Body) : Prop := ∀ n < 4, bit1 w (118 + n) = true → s.queue c n = []

/-- With no unit at work only the queues' contents count. -/
theorem syncq_passes_iff {s : State} {c : Nat} (h : (s.core c).units = []) (w : Body) :
    (((List.range 4).filter fun n => bit1 w (118 + n)).all fun q =>
      s.qLen c q == 0 && !(s.core c).jobs.any fun j => j.took.contains q) = true ↔ s.namedEmpty c w := by
  simp [Core.jobs, h, State.qLen, State.namedEmpty, List.all_eq_true, ← Bool.not_eq_true, ← imp_iff_not_or]

theorem issueSyncq_of_empty {s : State} {c : Nat} (h : (s.core c).units = []) {w : Body} (hq : s.namedEmpty c w) (t : Strm) :
    issueSyncq s c t w = s.issued c t := by
  unfold issueSyncq
  exact if_pos ((syncq_passes_iff h w).mpr hq)

theorem issueSyncq_of_not_empty {s : State} {c : Nat} (h : (s.core c).units = []) {w : Body} (hq : ¬ s.namedEmpty c w)
    (t : Strm) : issueSyncq s c t w = s.holdIssue c t 0x17 w 6 := by
  unfold issueSyncq
  exact if_neg fun hpass => hq ((syncq_passes_iff h w).mp hpass)

/-- A SYNCQ that waits would only wait again. -/
theorem pump_syncq_wait {s : State} {c : Nat} {t : Strm} (hstill : s.coreStill c = true) (hstep : (s.strm c t).stepping = false)
    {w : Body} (hq : ¬ s.namedEmpty c w) :
    (s.holdIssue c t 0x17 w 6).pump c = s.holdIssue c t 0x17 w 6 := by
  have hon := (State.OnStream.refl s c t [Reg.STRM_STAT c (sidx t)]).holdIssue (by simp) 0x17 w 6
  have hagain := hon.holdIssue (by simp) 0x17 w 6
  have hissue : issueEffect (s.holdIssue c t 0x17 w 6) c t 0x17 w = (s.holdIssue c t 0x17 w 6).holdIssue c t 0x17 w 6 := by
    refine issueSyncq_of_not_empty ?_ (fun h => hq fun n hn hbit => ?_) t
    · obtain ⟨n, hcore⟩ := hon.core
      rw [hcore]
      cases t <;> exact (rests_of_still hstill).units
    · have hqueue := h n hn hbit
      rwa [State.queue, hon.queues] at hqueue
  refine hon.pump_holding (strmStat_spareUnits c t) hstill rfl hstep ?_ ?_
  · rw [hissue, hagain.strm]
  · obtain ⟨n, hcore⟩ := hagain.core
    rw [hissue, hcore]
    cases t <;> exact (rests_of_still hstill).feeds

/-- Settles O6: on a still core no unit is at work, so the named queues alone decide whether SYNCQ goes on or waits. -/
theorem syncqWaitsForQueues : Obligations.SyncqWaitsForQueues := by
  intro c w s h
  obtain ⟨hstate, -, hstep, hstill⟩ := ready_parts h
  have hunits := (rests_of_still hstill).units
  have hon := State.OnStream.refl s c.val .access [Reg.STRM_STAT c.val (sidx .access)]
  refine ⟨(issueSyncq s c.val .access w).pump c.val, exec_of_ready (p := (0x17, .syncq)) (by simp [streamInstrs]) h, ?_⟩
  by_cases hq : s.namedEmpty c.val w
  · obtain ⟨hpump, hwent, hframe, hothers, -⟩ := hon.pump_issuedTo (by simp) (strmStat_spareUnits c.val .access) hstill
      hstep hstate (s.strmIndex c.val .access + 1)
    rw [issueSyncq_of_empty hunits hq, State.issued, hpump]
    exact ⟨hframe, hothers, fun _ => hwent, fun n hn hbit hne => absurd (hq n hn hbit) hne⟩
  · have hheld := hon.holdIssue (by simp) 0x17 w 6
    rw [issueSyncq_of_not_empty hunits hq, pump_syncq_wait hstill hstep hq]
    exact ⟨hheld.frame, hheld.others, fun hempty => absurd hempty hq,
      fun _ _ _ _ => holdsOn_holdIssue hstate _ _ (by decide)⟩

end Sys2Proof.Machine
end

section
/-! PROOFS. A queue deadlock halts both streams (R126). -/

namespace Sys2Proof.Machine

open Sys2Proof

/-- What the device's own memories, but the boot buffer and flash, hold. -/
def State.onDevice (s : State) : Mem × Mem := (s.spad, s.near)

theorem onDevice_errRingPut (s : State) (f : Nat) (bs : List Byte) : (errRingPut s f bs).onDevice = s.onDevice := by
  unfold errRingPut ringPut State.bump State.emit
  simp only [State.onDevice, spad_setFld, near_setFld, apply_ite State.spad, apply_ite State.near, ite_self]

theorem onDevice_report (s : State) (code : Nat) (ctx core : Option Nat) (detail : Nat) :
    (s.report code ctx core detail).onDevice = s.onDevice := by
  simp only [State.report]
  repeat' split
  all_goals simp only [onDevice_errRingPut]

theorem onDevice_of_sameMemories {s t : State} (h : t.memories = s.memories) : t.onDevice = s.onDevice := by
  simp only [State.memories, Prod.mk.injEq] at h
  obtain ⟨hnear, -, -, -, -, hspad⟩ := h
  rw [State.onDevice, hspad, hnear]
  rfl

theorem memories_tidyPred (s : State) (c : Nat) : (s.tidyPred c).memories = s.memories := by
  rcases tidyPred_cases s c with h | h <;> rw [h]
  rfl

/-- The execute stream's record, and both streams in state 3. -/
def State.deadlockStops (s : State) (c : Nat) : State :=
  ((s.recordStrmErr c .execute 0x11C1 (s.strmIndex c .execute) (s.strmBank c .execute) 0).stopStream c .access 3).stopStream
    c .execute 3

/-- What QUEUE_DEADLOCK leaves where its conditions hold. -/
def State.deadlockHalts (s : State) (c : Nat) : State :=
  (((s.deadlockStops c).report 0x11C1 (s.coreCtx c) (some c) 0).tidyPred c).stepCoreError c 0x11C1

theorem exec_queueDeadlock {s : State} {c : CoreId} (h : s.deadlocked c.val = true) :
    exec (.queueDeadlock c) s = .next (s.deadlockHalts c.val) := by
  change execQueueDeadlock c s = _
  simp only [execQueueDeadlock, h, if_true]
  rfl

theorem strmState_deadlockStops (s : State) (c : Nat) (t : Strm) : (s.deadlockStops c).strmState c t = 3 :=
  strmState_stopStream_both _ c .access t

/-- Below the host's registers only PRED_STAT changes behind the stops. -/
theorem reg_deadlockHalts {s : State} {c a : Nat} (ha : a < hostBase) (hpred : a ≠ Reg.PRED_STAT c) :
    (s.deadlockHalts c).reg a = (s.deadlockStops c).reg a := by
  rw [State.deadlockHalts, reg_stepCoreError, (framed_tidyPred _ c).1 a (by simpa using hpred), reg_report_of_lt _ _ _ _ _ ha]

theorem core_deadlockStops_ne (s : State) {c k : Nat} (h : k ≠ c) : (s.deadlockStops c).core k = s.core k := by
  rw [State.deadlockStops, core_stopStream_ne _ _ _ h, core_stopStream_ne _ _ _ h,
    core_of_onlyRegs (onlyRegs_recordStrmErr ..)]

theorem queues_deadlockStops (s : State) (c : Nat) : ((s.deadlockStops c).core c).queues = (s.core c).queues := by
  rw [State.deadlockStops, queues_stopStream, queues_stopStream, core_of_onlyRegs (onlyRegs_recordStrmErr ..)]

theorem onDevice_recordStrmErr (s : State) (c : Nat) (t : Strm) (code index bank detail : Nat) :
    (s.recordStrmErr c t code index bank detail).onDevice = s.onDevice := by
  have h := (onlyRegs_recordStrmErr s c t code index bank detail).1
  rw [h]
  rfl

theorem onDevice_deadlockHalts (s : State) (c : Nat) : (s.deadlockHalts c).onDevice = s.onDevice := by
  obtain ⟨o, ho⟩ := stepCoreError_eq (((s.deadlockStops c).report 0x11C1 (s.coreCtx c) (some c) 0).tidyPred c) c 0x11C1
  calc (s.deadlockHalts c).onDevice
      = (((s.deadlockStops c).report 0x11C1 (s.coreCtx c) (some c) 0).tidyPred c).onDevice := by
        rw [State.deadlockHalts, ho]
        rfl
    _ = (s.deadlockStops c).onDevice := by
        rw [onDevice_of_sameMemories (memories_tidyPred _ c), onDevice_report]
    _ = s.onDevice := by
        rw [State.deadlockStops, onDevice_of_sameMemories (memories_stopStream ..),
          onDevice_of_sameMemories (memories_stopStream ..), onDevice_recordStrmErr]

theorem record_deadlockHalts {s : State} {c : Nat} (hc : c < nCores)
    (h : s.flag (Reg.STRM_ERR c (sidx .execute)) Fld.STRM_ERR_VALID = false) :
    (s.deadlockHalts c).reg (Reg.STRM_ERR c (sidx .execute))
      = BitVec.ofNat 64 (2 ^ 31 + s.strmBank c .execute * 2 ^ 27 + s.strmIndex c .execute * 2 ^ 16 + 0x11C1) := by
  obtain ⟨hlt, hstat⟩ := strmErr_apart hc .execute
  have hbank : s.strmBank c .execute % 2 = s.strmBank c .execute := Nat.mod_eq_of_lt (wordFld_lt _ _)
  have hindex : s.strmIndex c .execute % 2048 = s.strmIndex c .execute := Nat.mod_eq_of_lt (wordFld_lt _ _)
  rw [reg_deadlockHalts hlt (strmErr_ne_predStat c .execute), State.deadlockStops, reg_stopStream_ne _ _ _ _ (hstat .execute),
    reg_stopStream_ne _ _ _ _ (hstat .access), reg_recordStrmErr h, hbank, hindex]

/-- Settles O17: the record and the two stops; the report and the disarming behind them touch neither. -/
theorem deadlockHaltsBothStreams : Obligations.DeadlockHaltsBothStreams := by
  intro c s h
  have hstate : ∀ t, (s.deadlockHalts c.val).strmState c.val t = 3 := fun t => by
    rw [State.strmState, State.fld, reg_deadlockHalts (strmStat_lt_hostBase c.isLt t) (strmStat_ne_predStat c.val t)]
    exact strmState_deadlockStops s c.val t
  have hmem := onDevice_deadlockHalts s c.val
  simp only [State.onDevice, Prod.mk.injEq] at hmem
  refine ⟨_, exec_queueDeadlock h, ⟨hstate _, hstate _, record_deadlockHalts c.isLt⟩, ?_, fun k hk => ?_, fun a => ?_⟩
  · rw [State.deadlockHalts, core_stepCoreError, queues_tidyPred, core_report, queues_deadlockStops]
  · rw [State.deadlockHalts, core_stepCoreError, core_tidyPred_ne _ hk, core_report, core_deadlockStops_ne s hk]
  · rw [hmem.1, hmem.2]
    exact ⟨rfl, rfl⟩

end Sys2Proof.Machine
end

section
/-! PROOFS. CORE_START, CORE_STOP and QUEUE_CLEAR (R150). -/

namespace Sys2Proof.Machine

open Sys2Proof

/-! A register command that is heard. -/

theorem passes_of_hears {s : State} {who : Writer} {a : Nat} (h : s.hears who a = true) : s.passes who a = (true, s) := by
  simp only [State.hears, Bool.and_eq_true] at h
  obtain ⟨hpass, -⟩ := h
  cases who with
  | host fn =>
    revert hpass
    simp only [State.passes]
    split
    · exact nofun
    · split
      · exact nofun
      · exact fun _ => rfl
  | _ => exact Prod.ext hpass rfl

theorem irrepro_eq (s : State) (x : Option Nat) : ∃ m, s.irrepro x = { s with mgr := m } := by
  rw [State.irrepro]
  split
  · exact ⟨_, rfl⟩
  · exact ⟨s.mgr, rfl⟩

/-- A command that is heard takes effect; a host's may leave the step one that cannot be reproduced. -/
theorem asked_of_hears {s : State} {who : Writer} {a : Nat} (h : s.hears who a = true) (c : Nat) (i : Instr)
    (f : State → State) : ∃ m, (s.asked who c i fun s => s.command who a f) = { f s with mgr := m } := by
  have hcommand : s.command who a f = f s := by rw [State.command, passes_of_hears h]
  cases who with
  | host fn =>
    have hawake : s.pwrState = 0 := by
      simp only [State.hears, Bool.and_eq_true, beq_iff_eq] at h
      exact h.2
    have hasked : (s.asked (.host fn) c i fun s => s.command (.host fn) a f) = (f s).irrepro (s.coreCtx c) := by
      change (s.awake i fun s => (s.command (.host fn) a f).irrepro (s.coreCtx c)) = _
      rw [State.awake, if_pos hawake, hcommand]
    rw [hasked]
    exact irrepro_eq _ _
  | _ => exact ⟨(f s).mgr, hcommand⟩

/-! CORE_START. -/

theorem framed_setFld {s t : State} {as : List Nat} (h : framed s t as) {a : Nat} (ha : a ∈ as) (f : FieldPos) (v : Nat) :
    framed s (t.setFld a f v) as :=
  ⟨fun b hb => (reg_setFld_ne t f v fun e => hb (by rw [e]; exact ha)).trans (h.1 b hb), h.2⟩

theorem strmStat_ne_of_ne (c : Nat) {t u : Strm} (h : u ≠ t) : Reg.STRM_STAT c (sidx u) ≠ Reg.STRM_STAT c (sidx t) := by
  cases t <;> cases u
  · exact absurd rfl h
  · exact strmStat_ne_other c .execute
  · exact strmStat_ne_other c .access
  · exact absurd rfl h

theorem core_startStream_self (s : State) (c : Nat) (t : Strm) :
    (s.startStream c t).core c = (s.core c).setStrm t { s.strm c t with
      loops := [], hold := .free, pastEnd := false, stopReq := none, stepping := false } := by
  rw [State.startStream, core_setReg, State.modStrm, core_modCore_self]
  rfl

theorem core_startStream_ne (s : State) {c k : Nat} (t : Strm) (h : k ≠ c) : (s.startStream c t).core k = s.core k := by
  rw [State.startStream, core_setReg, core_modStrm_ne s t _ h]

theorem queues_startStream (s : State) (c : Nat) (t : Strm) :
    ((s.startStream c t).core c).queues = (s.core c).queues := by
  rw [core_startStream_self]
  cases t <;> rfl

theorem framed_startStream (s : State) (c : Nat) (t : Strm) : framed s (s.startStream c t) [Reg.STRM_STAT c (sidx t)] :=
  ⟨fun a ha => (reg_setReg_ne _ _ (by simpa using ha)).trans (reg_modStrm ..), sameMemory_refl s⟩

/-- What a started core leaves. -/
def State.startedAgain (s : State) (c : Nat) : State :=
  ((s.startStream c .access).startStream c .execute).setFld (Reg.SP_SCRUB c) Fld.SP_SCRUB_DONE 0

theorem startCore_of_canStart {s : State} {c : Nat} (h : s.canStart c = true) : s.startCore c = s.startedAgain c := if_pos h

theorem strmStat_startedAgain (s : State) (c : Nat) (t : Strm) :
    (s.startedAgain c).reg (Reg.STRM_STAT c (sidx t)) = BitVec.ofNat 64 (2 ^ 30) := by
  have hscrub : Reg.STRM_STAT c (sidx t) ≠ Reg.SP_SCRUB c := by
    have := sidx_le t
    unfold Reg.STRM_STAT Reg.SP_SCRUB
    omega
  rw [State.startedAgain, reg_setFld_ne _ _ _ hscrub]
  cases t with
  | access => exact (reg_setReg_ne _ _ (strmStat_ne_other c .access)).trans ((reg_modStrm ..).trans (reg_setReg_self ..))
  | execute => exact reg_setReg_self ..

theorem strm_startedAgain (s : State) (c : Nat) (t : Strm) :
    (s.startedAgain c).strm c t = { s.strm c t with
      loops := [], hold := .free, pastEnd := false, stopReq := none, stepping := false } := by
  rw [State.startedAgain, strm_setFld, State.strm, core_startStream_self, State.strm, core_startStream_self]
  cases t <;> rfl

theorem startedAgain_starts (s : State) (c : Nat) (t : Strm) :
    (s.startedAgain c).wentTo c t 0 ∧ ((s.startedAgain c).strm c t).loops = []
      ∧ (s.startedAgain c).fld (Reg.STRM_STAT c (sidx t)) Fld.STRM_STAT_DEPTH = 0 := by
  have hfld : ∀ f, (s.startedAgain c).fld (Reg.STRM_STAT c (sidx t)) f = wordFld (BitVec.ofNat 64 (2 ^ 30)) f := fun f => by
    rw [State.fld, strmStat_startedAgain]
  refine ⟨⟨(hfld _).trans (by decide), ?_, ?_, (hfld _).trans (by decide), (hfld _).trans (by decide)⟩, ?_,
    (hfld _).trans (by decide)⟩
  all_goals rw [strm_startedAgain]
  rfl

theorem framed_startedAgain (s : State) (c : Nat) :
    framed s (s.startedAgain c) [Reg.STRM_STAT c 0, Reg.STRM_STAT c 1, Reg.SP_SCRUB c] := by
  have hstreams := framed_trans (framed_startStream s c .access) (framed_startStream (s.startStream c .access) c .execute)
  have hlist : [Reg.STRM_STAT c (sidx .access)] ++ [Reg.STRM_STAT c (sidx .execute)]
      ⊆ [Reg.STRM_STAT c 0, Reg.STRM_STAT c 1, Reg.SP_SCRUB c] := by simp [sidx]
  exact framed_setFld (framed_mono hstreams hlist) (by simp) _ _

/-- What CORE_START leaves of a core that may start. -/
theorem startCore_starts {s : State} {c : Nat} (h : s.canStart c = true) :
    (∀ t : Strm, (s.startCore c).wentTo c t 0 ∧ ((s.startCore c).strm c t).loops = []
        ∧ (s.startCore c).fld (Reg.STRM_STAT c (sidx t)) Fld.STRM_STAT_DEPTH = 0)
      ∧ (s.startCore c).fld (Reg.SP_SCRUB c) Fld.SP_SCRUB_DONE = 0
      ∧ ((s.startCore c).core c).queues = (s.core c).queues
      ∧ framed s (s.startCore c) [Reg.STRM_STAT c 0, Reg.STRM_STAT c 1, Reg.SP_SCRUB c]
      ∧ sameCoresBut s (s.startCore c) c := by
  rw [startCore_of_canStart h]
  refine ⟨startedAgain_starts s c, ?_, ?_, framed_startedAgain s c, fun k hk => ?_⟩
  · rw [State.startedAgain, fld_setFld_self _ _ _ _ (by decide), Nat.zero_mod]
  · rw [State.startedAgain, core_setFld, queues_startStream, queues_startStream]
  · rw [State.startedAgain, core_setFld, core_startStream_ne _ _ hk, core_startStream_ne _ _ hk]

/-! CORE_STOP. -/

theorem strm_stopStream_ne (s : State) (c : Nat) {t u : Strm} (st : Nat) (h : u ≠ t) :
    (s.stopStream c t st).strm c u = s.strm c u := by
  have hmod : ∀ (v : State) (f : Core → Core), (∀ k, (f k).strm u = k.strm u) → (v.modCore c f).strm c u = v.strm c u := by
    intro v f hf
    rw [State.strm, core_modCore_self, hf]
    rfl
  unfold State.stopStream
  extract_lets who gone s₁ s₂ s₃ s₄
  have h₂ : s₂.strm c u = s₁.strm c u := by
    simp only [s₂, apply_ite (fun x => State.strm x c u)]
    rw [hmod _ _ fun k => by cases u <;> rfl, ite_self]
  have h₄ : s₄.strm c u = s₃.strm c u := by
    simp only [s₄, apply_ite (fun x => State.strm x c u)]
    rw [hmod _ _ fun k => by cases u <;> rfl, ite_self]
  exact h₄.trans (h₂.trans (strm_modStrm_ne s c _ h))

/-- A stream that runs stops. -/
def State.stopRunning (s : State) (c : Nat) (t : Strm) : State := if s.strmState c t = 1 then s.stopStream c t 0 else s

theorem stopCore_eq {s : State} {c : Nat} (h : ∀ t : Strm, ∀ m, (s.strm c t).hold ≠ .move m) :
    s.stopCore c = (s.stopRunning c .access).stopRunning c .execute := by
  have hstop : ∀ (u : State) (t : Strm), (u.strm c t).hold = (s.strm c t).hold → u.stopAtBoundary c t 0 = u.stopStream c t 0 := by
    intro u t hu
    rw [State.stopAtBoundary, hu]
    split
    · next m hm => exact absurd hm (h t m)
    · rfl
  have hexecute : ((s.stopRunning c .access).strm c .execute).hold = (s.strm c .execute).hold := by
    rw [State.stopRunning]
    split
    · rw [strm_stopStream_ne _ _ _ (by decide)]
    · rfl
  simp only [State.stopCore, hstop s .access rfl]
  change (if (s.stopRunning c .access).strmState c .execute = 1 then
    (s.stopRunning c .access).stopAtBoundary c .execute 0 else s.stopRunning c .access) = _
  rw [hstop _ .execute hexecute]
  rfl

theorem strmState_stopRunning (s : State) (c : Nat) (t : Strm) :
    (s.stopRunning c t).strmState c t = if s.strmState c t = 1 then 0 else s.strmState c t := by
  rw [State.stopRunning]
  split
  · exact strmState_stopStream s c t (by decide)
  · rfl

theorem strmState_stopRunning_other (s : State) (c : Nat) {t u : Strm} (h : u ≠ t) :
    (s.stopRunning c t).strmState c u = s.strmState c u := by
  rw [State.stopRunning]
  split
  · rw [State.strmState, State.fld, reg_stopStream_ne _ _ _ _ (strmStat_ne_of_ne c h)]
    rfl
  · rfl

theorem strmIndex_stopRunning (s : State) (c : Nat) (t u : Strm) :
    (s.stopRunning c t).strmIndex c u = s.strmIndex c u := by
  rw [State.stopRunning]
  split
  · exact fld_stopStream_kept _ _ _ _ _ (by decide) (by decide)
  · rfl

theorem queues_stopRunning (s : State) (c : Nat) (t : Strm) :
    ((s.stopRunning c t).core c).queues = (s.core c).queues := by
  rw [State.stopRunning]
  split
  · exact queues_stopStream ..
  · rfl

theorem framed_stopRunning (s : State) (c : Nat) (t : Strm) : framed s (s.stopRunning c t) [Reg.STRM_STAT c (sidx t)] := by
  rw [State.stopRunning]
  split
  · exact framed_stopStream ..
  · exact ⟨fun _ _ => rfl, sameMemory_refl s⟩

theorem core_stopRunning_ne (s : State) {c k : Nat} (t : Strm) (h : k ≠ c) : (s.stopRunning c t).core k = s.core k := by
  rw [State.stopRunning]
  split
  · exact core_stopStream_ne _ _ _ h
  · rfl

/-! QUEUE_CLEAR. -/

/-- A core with its queues and load groups empty. -/
def State.queuesCleared (s : State) (c : Nat) : State := s.modCore c fun k => { k with queues := [], groups := [] }

theorem pump_queuesCleared {s : State} {c : Nat} (h : s.coreCalm c = true) :
    (s.queuesCleared c).pump c = (s.queuesCleared c).tidyFlights c := by
  obtain ⟨-, -, haccess, hexecute, -⟩ := calm_parts h
  refine pump_of_calm ?_
  apply calm_of h <;> simp [State.queuesCleared, haccess, hexecute]

theorem core_tidyFlights_ne (s : State) {c k : Nat} (h : k ≠ c) : (s.tidyFlights c).core k = s.core k := by
  rcases tidyFlights_cases s c with e | ⟨fs, e⟩
  · rw [e]
  · rw [e, core_modCore_ne _ _ h]

/-- Settles O18: a start of two streams that may start, a stop of the running ones, an emptying of the queues of a core that
does not run. -/
theorem coreCommandsStartStopAndClear : Obligations.CoreCommandsStartStopAndClear := by
  refine ⟨fun c who s hears hcan => ?_, fun c who s hears hhold => ?_, fun c who s hears hruns hcalm => ?_⟩
  · obtain ⟨m, hm⟩ := asked_of_hears hears c.val (.coreStart c who) fun s => s.startCore c.val
    exact ⟨{ s.startCore c.val with mgr := m }, congrArg Host.Outcome.next hm, startCore_starts hcan⟩
  · obtain ⟨m, hm⟩ := asked_of_hears hears c.val (.coreStop c who) fun s => s.stopCore c.val
    have hstate : ∀ t, ((s.stopRunning c.val .access).stopRunning c.val .execute).strmState c.val t
        = if s.strmState c.val t = 1 then 0 else s.strmState c.val t := by
      intro t
      cases t with
      | access => rw [strmState_stopRunning_other _ _ (by decide), strmState_stopRunning]
      | execute => rw [strmState_stopRunning, strmState_stopRunning_other _ _ (by decide)]
    have hindex : ∀ t, ((s.stopRunning c.val .access).stopRunning c.val .execute).strmIndex c.val t
        = s.strmIndex c.val t := fun t => by rw [strmIndex_stopRunning, strmIndex_stopRunning]
    have hqueues : (((s.stopRunning c.val .access).stopRunning c.val .execute).core c.val).queues
        = (s.core c.val).queues := by rw [queues_stopRunning, queues_stopRunning]
    have hframe := framed_trans (framed_stopRunning s c.val .access)
      (framed_stopRunning (s.stopRunning c.val .access) c.val .execute)
    have hothers : sameCoresBut s ((s.stopRunning c.val .access).stopRunning c.val .execute) c.val := fun k hk => by
      rw [core_stopRunning_ne _ _ hk, core_stopRunning_ne _ _ hk]
    rw [stopCore_eq hhold] at hm
    generalize (s.stopRunning c.val .access).stopRunning c.val .execute = u at hm hstate hindex hqueues hframe hothers
    exact ⟨{ u with mgr := m }, congrArg Host.Outcome.next hm, hstate, hindex, hqueues, hframe, hothers⟩
  · obtain ⟨m, hm⟩ := asked_of_hears hears c.val (.queueClear c who) fun s =>
      if s.coreRuns c.val then s else (s.queuesCleared c.val).pump c.val
    have hqueue : ∀ q < 6, ((s.queuesCleared c.val).tidyFlights c.val).queue c.val q = [] := fun q _ => by
      rw [queue_tidyFlights, State.queue, State.queuesCleared, core_modCore_self, mget_nil]
    have hgroups : (((s.queuesCleared c.val).tidyFlights c.val).core c.val).groups = [] := by
      rw [groups_tidyFlights, State.queuesCleared, core_modCore_self]
    have hclear : framed s (s.queuesCleared c.val) [] := ⟨fun _ _ => rfl, sameMemory_refl s⟩
    have hframe := framed_tidyFlights hclear c.val
    have hothers : sameCoresBut s ((s.queuesCleared c.val).tidyFlights c.val) c.val := fun k hk => by
      rw [core_tidyFlights_ne _ hk, State.queuesCleared, core_modCore_ne _ _ hk]
    rw [if_neg (by rw [hruns]; decide), pump_queuesCleared hcalm] at hm
    generalize (s.queuesCleared c.val).tidyFlights c.val = u at hm hqueue hgroups hframe hothers
    exact ⟨{ u with mgr := m }, congrArg Host.Outcome.next hm, hqueue, hgroups, hframe, hothers⟩

end Sys2Proof.Machine
end

section
/-! PROOFS. The loader of the instruction memory (R145). -/

namespace Sys2Proof.Machine

open Sys2Proof

/-! A load's START. -/

/-- The fields that a write of IMEM_LD_CTL takes. -/
def State.loadPut (s : State) (c : Nat) (t : Strm) (w : Word) : State :=
  (((s.setFld (Reg.IMEM_LD_CTL c (sidx t)) Fld.IMEM_LD_CTL_TARGET (wordFld w Fld.IMEM_LD_CTL_TARGET)).setFld
    (Reg.IMEM_LD_CTL c (sidx t)) Fld.IMEM_LD_CTL_BANK (wordFld w Fld.IMEM_LD_CTL_BANK)).setFld
    (Reg.IMEM_LD_CTL c (sidx t)) Fld.IMEM_LD_CTL_COUNT (wordFld w Fld.IMEM_LD_CTL_COUNT)).setFld
    (Reg.IMEM_LD_CTL c (sidx t)) Fld.IMEM_LD_CTL_FIRST (wordFld w Fld.IMEM_LD_CTL_FIRST)

/-- A field set to a field of a word reads as that field. -/
theorem fld_setFld_wordFld (s : State) (a : Nat) (f : FieldPos) (w : Word) (h : f.lo + f.width ≤ 64) :
    (s.setFld a f (wordFld w f)).fld a f = wordFld w f :=
  (fld_setFld_self _ _ _ _ h).trans (Nat.mod_eq_of_lt (wordFld_lt w f))

theorem fld_loadPut (s : State) (c : Nat) (t : Strm) (w : Word) :
    (s.loadPut c t w).fld (Reg.IMEM_LD_CTL c (sidx t)) Fld.IMEM_LD_CTL_TARGET = wordFld w Fld.IMEM_LD_CTL_TARGET
      ∧ (s.loadPut c t w).fld (Reg.IMEM_LD_CTL c (sidx t)) Fld.IMEM_LD_CTL_BANK = wordFld w Fld.IMEM_LD_CTL_BANK
      ∧ (s.loadPut c t w).fld (Reg.IMEM_LD_CTL c (sidx t)) Fld.IMEM_LD_CTL_COUNT = wordFld w Fld.IMEM_LD_CTL_COUNT
      ∧ (s.loadPut c t w).fld (Reg.IMEM_LD_CTL c (sidx t)) Fld.IMEM_LD_CTL_FIRST = wordFld w Fld.IMEM_LD_CTL_FIRST := by
  refine ⟨?_, ?_, ?_, fld_setFld_wordFld _ _ _ _ (by decide)⟩
  · rw [State.loadPut, fld_setFld_apart _ _ _ _ _ _ (by decide) (by decide),
      fld_setFld_apart _ _ _ _ _ _ (by decide) (by decide), fld_setFld_apart _ _ _ _ _ _ (by decide) (by decide),
      fld_setFld_wordFld _ _ _ _ (by decide)]
  · rw [State.loadPut, fld_setFld_apart _ _ _ _ _ _ (by decide) (by decide),
      fld_setFld_apart _ _ _ _ _ _ (by decide) (by decide), fld_setFld_wordFld _ _ _ _ (by decide)]
  · rw [State.loadPut, fld_setFld_apart _ _ _ _ _ _ (by decide) (by decide), fld_setFld_wordFld _ _ _ _ (by decide)]

theorem onStream_loadPut (s : State) (c : Nat) (t : Strm) (w : Word) {as : List Nat} (ha : Reg.IMEM_LD_CTL c (sidx t) ∈ as) :
    s.OnStream (s.loadPut c t w) c t (s.strm c t) as :=
  ((((State.OnStream.refl s c t as).setFld ha _ _).setFld ha _ _).setFld ha _ _).setFld ha _ _

theorem imemRegs_apart (c : Nat) (t : Strm) :
    Reg.IMEM_LD_STAT c (sidx t) ≠ Reg.IMEM_LD_CTL c (sidx t) ∧ Reg.IMEM_LD_SRC c (sidx t) ≠ Reg.IMEM_LD_CTL c (sidx t)
      ∧ Reg.STRM_CTL c (sidx t) ≠ Reg.IMEM_LD_CTL c (sidx t) := by
  unfold Reg.IMEM_LD_STAT Reg.IMEM_LD_CTL Reg.IMEM_LD_SRC Reg.STRM_CTL
  omega

theorem imemLdStat_lt_hostBase {c : Nat} (hc : c < nCores) (t : Strm) : Reg.IMEM_LD_STAT c (sidx t) < hostBase := by
  have := sidx_le t
  unfold nCores at hc
  unfold Reg.IMEM_LD_STAT hostBase
  omega

/-- The load that IMEM_LD_CTL asks for. -/
def State.loadJob (s : State) (c : Nat) (t : Strm) (w : Word) : LoadJob :=
  ⟨s.fld (Reg.IMEM_LD_SRC c (sidx t)) Fld.IMEM_LD_SRC_SRC, wordFld w Fld.IMEM_LD_CTL_TARGET, wordFld w Fld.IMEM_LD_CTL_BANK,
    wordFld w Fld.IMEM_LD_CTL_COUNT, wordFld w Fld.IMEM_LD_CTL_FIRST⟩

/-- A load under way in bank `b`: READY fallen, BUSY risen. -/
def State.loadUnderWay (s : State) (c : Nat) (t : Strm) (l : LoadJob) : State :=
  ((s.setFld (Reg.IMEM_LD_STAT c (sidx t)) (readyFld l.bank) 0).setFld (Reg.IMEM_LD_STAT c (sidx t))
    Fld.IMEM_LD_STAT_BUSY 1).modStrm c t fun x => { x with load := some l }

/-- A load refused for reason `n`. -/
def State.loadRefused (s : State) (c : Nat) (t : Strm) (n : Nat) : State :=
  (s.setFld (Reg.IMEM_LD_STAT c (sidx t)) Fld.IMEM_LD_STAT_ERR 1).report (0x7280 + n) (s.coreCtx c) (some c) 0

section
variable {s : State} {c : Nat} {t : Strm} {v : Word32}

theorem loadRefusal_loadPut {w : Word} {l : LoadJob} (hl : s.loadJob c t w = l) (hload : (s.strm c t).load = none) :
    (s.loadPut c t w).loadRefusal c t
      = if l.bank = s.strmBank c t then 1
        else if l.count = 0 ∨ l.target = 3 ∨ tableSize l.target < l.first + l.count ∨ l.src % 32 ≠ 0 then 2
        else 0 := by
  subst hl
  obtain ⟨htarget, hbank, hcount, hfirst⟩ := fld_loadPut s c t w
  obtain ⟨-, hsrc, hctl⟩ := imemRegs_apart c t
  have hon := onStream_loadPut s c t w (as := [Reg.IMEM_LD_CTL c (sidx t)]) (by simp)
  have hkeep : (s.loadPut c t w).strmBank c t = s.strmBank c t := by
    rw [State.strmBank, State.fld, hon.frame.1 _ (by simpa using hctl)]
    rfl
  have hsame : (s.loadPut c t w).fld (Reg.IMEM_LD_SRC c (sidx t)) Fld.IMEM_LD_SRC_SRC
      = s.fld (Reg.IMEM_LD_SRC c (sidx t)) Fld.IMEM_LD_SRC_SRC := by
    rw [State.fld, hon.frame.1 _ (by simpa using hsrc)]
    rfl
  simp only [State.loadRefusal, htarget, hbank, hcount, hfirst, hkeep, hsame, hon.strm, hload, Option.isSome_none,
    Bool.false_eq_true, or_false]
  rfl

theorem loadStart_eq (hstart : wordFld (v.setWidth 64) Fld.IMEM_LD_CTL_START = 1) :
    s.loadStart c t v = match (s.loadPut c t (v.setWidth 64)).loadRefusal c t with
      | 0 => (s.loadPut c t (v.setWidth 64)).loadUnderWay c t (s.loadJob c t (v.setWidth 64))
      | n => (s.loadPut c t (v.setWidth 64)).loadRefused c t n := by
  have hgo : ¬ wordFld (v.setWidth 64) Fld.IMEM_LD_CTL_START = 0 := by omega
  obtain ⟨htarget, hbank, hcount, hfirst⟩ := fld_loadPut s c t (v.setWidth 64)
  obtain ⟨-, hsrc, -⟩ := imemRegs_apart c t
  have hsame : (s.loadPut c t (v.setWidth 64)).fld (Reg.IMEM_LD_SRC c (sidx t)) Fld.IMEM_LD_SRC_SRC
      = s.fld (Reg.IMEM_LD_SRC c (sidx t)) Fld.IMEM_LD_SRC_SRC := by
    rw [State.fld, (onStream_loadPut s c t _ (as := [Reg.IMEM_LD_CTL c (sidx t)]) (by simp)).frame.1 _ (by simpa using hsrc)]
    rfl
  have hjob : s.loadJob c t (v.setWidth 64)
      = ⟨(s.loadPut c t (v.setWidth 64)).fld (Reg.IMEM_LD_SRC c (sidx t)) Fld.IMEM_LD_SRC_SRC,
          (s.loadPut c t (v.setWidth 64)).fld (Reg.IMEM_LD_CTL c (sidx t)) Fld.IMEM_LD_CTL_TARGET,
          (s.loadPut c t (v.setWidth 64)).fld (Reg.IMEM_LD_CTL c (sidx t)) Fld.IMEM_LD_CTL_BANK,
          (s.loadPut c t (v.setWidth 64)).fld (Reg.IMEM_LD_CTL c (sidx t)) Fld.IMEM_LD_CTL_COUNT,
          (s.loadPut c t (v.setWidth 64)).fld (Reg.IMEM_LD_CTL c (sidx t)) Fld.IMEM_LD_CTL_FIRST⟩ := by
    rw [hsame, htarget, hbank, hcount, hfirst]
    rfl
  rw [hjob]
  simp only [State.loadStart, if_neg hgo]
  rfl

/-- READY of one bank is apart from READY of the other, from ERR and from BUSY. -/
theorem readyFld_apart {b b' : Nat} (h : (b = 0) ≠ (b' = 0)) :
    (readyFld b').lo + (readyFld b').width ≤ (readyFld b).lo ∨ (readyFld b).lo + (readyFld b).width ≤ (readyFld b').lo := by
  unfold readyFld
  split <;> split
  · exact absurd (by simp_all) h
  · decide
  · decide
  · exact absurd (by simp_all) h

theorem readyFld_fits (b : Nat) : (readyFld b).lo + (readyFld b).width ≤ 64 ∧ (readyFld b).width = 1
    ∧ Fld.IMEM_LD_STAT_ERR.lo + Fld.IMEM_LD_STAT_ERR.width ≤ (readyFld b).lo
    ∧ Fld.IMEM_LD_STAT_BUSY.lo + Fld.IMEM_LD_STAT_BUSY.width ≤ (readyFld b).lo := by
  unfold readyFld
  split <;> decide

/-- What an accepted START leaves. -/
theorem loadUnderWay_parts (s u : State) (c : Nat) (t : Strm) (l : LoadJob) (hb : l.bank < 2)
    (hu : ∀ f, u.fld (Reg.IMEM_LD_STAT c (sidx t)) f = s.fld (Reg.IMEM_LD_STAT c (sidx t)) f) :
    ((u.loadUnderWay c t l).strm c t).load = some l
      ∧ (u.loadUnderWay c t l).fld (Reg.IMEM_LD_STAT c (sidx t)) Fld.IMEM_LD_STAT_BUSY = 1
      ∧ (u.loadUnderWay c t l).fld (Reg.IMEM_LD_STAT c (sidx t)) (readyFld l.bank) = 0
      ∧ (u.loadUnderWay c t l).fld (Reg.IMEM_LD_STAT c (sidx t)) (readyFld (1 - l.bank))
          = s.fld (Reg.IMEM_LD_STAT c (sidx t)) (readyFld (1 - l.bank)) := by
  obtain ⟨hfits, -, -, hbusy⟩ := readyFld_fits l.bank
  obtain ⟨-, -, -, hbusy'⟩ := readyFld_fits (1 - l.bank)
  refine ⟨?_, ?_, ?_, ?_⟩
  · rw [State.loadUnderWay, strm_modStrm_self]
  · exact (fld_modStrm ..).trans (fld_setFld_self _ _ _ _ (by decide))
  · refine (fld_modStrm ..).trans <| (fld_setFld_apart _ _ _ _ _ _ (by decide) (.inr hbusy)).trans ?_
    rw [fld_setFld_self _ _ _ _ hfits, Nat.zero_mod]
  · have hother : (l.bank = 0) ≠ (1 - l.bank = 0) := by
      simp only [ne_eq, eq_iff_iff]
      omega
    exact (fld_modStrm ..).trans <| (fld_setFld_apart _ _ _ _ _ _ (by decide) (.inr hbusy')).trans <|
      (fld_setFld_apart _ _ _ _ _ _ hfits (readyFld_apart hother)).trans (hu _)

/-- What a refused START leaves. -/
theorem loadRefused_parts (u : State) {c : Nat} (hc : c < nCores) (t : Strm) (n b : Nat) :
    (u.loadRefused c t n).fld (Reg.IMEM_LD_STAT c (sidx t)) Fld.IMEM_LD_STAT_ERR = 1
      ∧ (u.loadRefused c t n).fld (Reg.IMEM_LD_STAT c (sidx t)) (readyFld b)
          = u.fld (Reg.IMEM_LD_STAT c (sidx t)) (readyFld b)
      ∧ (u.loadRefused c t n).strm c t = u.strm c t := by
  have hreg := reg_report_of_lt (u.setFld (Reg.IMEM_LD_STAT c (sidx t)) Fld.IMEM_LD_STAT_ERR 1) (0x7280 + n)
    (u.coreCtx c) (some c) 0
    (imemLdStat_lt_hostBase hc t)
  obtain ⟨-, -, herr, -⟩ := readyFld_fits b
  refine ⟨?_, ?_, ?_⟩
  · rw [State.loadRefused, State.fld, hreg, ← State.fld, fld_setFld_self _ _ _ _ (by decide)]
    decide
  · rw [State.loadRefused, State.fld, hreg, ← State.fld, fld_setFld_apart _ _ _ _ _ _ (by decide) (.inr herr)]
  · rw [State.loadRefused, State.strm, core_report]
    rfl

theorem tables_loadUnderWay (u : State) (c : Nat) (t : Strm) (l : LoadJob) :
    (u.loadUnderWay c t l).strm c t = { u.strm c t with load := some l } := strm_modStrm_self ..

theorem framed_loadUnderWay {as : List Nat} {u : State} (hu : framed s u as) (ha : Reg.IMEM_LD_STAT c (sidx t) ∈ as)
    (l : LoadJob) : framed s (u.loadUnderWay c t l) as := framed_setFld (framed_setFld hu ha _ _) ha _ _

end

/-- What IMEM_LOAD_START leaves, as O19 states it. -/
theorem loadStart_spec {s : State} {c : Nat} (hc : c < nCores) {t : Strm} {v : Word32} (hload : (s.strm c t).load = none)
    (hstart : wordFld (v.setWidth 64) Fld.IMEM_LD_CTL_START = 1) {l : LoadJob} (hl : s.loadJob c t (v.setWidth 64) = l) :
    let u := s.loadStart c t v
    (l.bank ≠ s.strmBank c t → 1 ≤ l.count → l.target < 3 → l.first + l.count ≤ (if l.target = 0 then 2048 else 32) →
        l.src % 32 = 0 →
        (u.strm c t).load = some l ∧ u.fld (Reg.IMEM_LD_STAT c (sidx t)) Fld.IMEM_LD_STAT_BUSY = 1
        ∧ u.fld (Reg.IMEM_LD_STAT c (sidx t)) (readyFld l.bank) = 0
        ∧ u.fld (Reg.IMEM_LD_STAT c (sidx t)) (readyFld (1 - l.bank))
            = s.fld (Reg.IMEM_LD_STAT c (sidx t)) (readyFld (1 - l.bank))
        ∧ framed s u [Reg.IMEM_LD_CTL c (sidx t), Reg.IMEM_LD_STAT c (sidx t)])
      ∧ (l.bank = s.strmBank c t → u.fld (Reg.IMEM_LD_STAT c (sidx t)) Fld.IMEM_LD_STAT_ERR = 1 ∧ (u.strm c t).load = none
          ∧ u.fld (Reg.IMEM_LD_STAT c (sidx t)) (readyFld l.bank)
              = s.fld (Reg.IMEM_LD_STAT c (sidx t)) (readyFld l.bank))
      ∧ (u.strm c t).imem = (s.strm c t).imem ∧ (u.strm c t).ptrs = (s.strm c t).ptrs
      ∧ (u.strm c t).descs = (s.strm c t).descs := by
  intro u
  have hon := onStream_loadPut s c t (v.setWidth 64) (as := [Reg.IMEM_LD_CTL c (sidx t), Reg.IMEM_LD_STAT c (sidx t)])
    (by simp)
  have hstat : ∀ f, (s.loadPut c t (v.setWidth 64)).fld (Reg.IMEM_LD_STAT c (sidx t)) f
      = s.fld (Reg.IMEM_LD_STAT c (sidx t)) f := fun f => by
    have hnarrow := onStream_loadPut s c t (v.setWidth 64) (as := [Reg.IMEM_LD_CTL c (sidx t)]) (by simp)
    rw [State.fld, hnarrow.frame.1 _ (by simpa using (imemRegs_apart c t).1)]
    rfl
  have hrefusal := loadRefusal_loadPut hl hload
  have hu : u = _ := loadStart_eq hstart
  rw [hl] at hu
  by_cases hbank : l.bank = s.strmBank c t
  · rw [if_pos hbank] at hrefusal
    rw [hrefusal] at hu
    obtain ⟨herr, hready, hstrm⟩ := loadRefused_parts (s.loadPut c t (v.setWidth 64)) hc t 1 l.bank
    rw [hon.strm] at hstrm
    change u = (s.loadPut c t (v.setWidth 64)).loadRefused c t 1 at hu
    rw [hu]
    exact ⟨fun hne => absurd hbank hne, fun _ => ⟨herr, by rw [hstrm]; exact hload, hready.trans (hstat _)⟩,
      by rw [hstrm], by rw [hstrm], by rw [hstrm]⟩
  · rw [if_neg hbank] at hrefusal
    by_cases hbad : l.count = 0 ∨ l.target = 3 ∨ tableSize l.target < l.first + l.count ∨ l.src % 32 ≠ 0
    · rw [if_pos hbad] at hrefusal
      rw [hrefusal] at hu
      obtain ⟨-, -, hstrm⟩ := loadRefused_parts (s.loadPut c t (v.setWidth 64)) hc t 2 l.bank
      rw [hon.strm] at hstrm
      change u = (s.loadPut c t (v.setWidth 64)).loadRefused c t 2 at hu
      rw [hu]
      refine ⟨fun _ hcount htarget hsize hsrc => ?_, fun h => absurd h hbank, by rw [hstrm], by rw [hstrm], by rw [hstrm]⟩
      simp only [tableSize] at hbad
      omega
    · rw [if_neg hbad] at hrefusal
      rw [hrefusal] at hu
      have hlt : l.bank < 2 := hl ▸ wordFld_lt _ Fld.IMEM_LD_CTL_BANK
      obtain ⟨hunder, hbusy, hready, hother⟩ := loadUnderWay_parts s (s.loadPut c t (v.setWidth 64)) c t l hlt hstat
      have hstrm := tables_loadUnderWay (s.loadPut c t (v.setWidth 64)) c t l
      rw [hon.strm] at hstrm
      change u = (s.loadPut c t (v.setWidth 64)).loadUnderWay c t l at hu
      rw [hu]
      exact ⟨fun _ _ _ _ _ => ⟨hunder, hbusy, hready, hother, framed_loadUnderWay hon.frame (by simp) l⟩,
        fun h => absurd h hbank, by rw [hstrm], by rw [hstrm], by rw [hstrm]⟩

/-! A load's end. -/

/-- The sectors of a load whose source can be read. -/
theorem loadSectors_of_ok {c : Nat} {t : Strm} {s : State} {n : Nat} {a : Nat} {ds : Nat → Sector}
    (h : ∀ k < n, s.fetchSec c t 4 (a + 32 * k) = (s, .ok (ds k))) :
    loadSectors c t n a s = ((List.range n).map ds, s) := by
  induction n generalizing a ds with
  | zero => rfl
  | succ n ih =>
    have hfirst := h 0 (by omega)
    rw [Nat.mul_zero, Nat.add_zero] at hfirst
    have hrest := ih (a := a + 32) (ds := fun k => ds (k + 1)) fun k hk => by
      have hnext := h (k + 1) (by omega)
      rwa [show a + 32 * (k + 1) = a + 32 + 32 * k by ring] at hnext
    simp only [loadSectors, hfirst, hrest, List.range_succ_eq_map, List.map_cons, List.map_map]
    rfl

/-- A sector of a bit string. -/
theorem sectorsBits_div_mod (l : List Sector) (k : Nat) :
    sectorsBits l / 2 ^ (256 * k) % 2 ^ 256 = (l.getD k 0).toNat := by
  induction l generalizing k with
  | nil => simp [sectorsBits]
  | cons d l ih =>
    have hd := d.isLt
    cases k with
    | zero =>
      simp only [sectorsBits, Nat.mul_zero, Nat.pow_zero, Nat.div_one, Nat.add_mul_mod_self_left, List.getD_cons_zero]
      exact Nat.mod_eq_of_lt hd
    | succ k =>
      rw [sectorsBits, show 256 * (k + 1) = 256 + 256 * k by ring, Nat.pow_add, ← Nat.div_div_eq_div_mul,
        Nat.add_mul_div_left _ _ (by positivity), Nat.div_eq_of_lt hd, Nat.zero_add, ih, List.getD_cons_succ]

/-- An entry that lies within one sector. -/
theorem entryOf_sectorsBits {l : List Sector} {w i k r : Nat} (hi : w * i = 256 * k + w * r) (hr : w * r + w ≤ 256) :
    entryOf (sectorsBits l) w i = (l.getD k 0).toNat / 2 ^ (w * r) % 2 ^ w := by
  obtain ⟨m, hm⟩ : ∃ m, 256 = w * r + w + m := ⟨256 - (w * r + w), by omega⟩
  have hsplit : 2 ^ 256 = 2 ^ (w * r) * (2 ^ w * 2 ^ m) := by rw [← Nat.pow_add, ← Nat.pow_add, ← Nat.add_assoc, ← hm]
  rw [entryOf, hi, Nat.pow_add, ← Nat.div_div_eq_div_mul, ← sectorsBits_div_mod l k, hsplit, Nat.mod_mul_right_div_self,
    Nat.mod_mul_right_mod]

/-- Entries written stand at their keys. -/
theorem mget_putEntries_below {α : Type} (xs : List α) (m : SMap α) (d : α) {k j : Nat} (h : j < k) :
    mget (putEntries k m xs) d j = mget m d j := by
  induction xs generalizing k m with
  | nil => rfl
  | cons x xs ih => rw [putEntries, ih _ (by omega), mget_mset_ne _ _ _ _ _ (by omega)]

theorem mget_putEntries {α : Type} (xs : List α) (m : SMap α) (d : α) (k : Nat) {i : Nat} (h : i < xs.length) :
    mget (putEntries k m xs) d (k + i) = xs.getD i d := by
  induction xs generalizing k m i with
  | nil => simp at h
  | cons x xs ih =>
    cases i with
    | zero => rw [putEntries, Nat.add_zero k, mget_putEntries_below _ _ _ (by omega), mget_mset_self, List.getD_cons_zero]
    | succ i =>
      rw [putEntries, show k + (i + 1) = k + 1 + i by ring, ih _ _ (by simpa using h), List.getD_cons_succ]

/-- A stream's tables with the entries that a load of the sectors `xs` brings, and the load over. -/
def LoadJob.fill (l : LoadJob) (xs : List Sector) (x : StreamState) : StreamState :=
  let es := (List.range l.count).map (entryOf (sectorsBits xs) (8 * itemBytes l.target))
  let k := l.bank * tableSize l.target + l.first
  let y : StreamState := match l.target with
    | 0 => { x with imem := putEntries k x.imem (es.map (BitVec.ofNat 128)) }
    | 1 => { x with ptrs := putEntries k x.ptrs (es.map (BitVec.ofNat 64)) }
    | _ => { x with descs := putEntries k x.descs (es.map (BitVec.ofNat 256)) }
  { y with load := none }

theorem LoadJob.fill_kept (l : LoadJob) (xs : List Sector) (x : StreamState) :
    (l.fill xs x).load = none ∧ (l.fill xs x).hold = x.hold ∧ (l.fill xs x).stepping = x.stepping := by
  refine ⟨rfl, ?_, ?_⟩
  all_goals
    unfold LoadJob.fill
    dsimp only
    split <;> rfl

/-- The state behind a load's last sector. -/
def State.loaded (s : State) (c : Nat) (t : Strm) (l : LoadJob) (xs : List Sector) : State :=
  ((s.modStrm c t (l.fill xs)).setFld (Reg.IMEM_LD_STAT c (sidx t)) (readyFld l.bank) 1).setFld
    (Reg.IMEM_LD_STAT c (sidx t)) Fld.IMEM_LD_STAT_BUSY 0

/-- How many sectors a load takes. -/
def LoadJob.sectors (l : LoadJob) : Nat := (l.count * itemBytes l.target + 31) / 32

section
variable {s : State} {c : Nat} {t : Strm} {l : LoadJob} {ds : Nat → Sector}

theorem loadDone_eq (hload : (s.strm c t).load = some l)
    (h : ∀ k, 32 * k < l.count * itemBytes l.target → s.fetchSec c t 4 (l.src + 32 * k) = (s, .ok (ds k))) :
    s.loadDone c t = (s.loaded c t l ((List.range l.sectors).map ds)).pump c := by
  have hsecs : loadSectors c t l.sectors l.src s = ((List.range l.sectors).map ds, s) :=
    loadSectors_of_ok fun k hk => h k (by unfold LoadJob.sectors at hk; omega)
  unfold LoadJob.sectors at hsecs
  simp only [State.loadDone, hload, hsecs]
  rfl

theorem onStream_loaded (xs : List Sector) :
    s.OnStream (s.loaded c t l xs) c t (l.fill xs (s.strm c t)) [Reg.IMEM_LD_STAT c (sidx t)] :=
  (((State.OnStream.refl s c t [Reg.IMEM_LD_STAT c (sidx t)]).modStrm (l.fill xs)).setFld (by simp) _ _).setFld (by simp) _ _

theorem calm_loaded (h : s.coreCalm c = true) (xs : List Sector) : (s.loaded c t l xs).coreCalm c = true := by
  have hon := onStream_loaded (s := s) (c := c) (t := t) (l := l) xs
  obtain ⟨-, hhold, hstep⟩ := l.fill_kept xs (s.strm c t)
  obtain ⟨-, -, ha, he, -⟩ := calm_parts h
  have harray : Reg.ARRAY_STAT c ∉ [Reg.IMEM_LD_STAT c (sidx t)] := by
    have := sidx_le t
    simp only [List.mem_singleton]
    unfold Reg.ARRAY_STAT Reg.IMEM_LD_STAT
    omega
  have hcomb : Reg.CB_CFG c ∉ [Reg.IMEM_LD_STAT c (sidx t)] := by
    have := sidx_le t
    simp only [List.mem_singleton]
    unfold Reg.CB_CFG Reg.IMEM_LD_STAT
    omega
  obtain ⟨n, hcore⟩ := hon.core
  refine calm_of h ?_ ?_ ?_ ?_ ?_ ?_ (hon.frame.1 _ harray) (hon.frame.1 _ hcomb) ?_
  all_goals
    rw [hcore]
    cases t <;> simp_all [Core.setStrm, State.strm, Core.strm]

end

/-! The entries. -/

/-- Entry `i`, of `w` bits, of which a sector holds `m`. -/
theorem ofNat_entryOf {w m n i : Nat} (hm : 0 < m) (hw : w * m = 256) (hi : i / m < n) (ds : Nat → Sector) :
    BitVec.ofNat w (entryOf (sectorsBits ((List.range n).map ds)) w i)
      = BitVec.ofNat w ((ds (i / m)).toNat / 2 ^ (w * (i % m))) := by
  have hplace : w * i = 256 * (i / m) + w * (i % m) := by
    rw [← hw, Nat.mul_assoc, ← Nat.mul_add, Nat.div_add_mod]
  have hroom : w * (i % m) + w ≤ 256 := by
    rw [← hw, ← Nat.mul_succ]
    exact Nat.mul_le_mul_left w (Nat.mod_lt i hm)
  rw [entryOf_sectorsBits hplace hroom]
  have hget : ((List.range n).map ds).getD (i / m) 0 = ds (i / m) := by simp [hi]
  rw [hget]
  exact BitVec.eq_of_toNat_eq (by simp only [BitVec.toNat_ofNat, Nat.mod_mod])

section
variable {l : LoadJob} {i : Nat}

theorem mget_fill_imem (h : l.target = 0) (hi : i < l.count) (xs : List Sector) (x : StreamState) :
    mget (l.fill xs x).imem 0 (l.bank * 2048 + l.first + i) = BitVec.ofNat 128 (entryOf (sectorsBits xs) 128 i) := by
  have hfill : (l.fill xs x).imem = putEntries (l.bank * 2048 + l.first) x.imem
      (((List.range l.count).map (entryOf (sectorsBits xs) 128)).map (BitVec.ofNat 128)) := by
    simp [LoadJob.fill, h, itemBytes, tableSize]
  rw [hfill, mget_putEntries _ _ _ _ (by simpa using hi)]
  simp [hi]

theorem mget_fill_ptrs (h : l.target = 1) (hi : i < l.count) (xs : List Sector) (x : StreamState) :
    mget (l.fill xs x).ptrs 0 (l.bank * 32 + l.first + i) = BitVec.ofNat 64 (entryOf (sectorsBits xs) 64 i) := by
  have hfill : (l.fill xs x).ptrs = putEntries (l.bank * 32 + l.first) x.ptrs
      (((List.range l.count).map (entryOf (sectorsBits xs) 64)).map (BitVec.ofNat 64)) := by
    simp [LoadJob.fill, h, itemBytes, tableSize]
  rw [hfill, mget_putEntries _ _ _ _ (by simpa using hi)]
  simp [hi]

theorem mget_fill_descs (h : l.target = 2) (hi : i < l.count) (xs : List Sector) (x : StreamState) :
    mget (l.fill xs x).descs 0 (l.bank * 32 + l.first + i) = BitVec.ofNat 256 (entryOf (sectorsBits xs) 256 i) := by
  have hfill : (l.fill xs x).descs = putEntries (l.bank * 32 + l.first) x.descs
      (((List.range l.count).map (entryOf (sectorsBits xs) 256)).map (BitVec.ofNat 256)) := by
    simp [LoadJob.fill, h, itemBytes, tableSize]
  rw [hfill, mget_putEntries _ _ _ _ (by simpa using hi)]
  simp [hi]

end

theorem strm_tidyFlights (s : State) (c : Nat) (t : Strm) : (s.tidyFlights c).strm c t = s.strm c t := by
  obtain ⟨fs, h⟩ := core_tidyFlights_eq s c c
  rw [State.strm, h]
  cases t <;> rfl

theorem fld_tidyFlights (s : State) (c a : Nat) (f : FieldPos) : (s.tidyFlights c).fld a f = s.fld a f := by
  have hframe : framed s (s.tidyFlights c) [] := framed_tidyFlights ⟨fun _ _ => rfl, sameMemory_refl s⟩ c
  rw [State.fld, hframe.1 a List.not_mem_nil]
  rfl

theorem fld_loaded (s : State) (c : Nat) (t : Strm) (l : LoadJob) (xs : List Sector) :
    (s.loaded c t l xs).fld (Reg.IMEM_LD_STAT c (sidx t)) (readyFld l.bank) = 1
      ∧ (s.loaded c t l xs).fld (Reg.IMEM_LD_STAT c (sidx t)) Fld.IMEM_LD_STAT_BUSY = 0 := by
  obtain ⟨hfits, hwidth, -, hbusy⟩ := readyFld_fits l.bank
  constructor
  · rw [State.loaded, fld_setFld_apart _ _ _ _ _ _ (by decide) (.inr hbusy), fld_setFld_self _ _ _ _ hfits, hwidth]
    rfl
  · rw [State.loaded, fld_setFld_self _ _ _ _ (by decide), Nat.zero_mod]

/-- Settles O19: a START by what its refusal depends on, the end of a load by the entries of its sectors. -/
theorem loaderFillsBanks : Obligations.LoaderFillsBanks := by
  refine ⟨fun c t who v s hears hload => ?_, fun c t l ds s hload hbank hcalm hread => ?_⟩
  · intro w b tg n i src st hstart
    obtain ⟨m, hm⟩ := asked_of_hears hears c.val (.imemLoadStart c t who v) fun s => s.loadStart c.val t v
    exact ⟨{ s.loadStart c.val t v with mgr := m }, congrArg Host.Outcome.next hm, loadStart_spec c.isLt hload hstart rfl⟩
  · have hon := onStream_loaded (s := s) (c := c.val) (t := t) (l := l) ((List.range l.sectors).map ds)
    have hstrm : ((s.loaded c.val t l ((List.range l.sectors).map ds)).tidyFlights c.val).strm c.val t
        = l.fill ((List.range l.sectors).map ds) (s.strm c.val t) := (strm_tidyFlights ..).trans hon.strm
    obtain ⟨hready, hbusy⟩ := fld_loaded s c.val t l ((List.range l.sectors).map ds)
    refine ⟨(s.loaded c.val t l ((List.range l.sectors).map ds)).tidyFlights c.val, ?_, ?_, ?_, ?_, fun i hi htarget => ?_,
      fun i hi htarget => ?_, fun i hi htarget => ?_, framed_tidyFlights hon.frame c.val, fun k hk => ?_⟩
    · change Host.Outcome.next (s.loadDone c.val t) = _
      rw [loadDone_eq hload hread, pump_of_calm (calm_loaded hcalm _)]
    · rw [hstrm]
      exact (l.fill_kept _ _).1
    · rw [fld_tidyFlights, hready]
    · rw [fld_tidyFlights, hbusy]
    · have hbytes : itemBytes l.target = 16 := by rw [htarget]; rfl
      rw [hstrm, mget_fill_imem htarget hi]
      exact ofNat_entryOf (by decide) (by decide) (by rw [LoadJob.sectors, hbytes]; omega) ds
    · have hbytes : itemBytes l.target = 8 := by rw [htarget]; rfl
      rw [hstrm, mget_fill_ptrs htarget hi]
      exact ofNat_entryOf (by decide) (by decide) (by rw [LoadJob.sectors, hbytes]; omega) ds
    · have hbytes : itemBytes l.target = 32 := by rw [htarget]; rfl
      rw [hstrm, mget_fill_descs htarget hi]
      have hentry := ofNat_entryOf (w := 256) (m := 1) (n := l.sectors) (i := i) (by decide) (by decide)
        (by rw [LoadJob.sectors, hbytes]; omega) ds
      simpa [Nat.mod_one] using hentry
    · rw [core_tidyFlights_ne _ hk, hon.others k hk]

end Sys2Proof.Machine
end

section
/-! PROOFS. SIG and WAIT at local pennants, and the signals that leave (R130, R183–R185, R190). -/

namespace Sys2Proof.Machine

open Sys2Proof

/-! Pennants at which nothing waits. -/

/-- A change reaches nobody where nothing waits and nothing is on its way. -/
theorem penChanged_of_quiet {s : State} (htable : s.penTable = []) (hmsgs : s.penMsgs = []) (k : Nat) :
    s.penChanged k = s := by
  have hafar : s.afarWaiters k = [] := by simp [State.afarWaiters, htable, hmsgs]
  have hlearn : ({ s with
      penTable := s.penTable.map fun (e : Nat × List Waiter) => (e.1, e.2.map (Waiter.learn e.1 k (s.penVal k)))
      penMsgs := s.penMsgs.map (PenMsg.learn k (s.penVal k))
      penFwds := s.penFwds ++ forwards (s.penVal k) s.nextId (s.afarWaiters k)
      nextId := s.nextId + (forwards (s.penVal k) s.nextId (s.afarWaiters k)).length } : State) = s := by
    rw [hafar, htable, hmsgs]
    simp only [forwards, List.map_nil, List.append_nil, List.length_nil, Nat.add_zero]
    rw [← htable, ← hmsgs]
  have hserve : s.penServe k = s := by
    have hmdel : ({ s with penTable := mdel s.penTable k } : State) = s := by
      rw [htable]
      change ({ s with penTable := [] } : State) = s
      rw [← htable]
    simp only [State.penServe, htable, mget_nil, servePlain, serveTakes, if_true, List.isEmpty_nil, List.append_nil,
      List.foldl_nil]
    rwa [htable] at hmdel
  simp only [State.penChanged]
  rw [hlearn, hserve, htable]
  rfl

/-! The registers of a local pennant. -/

theorem localKey_parts {c n : Nat} (hn : n < 64) :
    isLocalPen (localKey c n) = true ∧ localCore (localKey c n) = c ∧ localNum (localKey c n) = n := by
  unfold isLocalPen localCore localNum localKey
  refine ⟨decide_eq_true (by omega), by omega, by omega⟩

theorem penValReg_localKey {c n : Nat} (hn : n < 64) : penValReg (localKey c n) = Reg.LPEN_VAL c n := by
  obtain ⟨hlocal, hcore, hnum⟩ := localKey_parts (c := c) hn
  rw [penValReg, if_pos hlocal, hcore, hnum]

theorem penCounting_localKey (s : State) {c n : Nat} (hn : n < 64) :
    s.penCounting (localKey c n) = s.flag (Reg.LPEN_STAT c n) Fld.LPEN_STAT_KIND := by
  obtain ⟨hlocal, hcore, hnum⟩ := localKey_parts (c := c) hn
  rw [State.penCounting, if_pos hlocal, hcore, hnum]

/-- The registers of a local pennant are apart from each other, from those of the streams and from TICK. -/
theorem lpenRegs_apart {c n : Nat} (hn : n < 64) (t : Strm) :
    Reg.LPEN_VAL c n ≠ Reg.LPEN_STAT c n ∧ Reg.LPEN_VAL c n ≠ Reg.LPEN_TICK c n ∧ Reg.LPEN_STAT c n ≠ Reg.LPEN_TICK c n
      ∧ Reg.STRM_STAT c (sidx t) ≠ Reg.LPEN_VAL c n ∧ Reg.STRM_STAT c (sidx t) ≠ Reg.LPEN_STAT c n
      ∧ Reg.STRM_STAT c (sidx t) ≠ Reg.LPEN_TICK c n ∧ Reg.TICK ≠ Reg.LPEN_VAL c n := by
  have := sidx_le t
  unfold Reg.LPEN_VAL Reg.LPEN_STAT Reg.LPEN_TICK Reg.STRM_STAT Reg.TICK
  omega

/-- The registers that a signal at a local pennant changes, with that of its stream. -/
def lpenRegs (c n : Nat) (t : Strm) : List Nat :=
  [Reg.STRM_STAT c (sidx t), Reg.LPEN_VAL c n, Reg.LPEN_STAT c n, Reg.LPEN_TICK c n]

theorem lpenRegs_spareUnits {c n : Nat} (hn : n < 64) (t : Strm) : sparesUnits c (lpenRegs c n t) := by
  have := sidx_le t
  simp only [sparesUnits, lpenRegs, List.mem_cons, List.not_mem_nil, or_false, not_or]
  unfold Reg.ARRAY_STAT Reg.CB_CFG Reg.STRM_STAT Reg.LPEN_VAL Reg.LPEN_STAT Reg.LPEN_TICK
  omega

/-- The limit of a pennant's value (R183). -/
def penLimit (counting : Bool) : Nat := if counting then 2 ^ 32 else 2 ^ 48

theorem penVal_lt (s : State) (k : Nat) : s.penVal k < penLimit (s.penCounting k) := by
  unfold State.penVal penLimit
  exact Nat.mod_lt _ (by split <;> positivity)

theorem penLimit_lt (counting : Bool) : penLimit counting < 2 ^ 64 := by
  unfold penLimit
  split <;> decide

/-- What an applied signal makes of a value below the limit. -/
theorem penApply_ok {counting : Bool} {x op amount v : Nat} (hx : x < penLimit counting)
    (h : penApply counting x op amount = .ok v) :
    v < penLimit counting ∧ (op = 0 → v = x + amount) ∧ (op = 1 → x = v + amount) := by
  have hlimit : (if counting then 2 ^ 32 - 1 else 2 ^ 48 - 1) = penLimit counting - 1 := by
    unfold penLimit
    split <;> rfl
  simp only [penApply, hlimit] at h
  by_cases hop : op = 0
  · rw [if_pos hop] at h
    split at h
    · cases h
    · cases h
      exact ⟨by omega, fun _ => rfl, fun hone => by omega⟩
  · rw [if_neg hop] at h
    split at h
    · cases h
    · split at h
      · cases h
      · cases h
        exact ⟨by omega, fun hzero => absurd hzero hop, fun _ => by omega⟩

/-- A value set reads back. -/
theorem penVal_of_reg {u : State} {k v : Nat} (hreg : u.reg (penValReg k) = BitVec.ofNat 64 v)
    (hv : v < penLimit (u.penCounting k)) : u.penVal k = v := by
  have hvalue : (BitVec.ofNat 64 v).toNat = v := by
    rw [BitVec.toNat_ofNat, Nat.mod_eq_of_lt (hv.trans (penLimit_lt _))]
  rw [State.penVal, hreg, hvalue]
  exact Nat.mod_eq_of_lt hv

/-! SIG at a local pennant. -/

/-- A local pennant with the value and the record that a signal of stream `t` leaves. -/
def State.localSignal (s : State) (c n v : Nat) (t : Strm) : State :=
  (((s.setReg (Reg.LPEN_VAL c n) (BitVec.ofNat 64 v)).setFld (Reg.LPEN_STAT c n) Fld.LPEN_STAT_LAST_VALID 1).setFld
    (Reg.LPEN_STAT c n) Fld.LPEN_STAT_LAST_STREAM (sidx t)).setReg (Reg.LPEN_TICK c n) (BitVec.ofNat 64 (s.tick % 2 ^ 32))

section
variable {s : State} {c n v : Nat} {t : Strm}

theorem penSignal_local (hn : n < 64) (htable : s.penTable = []) (hmsgs : s.penMsgs = [])
    {op amount : Nat} (h : penApply (s.penCounting (localKey c n)) (s.penVal (localKey c n)) op amount = .ok v) (dev : Nat) :
    s.penSignal (localKey c n) ⟨dev, c, sidx t, false⟩ op amount = .ok (s.localSignal c n v t) := by
  obtain ⟨hlocal, hcore, hnum⟩ := localKey_parts (c := c) hn
  obtain ⟨-, -, -, -, -, -, htick⟩ := lpenRegs_apart (c := c) hn t
  have hstamp : (s.setPenVal (localKey c n) v).penStamp (localKey c n) ⟨dev, c, sidx t, false⟩ = s.localSignal c n v t := by
    have hkeep : (s.setReg (Reg.LPEN_VAL c n) (BitVec.ofNat 64 v)).tick = s.tick := by
      rw [State.tick, reg_setReg_ne _ _ htick, State.tick]
    simp only [State.penStamp, if_pos hlocal, hcore, hnum, State.setPenVal, penValReg_localKey hn, hkeep, State.localSignal]
  have hquiet : (s.localSignal c n v t).penChanged (localKey c n) = s.localSignal c n v t :=
    penChanged_of_quiet (s := s.localSignal c n v t) htable hmsgs _
  simp only [State.penSignal, h, hstamp, hquiet, ite_self]

theorem onStream_localSignal (s : State) (c n v : Nat) (t : Strm) :
    s.OnStream (s.localSignal c n v t) c t (s.strm c t) (lpenRegs c n t) :=
  ((((State.OnStream.refl s c t (lpenRegs c n t)).setReg (by simp [lpenRegs]) _).setFld (by simp [lpenRegs]) _ _).setFld
    (by simp [lpenRegs]) _ _).setReg (by simp [lpenRegs]) _

/-- STRM_STAT behind a signal at a local pennant. -/
theorem strmStat_localSignal (hn : n < 64) (v : Nat) (f : FieldPos) :
    (s.localSignal c n v t).fld (Reg.STRM_STAT c (sidx t)) f = s.fld (Reg.STRM_STAT c (sidx t)) f := by
  obtain ⟨-, -, -, hval, hstat, htick, -⟩ := lpenRegs_apart (c := c) hn t
  rw [State.localSignal, fld_setReg_ne _ _ _ htick, fld_setFld_ne _ _ _ _ hstat, fld_setFld_ne _ _ _ _ hstat,
    fld_setReg_ne _ _ _ hval]

/-- The pennant behind the signal, and behind the issue that made it. -/
theorem pennant_localSignal (hn : n < 64) (hv : v < penLimit (s.penCounting (localKey c n))) (i : Nat) :
    let u := (s.localSignal c n v t).issuedTo c t i
    u.penVal (localKey c n) = v ∧ u.penCounting (localKey c n) = s.penCounting (localKey c n)
      ∧ u.fld (Reg.LPEN_STAT c n) Fld.LPEN_STAT_LAST_VALID = 1
      ∧ u.fld (Reg.LPEN_STAT c n) Fld.LPEN_STAT_LAST_STREAM = sidx t
      ∧ (u.reg (Reg.LPEN_TICK c n)).toNat = s.tick % 2 ^ 32 := by
  intro u
  obtain ⟨hvs, hvt, hst, hsv, hss, hstk, -⟩ := lpenRegs_apart (c := c) hn t
  have hfld : ∀ f, u.fld (Reg.LPEN_STAT c n) f = (s.localSignal c n v t).fld (Reg.LPEN_STAT c n) f := fun f => by
    rw [State.fld, reg_issuedTo_ne _ _ _ _ hss.symm]
    rfl
  have hkind : u.penCounting (localKey c n) = s.penCounting (localKey c n) := by
    rw [penCounting_localKey _ hn, penCounting_localKey _ hn, State.flag, hfld, State.localSignal,
      fld_setReg_ne _ _ _ hst, fld_setFld_apart _ _ _ _ _ _ (by decide) (by decide),
      fld_setFld_apart _ _ _ _ _ _ (by decide) (by decide), fld_setReg_ne _ _ _ hvs.symm]
    rfl
  refine ⟨penVal_of_reg ?_ (hkind ▸ hv), hkind, ?_, ?_, ?_⟩
  · rw [penValReg_localKey hn, reg_issuedTo_ne _ _ _ _ hsv.symm, State.localSignal, reg_setReg_ne _ _ hvt,
      reg_setFld_ne _ _ _ hvs, reg_setFld_ne _ _ _ hvs, reg_setReg_self]
  · rw [hfld, State.localSignal, fld_setReg_ne _ _ _ hst, fld_setFld_apart _ _ _ _ _ _ (by decide) (by decide),
      fld_setFld_self _ _ _ _ (by decide)]
    rfl
  · rw [hfld, State.localSignal, fld_setReg_ne _ _ _ hst, fld_setFld_self _ _ _ _ (by decide)]
    cases t <;> rfl
  · rw [reg_issuedTo_ne _ _ _ _ hstk.symm, State.localSignal, reg_setReg_self, BitVec.toNat_ofNat]
    omega

theorem issueSig_local {w : Body} (hearlier : s.earlierDone c t = true) (hscope : bits w 121 120 = 0)
    (hn : bits w 119 108 < 64) (htable : s.penTable = []) (hmsgs : s.penMsgs = [])
    (h : penApply (s.penCounting (localKey c (bits w 119 108))) (s.penVal (localKey c (bits w 119 108))) (bits w 102 102)
      (bits w 101 86) = .ok v) :
    issueSig s c t w = (s.localSignal c (bits w 119 108) v t).issued c t := by
  have hlegal : ¬ (bits w 121 120 = 3 ∨ (bits w 121 120 = 0 ∧ 63 < bits w 119 108)) := by omega
  simp only [issueSig, if_neg hlegal, if_pos hscope, hearlier, if_true, penSignal_local hn htable hmsgs h]

/-- Whatever else a state holds, its cores, registers and memories make it one that differs in one stream. -/
theorem onStream_postPen (s : State) (c : Nat) (t : Strm) (as : List Nat) (k : Nat) (op : PenOp) :
    s.OnStream (s.postPen k op) c t (s.strm c t) as :=
  have h := State.OnStream.refl s c t as
  ⟨h.core, h.frame, h.others⟩

theorem issueSig_shared {w : Body} (hearlier : s.earlierDone c t = true) (hscope : bits w 121 120 = 1) {k : Nat}
    (h : s.penTranslate (s.coreCtx c) (bits w 119 108) = some k) :
    issueSig s c t w = (s.postPen k (.sig ⟨c, t⟩ (bits w 102 102) (bits w 101 86) (s.core c).nextIid (s.strmIndex c t)
      (s.strmBank c t))).issuedHolding c t (.signal (s.core c).nextIid) 4 := by
  simp [issueSig, hscope, h, hearlier]

theorem issueSig_pending {w : Body} (hearlier : s.earlierDone c t = true) (hscope : bits w 121 120 = 2)
    (halign : s.ptrAddr c t (bits w 107 103) % 32 = 0) (hdev : s.ptrDev c t (bits w 107 103) = s.rank) {e : Nat}
    (h : s.seqEntry c s.rank = some e) :
    issueSig s c t w = (s.postPen 0 (.toPending ⟨s.rank, c, sidx t, false⟩ (bits w 119 108) (bits w 102 102) (bits w 101 86)
      (s.wseq c e))).issued c t := by
  simp [issueSig, hscope, h, hearlier, State.checkPtr, halign, hdev]

/-! WAIT at a local pennant. -/

/-- What WAIT registers of its stream where its condition does not hold yet. -/
def waiterOf (c : Nat) (t : Strm) (mode imm : Nat) : Waiter := ⟨⟨c, t⟩, mode, imm, 0, [], []⟩

/-- WAIT in MODE 0 comes to waiting for a value. -/
theorem issueWait_plain {w : Body} (hscope : bits w 121 120 = 0) (hn : bits w 119 108 < 64) (hmode : bits w 95 94 = 0) :
    issueWait s c t w = s.waitOn c t (localKey c (bits w 119 108)) 0 0
      ((bits w 47 0 + (if bits w 93 91 = 0 then 0 else s.cnt c t (bits w 93 91))) % 2 ^ 48) := by
  have hlegal : ¬ 63 < bits w 119 108 := by omega
  simp [issueWait, hscope, hmode, hlegal, State.penNamed, State.cntAdj]

/-- WAIT in MODE 2 on a counting pennant comes to taking from its value. -/
theorem issueWait_take {w : Body} (hscope : bits w 121 120 = 0) (hn : bits w 119 108 < 64) (hmode : bits w 95 94 = 2)
    (hcount : s.penCounting (localKey c (bits w 119 108)) = true) (himm : bits w 47 0 < 2 ^ 32) :
    issueWait s c t w = s.waitOn c t (localKey c (bits w 119 108)) 0 2 (bits w 47 0) := by
  have hlegal : ¬ 63 < bits w 119 108 := by omega
  have himm' : ¬ 2 ^ 32 ≤ bits w 47 0 := by omega
  simp only [Nat.reducePow] at himm'
  simp [issueWait, hscope, hmode, hlegal, himm', State.penNamed, hcount]

theorem register_local (hn : n < 64) (htable : s.penTable = []) (wt : Waiter) :
    s.register c t (localKey c n) wt
      = { s.issuedHolding c t .pennant 4 with penTable := [(localKey c n, [wt])] } := by
  have hkeep : (s.issuedHolding c t .pennant 4).penTable = [] := htable
  simp only [State.register, if_pos (localKey_parts hn).1, hkeep]
  rfl

/-- A registration leaves the stream waiting. -/
theorem pump_register (hstill : s.coreStill c = true) (hstate : s.strmState c t = 1)
    (hstep : (s.strm c t).stepping = false) (hn : n < 64) (htable : s.penTable = []) (wt : Waiter) :
    let u := (s.register c t (localKey c n) wt).pump c
    u.holdsOn c t .pennant 4 ∧ u.penTable = [(localKey c n, [wt])] ∧ framed s u [Reg.STRM_STAT c (sidx t)] := by
  have hon := (State.OnStream.refl s c t [Reg.STRM_STAT c (sidx t)]).issuedHolding (by simp) .pennant 4
  have hreg : s.OnStream (s.register c t (localKey c n) wt) c t
      { s.strm c t with pastEnd := decide (2048 ≤ s.strmIndex c t + 1), hold := .pennant } [Reg.STRM_STAT c (sidx t)] := by
    rw [register_local hn htable]
    exact ⟨hon.core, hon.frame, hon.others⟩
  have hpump := hreg.pump (strmStat_spareUnits c t) hstill rfl hstep
  simp only [hpump]
  refine ⟨?_, ?_, hreg.frame⟩
  · rw [register_local hn htable]
    exact holdsOn_issuedHolding hstate .pennant (by decide)
  · rw [register_local hn htable]

/-- A pennant's value is that of its registers. -/
theorem penVal_congr {u : State} {k : Nat} (hval : u.reg (penValReg k) = s.reg (penValReg k))
    (hkind : u.penCounting k = s.penCounting k) : u.penVal k = s.penVal k := by
  rw [State.penVal, State.penVal, hval, hkind]

theorem penVal_of_framed {u : State} (hn : n < 64) (h : framed s u [Reg.STRM_STAT c (sidx t)]) :
    u.penVal (localKey c n) = s.penVal (localKey c n) := by
  obtain ⟨-, -, -, hval, hstat, -⟩ := lpenRegs_apart (c := c) hn t
  refine penVal_congr ?_ ?_
  · rw [penValReg_localKey hn]
    exact h.1 _ (by simpa using hval.symm)
  · rw [penCounting_localKey _ hn, penCounting_localKey _ hn, State.flag, State.fld, h.1 _ (by simpa using hstat.symm)]
    rfl

/-- A value taken from a local pennant, and the stream gone on. -/
theorem pump_take (hstill : s.coreStill c = true) (hstate : s.strmState c t = 1) (hstep : (s.strm c t).stepping = false)
    (hn : n < 64) {x : Nat} (hx : x < penLimit (s.penCounting (localKey c n))) :
    let u := ((s.setPenVal (localKey c n) x).issued c t).pump c
    u.wentTo c t (s.strmIndex c t + 1) ∧ u.penVal (localKey c n) = x
      ∧ framed s u [Reg.STRM_STAT c (sidx t), Reg.LPEN_VAL c n] := by
  obtain ⟨hvs, -, -, hsv, hss, -, -⟩ := lpenRegs_apart (c := c) hn t
  have hspare : sparesUnits c [Reg.STRM_STAT c (sidx t), Reg.LPEN_VAL c n] := by
    obtain ⟨harray, hcomb⟩ := lpenRegs_spareUnits (c := c) hn t
    simp only [lpenRegs, List.mem_cons, List.not_mem_nil, or_false, not_or] at harray hcomb
    simp [sparesUnits, harray, hcomb]
  have hset : s.setPenVal (localKey c n) x = s.setReg (Reg.LPEN_VAL c n) (BitVec.ofNat 64 x) := by
    rw [State.setPenVal, penValReg_localKey hn]
  have hon := (State.OnStream.refl s c t [Reg.STRM_STAT c (sidx t), Reg.LPEN_VAL c n]).setReg (a := Reg.LPEN_VAL c n)
    (by simp) (BitVec.ofNat 64 x)
  obtain ⟨hpump, hwent, hframe, -, -⟩ := hon.pump_issuedTo (by simp) hspare hstill hstep
    ((strmState_setReg_ne _ _ hsv).trans hstate) (s.strmIndex c t + 1)
  have hindex : (s.setReg (Reg.LPEN_VAL c n) (BitVec.ofNat 64 x)).strmIndex c t = s.strmIndex c t :=
    strmIndex_setReg_ne _ _ hsv
  simp only [hset, State.issued, hindex, hpump]
  have hkind : ((s.setReg (Reg.LPEN_VAL c n) (BitVec.ofNat 64 x)).issuedTo c t (s.strmIndex c t + 1)).penCounting
      (localKey c n) = s.penCounting (localKey c n) := by
    rw [penCounting_localKey _ hn, penCounting_localKey _ hn, State.flag, State.fld, reg_issuedTo_ne _ _ _ _ hss.symm,
      reg_setReg_ne _ _ hvs.symm]
    rfl
  refine ⟨hwent, penVal_of_reg ?_ (hkind ▸ hx), hframe⟩
  rw [penValReg_localKey hn, reg_issuedTo_ne _ _ _ _ hsv.symm, reg_setReg_self]

/-- A stream that goes on at once, for the clauses of O7. -/
theorem pump_issued (hstill : s.coreStill c = true) (hstate : s.strmState c t = 1) (hstep : (s.strm c t).stepping = false) :
    (s.issued c t).pump c = s.issued c t ∧ (s.issued c t).wentTo c t (s.strmIndex c t + 1)
      ∧ framed s (s.issued c t) [Reg.STRM_STAT c (sidx t)] := by
  obtain ⟨hpump, hwent, hframe, -, -⟩ := (State.OnStream.refl s c t [Reg.STRM_STAT c (sidx t)]).pump_issuedTo (by simp)
    (strmStat_spareUnits c t) hstill hstep hstate (s.strmIndex c t + 1)
  exact ⟨hpump, hwent, hframe⟩

theorem waitOn_take (htable : s.penTable = []) (hmsgs : s.penMsgs = []) (k x : Nat) :
    s.waitOn c t k 0 2 x = if x = 0 then s.issued c t
      else if x ≤ s.penVal k then (s.setPenVal k (s.penVal k - x)).issued c t
      else s.register c t k (waiterOf c t 2 x) := by
  have hbefore : s.takesBefore k = false := by simp [State.takesBefore, htable, hmsgs]
  have hquiet : (s.setPenVal k (s.penVal k - x)).penChanged k = s.setPenVal k (s.penVal k - x) :=
    penChanged_of_quiet (s := s.setPenVal k (s.penVal k - x)) htable hmsgs k
  simp [State.waitOn, hbefore, hquiet, waiterOf]

theorem waitOn_plain (k x : Nat) :
    s.waitOn c t k 0 0 x = if x ≤ s.penVal k then s.issued c t else s.register c t k (waiterOf c t 0 x) := by
  simp [State.waitOn, Waiter.holds, waiterOf]

end

/-! The statement's clauses. -/

section
variable {s : State} {c : CoreId} {t : Strm} {w : Body}

theorem exec_sig (h : s.ready c.val t 0x07 w = true) :
    exec (.sig c t w) s = .next ((issueSig s c.val t w).pump c.val) :=
  exec_of_ready (p := (0x07, .sig)) (by simp [streamInstrs]) h

theorem exec_wait (h : s.ready c.val t 0x08 w = true) :
    exec (.wait c t w) s = .next ((issueWait s c.val t w).pump c.val) :=
  exec_of_ready (p := (0x08, .wait)) (by simp [streamInstrs]) h

theorem pump_issueSig_local (hready : s.ready c.val t 0x07 w = true) (hn : bits w 119 108 < 64) (v : Nat) :
    let u := ((s.localSignal c.val (bits w 119 108) v t).issued c.val t).pump c.val
    u = (s.localSignal c.val (bits w 119 108) v t).issuedTo c.val t (s.strmIndex c.val t + 1)
      ∧ u.wentTo c.val t (s.strmIndex c.val t + 1) ∧ framed s u (lpenRegs c.val (bits w 119 108) t) := by
  obtain ⟨hstate, -, hstep, hstill⟩ := ready_parts hready
  have hindex : (s.localSignal c.val (bits w 119 108) v t).strmIndex c.val t = s.strmIndex c.val t :=
    strmStat_localSignal hn v _
  obtain ⟨hpump, hwent, hframe, -, -⟩ := (onStream_localSignal s c.val (bits w 119 108) v t).pump_issuedTo
    (by simp [lpenRegs]) (lpenRegs_spareUnits hn t) hstill hstep ((strmStat_localSignal hn v _).trans hstate)
    (s.strmIndex c.val t + 1)
  simp only [State.issued, hindex, hpump]
  exact ⟨trivial, hwent, hframe⟩

end

/-- Settles O7: on a still core each form of SIG and WAIT changes its pennant, leaves for its bank, or registers, and its
stream goes on or waits. -/
theorem sigAndWaitActOnPennants : Obligations.SigAndWaitActOnPennants := by
  refine ⟨fun c t w s h hearlier => ⟨fun hscope hn htable hmsgs => ?_, fun hscope k hk => ?_,
    fun hscope halign hdev e he => ?_⟩, fun c t w s h hscope hn htable hmsgs => ⟨fun hmode => ?_, fun hmode hcount himm => ?_⟩⟩
  all_goals obtain ⟨hstate, -, hstep, hstill⟩ := ready_parts h
  · intro k v happly
    obtain ⟨hlt, hup, hdown⟩ := penApply_ok (penVal_lt s k) happly
    obtain ⟨hu, hwent, hframe⟩ := pump_issueSig_local h hn v
    obtain ⟨hval, hkind, hvalid, hstream, htick⟩ := pennant_localSignal (t := t) hn hlt (s.strmIndex c.val t + 1)
    rw [← hu] at hval hkind hvalid hstream htick
    rw [exec_sig h, issueSig_local hearlier hscope hn htable hmsgs happly]
    exact ⟨_, rfl, hval, hkind, hup, hdown, hvalid, hstream, htick, hwent, hframe⟩
  · have hon := (onStream_postPen s c.val t [Reg.STRM_STAT c.val (sidx t)] k (.sig ⟨c.val, t⟩ (bits w 102 102) (bits w 101 86)
      (s.core c.val).nextIid (s.strmIndex c.val t) (s.strmBank c.val t))).issuedHolding (by simp)
      (.signal (s.core c.val).nextIid) 4
    rw [exec_sig h, issueSig_shared hearlier hscope hk, hon.pump (strmStat_spareUnits c.val t) hstill rfl hstep]
    exact ⟨_, rfl, rfl, holdsOn_issuedHolding hstate _ (by decide), hon.frame⟩
  · obtain ⟨hpump, hwent, hframe, -, -⟩ := (onStream_postPen s c.val t [Reg.STRM_STAT c.val (sidx t)] 0
      (.toPending ⟨s.rank, c.val, sidx t, false⟩ (bits w 119 108) (bits w 102 102) (bits w 101 86)
        (s.wseq c.val e))).pump_issuedTo (by simp) (strmStat_spareUnits c.val t) hstill hstep hstate
        (s.strmIndex c.val t + 1)
    rw [exec_sig h, issueSig_pending hearlier hscope halign hdev he]
    exact ⟨_, rfl, congrArg State.penMsgs hpump, hpump ▸ hwent, hpump ▸ hframe⟩
  · intro v
    rw [exec_wait h, issueWait_plain hscope hn hmode]
    refine ⟨_, rfl, fun hle => ?_, fun hlt => ?_⟩
    · obtain ⟨hpump, hwent, hframe⟩ := pump_issued hstill hstate hstep
      rw [waitOn_plain, if_pos hle, hpump]
      exact ⟨hwent, htable, hframe⟩
    · rw [waitOn_plain, if_neg (Nat.not_le.mpr hlt)]
      exact pump_register hstill hstate hstep hn htable _
  · rw [exec_wait h, issueWait_take hscope hn hmode hcount himm, waitOn_take htable hmsgs]
    have hval := penVal_lt s (localKey c.val (bits w 119 108))
    refine ⟨_, rfl, fun hle => ?_, fun hlt => ?_⟩
    · by_cases hzero : bits w 47 0 = 0
      · obtain ⟨hpump, hwent, hframe⟩ := pump_issued hstill hstate hstep
        rw [if_pos hzero, hpump]
        refine ⟨hwent, ?_, framed_mono hframe (by simp)⟩
        rw [hzero, Nat.sub_zero]
        exact penVal_of_framed hn hframe
      · rw [if_neg hzero, if_pos hle]
        exact pump_take hstill hstate hstep hn (by omega)
    · rw [if_neg (by omega), if_neg (Nat.not_le.mpr hlt)]
      obtain ⟨hholds, hregistered, hframe⟩ := pump_register hstill hstate hstep hn htable (waiterOf c.val t 2 (bits w 47 0))
      exact ⟨hholds, penVal_of_framed hn hframe, hregistered, hframe⟩

end Sys2Proof.Machine
end

section
/-! PROOFS. What the work of an execute unit leaves alone: the streams of its core, what its units hold and what its array
shows (R121, R73). -/

namespace Sys2Proof.Machine

open Sys2Proof

/-! What decides how a core goes on. -/

/-- What of a core decides how its streams and units go on. -/
def Core.quiet (k : Core) : SMap UnitState × List Flight × Option Nat × StreamState × StreamState :=
  (k.units, k.flights, k.disarmAt, k.a, k.e)

/-- What of the state decides how a core's streams and units go on, and what the array shows. -/
def State.quiet (s : State) (c : Nat) :
    (SMap UnitState × List Flight × Option Nat × StreamState × StreamState) × Word × Word × Nat × Nat :=
  ((s.core c).quiet, s.reg (Reg.CB_CFG c), s.reg (Reg.STRM_STAT c 1), s.fld (Reg.ARRAY_STAT c) Fld.ARRAY_STAT_BUSY,
    s.fld (Reg.ARRAY_STAT c) Fld.ARRAY_STAT_MODE)

/-- The registers that the execute units of a core write, but for ARRAY_STAT. -/
def workRegs (c : Nat) : List Nat :=
  [Reg.NF_POS_INF c, Reg.NF_NEG_INF c, Reg.NF_NAN c, Reg.NF_FIRST c, Reg.MAXEXP c, Reg.GNORM c, Reg.ACC_ECC c, Reg.SP_ECC c,
    Reg.ARRAY_ACT c, Reg.ARRAY_USEFUL c, Reg.PRED_STAT c, Reg.PRED_MISS c, Reg.PRED_SKIP c, Reg.PRED_AUDIT c,
    Reg.PRED_BAND c, Reg.PRED_OVER c, Reg.CMPR_DROP c, Reg.CMPR_EXACT_CAP c, Reg.PRR_STALE c, Reg.PRR_NAN_CAND c,
    Reg.PRR_SWAPS c, Reg.PRR_FLIPS c]

/-- A register that the execute units of a core write. -/
def workReg (c a : Nat) : Bool := (workRegs c).contains a

theorem workReg_apart {c a : Nat} (h : workReg c a = true) :
    Reg.CB_CFG c ≠ a ∧ Reg.STRM_STAT c 1 ≠ a ∧ Reg.ARRAY_STAT c ≠ a := by
  have hlo : 0x30000003008 + c * 0x10000 ≤ a ∧ a < 0x30000004000 + c * 0x10000 := by
    replace h : a ∈ workRegs c := by simpa [workReg] using h
    revert a
    simp only [workRegs, List.forall_mem_cons, List.not_mem_nil, false_imp_iff, implies_true, and_true]
    simp only [Reg.NF_POS_INF, Reg.NF_NEG_INF, Reg.NF_NAN, Reg.NF_FIRST, Reg.MAXEXP, Reg.GNORM, Reg.ACC_ECC, Reg.SP_ECC,
      Reg.ARRAY_ACT, Reg.ARRAY_USEFUL, Reg.PRED_STAT, Reg.PRED_MISS, Reg.PRED_SKIP, Reg.PRED_AUDIT, Reg.PRED_BAND,
      Reg.PRED_OVER, Reg.CMPR_DROP, Reg.CMPR_EXACT_CAP, Reg.PRR_STALE, Reg.PRR_NAN_CAND, Reg.PRR_SWAPS, Reg.PRR_FLIPS]
    omega
  unfold Reg.CB_CFG Reg.STRM_STAT Reg.ARRAY_STAT
  omega

section
variable {s : State} {c : Nat}

@[simp] theorem quiet_setReg {a : Nat} (h : workReg c a = true) (v : Word) : (s.setReg a v).quiet c = s.quiet c := by
  obtain ⟨hcomb, hstrm, harray⟩ := workReg_apart h
  rw [State.quiet, reg_setReg_ne _ _ hcomb, reg_setReg_ne _ _ hstrm, fld_setReg_ne _ _ _ harray, fld_setReg_ne _ _ _ harray]
  rfl

@[simp] theorem quiet_setFld {a : Nat} (h : workReg c a = true) (f : FieldPos) (v : Nat) :
    (s.setFld a f v).quiet c = s.quiet c := quiet_setReg h _

@[simp] theorem quiet_bump {a : Nat} (h : workReg c a = true) (f : FieldPos) (n : Nat) : (s.bump a f n).quiet c = s.quiet c :=
  quiet_setFld h _ _

@[simp] theorem quiet_addMod {a : Nat} (h : workReg c a = true) (f : FieldPos) (n : Nat) :
    (s.addMod a f n).quiet c = s.quiet c := quiet_setFld h _ _

theorem quiet_modCore {f : Core → Core} (h : ∀ k, (f k).quiet = k.quiet) : (s.modCore c f).quiet c = s.quiet c := by
  rw [State.quiet, core_modCore_self, h]
  rfl

@[simp] theorem quiet_ite (p : Prop) [Decidable p] (t u : State) :
    (if p then t else u).quiet c = if p then t.quiet c else u.quiet c := apply_ite (State.quiet · c) p t u

@[simp] theorem quiet_free (n : Nat) : ({ s with free := n } : State).quiet c = s.quiet c := rfl

theorem quiet_foldl {α : Type} {f : State → α → State} (h : ∀ s x, (f s x).quiet c = s.quiet c) (l : List α) (s : State) :
    (l.foldl f s).quiet c = s.quiet c := by
  induction l generalizing s with
  | nil => rfl
  | cons x l ih => exact (ih _).trans (h s x)

/-! Counters and records. -/

@[simp] theorem quiet_examine (w : NfFrom) (xs : List Num) : (s.examine c w xs).quiet c = s.quiet c := by
  unfold State.examine
  cases nfKind xs <;> simp [workReg, workRegs]

@[simp] theorem quiet_addGnorm (xs : List Nat) : (s.addGnorm c xs).quiet c = s.quiet c := by
  simp [State.addGnorm, workReg, workRegs]

@[simp] theorem quiet_accCorrects (n : Nat) : (s.accCorrects c n).quiet c = s.quiet c := by
  simp [State.accCorrects, workReg, workRegs]

@[simp] theorem quiet_arrayWork (a u : Nat) : (s.arrayWork c a u).quiet c = s.quiet c := by
  simp [State.arrayWork, workReg, workRegs]

theorem quiet_setSetsDone (v : Nat) :
    (s.setFld (Reg.ARRAY_STAT c) Fld.ARRAY_STAT_SETS_DONE v).quiet c = s.quiet c := by
  have hcomb : Reg.CB_CFG c ≠ Reg.ARRAY_STAT c := cbCfg_ne_arrayStat c
  have hstrm : Reg.STRM_STAT c 1 ≠ Reg.ARRAY_STAT c := by
    unfold Reg.STRM_STAT Reg.ARRAY_STAT
    omega
  rw [State.quiet, reg_setFld_ne _ _ _ hcomb, reg_setFld_ne _ _ _ hstrm,
    fld_setFld_apart _ _ _ _ _ _ (by decide) (by decide), fld_setFld_apart _ _ _ _ _ _ (by decide) (by decide)]
  rfl

@[simp] theorem quiet_setDone : (s.setDone c).quiet c = s.quiet c := quiet_setSetsDone _

/-! Accumulators, windows and the predicted map. -/

@[simp] theorem quiet_putAcc (xs : List (Nat × Nat × Nat)) : (s.putAcc c xs).quiet c = s.quiet c :=
  quiet_modCore fun _ => rfl

@[simp] theorem quiet_streamSet (ws : List Window) : (s.streamSet c ws).quiet c = s.quiet c := quiet_modCore fun _ => rfl

@[simp] theorem quiet_showPred : (s.showPred c).quiet c = s.quiet c := by
  unfold State.showPred
  split <;> exact quiet_setReg (by simp [workReg, workRegs]) _

@[simp] theorem quiet_disarmPred : (s.disarmPred c).quiet c = s.quiet c := by
  rw [State.disarmPred, quiet_showPred]
  exact quiet_modCore fun _ => rfl

@[simp] theorem quiet_disarmStrip (n : Nat) : (s.disarmStrip c n).quiet c = s.quiet c := by
  rw [State.disarmStrip, quiet_showPred]
  exact quiet_modCore fun _ => rfl

@[simp] theorem quiet_predFinish (col0 rows thr : Nat) (cols : List PredCol) :
    (predFinish s c col0 rows thr cols).quiet c = s.quiet c := by
  simp [predFinish, workReg, workRegs]

theorem quiet_of_accRead {b : Nat} {xs : List (Nat × Nat)} {t : State} (h : s.accRead c b xs = .ok t) :
    t.quiet c = s.quiet c := by
  unfold State.accRead at h
  split at h
  · cases h
  · cases h
    exact quiet_accCorrects _

/-! Sectors written. -/

theorem quiet_stLoc {l : Loc} (h : l.own c = true) (d : Sector) (be : Word32) : (s.stLoc l d be).1.quiet c = s.quiet c := by
  obtain ⟨hspace, hkey⟩ : l.space = .spad ∧ l.key / 0x20_0000 = c := by simpa [Loc.own] using h
  have hpush : ∀ (off : Nat) (be : Word32), (s.pushWindow c off d be).quiet c = s.quiet c := fun off be => by
    unfold State.pushWindow
    split
    · rfl
    · exact quiet_modCore fun _ => rfl
  have hcorrects : ∀ (t : State) (n : Nat), (t.corrects l n).quiet c = t.quiet c := fun t n => by
    unfold State.corrects
    rw [hspace, hkey]
    simp [workReg, workRegs]
  unfold State.stLoc
  rw [hspace]
  simp only [hkey]
  split
  · rfl
  split
  · rfl
  split
  · exact hpush _ _
  · exact (hcorrects _ _).trans (hpush _ _)

theorem quiet_of_writeSec {t : State} {x : Strm} {src a : Nat} {d : Sector} {be : Word32}
    (h : s.writeSec c x src a d be = .ok t) : t.quiet c = s.quiet c := by
  unfold State.writeSec at h
  split at h
  · cases h
  split at h
  · next l hown =>
    have hst := quiet_stLoc (s := s) hown d be
    split at h
    · cases h
    · next hres =>
      cases h
      rw [hres] at hst
      exact hst
  · split at h
    · cases h
    · cases h
      rfl

@[simp] theorem quiet_writeAll (x : Strm) (src : Nat) (ws : List (Nat × Sector × Word32)) :
    (s.writeAll c x src ws).1.quiet c = s.quiet c := by
  induction ws generalizing s with
  | nil => rfl
  | cons w ws ih =>
    obtain ⟨a, d, be⟩ := w
    rw [State.writeAll]
    split
    · rfl
    · next t ht => exact (ih (s := t)).trans (quiet_of_writeSec ht)

theorem quiet_of_writeAll {x : Strm} {src : Nat} {ws : List (Nat × Sector × Word32)} {t : State} {e : Option AccErr}
    (h : s.writeAll c x src ws = (t, e)) : t.quiet c = s.quiet c := by
  have hall := quiet_writeAll (s := s) (c := c) x src ws
  rwa [h] at hall

end

end Sys2Proof.Machine
end

section
/-! PROOFS. The parts of an execute instruction leave its core's streams and units alone, and the instruction keeps its
number and its place (R121). -/

namespace Sys2Proof.Machine

open Sys2Proof

/-! What a part answers. -/

/-- What an instruction keeps while it runs. -/
def Job.tag (j : Job) : Nat × Nat × Bool := (j.iid, j.op, j.started)

/-- A part of the instruction `j` in state `s`: unless it leaves a failure behind, streams and units stay; the instruction goes
on under its number, with few sectors to take next; its results are for return queues. Only MMT keeps a failure for later. -/
structure PartOut.Follows (r : PartOut) (s : State) (c : Nat) (j : Job) : Prop where
  quiet : r.j.fail = none → r.s.quiet c = s.quiet c
  tag : r.j.tag = j.tag
  takes : r.j.takes.length ≤ 12
  dests : ∀ x ∈ r.q, x.1 < 6
  fail : r.j.fail = j.fail ∨ j.op = 0x21

section
variable {s t : State} {c : Nat} {j j' : Job}

/-- A part that puts out no results. -/
theorem PartOut.follows_mk (hs : t.quiet c = s.quiet c) (htakes : j'.takes.length ≤ 12) (e : Option AccErr)
    (htag : j'.tag = j.tag := by rfl) (hfail : j'.fail = j.fail := by rfl) : (PartOut.mk t j' [] e).Follows s c j :=
  ⟨fun _ => hs, htag, htakes, fun _ h => absurd h List.not_mem_nil, .inl hfail⟩

theorem follows_partEnd (hs : t.quiet c = s.quiet c) (htakes : j'.takes.length ≤ 12)
    (htag : j'.tag = j.tag := by rfl) (hfail : j'.fail = j.fail := by rfl) : (partEnd t j').Follows s c j :=
  PartOut.follows_mk (j' := { j' with computed := true }) hs htakes none htag hfail

theorem follows_partErr (hs : t.quiet c = s.quiet c) (htakes : j.takes = []) (e : AccErr) :
    (partErr t j e).Follows s c j :=
  PartOut.follows_mk hs (by simp [htakes]) (some e)

theorem Done.follows {r : Done} (hs : r.1.quiet c = s.quiet c) (htakes : j.takes = []) : (Done.part r j).Follows s c j := by
  obtain ⟨t, e⟩ := r
  cases e with
  | none => exact follows_partEnd hs (by simp [htakes])
  | some e => exact follows_partErr hs htakes e

theorem DoneQ.follows {r : DoneQ} (hs : r.1.quiet c = s.quiet c) (hq : ∀ x ∈ r.2.1, x.1 < 6) (htakes : j.takes = []) :
    (DoneQ.part r j).Follows s c j :=
  ⟨fun _ => hs, rfl, by simp [DoneQ.part, htakes], hq, .inl rfl⟩

/-! Columns one after the other. -/

theorem quiet_columnsGo {f : State → Nat → Except AccErr State} (h : ∀ s k t, f s k = .ok t → t.quiet c = s.quiet c)
    (l : List Nat) (s : State) (n : Nat) : (columnsGo f l s n).1.quiet c = s.quiet c := by
  induction l generalizing s n with
  | nil => rfl
  | cons k l ih =>
    rw [columnsGo]
    split
    · rfl
    · next t ht => exact (ih t _).trans (h _ _ _ ht)

theorem quiet_of_accRead_map {b : Nat} {xs : List (Nat × Nat)} {f : State → State} (hf : ∀ u, (f u).quiet c = u.quiet c)
    (h : (s.accRead c b xs).map f = .ok t) : t.quiet c = s.quiet c := by
  cases hread : s.accRead c b xs with
  | error e =>
    rw [hread] at h
    cases h
  | ok u =>
    rw [hread] at h
    cases h
    exact (hf u).trans (quiet_of_accRead hread)

/-! MMF. -/

theorem length_windowTakes_le (qc qv qe vfmt : Nat) : (windowTakes qc qv qe vfmt).length ≤ 3 := by
  unfold windowTakes
  split <;> simp

theorem setSize_le (s : State) (c : Nat) : s.setSize c ≤ 4 := by
  unfold State.setSize
  split <;> omega

theorem length_mmfTakes_le (s : State) (c : Nat) (j : Job) : (mmfTakes s c j).takes.length ≤ 12 := by
  have hset : (mmfSet s c j).length ≤ 4 := (List.length_take_le _ _).trans (setSize_le s c)
  simp only [mmfTakes, List.length_flatMap]
  have hsum := List.sum_le_card_nsmul ((mmfSet s c j).map fun _ =>
    (windowTakes (bits j.body 38 37) (bits j.body 36 35) (bits j.body 34 33) (hdrOf (j.hdrs.headD 0)).vfmt).length) 3
    (by simp [length_windowTakes_le])
  simp only [List.length_map, smul_eq_mul] at hsum
  omega

theorem quiet_of_mmfSetCol {p : Path} {h : Hdr} {ofmt col0 k : Nat} {ws : List (Nat × Window)} {d : Desc}
    (hok : mmfSetCol s c p h ofmt col0 ws d k = .ok t) : t.quiet c = s.quiet c := by
  unfold mmfSetCol at hok
  split at hok
  · cases hok
  · exact quiet_of_accRead_map (fun u => quiet_putAcc _) hok

theorem follows_mmfPart (htakes : j.takes = []) : (mmfPart s c j).Follows s c j := by
  unfold mmfPart
  extract_lets w h ofmt p t col0 ws s₁ skip r en cyc s₂ s₃ j₁ s₄
  have hs₂ : s₂.quiet c = s.quiet c := by
    rw [show s₂.quiet c = r.1.quiet c from quiet_arrayWork .., quiet_columnsGo (fun _ _ _ => quiet_of_mmfSetCol)]
    exact quiet_streamSet _
  split
  · exact follows_partErr (by simp [mmfExamine, hs₂]) htakes _
  · have hs₃ : s₃.quiet c = s.quiet c := by simp [s₃, hs₂]
    split
    · exact PartOut.follows_mk hs₃ (length_mmfTakes_le _ _ _) none
    · refine follows_partEnd ((quiet_examine _ _).trans ?_) (length_mmfTakes_le _ _ _)
      simp only [s₄]
      split
      · exact (quiet_predFinish ..).trans hs₃
      · exact hs₃

/-! MMT. -/

theorem length_mmtTakes_le (j : Job) : (mmtTakes j).takes.length ≤ 12 := by
  unfold mmtTakes
  dsimp only
  split
  · exact (length_windowTakes_le ..).trans (by decide)
  · simp

theorem quiet_of_mmtSetCol {p : Path} {n vfmt ofmt w col0 T k : Nat} {d : Desc} {set : List (Nat × Hdr × Window)}
    (hok : mmtSetCol s c p n vfmt ofmt w col0 T d set k = .ok t) : t.quiet c = s.quiet c := by
  unfold mmtSetCol at hok
  split at hok
  · cases hok
  · exact quiet_of_accRead_map (fun u => quiet_putAcc _) hok

@[simp] theorem quiet_mmtSet (upTo : Nat) : (mmtSet s c j upTo).1.quiet c = s.quiet c := by
  unfold mmtSet
  extract_lets w h ofmt p T win hs k0 idx set s₁ r en subs actSub cyc s₂
  have hs₂ : s₂.quiet c = s.quiet c := by
    rw [show s₂.quiet c = r.1.quiet c from quiet_arrayWork .., quiet_columnsGo (fun _ _ _ => quiet_of_mmtSetCol)]
    exact quiet_streamSet _
  split
  · exact hs₂
  · exact quiet_setDone.trans hs₂

/-- A strip's header read, or MMT's set added, without a failure left for later. -/
theorem follows_mmtPart (htakes : j.takes = []) (hop : j.op = 0x21) : (mmtPart s c j).Follows s c j := by
  have hstop : ∀ (u : State) (e : AccErr), u.quiet c = s.quiet c →
      (partErr (if e.asks then u else mmtExamine u c j) j e).Follows s c j := fun u e hu =>
    follows_partErr (by simp [mmtExamine, hu]) htakes e
  unfold mmtPart
  extract_lets n sz stop k next
  have hnext : ∀ (u : State) (g : List Sector), u.quiet c = s.quiet c → (next u { j with got := g }).Follows s c j :=
    fun u g hu => by
      simp only [next]
      split
      · exact follows_partEnd ((quiet_examine _ _).trans hu) (by simp [htakes])
      · exact PartOut.follows_mk hu (by simp [htakes]) none
  have hset : ∀ upTo, (mmtSet s c j upTo).1.quiet c = s.quiet c := fun _ => quiet_mmtSet _
  split
  · split <;> next hres => exact hstop _ _ ((congrArg (State.quiet ·.1 c) hres).symm.trans (hset _))
  split
  · split
    · exact PartOut.follows_mk rfl (length_mmtTakes_le _) none
    · split
      · exact hstop _ _ rfl
      · exact ⟨fun h => (nomatch h), rfl, by simp [htakes], fun _ h => absurd h List.not_mem_nil, .inr hop⟩
  split
  · split
    · next hres => exact hstop _ _ ((congrArg (State.quiet ·.1 c) hres).symm.trans (hset _))
    · next hres => exact hnext _ [] ((congrArg (State.quiet ·.1 c) hres).symm.trans (hset _))
  · exact hnext s j.got rfl

/-! MMO. -/

@[simp] theorem quiet_mmoWindowBegin : (mmoWindowBegin s c j).1.quiet c = s.quiet c := by
  unfold mmoWindowBegin
  split
  · dsimp only
    split
    · exact quiet_modCore fun _ => rfl
    · rfl
  · rfl

theorem mmoWindowBegin_job : (mmoWindowBegin s c j).2.tag = j.tag ∧ (mmoWindowBegin s c j).2.takes.length ≤ 12
    ∧ (mmoWindowBegin s c j).2.fail = j.fail := by
  unfold mmoWindowBegin
  split <;> exact ⟨rfl, by simp, rfl⟩

theorem Core.quiet_slots (k : Core) (v : SMap Word32) : ({ k with slots := v } : Core).quiet = k.quiet := rfl

theorem Core.quiet_wout (k : Core) (v : SMap Word32) : ({ k with wout := v } : Core).quiet = k.quiet := rfl

/-- The next window of MMO, behind one that is done. -/
theorem follows_mmoNext (hs : t.quiet c = s.quiet c) (htag : j'.tag = j.tag) (hfail : j'.fail = j.fail) :
    (PartOut.mk (mmoWindowBegin t c j').1 (mmoWindowBegin t c j').2 [] none).Follows s c j := by
  obtain ⟨htag', htakes, hfail'⟩ := mmoWindowBegin_job (s := t) (c := c) (j := j')
  exact PartOut.follows_mk (quiet_mmoWindowBegin.trans hs) htakes none (htag'.trans htag) (hfail'.trans hfail)

theorem follows_mmoAccumulate (htakes : j.takes = []) (h : Hdr) (w : Nat) : (mmoAccumulate s c j h w).Follows s c j := by
  unfold mmoAccumulate
  extract_lets b xf wd k init present s₁ s₂ r s₃ en cyc s₄ s₅ n src s₆
  have hs₁ : s₁.quiet c = s.quiet c := quiet_streamSet _
  have hs₄ : s₄.quiet c = s.quiet c := by
    have hs₃ : s₃.quiet c = s₂.quiet c := quiet_modCore fun k =>
      (Core.quiet_slots _ _).trans (by split <;> rfl)
    exact (quiet_arrayWork _ _).trans (hs₃.trans ((quiet_accCorrects _).trans hs₁))
  have hs₅ : s₅.quiet c = s.quiet c := quiet_setDone.trans ((quiet_examine _ _).trans hs₄)
  split
  · exact follows_partErr hs₁ htakes _
  split
  · exact follows_partErr hs₄ htakes _
  split
  · exact follows_mmoNext hs₅ rfl rfl
  · have hs₆ : s₆.quiet c = s₅.quiet c := quiet_modCore fun k => Core.quiet_wout (k.accRight _) _
    exact PartOut.follows_mk (hs₆.trans hs₅) (by simp [htakes]) none

theorem follows_mmoDrain (htakes : j.takes = []) (h : Hdr) (w : Nat) : (mmoDrain s c j h w).Follows s c j := by
  unfold mmoDrain
  extract_lets b dfmt wb k s₁ src es s₂ s₃
  have hs₃ : s₃.quiet c = s.quiet c :=
    (quiet_addGnorm _).trans ((quiet_examine _ _).trans (quiet_accCorrects _))
  split
  · exact follows_partErr rfl htakes _
  split
  · next hwrite => exact follows_partErr ((quiet_of_writeAll hwrite).trans hs₃) htakes _
  · next hwrite => exact follows_mmoNext ((quiet_of_writeAll hwrite).trans hs₃) rfl rfl

theorem follows_mmoPart (htakes : j.takes = []) : (mmoPart s c j).Follows s c j := by
  unfold mmoPart
  dsimp only
  split
  · exact follows_partEnd rfl (by simp [htakes])
  split
  · exact follows_mmoDrain htakes _ _
  · exact follows_mmoAccumulate htakes _ _

/-! SCAN. -/

theorem length_scanTakes_le (j : Job) : (scanTakes j).takes.length ≤ 12 := by
  unfold scanTakes
  dsimp only
  split <;> simp

theorem follows_scanEnd (htakes : j.takes = []) : (scanEnd s c j).Follows s c j := by
  unfold scanEnd
  dsimp only
  split
  · exact Done.follows (quiet_writeAll _ _ _) htakes
  · exact follows_partEnd rfl (by simp [htakes])

theorem follows_scanPart (htakes : j.takes = []) : (scanPart s c j).Follows s c j := by
  unfold scanPart
  dsimp only
  split
  · exact follows_scanEnd htakes
  split
  · exact follows_partErr (quiet_streamSet _) htakes _
  split
  · next hwrite => exact follows_partErr ((quiet_of_writeAll hwrite).trans ((quiet_arrayWork _ _).trans (quiet_streamSet _))) htakes _
  · next hwrite => exact PartOut.follows_mk (quiet_setDone.trans ((quiet_of_writeAll hwrite).trans ((quiet_arrayWork _ _).trans (quiet_streamSet _)))) (length_scanTakes_le _) none

/-! PRR. -/

theorem follows_prrStrip (htakes : j.takes = []) (d : SetDesc) (p : PrrParam) (st : Nat) :
    (prrStrip s c j d p st).Follows s c j := by
  have herr : ∀ e, (partErr s j e).Follows s c j := follows_partErr rfl htakes
  unfold prrStrip
  dsimp only
  split
  · exact herr _
  split
  · exact herr _
  split
  · exact herr _
  split
  · exact herr _
  have hcount : ∀ m n, ((s.bump (Reg.PRR_STALE c) Fld.PRR_STALE_COUNT m).bump (Reg.PRR_NAN_CAND c)
      Fld.PRR_NAN_CAND_COUNT n).quiet c = s.quiet c := fun m n => by simp [workReg, workRegs]
  split
  · exact PartOut.follows_mk (hcount _ _) (by simp [htakes]) none
  split
  · next hwrite => exact follows_partErr ((quiet_of_writeAll hwrite).trans (hcount _ _)) htakes _
  · next hwrite => exact PartOut.follows_mk ((quiet_of_writeAll hwrite).trans (hcount _ _)) (by simp [htakes]) none

theorem follows_prrFlip (htakes : j.takes = []) (d : SetDesc) (st : Nat) : (prrFlip s c j d st).Follows s c j := by
  unfold prrFlip
  split
  · next hwrite => exact follows_partErr (quiet_of_writeAll hwrite) htakes _
  · next hwrite => exact PartOut.follows_mk (by simp [workReg, workRegs, (quiet_of_writeAll hwrite)]) (by simp [htakes]) none

theorem follows_prrPart (htakes : j.takes = []) : (prrPart s c j).Follows s c j := by
  unfold prrPart
  dsimp only
  split
  · exact follows_partEnd rfl (by simp [htakes])
  split
  · exact follows_prrFlip htakes _ _
  · exact follows_prrStrip htakes _ _ _

/-! The compressor and PRED. -/

theorem quiet_cmprRun (p : CmprParam) (nf : NfFrom) (sf : Nat) (rows : List (List Nat)) :
    (cmprRun s c p nf sf rows).1.quiet c = s.quiet c := by
  unfold cmprRun
  extract_lets raw wide group gs most need cls n capped drops s₁ s₂ ng w0 nw wins s₃ writes kg w0b
  have hs₃ : s₃.quiet c = s.quiet c := by simp [s₃, s₂, s₁, workReg, workRegs]
  split
  · next hwrite => exact ((quiet_of_writeAll hwrite).trans hs₃)
  · next hwrite => exact (quiet_writeAll _ _ _).trans ((quiet_of_writeAll hwrite).trans hs₃)

theorem quiet_of_accRows {b col0 n : Nat} {rows : List (List Nat)} (h : accRows s c b col0 n = .ok (t, rows)) :
    t.quiet c = s.quiet c := by
  unfold accRows at h
  cases hread : s.accRead c b (rect 32 col0 n) with
  | error e =>
    rw [hread] at h
    cases h
  | ok u =>
    rw [hread] at h
    cases h
    exact quiet_of_accRead hread

theorem quiet_cmprCompute : (cmprCompute s c j).1.quiet c = s.quiet c := by
  unfold cmprCompute
  dsimp only
  split
  · split
    · rfl
    · exact quiet_cmprRun _ _ _ _
  · split
    · rfl
    · next hrows => exact (quiet_cmprRun _ _ _ _).trans (quiet_of_accRows hrows)

theorem quiet_predStrips (p : PredParam) (ufmt T col0 : Nat) (u : Desc) (l : List (Nat × Nat)) (s : State)
    (ms : List StripMap) : (predStrips c p ufmt T col0 u l s ms).1.1.quiet c = s.quiet c := by
  induction l generalizing s ms with
  | nil => rfl
  | cons x l ih =>
    obtain ⟨k, strip⟩ := x
    unfold predStrips
    split
    · rfl
    split
    · rfl
    dsimp only
    split
    · next hwrite => exact ((quiet_of_writeAll hwrite).trans ((quiet_putAcc _).trans (quiet_setDone.trans (quiet_arrayWork _ _))))
    · next hwrite => exact (ih _ _).trans ((quiet_of_writeAll hwrite).trans ((quiet_putAcc _).trans (quiet_setDone.trans (quiet_arrayWork _ _))))

theorem quiet_predCompute : (predCompute s c j).1.quiet c = s.quiet c := by
  unfold predCompute
  extract_lets w p st T ns col0 s₁
  have hstrips : ∀ u l, (predStrips c p (bits w 81 80) T col0 u l s₁ []).1.1.quiet c = s.quiet c := fun u l =>
    (quiet_predStrips ..).trans quiet_disarmPred
  have hof : ∀ {u l r}, predStrips c p (bits w 81 80) T col0 u l s₁ [] = r → r.1.1.quiet c = s.quiet c := by
    rintro u l r rfl
    exact hstrips u l
  split
  · next hres =>
    dsimp only
    split
    · exact hof hres
    · exact (quiet_examine _ _).trans (hof hres)
  · next hres =>
    refine (quiet_examine _ _).trans (quiet_showPred.trans ((quiet_modCore (by intro k; rfl)).trans ?_))
    simpa [workReg, workRegs] using hof hres

theorem quiet_aclrCompute : (aclrCompute s c j).1.quiet c = s.quiet c := by
  rw [aclrCompute_eq]
  refine quiet_modCore fun k => ?_
  unfold Core.cleared
  split <;> rfl

/-! The vector and top-k units, and the store engine. -/

/-- A computation leaves streams and units alone, and its results are for return queues. -/
def DoneQ.Keeps (r : DoneQ) (s : State) (c : Nat) : Prop := r.1.quiet c = s.quiet c ∧ ∀ x ∈ r.2.1, x.1 < 6

theorem DoneQ.keeps_nil (hs : t.quiet c = s.quiet c) (e : Option AccErr) : DoneQ.Keeps (t, [], e) s c :=
  ⟨hs, fun _ h => absurd h List.not_mem_nil⟩

theorem DoneQ.Keeps.of_eq {r : DoneQ} {q : List (Nat × Sector)} {e : Option AccErr} (hr : r.Keeps s c) (h : r = (t, q, e))
    (e' : Option AccErr) : DoneQ.Keeps (t, q, e') s c := by
  subst h
  exact hr

theorem DoneQ.Keeps.append {q q' : List (Nat × Sector)} {e e' : Option AccErr} {u : State} (h : DoneQ.Keeps (t, q, e) s c)
    (h' : DoneQ.Keeps (u, q', e') t c) (e'' : Option AccErr) : DoneQ.Keeps (u, q ++ q', e'') s c :=
  ⟨h'.1.trans h.1, fun x hx => (List.mem_append.mp hx).elim (h.2 x) (h'.2 x)⟩

theorem unlessAsked_keeps {f : DoneQ} (hs : t.quiet c = s.quiet c) (hf : f.Keeps s c) (e : Option AccErr) :
    (unlessAsked t e f).Keeps s c := by
  unfold unlessAsked
  split
  · split
    · exact DoneQ.keeps_nil hs _
    · exact hf
  · exact hf

theorem dstOpd_queue_lt {b q : Nat} (h : dstOpd b = .queue q) : q < 6 := by
  unfold dstOpd at h
  split at h
  · split at h <;> cases h
  · split at h
    · cases h
      omega
    · cases h
  · cases h

theorem putResults_keeps (hs : t.quiet c = s.quiet c) (dst : Nat) (d : Desc) (n v : Nat) (cut : Bool) :
    (putResults t c dst d n v cut).Keeps s c := by
  unfold putResults
  dsimp only
  split
  · next q hq =>
    refine ⟨hs, fun x hx => ?_⟩
    obtain ⟨y, -, rfl⟩ := List.mem_map.mp hx
    exact dstOpd_queue_lt hq
  · exact DoneQ.keeps_nil ((quiet_writeAll _ _ _).trans hs) _
  · exact DoneQ.keeps_nil hs _

/-- The pattern that stands for an operand without a value is taken. -/
theorem quiet_takeFree (p : Prop) [Decidable p] :
    (if p then ({ s with free := s.free + 1 } : State) else s).quiet c = s.quiet c := by
  split <;> rfl

theorem vopCompute_keeps : (vopCompute s c j).Keeps s c := by
  unfold vopCompute
  extract_lets w fn us imm vs s₁ r v df out s₂
  have hs₁ : s₁.quiet c = s.quiet c := quiet_takeFree _
  have hput := putResults_keeps ((quiet_examine (s := s₁) (nfVec 2 j) (out.map (fmtNum df 0))).trans hs₁) (bits w 79 72)
    (lastDesc j) (out.length * fmtBits df) (packBits (fmtBits df) out) r.2.isSome
  refine unlessAsked_keeps hs₁ ?_ _
  split <;> next hres => exact hput.of_eq hres _

theorem redCompute_keeps : (redCompute s c j).Keeps s c := by
  unfold redCompute
  extract_lets w us n vs s₁ r v xs g full df out s₂
  have hs₁ : s₁.quiet c = s.quiet c := quiet_takeFree _
  have hput := putResults_keeps ((quiet_examine (s := s₁) (nfVec 2 j) (out.map (fmtNum df 0))).trans hs₁) (bits w 107 100)
    (lastDesc j) (out.length * fmtBits df) (packBits (fmtBits df) out) r.2.isSome
  refine unlessAsked_keeps hs₁ ?_ _
  split <;> next hres => exact hput.of_eq hres _

theorem topkCompute_keeps : (topkCompute s c j).Keeps s c := by
  unfold topkCompute
  extract_lets w us n f k vs s₁ r v g full sel
  have hs₁ : s₁.quiet c = s.quiet c := quiet_takeFree _
  have hput := putResults_keeps hs₁ (bits w 103 96) (topkValDesc j) (sel.length * fmtBits f)
    (packBits (fmtBits f) (sel.map (·.2))) r.2.isSome
  refine unlessAsked_keeps hs₁ ?_ _
  split
  · next hres => exact hput.of_eq hres _
  · next t q hres =>
    have hput' := putResults_keeps (s := t) (c := c) rfl (bits w 95 88) (lastDesc j) (sel.length * 32)
      (packBits 32 (sel.map (·.1))) r.2.isSome
    have hfirst := hput.of_eq hres none
    split <;> next hres' => exact hfirst.append (hput'.of_eq hres' none) _

theorem cvtCompute_keeps : (cvtCompute s c j).Keeps s c := by
  unfold cvtCompute
  extract_lets w a d us vs s₁ v0 v1 r n blocks s₂ out
  have hs₁ : s₁.quiet c = s.quiet c := quiet_takeFree _
  have hput := putResults_keeps ((quiet_examine (s := s₁) (nfVec 4 j) (blocks.flatMap (·.2))).trans hs₁) (bits w 104 97)
    (cvtDstDesc j) (out.length * fmtBits d) (packBits (fmtBits d) out) r.2.isSome
  refine unlessAsked_keeps hs₁ ?_ _
  split
  · next hres => exact hput.of_eq hres _
  · next t q hres =>
    obtain ⟨ht, hq⟩ := hput.of_eq hres none
    split
    · split <;> next hwrite => exact ⟨(quiet_of_writeAll hwrite).trans ht, hq⟩
    · exact ⟨ht, hq⟩

theorem staStore_keeps : (staStore s c j).Keeps s c := by
  unfold staStore
  extract_lets w t col0 dfmt ls block bad stop per n ls' s₁ src cv s₂ nb v err rest d be ws
  have hs₂ : s₂.quiet c = s.quiet c := (quiet_examine _ _).trans (quiet_accCorrects _)
  have hrest : ∀ (u : State) (q : List (Nat × Sector)), u.quiet c = s.quiet c → (∀ x ∈ q, x.1 < 6) →
      (rest u q).Keeps s c := fun u q hu hq => by
    simp only [rest]
    split
    · split <;> next hwrite => exact ⟨(quiet_of_writeAll hwrite).trans hu, hq⟩
    · exact ⟨hu, hq⟩
  split
  · refine hrest _ _ hs₂ fun x hx => ?_
    obtain ⟨y, -, rfl⟩ := List.mem_map.mp hx
    have hbit : bits w 95 95 < 2 := bits_lt w 95 95
    dsimp only
    omega
  split
  · next hwrite => exact DoneQ.keeps_nil ((quiet_of_writeAll hwrite).trans hs₂) _
  · next hwrite => exact hrest _ _ ((quiet_of_writeAll hwrite).trans hs₂) fun _ h => absurd h List.not_mem_nil

theorem staCmpr_keeps : (staCmpr s c j).Keeps s c := by
  unfold staCmpr
  dsimp only
  split
  · exact DoneQ.keeps_nil rfl _
  · next hrows => exact DoneQ.keeps_nil ((quiet_cmprRun _ _ _ _).trans (quiet_of_accRows hrows)) _

theorem staCompute_keeps : (staCompute s c j).Keeps s c := by
  unfold staCompute
  split
  · exact staCmpr_keeps
  · exact staStore_keeps

theorem DoneQ.Keeps.follows {r : DoneQ} (h : r.Keeps s c) (htakes : j.takes = []) : (DoneQ.part r j).Follows s c j :=
  DoneQ.follows h.1 h.2 htakes

/-- Every part of an execute instruction leaves its core's streams and units alone. -/
theorem follows_jobPart (htakes : j.takes = []) : (jobPart s c j).Follows s c j := by
  unfold jobPart
  split
  · exact follows_mmfPart htakes
  · next hop => exact follows_mmtPart htakes hop
  · exact follows_mmoPart htakes
  · exact follows_scanPart htakes
  · exact follows_prrPart htakes
  · exact Done.follows quiet_predCompute htakes
  · exact Done.follows quiet_aclrCompute htakes
  · exact vopCompute_keeps.follows htakes
  · exact redCompute_keeps.follows htakes
  · exact topkCompute_keeps.follows htakes
  · exact cvtCompute_keeps.follows htakes
  · exact staCompute_keeps.follows htakes
  · exact Done.follows quiet_cmprCompute htakes

/-- MMT that has kept a failure ends with it. -/
theorem err_jobPart_of_fail (hop : j.op = 0x21) {f : Nat × Nat} (hfail : j.fail = some f) :
    (jobPart s c j).err.isSome = true := by
  unfold jobPart
  rw [hop]
  change (mmtPart s c j).err.isSome = true
  unfold mmtPart
  rw [hfail]
  dsimp only
  split <;> rfl

end

end Sys2Proof.Machine
end

section
/-! PROOFS. What the check of an execute instruction answers: it reads what it reads under any name while nothing has been asked
for (R176), and the instruction that it accepts has not begun. -/

namespace Sys2Proof.Machine

open Sys2Proof

/-! Reads under another name. -/

section
variable (s : State) (c : Nat) (key : FeedKey)

/-- The name of the accesses is no part of what else a core holds. -/
theorem core_accessing_congr {α : Type} {f : Core → α} (hf : ∀ k : Core, f { k with now := key } = f k) (d : Nat) :
    f ((s.accessing c key).core d) = f (s.core d) := by
  rcases eq_or_ne d c with rfl | hd
  · rw [core_accessing, hf]
  · rw [State.accessing, core_modCore_ne _ _ hd]

@[simp] theorem scrubs_accessing (d : Nat) : (s.accessing c key).scrubs d = s.scrubs d :=
  core_accessing_congr s c key (f := Core.scrubbing) (fun _ => rfl) d

@[simp] theorem strm_accessing (d : Nat) (t : Strm) : (s.accessing c key).strm d t = s.strm d t :=
  core_accessing_congr s c key (f := (·.strm t)) (fun k => by cases t <;> rfl) d

@[simp] theorem rdLoc_accessing (l : Loc) : (s.accessing c key).rdLoc l = s.rdLoc l := by
  simp only [State.rdLoc, scrubs_accessing]
  rfl

@[simp] theorem ueLoc_accessing (l : Loc) : (s.accessing c key).ueLoc l = s.ueLoc l := by
  simp only [State.ueLoc, scrubs_accessing]
  rfl

@[simp] theorem weakIn_accessing (l : Loc) : (s.accessing c key).weakIn l = s.weakIn l := by
  simp only [State.weakIn, scrubs_accessing]
  rfl

@[simp] theorem rdAt_accessing (a : Nat) : (s.accessing c key).rdAt a = s.rdAt a := by
  simp only [State.rdAt, rdLoc_accessing]
  rfl

@[simp] theorem cntAdj_accessing (d : Nat) (t : Strm) (k : Nat) : (s.accessing c key).cntAdj d t k = s.cntAdj d t k := rfl

@[simp] theorem ptrAddr_accessing (d : Nat) (t : Strm) (i : Nat) : (s.accessing c key).ptrAddr d t i = s.ptrAddr d t i := by
  simp only [State.ptrAddr, State.ptr, strm_accessing]
  rfl

@[simp] theorem checkPtr_accessing (d : Nat) (t : Strm) (i : Nat) :
    (s.accessing c key).checkPtr d t i = s.checkPtr d t i := by
  simp only [State.checkPtr, ptrAddr_accessing]

@[simp] theorem desc_accessing (d : Nat) (t : Strm) (i b : Nat) : (s.accessing c key).desc d t i b = s.desc d t i b := by
  simp only [State.desc, State.descEntry, strm_accessing]
  rfl

@[simp] theorem checkDesc_accessing (d : Nat) (t : Strm) (x : Desc) :
    (s.accessing c key).checkDesc d t x = s.checkDesc d t x := rfl

@[simp] theorem checkOperand_accessing (d : Nat) (x : Desc) (n : Nat) :
    checkOperand (s.accessing c key) d x n = checkOperand s d x n := rfl

@[simp] theorem sideAt_accessing (d col : Nat) : (s.accessing c key).sideAt d col = s.sideAt d col := by
  have hunits := core_accessing_congr s c key (f := Core.units) (fun _ => rfl) d
  have hside := core_accessing_congr s c key (f := Core.side) (fun _ => rfl) d
  have hjob : ∀ j, jobSide (s.accessing c key) j col = jobSide s j col := fun j => by simp only [jobSide, rdAt_accessing]
  simp only [State.sideAt, hunits, hside, hjob]

variable {s c}

/-- The own scratchpad is reached without the mesh, and under every name. -/
theorem reachSec_accessing {t : Strm} {a : Nat} {l : Loc} (h : s.reachSec c t a = .ok l) (hown : l.own c = true) :
    (s.accessing c key).reachSec c t a = .ok l := by
  obtain ⟨hspace, hkey⟩ : l.space = .spad ∧ l.key / 0x20_0000 = c := by simpa [Loc.own] using hown
  have hroute : ∀ u : State, u.routeOk c l = true := fun u => by
    simp [State.routeOk, State.secRoute, State.route, hspace, hkey]
  have hlocate : (s.accessing c key).locate ((s.accessing c key).coreCtx c) a = s.locate (s.coreCtx c) a := rfl
  have hgated : (s.accessing c key).gated l = s.gated l := rfl
  have hflag : ∀ f, (s.accessing c key).flag Reg.CLK_CFG f = s.flag Reg.CLK_CFG f := fun _ => rfl
  cases hl : s.locate (s.coreCtx c) a with
  | none =>
    rw [State.reachSec, hl] at h
    cases h
  | some l' =>
    simp only [State.reachSec, hl] at h
    obtain rfl : l' = l := by
      split at h
      · cases h
      split at h
      · cases h
      exact Except.ok.inj h
    simpa only [State.reachSec, hlocate, hl, hroute, hgated, hflag] using h

variable (hfeeds : (s.core c).feeds = [])
include hfeeds

/-- A sector that is read at once lies in the core's own scratchpad, and is read so under every name. -/
theorem readSec_accessing {t : Strm} {src a : Nat} {lcr : Bool} {d : Sector} (h : s.readSec c t src a lcr = .ok d) :
    (s.accessing c key).readSec c t src a lcr = .ok d := by
  have hnone : ∀ u : State, (u.core c).feeds = [] → u.feedOf c a = none := fun u hu => by simp [State.feedOf, hu]
  have hfeeds' : ((s.accessing c key).core c).feeds = [] :=
    (core_accessing_congr s c key (f := Core.feeds) (fun _ => rfl) c).trans hfeeds
  cases hreach : s.reachSec c t a with
  | error e =>
    rw [State.readSec, hreach] at h
    cases h
  | ok l =>
    simp only [State.readSec, hreach, hnone s hfeeds] at h
    by_cases hown : l.own c = true
    · simpa only [State.readSec, reachSec_accessing key hreach hown, hown, if_true, ueLoc_accessing, weakIn_accessing,
        rdLoc_accessing, hnone s hfeeds, hnone _ hfeeds'] using h
    · rw [if_neg hown] at h
      split at h <;> cases h

theorem readBytes_accessing {t : Strm} {src n : Nat} {a : Nat} {ds : List Sector} (h : s.readBytes c t src a n = .ok ds) :
    (s.accessing c key).readBytes c t src a n = .ok ds := by
  induction n generalizing a ds with
  | zero => exact h
  | succ n ih =>
    unfold State.readBytes at h ⊢
    split at h
    · cases h
    · next d hd =>
      rw [readSec_accessing key hfeeds hd]
      split at h
      · cases h
      · next ds' hds =>
        rw [ih hds]
        exact h

theorem readMem_accessing {src a n v : Nat} (h : s.readMem c src a n = .ok v) :
    (s.accessing c key).readMem c src a n = .ok v := by
  unfold State.readMem at h ⊢
  dsimp only at h ⊢
  split
  · next hn => rwa [if_pos hn] at h
  · next hn =>
    rw [if_neg hn] at h
    split at h
    · cases h
    · next ds hds =>
      rw [readBytes_accessing key hfeeds hds]
      exact h

theorem loadSet_accessing {src p v : Nat} (h : loadSet s c src p = .ok v) :
    loadSet (s.accessing c key) c src p = .ok v := by
  unfold loadSet at h ⊢
  rw [checkPtr_accessing]
  split at h
  · cases h
  · next a ha =>
    cases hds : s.readBytes c .execute src a 2 with
    | error e =>
      rw [hds] at h
      cases h
    | ok ds =>
      rw [hds] at h
      exact (congrArg _ (readBytes_accessing key hfeeds hds)).trans h

theorem readSet_accessing {p : Nat} {v : Bool} {d : SetDesc} (h : readSet s c p v = .ok d) :
    readSet (s.accessing c key) c p v = .ok d := by
  unfold readSet at h ⊢
  split at h
  · cases h
  · next n hn =>
    rw [loadSet_accessing key hfeeds hn]
    exact h

/-! The checks, instruction by instruction. -/

variable {w : Body} {j : Job}

theorem mmfIssue_accessing (h : mmfIssue s c w = .ok j) : mmfIssue (s.accessing c key) c w = .ok j := by
  cases hset : readSet s c (bits w 121 117) true with
  | error e => simp [mmfIssue, hset] at h
  | ok d =>
    rw [← h]
    simp only [mmfIssue, hset, readSet_accessing key hfeeds hset, cntAdj_accessing, desc_accessing, checkOperand_accessing,
      ptrAddr_accessing]

theorem mmtIssue_accessing (h : mmtIssue s c w = .ok j) : mmtIssue (s.accessing c key) c w = .ok j := by
  cases hset : readSet s c (bits w 121 117) true with
  | error e => simp [mmtIssue, hset] at h
  | ok d =>
    rw [← h]
    simp only [mmtIssue, hset, readSet_accessing key hfeeds hset, cntAdj_accessing, desc_accessing, checkOperand_accessing,
      ptrAddr_accessing]

theorem mmoIssue_accessing (h : mmoIssue s c w = .ok j) : mmoIssue (s.accessing c key) c w = .ok j := by
  cases hset : readSet s c (bits w 121 117) false with
  | error e => simp [mmoIssue, hset] at h
  | ok d =>
    rw [← h]
    simp only [mmoIssue, hset, readSet_accessing key hfeeds hset, cntAdj_accessing, desc_accessing, checkOperand_accessing,
      ptrAddr_accessing, checkPtr_accessing, rdAt_accessing]

theorem scanIssue_accessing (h : scanIssue s c w = .ok j) : scanIssue (s.accessing c key) c w = .ok j := by
  cases hset : readSet s c (bits w 121 117) false with
  | error e => simp [scanIssue, hset] at h
  | ok d =>
    rw [← h]
    simp only [scanIssue, hset, readSet_accessing key hfeeds hset, desc_accessing, checkOperand_accessing,
      ptrAddr_accessing, checkPtr_accessing, rdAt_accessing]

theorem prrIssue_accessing (h : prrIssue s c w = .ok j) : prrIssue (s.accessing c key) c w = .ok j := by
  cases hset : loadSet s c 3 (bits w 121 117) with
  | error e => simp [prrIssue, hset] at h
  | ok n =>
    cases hprm : s.checkPtr c .execute (bits w 65 61) with
    | error e =>
      simp only [prrIssue, hset, hprm] at h
      split at h <;> cases h
    | ok prm =>
      cases hmem : s.readMem c 3 prm 32 with
      | error e =>
        simp only [prrIssue, hset, hprm, hmem] at h
        split at h
        · cases h
        · split at h <;> cases h
      | ok m =>
        rw [← h]
        simp only [prrIssue, hset, loadSet_accessing key hfeeds hset, hprm, hmem, readMem_accessing key hfeeds hmem,
          cntAdj_accessing, ptrAddr_accessing, checkPtr_accessing, rdAt_accessing]

theorem predIssue_accessing (h : predIssue s c w = .ok j) : predIssue (s.accessing c key) c w = .ok j := by
  cases hprm : s.checkPtr c .execute (bits w 121 117) with
  | error e => simp [predIssue, hprm] at h
  | ok prm =>
    cases hmem : s.readMem c 0 prm 64 with
    | error e =>
      simp only [predIssue, hprm, hmem] at h
      split at h
      · cases h
      · split at h <;> cases h
    | ok m =>
      rw [← h]
      simp only [predIssue, hprm, hmem, readMem_accessing key hfeeds hmem, cntAdj_accessing, desc_accessing,
        checkOperand_accessing, checkPtr_accessing]

theorem cmprIssue_accessing (h : cmprIssue s c w = .ok j) : cmprIssue (s.accessing c key) c w = .ok j := by
  cases hset : loadSet s c 3 (bits w 121 117) with
  | error e => simp [cmprIssue, hset] at h
  | ok n =>
    cases hprm : s.checkPtr c .execute (bits w 18 14) with
    | error e => simp [cmprIssue, hset, hprm] at h
    | ok prm =>
      cases hmem : s.readMem c 3 prm 32 with
      | error e => simp [cmprIssue, hset, hprm, hmem] at h
      | ok m =>
        rw [← h]
        simp only [cmprIssue, hset, loadSet_accessing key hfeeds hset, hprm, hmem, readMem_accessing key hfeeds hmem,
          cntAdj_accessing, desc_accessing, checkOperand_accessing, ptrAddr_accessing, checkPtr_accessing]

theorem staCmprIssue_accessing (h : staCmprIssue s c w = .ok j) : staCmprIssue (s.accessing c key) c w = .ok j := by
  have hok := h
  unfold staCmprIssue at h
  dsimp only at h
  split at h
  · cases h
  split at h
  · cases h
  split at h
  · cases h
  next hset =>
    split at h
    · cases h
    next hprm =>
      split at h
      · cases h
      next hmem =>
        rw [← hok]
        simp only [staCmprIssue, hset, loadSet_accessing key hfeeds hset, hprm, hmem, readMem_accessing key hfeeds hmem,
          cntAdj_accessing, ptrAddr_accessing, checkPtr_accessing]

theorem staIssue_accessing (h : staIssue s c w = .ok j) : staIssue (s.accessing c key) c w = .ok j := by
  by_cases hcmpr : bit1 w 86 = true
  · by_cases hcols : 256 < bits w 121 114 + (bits w 113 106 + 1)
    · simp [staIssue, hcols] at h
    · simp only [staIssue, hcmpr, hcols, if_true, if_false] at h ⊢
      exact staCmprIssue_accessing key hfeeds h
  · rw [← h]
    simp only [staIssue, hcmpr, if_false, Bool.false_eq_true, desc_accessing, checkDesc_accessing, checkPtr_accessing,
      sideAt_accessing]

omit hfeeds in
@[simp] theorem addSrc_accessing (b n : Nat) (r : Except AccErr Job) :
    addSrc (s.accessing c key) c b n r = addSrc s c b n r := by
  simp only [addSrc, desc_accessing, checkDesc_accessing]

omit hfeeds in
@[simp] theorem addDst_accessing (b n : Nat) (r : Except AccErr Job) :
    addDst (s.accessing c key) c b n r = addDst s c b n r := by
  simp only [addDst, desc_accessing, checkDesc_accessing]

/-- An execute instruction that the check accepts is accepted under every name of its accesses. -/
theorem execIssue_accessing {op : Nat} (h : execIssue s c op w = .ok j) :
    execIssue (s.accessing c key) c op w = .ok j := by
  unfold execIssue at h ⊢
  split at h
  · exact mmfIssue_accessing key hfeeds h
  · exact mmtIssue_accessing key hfeeds h
  · exact mmoIssue_accessing key hfeeds h
  · exact scanIssue_accessing key hfeeds h
  · exact prrIssue_accessing key hfeeds h
  · exact predIssue_accessing key hfeeds h
  · exact h
  · simpa only [vopIssue, addSrc_accessing, addDst_accessing] using h
  · simpa only [redIssue, addSrc_accessing, addDst_accessing] using h
  · simpa only [topkIssue, addSrc_accessing, addDst_accessing] using h
  · simpa only [cvtIssue, addSrc_accessing, addDst_accessing] using h
  · exact staIssue_accessing key hfeeds h
  · exact cmprIssue_accessing key hfeeds h

end

end Sys2Proof.Machine
end

section
/-! PROOFS. An execute instruction before its first part: as its check hands it over, with the header that it reads, and as it
begins (R121, R125). -/

namespace Sys2Proof.Machine

open Sys2Proof

/-! As the check hands it over. -/

/-- An instruction of an opcode that has taken, read and computed nothing. -/
structure Job.Fresh (j : Job) (op : Nat) : Prop where
  op : j.op = op
  started : j.started = false
  hdrs : j.hdrs = []
  fail : j.fail = none
  takes : j.takes = []
  computed : j.computed = false

section
variable {s : State} {c : Nat} {w : Body} {j : Job}

theorem fresh_mmfIssue (h : mmfIssue s c w = .ok j) : j.Fresh 0x20 := by
  unfold mmfIssue at h
  dsimp only at h
  repeat' split at h
  all_goals cases h
  exact ⟨rfl, rfl, rfl, rfl, rfl, rfl⟩

theorem fresh_mmtIssue (h : mmtIssue s c w = .ok j) : j.Fresh 0x21 := by
  unfold mmtIssue at h
  dsimp only at h
  repeat' split at h
  all_goals cases h
  exact ⟨rfl, rfl, rfl, rfl, rfl, rfl⟩

theorem fresh_mmoIssue (h : mmoIssue s c w = .ok j) : j.Fresh 0x22 := by
  unfold mmoIssue at h
  dsimp only at h
  repeat' split at h
  all_goals cases h
  all_goals exact ⟨rfl, rfl, rfl, rfl, rfl, rfl⟩

theorem fresh_scanIssue (h : scanIssue s c w = .ok j) : j.Fresh 0x23 := by
  unfold scanIssue at h
  dsimp only at h
  repeat' split at h
  all_goals cases h
  all_goals exact ⟨rfl, rfl, rfl, rfl, rfl, rfl⟩

theorem fresh_prrIssue (h : prrIssue s c w = .ok j) : j.Fresh 0x24 := by
  unfold prrIssue at h
  dsimp only at h
  repeat' split at h
  all_goals cases h
  exact ⟨rfl, rfl, rfl, rfl, rfl, rfl⟩

theorem fresh_predIssue (h : predIssue s c w = .ok j) : j.Fresh 0x25 := by
  unfold predIssue at h
  dsimp only at h
  repeat' split at h
  all_goals cases h
  exact ⟨rfl, rfl, rfl, rfl, rfl, rfl⟩

theorem fresh_aclrIssue (h : aclrIssue s c w = .ok j) : j.Fresh 0x26 := by
  unfold aclrIssue at h
  repeat' split at h
  all_goals cases h
  all_goals exact ⟨rfl, rfl, rfl, rfl, rfl, rfl⟩

/-- Operands join an instruction that has not begun. -/
theorem fresh_addSrc {b n op : Nat} {r : Except AccErr Job} (hr : ∀ i, r = .ok i → i.Fresh op)
    (h : addSrc s c b n r = .ok j) : j.Fresh op := by
  unfold addSrc at h
  split at h
  · cases h
  · next i =>
    obtain ⟨hop, hstarted, hhdrs, hfail, htakes, hcomputed⟩ := hr i rfl
    dsimp only at h
    repeat' split at h
    all_goals cases h
    all_goals exact ⟨hop, hstarted, hhdrs, hfail, htakes, hcomputed⟩

theorem fresh_addDst {b n op : Nat} {r : Except AccErr Job} (hr : ∀ i, r = .ok i → i.Fresh op)
    (h : addDst s c b n r = .ok j) : j.Fresh op := by
  unfold addDst at h
  split at h
  · cases h
  · next i =>
    obtain ⟨hop, hstarted, hhdrs, hfail, htakes, hcomputed⟩ := hr i rfl
    dsimp only at h
    repeat' split at h
    all_goals cases h
    all_goals exact ⟨hop, hstarted, hhdrs, hfail, htakes, hcomputed⟩

theorem fresh_addSrcs {op : Nat} (us : List SrcUse) {r : Except AccErr Job} (hr : ∀ i, r = .ok i → i.Fresh op) (i : Job)
    (h : us.foldl (fun r u => addSrc s c u.spec (u.n * u.w) r) r = .ok i) : i.Fresh op := by
  induction us generalizing r with
  | nil => exact hr i h
  | cons u us ih => exact ih (fun _ hi => fresh_addSrc hr hi) h

theorem fresh_mk0 (op : Nat) (w : Body) (i : Job) (h : (.ok (Job.mk0 op w) : Except AccErr Job) = .ok i) : i.Fresh op := by
  cases h
  exact ⟨rfl, rfl, rfl, rfl, rfl, rfl⟩

theorem fresh_vopIssue (h : vopIssue s c w = .ok j) : j.Fresh 0x28 := by
  unfold vopIssue at h
  dsimp only at h
  split at h
  · cases h
  split at h
  · cases h
  exact fresh_addDst (fresh_addSrcs _ (fresh_mk0 _ _)) h

theorem fresh_redIssue (h : redIssue s c w = .ok j) : j.Fresh 0x29 := by
  unfold redIssue at h
  split at h
  · cases h
  exact fresh_addDst (fun _ => fresh_addSrc (fresh_mk0 _ _)) h

theorem fresh_topkIssue (h : topkIssue s c w = .ok j) : j.Fresh 0x2A := by
  unfold topkIssue at h
  dsimp only at h
  split at h
  · cases h
  split at h
  · cases h
  exact fresh_addDst (fun _ => fresh_addDst fun _ => fresh_addSrc (fresh_mk0 _ _)) h

theorem fresh_cvtIssue (h : cvtIssue s c w = .ok j) : j.Fresh 0x2B := by
  have hsrcs : ∀ i : Job, (cvtSrcs w).foldl (fun r u => addSrc s c u.spec (u.n * u.w) r) (.ok (Job.mk0 0x2B w)) = .ok i →
      i.Fresh 0x2B := fresh_addSrcs _ (fresh_mk0 _ _)
  unfold cvtIssue at h
  dsimp only at h
  split at h
  · cases h
  split at h
  · cases h
  split at h
  · exact fresh_addDst (fun _ => fresh_addDst hsrcs) h
  · exact fresh_addDst hsrcs h

theorem fresh_staCmprIssue (h : staCmprIssue s c w = .ok j) : j.Fresh 0x2C := by
  unfold staCmprIssue at h
  dsimp only at h
  repeat' split at h
  all_goals cases h
  exact ⟨rfl, rfl, rfl, rfl, rfl, rfl⟩

theorem fresh_staIssue (h : staIssue s c w = .ok j) : j.Fresh 0x2C := by
  unfold staIssue at h
  dsimp only at h
  by_cases hcols : 256 < bits w 121 114 + (bits w 113 106 + 1)
  · rw [if_pos hcols] at h
    cases h
  by_cases hcmpr : bit1 w 86 = true
  · rw [if_neg hcols, if_pos hcmpr] at h
    exact fresh_staCmprIssue h
  rw [if_neg hcols, if_neg hcmpr] at h
  repeat' split at h
  all_goals cases h
  all_goals exact ⟨rfl, rfl, rfl, rfl, rfl, rfl⟩

theorem fresh_cmprIssue (h : cmprIssue s c w = .ok j) : j.Fresh 0x2D := by
  unfold cmprIssue at h
  dsimp only at h
  repeat' split at h
  all_goals cases h
  all_goals exact ⟨rfl, rfl, rfl, rfl, rfl, rfl⟩

/-- Whatever check accepts an execute instruction, it has not begun. -/
theorem fresh_execIssue {p : Nat × (CoreId → Strm → Body → Instr)} (hp : p ∈ executeInstrs)
    (h : execIssue s c p.1 w = .ok j) : j.Fresh p.1 := by
  simp only [executeInstrs, List.mem_cons, List.not_mem_nil, or_false] at hp
  rcases hp with rfl | rfl | rfl | rfl | rfl | rfl | rfl | rfl | rfl | rfl | rfl | rfl | rfl
  · exact fresh_mmfIssue h
  · exact fresh_mmtIssue h
  · exact fresh_mmoIssue h
  · exact fresh_scanIssue h
  · exact fresh_prrIssue h
  · exact fresh_predIssue h
  · exact fresh_aclrIssue (s := s) (c := c) h
  · exact fresh_vopIssue h
  · exact fresh_redIssue h
  · exact fresh_topkIssue h
  · exact fresh_cvtIssue h
  · exact fresh_staIssue h
  · exact fresh_cmprIssue h

/-! The header, and the beginning. -/

/-- An instruction goes on as `j'` from what it was as `j`: what it keeps while it runs, and that it has not failed or
computed. -/
structure Job.GoesOn (j j' : Job) : Prop where
  tag : j'.tag = j.tag
  fail : j'.fail = j.fail
  computed : j'.computed = j.computed

theorem Job.goesOn_refl (j : Job) : j.GoesOn j := ⟨rfl, rfl, rfl⟩

/-- A header joins an instruction. -/
theorem goesOn_jobPlan {j' : Job} (h : jobPlan s c j = .ok j') : j.GoesOn j' ∧ j'.takes = j.takes := by
  unfold jobPlan at h
  split at h
  · unfold mmfPlan at h
    repeat' split at h
    all_goals cases h
    exact ⟨⟨rfl, rfl, rfl⟩, rfl⟩
  · unfold mmtPlan at h
    dsimp only at h
    repeat' split at h
    all_goals cases h
    exact ⟨⟨rfl, rfl, rfl⟩, rfl⟩
  · unfold mmoPlan at h
    repeat' split at h
    all_goals cases h
    exact ⟨⟨rfl, rfl, rfl⟩, rfl⟩
  · unfold scanPlan at h
    dsimp only at h
    repeat' split at h
    all_goals cases h
    exact ⟨⟨rfl, rfl, rfl⟩, rfl⟩
  · cases h
    exact ⟨j.goesOn_refl, rfl⟩

/-! How many sectors an instruction takes at first. -/

theorem length_insertBy {α : Type} (lt : α → α → Bool) (x : α) (l : List α) : (insertBy lt x l).length = l.length + 1 := by
  induction l with
  | nil => rfl
  | cons y l ih =>
    unfold insertBy
    split
    · rfl
    · simp [ih]

theorem length_sortBy {α : Type} (lt : α → α → Bool) (l : List α) : (sortBy lt l).length = l.length := by
  have hfold : ∀ acc : List α, (l.foldl (fun acc x => insertBy lt x acc) acc).length = acc.length + l.length := by
    induction l with
    | nil => exact fun _ => rfl
    | cons x l ih =>
      intro acc
      rw [List.foldl_cons, ih, length_insertBy, List.length_cons]
      omega
  simpa [sortBy] using hfold []

/-- An operand of at most `n` sectors takes at most that many. -/
theorem length_planTakes_le (j : Job) {us : List SrcUse} {n : Nat} (h : ∀ u ∈ us, u.sectors ≤ n) :
    (planTakes j us).takes.length ≤ us.length * n := by
  simp only [planTakes, takeOrder, List.length_map, length_sortBy, List.length_flatMap]
  refine (List.sum_le_card_nsmul _ n ?_).trans (by simp)
  intro k hk
  obtain ⟨x, hx, rfl⟩ := List.mem_map.mp hk
  split
  · simpa using h x.2 (List.of_mem_zip hx).2
  · exact Nat.zero_le n

theorem fmtBits_le (f : Nat) : fmtBits f ≤ 32 := by
  unfold fmtBits
  split <;> decide

/-- An operand of fewer than 2^25 elements has at most 2^22 sectors. -/
theorem sectors_le {spec n w : Nat} (hn : n < 2 ^ 25) (hw : w ≤ 32) : (SrcUse.mk spec w n).sectors ≤ 2 ^ 22 := by
  have hmul : n * w ≤ (2 ^ 25 - 1) * 32 := Nat.mul_le_mul (by omega) hw
  unfold SrcUse.sectors
  dsimp only
  omega

theorem vopSrcs_small (w : Body) : (vopSrcs w).length ≤ 3 ∧ ∀ u ∈ vopSrcs w, u.sectors ≤ 2 ^ 22 := by
  have hn : bits w 67 44 < 2 ^ 24 := bits_lt w 67 44
  unfold vopSrcs
  dsimp only
  split
  · next b c _ =>
    constructor
    · cases b <;> cases c <;> simp
    · intro u hu
      simp only [List.mem_append, List.mem_cons, List.not_mem_nil, or_false] at hu
      rcases hu with (rfl | hu) | hu
      · exact sectors_le (by omega) (fmtBits_le _)
      · split at hu
        · obtain rfl := List.mem_singleton.mp hu
          split
          · exact sectors_le (by omega) (by decide)
          · exact sectors_le (by omega) (fmtBits_le _)
        · cases hu
      · split at hu
        · obtain rfl := List.mem_singleton.mp hu
          exact sectors_le (by omega) (fmtBits_le _)
        · cases hu
  · simp

theorem cvtSrcs_small (w : Body) : (cvtSrcs w).length ≤ 3 ∧ ∀ u ∈ cvtSrcs w, u.sectors ≤ 2 ^ 22 := by
  have hn : bits w 87 64 < 2 ^ 24 := bits_lt w 87 64
  unfold cvtSrcs
  split
  · exact ⟨by simp, by
      simp only [List.cons_append, List.nil_append, List.forall_mem_cons, List.not_mem_nil, false_imp_iff, implies_true,
        and_true]
      exact ⟨sectors_le (by omega) (fmtBits_le _), sectors_le (by omega) (by decide)⟩⟩
  · exact ⟨by simp, by
      simp only [List.append_nil, List.forall_mem_cons, List.not_mem_nil, false_imp_iff, implies_true, and_true]
      exact sectors_le (by omega) (fmtBits_le _)⟩

theorem takes_planTakes_small (j : Job) {us : List SrcUse} (h : us.length ≤ 3 ∧ ∀ u ∈ us, u.sectors ≤ 2 ^ 22) :
    (planTakes j us).takes.length ≤ 2 ^ 24 :=
  (length_planTakes_le j h.2).trans ((Nat.mul_le_mul_right _ h.1).trans (by decide))

/-- An instruction begins with at most 2^24 sectors to take, and leaves its core's streams and units alone. -/
theorem jobBegin_goesOn (htakes : j.takes = []) : (jobBegin s c j).1.quiet c = s.quiet c ∧ j.GoesOn (jobBegin s c j).2
    ∧ (jobBegin s c j).2.takes.length ≤ 2 ^ 24 := by
  have hone : ∀ spec f n, n < 2 ^ 24 →
      [SrcUse.mk spec (fmtBits f) n].length ≤ 3 ∧ ∀ u ∈ [SrcUse.mk spec (fmtBits f) n], u.sectors ≤ 2 ^ 22 :=
    fun spec f n hn => ⟨by simp, fun u hu => by
      obtain rfl := List.mem_singleton.mp hu
      exact sectors_le (by omega) (fmtBits_le _)⟩
  have hsmall : ∀ n, n ≤ 12 → n ≤ 2 ^ 24 := fun n hn => by omega
  unfold jobBegin
  split
  · unfold mmfBegin
    dsimp only
    split
    · refine ⟨?_, ⟨rfl, rfl, rfl⟩, hsmall _ (length_mmfTakes_le _ _ _)⟩
      exact (quiet_disarmStrip _).trans ((quiet_modCore (by intro k; rfl)).trans (quiet_putAcc _))
    · exact ⟨(quiet_modCore (by intro k; rfl)).trans (quiet_putAcc _), ⟨rfl, rfl, rfl⟩, hsmall _ (length_mmfTakes_le _ _ _)⟩
  · exact ⟨quiet_modCore fun _ => rfl, ⟨rfl, rfl, rfl⟩, hsmall _ (length_mmtTakes_le _)⟩
  · refine ⟨quiet_mmoWindowBegin, ?_, hsmall _ mmoWindowBegin_job.2.1⟩
    unfold mmoWindowBegin
    split <;> exact ⟨rfl, rfl, rfl⟩
  · exact ⟨rfl, ⟨rfl, rfl, rfl⟩, hsmall _ (length_scanTakes_le _)⟩
  · exact ⟨rfl, ⟨rfl, rfl, rfl⟩, takes_planTakes_small _ (vopSrcs_small _)⟩
  · exact ⟨rfl, ⟨rfl, rfl, rfl⟩, takes_planTakes_small _ (hone _ _ _ (bits_lt _ 95 72))⟩
  · exact ⟨rfl, ⟨rfl, rfl, rfl⟩, takes_planTakes_small _ (hone _ _ _ (bits_lt _ 87 64))⟩
  · exact ⟨rfl, ⟨rfl, rfl, rfl⟩, takes_planTakes_small _ (cvtSrcs_small _)⟩
  · exact ⟨rfl, j.goesOn_refl, by simp [htakes]⟩

end

end Sys2Proof.Machine
end

section
/-! PROOFS. A core one of whose units runs an instruction and which has nothing else to do: it is tidy, and the unit moves
first (R121). -/

namespace Sys2Proof.Machine

open Sys2Proof

/-! A register set to what it holds. -/

theorem mset_of_mfind {α : Type} {m : SMap α} {k : Nat} {v : α} (h : mfind m k = some v) : mset m k v = m := by
  induction m with
  | nil => cases h
  | cons e m ih =>
    obtain ⟨i, x⟩ := e
    unfold mfind at h
    unfold mset
    split at h
    · cases h
    · next hlt =>
      rw [if_neg hlt]
      split at h
      · next heq =>
        cases h
        rw [if_pos heq, heq]
      · next hne => rw [if_neg hne, ih h]

/-- A field set to its value. -/
theorem wordSet_of_wordFld {x : Word} {f : FieldPos} {v : Nat} (hf : f.lo + f.width ≤ 64)
    (h : wordFld x f = v % 2 ^ f.width) : wordSet x f v = x := by
  refine BitVec.eq_of_toNat_eq ?_
  rw [toNat_wordSet x f v hf, ← h, wordFld, pow_add, ← Nat.div_div_eq_div_mul]
  have hhigh := Nat.div_add_mod (x.toNat / 2 ^ f.lo) (2 ^ f.width)
  have hlow := Nat.div_add_mod x.toNat (2 ^ f.lo)
  calc x.toNat / 2 ^ f.lo / 2 ^ f.width * (2 ^ f.lo * 2 ^ f.width) + x.toNat / 2 ^ f.lo % 2 ^ f.width * 2 ^ f.lo
        + x.toNat % 2 ^ f.lo
      = 2 ^ f.lo * (2 ^ f.width * (x.toNat / 2 ^ f.lo / 2 ^ f.width) + x.toNat / 2 ^ f.lo % 2 ^ f.width)
        + x.toNat % 2 ^ f.lo := by ring
    _ = x.toNat := by rw [hhigh, hlow]

theorem setFld_of_fld {s : State} {a : Nat} {f : FieldPos} {v : Nat} {x : Word} (hf : f.lo + f.width ≤ 64)
    (hx : mfind s.regs a = some x) (h : s.fld a f = v % 2 ^ f.width) : s.setFld a f v = s := by
  have hreg : s.reg a = x := by rw [State.reg, hx]
  rw [State.fld, hreg] at h
  rw [State.setFld, hreg, wordSet_of_wordFld hf h, State.setReg, mset_of_mfind hx]

/-- A register whose array shows busy has been written. -/
theorem arrayStat_written {s : State} {c : Nat} (hc : c < nCores)
    (h : s.fld (Reg.ARRAY_STAT c) Fld.ARRAY_STAT_BUSY = 1) : ∃ x, mfind s.regs (Reg.ARRAY_STAT c) = some x := by
  refine Option.ne_none_iff_exists'.mp fun hnone => ?_
  have hreset : regReset (Reg.ARRAY_STAT c) = 0 :=
    (regReset_core (a := Reg.ARRAY_STAT 0) (by decide) (by decide) hc).trans (by decide +kernel)
  rw [State.fld, State.reg, hnone, hreset] at h
  exact absurd h (by decide)

/-! The core. -/

/-- A core's unit `u` runs the instruction `j`, with nothing else under way; its execute stream's status reads `x`. -/
structure State.Hosts (t : State) (c u : Nat) (j : Job) (x : Word) : Prop where
  units : (t.core c).units = [(u, ⟨some j, none⟩)]
  flights : (t.core c).flights = []
  disarmed : (t.core c).disarmAt = none
  aHold : (t.core c).a.hold.settled = true
  eHold : (t.core c).e.hold.settled = true
  aStep : (t.core c).a.stepping = false
  eStep : (t.core c).e.stepping = false
  combOff : t.flag (Reg.CB_CFG c) Fld.CB_CFG_EN = false
  place : t.reg (Reg.STRM_STAT c 1) = x

/-- ARRAY_STAT shows the array busy with the instruction, where it is the array's. -/
def State.Shows (t : State) (c u : Nat) (j : Job) : Prop :=
  if u = 0 then t.fld (Reg.ARRAY_STAT c) Fld.ARRAY_STAT_BUSY = 1
    ∧ t.fld (Reg.ARRAY_STAT c) Fld.ARRAY_STAT_MODE = arrayMode j.op % 2 ^ Fld.ARRAY_STAT_MODE.width
  else t.fld (Reg.ARRAY_STAT c) Fld.ARRAY_STAT_BUSY = 0

section
variable {t v : State} {c u : Nat} {j j' : Job} {x : Word}

theorem State.Hosts.of_quiet (h : t.Hosts c u j x) (hq : v.quiet c = t.quiet c) : v.Hosts c u j x := by
  obtain ⟨hunits, hflights, hdisarmed, haHold, heHold, haStep, heStep, hcomb, hplace⟩ := h
  simp only [State.quiet, Core.quiet, Prod.mk.injEq] at hq
  obtain ⟨⟨qunits, qflights, qdisarmed, qa, qe⟩, qcomb, qplace, -, -⟩ := hq
  refine ⟨qunits.trans hunits, qflights.trans hflights, qdisarmed.trans hdisarmed, qa ▸ haHold, qe ▸ heHold, qa ▸ haStep,
    qe ▸ heStep, ?_, qplace.trans hplace⟩
  rwa [State.flag, State.fld, qcomb]

theorem State.Shows.of_quiet (h : t.Shows c u j) (hq : v.quiet c = t.quiet c) : v.Shows c u j := by
  simp only [State.quiet, Prod.mk.injEq] at hq
  obtain ⟨-, -, -, hbusy, hmode⟩ := hq
  rwa [State.Shows, hbusy, hmode]

theorem State.Shows.of_op (h : t.Shows c u j) (hop : j'.op = j.op) : t.Shows c u j' := by
  rwa [State.Shows, hop]

theorem State.Hosts.unit (h : t.Hosts c u j x) : t.unit c u = ⟨some j, none⟩ := by
  simp [State.unit, h.units, mget, mfind]

theorem State.Hosts.unit_ne (h : t.Hosts c u j x) {n : Nat} (hn : n ≠ u) : t.unit c n = ⟨none, none⟩ := by
  simp [State.unit, h.units, mget, mfind, hn]

theorem State.Hosts.earlier (h : t.Hosts c u j x) : (t.core c).earlier j.iid = [] := by
  simp [Core.earlier, Core.jobs, h.units]

theorem State.Hosts.core_setRun (h : t.Hosts c u j x) (j' : Job) :
    (t.setRun c u j').core c = { t.core c with units := [(u, ⟨some j', none⟩)] } := by
  rw [State.setRun, h.unit, State.setUnit, core_modCore_self, h.units]
  simp [mset]

theorem State.Hosts.setRun (h : t.Hosts c u j x) (j' : Job) : (t.setRun c u j').Hosts c u j' x := by
  have hcore := h.core_setRun j'
  refine ⟨by rw [hcore], ?_, ?_, ?_, ?_, ?_, ?_, h.combOff, h.place⟩ <;> rw [hcore]
  exacts [h.flights, h.disarmed, h.aHold, h.eHold, h.aStep, h.eStep]

theorem State.Shows.setRun (h : t.Shows c u j) (hop : j'.op = j.op) : (t.setRun c u j').Shows c u j' := h.of_op hop

theorem quiet_accessing (s : State) (c : Nat) (key : FeedKey) : (s.accessing c key).quiet c = s.quiet c :=
  quiet_modCore fun _ => rfl

theorem quiet_dropFeeds (s : State) (c : Nat) (key : FeedKey) : (s.dropFeeds c key).quiet c = s.quiet c := by
  unfold State.dropFeeds
  split
  · exact quiet_modCore fun _ => rfl
  · rfl

/-! What the array shows. -/

theorem State.Hosts.setArrayStat (h : t.Hosts c u j x) (f : FieldPos) (n : Nat) :
    (t.setFld (Reg.ARRAY_STAT c) f n).Hosts c u j x := by
  obtain ⟨hunits, hflights, hdisarmed, haHold, heHold, haStep, heStep, hcomb, hplace⟩ := h
  refine ⟨hunits, hflights, hdisarmed, haHold, heHold, haStep, heStep, ?_, ?_⟩
  · rwa [State.flag, fld_setFld_ne _ _ _ _ (cbCfg_ne_arrayStat c)]
  · rw [reg_setFld_ne _ _ _ (by unfold Reg.STRM_STAT Reg.ARRAY_STAT; omega), hplace]

theorem State.Hosts.showArray (h : t.Hosts c u j x) : (t.showArray c false).Hosts c u j x := by
  unfold State.showArray
  dsimp only
  split
  · exact (h.setArrayStat _ _).setArrayStat _ _
  · split
    · exact (h.setArrayStat _ _).setArrayStat _ _
    · exact h

/-- The array shows what it runs once it is told to. -/
theorem State.Hosts.shows (h : t.Hosts c u j x) (hidle : u = 0 ∨ t.flag (Reg.ARRAY_STAT c) Fld.ARRAY_STAT_BUSY = false) :
    (t.showArray c false).Shows c u j := by
  unfold State.Shows
  split
  · next hu =>
    subst hu
    simp only [State.showArray, h.unit, Bool.false_eq_true, if_false]
    exact ⟨(fld_setFld_apart _ _ _ _ _ _ (by decide) (by decide)).trans (fld_setFld_self _ _ _ _ (by decide)),
      fld_setFld_self _ _ _ _ (by decide)⟩
  · next hu =>
    have hoff : t.flag (Reg.ARRAY_STAT c) Fld.ARRAY_STAT_BUSY = false := hidle.resolve_left hu
    simp only [State.showArray, h.unit_ne (Ne.symm hu), hoff, Bool.false_eq_true, if_false]
    simpa [State.flag] using hoff

/-- An array that shows what it runs keeps showing it. -/
theorem State.Hosts.showArray_eq (h : t.Hosts c u j x) (hs : t.Shows c u j) (hc : c < nCores) (fresh : Bool) :
    t.showArray c fresh
      = if u = 0 ∧ fresh = true then t.setFld (Reg.ARRAY_STAT c) Fld.ARRAY_STAT_SETS_DONE 0 else t := by
  unfold State.Shows at hs
  split at hs
  · next hu =>
    subst hu
    obtain ⟨hbusy, hmode⟩ := hs
    obtain ⟨y, hy⟩ := arrayStat_written hc hbusy
    have hset : (t.setFld (Reg.ARRAY_STAT c) Fld.ARRAY_STAT_BUSY 1).setFld (Reg.ARRAY_STAT c) Fld.ARRAY_STAT_MODE
        (arrayMode j.op) = t := by
      rw [setFld_of_fld (by decide) hy (hbusy.trans rfl), setFld_of_fld (by decide) hy hmode]
    simp only [State.showArray, h.unit, hset, true_and]
  · next hu =>
    have hoff : t.flag (Reg.ARRAY_STAT c) Fld.ARRAY_STAT_BUSY = false := by simp [State.flag, hs]
    simp [State.showArray, h.unit_ne (Ne.symm hu), hoff, hu]

/-- Such a core needs only show its array to be tidy. -/
theorem State.Hosts.tidy (h : t.Hosts c u j x) : t.tidy c = t.showArray c false := by
  have hshow := h.showArray
  have hepochs : (t.showArray c false).epochs c = t.showArray c false := by simp [State.epochs, hshow.combOff]
  have hstep : ∀ y, (t.showArray c false).tidyStep c y = t.showArray c false := fun y => by
    cases y
    · simp [State.tidyStep, State.strm, Core.strm, hshow.aStep]
    · simp [State.tidyStep, State.strm, Core.strm, hshow.eStep]
  rw [State.tidy, tidyFlights_of_nil h.flights, tidyPred_of_none h.disarmed, hepochs, hstep, hstep]

theorem State.Hosts.tidy_eq (h : t.Hosts c u j x) (hs : t.Shows c u j) (hc : c < nCores) : t.tidy c = t := by
  rw [h.tidy, h.showArray_eq hs hc, if_neg (by simp)]

/-- The unit is what can move. -/
theorem State.Hosts.coreStep (h : t.Hosts c u j x) (hu : u < 5) : coreStep t c = unitStep t c u := by
  have hother : ∀ n, n ≠ u → unitStep t c n = none := fun n hn => by simp [unitStep, h.unit_ne hn]
  have hunits : ((List.range 5).findSome? fun n => unitStep t c n) = unitStep t c u := by
    cases hstep : unitStep t c u with
    | none =>
      refine List.findSome?_eq_none_iff.mpr fun n _ => ?_
      rcases eq_or_ne n u with rfl | hn
      · exact hstep
      · exact hother n hn
    | some v =>
      interval_cases u <;> simp [List.range_succ, hother, hstep]
  have ha : strmStep t c .access = none := strmStep_of_settled h.aHold
  have he : strmStep t c .execute = none := strmStep_of_settled h.eHold
  rw [Machine.coreStep, hunits, ha, he]
  cases unitStep t c u <;> rfl

end

end Sys2Proof.Machine
end

section
/-! PROOFS. The execute units run an instruction to its end (R121, R125): the moves of its core one by one come to its start, its
takes, its parts and its results. -/

namespace Sys2Proof.Machine

open Sys2Proof

/-! Moves of a core. -/

/-- After `k` moves of a core the state `s` has become `t`. -/
def PumpsIn (c k : Nat) (s t : State) : Prop := ∀ n, pumpLoop c (k + n) s = pumpLoop c n t

section
variable {s t v : State} {c u k l : Nat} {j j' : Job} {x : Word}

theorem PumpsIn.refl (c : Nat) (s : State) : PumpsIn c 0 s s := fun n => by rw [Nat.zero_add]

theorem PumpsIn.trans (h : PumpsIn c k s t) (h' : PumpsIn c l t v) : PumpsIn c (k + l) s v := fun n => by
  rw [Nat.add_assoc, h, h']

theorem pumpsIn_of_step (h : coreStep s c = some t) (htidy : t.tidy c = t) : PumpsIn c 1 s t := fun n => by
  rw [Nat.add_comm, pumpLoop_of_step h, htidy]

/-- A core that runs an instruction and shows so. -/
structure State.Runs (t : State) (c u : Nat) (j : Job) (x : Word) : Prop extends t.Hosts c u j x where
  shows : t.Shows c u j

theorem State.Runs.of_quiet (h : t.Runs c u j x) (hq : v.quiet c = t.quiet c) : v.Runs c u j x :=
  ⟨h.toHosts.of_quiet hq, h.shows.of_quiet hq⟩

theorem State.Runs.setRun (h : t.Runs c u j x) (hop : j'.op = j.op) : (t.setRun c u j').Runs c u j' x :=
  ⟨h.toHosts.setRun j', h.shows.setRun hop⟩

theorem State.Runs.pumpsIn (h : t.Runs c u j x) (hu : u < 5) (hc : c < nCores) (hstep : unitStep t c u = some v)
    (hv : v.Runs c u j' x) : PumpsIn c 1 t v :=
  pumpsIn_of_step ((h.toHosts.coreStep hu).trans hstep) (hv.toHosts.tidy_eq hv.shows hc)

/-! What it takes. -/

/-- An instruction that has taken the sectors `ds` from queue `q`, with `rest` to take after them. -/
def Job.having (j : Job) (q : Nat) (ds : List Sector) (rest : List (Nat × Nat)) : Job :=
  { j with got := ds.reverse ++ j.got, took := if j.took.contains q then j.took else q :: j.took, takes := rest }

/-- The state once a unit's instruction has taken `n` sectors that it finds in queue `q`. -/
def State.unitTook (t : State) (c u : Nat) (j : Job) (q n : Nat) (rest : List (Nat × Nat)) : State :=
  let i := j.having q (t.qReady c q n) rest
  let r := (t.qDrop c q n).setRun c u i
  if readsHdr j.op then r.modCore c fun k => { k with winLoad := i.loaded } else r

theorem takesAll_cons (t : State) (c u : Nat) (j : Job) (q n : Nat) (rest : List (Nat × Nat)) :
    t.takesAll c u ((q, n) :: rest) j
      = if n = 0 then (t.setRun c u { j with takes := rest }).takesAll c u rest { j with takes := rest }
        else if (t.qReady c q n).length ≠ n then none
        else (t.unitTook c u j q n rest).takesAll c u rest (j.having q (t.qReady c q n) rest) := rfl

theorem State.Runs.unitTook (h : t.Runs c u j x) (q n : Nat) (rest : List (Nat × Nat)) :
    (t.unitTook c u j q n rest).Runs c u (j.having q (t.qReady c q n) rest) x := by
  have hdrop : (t.qDrop c q n).Runs c u j x := h.of_quiet (quiet_modCore fun _ => rfl)
  have hrun := hdrop.setRun (j' := j.having q (t.qReady c q n) rest) rfl
  unfold State.unitTook
  dsimp only
  split
  · exact hrun.of_quiet (quiet_modCore fun _ => rfl)
  · exact hrun

/-- Sectors that are all at hand are taken in one move. -/
theorem unitStep_takes (h : t.Runs c u j x) (hstart : j.started = true) (hcomp : j.computed = false) {q n : Nat}
    {rest : List (Nat × Nat)} (htakes : j.takes = (q, n) :: rest) (hn : n ≠ 0) (hall : (t.qReady c q n).length = n) :
    unitStep t c u = some (t.unitTook c u j q n rest) := by
  rw [unitStep, h.unit]
  simp only [hstart, hcomp, htakes, Bool.not_true, Bool.not_false, Bool.false_eq_true, if_false, if_true,
    State.takeSectors, takesFirst, h.earlier, List.any_nil]
  cases hds : t.qReady c q n with
  | nil =>
    rw [hds] at hall
    exact absurd hall.symm hn
  | cons d ds =>
    rw [hds] at hall
    simp [State.unitTook, Job.having, hds, hall, hstart, hcomp]

theorem unitStep_takes_none (h : t.Runs c u j x) (hstart : j.started = true) (hcomp : j.computed = false) {q : Nat}
    {rest : List (Nat × Nat)} (htakes : j.takes = (q, 0) :: rest) :
    unitStep t c u = some (t.setRun c u { j with takes := rest }) := by
  rw [unitStep, h.unit]
  simp [hstart, hcomp, htakes, State.takeSectors, takesFirst, h.earlier, State.qReady]

/-- What is taken leaves the instruction with nothing to take. -/
theorem takesAll_job (ts : List (Nat × Nat)) (hall : t.takesAll c u ts j = some (v, j')) : j.GoesOn j' ∧ j'.takes = [] := by
  induction ts generalizing t j with
  | nil =>
    cases hall
    exact ⟨⟨rfl, rfl, rfl⟩, rfl⟩
  | cons y ts ih =>
    obtain ⟨q, n⟩ := y
    rw [takesAll_cons] at hall
    have hnext : ∀ {t' i}, State.takesAll t' c u ts i = some (v, j') → j.GoesOn i → j.GoesOn j' ∧ j'.takes = [] :=
      fun h hi => by
        obtain ⟨hgo, hnil⟩ := ih h
        exact ⟨⟨hgo.tag.trans hi.tag, hgo.fail.trans hi.fail, hgo.computed.trans hi.computed⟩, hnil⟩
    split at hall
    · exact hnext hall ⟨rfl, rfl, rfl⟩
    split at hall
    · cases hall
    · exact hnext hall ⟨rfl, rfl, rfl⟩

/-- An instruction takes what it names, one queue after the other. -/
theorem pumps_takesAll (hu : u < 5) (hc : c < nCores) (ts : List (Nat × Nat)) (h : t.Runs c u j x)
    (hstart : j.started = true) (hcomp : j.computed = false) (hts : j.takes = ts)
    (hall : t.takesAll c u ts j = some (v, j')) : PumpsIn c ts.length t v ∧ v.Runs c u j' x := by
  induction ts generalizing t j with
  | nil =>
    cases hall
    have hj : { j with takes := [] } = j := by rw [← hts]
    rw [hj]
    exact ⟨PumpsIn.refl c _, h⟩
  | cons y ts ih =>
    obtain ⟨q, n⟩ := y
    rw [takesAll_cons] at hall
    rw [List.length_cons, Nat.add_comm]
    by_cases hn : n = 0
    · subst hn
      rw [if_pos rfl] at hall
      have hrun : (t.setRun c u { j with takes := ts }).Runs c u { j with takes := ts } x := h.setRun rfl
      obtain ⟨hpump, hv⟩ := ih hrun hstart hcomp rfl hall
      exact ⟨(h.pumpsIn hu hc (unitStep_takes_none h hstart hcomp hts) hrun).trans hpump, hv⟩
    rw [if_neg hn] at hall
    by_cases hlen : (t.qReady c q n).length = n
    · rw [if_neg (not_not.mpr hlen)] at hall
      have hrun := h.unitTook q n ts
      obtain ⟨hpump, hv⟩ := ih hrun hstart hcomp rfl hall
      exact ⟨(h.pumpsIn hu hc (unitStep_takes h hstart hcomp hts hn hlen) hrun).trans hpump, hv⟩
    · rw [if_pos hlen] at hall
      cases hall

/-! What it puts. -/

/-- The space of a core's queues. -/
def State.room (s : State) (c : Nat) : Nat := ((List.range 6).map fun q => s.qSpace c q).sum

theorem room_le (s : State) (c : Nat) : s.room c ≤ 1280 := by
  have hcap : ∀ q, s.qSpace c q ≤ qCap q := fun q => Nat.sub_le _ _
  calc s.room c ≤ ((List.range 6).map qCap).sum := List.sum_le_sum fun q _ => hcap q
    _ = 1280 := by decide

theorem qSpace_qPush (s : State) (c q n : Nat) (d : Sector) :
    (s.qPush c q [d]).qSpace c n = if n = q then s.qSpace c q - 1 else s.qSpace c n := by
  have hqueue : (s.qPush c q [d]).queue c n = if n = q then s.queue c q ++ [.filled d] else s.queue c n := by
    have hfull : (s.queue c q ++ [d].map QSlot.filled).isEmpty = false := by simp
    rw [State.queue, State.qPush, State.setQueue, core_modCore_self, if_neg (by rw [hfull]; exact Bool.false_ne_true)]
    rw [mget, mfind_mset]
    split
    · rfl
    · rfl
  unfold State.qSpace State.qLen
  rw [hqueue]
  split
  · next hn => rw [hn, List.length_append, List.length_singleton, Nat.sub_sub]
  · rfl

theorem room_qPush {q : Nat} (hq : q < 6) (hspace : s.qSpace c q ≠ 0) (d : Sector) :
    (s.qPush c q [d]).room c + 1 = s.room c := by
  simp only [State.room, qSpace_qPush]
  interval_cases q <;> simp [List.range_succ] <;> omega

/-- The results of an instruction enter their queues, and there is room for every one. -/
theorem pumps_putsAll (hu : u < 5) (hc : c < nCores) (os : List (Nat × Sector)) (h : t.Runs c u { j with outs := os } x)
    (hstart : j.started = true) (hcomp : j.computed = true) (hos : ∀ y ∈ os, y.1 < 6) (hall : t.putsAll c u j os = some v) :
    PumpsIn c os.length t v ∧ v.Runs c u { j with outs := [] } x ∧ os.length ≤ t.room c := by
  induction os generalizing t with
  | nil =>
    cases hall
    exact ⟨PumpsIn.refl c _, h, Nat.zero_le _⟩
  | cons y os ih =>
    obtain ⟨q, d⟩ := y
    rw [State.putsAll] at hall
    by_cases hspace : t.qSpace c q = 0
    · rw [if_pos hspace] at hall
      cases hall
    rw [if_neg hspace] at hall
    have hstep : unitStep t c u = some ((t.qPush c q [d]).setRun c u { j with outs := os }) := by
      rw [unitStep, h.unit]
      have hfirst : putsFirst (t.core c) j.iid q = false := by
        have hearlier : (t.core c).earlier j.iid = [] := h.earlier
        rw [putsFirst, hearlier]
        rfl
      simp [hstart, hcomp, hfirst, hspace]
    have hnext : ((t.qPush c q [d]).setRun c u { j with outs := os }).Runs c u { j with outs := os } x :=
      (h.of_quiet (v := t.qPush c q [d]) (quiet_modCore fun _ => rfl)).setRun rfl
    obtain ⟨hpump, hv, hlen⟩ := ih hnext (fun y hy => hos y (List.mem_cons_of_mem _ hy)) hall
    have hroom : ((t.qPush c q [d]).setRun c u { j with outs := os }).room c + 1 = t.room c := by
      rw [← room_qPush (hos _ List.mem_cons_self) hspace d]
      unfold State.room State.qSpace State.qLen State.queue
      rw [(h.of_quiet (v := t.qPush c q [d]) (quiet_modCore fun _ => rfl)).core_setRun]
    refine ⟨?_, hv, ?_⟩
    · rw [List.length_cons, Nat.add_comm]
      exact (h.pumpsIn hu hc hstep hnext).trans hpump
    · rw [List.length_cons]
      omega

/-! Its parts. -/

/-- What a part that does not fail leaves. -/
def State.parted (t : State) (c u : Nat) (j : Job) : State :=
  let r := jobPart (t.accessing c (.job j.iid)) c j
  (r.s.setRun c u { r.j with outs := r.q }).dropFeeds c (.job j.iid)

theorem unitStep_part (h : t.Runs c u j x) (hstart : j.started = true) (hcomp : j.computed = false) (htakes : j.takes = [])
    (hwait : (j.op == 0x24 && j.drain && t.outstanding c j.iid) = false)
    (herr : (jobPart (t.accessing c (.job j.iid)) c j).err = none) : unitStep t c u = some (t.parted c u j) := by
  rw [unitStep, h.unit]
  have hwait' : ¬ ((decide (j.op = 0x24) && j.drain && t.outstanding c j.iid) = true) := by
    rw [← beq_eq_decide, hwait]
    exact Bool.false_ne_true
  simp only [hstart, hcomp, htakes, Bool.not_true, Bool.not_false, Bool.false_eq_true, if_false, if_true, State.runPart,
    if_neg hwait', herr]
  rfl

/-- A part that leaves no failure leaves its core as it was. -/
theorem State.Runs.parted (h : t.Runs c u j x) (htakes : j.takes = [])
    (hfail : (jobPart (t.accessing c (.job j.iid)) c j).j.fail = none) :
    (t.parted c u j).Runs c u { (jobPart (t.accessing c (.job j.iid)) c j).j with
      outs := (jobPart (t.accessing c (.job j.iid)) c j).q } x := by
  have hfollow : (jobPart (t.accessing c (.job j.iid)) c j).Follows (t.accessing c (.job j.iid)) c j :=
    follows_jobPart htakes
  have hpart := h.of_quiet ((hfollow.quiet hfail).trans (quiet_accessing _ _ _))
  have hop : (jobPart (t.accessing c (.job j.iid)) c j).j.op = j.op := congrArg (·.2.1) hfollow.tag
  exact (hpart.setRun (j' := { (jobPart (t.accessing c (.job j.iid)) c j).j with
    outs := (jobPart (t.accessing c (.job j.iid)) c j).q }) hop).of_quiet (quiet_dropFeeds _ _ _)

/-- The parts of an instruction behind what it takes, by the state that each leaves. -/
theorem partsAll_of_takesAll {n : Nat} (hall : t.takesAll c u j.takes j = some (v, j')) :
    t.partsAll c u (n + 1) j
      = let r := jobPart (v.accessing c (.job j'.iid)) c j'
        let i := { r.j with outs := r.q }
        if j'.op == 0x24 && j'.drain && v.outstanding c j'.iid then none
        else if r.err.isSome || (!i.computed && !i.outs.isEmpty) then none
        else if i.computed then (if i.fail.isSome then none else (v.parted c u j').putsAll c u i i.outs)
        else (v.parted c u j').partsAll c u n i := by
  have hiid : (jobPart (v.accessing c (.job j'.iid)) c j').j.iid = j'.iid :=
    congrArg Prod.fst (follows_jobPart (s := v.accessing c (.job j'.iid)) (c := c) (takesAll_job _ hall).2).tag
  rw [State.partsAll, hall]
  simp only [State.parted, hiid]

/-- MMT that keeps a failure does not come to its end. -/
theorem partsAll_of_fail (n : Nat) (hop : j.op = 0x21) {f : Nat × Nat} (hfail : j.fail = some f) :
    t.partsAll c u n j = none := by
  cases n with
  | zero => rfl
  | succ n =>
    cases hall : t.takesAll c u j.takes j with
    | none => rw [State.partsAll, hall]
    | some p =>
      obtain ⟨v, j'⟩ := p
      obtain ⟨hgo, -⟩ := takesAll_job _ hall
      have hop' : j'.op = 0x21 := (congrArg (·.2.1) hgo.tag).trans hop
      have herr := err_jobPart_of_fail (s := v.accessing c (.job j'.iid)) (c := c) hop' (hgo.fail.trans hfail)
      rw [partsAll_of_takesAll hall]
      simp [herr]

/-- An instruction `j'` is what `j` has become at its end: computed, its results put out. -/
structure Job.Ends (j j' : Job) : Prop where
  tag : j'.tag = j.tag
  computed : j'.computed = true
  outs : j'.outs = []
  fail : j'.fail = none

/-- The parts of an instruction run to its end, in at most thirteen moves each besides the first takes and the results. -/
theorem pumps_partsAll (hu : u < 5) (hc : c < nCores) (n : Nat) (h : t.Runs c u j x) (hstart : j.started = true)
    (hcomp : j.computed = false) (hfail : j.fail = none) (hall : t.partsAll c u n j = some v) :
    ∃ k j', k ≤ j.takes.length + 13 * n + 1280 ∧ PumpsIn c k t v ∧ v.Runs c u j' x ∧ j.Ends j' := by
  induction n generalizing t j with
  | zero => cases hall
  | succ n ih =>
    cases htook : t.takesAll c u j.takes j with
    | none =>
      rw [State.partsAll, htook] at hall
      cases hall
    | some p =>
      obtain ⟨t₁, j₁⟩ := p
      obtain ⟨hgo, hnil⟩ := takesAll_job _ htook
      obtain ⟨hpump₁, hrun₁⟩ := pumps_takesAll hu hc _ h hstart hcomp rfl htook
      have hstart₁ : j₁.started = true := (congrArg (·.2.2) hgo.tag).trans hstart
      have hfollow := follows_jobPart (s := t₁.accessing c (.job j₁.iid)) (c := c) hnil
      rw [partsAll_of_takesAll htook] at hall
      dsimp only at hall
      have hstep := unitStep_part hrun₁ hstart₁ (hgo.computed.trans hcomp) hnil
      have hparted := hrun₁.parted hnil
      generalize jobPart (t₁.accessing c (.job j₁.iid)) c j₁ = r at hall hfollow hstep hparted
      split at hall
      · cases hall
      next hwait =>
      split at hall
      · cases hall
      next herr =>
      obtain ⟨herr, hq⟩ : r.err = none ∧ (r.j.computed = false → r.q = []) := by simpa using herr
      have hfail₂ : r.j.fail = none := by
        by_contra hsome
        obtain ⟨f, hf⟩ := Option.ne_none_iff_exists'.mp hsome
        split at hall
        · rw [hf] at hall
          cases hall
        · rcases hfollow.fail with hkeep | hop
          · exact hsome (hkeep.trans (hgo.fail.trans hfail))
          · have hop' : r.j.op = 0x21 := (congrArg (·.2.1) hfollow.tag).trans hop
            rw [partsAll_of_fail (j := { r.j with outs := r.q }) n hop' hf] at hall
            cases hall
      have hrun₂ := hparted hfail₂
      have htag : r.j.tag = j.tag := hfollow.tag.trans hgo.tag
      have hpump₂ := hpump₁.trans (hrun₁.pumpsIn hu hc (hstep (by simpa using hwait) herr) hrun₂)
      split at hall
      · next hdone =>
        rw [if_neg (by rw [hfail₂]; exact Bool.false_ne_true)] at hall
        obtain ⟨hpump₃, hrun₃, hlen⟩ := pumps_putsAll (j := { r.j with outs := r.q }) hu hc r.q hrun₂
          ((congrArg (·.2.2) htag).trans hstart) hdone hfollow.dests hall
        have hroom := room_le (t₁.parted c u j₁) c
        exact ⟨_, _, by omega, hpump₂.trans hpump₃, hrun₃, htag, hdone, rfl, hfail₂⟩
      · next hmore =>
        obtain ⟨k, j₃, hk, hpump₃, hrun₃, hends⟩ := ih (j := { r.j with outs := r.q }) hrun₂
          ((congrArg (·.2.2) htag).trans hstart) (by simpa using hmore) hfail₂ hall
        have htakes : r.j.takes.length ≤ 12 := hfollow.takes
        exact ⟨_, j₃, by dsimp only at hk; omega, hpump₂.trans hpump₃, hrun₃, hends.tag.trans htag, hends.computed,
          hends.outs, hends.fail⟩

end

end Sys2Proof.Machine
end

section
/-! PROOFS. An execute instruction that finds its unit free runs to its end (R121, R125, R132). -/

namespace Sys2Proof.Machine

open Sys2Proof

section
variable {s t v : State} {c u op : Nat} {w : Body} {j j' : Job} {x : Word}

/-! Its start. -/

/-- What the beginning of an instruction leaves. -/
def State.begun (t : State) (c u : Nat) (j : Job) : State :=
  let s := (jobBegin t c j).1.setRun c u { (jobBegin t c j).2 with started := true }
  if u = 0 then s.showArray c true else s

theorem unitStep_begin (h : t.Runs c u j x) (hstart : j.started = false) (hhdr : (readsHdr j.op && j.hdrs.isEmpty) = false) :
    unitStep t c u = some (t.begun c u j) := by
  rw [unitStep, h.unit]
  simp only [hstart, Bool.not_false, if_true, State.startJob, h.earlier, List.any_nil, hhdr, Bool.false_eq_true, if_false]
  rfl

theorem State.Runs.begun (h : t.Runs c u j x) (hc : c < nCores) (htakes : j.takes = []) :
    (t.begun c u j).Runs c u { (jobBegin t c j).2 with started := true } x := by
  obtain ⟨hquiet, hgo, -⟩ := jobBegin_goesOn (s := t) (c := c) htakes
  have hop : (jobBegin t c j).2.op = j.op := congrArg (·.2.1) hgo.tag
  have hrun := (h.of_quiet hquiet).setRun (j' := { (jobBegin t c j).2 with started := true }) hop
  unfold State.begun
  dsimp only
  split
  · next hu =>
    rw [hrun.toHosts.showArray_eq hrun.shows hc, if_pos ⟨hu, rfl⟩]
    exact hrun.of_quiet (quiet_setSetsDone 0)
  · exact hrun

/-- What the reading of an instruction's header leaves. -/
def State.planned (t : State) (c u : Nat) (j j' : Job) : State :=
  ((t.accessing c (.job j.iid)).setRun c u j').dropFeeds c (.job j.iid)

theorem unitStep_plan (h : t.Runs c u j x) (hstart : j.started = false) (hhdr : (readsHdr j.op && j.hdrs.isEmpty) = true)
    (hplan : jobPlan (t.accessing c (.job j.iid)) c j = .ok j') : unitStep t c u = some (t.planned c u j j') := by
  rw [unitStep, h.unit]
  simp only [hstart, Bool.not_false, if_true, State.startJob, h.earlier, List.any_nil, hhdr, Bool.false_eq_true, if_false,
    hplan]
  rfl

theorem State.Runs.planned (h : t.Runs c u j x) (hop : j'.op = j.op) : (t.planned c u j j').Runs c u j' x :=
  ((h.of_quiet (quiet_accessing t c (.job j.iid))).setRun hop).of_quiet (quiet_dropFeeds _ _ _)

/-- From its beginning an instruction runs to its end, well within the bound on a core's moves. -/
theorem pumps_begun (hu : u < 5) (hc : c < nCores) (h : t.Runs c u j x) (hstart : j.started = false)
    (hhdr : (readsHdr j.op && j.hdrs.isEmpty) = false) (htakes : j.takes = []) (hcomp : j.computed = false)
    (hfail : j.fail = none)
    (hall : (t.begun c u j).partsAll c u (2 ^ 30) { (jobBegin t c j).2 with started := true } = some v) :
    ∃ k j', k < 2 ^ 39 ∧ PumpsIn c k t v ∧ v.Runs c u j' x ∧ j'.iid = j.iid ∧ j'.started = true ∧ j'.computed = true
      ∧ j'.outs = [] ∧ j'.fail = none := by
  obtain ⟨-, hgo, hfew⟩ := jobBegin_goesOn (s := t) (c := c) htakes
  have hbegun := h.begun hc htakes
  obtain ⟨k, j', hk, hpump, hrun, hends⟩ := pumps_partsAll hu hc (2 ^ 30) hbegun rfl (hgo.computed.trans hcomp)
    (hgo.fail.trans hfail) hall
  refine ⟨1 + k, j', ?_, (h.pumpsIn hu hc (unitStep_begin h hstart hhdr) hbegun).trans hpump, hrun,
    (congrArg Prod.fst hends.tag).trans (congrArg Prod.fst hgo.tag), congrArg (·.2.2) hends.tag, hends.computed,
    hends.outs, hends.fail⟩
  dsimp only at hk
  omega

/-! Its issue. -/

/-- The state in which a unit has been handed an instruction and the execute stream has gone on. -/
def State.handedUnit (s : State) (c u : Nat) (j : Job) : State :=
  (((s.accessing c (.issue .execute)).dropFeeds c (.issue .execute)).setUnit c u ⟨some j, none⟩).issued c .execute

theorem hosts_handedUnit (h : s.coreStill c = true) (u : Nat) (j : Job) :
    (s.handedUnit c u j).Hosts c u j ((s.handedUnit c u j).reg (Reg.STRM_STAT c 1)) := by
  obtain ⟨hcalm, hflights, hfeeds⟩ := still_parts h
  obtain ⟨hunits, -, haHold, -, haStep, heStep, -, hcomb, hdisarmed⟩ := calm_parts hcalm
  have hdrop : (s.accessing c (.issue .execute)).dropFeeds c (.issue .execute) = s.accessing c (.issue .execute) :=
    dropFeeds_of_nil (by rw [core_accessing]; exact hfeeds) _
  have hcore : ((s.accessing c (.issue .execute)).setUnit c u ⟨some j, none⟩).core c
      = { s.core c with now := .issue .execute, units := [(u, ⟨some j, none⟩)] } := by
    rw [State.setUnit, core_modCore_self, core_accessing]
    simp [hunits, mset]
  have hissued : ∀ a : State, (a.issued c .execute).core c
      = { a.core c with
          nextIid := (a.core c).nextIid + 1
          e := { (a.core c).e with pastEnd := decide (2048 ≤ a.strmIndex c .execute + 1), hold := .free } } := fun a => by
    simp [State.issued, State.issuedTo, State.goTo, State.resume, State.modStrm, State.setWaitOn, State.setFld, Core.setStrm,
      Core.strm]
  refine ⟨?_, ?_, ?_, ?_, ?_, ?_, ?_, ?_, rfl⟩
  all_goals rw [State.handedUnit, hdrop]
  case refine_8 =>
    have hne : Reg.CB_CFG c ≠ Reg.STRM_STAT c (sidx .execute) := cbCfg_ne_strmStat c
    rw [State.flag, State.fld, State.issued, reg_issuedTo_ne _ _ _ _ hne]
    exact hcomb
  all_goals rw [hissued, hcore]
  exacts [hflights, hdisarmed, haHold, rfl, haStep, heStep]

/-- The state in which the array shows an instruction that has been handed to a unit. -/
def State.atUnit (s : State) (c u : Nat) (j : Job) : State := (s.handedUnit c u j).showArray c false

/-- An instruction that reads no header first runs alone from its beginning. -/
theorem runsAlone_of_plain (hhdr : readsHdr j.op = false) :
    s.runsAlone c u j = ((s.atUnit c u j).begun c u j).partsAll c u (2 ^ 30)
      { (jobBegin (s.atUnit c u j) c j).2 with started := true } := by
  simp only [State.runsAlone, hhdr, Bool.false_eq_true, if_false]
  rfl

/-- The header of an instruction that runs alone is read before its beginning. -/
theorem runsAlone_of_header (hhdr : readsHdr j.op = true) (hrun : s.runsAlone c u j = some v) :
    ∃ j', jobPlan ((s.atUnit c u j).accessing c (.job j.iid)) c j = .ok j' ∧ j'.hdrs.isEmpty = false
      ∧ (((s.atUnit c u j).planned c u j j').begun c u j').partsAll c u (2 ^ 30)
          { (jobBegin ((s.atUnit c u j).planned c u j j') c j').2 with started := true } = some v := by
  have hfold : ((((s.accessing c (.issue .execute)).dropFeeds c (.issue .execute)).setUnit c u ⟨some j, none⟩).issued c
      .execute).showArray c false = s.atUnit c u j := rfl
  simp only [State.runsAlone, hfold, hhdr, if_true] at hrun
  cases hplan : jobPlan ((s.atUnit c u j).accessing c (.job j.iid)) c j with
  | error e =>
    simp only [hplan] at hrun
    cases hrun
  | ok j' =>
    obtain ⟨hgo, -⟩ := goesOn_jobPlan hplan
    have hiid : j'.iid = j.iid := congrArg Prod.fst hgo.tag
    simp only [hplan, hiid] at hrun
    by_cases hempty : j'.hdrs.isEmpty = true
    · rw [if_pos hempty] at hrun
      cases hrun
    · rw [if_neg hempty] at hrun
      exact ⟨j', rfl, by simpa using hempty, hrun⟩

/-- A unit that is handed an instruction on a still core runs it to the end that it comes to alone, where it waits to
finish. -/
theorem pump_handedUnit (hstill : s.coreStill c = true) (hu : u < 5) (hc : c < nCores) (hfresh : j.Fresh op)
    (hrun : s.runsAlone c u j = some v) :
    (s.handedUnit c u j).pump c = v ∧ ∃ j', v.Hosts c u j' ((s.handedUnit c u j).reg (Reg.STRM_STAT c 1))
      ∧ j'.iid = j.iid ∧ j'.computed = true ∧ j'.outs = [] ∧ j'.fail = none := by
  obtain ⟨-, -, -, -, -, -, hbusy, -⟩ := calm_parts (still_parts hstill).1
  have hhosts := hosts_handedUnit (c := c) hstill u j
  have hidle : u = 0 ∨ (s.handedUnit c u j).flag (Reg.ARRAY_STAT c) Fld.ARRAY_STAT_BUSY = false := by
    have hne : Reg.ARRAY_STAT c ≠ Reg.STRM_STAT c (sidx .execute) := by
      unfold Reg.ARRAY_STAT Reg.STRM_STAT
      simp only [sidx]
      omega
    rw [State.flag, State.fld, State.handedUnit, State.issued, reg_issuedTo_ne _ _ _ _ hne,
      dropFeeds_of_nil (by rw [core_accessing]; exact (still_parts hstill).2.2)]
    exact .inr hbusy
  have hruns : (s.atUnit c u j).Runs c u j ((s.handedUnit c u j).reg (Reg.STRM_STAT c 1)) :=
    ⟨hhosts.showArray, hhosts.shows hidle⟩
  obtain ⟨k, j', hk, hpump, hend, hiid, hstart, hcomp, houts, hfail⟩ : ∃ k j', k < 2 ^ 40 ∧ PumpsIn c k (s.atUnit c u j) v
      ∧ v.Runs c u j' ((s.handedUnit c u j).reg (Reg.STRM_STAT c 1)) ∧ j'.iid = j.iid ∧ j'.started = true
      ∧ j'.computed = true ∧ j'.outs = [] ∧ j'.fail = none := by
    cases hhdr : readsHdr j.op with
    | false =>
      rw [runsAlone_of_plain hhdr] at hrun
      obtain ⟨k, j', hk, hrest⟩ := pumps_begun hu hc hruns hfresh.started (by simp [hhdr]) hfresh.takes hfresh.computed
        hfresh.fail hrun
      exact ⟨k, j', by omega, hrest⟩
    | true =>
      obtain ⟨i, hplan, hhdrs, hrun⟩ := runsAlone_of_header hhdr hrun
      obtain ⟨hgo, htakes⟩ := goesOn_jobPlan hplan
      have hiid : i.iid = j.iid := congrArg Prod.fst hgo.tag
      have hplanned := hruns.planned (j' := i) (congrArg (·.2.1) hgo.tag)
      have hfirst := hruns.pumpsIn hu hc (unitStep_plan hruns hfresh.started (by simp [hhdr, hfresh.hdrs]) hplan) hplanned
      obtain ⟨k, j', hk, hpump, hend, hiid', hrest⟩ := pumps_begun hu hc hplanned
        ((congrArg (·.2.2) hgo.tag).trans hfresh.started) (by simp [hhdrs]) (htakes.trans hfresh.takes)
        (hgo.computed.trans hfresh.computed) (hgo.fail.trans hfresh.fail) hrun
      exact ⟨1 + k, j', by omega, hfirst.trans hpump, hend, hiid'.trans hiid, hrest⟩
  have hrest : coreStep v c = none := by
    rw [hend.toHosts.coreStep hu, unitStep, hend.unit]
    simp [hstart, hcomp, houts, hfail]
  obtain ⟨n, hn⟩ : ∃ n, 2 ^ 40 = k + n := ⟨2 ^ 40 - k, by omega⟩
  refine ⟨?_, j', hend.toHosts, hiid, hcomp, houts, hfail⟩
  rw [State.pump, hhosts.tidy, hn]
  exact (hpump n).trans (pumpLoop_of_rest hrest n)

/-- The execute stream of a unit that has been handed an instruction stands at the next index. -/
theorem strmIndex_handedUnit (hstill : s.coreStill c = true) (hstate : s.strmState c .execute = 1) (u : Nat) (j : Job) :
    (s.handedUnit c u j).strmIndex c .execute = (s.strmIndex c .execute + 1) % 2048 := by
  rw [State.handedUnit, dropFeeds_of_nil (by rw [core_accessing]; exact (still_parts hstill).2.2)]
  have hkept : ∀ f, ((s.accessing c (.issue .execute)).setUnit c u ⟨some j, none⟩).fld (Reg.STRM_STAT c (sidx .execute)) f
      = s.fld (Reg.STRM_STAT c (sidx .execute)) f := fun f => (fld_modCore ..).trans (fld_modCore ..)
  obtain ⟨hindex, -⟩ := wentTo_issuedTo (c := c) (t := .execute) ((hkept Fld.STRM_STAT_STATE).trans hstate)
    (((s.accessing c (.issue .execute)).setUnit c u ⟨some j, none⟩).strmIndex c .execute + 1)
  exact hindex.trans (congrArg (fun n => (n + 1) % 2048) (hkept Fld.STRM_STAT_INDEX))

/-! The statement. -/

theorem unitOf_lt (h : unitOf op = some u) : u < 5 := by
  unfold unitOf at h
  repeat' split at h
  all_goals cases h
  all_goals decide

end

/-- Settles O13: what a core does once its unit has been handed an instruction is what the instruction does alone, move by
move, and then it waits to finish. -/
theorem executeInstructionsRun : Obligations.ExecuteInstructionsRun := by
  intro p hp c w s j u t hready hunit hissue hrun
  obtain ⟨hstate, -, -, hstill⟩ := ready_parts hready
  have hfeeds := (still_parts hstill).2.2
  have hjob : (s.accessing c.val (.issue .execute)).issuedJob c.val j = s.jobOf c.val j := by
    rw [State.issuedJob, core_accessing]
    rfl
  obtain ⟨hop, hstarted, hhdrs, hfail, htakes, hcomputed⟩ := fresh_execIssue hp hissue
  have hfresh : (s.jobOf c.val j).Fresh p.1 := ⟨hop, hstarted, hhdrs, hfail, htakes, hcomputed⟩
  have heffect : issueEffect s c.val .execute p.1 w = s.handedUnit c.val u (s.jobOf c.val j) := by
    have hexec : issueEffect s c.val .execute p.1 w = issueExec s c.val p.1 w := by
      fin_cases hp <;> rfl
    rw [hexec, issueExec_of_ok hstill (execIssue_accessing _ hfeeds hissue), hunit, hjob, State.handedUnit,
      dropFeeds_of_nil (by rw [core_accessing]; exact hfeeds)]
    rfl
  obtain ⟨hpump, j', hhosts, hiid, hcomp, houts, hfail'⟩ :=
    pump_handedUnit hstill (unitOf_lt hunit) c.isLt hfresh hrun
  rw [exec_of_ready (List.mem_append_right _ hp) hready, heffect, hpump]
  have hplace : t.strmIndex c.val .execute = (s.handedUnit c.val u (s.jobOf c.val j)).strmIndex c.val .execute :=
    congrArg (wordFld · Fld.STRM_STAT_INDEX) hhosts.place
  refine ⟨rfl, hplace.trans (strmIndex_handedUnit hstill hstate _ _), j', by rw [hhosts.unit], hiid, hcomp, houts, hfail'⟩

end Sys2Proof.Machine
end

section
/-! PROOFS. Sectors of a core's own scratchpad (R154, R170, R177): where they lie, and what reading or writing a whole one does
while the scratchpad answers plainly. -/

namespace Sys2Proof.Machine

open Sys2Proof

/-! Bytes and sectors of a memory. -/

/-- Byte `i` of a write counts as enabled by bit `i` of its enables. -/
theorem memGet_memPutBe (d be a x : Nat) : ∀ (n : Nat) {m : Mem}, n ≤ 32 → Memory.wf m = true →
    memGet (memPutBe m a d be n) x = if a + (32 - n) ≤ x ∧ x < a + 32 ∧ be / 2 ^ (x - a) % 2 = 1
      then BitVec.ofNat 8 (d / 256 ^ (x - a)) else memGet m x
  | 0, m, _, _ => by rw [memPutBe, if_neg (by omega)]
  | n + 1, m, hn, hm => by
    have hfrom : x ≠ a + (31 - n) → (a + (32 - n) ≤ x ↔ a + (32 - (n + 1)) ≤ x) := fun hx => by omega
    by_cases hbit : be / 2 ^ (31 - n) % 2 = 1
    · rw [memPutBe, if_pos hbit, memGet_memPutBe d be a x n (by omega) (Memory.wf_memSet hm _ _), memGet_memSet hm]
      rcases eq_or_ne x (a + (31 - n)) with rfl | hx
      · rw [if_neg (by omega), if_pos rfl, Nat.add_sub_cancel_left, if_pos ⟨by omega, by omega, hbit⟩]
      · simp only [hx, hfrom hx, if_false]
    · rw [memPutBe, if_neg hbit, memGet_memPutBe d be a x n (by omega) hm]
      rcases eq_or_ne x (a + (31 - n)) with rfl | hx
      · rw [if_neg (by omega), Nat.add_sub_cancel_left, if_neg fun h => hbit h.2.2]
      · simp only [hfrom hx]

theorem wroteBytes_memPutBe {m : Mem} (h : Memory.wf m = true) (key : Nat) (d : Sector) (be : Word32) :
    wroteBytes m (memPutBe m key d.toNat be.toNat 32) key d be :=
  fun a => memGet_memPutBe d.toNat be.toNat key a 32 le_rfl h

theorem bit_beAll {i : Nat} (h : i < 32) : beAll.toNat / 2 ^ i % 2 = 1 := by
  have hbit : beAll.getLsbD i = true := by rw [beAll, BitVec.getLsbD_allOnes, decide_eq_true h]
  rwa [BitVec.getLsbD, Nat.testBit_eq_decide_div_mod_eq, decide_eq_true_iff] at hbit

theorem memNat_eq_of_bytes {m : Mem} {n a v : Nat} (h : ∀ i < n, memGet m (a + i) = BitVec.ofNat 8 (v / 256 ^ i)) :
    memNat m a n = v % 256 ^ n := by
  induction n generalizing a v with
  | zero => rw [memNat, Nat.pow_zero, Nat.mod_one]
  | succ n ih =>
    have hrest : memNat m (a + 1) n = v / 256 % 256 ^ n := ih fun i hi => by
      rw [Nat.add_assoc, Nat.add_comm 1, h (i + 1) (by omega), Nat.pow_succ', Nat.div_div_eq_div_mul]
    have hfirst : (memGet m a).toNat = v % 256 := by
      have := h 0 (by omega)
      rw [Nat.add_zero, Nat.pow_zero, Nat.div_one] at this
      rw [this, BitVec.toNat_ofNat]
    rw [memNat, hfirst, hrest, Nat.pow_succ', Nat.mod_mul]

theorem memNat_congr {m m' : Mem} {n a : Nat} (h : ∀ i < n, memGet m' (a + i) = memGet m (a + i)) :
    memNat m' a n = memNat m a n := by
  induction n generalizing a with
  | zero => rfl
  | succ n ih =>
    rw [memNat, memNat, ih fun i hi => by simpa only [Nat.add_assoc, Nat.add_comm 1] using h (i + 1) (by omega),
      show memGet m' a = memGet m a from h 0 (by omega)]

theorem memSector_congr {m m' : Mem} {a : Nat} (h : ∀ i < 32, memGet m' (a + i) = memGet m (a + i)) :
    memSector m' a = memSector m a := congrArg (BitVec.ofNat 256) (memNat_congr h)

theorem memSector_of_wroteBytes {m m' : Mem} {key : Nat} {d : Sector} (h : wroteBytes m m' key d beAll) :
    memSector m' key = d := by
  have hbytes : memNat m' key 32 = d.toNat % 256 ^ 32 := memNat_eq_of_bytes fun i hi => by
    rw [h, Nat.add_sub_cancel_left, if_pos ⟨by omega, by omega, bit_beAll hi⟩]
  rw [memSector, hbytes]
  exact BitVec.eq_of_toNat_eq (by rw [BitVec.toNat_ofNat, Nat.mod_mod_of_dvd _ (by norm_num), Nat.mod_eq_of_lt d.isLt])

theorem memGet_of_wroteBytes {m m' : Mem} {key a : Nat} {d : Sector} {be : Word32} (h : wroteBytes m m' key d be)
    (ha : a < key ∨ key + 32 ≤ a) : memGet m' a = memGet m a := by
  rw [h, if_neg (by omega)]

/-! Where a sector of the own scratchpad lies. -/

theorem ownSector_iff {c a : Nat} : ownSector c a = true ↔
    spadBase + c * 0x20_0000 ≤ a ∧ a + 32 ≤ spadBase + c * 0x20_0000 + 0x20_0000 ∧ a % 32 = 0 := by
  simp [ownSector, spadAddr, and_assoc]

theorem spadBase_le_of_ownSector {c a : Nat} (h : ownSector c a = true) : spadBase ≤ a :=
  (Nat.le_add_right _ _).trans (ownSector_iff.mp h).1

theorem ownSector_apart {c a b : Nat} (ha : ownSector c a = true) (hb : ownSector c b = true) (h : a ≠ b) :
    a + 32 ≤ b ∨ b + 32 ≤ a := by
  obtain ⟨-, -, ha32⟩ := ownSector_iff.mp ha
  obtain ⟨-, -, hb32⟩ := ownSector_iff.mp hb
  omega

/-- The place of a device address in the scratchpads. -/
def spadLoc (a : Nat) : Loc := ⟨.spad, a - spadBase, a⟩

theorem core_spadLoc {c a : Nat} (h : ownSector c a = true) : (spadLoc a).key / 0x20_0000 = c := by
  obtain ⟨hlo, hhi, -⟩ := ownSector_iff.mp h
  simp only [spadLoc]
  omega

theorem own_spadLoc {c a : Nat} (h : ownSector c a = true) : (spadLoc a).own c = true := by
  rw [Loc.own, core_spadLoc h, beq_self_eq_true, Bool.and_true]
  rfl

theorem spadOpen_parts {s : State} {c : Nat} (h : s.spadOpen c = true) :
    s.coreEnabled c = true ∧ (∃ x, s.coreCtx c = some x) ∧ s.islEnabled (coreIsland c) = true ∧ s.scrubs c = false
      ∧ s.spUe = [] ∧ s.spWeak = [] ∧ s.flag (Reg.RT_CFG c) Fld.RT_CFG_EN = false := by
  simpa only [State.spadOpen, Bool.and_eq_true, Bool.not_eq_true', List.isEmpty_iff, Option.isSome_iff_exists, and_assoc] using h

section
variable {s : State} {c a : Nat}

theorem locate_own (h : s.spadOpen c = true) (ha : ownSector c a = true) : s.locate (s.coreCtx c) a = some (spadLoc a) := by
  obtain ⟨henabled, ⟨x, hctx⟩, -⟩ := spadOpen_parts h
  have hkey : (a - spadBase) / 0x20_0000 = c := core_spadLoc ha
  have hc : c < nCores := by
    simp only [State.coreEnabled, Bool.and_eq_true, decide_eq_true_iff] at henabled
    exact henabled.1
  obtain ⟨hlo, hhi, -⟩ := ownSector_iff.mp ha
  have hplace : s.place a = some (spadLoc a, s.coreCtx c) := by
    simp only [spadBase, nCores] at hlo hhi hc
    rw [State.place, if_neg (by simp only [nearTop]; omega), if_neg (by simp only [reachBase, spadBase]; omega),
      if_pos (by simp only [spadBase, nCores]; omega)]
    simp only [hkey, henabled, if_true]
    rfl
  simp [State.locate, hplace, hctx]

theorem gated_own (h : s.spadOpen c = true) (ha : ownSector c a = true) : s.gated (spadLoc a) = false := by
  obtain ⟨-, -, hclocked, -⟩ := spadOpen_parts h
  have hgated : s.gated (spadLoc a) = !s.islEnabled (coreIsland ((spadLoc a).key / 0x20_0000)) := rfl
  rw [hgated, core_spadLoc ha, hclocked]
  rfl

theorem reachSec_own (h : s.spadOpen c = true) (ha : ownSector c a = true) (t : Strm) :
    s.reachSec c t a = .ok (spadLoc a) := by
  have hroute : s.routeOk c (spadLoc a) = true := by
    have hsec : s.secRoute c (spadLoc a) = s.route c ((spadLoc a).key / 0x20_0000) := rfl
    rw [State.routeOk, hsec, core_spadLoc ha, State.route, if_pos rfl]
    rfl
  simp [State.reachSec, locate_own h ha, hroute, gated_own h ha]

/-! Reading and writing it. -/

theorem takeLoc_own (h : s.spadOpen c = true) (ha : ownSector c a = true) :
    s.takeLoc (spadLoc a) = (s, some (s.spadAt a)) := by
  obtain ⟨-, -, -, hscrubs, hue, hweak, -⟩ := spadOpen_parts h
  have hgated := gated_own h ha
  have hkey := core_spadLoc ha
  have hnoUe : s.ueLoc (spadLoc a) = none := by
    rw [State.ueLoc, hgated]
    simp [spadLoc, hue]
  have hnoWeak : s.weakIn (spadLoc a) = 0 := by
    rw [State.weakIn, hgated]
    simp [spadLoc, hweak]
  have hread : s.rdLoc (spadLoc a) = s.spadAt a := by
    have hrd : s.rdLoc (spadLoc a) = if s.gated (spadLoc a) then 0 else
      if s.scrubs ((spadLoc a).key / 0x20_0000) then 0 else s.spadAt a := rfl
    simp [hrd, hgated, hkey, hscrubs]
  have hhides : s.scrubHides (spadLoc a) = false := rfl
  simp [State.takeLoc, hnoUe, hhides, hnoWeak, hread, State.corrects]

theorem fetchSec_own (h : s.spadOpen c = true) (ha : ownSector c a = true) (t : Strm) (src : Nat) :
    s.fetchSec c t src a = (s, .ok (s.spadAt a)) := by
  have hcut : s.cutOff (spadLoc a) = false := rfl
  simp [State.fetchSec, reachSec_own h ha, hcut, takeLoc_own h ha]

/-- A sector of the scratchpads holds `d`. -/
def State.putSector (s : State) (a : Nat) (d : Sector) : State :=
  { s with spad := memPutBe s.spad (a - spadBase) d.toNat beAll.toNat 32 }

theorem stLoc_own (h : s.spadOpen c = true) (ha : ownSector c a = true) (d : Sector) :
    s.stLoc (spadLoc a) d beAll = (s.putSector a d, none) := by
  obtain ⟨-, -, -, hscrubs, hue, hweak, hroute⟩ := spadOpen_parts h
  have hkey := core_spadLoc ha
  have hwindow : beAll &&& s.windowBe c ((spadLoc a).key % 0x20_0000) = 0 := by simp [State.windowBe, hroute]
  have hpush : ∀ off, s.pushWindow c off d 0 = s := fun off => if_pos rfl
  have hrest : beAll &&& ~~~(0 : Word32) = beAll := by decide
  have hcorrects : ∀ l, s.corrects l 0 = s := fun l => if_pos rfl
  have hfind : ∀ l : List Nat, (l.find? fun _ => false) = none := by simp
  have hfilter : ∀ l : List Nat, (l.filter fun _ => false) = [] := by simp
  have hspace : (spadLoc a).space = .spad := rfl
  rw [State.stLoc, gated_own h ha]
  simp only [Bool.false_eq_true, if_false, hspace, hkey, hscrubs, hwindow, hpush, hrest, hue, hweak, List.contains_nil,
    Bool.and_false, hfind, hfilter, List.length_nil, hcorrects, List.filter_nil, State.putSector]
  rfl

theorem writeSec_own (h : s.spadOpen c = true) (ha : ownSector c a = true) (t : Strm) (src : Nat) (d : Sector) :
    s.writeSec c t src a d beAll = .ok (s.putSector a d) := by
  simp [State.writeSec, reachSec_own h ha, own_spadLoc ha, stLoc_own h ha]

/-! What a sector written leaves. -/

theorem wroteBytes_putSector (h : Memory.wf s.spad = true) (a : Nat) (d : Sector) :
    wroteBytes s.spad (s.putSector a d).spad (a - spadBase) d beAll := wroteBytes_memPutBe h _ d beAll

theorem spadAt_putSector_self (h : Memory.wf s.spad = true) (a : Nat) (d : Sector) : (s.putSector a d).spadAt a = d :=
  memSector_of_wroteBytes (wroteBytes_putSector h a d)

theorem memGet_putSector_ne (h : Memory.wf s.spad = true) (ha : spadBase ≤ a) {b : Nat} (hb : spadBase ≤ b) (d : Sector)
    (hab : b < a ∨ a + 32 ≤ b) : memGet (s.putSector a d).spad (b - spadBase) = memGet s.spad (b - spadBase) :=
  memGet_of_wroteBytes (wroteBytes_putSector h a d) (by omega)

theorem spadAt_congr {t : State} {b : Nat} (hb : spadBase ≤ b)
    (h : ∀ i < 32, memGet t.spad (b + i - spadBase) = memGet s.spad (b + i - spadBase)) : t.spadAt b = s.spadAt b :=
  memSector_congr fun i hi => by simpa only [Nat.sub_add_comm hb] using h i hi

theorem spadAt_putSector_ne (h : Memory.wf s.spad = true) {b : Nat} (ha : ownSector c a = true) (hb : ownSector c b = true)
    (hab : a ≠ b) (d : Sector) : (s.putSector a d).spadAt b = s.spadAt b := by
  have hapart := ownSector_apart ha hb hab
  have hbase := spadBase_le_of_ownSector hb
  exact spadAt_congr hbase fun i hi =>
    memGet_putSector_ne h (spadBase_le_of_ownSector ha) (by omega) d (by omega)

end

end Sys2Proof.Machine
end

section
/-! PROOFS. FILL and COPY in the own scratchpad (R155, R175): the fill and copy engine takes them, and writes their sectors one by
one. -/

namespace Sys2Proof.Machine

open Sys2Proof

/-! The instruction is handed over. -/

theorem State.OnStream.calm {s u : State} {c : Nat} {t : Strm} {x : StreamState} {as : List Nat}
    (h : s.OnStream u c t x as) (has : sparesUnits c as) (hs : s.coreCalm c = true) (hhold : x.hold.settled = true)
    (hstep : x.stepping = (s.strm c t).stepping) : u.coreCalm c = true := by
  obtain ⟨n, hcore⟩ := h.core
  obtain ⟨-, -, haccess, hexecute, -⟩ := calm_parts hs
  have harray := h.frame.1 _ has.1
  have hcombine := h.frame.1 _ has.2
  cases t
  · exact calm_of hs (by rw [hcore]; rfl) (by rw [hcore]; rfl) (by rw [hcore]; exact hhold) (by rw [hcore]; exact hexecute)
      (by rw [hcore]; exact hstep) (by rw [hcore]; rfl) harray hcombine (by rw [hcore]; rfl)
  · exact calm_of hs (by rw [hcore]; rfl) (by rw [hcore]; rfl) (by rw [hcore]; exact haccess) (by rw [hcore]; exact hhold)
      (by rw [hcore]; rfl) (by rw [hcore]; exact hstep) harray hcombine (by rw [hcore]; rfl)

theorem wentTo_goTo_resume {s : State} {c : Nat} {t : Strm} (h : s.strmState c t = 1) (i : Nat) :
    ((s.goTo c t i).resume c t).wentTo c t i := by
  have hstrm : ((s.goTo c t i).resume c t).strm c t = { s.strm c t with pastEnd := decide (2048 ≤ i), hold := .free } :=
    ((((State.OnStream.refl s c t [Reg.STRM_STAT c (sidx t)]).goTo (by simp) i).modStrm _).setFld (by simp) _ _).strm
  refine ⟨?_, by rw [hstrm], by rw [hstrm], ?_, fld_setFld_self _ _ _ _ (by decide)⟩
  · exact (fld_setFld_apart _ _ _ _ _ _ (by decide) (by decide)).trans <| (fld_modStrm ..).trans (index_goTo _ _ _ _)
  · exact (fld_setWaitOn_kept _ _ _ _ _ keptFld_state).trans <| (fld_modStrm ..).trans <|
      (fld_goTo_kept _ _ _ _ _ keptFld_state).trans h

theorem wentTo_tidyFlights {s : State} {c : Nat} {t : Strm} {i : Nat} (h : s.wentTo c t i) : (s.tidyFlights c).wentTo c t i := by
  obtain ⟨hindex, hpast, hhold, hstate, hwait⟩ := h
  exact ⟨(fld_tidyFlights ..).trans hindex, by rw [strm_tidyFlights, hpast], by rw [strm_tidyFlights, hhold],
    (fld_tidyFlights ..).trans hstate, (fld_tidyFlights ..).trans hwait⟩

theorem spadAt_tidyFlights (s : State) (c a : Nat) : (s.tidyFlights c).spadAt a = s.spadAt a := by
  rcases tidyFlights_cases s c with h | ⟨fs, h⟩
  · rw [h]
  · rw [h]
    rfl

theorem framedFrom_tidyFlights {s t : State} {d : Desc} {m n : Nat} {as : List Nat} (h : framedFrom s t d m n as) (c : Nat) :
    framedFrom s (t.tidyFlights c) d m n as := by
  rcases tidyFlights_cases t c with e | ⟨fs, e⟩ <;> rw [e] <;> exact h

theorem engine_tidyFlights (s : State) (c k : Nat) : ((s.tidyFlights c).core k).engine = (s.core k).engine := by
  obtain ⟨fs, h⟩ := core_tidyFlights_eq s c k
  rw [h]

/-- What the engine is to run for the instruction that the access stream stands at. -/
def State.engineJob (s : State) (c : Nat) (src : Option Desc) (dst : Desc) (v : Sector) : EngineJob :=
  ⟨(s.core c).nextIid, s.strmIndex c .access, s.strmBank c .access, src, dst, v, 0⟩

/-- An instruction has begun, and the engine runs it. -/
def State.withEngine (s : State) (c : Nat) (e : EngineJob) : State :=
  (s.begin c (e.src.map Desc.span).toList [e.dst.span]).modCore c fun k => { k with engine := some e }

section
variable {s : State} {c : Nat}

theorem core_withEngine (s : State) (c : Nat) (e : EngineJob) : ∃ fs n,
    (s.withEngine c e).core c = { s.core c with flights := fs, nextIid := n, engine := some e } :=
  ⟨_, _, by rw [State.withEngine, State.begin, core_modCore_self, core_modCore_self]⟩

theorem startEngine_of_still (h : s.coreStill c = true) (hfree : (s.core c).engine = none) (op : Nat) (w : Body)
    (src : Option Desc) (dst : Desc) (v : Sector) :
    startEngine s c op w src dst v = (s.withEngine c (s.engineJob c src dst v)).handed c := by
  have hwaits : ∀ reads writes, s.accessWaits c reads writes = false := fun reads writes => by
    rw [State.accessWaits, (still_parts h).2.1, List.any_nil]
  simp only [startEngine, hwaits, hfree, Bool.false_eq_true, if_false, Option.isSome_none]
  cases src <;> rfl

theorem calm_withEngine (h : s.coreCalm c = true) (e : EngineJob) : (s.withEngine c e).coreCalm c = true := by
  obtain ⟨-, -, haccess, hexecute, -⟩ := calm_parts h
  obtain ⟨fs, n, hcore⟩ := core_withEngine s c e
  exact calm_of h (by rw [hcore]) (by rw [hcore]) (by rw [hcore]; exact haccess) (by rw [hcore]; exact hexecute)
    (by rw [hcore]) (by rw [hcore]) rfl rfl (by rw [hcore])

theorem onStream_handed (s : State) (c : Nat) : s.OnStream (s.handed c) c .access
    { s.strm c .access with pastEnd := decide (2048 ≤ s.strmIndex c .access + 1), hold := .free }
    [Reg.STRM_STAT c (sidx .access)] :=
  (((State.OnStream.refl s c .access _).goTo List.mem_cons_self _).modStrm _).setFld List.mem_cons_self _ _

/-- What the engine of a still core takes leaves the core with the engine at work, and its access stream gone on. -/
structure State.TakenBy (s t : State) (c : Nat) (e : EngineJob) : Prop where
  engine : (t.core c).engine = some e
  went : t.wentTo c .access (s.strmIndex c .access + 1)
  frame : framed s t [Reg.STRM_STAT c 0]
  others : sameCoresBut s t c

theorem takenBy_startEngine (h : s.coreStill c = true) (hstate : s.strmState c .access = 1)
    (hfree : (s.core c).engine = none) (op : Nat) (w : Body) (src : Option Desc) (dst : Desc) (v : Sector) :
    s.TakenBy ((startEngine s c op w src dst v).pump c) c (s.engineJob c src dst v) := by
  rw [startEngine_of_still h hfree]
  generalize s.engineJob c src dst v = e
  have hon := onStream_handed (s.withEngine c e) c
  rw [pump_of_calm (hon.calm (strmStat_spareUnits c .access) (calm_withEngine (still_parts h).1 e) rfl rfl)]
  have hframe : framed s (s.withEngine c e) [] := ⟨fun _ _ => rfl, sameMemory_refl s⟩
  have hindex : (s.withEngine c e).strmIndex c .access = s.strmIndex c .access := rfl
  refine ⟨?_, ?_, framed_tidyFlights (framed_trans hframe hon.frame) c, fun k hk => ?_⟩
  · obtain ⟨fs, n, hcore⟩ := core_withEngine s c e
    obtain ⟨m, hhanded⟩ := hon.core
    rw [engine_tidyFlights, hhanded, hcore]
    rfl
  · rw [← hindex]
    exact wentTo_tidyFlights (wentTo_goTo_resume (s := s.withEngine c e) hstate _)
  · calc ((((s.withEngine c e).handed c).tidyFlights c).core k)
      _ = (s.withEngine c e).core k := (core_tidyFlights_ne _ hk).trans (hon.others k hk)
      _ = s.core k := (core_modCore_ne _ _ hk).trans (core_modCore_ne _ _ hk)

/-! What FILL and COPY start. -/

theorem packBits_lt (w : Nat) (es : List Nat) : packBits w es < 2 ^ (w * es.length) := by
  induction es with
  | nil => simp [packBits]
  | cons e es ih =>
    have he : e % 2 ^ w < 2 ^ w := Nat.mod_lt _ (by positivity)
    calc packBits w (e :: es) < 2 ^ w * (packBits w es + 1) := by rw [packBits, Nat.mul_succ]; omega
      _ ≤ 2 ^ w * 2 ^ (w * es.length) := Nat.mul_le_mul_left _ ih
      _ = 2 ^ (w * (e :: es).length) := by rw [← Nat.pow_add, List.length_cons, Nat.mul_succ, Nat.add_comm]

theorem packBits_div_mod (w : Nat) (es : List Nat) (j : Nat) :
    packBits w es / 2 ^ (w * j) % 2 ^ w = es.getD j 0 % 2 ^ w := by
  induction es generalizing j with
  | nil => simp [packBits]
  | cons e es ih =>
    cases j with
    | zero => simp [packBits]
    | succ j =>
      rw [packBits, show w * (j + 1) = w + w * j by ring, Nat.pow_add, ← Nat.div_div_eq_div_mul,
        Nat.add_mul_div_left _ _ (by positivity), Nat.div_eq_of_lt (Nat.mod_lt _ (by positivity)), Nat.zero_add, ih,
        List.getD_cons_succ]

/-- FILL's sector: the same word eight times. -/
def fillSector (x : Nat) : Sector := BitVec.ofNat 256 (packBits 32 (List.replicate 8 x))

theorem word_fillSector {x j : Nat} (hx : x < 2 ^ 32) (hj : j < 8) : (fillSector x).toNat / 2 ^ (32 * j) % 2 ^ 32 = x := by
  have hsmall : packBits 32 (List.replicate 8 x) < 2 ^ 256 := by simpa using packBits_lt 32 (List.replicate 8 x)
  rw [fillSector, BitVec.toNat_ofNat, Nat.mod_eq_of_lt hsmall, packBits_div_mod, List.getD_replicate _ hj, Nat.mod_eq_of_lt hx]

theorem issueFill_own {w : Body}
    (hcheck : s.checkDesc c .access (s.desc c .access (bits w 121 117) (bits w 116 114)) = .ok ())
    (hown : ownDesc c (s.desc c .access (bits w 121 117) (bits w 116 114)) = true) :
    issueFill s c w = startEngine s c 0x13 w none (s.desc c .access (bits w 121 117) (bits w 116 114))
      (fillSector (bits w 31 0)) := by
  simp only [issueFill, hcheck, hown, if_true]
  rfl

theorem issueCopy_own {w : Body}
    (hsrc : s.checkDesc c .access (s.desc c .access (bits w 121 117) (bits w 116 114)) = .ok ())
    (hdst : s.checkDesc c .access (s.desc c .access (bits w 113 109) (bits w 108 106)) = .ok ())
    (htotal : (s.desc c .access (bits w 121 117) (bits w 116 114)).total
      = (s.desc c .access (bits w 113 109) (bits w 108 106)).total)
    (hsrcOwn : ownDesc c (s.desc c .access (bits w 121 117) (bits w 116 114)) = true)
    (hdstOwn : ownDesc c (s.desc c .access (bits w 113 109) (bits w 108 106)) = true) :
    issueCopy s c w = startEngine s c 0x14 w (some (s.desc c .access (bits w 121 117) (bits w 116 114)))
      (s.desc c .access (bits w 113 109) (bits w 108 106)) 0 := by
  simp only [issueCopy, hsrc, hdst, htotal, hsrcOwn, hdstOwn, ne_eq, not_true_eq_false, if_false, Bool.and_self, if_true]

/-! The engine writes. -/

/-- The sector that the engine writes as its `n`-th, as the scratchpads hold it. -/
def State.engineData (s : State) (e : EngineJob) (n : Nat) : Sector :=
  match e.src with
  | some x => s.spadAt (x.sector n)
  | none => e.value

/-- What the engine runs lies in the core's own scratchpad; the source of a COPY shares no sector with its destination, which
names none twice. -/
structure EngineJob.Within (e : EngineJob) (c : Nat) : Prop where
  dst : ownSeq c e.dst e.dst.total
  src : ∀ x, e.src = some x → ownSeq c x e.dst.total
  apart : ∀ x, e.src = some x → ∀ m < e.dst.total, ∀ n < e.dst.total,
    x.sector m ≠ e.dst.sector n ∧ (e.dst.sector m = e.dst.sector n → m = n)

/-- The engine has written its next sector. -/
def State.engineWrote (s : State) (c : Nat) (e : EngineJob) : State :=
  (s.putSector (e.dst.sector e.pos) (s.engineData e e.pos)).modCore c
    fun k => { k with engine := some { e with pos := e.pos + 1 } }

variable {e : EngineJob}

theorem engineGo_of_done (he : (s.core c).engine = some e) (hpos : e.dst.total ≤ e.pos) (n : Nat) :
    engineGo c (n + 1) s = s.modCore c fun k => { k with engine := none } := by
  simp only [engineGo, he, if_pos hpos]

theorem engineGo_of_more (he : (s.core c).engine = some e) (hopen : s.spadOpen c = true) (hin : e.Within c)
    (hpos : e.pos < e.dst.total) (n : Nat) : engineGo c (n + 1) s = engineGo c n (s.engineWrote c e) := by
  have hwrite : ∀ d, s.writeSec c .access 1 (e.dst.sector e.pos) d beAll = .ok (s.putSector (e.dst.sector e.pos) d) :=
    writeSec_own hopen (hin.dst _ hpos) .access 1
  simp only [engineGo, he, if_neg (Nat.not_le.mpr hpos)]
  cases hsrc : e.src with
  | none => simp only [hwrite, State.engineWrote, State.engineData, hsrc]
  | some x =>
    simp only [fetchSec_own hopen (hin.src x hsrc _ hpos), hwrite, State.engineWrote, State.engineData, hsrc]

theorem core_engineWrote (s : State) (c : Nat) (e : EngineJob) :
    (s.engineWrote c e).core c = { s.core c with engine := some { e with pos := e.pos + 1 } } := core_modCore_self ..

theorem spadOpen_engineWrote (h : s.spadOpen c = true) (e : EngineJob) : (s.engineWrote c e).spadOpen c = true := by
  have hscrubs : (s.engineWrote c e).scrubs c = s.scrubs c := by
    rw [State.scrubs, core_engineWrote]
    rfl
  rw [State.spadOpen, hscrubs]
  exact h

theorem spadAt_engineWrote_ne (hwf : Memory.wf s.spad = true) (hin : e.Within c) (hpos : e.pos < e.dst.total) {a : Nat}
    (ha : ownSector c a = true) (hne : e.dst.sector e.pos ≠ a) : (s.engineWrote c e).spadAt a = s.spadAt a :=
  spadAt_putSector_ne hwf (hin.dst _ hpos) ha hne _

theorem engineData_engineWrote (hwf : Memory.wf s.spad = true) (hin : e.Within c) (hpos : e.pos < e.dst.total) {n : Nat}
    (hn : n < e.dst.total) : (s.engineWrote c e).engineData { e with pos := e.pos + 1 } n = s.engineData e n := by
  cases hsrc : e.src with
  | none => simp only [State.engineData, hsrc]
  | some x =>
    simp only [State.engineData, hsrc]
    exact spadAt_engineWrote_ne hwf hin hpos (hin.src x hsrc n hn) (hin.apart x hsrc n hn _ hpos).1.symm

theorem EngineJob.Within.data_eq (hin : e.Within c) (s : State) {m n : Nat} (hm : m < e.dst.total) (hn : n < e.dst.total)
    (h : e.dst.sector m = e.dst.sector n) : s.engineData e m = s.engineData e n := by
  cases hsrc : e.src with
  | none => simp only [State.engineData, hsrc]
  | some x => rw [(hin.apart x hsrc m hm n hn).2 h]

/-- The engine has made what was left of its writes, and is free. -/
structure State.EngineEnds (s t : State) (c : Nat) (e : EngineJob) : Prop where
  core : t.core c = { s.core c with engine := none }
  others : sameCoresBut s t c
  written : ∀ n < e.dst.total, e.pos ≤ n → t.spadAt (e.dst.sector n) = s.engineData e n
  frame : framedFrom s t e.dst e.pos e.dst.total []

/-- What ends behind the writing of one more sector ends before it. -/
theorem engineEnds_of_engineWrote (hwf : Memory.wf s.spad = true) (hin : e.Within c) (hpos : e.pos < e.dst.total) {t : State}
    (h : (s.engineWrote c e).EngineEnds t c { e with pos := e.pos + 1 }) : s.EngineEnds t c e := by
  obtain ⟨hcore, hothers, hwritten, hregs, hfar, hbytes⟩ := h
  have hown := hin.dst _ hpos
  have hbase := spadBase_le_of_ownSector hown
  refine ⟨?_, fun k hk => ?_, fun n hn hle => ?_, hregs, hfar, fun a ha hspad => ?_⟩
  · rw [hcore, core_engineWrote]
  · rw [hothers k hk]
    exact core_modCore_ne _ _ hk
  · by_cases hlater : ∃ m < e.dst.total, e.pos + 1 ≤ m ∧ e.dst.sector m = e.dst.sector n
    · obtain ⟨m, hm, hle', heq⟩ := hlater
      rw [← heq, ← hin.data_eq s hm hn heq, ← engineData_engineWrote hwf hin hpos hm]
      exact hwritten m hm hle'
    · have hlast : n = e.pos := by
        by_contra hne
        exact hlater ⟨n, hn, by omega, rfl⟩
      subst hlast
      have hkept : t.spadAt (e.dst.sector e.pos) = (s.engineWrote c e).spadAt (e.dst.sector e.pos) :=
        spadAt_congr hbase fun i hi => hbytes _ (fun m hm hle' => by
          have hapart := ownSector_apart hown (hin.dst m hm) fun heq => hlater ⟨m, hm, hle', heq.symm⟩
          simp only
          omega) (by omega)
      rw [hkept]
      exact spadAt_putSector_self hwf _ _
  · rw [hbytes a (fun m hm hle' => ha m hm (by simp only at hle'; omega)) hspad]
    exact memGet_putSector_ne hwf hbase hspad _ (ha _ hpos le_rfl)

theorem engineEnds_engineGo (n : Nat) : ∀ {s : State} {e : EngineJob}, e.dst.total - e.pos = n → (s.core c).engine = some e →
    s.spadOpen c = true → Memory.wf s.spad = true → e.Within c → s.EngineEnds (engineGo c (n + 1) s) c e := by
  induction n with
  | zero =>
    intro s e hleft he hopen hwf hin
    rw [engineGo_of_done he (by omega)]
    exact ⟨core_modCore_self .., fun k hk => core_modCore_ne _ _ hk, fun m hm hle => by omega,
      fun _ _ => rfl, (sameMemory_refl s).1, fun _ _ _ => rfl⟩
  | succ n ih =>
    intro s e hleft he hopen hwf hin
    have hpos : e.pos < e.dst.total := by omega
    rw [engineGo_of_more he hopen hin hpos]
    have hin' : EngineJob.Within { e with pos := e.pos + 1 } c := ⟨hin.dst, hin.src, hin.apart⟩
    refine engineEnds_of_engineWrote hwf hin hpos
      (ih ?_ (by rw [core_engineWrote]) (spadOpen_engineWrote hopen e) (Memory.wf_memPutBe hwf ..) hin')
    simp only
    omega

theorem calm_of_engineEnds {t : State} (h : s.EngineEnds t c e) (hcalm : s.coreCalm c = true) : t.coreCalm c = true := by
  obtain ⟨-, -, haccess, hexecute, -⟩ := calm_parts hcalm
  have hregs : ∀ a, t.reg a = s.reg a := fun a => h.frame.1 a List.not_mem_nil
  exact calm_of hcalm (by rw [h.core]) (by rw [h.core]) (by rw [h.core]; exact haccess) (by rw [h.core]; exact hexecute)
    (by rw [h.core]) (by rw [h.core]) (hregs _) (hregs _) (by rw [h.core])

end

/-- FILL_COPY_ENGINE_DONE of a calm core: the engine makes what is left of its writes. -/
theorem exec_fillCopyEngineDone {c : CoreId} {s : State} {e : EngineJob} (he : (s.core c.val).engine = some e)
    (hcalm : s.coreCalm c.val = true) (hwf : Memory.wf s.spad = true) (hopen : s.spadOpen c.val = true)
    (hin : e.Within c.val) : ∃ t, exec (.fillCopyEngineDone c) s = .next t ∧ (t.core c.val).engine = none
      ∧ (∀ n < e.dst.total, e.pos ≤ n → t.spadAt (e.dst.sector n) = s.engineData e n)
      ∧ (t.core c.val).queues = (s.core c.val).queues ∧ framedFrom s t e.dst e.pos e.dst.total [] ∧ sameCoresBut s t c.val := by
  have hends := engineEnds_engineGo _ rfl he hopen hwf hin
  have hexec : exec (.fillCopyEngineDone c) s
      = .next ((engineGo c.val (e.dst.total - e.pos + 1) s).tidyFlights c.val) := by
    rw [← pump_of_calm (calm_of_engineEnds hends hcalm)]
    simp only [exec, execFillCopyEngineDone, he]
  generalize engineGo c.val (e.dst.total - e.pos + 1) s = t at *
  refine ⟨_, hexec, ?_, fun n hn hle => ?_, ?_, framedFrom_tidyFlights hends.frame _, fun k hk => ?_⟩
  · rw [engine_tidyFlights, hends.core]
  · rw [spadAt_tidyFlights, hends.written n hn hle]
  · rw [queues_tidyFlights, hends.core]
  · rw [core_tidyFlights_ne _ hk, hends.others k hk]

/-- Settles O11: the engine of a still core takes the instruction; its writes are made one after the other. -/
theorem fillAndCopyWriteTheirSectors : Obligations.FillAndCopyWriteTheirSectors := by
  refine ⟨⟨fun c w s hready hcheck hown hfree => ?_, fun c w s hready hsrc hdst htotal hsrcOwn hdstOwn hfree => ?_⟩,
    fun c s e he hcalm hwf hopen hown => ⟨fun hsrc => ?_, fun x hsrc hsrcOwn hapart => ?_⟩⟩
  · obtain ⟨hstate, -, -, hstill⟩ := ready_parts hready
    have hexec : exec (.fill c .access w) s = .next ((issueFill s c.val w).pump c.val) :=
      exec_of_ready (p := (0x13, .fill)) (by simp [streamInstrs]) hready
    obtain ⟨hengine, hwent, hframe, hothers⟩ := takenBy_startEngine hstill hstate hfree 0x13 w none
      (s.desc c.val .access (bits w 121 117) (bits w 116 114)) (fillSector (bits w 31 0))
    rw [issueFill_own hcheck hown] at hexec
    exact ⟨_, _, hexec, hengine, fun j hj => word_fillSector (bits_lt w 31 0) hj, hwent, hframe, hothers⟩
  · obtain ⟨hstate, -, -, hstill⟩ := ready_parts hready
    have hexec : exec (.copy c .access w) s = .next ((issueCopy s c.val w).pump c.val) :=
      exec_of_ready (p := (0x14, .copy)) (by simp [streamInstrs]) hready
    obtain ⟨hengine, hwent, hframe, hothers⟩ := takenBy_startEngine hstill hstate hfree 0x14 w
      (some (s.desc c.val .access (bits w 121 117) (bits w 116 114))) (s.desc c.val .access (bits w 113 109) (bits w 108 106)) 0
    rw [issueCopy_own hsrc hdst htotal hsrcOwn hdstOwn] at hexec
    exact ⟨_, hexec, hengine, hwent, hframe, hothers⟩
  · have hin : e.Within c.val := ⟨hown, fun x hx => by simp [hsrc] at hx, fun x hx => by simp [hsrc] at hx⟩
    simpa only [State.engineData, hsrc] using exec_fillCopyEngineDone he hcalm hwf hopen hin
  · have hin : e.Within c.val :=
      ⟨hown, fun y hy => by cases hsrc.symm.trans hy; exact hsrcOwn, fun y hy => by cases hsrc.symm.trans hy; exact hapart⟩
    simpa only [State.engineData, hsrc] using exec_fillCopyEngineDone he hcalm hwf hopen hin

end Sys2Proof.Machine
end

section
/-! PROOFS. Memories stay in their canonical form (R169, R217, R224): each function of the state that a step calls
leaves them canonical where they were, in the order of the model's files. -/

namespace Sys2Proof.Machine

open Sys2Proof

/-- Where the memories of the first state are in canonical form, those of the second are. -/
def State.canon (s₀ : State) : State → Prop
  | { near, reach, spad, hostMem, flash, bootBuf, .. } =>
    s₀.memoriesWf → Memory.wf near = true ∧ Memory.wf reach = true ∧ Memory.wf spad = true ∧ Memory.wf hostMem = true
      ∧ Memory.wf flash = true ∧ Memory.wf bootBuf = true

theorem canon_iff (s₀ s : State) : s₀.canon s ↔ (s₀.memoriesWf → s.memoriesWf) := Iff.rfl

/-- The memories of `t` are canonical where those of `s₀` are, if only because those of `s` are. That a function keeps memories
canonical is stated as an equivalence with this, of its argument and its value: `simp` then goes through a composition of
functions without conditions, back to `s₀`. Where the proof is no `simp`, it is `id` for a function that sets no memory, or it
follows the function's own text: `via` for a call, `canon_if` for a choice, `canon_mk` for a record. -/
def State.canonVia (s₀ : State) (p : Prop) (t : State) : Prop := p ∨ (s₀.memoriesWf → t.memoriesWf)

@[simp] theorem canonVia_true (s₀ t : State) : s₀.canonVia True t := .inl trivial

@[congr] theorem canonVia_congr (s₀ t : State) {p q : Prop} (h : p = q) : s₀.canonVia p t = s₀.canonVia q t := by rw [h]

theorem State.canon.trans {s₀ s t : State} (h : s₀.canon s) (ht : s.canon t) : s₀.canon t := fun hw => ht (h hw)

theorem canon_via {s₀ s t : State} (h : s.canon t) : s₀.canon t = s₀.canonVia (s₀.canon s) t :=
  propext ⟨Or.inr, fun hr => hr.elim (·.trans h) id⟩

theorem State.canon.via {s₀ s t : State} (h : s₀.canon s) (ht : s₀.canon t = s₀.canonVia (s₀.canon s) t) : s₀.canon t :=
  ht.mpr (.inl h)

@[simp] theorem canon_refl (s : State) : s.canon s := id

@[simp] theorem canon_mk : type_of% @State.canon.eq_1 := by
  intros
  exact State.canon.eq_1 ..

@[simp] theorem canon_eta (s₀ s : State) : (s₀.memoriesWf → Memory.wf s.near = true ∧ Memory.wf s.reach = true
    ∧ Memory.wf s.spad = true ∧ Memory.wf s.hostMem = true ∧ Memory.wf s.flash = true ∧ Memory.wf s.bootBuf = true)
    ↔ s₀.canon s := Iff.rfl

@[simp] theorem canon_ite (s₀ : State) (c : Prop) [Decidable c] (s t : State) :
    s₀.canon (if c then s else t) ↔ if c then s₀.canon s else s₀.canon t := by split <;> rfl

theorem canon_if {s₀ s t : State} {c : Prop} [Decidable c] (hs : s₀.canon s) (ht : s₀.canon t) :
    s₀.canon (if c then s else t) := by split <;> assumption

@[simp] theorem canon_foldl {α : Type} {f : State → α → State} (h : ∀ (s : State) x, s.canon (f s x)) (l : List α)
    (s₀ s : State) :
    s₀.canon (l.foldl f s) = s₀.canonVia (s₀.canon s) (l.foldl f s) := by
  refine canon_via ?_
  induction l generalizing s with
  | nil => exact canon_refl s
  | cons x l ih => exact (h s x).trans (ih (f s x))

/-- With `canon_mk`: a state that differs from a canonical one in other fields than the memories. -/
theorem State.canon.mems {s₀ t : State} (h : s₀.canon t) : s₀.memoriesWf → Memory.wf t.near = true ∧ Memory.wf t.reach = true
    ∧ Memory.wf t.spad = true ∧ Memory.wf t.hostMem = true ∧ Memory.wf t.flash = true ∧ Memory.wf t.bootBuf = true := h

theorem canon_fst {α : Type} {p : State × α} {s₀ t : State} {x : α} (h : p = (t, x)) : s₀.canon t ↔ s₀.canon p.1 := by rw [h]

theorem canon_snd {α : Type} {p : α × State} {s₀ t : State} {x : α} (h : p = (x, t)) : s₀.canon t ↔ s₀.canon p.2 := by rw [h]

/-- A command answers a next state, whose memories are canonical where those of `s₀` are. -/
def State.canonOut (s₀ : State) (o : Out) : Prop := ∃ t, o = .next t ∧ s₀.canon t

@[simp] theorem canonOut_next (s₀ t : State) : s₀.canonOut (.next t) ↔ s₀.canon t :=
  ⟨fun ⟨_, h, ht⟩ => by cases h; exact ht, fun h => ⟨t, rfl, h⟩⟩

theorem canonOut_of {s₀ t : State} (h : s₀.canon t) : s₀.canonOut (.next t) := ⟨t, rfl, h⟩

theorem canon_after {s : State} {o : Out} (h : s.canonOut o) : s.canon (after s o) := by
  obtain ⟨t, rfl, ht⟩ := h
  exact ht

variable {s₀ : State}

theorem canon_near {s : State} {m : Mem} (hs : s₀.canon s) (hm : Memory.wf s.near = true → Memory.wf m = true) :
    s₀.canon { s with near := m } :=
  fun h => (hs h).imp_left hm

theorem canon_reach {s : State} {m : Mem} (hs : s₀.canon s) (hm : Memory.wf s.reach = true → Memory.wf m = true) :
    s₀.canon { s with reach := m } :=
  fun h => (hs h).imp_right (·.imp_left hm)

theorem canon_spad {s : State} {m : Mem} (hs : s₀.canon s) (hm : Memory.wf s.spad = true → Memory.wf m = true) :
    s₀.canon { s with spad := m } :=
  fun h => (hs h).imp_right (·.imp_right (·.imp_left hm))

theorem canon_hostMem {s : State} {m : Mem} (hs : s₀.canon s) (hm : Memory.wf s.hostMem = true → Memory.wf m = true) :
    s₀.canon { s with hostMem := m } :=
  fun h => (hs h).imp_right (·.imp_right (·.imp_right (·.imp_left hm)))

theorem canon_flash {s : State} {m : Mem} (hs : s₀.canon s) (hm : Memory.wf s.flash = true → Memory.wf m = true) :
    s₀.canon { s with flash := m } :=
  fun h => (hs h).imp_right (·.imp_right (·.imp_right (·.imp_right (·.imp_left hm))))

theorem canon_bootBuf {s : State} {m : Mem} (hs : s₀.canon s) (hm : Memory.wf s.bootBuf = true → Memory.wf m = true) :
    s₀.canon { s with bootBuf := m } :=
  fun h => (hs h).imp_right (·.imp_right (·.imp_right (·.imp_right (·.imp_right hm))))

/-! The records of the state: units, queues, counters, holds. -/

@[simp] theorem canon_setReg (s : State) (a : Nat) (v : Word) :
    s₀.canon (s.setReg a v) = s₀.canonVia (s₀.canon s) (s.setReg a v) := canon_via id

@[simp] theorem canon_unsetRegs (s : State) (p : Nat → Bool) :
    s₀.canon (s.unsetRegs p) = s₀.canonVia (s₀.canon s) (s.unsetRegs p) := canon_via id

@[simp] theorem canon_setFld (s : State) (a : Nat) (f : FieldPos) (v : Nat) :
    s₀.canon (s.setFld a f v) = s₀.canonVia (s₀.canon s) (s.setFld a f v) := canon_via id

@[simp] theorem canon_bump (s : State) (a : Nat) (f : FieldPos) (n : Nat) :
    s₀.canon (s.bump a f n) = s₀.canonVia (s₀.canon s) (s.bump a f n) := canon_via id

@[simp] theorem canon_addMod (s : State) (a : Nat) (f : FieldPos) (n : Nat) :
    s₀.canon (s.addMod a f n) = s₀.canonVia (s₀.canon s) (s.addMod a f n) := canon_via id

@[simp] theorem canon_clearFlds (s : State) (xs : List (Nat × FieldPos)) :
    s₀.canon (s.clearFlds xs) = s₀.canonVia (s₀.canon s) (s.clearFlds xs) :=
  canon_via ((canon_refl _).via (canon_foldl (fun _ _ => (canon_refl _).via (canon_setFld ..)) ..))

@[simp] theorem canon_emit (s : State) (m : OutMsg) :
    s₀.canon (s.emit m) = s₀.canonVia (s₀.canon s) (s.emit m) := canon_via id

@[simp] theorem canon_setCore (s : State) (c : Nat) (k : Core) :
    s₀.canon (s.setCore c k) = s₀.canonVia (s₀.canon s) (s.setCore c k) := canon_via id

@[simp] theorem canon_modCore (s : State) (c : Nat) (f : Core → Core) :
    s₀.canon (s.modCore c f) = s₀.canonVia (s₀.canon s) (s.modCore c f) := canon_via id

@[simp] theorem canon_modStrm (s : State) (c : Nat) (t : Strm) (f : StreamState → StreamState) :
    s₀.canon (s.modStrm c t f) = s₀.canonVia (s₀.canon s) (s.modStrm c t f) := canon_via id

@[simp] theorem canon_setStrmState (s : State) (c : Nat) (t : Strm) (v : Nat) :
    s₀.canon (s.setStrmState c t v) = s₀.canonVia (s₀.canon s) (s.setStrmState c t v) := canon_via id

@[simp] theorem canon_setWaitOn (s : State) (c : Nat) (t : Strm) (v : Nat) :
    s₀.canon (s.setWaitOn c t v) = s₀.canonVia (s₀.canon s) (s.setWaitOn c t v) := canon_via id

@[simp] theorem canon_ringPut (s : State) (f r esz : Nat) (bs : List Byte) :
    s₀.canon (ringPut s f r esz bs) = s₀.canonVia (s₀.canon s) (ringPut s f r esz bs) := canon_via (by
  have h := canon_hostMem (canon_refl s) (Memory.wf_memPut ·
    ((s.reg (Reg.HF_RING_BASE f r)).toNat + s.fld (Reg.HF_RING_PROD f r) Fld.HF_RING_PROD_INDEX * esz) bs)
  simp [ringPut, h])

@[simp] theorem canon_errRingPut (s : State) (f : Nat) (bs : List Byte) :
    s₀.canon (errRingPut s f bs) = s₀.canonVia (s₀.canon s) (errRingPut s f bs) :=
  canon_via (canon_if (canon_refl _) (canon_if ((canon_refl _).via (canon_bump ..)) (canon_if ((canon_if (canon_refl _)
    ((((canon_refl _).via (canon_setFld ..)).via (canon_ringPut ..)).via (canon_emit ..))).via (canon_bump ..)) (((canon_if
    (canon_refl _) ((((canon_refl _).via (canon_setFld ..)).via (canon_ringPut ..)).via (canon_emit ..))).via (canon_ringPut
    ..)).via (canon_emit ..)))))

@[simp] theorem canon_report (s : State) (code : Nat) (ctx core : Option Nat) (detail : Nat) :
    s₀.canon (s.report code ctx core detail) = s₀.canonVia (s₀.canon s) (s.report code ctx core detail) :=
  canon_via (by unfold State.report; split <;> simp)

@[simp] theorem canon_stopStream (s : State) (c : Nat) (t : Strm) (st : Nat) :
    s₀.canon (s.stopStream c t st) = s₀.canonVia (s₀.canon s) (s.stopStream c t st) := canon_via (by
  unfold State.stopStream
  extract_lets who gone s₁ s₂ s₃ s₄
  have h₁ : s.canon s₁ := (canon_refl s).via (canon_modStrm ..)
  have h₂ : s.canon s₂ := canon_if (h₁.via (canon_modCore ..)) h₁
  have h₃ : s.canon s₃ := (canon_mk ..).mpr h₂.mems
  have h₄ : s.canon s₄ := canon_if (h₃.via (canon_modCore ..)) h₃
  exact (h₄.via (canon_setWaitOn ..)).via (canon_setStrmState ..))

@[simp] theorem canon_stopAtBoundary (s : State) (c : Nat) (t : Strm) (st : Nat) :
    s₀.canon (s.stopAtBoundary c t st) = s₀.canonVia (s₀.canon s) (s.stopAtBoundary c t st) :=
  canon_via (by unfold State.stopAtBoundary; split <;> simp)

@[simp] theorem canon_dropAfter (s : State) (c iid : Nat) :
    s₀.canon (s.dropAfter c iid) = s₀.canonVia (s₀.canon s) (s.dropAfter c iid) := canon_via id

@[simp] theorem canon_recordStrmErr (s : State) (c : Nat) (t : Strm) (code index bank detail : Nat) :
    s₀.canon (s.recordStrmErr c t code index bank detail) = s₀.canonVia (s₀.canon s) (s.recordStrmErr c t code index bank detail) :=
  canon_via (canon_if (canon_refl _) (((canon_refl _).via (canon_setReg ..)).via (canon_setReg ..)))

@[simp] theorem canon_stepCoreError (s : State) (c code : Nat) :
    s₀.canon (s.stepCoreError c code) = s₀.canonVia (s₀.canon s) (s.stepCoreError c code) :=
  canon_via (canon_if ((canon_refl _).via (canon_emit ..)) (canon_refl _))

@[simp] theorem canon_haltCore (s : State) (c : Nat) (t : Strm) (iid code index bank detail : Nat) :
    s₀.canon (s.haltCore c t iid code index bank detail) = s₀.canonVia (s₀.canon s) (s.haltCore c t iid code index bank detail) := by
  refine canon_via ?_
  simp only [State.haltCore]
  repeat' split
  all_goals simp

@[simp] theorem canon_irrepro (s : State) (x : Option Nat) :
    s₀.canon (s.irrepro x) = s₀.canonVia (s₀.canon s) (s.irrepro x) := canon_via (canon_if id (canon_refl _))

@[simp] theorem canon_wake (s : State) : s₀.canon s.wake = s₀.canonVia (s₀.canon s) s.wake :=
  canon_via (canon_if (canon_refl _) ((canon_mk ..).mpr ((canon_refl _).via (canon_setFld ..)).mems))

@[simp] theorem canon_awake (s : State) (i : Instr) {f : State → State} (h : ∀ t : State, t.canon (f t)) :
    s₀.canon (s.awake i f) = s₀.canonVia (s₀.canon s) (s.awake i f) := canon_via (by simp [State.awake, canon_via (h _)])

@[simp] theorem canon_asked (s : State) (who : Writer) (c : Nat) (i : Instr) {f : State → State}
    (h : ∀ t : State, t.canon (f t)) :
    s₀.canon (s.asked who c i f) = s₀.canonVia (s₀.canon s) (s.asked who c i f) :=
  canon_via (by unfold State.asked; split <;> simp [canon_via (h _)])

/-! Registers, errors and the debug records. -/

@[simp] theorem canon_cfgError (s : State) (who : Writer) (code addr : Nat) :
    s₀.canon (s.cfgError who code addr) = s₀.canonVia (s₀.canon s) (s.cfgError who code addr) :=
  canon_via (canon_if ((canon_if (canon_refl _) (((canon_refl _).via (canon_setReg ..)).via (canon_setReg ..))).via
    (canon_report ..)) ((canon_if (canon_refl _) (((canon_refl _).via (canon_setReg ..)).via (canon_setReg ..))).via
    (canon_report ..)))

@[simp] theorem canon_hold (s : State) (a : Nat) (mask v : Word) :
    s₀.canon (s.hold a mask v) = s₀.canonVia (s₀.canon s) (s.hold a mask v) :=
  canon_via (by unfold State.hold; split <;> exact id)

@[simp] theorem canon_applyHeld (s : State) (p : RegSpec → List Nat → Bool) :
    s₀.canon (s.applyHeld p) = s₀.canonVia (s₀.canon s) (s.applyHeld p) :=
  canon_via ((canon_mk ..).mpr ((canon_refl _).via (canon_foldl (fun _ _ => (canon_refl _).via (canon_setReg ..)) ..)).mems)

@[simp] theorem canon_unhold (s : State) (a : Nat) (mask : Word) :
    s₀.canon (s.unhold a mask) = s₀.canonVia (s₀.canon s) (s.unhold a mask) := canon_via (canon_if (canon_refl _) id)

@[simp] theorem canon_putReg (s : State) (who : Writer) (a : Nat) (r : RegSpec) (is : List Nat) (old v : Word) (keep : Nat) :
    s₀.canon (s.putReg who a r is old v keep) = s₀.canonVia (s₀.canon s) (s.putReg who a r is old v keep) :=
  canon_via (canon_if ((canon_if (((canon_refl _).via (canon_setReg ..)).via (canon_hold ..)) (((canon_refl _).via
    (canon_setReg ..)).via (canon_unhold ..))).via (canon_cfgError ..)) (canon_if (((canon_refl _).via (canon_setReg ..)).via
    (canon_hold ..)) (((canon_refl _).via (canon_setReg ..)).via (canon_unhold ..))))

@[simp] theorem canon_imgPut (s : State) (a : Nat) (v : Word) :
    s₀.canon (s.imgPut a v) = s₀.canonVia (s₀.canon s) (s.imgPut a v) := canon_via (by unfold State.imgPut; split <;> exact id)

@[simp] theorem canon_imgPuts (s : State) (l : List (Nat × Word)) :
    s₀.canon (s.imgPuts l) = s₀.canonVia (s₀.canon s) (s.imgPuts l) :=
  canon_via ((canon_refl _).via (canon_foldl (fun _ _ => (canon_refl _).via (canon_imgPut ..)) ..))

/-! Memories, sectors and their wrong bits. -/

@[simp] theorem canon_corrects (s : State) (l : Loc) (n : Nat) :
    s₀.canon (s.corrects l n) = s₀.canonVia (s₀.canon s) (s.corrects l n) := by
  refine canon_via ?_
  simp only [State.corrects]
  repeat' split
  all_goals exact id

@[simp] theorem canon_takeLoc (s : State) (l : Loc) : s₀.canon (s.takeLoc l).1 = s₀.canonVia (s₀.canon s) (s.takeLoc l).1 := by
  refine canon_via ?_
  simp only [State.takeLoc]
  repeat' split
  all_goals simp

@[simp] theorem canon_pushWindow (s : State) (c off : Nat) (d : Sector) (be : Word32) :
    s₀.canon (s.pushWindow c off d be) = s₀.canonVia (s₀.canon s) (s.pushWindow c off d be) :=
  canon_via (canon_if (canon_refl _) ((canon_refl _).via (canon_modCore ..)))

@[simp] theorem canon_stLoc (s : State) (l : Loc) (d : Sector) (be : Word32) :
    s₀.canon (s.stLoc l d be).1 = s₀.canonVia (s₀.canon s) (s.stLoc l d be).1 := by
  refine canon_via ?_
  unfold State.stLoc
  split
  · exact canon_refl s
  · split
    · exact canon_reach (canon_refl s) (Memory.wf_memPutBe · _ _ _ _)
    · extract_lets k s₁
      have h₁ : s.canon s₁ := by
        simp only [s₁]
        split <;> simp
      split
      · exact canon_refl s
      · exact canon_near h₁ (Memory.wf_memPutBe · _ _ _ _)
    · extract_lets c win s₁ be' merges s₂
      have h₁ : s.canon s₁ := by simp [s₁]
      split
      · exact canon_refl s
      · split
        · exact h₁
        · have h₂ : s.canon s₂ := by simp [s₂, h₁]
          exact canon_spad h₂ (Memory.wf_memPutBe · _ _ _ _)

@[simp] theorem canon_noteSpUe (s : State) (c src off : Nat) :
    s₀.canon (s.noteSpUe c src off) = s₀.canonVia (s₀.canon s) (s.noteSpUe c src off) :=
  canon_via (canon_if (canon_refl _) ((((canon_refl _).via (canon_setFld ..)).via (canon_setFld ..)).via (canon_setReg ..)))

@[simp] theorem canon_noteNearUe (s : State) (pc src addr : Nat) :
    s₀.canon (s.noteNearUe pc src addr) = s₀.canonVia (s₀.canon s) (s.noteNearUe pc src addr) :=
  canon_via (canon_if (canon_refl _) (((((canon_refl _).via (canon_setFld ..)).via (canon_setFld ..)).via (canon_setFld
    ..)).via (canon_setReg ..)))

@[simp] theorem canon_noteReachUe (s : State) (n kind addr : Nat) :
    s₀.canon (s.noteReachUe n kind addr) = s₀.canonVia (s₀.canon s) (s.noteReachUe n kind addr) :=
  canon_via (canon_if (canon_refl _) ((((canon_refl _).via (canon_setFld ..)).via (canon_setFld ..)).via (canon_setReg ..)))

@[simp] theorem canon_noteUe (s : State) (l : Loc) (src addr : Nat) :
    s₀.canon (s.noteUe l src addr) = s₀.canonVia (s₀.canon s) (s.noteUe l src addr) :=
  canon_via (by unfold State.noteUe; split <;> simp)

@[simp] theorem canon_meshTry (s : State) (l : Loc) (d : Sector) (be : Word32) :
    s₀.canon (s.meshTry l d be).1 = s₀.canonVia (s₀.canon s) (s.meshTry l d be).1 := by
  refine canon_via ?_
  simp only [State.meshTry]
  repeat' split
  all_goals simp

@[simp] theorem canon_notice (s : State) (dev core : Nat) :
    s₀.canon (s.notice dev core) = s₀.canonVia (s₀.canon s) (s.notice dev core) := canon_via id

@[simp] theorem canon_meshSt (s : State) (l : Loc) (d : Sector) (be : Word32) (srcs : List (Nat × Nat)) (fn : Option Nat) :
    s₀.canon (s.meshSt l d be srcs fn) = s₀.canonVia (s₀.canon s) (s.meshSt l d be srcs fn) := by
  refine canon_via ?_
  unfold State.meshSt
  split
  · simp
  · split
    · simp
    · split <;> next h => simp [canon_fst h]

@[simp] theorem canon_meshRead (s : State) (l : Loc) : s₀.canon (s.meshRead l).1 = s₀.canonVia (s₀.canon s) (s.meshRead l).1 := by
  refine canon_via ?_
  unfold State.meshRead
  split
  · simp
  · split
    · next h => simp [canon_fst h]
    · simp

@[simp] theorem canon_meshReads (s : State) (x : List Loc) :
    s₀.canon (s.meshReads x).1 = s₀.canonVia (s₀.canon s) (s.meshReads x).1 := by
  refine canon_via ?_
  induction x generalizing s with
  | nil => exact canon_refl _
  | cons l ls ih =>
    unfold State.meshReads
    split <;> next h => simp [canon_via (ih _), canon_fst h]

@[simp] theorem canon_holdFor (s : State) (i : Instr) (ls : List Loc) {t : State} (h : s.canon t) :
    s₀.canon (s.holdFor i ls t) = s₀.canonVia (s₀.canon s) (s.holdFor i ls t) := canon_via (by simp [State.holdFor, h])

@[simp] theorem canon_request (s : State) (c iid : Nat) (l : Loc) (lcr sent : Bool) (k : ReqKind) :
    s₀.canon (s.request c iid l lcr sent k) = s₀.canonVia (s₀.canon s) (s.request c iid l lcr sent k) :=
  canon_via id

@[simp] theorem canon_accessing (s : State) (c : Nat) (key : FeedKey) :
    s₀.canon (s.accessing c key) = s₀.canonVia (s₀.canon s) (s.accessing c key) := canon_via id

@[simp] theorem canon_addFeed (s : State) (c a : Nat) (d : FeedData) :
    s₀.canon (s.addFeed c a d) = s₀.canonVia (s₀.canon s) (s.addFeed c a d) := canon_via id

@[simp] theorem canon_fillFeed (s : State) (c : Nat) (key : FeedKey) (a : Nat) (d : FeedData) :
    s₀.canon (s.fillFeed c key a d) = s₀.canonVia (s₀.canon s) (s.fillFeed c key a d) := canon_via id

@[simp] theorem canon_dropFeeds (s : State) (c : Nat) (key : FeedKey) :
    s₀.canon (s.dropFeeds c key) = s₀.canonVia (s₀.canon s) (s.dropFeeds c key) :=
  canon_via (canon_if ((canon_refl _).via (canon_modCore ..)) (canon_refl _))

theorem canon_of_writeSec {s t : State} {c : Nat} {st : Strm} {src a : Nat} {d : Sector} {be : Word32}
    (h : s.writeSec c st src a d be = .ok t) : s.canon t := by
  unfold State.writeSec at h
  repeat' split at h
  all_goals cases h
  · next h => simp [canon_fst h]
  · simp

@[simp] theorem canon_askFor (s : State) (c : Nat) (e : AccErr) :
    s₀.canon (s.askFor c e) = s₀.canonVia (s₀.canon s) (s.askFor c e) := by
  refine canon_via ?_
  simp only [State.askFor]
  repeat' split
  all_goals simp

@[simp] theorem canon_fetchSec (s : State) (c : Nat) (t : Strm) (src a : Nat) :
    s₀.canon (s.fetchSec c t src a).1 = s₀.canonVia (s₀.canon s) (s.fetchSec c t src a).1 := by
  refine canon_via ?_
  unfold State.fetchSec
  split
  · exact canon_refl _
  · split
    · exact canon_refl _
    · split <;> next h => simp [canon_fst h]

@[simp] theorem canon_noteErr (s : State) (e : AccErr) :
    s₀.canon (s.noteErr e) = s₀.canonVia (s₀.canon s) (s.noteErr e) := canon_via (by unfold State.noteErr; split <;> simp)

/-! Operands and descriptors. -/

@[simp] theorem canon_writeAll (s : State) (c : Nat) (t : Strm) (src : Nat) (x : List (Nat × Sector × Word32)) :
    s₀.canon (s.writeAll c t src x).1 = s₀.canonVia (s₀.canon s) (s.writeAll c t src x).1 := by
  refine canon_via ?_
  induction x generalizing s with
  | nil => exact canon_refl _
  | cons w ws ih =>
    obtain ⟨a, d, be⟩ := w
    unfold State.writeAll
    split
    · exact canon_refl _
    · next h => simp [canon_via (ih _), canon_via (canon_of_writeSec h)]

/-! Pennants and hoists. -/

@[simp] theorem canon_resume (s : State) (c : Nat) (t : Strm) :
    s₀.canon (s.resume c t) = s₀.canonVia (s₀.canon s) (s.resume c t) := canon_via id

@[simp] theorem canon_setPenVal (s : State) (k v : Nat) :
    s₀.canon (s.setPenVal k v) = s₀.canonVia (s₀.canon s) (s.setPenVal k v) := canon_via id

@[simp] theorem canon_penStamp (s : State) (k : Nat) (src : Signaller) :
    s₀.canon (s.penStamp k src) = s₀.canonVia (s₀.canon s) (s.penStamp k src) :=
  canon_via (canon_if ((((canon_refl _).via (canon_setFld ..)).via (canon_setFld ..)).via (canon_setReg ..)) (((canon_refl
    _).via (canon_setReg ..)).via (canon_setReg ..)))

@[simp] theorem canon_penWake (s : State) (k : Nat) (who : StreamId) :
    s₀.canon (s.penWake k who) = s₀.canonVia (s₀.canon s) (s.penWake k who) :=
  canon_via (canon_if ((canon_refl _).via (canon_resume ..)) id)

@[simp] theorem canon_penServe (s : State) (k : Nat) :
    s₀.canon (s.penServe k) = s₀.canonVia (s₀.canon s) (s.penServe k) :=
  canon_via (((canon_mk ..).mpr (canon_if (canon_refl _) ((canon_refl _).via (canon_setPenVal ..))).mems).via (canon_foldl
    (fun _ _ => (canon_refl _).via (canon_penWake ..)) ..))

@[simp] theorem canon_penChanged (s : State) (ch : Nat) :
    s₀.canon (s.penChanged ch) = s₀.canonVia (s₀.canon s) (s.penChanged ch) :=
  canon_via ((((canon_mk ..).mpr (canon_refl _).mems).via (canon_penServe ..)).via (canon_foldl (fun _ _ => (canon_refl
    _).via (canon_penServe ..)) ..))

theorem canon_of_penSignal {s t : State} {k : Nat} {src : Signaller} {op amount : Nat}
    (h : s.penSignal k src op amount = .ok t) : s.canon t := by
  unfold State.penSignal at h
  split at h <;> cases h
  simp

@[simp] theorem canon_penErr (s : State) (code : Nat) (src : Signaller) (vid : Nat) (ctx : Option Nat) :
    s₀.canon (s.penErr code src vid ctx) = s₀.canonVia (s₀.canon s) (s.penErr code src vid ctx) :=
  canon_via ((canon_if (canon_refl _) ((canon_refl _).via (canon_setReg ..))).via (canon_report ..))

@[simp] theorem canon_penQuiet (s : State) (k : Nat) (src : Signaller) (op amount vid : Nat) (ctx : Option Nat) :
    s₀.canon (s.penQuiet k src op amount vid ctx) = s₀.canonVia (s₀.canon s) (s.penQuiet k src op amount vid ctx) := by
  refine canon_via ?_
  unfold State.penQuiet
  split
  · next h => exact canon_of_penSignal h
  · simp

@[simp] theorem canon_pendApply (s : State) (die : Nat) (p : PendSig) :
    s₀.canon (s.pendApply die p) = s₀.canonVia (s₀.canon s) (s.pendApply die p) :=
  canon_via (by unfold State.pendApply; split <;> simp)

@[simp] theorem canon_pendDrain (die e n : Nat) (s : State) :
    s₀.canon (s.pendDrain die e n) = s₀.canonVia (s₀.canon s) (s.pendDrain die e n) := by
  refine canon_via ?_
  induction n generalizing s with
  | zero => exact canon_refl _
  | succ n ih =>
    simp only [State.pendDrain]
    split <;> simp [canon_via (ih _)]

theorem canon_of_pendEnter {s t : State} {p : PendSig} (h : s.pendEnter p = some t) : s.canon t := by
  unfold State.pendEnter at h
  split at h
  · cases h
    simp
  · split at h
    · cases h
      simp
    · simp only at h
      split at h <;> cases h
      simp

@[simp] theorem canon_landed (s : State) (dev core : Nat) :
    s₀.canon (s.landed dev core) = s₀.canonVia (s₀.canon s) (s.landed dev core) := by
  refine canon_via ?_
  unfold State.landed
  extract_lets k n s₁
  have h₁ : s.canon s₁ := (canon_mk ..).mpr (canon_refl s).mems
  refine canon_if (canon_refl s) ?_
  split
  · exact canon_if h₁ (h₁.via (canon_penErr ..))
  · exact (h₁.via (canon_addMod ..)).via (canon_pendDrain ..)

@[simp] theorem canon_penArrive (s : State) (id : Nat) :
    s₀.canon (s.penArrive id) = s₀.canonVia (s₀.canon s) (s.penArrive id) := by
  refine canon_via ?_
  simp only [State.penArrive]
  split
  · exact canon_refl _
  · split
    · split
      · next h => simp [canon_via (canon_of_penSignal h)]
      · simp
    · simp
    · simp
    · split
      · next h => simp [canon_via (canon_of_pendEnter h)]
      · exact canon_refl _

@[simp] theorem canon_penWoken (s : State) (c : Nat) (t : Strm) :
    s₀.canon (s.penWoken c t) = s₀.canonVia (s₀.canon s) (s.penWoken c t) :=
  canon_via (canon_if (((canon_mk ..).mpr (canon_refl _).mems).via (canon_resume ..)) (canon_refl _))

@[simp] theorem canon_penForwarded (s : State) (id : Nat) :
    s₀.canon (s.penForwarded id) = s₀.canonVia (s₀.canon s) (s.penForwarded id) :=
  canon_via (by unfold State.penForwarded; split <;> simp)

@[simp] theorem canon_penHost (s : State) (ctx : Option Nat) (v : Word32) :
    s₀.canon (s.penHost ctx v) = s₀.canonVia (s₀.canon s) (s.penHost ctx v) := by
  refine canon_via ?_
  simp only [State.penHost]
  repeat' split
  all_goals simp

@[simp] theorem canon_hoistFree (s : State) (k round : Nat) :
    s₀.canon (s.hoistFree k round) = s₀.canonVia (s₀.canon s) (s.hoistFree k round) :=
  canon_via (canon_if (canon_if ((canon_mk ..).mpr ((canon_refl _).via (canon_setFld ..)).mems) (((canon_mk ..).mpr
    ((canon_refl _).via (canon_setFld ..)).mems).via (canon_emit ..))) (canon_refl _))

@[simp] theorem canon_hoistRelease (s : State) (k round : Nat) :
    s₀.canon (s.hoistRelease k round) = s₀.canonVia (s₀.canon s) (s.hoistRelease k round) :=
  canon_via (((canon_mk ..).mpr (((canon_refl _).via (canon_setFld ..)).via (canon_setReg ..)).mems).via (canon_hoistFree
    ..))

@[simp] theorem canon_hoistArrive (s : State) (k round : Nat) :
    s₀.canon (s.hoistArrive k round) = s₀.canonVia (s₀.canon s) (s.hoistArrive k round) :=
  canon_via (canon_if (canon_if (((canon_if (canon_refl _) ((canon_refl _).via (canon_setReg ..))).via (canon_addMod ..)).via
    (canon_hoistRelease ..)) (((canon_if (canon_refl _) ((canon_refl _).via (canon_setReg ..))).via (canon_addMod ..)).via
    (canon_emit ..))) ((canon_if (canon_refl _) ((canon_refl _).via (canon_setReg ..))).via (canon_addMod ..)))

@[simp] theorem canon_hoistMsg (s : State) (id : Nat) (arrive : Bool) :
    s₀.canon (s.hoistMsg id arrive) = s₀.canonVia (s₀.canon s) (s.hoistMsg id arrive) :=
  canon_via (by unfold State.hoistMsg; split <;> simp)

@[simp] theorem canon_hoistReleased (s : State) (c : Nat) (t : Strm) :
    s₀.canon (s.hoistReleased c t) = s₀.canonVia (s₀.canon s) (s.hoistReleased c t) :=
  canon_via (by unfold State.hoistReleased; split <;> exact id)

@[simp] theorem canon_crossRelease (s : State) (h round : Nat) :
    s₀.canon (s.crossRelease h round) = s₀.canonVia (s₀.canon s) (s.crossRelease h round) :=
  canon_via (canon_if (((canon_refl _).via (canon_emit ..)).via (canon_hoistRelease ..)) ((canon_refl _).via (canon_emit
    ..)))

@[simp] theorem canon_rootRelease (s : State) (h round : Nat) :
    s₀.canon (s.rootRelease h round) = s₀.canonVia (s₀.canon s) (s.rootRelease h round) :=
  canon_via (((canon_refl _).via (canon_setFld ..)).via (canon_crossRelease ..))

@[simp] theorem canon_deviceArrive (s : State) (h round : Nat) :
    s₀.canon (s.deviceArrive h round) = s₀.canonVia (s₀.canon s) (s.deviceArrive h round) := canon_via (by
  unfold State.deviceArrive
  extract_lets a n s₁ s₂ g
  have h₁ : s.canon s₁ := canon_if (canon_refl s) ((canon_refl s).via (canon_setReg ..))
  have h₂ : s.canon s₂ := h₁.via (canon_addMod ..)
  exact canon_if ((canon_refl s).via (canon_emit ..)) (canon_if ((canon_mk ..).mpr (canon_refl s).mems)
    (canon_if (canon_if ((canon_mk ..).mpr h₂.mems) (h₂.via (canon_rootRelease ..))) h₂)))

@[simp] theorem canon_deviceFinish (s : State) (h round : Nat) :
    s₀.canon (s.deviceFinish h round) = s₀.canonVia (s₀.canon s) (s.deviceFinish h round) :=
  canon_via (canon_if ((canon_refl _).via (canon_emit ..)) (canon_if ((canon_mk ..).mpr (((canon_refl _).via (canon_setFld
    ..)).via (canon_setFld ..)).mems) ((canon_refl _).via (canon_setFld ..))))

@[simp] theorem canon_hoistsKilled (s : State) (x : Nat) :
    s₀.canon (s.hoistsKilled x) = s₀.canonVia (s₀.canon s) (s.hoistsKilled x) := canon_via (by
  unfold State.hoistsKilled
  extract_lets keys t
  have ht : s.canon t := (canon_refl s).via (canon_foldl (fun u k => by split <;> simp) ..)
  exact (canon_mk ..).mpr ht.mems)

@[simp] theorem canon_penKilled (s : State) (x : Nat) (cores : List Nat) :
    s₀.canon (s.penKilled x cores) = s₀.canonVia (s₀.canon s) (s.penKilled x cores) := canon_via (by
  unfold State.penKilled
  extract_lets mine clear s₁ ownLand s₂ s₃
  have h₂ : s.canon s₂ := (canon_mk ..).mpr (canon_refl s).mems
  have h₃ : s.canon s₃ := h₂.via (canon_hoistsKilled ..)
  exact (canon_mk ..).mpr h₃.mems)

/-! The combine buffer and the arrivals of results. -/

@[simp] theorem canon_combErr (s : State) (c code lane epoch : Nat) :
    s₀.canon (s.combErr c code lane epoch) = s₀.canonVia (s₀.canon s) (s.combErr c code lane epoch) :=
  canon_via ((canon_if (canon_refl _) ((canon_refl _).via (canon_setReg ..))).via (canon_report ..))

@[simp] theorem canon_raiseLocal (s : State) (c n lane epoch : Nat) :
    s₀.canon (s.raiseLocal c n lane epoch) = s₀.canonVia (s₀.canon s) (s.raiseLocal c n lane epoch) := by
  refine canon_via ?_
  unfold State.raiseLocal
  split
  · next h => exact canon_of_penSignal h
  · simp

@[simp] theorem canon_setLaneState (s : State) (c lane v : Nat) :
    s₀.canon (s.setLaneState c lane v) = s₀.canonVia (s₀.canon s) (s.setLaneState c lane v) := canon_via id

@[simp] theorem canon_setLane (s : State) (c lane : Nat) (x : Option (Nat × Nat)) :
    s₀.canon (s.setLane c lane x) = s₀.canonVia (s₀.canon s) (s.setLane c lane x) := canon_via id

@[simp] theorem canon_arrival (s : State) (c lane epoch : Nat) :
    s₀.canon (s.arrival c lane epoch) = s₀.canonVia (s₀.canon s) (s.arrival c lane epoch) :=
  canon_via ((canon_refl _).via (canon_raiseLocal ..))

@[simp] theorem canon_credit (s : State) (c lane epoch : Nat) :
    s₀.canon (s.credit c lane epoch) = s₀.canonVia (s₀.canon s) (s.credit c lane epoch) := by
  refine canon_via ?_
  simp only [State.credit]
  split
  · simp
  · split
    · next h => simp [canon_via (canon_of_penSignal h)]
    · simp

@[simp] theorem canon_laneCheck (s : State) (c lane : Nat) :
    s₀.canon (s.laneCheck c lane) = s₀.canonVia (s₀.canon s) (s.laneCheck c lane) :=
  canon_via (by unfold State.laneCheck; split <;> simp)

@[simp] theorem canon_epochs (s : State) (c : Nat) :
    s₀.canon (s.epochs c) = s₀.canonVia (s₀.canon s) (s.epochs c) :=
  canon_via (canon_if (canon_refl _) ((canon_if (canon_if ((canon_refl _).via (canon_combErr ..)) (canon_refl _)) ((canon_if
    ((canon_refl _).via (canon_combErr ..)) (canon_refl _)).via (canon_modCore ..))).via (canon_foldl (fun _ _ => (canon_refl
    _).via (canon_laneCheck ..)) ..)))

@[simp] theorem canon_combineCheck (s : State) (c : Nat) :
    s₀.canon (s.combineCheck c) = s₀.canonVia (s₀.canon s) (s.combineCheck c) :=
  canon_via (canon_if (canon_refl _) (canon_if (canon_refl _) (((canon_refl _).via (canon_setFld ..)).via (canon_combErr
    ..))))

/-! The links between ranks. -/

@[simp] theorem canon_setPort (s : State) (p : Nat) (x : PortState) :
    s₀.canon (s.setPort p x) = s₀.canonVia (s₀.canon s) (s.setPort p x) := canon_via id

@[simp] theorem canon_setPortState (s : State) (p v : Nat) :
    s₀.canon (s.setPortState p v) = s₀.canonVia (s₀.canon s) (s.setPortState p v) := canon_via id

@[simp] theorem canon_portErr (s : State) (p code tag : Nat) :
    s₀.canon (s.portErr p code tag) = s₀.canonVia (s₀.canon s) (s.portErr p code tag) :=
  canon_via ((canon_if (canon_refl _) ((canon_refl _).via (canon_setReg ..))).via (canon_report ..))

@[simp] theorem canon_deviceReport (s : State) (k : ReportKind) :
    s₀.canon (s.deviceReport k) = s₀.canonVia (s₀.canon s) (s.deviceReport k) :=
  canon_via (canon_if ((canon_refl _).via (canon_emit ..)) (canon_refl _))

@[simp] theorem canon_portLose (s : State) (p : Nat) (m : Msg) :
    s₀.canon (s.portLose p m) = s₀.canonVia (s₀.canon s) (s.portLose p m) :=
  canon_via (canon_if (((canon_refl _).via (canon_bump ..)).via (canon_deviceReport ..)) ((canon_refl _).via (canon_bump
    ..)))

@[simp] theorem canon_portTell (s : State) (p : Nat) :
    s₀.canon (s.portTell p) = s₀.canonVia (s₀.canon s) (s.portTell p) := canon_via id

@[simp] theorem canon_portSend (s : State) (p : Nat) (vc : Option Nat) :
    s₀.canon (s.portSend p vc) = s₀.canonVia (s₀.canon s) (s.portSend p vc) :=
  canon_via (by unfold State.portSend; split <;> exact id)

@[simp] theorem canon_portDrain (p n : Nat) (s : State) :
    s₀.canon (s.portDrain p n) = s₀.canonVia (s₀.canon s) (s.portDrain p n) := by
  refine canon_via ?_
  induction n generalizing s with
  | zero => exact canon_refl _
  | succ n ih =>
    simp only [State.portDrain]
    split
    · exact canon_refl _
    · split <;> simp [canon_via (ih _)]

@[simp] theorem canon_portGive (s : State) (p : Nat) (m : Msg) :
    s₀.canon (s.portGive p m) = s₀.canonVia (s₀.canon s) (s.portGive p m) :=
  canon_via (canon_if ((canon_refl _).via (canon_portLose ..)) (((canon_refl _).via (canon_setPort ..)).via (canon_portDrain
    ..)))

@[simp] theorem canon_nirloSend (s : State) (x : Option Nat) (m : Msg) :
    s₀.canon (s.nirloSend x m) = s₀.canonVia (s₀.canon s) (s.nirloSend x m) := by
  refine canon_via ?_
  unfold State.nirloSend
  split
  · exact canon_refl s
  · simp
  · extract_lets s₁ k s₂
    have h₁ : s.canon s₁ := by
      unfold s₁
      split
      · simp
      · split <;> simp
    have h₂ : s.canon s₂ := h₁
    split
    · exact h₁
    · split <;> simp [h₂]

@[simp] theorem canon_creditBack (s : State) (p vc n : Nat) :
    s₀.canon (s.creditBack p vc n) = s₀.canonVia (s₀.canon s) (s.creditBack p vc n) :=
  canon_via (canon_if (canon_refl _) (((canon_refl _).via (canon_setPort ..)).via (canon_portDrain ..)))

@[simp] theorem canon_rxTake (s : State) (p : Nat) (m : Msg) :
    s₀.canon (s.rxTake p m) = s₀.canonVia (s₀.canon s) (s.rxTake p m) :=
  canon_via (((canon_refl _).via (canon_setPort ..)).via (canon_creditBack ..))

@[simp] theorem canon_rxKeep (s : State) (p : Nat) (m rest : Msg) :
    s₀.canon (s.rxKeep p m rest) = s₀.canonVia (s₀.canon s) (s.rxKeep p m rest) :=
  canon_via (((canon_refl _).via (canon_setPort ..)).via (canon_creditBack ..))

/-! Writes and reads through the mesh. -/

@[simp] theorem canon_meshErr (s : State) (router tag code : Nat) :
    s₀.canon (s.meshErr router tag code) = s₀.canonVia (s₀.canon s) (s.meshErr router tag code) :=
  canon_via (by simp [State.meshErr])

@[simp] theorem canon_redDeliver (s : State) (addr : Nat) (data : Sector) (srcs : List RedSrc) :
    s₀.canon (s.redDeliver addr data srcs) = s₀.canonVia (s₀.canon s) (s.redDeliver addr data srcs) :=
  canon_via (by unfold State.redDeliver; split <;> simp)

@[simp] theorem canon_redEnd (s : State) (f : RedFlit) :
    s₀.canon (s.redEnd f) = s₀.canonVia (s₀.canon s) (s.redEnd f) := canon_via (by unfold State.redEnd; split <;> simp)

@[simp] theorem canon_redForward (s : State) (f : RedFlit) :
    s₀.canon (s.redForward f) = s₀.canonVia (s₀.canon s) (s.redForward f) := by
  refine canon_via ?_
  simp only [State.redForward]
  repeat' split
  all_goals simp

@[simp] theorem canon_redFire (s : State) (router tag : Nat) (e : RedEntry) :
    s₀.canon (s.redFire router tag e) = s₀.canonVia (s₀.canon s) (s.redFire router tag e) :=
  canon_via (canon_if (canon_refl _) (((canon_if ((canon_if (((canon_mk ..).mpr (canon_refl _).mems).via (canon_meshErr ..))
    ((canon_mk ..).mpr (canon_refl _).mems)).via (canon_meshErr ..)) (canon_if (((canon_mk ..).mpr (canon_refl _).mems).via
    (canon_meshErr ..)) ((canon_mk ..).mpr (canon_refl _).mems))).via (canon_addMod ..)).via (canon_redForward ..)))

@[simp] theorem canon_redArrive (s : State) (f : RedFlit) :
    s₀.canon (s.redArrive f) = s₀.canonVia (s₀.canon s) (s.redArrive f) := by
  refine canon_via ?_
  simp only [State.redArrive]
  repeat' split
  all_goals simp

@[simp] theorem canon_redSector (s : State) (router port tag addr : Nat) (data : Sector) :
    s₀.canon (s.redSector router port tag addr data) = s₀.canonVia (s₀.canon s) (s.redSector router port tag addr data) :=
  canon_via (by unfold State.redSector; split <;> simp)

@[simp] theorem canon_flitLate (s : State) (router : Nat) (bulk : Bool) (waited : Nat) :
    s₀.canon (s.flitLate router bulk waited) = s₀.canonVia (s₀.canon s) (s.flitLate router bulk waited) :=
  canon_via (canon_if ((canon_refl _).via (canon_bump ..)) (canon_refl _))

end Sys2Proof.Machine
end

section
/-! PROOFS. Memories stay in their canonical form (R169, R217, R224): the tensor array, the masks, the vector and store
units. -/

namespace Sys2Proof.Machine

open Sys2Proof

variable {s₀ : State}

/-! Flags of the registers. -/

@[simp] theorem canon_examine (s : State) (c : Nat) (w : NfFrom) (xs : List Num) :
    s₀.canon (s.examine c w xs) = s₀.canonVia (s₀.canon s) (s.examine c w xs) :=
  canon_via (by unfold State.examine; split <;> simp)

@[simp] theorem canon_addGnorm (s : State) (c : Nat) (xs : List Nat) :
    s₀.canon (s.addGnorm c xs) = s₀.canonVia (s₀.canon s) (s.addGnorm c xs) :=
  canon_via (canon_if ((canon_refl _).via (canon_setFld ..)) (canon_refl _))

/-! The tensor array. -/

@[simp] theorem canon_noteAccUe (s : State) (c file row col : Nat) :
    s₀.canon (s.noteAccUe c file row col) = s₀.canonVia (s₀.canon s) (s.noteAccUe c file row col) :=
  canon_via (canon_if (canon_refl _) (((canon_refl _).via (canon_setFld ..)).via (canon_setReg ..)))

@[simp] theorem canon_noteAny (s : State) (c : Nat) (e : AccErr) :
    s₀.canon (s.noteAny c e) = s₀.canonVia (s₀.canon s) (s.noteAny c e) := canon_via (by unfold State.noteAny; split <;> simp)

@[simp] theorem canon_putAcc (s : State) (c : Nat) (xs : List (Nat × Nat × Nat)) :
    s₀.canon (s.putAcc c xs) = s₀.canonVia (s₀.canon s) (s.putAcc c xs) := canon_via id

@[simp] theorem canon_accCorrects (s : State) (c n : Nat) :
    s₀.canon (s.accCorrects c n) = s₀.canonVia (s₀.canon s) (s.accCorrects c n) :=
  canon_via (canon_if (canon_refl _) ((canon_refl _).via (canon_bump ..)))

theorem canon_of_accRead {s t : State} {c block : Nat} {xs : List (Nat × Nat)} (h : s.accRead c block xs = .ok t) : s.canon t := by
  unfold State.accRead at h
  split at h <;> cases h
  simp

@[simp] theorem canon_arrayWork (s : State) (c act useful : Nat) :
    s₀.canon (s.arrayWork c act useful) = s₀.canonVia (s₀.canon s) (s.arrayWork c act useful) := canon_via id

@[simp] theorem canon_setDone (s : State) (c : Nat) :
    s₀.canon (s.setDone c) = s₀.canonVia (s₀.canon s) (s.setDone c) := canon_via id

@[simp] theorem canon_partEnd (s : State) (j : Job) :
    s₀.canon (partEnd s j).s = s₀.canonVia (s₀.canon s) (partEnd s j).s := canon_via id

@[simp] theorem canon_partErr (s : State) (j : Job) (e : AccErr) :
    s₀.canon (partErr s j e).s = s₀.canonVia (s₀.canon s) (partErr s j e).s := canon_via id

@[simp] theorem canon_Done_part (r : Done) (j : Job) : s₀.canon (r.part j).s = s₀.canonVia (s₀.canon r.1) (r.part j).s := by
  refine canon_via ?_
  unfold Done.part
  split <;> simp

theorem canon_of_mmfSetCol {s t : State} {c : Nat} {p : Path} {h : Hdr} {ofmt col0 : Nat} {ws : List (Nat × Window)}
    {d : Desc} {j : Nat} (ht : mmfSetCol s c p h ofmt col0 ws d j = .ok t) : s.canon t := by
  unfold mmfSetCol at ht
  split at ht
  · cases ht
  · obtain ⟨u, hu, rfl⟩ := exists_of_map_ok ht
    simp [canon_via (canon_of_accRead hu)]

theorem canon_columnsGo {f : State → Nat → Except AccErr State} (h : ∀ (s : State) j t, f s j = .ok t → s.canon t)
    (js : List Nat) (s : State) (n : Nat) : s.canon (columnsGo f js s n).1 := by
  induction js generalizing s n with
  | nil => exact canon_refl _
  | cons j js ih =>
    unfold columnsGo
    split
    · exact canon_refl _
    · next ht => exact (h _ _ _ ht).trans (ih _ _)

@[simp] theorem canon_showPred (s : State) (c : Nat) :
    s₀.canon (s.showPred c) = s₀.canonVia (s₀.canon s) (s.showPred c) := canon_via (by unfold State.showPred; split <;> exact id)

@[simp] theorem canon_disarmStrip (s : State) (c strip : Nat) :
    s₀.canon (s.disarmStrip c strip) = s₀.canonVia (s₀.canon s) (s.disarmStrip c strip) :=
  canon_via (((canon_refl _).via (canon_modCore ..)).via (canon_showPred ..))

@[simp] theorem canon_disarmPred (s : State) (c : Nat) :
    s₀.canon (s.disarmPred c) = s₀.canonVia (s₀.canon s) (s.disarmPred c) :=
  canon_via (((canon_refl _).via (canon_modCore ..)).via (canon_showPred ..))

@[simp] theorem canon_predFinish (s : State) (c col0 rows actThr : Nat) (cols : List PredCol) :
    s₀.canon (predFinish s c col0 rows actThr cols) = s₀.canonVia (s₀.canon s) (predFinish s c col0 rows actThr cols) :=
  canon_via id

@[simp] theorem canon_streamSet (s : State) (c : Nat) (ws : List Window) :
    s₀.canon (s.streamSet c ws) = s₀.canonVia (s₀.canon s) (s.streamSet c ws) := canon_via id

@[simp] theorem canon_mmfBegin (s : State) (c : Nat) (j : Job) :
    s₀.canon (mmfBegin s c j).1 = s₀.canonVia (s₀.canon s) (mmfBegin s c j).1 := by
  refine canon_via ?_
  simp only [mmfBegin]
  repeat' split
  all_goals simp

@[simp] theorem canon_mmfExamine (s : State) (c : Nat) (j : Job) :
    s₀.canon (mmfExamine s c j) = s₀.canonVia (s₀.canon s) (mmfExamine s c j) := canon_via ((canon_refl _).via (canon_examine ..))

@[simp] theorem canon_mmfPart (s : State) (c : Nat) (j : Job) :
    s₀.canon (mmfPart s c j).s = s₀.canonVia (s₀.canon s) (mmfPart s c j).s := by
  refine canon_via ?_
  unfold mmfPart
  extract_lets w h ofmt p t col0 ws s₁ skip r en cyc s₂ s₃ j' s₄
  have hs : s.canon s₂ := by
    have hr : s₁.canon r.1 := canon_columnsGo (fun _ _ _ h => canon_of_mmfSetCol h) _ _ _
    simp [s₂, canon_via hr, s₁]
  split
  · split <;> simp [hs]
  · have h₃ : s.canon s₃ := by simp [s₃, hs]
    split
    · exact h₃
    · have h₄ : s.canon s₄ := by
        simp only [s₄]
        split <;> simp [h₃]
      simp [h₄]

theorem canon_of_mmtSetCol {s u : State} {c : Nat} {p : Path} {n vfmt ofmt w col0 t : Nat} {d : Desc}
    {set : List (Nat × Hdr × Window)} {j : Nat} (hu : mmtSetCol s c p n vfmt ofmt w col0 t d set j = .ok u) : s.canon u := by
  unfold mmtSetCol at hu
  split at hu
  · cases hu
  · obtain ⟨v, hv, rfl⟩ := exists_of_map_ok hu
    simp [canon_via (canon_of_accRead hv)]

@[simp] theorem canon_mmtBegin (s : State) (c : Nat) (j : Job) :
    s₀.canon (mmtBegin s c j).1 = s₀.canonVia (s₀.canon s) (mmtBegin s c j).1 := canon_via id

@[simp] theorem canon_mmtExamine (s : State) (c : Nat) (j : Job) :
    s₀.canon (mmtExamine s c j) = s₀.canonVia (s₀.canon s) (mmtExamine s c j) := canon_via ((canon_refl _).via (canon_examine ..))

@[simp] theorem canon_mmtSet (s : State) (c : Nat) (j : Job) (upTo : Nat) :
    s₀.canon (mmtSet s c j upTo).1 = s₀.canonVia (s₀.canon s) (mmtSet s c j upTo).1 := by
  refine canon_via ?_
  unfold mmtSet
  extract_lets w h ofmt p t win hs k0 idx set s₁ r en subs actSub cyc s₂
  have h₂ : s.canon s₂ := by
    have hr : s₁.canon r.1 := canon_columnsGo (fun _ _ _ h => canon_of_mmtSetCol h) _ _ _
    simp [s₂, canon_via hr, s₁]
  split <;> simp [h₂]

@[simp] theorem canon_mmtPart (s : State) (c : Nat) (j : Job) :
    s₀.canon (mmtPart s c j).s = s₀.canonVia (s₀.canon s) (mmtPart s c j).s := by
  refine canon_via ?_
  unfold mmtPart
  extract_lets n sz stop k next
  have hstop : ∀ (t : State) e, t.canon (stop t e).s := fun t e => by simp [stop]
  have hnext : ∀ (t : State) j', t.canon (next t j').s := fun t j' => by
    simp only [next]
    split <;> simp
  split
  · split <;> next h => exact State.canon.trans (by simp [canon_fst h]) (hstop _ _)
  · split
    · split
      · simp
      · split
        · exact hstop _ _
        · simp
    · split
      · split
        · next h => exact State.canon.trans (by simp [canon_fst h]) (hstop _ _)
        · next h => exact State.canon.trans (by simp [canon_fst h]) (hnext _ _)
      · exact hnext _ _

@[simp] theorem canon_mmoWindowBegin (s : State) (c : Nat) (j : Job) :
    s₀.canon (mmoWindowBegin s c j).1 = s₀.canonVia (s₀.canon s) (mmoWindowBegin s c j).1 :=
  canon_via (by unfold mmoWindowBegin; split <;> simp)

@[simp] theorem canon_mmoAccumulate (s : State) (c : Nat) (j : Job) (h : Hdr) (w : Nat) :
    s₀.canon (mmoAccumulate s c j h w).s = s₀.canonVia (s₀.canon s) (mmoAccumulate s c j h w).s := by
  refine canon_via ?_
  unfold mmoAccumulate
  extract_lets b xf wd k init present s₁ s₂ r s₃ en cyc s₄ s₅ n src s₆
  have hs : s.canon s₄ := by simp [s₁, s₂, s₃, s₄]
  split
  · simp [s₁]
  · split
    · simp [hs]
    · split
      · simp [s₅, n, hs]
      · simp [s₅, s₆, hs]

@[simp] theorem canon_mmoDrain (s : State) (c : Nat) (j : Job) (h : Hdr) (w : Nat) :
    s₀.canon (mmoDrain s c j h w).s = s₀.canonVia (s₀.canon s) (mmoDrain s c j h w).s := by
  refine canon_via ?_
  unfold mmoDrain
  extract_lets b dfmt wb k s₁ src es s₂ s₃
  have hs : s.canon s₃ := by simp [s₁, s₂, s₃]
  split
  · simp
  · split <;> next h => simp [canon_fst h, hs]

@[simp] theorem canon_mmoPart (s : State) (c : Nat) (j : Job) :
    s₀.canon (mmoPart s c j).s = s₀.canonVia (s₀.canon s) (mmoPart s c j).s := by
  refine canon_via ?_
  simp only [mmoPart]
  repeat' split
  all_goals simp

@[simp] theorem canon_aclrCompute (s : State) (c : Nat) (j : Job) :
    s₀.canon (aclrCompute s c j).1 = s₀.canonVia (s₀.canon s) (aclrCompute s c j).1 := by
  refine canon_via ?_
  simp only [aclrCompute]
  repeat' split
  all_goals exact id

/-! The masked and sampled array work. -/

@[simp] theorem canon_scanEnd (s : State) (c : Nat) (j : Job) :
    s₀.canon (scanEnd s c j).s = s₀.canonVia (s₀.canon s) (scanEnd s c j).s := by
  refine canon_via ?_
  simp only [scanEnd]
  split <;> simp

@[simp] theorem canon_scanPart (s : State) (c : Nat) (j : Job) :
    s₀.canon (scanPart s c j).s = s₀.canonVia (s₀.canon s) (scanPart s c j).s := by
  refine canon_via ?_
  simp only [scanPart]
  split
  · simp
  · split
    · simp
    · split <;> next h => simp [canon_fst h]

@[simp] theorem canon_prrStrip (s : State) (c : Nat) (j : Job) (d : SetDesc) (p : PrrParam) (st : Nat) :
    s₀.canon (prrStrip s c j d p st).s = s₀.canonVia (s₀.canon s) (prrStrip s c j d p st).s := by
  refine canon_via ?_
  unfold prrStrip
  split
  · simp
  · extract_lets h ws
    split
    · simp
    · split
      · simp
      · split
        · simp
        · extract_lets new sels swaps s₁ s₂
          have h₂ : s.canon s₂ := ((canon_refl s).via (canon_bump ..)).via (canon_bump ..)
          split
          · exact h₂
          · split <;> next h => simp [canon_fst h, h₂]

@[simp] theorem canon_prrFlip (s : State) (c : Nat) (j : Job) (d : SetDesc) (st : Nat) :
    s₀.canon (prrFlip s c j d st).s = s₀.canonVia (s₀.canon s) (prrFlip s c j d st).s := by
  refine canon_via ?_
  unfold prrFlip
  split <;> next h => simp [canon_fst h]

@[simp] theorem canon_prrPart (s : State) (c : Nat) (j : Job) :
    s₀.canon (prrPart s c j).s = s₀.canonVia (s₀.canon s) (prrPart s c j).s := by
  refine canon_via ?_
  simp only [prrPart]
  repeat' split
  all_goals simp

@[simp] theorem canon_cmprRun (s : State) (c : Nat) (p : CmprParam) (nf : NfFrom) (sf : Nat) (rows : List (List Nat)) :
    s₀.canon (cmprRun s c p nf sf rows).1 = s₀.canonVia (s₀.canon s) (cmprRun s c p nf sf rows).1 := by
  refine canon_via ?_
  unfold cmprRun
  extract_lets raw wide group gs most need cls n capped drops s₁ s₂ ng w0 nw wins s₃ writes
  have hs : s.canon s₃ := by simp [s₁, s₂, s₃]
  split <;> next h => simp [canon_fst h, hs]

theorem canon_of_accRows {s t : State} {c block col0 n : Nat} {rows : List (List Nat)}
    (h : accRows s c block col0 n = .ok (t, rows)) : s.canon t := by
  obtain ⟨u, hu, e⟩ := exists_of_map_ok h
  cases e
  exact canon_of_accRead hu

@[simp] theorem canon_cmprCompute (s : State) (c : Nat) (j : Job) :
    s₀.canon (cmprCompute s c j).1 = s₀.canonVia (s₀.canon s) (cmprCompute s c j).1 := by
  refine canon_via ?_
  simp only [cmprCompute]
  split
  · split <;> simp
  · split
    · exact canon_refl _
    · next h => simp [canon_via (canon_of_accRows h)]

@[simp] theorem canon_predStrips (c : Nat) (p : PredParam) (ufmt t col0 : Nat) (u : Desc) (l : List (Nat × Nat))
    (s : State) (ms : List StripMap) :
    s₀.canon (predStrips c p ufmt t col0 u l s ms).1.1 = s₀.canonVia (s₀.canon s) (predStrips c p ufmt t col0 u l s ms).1.1 := by
  refine canon_via ?_
  induction l generalizing s ms with
  | nil => exact canon_refl _
  | cons x l ih =>
    obtain ⟨k, strip⟩ := x
    simp only [predStrips]
    split
    · exact canon_refl _
    · split
      · exact canon_refl _
      · split
        · next h => simp [canon_fst h]
        · next h => simp [canon_via (ih _ _), canon_fst h]

@[simp] theorem canon_predCompute (s : State) (c : Nat) (j : Job) :
    s₀.canon (predCompute s c j).1 = s₀.canonVia (s₀.canon s) (predCompute s c j).1 := by
  refine canon_via ?_
  simp only [predCompute]
  split <;> next h => simp [canon_fst (congrArg Prod.fst h)]

/-! The vector unit, the top-k unit and conversions. -/

theorem canon_unlessAsked {s : State} (hs : s₀.canon s) (e : Option AccErr) {f : DoneQ} (h : s₀.canon f.1) :
    s₀.canon (unlessAsked s e f).1 := by
  unfold unlessAsked
  split
  · split
    · exact hs
    · exact h
  · exact h

@[simp] theorem canon_putResults (s : State) (c dst : Nat) (d : Desc) (nbits v : Nat) (cut : Bool) :
    s₀.canon (putResults s c dst d nbits v cut).1 = s₀.canonVia (s₀.canon s) (putResults s c dst d nbits v cut).1 := by
  refine canon_via ?_
  simp only [putResults]
  repeat' split
  all_goals simp

@[simp] theorem canon_vopCompute (s : State) (c : Nat) (j : Job) :
    s₀.canon (vopCompute s c j).1 = s₀.canonVia (s₀.canon s) (vopCompute s c j).1 := by
  refine canon_via ?_
  unfold vopCompute
  extract_lets w fn us imm vs s₁ r v df out s₂
  have h₁ : s.canon s₁ := by simp [s₁]
  refine canon_unlessAsked h₁ _ ?_
  split <;> next h => simp [canon_fst h, s₂, h₁]

@[simp] theorem canon_redCompute (s : State) (c : Nat) (j : Job) :
    s₀.canon (redCompute s c j).1 = s₀.canonVia (s₀.canon s) (redCompute s c j).1 := by
  refine canon_via ?_
  unfold redCompute
  extract_lets w us n vs s₁ r v xs g full df out s₂
  have h₁ : s.canon s₁ := by simp [s₁]
  refine canon_unlessAsked h₁ _ ?_
  split <;> next h => simp [canon_fst h, s₂, h₁]

@[simp] theorem canon_topkCompute (s : State) (c : Nat) (j : Job) :
    s₀.canon (topkCompute s c j).1 = s₀.canonVia (s₀.canon s) (topkCompute s c j).1 := by
  refine canon_via ?_
  unfold topkCompute
  extract_lets w us n f k vs s₁ r v g full sel
  have h₁ : s.canon s₁ := by simp [s₁]
  refine canon_unlessAsked h₁ _ ?_
  split
  · next h => simp [canon_fst h, h₁]
  · next h => split <;> next h' => simp [canon_fst h', canon_fst h, h₁]

@[simp] theorem canon_cvtCompute (s : State) (c : Nat) (j : Job) :
    s₀.canon (cvtCompute s c j).1 = s₀.canonVia (s₀.canon s) (cvtCompute s c j).1 := by
  refine canon_via ?_
  unfold cvtCompute
  extract_lets w a d us vs s₁ v0 v1 r n blocks s₂ out
  have h₁ : s.canon s₁ := by simp [s₁]
  refine canon_unlessAsked h₁ _ ?_
  split
  · next h => simp [canon_fst h, s₂, h₁]
  · next h =>
    have h₂ := (canon_fst (s₀ := s) h).2 (by simp [s₂, h₁])
    split
    · split <;> next h' => simp [canon_fst h', h₂]
    · simp [h₂]

/-! The store engine. -/

@[simp] theorem canon_staStore (s : State) (c : Nat) (j : Job) :
    s₀.canon (staStore s c j).1 = s₀.canonVia (s₀.canon s) (staStore s c j).1 := by
  refine canon_via ?_
  unfold staStore
  extract_lets w t col0 dfmt ls block bad stop per n ls' s₁ src cv s₂ nb v err rest d be ws
  have h₂ : s.canon s₂ := by simp [s₁, s₂]
  have hrest : ∀ (t : State) q, t.canon (rest t q).1 := fun t q => by
    simp only [rest]
    split
    · split <;> next h => simp [canon_fst h]
    · exact canon_refl _
  split
  · exact h₂.trans (hrest _ _)
  · split
    · next h => simp [canon_fst h, h₂]
    · next h => simp [canon_via (hrest _ _), canon_fst h, h₂]

@[simp] theorem canon_staCmpr (s : State) (c : Nat) (j : Job) :
    s₀.canon (staCmpr s c j).1 = s₀.canonVia (s₀.canon s) (staCmpr s c j).1 := by
  refine canon_via ?_
  simp only [staCmpr]
  split
  · exact canon_refl _
  · next h => simp [canon_via (canon_of_accRows h)]

@[simp] theorem canon_staCompute (s : State) (c : Nat) (j : Job) :
    s₀.canon (staCompute s c j).1 = s₀.canonVia (s₀.canon s) (staCompute s c j).1 :=
  canon_via (by unfold staCompute; split <;> simp)

end Sys2Proof.Machine
end

section
/-! PROOFS. Memories stay in their canonical form (R169, R217, R224): the streams, their moves and the execute units. -/

namespace Sys2Proof.Machine

open Sys2Proof

variable {s₀ : State}

/-! The instruction streams and their issue. -/

@[simp] theorem canon_setQueue (s : State) (c q : Nat) (l : List QSlot) :
    s₀.canon (s.setQueue c q l) = s₀.canonVia (s₀.canon s) (s.setQueue c q l) := canon_via id

@[simp] theorem canon_qPush (s : State) (c q : Nat) (ds : List Sector) :
    s₀.canon (s.qPush c q ds) = s₀.canonVia (s₀.canon s) (s.qPush c q ds) := canon_via id

@[simp] theorem canon_qReserve (s : State) (c q gid n : Nat) :
    s₀.canon (s.qReserve c q gid n) = s₀.canonVia (s₀.canon s) (s.qReserve c q gid n) := canon_via id

@[simp] theorem canon_qDrop (s : State) (c q n : Nat) :
    s₀.canon (s.qDrop c q n) = s₀.canonVia (s₀.canon s) (s.qDrop c q n) := canon_via id

@[simp] theorem canon_raise (s : State) (c : Nat) (t : Strm) (iid index bank : Nat) (e : AccErr) :
    s₀.canon (s.raise c t iid index bank e) = s₀.canonVia (s₀.canon s) (s.raise c t iid index bank e) :=
  canon_via (((canon_refl _).via (canon_noteAny ..)).via (canon_haltCore ..))

@[simp] theorem canon_raiseAt (s : State) (c : Nat) (t : Strm) (e : AccErr) :
    s₀.canon (s.raiseAt c t e) = s₀.canonVia (s₀.canon s) (s.raiseAt c t e) := canon_via ((canon_refl _).via (canon_raise ..))

@[simp] theorem canon_holdIssue (s : State) (c : Nat) (t : Strm) (op : Nat) (w : Body) (on : Nat) :
    s₀.canon (s.holdIssue c t op w on) = s₀.canonVia (s₀.canon s) (s.holdIssue c t op w on) := canon_via id

@[simp] theorem canon_goTo (s : State) (c : Nat) (t : Strm) (i : Nat) :
    s₀.canon (s.goTo c t i) = s₀.canonVia (s₀.canon s) (s.goTo c t i) := canon_via id

@[simp] theorem canon_issuedTo (s : State) (c : Nat) (t : Strm) (i : Nat) :
    s₀.canon (s.issuedTo c t i) = s₀.canonVia (s₀.canon s) (s.issuedTo c t i) := canon_via id

@[simp] theorem canon_issued (s : State) (c : Nat) (t : Strm) :
    s₀.canon (s.issued c t) = s₀.canonVia (s₀.canon s) (s.issued c t) := canon_via id

@[simp] theorem canon_issuedHolding (s : State) (c : Nat) (t : Strm) (h : Hold) (on : Nat) :
    s₀.canon (s.issuedHolding c t h on) = s₀.canonVia (s₀.canon s) (s.issuedHolding c t h on) :=
  canon_via id

@[simp] theorem canon_setLoops (s : State) (c : Nat) (t : Strm) (l : List LoopFrame) :
    s₀.canon (s.setLoops c t l) = s₀.canonVia (s₀.canon s) (s.setLoops c t l) := canon_via id

@[simp] theorem canon_issueHalt (s : State) (c : Nat) (t : Strm) (w : Body) :
    s₀.canon (issueHalt s c t w) = s₀.canonVia (s₀.canon s) (issueHalt s c t w) :=
  canon_via (canon_if ((((canon_refl _).via (canon_setLoops ..)).via (canon_issued ..)).via (canon_stopStream ..)) (canon_if
    ((((canon_refl _).via (canon_setLoops ..)).via (canon_setFld ..)).via (canon_issuedTo ..)) (((canon_refl _).via
    (canon_setLoops ..)).via (canon_holdIssue ..))))

@[simp] theorem canon_setCnt (s : State) (c : Nat) (t : Strm) (k v : Nat) :
    s₀.canon (s.setCnt c t k v) = s₀.canonVia (s₀.canon s) (s.setCnt c t k v) := canon_via id

@[simp] theorem canon_issueLoop (s : State) (c : Nat) (t : Strm) (w : Body) :
    s₀.canon (issueLoop s c t w) = s₀.canonVia (s₀.canon s) (issueLoop s c t w) :=
  canon_via (canon_if ((canon_refl _).via (canon_raiseAt ..)) (canon_if ((canon_refl _).via (canon_raiseAt ..)) (canon_if
    ((canon_refl _).via (canon_issuedTo ..)) (canon_if ((canon_refl _).via (canon_raiseAt ..)) ((canon_if ((canon_refl _).via
    (canon_setLoops ..)) (((canon_refl _).via (canon_setLoops ..)).via (canon_setCnt ..))).via (canon_issued ..))))))

@[simp] theorem canon_issueEndl (s : State) (c : Nat) (t : Strm) (w : Body) :
    s₀.canon (issueEndl s c t w) = s₀.canonVia (s₀.canon s) (issueEndl s c t w) := canon_via (by unfold issueEndl; split <;> simp)

@[simp] theorem canon_issueCset (s : State) (c : Nat) (t : Strm) (w : Body) :
    s₀.canon (issueCset s c t w) = s₀.canonVia (s₀.canon s) (issueCset s c t w) :=
  canon_via (canon_if (((canon_refl _).via (canon_setCnt ..)).via (canon_issued ..)) (canon_if (((((canon_refl _).via
    (canon_setReg ..)).via (canon_setFld ..)).via (canon_setFld ..)).via (canon_issued ..)) ((canon_refl _).via
    (canon_raiseAt ..))))

@[simp] theorem canon_issueCadd (s : State) (c : Nat) (t : Strm) (w : Body) :
    s₀.canon (issueCadd s c t w) = s₀.canonVia (s₀.canon s) (issueCadd s c t w) := canon_via id

@[simp] theorem canon_issueCmpb (s : State) (c : Nat) (t : Strm) (w : Body) :
    s₀.canon (issueCmpb s c t w) = s₀.canonVia (s₀.canon s) (issueCmpb s c t w) :=
  canon_via (canon_if ((canon_refl _).via (canon_raiseAt ..)) (canon_if (((canon_refl _).via (canon_setLoops ..)).via
    (canon_issuedTo ..)) ((canon_refl _).via (canon_issued ..))))

@[simp] theorem canon_countSent (s : State) (c dev n : Nat) :
    s₀.canon (s.countSent c dev n) = s₀.canonVia (s₀.canon s) (s.countSent c dev n) :=
  canon_via (by unfold State.countSent; split <;> exact id)

@[simp] theorem canon_postPen (s : State) (k : Nat) (op : PenOp) :
    s₀.canon (s.postPen k op) = s₀.canonVia (s₀.canon s) (s.postPen k op) := canon_via id

@[simp] theorem canon_issueSig (s : State) (c : Nat) (t : Strm) (w : Body) :
    s₀.canon (issueSig s c t w) = s₀.canonVia (s₀.canon s) (issueSig s c t w) := by
  refine canon_via ?_
  unfold issueSig
  extract_lets scope pen op amount src after
  have hafter : ∀ {f : State}, s.canon f → s.canon (after f) := fun hf => by simp [after, hf]
  split
  · simp
  · split
    · refine hafter ?_
      split
      · next h => simp [canon_via (canon_of_penSignal h)]
      · simp
    · split
      · split
        · simp
        · exact hafter (by simp)
      · split
        · simp
        · split
          · simp
          · exact hafter (by simp)

@[simp] theorem canon_register (s : State) (c : Nat) (t : Strm) (k : Nat) (wt : Waiter) :
    s₀.canon (s.register c t k wt) = s₀.canonVia (s₀.canon s) (s.register c t k wt) :=
  canon_via (canon_if ((canon_mk ..).mpr ((canon_refl _).via (canon_issuedHolding ..)).mems) (((canon_refl _).via
    (canon_issuedHolding ..)).via (canon_postPen ..)))

@[simp] theorem canon_waitOn (s : State) (c : Nat) (t : Strm) (k k2 mode imm : Nat) :
    s₀.canon (s.waitOn c t k k2 mode imm) = s₀.canonVia (s₀.canon s) (s.waitOn c t k k2 mode imm) :=
  canon_via (canon_if (canon_if ((canon_refl _).via (canon_issued ..)) (canon_if ((((canon_refl _).via (canon_setPenVal
    ..)).via (canon_penChanged ..)).via (canon_issued ..)) ((canon_refl _).via (canon_register ..)))) (canon_if ((canon_refl
    _).via (canon_issued ..)) ((canon_refl _).via (canon_register ..))))

@[simp] theorem canon_issueWait (s : State) (c : Nat) (t : Strm) (w : Body) :
    s₀.canon (issueWait s c t w) = s₀.canonVia (s₀.canon s) (issueWait s c t w) := by
  refine canon_via ?_
  simp only [issueWait]
  repeat' split
  all_goals simp

@[simp] theorem canon_issueHoist (s : State) (c : Nat) (t : Strm) (w : Body) :
    s₀.canon (issueHoist s c t w) = s₀.canonVia (s₀.canon s) (issueHoist s c t w) := by
  refine canon_via ?_
  unfold issueHoist
  extract_lets cross hid
  refine canon_if (by simp) ?_
  split
  · simp
  · split
    · simp
    · extract_lets round waits m s₁ s₂
      have h₁ : s.canon s₁ := (canon_refl s).via (canon_addMod ..)
      have h₂ : s.canon s₂ := (canon_mk ..).mpr h₁.mems
      exact canon_if (by simp) (canon_if (by simp) (canon_if (by simp [h₂]) (by simp [h₂])))

@[simp] theorem canon_issueSyncq (s : State) (c : Nat) (t : Strm) (w : Body) :
    s₀.canon (issueSyncq s c t w) = s₀.canonVia (s₀.canon s) (issueSyncq s c t w) :=
  canon_via (canon_if ((canon_refl _).via (canon_issued ..)) ((canon_refl _).via (canon_holdIssue ..)))

/-! The moves of a core. -/

theorem canon_of_writeOut {s t : State} {c iid a : Nat} {d : Sector} {sent lcr : Bool}
    (h : s.writeOut c iid a d sent lcr = .ok t) : s.canon t := by
  unfold State.writeOut at h
  split at h
  · cases h
  · split at h
    · split at h <;> cases h
      next h => simp [canon_via (canon_of_writeSec h)]
    · split at h <;> cases h
      simp

@[simp] theorem canon_deliver (s : State) (c gid pos : Nat) (d : Sector) :
    s₀.canon (s.deliver c gid pos d) = s₀.canonVia (s₀.canon s) (s.deliver c gid pos d) :=
  canon_via (by unfold State.deliver; split <;> simp)

@[simp] theorem canon_askGroup (s : State) (c : Nat) (m : Move) (lcr : Bool) (gid n : Nat) (x : List (Loc × Option Sector)) :
    s₀.canon (s.askGroup c m lcr gid n x) = s₀.canonVia (s₀.canon s) (s.askGroup c m lcr gid n x) := by
  refine canon_via ?_
  induction x generalizing s n with
  | nil => exact canon_refl _
  | cons p l ih =>
    obtain ⟨l, x⟩ := p
    unfold State.askGroup
    cases x <;> simp [canon_via (ih _ _)]

/-- The state that a piece of a move leaves has canonical memories where `s₀` has them. -/
def State.canonPiece (s₀ : State) : Piece → Prop
  | .stop t => s₀.canon t
  | .more t _ => s₀.canon t
  | .wait .. => True
  | .ask .. => True

@[simp] theorem canonPiece_stop (s₀ t : State) : s₀.canonPiece (.stop t) ↔ s₀.canon t := Iff.rfl

@[simp] theorem canonPiece_more (s₀ t : State) (m : Move) : s₀.canonPiece (.more t m) ↔ s₀.canon t := Iff.rfl

@[simp] theorem canonPiece_wait (s : State) (m : Move) (on : Nat) : s.canonPiece (Piece.wait m on) := trivial

@[simp] theorem canonPiece_ask (s : State) (m : Move) (e : AccErr) : s.canonPiece (Piece.ask m e) := trivial

@[simp] theorem canonPiece_moveErr (s : State) (c : Nat) (m : Move) (e : AccErr) : s.canonPiece (moveErr s c m e) := by
  unfold moveErr
  split <;> simp

@[simp] theorem canonPiece_loadPiece_go (s : State) (c : Nat) (m : Move) (plain : Bool) (ws : Nat) (elems outs : Nat → Nat)
    (src : List (Loc × Option Sector)) (err : Option AccErr) (r : Nat) :
    s.canonPiece (loadPiece.go s c m plain ws elems outs src err r) := by
  unfold loadPiece.go
  extract_lets n block b0 nb ss gid g s₁ s₂
  split
  · simp
  · extract_lets s₃
    have h₃ : s.canon s₃ := by simp [s₁, s₂, s₃]
    split <;> simp [h₃]

@[simp] theorem canonPiece_loadPiece (s : State) (c : Nat) (m : Move) : s.canonPiece (loadPiece s c m) := by
  unfold loadPiece
  extract_lets
  split
  · repeat' split
    all_goals simp
  · split <;> simp

@[simp] theorem canon_writeOuts (s : State) (c iid : Nat) (x : List (Nat × Sector)) :
    s₀.canon (s.writeOuts c iid x).1 = s₀.canonVia (s₀.canon s) (s.writeOuts c iid x).1 := by
  refine canon_via ?_
  induction x generalizing s with
  | nil => exact canon_refl _
  | cons w ws ih =>
    obtain ⟨a, d⟩ := w
    unfold State.writeOuts
    split
    · exact canon_refl _
    · next h => simp [canon_via (ih _), canon_via (canon_of_writeOut h)]

@[simp] theorem canonPiece_storePiece (s : State) (c : Nat) (m : Move) : s.canonPiece (storePiece s c m) := by
  unfold storePiece
  extract_lets plain ws wd per r ne take ds s₁ o cv s₂
  have h₂ : s.canon s₂ := by simp [s₁, s₂]
  split
  · simp
  · split <;> next h => simp [canon_fst h, h₂]

@[simp] theorem canon_sendOut_go (c dev a : Nat) (f : Nat → Sector → RedFlit) (s : State) (x : List (Nat × Sector)) :
    s₀.canon (State.sendOut.go c dev a f s x).1 = s₀.canonVia (s₀.canon s) (State.sendOut.go c dev a f s x).1 := by
  refine canon_via ?_
  induction x generalizing s with
  | nil => exact canon_refl _
  | cons w ws ih =>
    obtain ⟨i, d⟩ := w
    unfold State.sendOut.go
    split <;> simp [canon_via (ih _)]

@[simp] theorem canon_sendOut_put (c iid dev vc : Nat) (s : State) (x : List (Nat × Sector)) :
    s₀.canon (State.sendOut.put c iid dev vc s x).1 = s₀.canonVia (s₀.canon s) (State.sendOut.put c iid dev vc s x).1 := by
  refine canon_via ?_
  induction x generalizing s with
  | nil => exact canon_refl _
  | cons w ws ih =>
    obtain ⟨a, d⟩ := w
    unfold State.sendOut.put
    split
    · exact canon_refl _
    · next h => simp [canon_via (ih _), canon_via (canon_of_writeOut h)]

@[simp] theorem canon_sendOut (s : State) (c iid dev vc rtag a : Nat) (ds : List Sector) :
    s₀.canon (s.sendOut c iid dev vc rtag a ds).1 = s₀.canonVia (s₀.canon s) (s.sendOut c iid dev vc rtag a ds).1 := by
  refine canon_via ?_
  unfold State.sendOut
  split
  · split <;> simp
  · split <;> simp

@[simp] theorem canonPiece_sendPiece (s : State) (c : Nat) (m : Move) : s.canonPiece (sendPiece s c m) := by
  unfold sendPiece
  split
  · split <;> next h => simp [canon_fst h]
  · simp

@[simp] theorem canonPiece_fillPiece (s : State) (c : Nat) (m : Move) : s.canonPiece (fillPiece s c m) := by
  unfold fillPiece
  split
  · simp
  · next h => simp [canon_via (canon_of_writeOut h)]

@[simp] theorem canonPiece_copyPiece (s : State) (c : Nat) (m : Move) : s.canonPiece (copyPiece s c m) := by
  unfold copyPiece
  extract_lets x
  split
  · simp
  · split
    · simp
    · split
      · simp
      · next h => simp [canon_via (canon_of_writeOut h)]

@[simp] theorem canonPiece_sendDescPiece (s : State) (c : Nat) (m : Move) : s.canonPiece (sendDescPiece s c m) := by
  unfold sendDescPiece
  extract_lets r rd out
  have hout : s.canon (out s).1 := by
    simp only [out]
    split <;> simp
  split
  · split
    · simp
    · split <;> next h => simp [canon_fst h, hout]
  · split <;> next h => simp [canon_fst h, hout]

theorem canonPiece_movePiece (s : State) (c : Nat) (m : Move) : s.canonPiece (movePiece s c m) := by
  unfold movePiece
  split <;> simp

theorem canon_of_stop {s t : State} {c : Nat} {m : Move} (h : movePiece s c m = .stop t) : s.canon t := by
  have := canonPiece_movePiece s c m
  rwa [h] at this

theorem canon_of_more {s t : State} {c : Nat} {m m' : Move} (h : movePiece s c m = .more t m') : s.canon t := by
  have := canonPiece_movePiece s c m
  rwa [h] at this

@[simp] theorem canon_moveDone (s : State) (c : Nat) :
    s₀.canon (s.moveDone c) = s₀.canonVia (s₀.canon s) (s.moveDone c) := canon_via (by unfold State.moveDone; split <;> simp)

@[simp] theorem canon_runMove (c n : Nat) (m : Move) (s : State) :
    s₀.canon (runMove c n m s) = s₀.canonVia (s₀.canon s) (runMove c n m s) := by
  refine canon_via ?_
  induction n generalizing m s with
  | zero => exact canon_refl _
  | succ n ih =>
    unfold runMove
    split
    · simp
    · extract_lets s₁
      have h₁ : s.canon s₁ := by simp [s₁]
      split
      · next h => exact h₁.trans (canon_of_stop h)
      · simp [h₁]
      · simp [canon_via (ih _ _), h₁]
      · next h => simp [canon_via (ih _ _), canon_via (canon_of_more h), h₁]

@[simp] theorem canon_begin (s : State) (c : Nat) (reads writes : List Span) :
    s₀.canon (s.begin c reads writes) = s₀.canonVia (s₀.canon s) (s.begin c reads writes) := canon_via id

@[simp] theorem canon_startMove (s : State) (c op : Nat) (w : Body) (m : Move) (reads writes : List Span) :
    s₀.canon (startMove s c op w m reads writes) = s₀.canonVia (s₀.canon s) (startMove s c op w m reads writes) :=
  canon_via (canon_if ((canon_refl _).via (canon_holdIssue ..)) ((((canon_refl _).via (canon_begin ..)).via (canon_modStrm
    ..)).via (canon_runMove ..)))

@[simp] theorem canon_issueLdq (s : State) (c : Nat) (w : Body) :
    s₀.canon (issueLdq s c w) = s₀.canonVia (s₀.canon s) (issueLdq s c w) := by
  refine canon_via ?_
  simp only [issueLdq]
  repeat' split
  all_goals simp

@[simp] theorem canon_issueLdx (s : State) (c : Nat) (w : Body) :
    s₀.canon (issueLdx s c w) = s₀.canonVia (s₀.canon s) (issueLdx s c w) := by
  refine canon_via ?_
  simp only [issueLdx]
  repeat' split
  all_goals simp

@[simp] theorem canon_issueStq (s : State) (c : Nat) (w : Body) :
    s₀.canon (issueStq s c w) = s₀.canonVia (s₀.canon s) (issueStq s c w) := by
  refine canon_via ?_
  simp only [issueStq]
  repeat' split
  all_goals simp

@[simp] theorem canon_handed (s : State) (c : Nat) :
    s₀.canon (s.handed c) = s₀.canonVia (s₀.canon s) (s.handed c) := canon_via id

@[simp] theorem canon_startEngine (s : State) (c op : Nat) (w : Body) (src : Option Desc) (dst : Desc) (value : Sector) :
    s₀.canon (startEngine s c op w src dst value) = s₀.canonVia (s₀.canon s) (startEngine s c op w src dst value) :=
  canon_via (canon_if ((canon_refl _).via (canon_holdIssue ..)) (canon_if ((canon_refl _).via (canon_holdIssue ..))
    ((((canon_refl _).via (canon_begin ..)).via (canon_modCore ..)).via (canon_handed ..))))

@[simp] theorem canon_engineGo (c n : Nat) (s : State) :
    s₀.canon (engineGo c n s) = s₀.canonVia (s₀.canon s) (engineGo c n s) := by
  refine canon_via ?_
  induction n generalizing s with
  | zero => exact canon_refl _
  | succ n ih =>
    unfold engineGo
    split
    · exact canon_refl _
    · split
      · simp
      · extract_lets fail d
        have hd : s.canon d.1 := by
          simp only [d]
          split <;> simp
        clear_value d
        obtain ⟨t, x | v⟩ := d <;> dsimp only at hd ⊢
        · simp [fail, hd]
        · split
          · simp [fail, hd]
          · next h => simp [canon_via (ih _), canon_via (canon_of_writeSec h), hd]

@[simp] theorem canon_issueFill (s : State) (c : Nat) (w : Body) :
    s₀.canon (issueFill s c w) = s₀.canonVia (s₀.canon s) (issueFill s c w) := by
  refine canon_via ?_
  simp only [issueFill]
  repeat' split
  all_goals simp

@[simp] theorem canon_issueCopy (s : State) (c : Nat) (w : Body) :
    s₀.canon (issueCopy s c w) = s₀.canonVia (s₀.canon s) (issueCopy s c w) := by
  refine canon_via ?_
  simp only [issueCopy]
  repeat' split
  all_goals simp

@[simp] theorem canon_issueSend (s : State) (c : Nat) (w : Body) :
    s₀.canon (issueSend s c w) = s₀.canonVia (s₀.canon s) (issueSend s c w) := by
  refine canon_via ?_
  simp only [issueSend]
  repeat' split
  all_goals simp

/-! The units at work and the pump of a core. -/

@[simp] theorem canon_setUnit (s : State) (c u : Nat) (x : UnitState) :
    s₀.canon (s.setUnit c u x) = s₀.canonVia (s₀.canon s) (s.setUnit c u x) := canon_via id

@[simp] theorem canon_setRun (s : State) (c u : Nat) (j : Job) :
    s₀.canon (s.setRun c u j) = s₀.canonVia (s₀.canon s) (s.setRun c u j) := canon_via id

@[simp] theorem canon_issueExec (s : State) (c op : Nat) (w : Body) :
    s₀.canon (issueExec s c op w) = s₀.canonVia (s₀.canon s) (issueExec s c op w) := by
  refine canon_via ?_
  simp only [issueExec]
  repeat' split
  all_goals simp

@[simp] theorem canon_issueEffect (s : State) (c : Nat) (t : Strm) (op : Nat) (w : Body) :
    s₀.canon (issueEffect s c t op w) = s₀.canonVia (s₀.canon s) (issueEffect s c t op w) :=
  canon_via (by unfold issueEffect; split <;> simp)

@[simp] theorem canon_jobBegin (s : State) (c : Nat) (j : Job) :
    s₀.canon (jobBegin s c j).1 = s₀.canonVia (s₀.canon s) (jobBegin s c j).1 := canon_via (by unfold jobBegin; split <;> simp)

@[simp] theorem canon_DoneQ_part (r : DoneQ) (j : Job) : s₀.canon (DoneQ.part r j).s ↔ s₀.canon r.1 := Iff.rfl

@[simp] theorem canon_jobPart (s : State) (c : Nat) (j : Job) :
    s₀.canon (jobPart s c j).s = s₀.canonVia (s₀.canon s) (jobPart s c j).s := by
  refine canon_via ?_
  unfold jobPart
  split <;> simp

@[simp] theorem canon_showArray (s : State) (c : Nat) (fresh : Bool) :
    s₀.canon (s.showArray c fresh) = s₀.canonVia (s₀.canon s) (s.showArray c fresh) :=
  canon_via (by unfold State.showArray; split <;> simp)

theorem canon_of_askOnce {s t : State} {c : Nat} {e : AccErr} (h : s.askOnce c e = some t) : s.canon t := by
  unfold State.askOnce at h
  extract_lets u at h
  split at h
  · cases h
  · simp [← Option.some.inj h, u]

theorem canon_of_runPart {s t : State} {c u : Nat} {j : Job} (h : s.runPart c u j = some t) : s.canon t := by
  unfold State.runPart at h
  split at h
  · cases h
  · extract_lets s₁ r at h
    have hr : s.canon r.s := by simp [r, s₁]
    split at h
    · cases h
      simp [hr]
    · split at h
      · simp [canon_via (canon_of_askOnce h), s₁]
      · cases h
        simp [hr]

theorem canon_of_startJob {s t : State} {c u : Nat} {j : Job} (h : s.startJob c u j = some t) : s.canon t := by
  unfold State.startJob at h
  extract_lets earlier s₁ r j' s₂ at h
  split at h
  · cases h
  · split at h
    · split at h
      · split at h
        · simp [canon_via (canon_of_askOnce h), s₁]
        · cases h
          simp [s₁]
      · cases h
        simp [s₁]
    · split at h
      · cases h
      · simp [← Option.some.inj h, r, s₂]

theorem canon_of_takeSectors {s t : State} {c u : Nat} {j : Job} {q n : Nat} {rest : List (Nat × Nat)}
    (h : s.takeSectors c u j q n rest = some t) : s.canon t := by
  unfold State.takeSectors at h
  split at h
  · cases h
  · split at h
    · split at h <;> cases h
      simp
    · cases h
      simp

theorem canon_of_unitStep {s t : State} {c u : Nat} (h : unitStep s c u = some t) : s.canon t := by
  unfold unitStep at h
  split at h
  · cases h
  · split at h
    · exact canon_of_startJob h
    · split at h
      · split at h
        · exact canon_of_runPart h
        · exact canon_of_takeSectors h
      · split at h
        · split at h <;> cases h
          simp
        · split at h <;> cases h
          simp

theorem canon_of_strmStep {s u : State} {c : Nat} {t : Strm} (h : strmStep s c t = some u) : s.canon u := by
  unfold strmStep at h
  extract_lets moved at h
  have hmoved : ∀ v x, moved v x = some u → v = u := fun v x hv => by
    simp only [moved] at hv
    split at hv <;> cases hv
    rfl
  split at h
  · split at h
    · simp [← hmoved _ _ h]
    · cases h
  · simp [← hmoved _ _ h]
  · cases h

@[simp] theorem canon_tidyFlights (s : State) (c : Nat) :
    s₀.canon (s.tidyFlights c) = s₀.canonVia (s₀.canon s) (s.tidyFlights c) :=
  canon_via (canon_if (canon_refl _) ((canon_refl _).via (canon_modCore ..)))

@[simp] theorem canon_tidyPred (s : State) (c : Nat) :
    s₀.canon (s.tidyPred c) = s₀.canonVia (s₀.canon s) (s.tidyPred c) := canon_via (by unfold State.tidyPred; split <;> simp)

@[simp] theorem canon_tidyStep (s : State) (c : Nat) (t : Strm) :
    s₀.canon (s.tidyStep c t) = s₀.canonVia (s₀.canon s) (s.tidyStep c t) :=
  canon_via (canon_if ((canon_if (((canon_refl _).via (canon_modStrm ..)).via (canon_setStrmState ..)) ((canon_refl _).via
    (canon_modStrm ..))).via (canon_setFld ..)) (canon_refl _))

@[simp] theorem canon_tidy (s : State) (c : Nat) :
    s₀.canon (s.tidy c) = s₀.canonVia (s₀.canon s) (s.tidy c) :=
  canon_via (((((((canon_refl _).via (canon_tidyFlights ..)).via (canon_tidyPred ..)).via (canon_showArray ..)).via
    (canon_epochs ..)).via (canon_tidyStep ..)).via (canon_tidyStep ..))

theorem canon_of_coreStep {s t : State} {c : Nat} (h : coreStep s c = some t) : s.canon t := by
  unfold coreStep at h
  split at h
  · next hu =>
    cases h
    obtain ⟨u, -, hu⟩ := List.exists_of_findSome?_eq_some hu
    exact canon_of_unitStep hu
  · split at h
    · next ha =>
      cases h
      exact canon_of_strmStep ha
    · exact canon_of_strmStep h

@[simp] theorem canon_pumpLoop (c n : Nat) (s : State) :
    s₀.canon (pumpLoop c n s) = s₀.canonVia (s₀.canon s) (pumpLoop c n s) := by
  refine canon_via ?_
  induction n generalizing s with
  | zero => exact canon_refl _
  | succ n ih =>
    unfold pumpLoop
    split
    · next h => simp [canon_via (ih _), canon_via (canon_of_coreStep h)]
    · exact canon_refl _

@[simp] theorem canon_pump (s : State) (c : Nat) :
    s₀.canon (s.pump c) = s₀.canonVia (s₀.canon s) (s.pump c) :=
  canon_via (((canon_refl _).via (canon_tidy ..)).via (canon_pumpLoop ..))

@[simp] theorem canon_pumpAll (s : State) :
    s₀.canon s.pumpAll = s₀.canonVia (s₀.canon s) s.pumpAll :=
  canon_via ((canon_refl _).via (canon_foldl (fun _ _ => (canon_refl _).via (canon_pump ..)) ..))

@[simp] theorem canon_issueInstr (s : State) (c : Nat) (t : Strm) (op : Nat) (w : Body) :
    s₀.canon (issueInstr s c t op w) = s₀.canonVia (s₀.canon s) (issueInstr s c t op w) :=
  canon_via (canon_if (canon_refl _) (canon_if (((canon_refl _).via (canon_raiseAt ..)).via (canon_pump ..)) (canon_if
    (((canon_refl _).via (canon_raiseAt ..)).via (canon_pump ..)) (canon_if (((canon_refl _).via (canon_raiseAt ..)).via
    (canon_pump ..)) (((canon_refl _).via (canon_issueEffect ..)).via (canon_pump ..))))))

@[simp] theorem canon_issueNext (s : State) (c : Nat) (t : Strm) :
    s₀.canon (s.issueNext c t) = s₀.canonVia (s₀.canon s) (s.issueNext c t) :=
  canon_via ((canon_refl _).via (canon_issueInstr ..))

end Sys2Proof.Machine
end

section
/-! PROOFS. Memories stay in their canonical form (R169, R217, R224): accesses from outside a core, the memory tiers,
the chains and the Nirlo ports. -/

namespace Sys2Proof.Machine

open Sys2Proof

variable {s₀ : State}

/-! Accesses from outside a core. -/

@[simp] theorem canon_clkErr (s : State) (code unit : Nat) :
    s₀.canon (s.clkErr code unit) = s₀.canonVia (s₀.canon s) (s.clkErr code unit) := canon_via (by simp [State.clkErr])

@[simp] theorem canon_gatedHost (s : State) :
    s₀.canon s.gatedHost = s₀.canonVia (s₀.canon s) s.gatedHost :=
  canon_via (canon_if ((canon_refl _).via (canon_clkErr ..)) (canon_refl _))

@[simp] theorem canon_passes (s : State) (who : Writer) (a : Nat) :
    s₀.canon (s.passes who a).2 = s₀.canonVia (s₀.canon s) (s.passes who a).2 := by
  refine canon_via ?_
  simp only [State.passes]
  repeat' split
  all_goals simp

@[simp] theorem canon_command (s : State) (who : Writer) (a : Nat) {f : State → State}
    (h : ∀ t : State, t.canon (f t)) : s₀.canon (s.command who a f) = s₀.canonVia (s₀.canon s) (s.command who a f) := by
  refine canon_via ?_
  unfold State.command
  split <;> next hp => simp [canon_via (h _), canon_snd hp]

@[simp] theorem canon_ungated (s : State) (a : Nat) {f : State → State} (h : ∀ t : State, t.canon (f t)) :
    s₀.canon (s.ungated a f) = s₀.canonVia (s₀.canon s) (s.ungated a f) := canon_via (by simp [State.ungated, canon_via (h _)])

/-! The commands of the cores. -/

@[simp] theorem canon_finish (s : State) (c u : Nat) : s₀.canon (s.finish c u) = s₀.canonVia (s₀.canon s) (s.finish c u) := by
  refine canon_via ?_
  simp only [State.finish]
  repeat' split
  all_goals simp

theorem canonOut_execFillCopyEngineDone (c : CoreId) (s : State) : s.canonOut (execFillCopyEngineDone c s) := by
  rw [execFillCopyEngineDone, canonOut_next]
  split <;> simp

@[simp] theorem canon_dropReq (s : State) (id : Nat) :
    s₀.canon (s.dropReq id) = s₀.canonVia (s₀.canon s) (s.dropReq id) := canon_via ((canon_mk ..).mpr (canon_refl _).mems)

theorem canonOut_execReadDataReturn (id : Nat) (s : State) : s.canonOut (execReadDataReturn id s) := by
  simp only [execReadDataReturn, canonOut_next]
  repeat' split
  all_goals simp

theorem canonOut_execWriteAck (id : Nat) (s : State) : s.canonOut (execWriteAck id s) := by
  simp only [execWriteAck, canonOut_next]
  repeat' split
  all_goals simp

@[simp] theorem canon_startStream (s : State) (c : Nat) (t : Strm) :
    s₀.canon (s.startStream c t) = s₀.canonVia (s₀.canon s) (s.startStream c t) := canon_via id

@[simp] theorem canon_startCore (s : State) (c : Nat) :
    s₀.canon (s.startCore c) = s₀.canonVia (s₀.canon s) (s.startCore c) :=
  canon_via (canon_if ((((canon_refl _).via (canon_startStream ..)).via (canon_startStream ..)).via (canon_setFld ..))
    (canon_refl _))

@[simp] theorem canon_stopCore (s : State) (c : Nat) :
    s₀.canon (s.stopCore c) = s₀.canonVia (s₀.canon s) (s.stopCore c) :=
  canon_via (canon_if ((canon_if ((canon_refl _).via (canon_stopAtBoundary ..)) (canon_refl _)).via (canon_stopAtBoundary
    ..)) (canon_if ((canon_refl _).via (canon_stopAtBoundary ..)) (canon_refl _)))

@[simp] theorem canon_loadStart (s : State) (c : Nat) (t : Strm) (v : Word32) :
    s₀.canon (s.loadStart c t v) = s₀.canonVia (s₀.canon s) (s.loadStart c t v) := by
  refine canon_via ?_
  simp only [State.loadStart]
  repeat' split
  all_goals simp

@[simp] theorem canon_loadSectors (c : Nat) (t : Strm) (n a : Nat) (s : State) :
    s₀.canon (loadSectors c t n a s).2 = s₀.canonVia (s₀.canon s) (loadSectors c t n a s).2 := by
  refine canon_via ?_
  induction n generalizing a s with
  | zero => exact canon_refl _
  | succ n ih =>
    unfold loadSectors
    split <;> next h => simp [canon_via (ih _ _), canon_fst h]

@[simp] theorem canon_loadDone (s : State) (c : Nat) (t : Strm) :
    s₀.canon (s.loadDone c t) = s₀.canonVia (s₀.canon s) (s.loadDone c t) := canon_via (by unfold State.loadDone; split <;> simp)

@[simp] theorem canon_clearCounters (s : State) (c : Nat) :
    s₀.canon (s.clearCounters c) = s₀.canonVia (s₀.canon s) (s.clearCounters c) :=
  canon_via (((canon_refl _).via (canon_clearFlds ..)).via (canon_setReg ..))

/-! The memory tiers. -/

@[simp] theorem canon_failReq (s : State) (r : Req) (e : AccErr) :
    s₀.canon (s.failReq r e) = s₀.canonVia (s₀.canon s) (s.failReq r e) := canon_via (by unfold State.failReq; split <;> simp)

@[simp] theorem canon_serveReq (s : State) (id : Nat) (d : Sector) :
    s₀.canon (s.serveReq id d) = s₀.canonVia (s₀.canon s) (s.serveReq id d) := canon_via ((canon_mk ..).mpr (canon_refl _).mems)

@[simp] theorem canon_landWrite (s : State) (r : Req) (l : Loc) (d : Sector) (be : Word32) :
    s₀.canon (s.landWrite r l d be) = s₀.canonVia (s₀.canon s) (s.landWrite r l d be) := by
  refine canon_via ?_
  unfold State.landWrite
  split <;> next h => simp [canon_fst h]

@[simp] theorem canon_answerRead (s : State) (r : Req) (l : Loc) (e : Ecc) :
    s₀.canon (s.answerRead r l e) = s₀.canonVia (s₀.canon s) (s.answerRead r l e) := by
  refine canon_via ?_
  unfold State.answerRead
  extract_lets w live add ue weak s₁
  have h₁ : s.canon s₁ := by simp [s₁]
  split <;> next h => simp [canon_fst h, h₁]

@[simp] theorem canon_serveAt (s : State) (r : Req) (l : Loc) (e : Ecc) :
    s₀.canon (s.serveAt r l e) = s₀.canonVia (s₀.canon s) (s.serveAt r l e) := by
  refine canon_via ?_
  simp only [State.serveAt]
  repeat' split
  all_goals simp

@[simp] theorem canon_patrolLine (s : State) (c off : Nat) :
    s₀.canon (s.patrolLine c off) = s₀.canonVia (s₀.canon s) (s.patrolLine c off) := by
  refine canon_via ?_
  unfold State.patrolLine
  extract_lets w0 ws s₁ n s₂
  have h₁ : s.canon s₁ := by
    unfold s₁
    split <;> simp
  have h₂ : s.canon s₂ := by
    unfold s₂
    split <;> simp [h₁]
  exact h₂

@[simp] theorem canon_patrolSp (s : State) (c bank word : Nat) (e : Ecc) :
    s₀.canon (s.patrolSp c bank word e) = s₀.canonVia (s₀.canon s) (s.patrolSp c bank word e) := canon_via (by
  unfold State.patrolSp
  extract_lets held row off w add s₁ s₂ s₃
  have hh (t : State) (ht : s.canon t) : s.canon (held t) := canon_if ht (ht.via (canon_applyHeld ..))
  have h₁ : s.canon s₁ := (canon_mk ..).mpr (canon_refl s).mems
  have h₂ : s.canon s₂ := h₁.via (canon_patrolLine ..)
  have h₃ : s.canon s₃ := h₂.via (canon_setFld ..)
  exact canon_if (canon_refl s) (canon_if (hh s (canon_refl s))
    (canon_if h₂ (hh _ (canon_if (h₃.via (canon_bump ..)) h₃)))))

@[simp] theorem canon_serveRemote (s : State) (r : Req) (e : Ecc) :
    s₀.canon (s.serveRemote r e) = s₀.canonVia (s₀.canon s) (s.serveRemote r e) :=
  canon_via (by unfold State.serveRemote; split <;> simp)

theorem canonOut_execRemoteSpRequest (id : Nat) (e : Ecc) (s : State) : s.canonOut (execRemoteSpRequest id e s) := by
  rw [execRemoteSpRequest, canonOut_next]
  split <;> simp

@[simp] theorem canon_clearReductions (s : State) (p : Nat → Bool) :
    s₀.canon (s.clearReductions p) = s₀.canonVia (s₀.canon s) (s.clearReductions p) := canon_via id

@[simp] theorem canon_scrubCore (s : State) (c : Nat) :
    s₀.canon (s.scrubCore c) = s₀.canonVia (s₀.canon s) (s.scrubCore c) :=
  canon_via ((((((((((((canon_mk ..).mpr ((((canon_refl _).via (canon_stopStream ..)).via (canon_stopStream ..)).via
    (canon_modCore ..)).mems).via (canon_setFld ..)).via (canon_setFld ..)).via (canon_setFld ..)).via (canon_setFld ..)).via
    (canon_showPred ..)).via (canon_showArray ..)).via (canon_setReg ..)).via (canon_foldl (fun _ _ => (canon_refl _).via
    (canon_setReg ..)) ..)).via (canon_clearReductions ..)).via (canon_setReg ..))

@[simp] theorem canon_scrubEnd (s : State) (c : Nat) : s₀.canon (s.scrubEnd c) = s₀.canonVia (s₀.canon s) (s.scrubEnd c) := by
  refine canon_via ?_
  unfold State.scrubEnd
  split
  · extract_lets s₁ s₂ s₃
    have h₁ : s.canon s₁ := canon_spad (canon_refl s) (Memory.wf_memClear · _ _)
    simp [s₂, s₃, h₁]
  · exact canon_refl s

@[simp] theorem canon_countNear (s : State) (pc : Nat) :
    s₀.canon (s.countNear pc) = s₀.canonVia (s₀.canon s) (s.countNear pc) :=
  canon_via (canon_if (((canon_mk ..).mpr (canon_refl _).mems).via (canon_bump ..)) ((canon_mk ..).mpr (canon_refl _).mems))

@[simp] theorem canon_serveNear (s : State) (r : Req) (e : Ecc) :
    s₀.canon (s.serveNear r e) = s₀.canonVia (s₀.canon s) (s.serveNear r e) :=
  canon_via (by unfold State.serveNear; split <;> simp)

theorem canonOut_execNearRequest (id : Nat) (e : Ecc) (s : State) : s.canonOut (execNearRequest id e s) := by
  rw [execNearRequest, canonOut_next]
  split <;> simp

@[simp] theorem canon_patrolNear (s : State) (h pc : Nat) (e : Ecc) (dieCorr : Nat) :
    s₀.canon (s.patrolNear h pc e dieCorr) = s₀.canonVia (s₀.canon s) (s.patrolNear h pc e dieCorr) := by
  refine canon_via ?_
  unfold State.patrolNear
  split
  · exact canon_refl s
  · extract_lets k n key s₁ m u s₂ s₃
    have h₁ : s.canon s₁ := (canon_refl s).via (canon_bump ..)
    have hm : s.canon m := h₁
    have hu : s.canon u := hm.via (canon_noteNearUe ..)
    have h₂ : s.canon s₂ := by
      unfold s₂
      split
      · split
        · exact hm.via (canon_noteNearUe ..)
        · exact hu
      · split <;> simp [h₁]
    have h₃ : s.canon s₃ := h₂.via (canon_setFld ..)
    split
    · exact h₂
    · split
      · exact h₃.via (canon_bump ..)
      · exact h₃

@[simp] theorem canon_tierBoundary (s : State) :
    s₀.canon s.tierBoundary = s₀.canonVia (s₀.canon s) s.tierBoundary :=
  canon_via (((canon_mk ..).mpr ((canon_refl _).via (canon_foldl (fun _ _ => canon_if ((canon_refl _).via (canon_bump ..))
    (canon_refl _)) ..)).mems).via (canon_applyHeld ..))

@[simp] theorem canon_countReach (s : State) (n x : Nat) (lcr : Bool) :
    s₀.canon (s.countReach n x lcr) = s₀.canonVia (s₀.canon s) (s.countReach n x lcr) := canon_via id

@[simp] theorem canon_setStage (s : State) (id : Nat) (st : ReqStage) :
    s₀.canon (setStage s id st) = s₀.canonVia (s₀.canon s) (setStage s id st) := canon_via ((canon_mk ..).mpr (canon_refl _).mems)

@[simp] theorem canon_linkLost (s : State) (r : Req) :
    s₀.canon (s.linkLost r) = s₀.canonVia (s₀.canon s) (s.linkLost r) :=
  canon_via (canon_if ((canon_refl _).via (canon_setStage ..)) ((canon_refl _).via (canon_failReq ..)))

@[simp] theorem canon_takeTurn (s : State) (n : Nat) (r : Req) :
    s₀.canon (s.takeTurn n r) = s₀.canonVia (s₀.canon s) (s.takeTurn n r) := canon_via id

@[simp] theorem canon_sendReach (s : State) (r : Req) : s₀.canon (s.sendReach r) = s₀.canonVia (s₀.canon s) (s.sendReach r) := by
  refine canon_via ?_
  unfold State.sendReach
  split
  · simp
  · extract_lets n s₁ s₂
    have h₂ : s.canon s₂ := by simp [s₂, s₁]
    refine canon_if (canon_refl s) (canon_if (by simp) (canon_if (canon_refl s) (canon_if (by simp) (canon_if (canon_refl s) ?_))))
    split
    · exact h₂.via (canon_setStage ..)
    · exact (canon_mk ..).mpr h₂.mems

theorem canonOut_execReachRequest (id : Nat) (s : State) : s.canonOut (execReachRequest id s) := by
  rw [execReachRequest, canonOut_next]
  split <;> simp

@[simp] theorem canon_reachFail (s : State) (r : Req) (kind : Nat) :
    s₀.canon (s.reachFail r kind) = s₀.canonVia (s₀.canon s) (s.reachFail r kind) :=
  canon_via (((canon_refl _).via (canon_noteReachUe ..)).via (canon_failReq ..))

@[simp] theorem canon_reachDoneOne (s : State) (r : Req) (st : ReachStatus) :
    s₀.canon (s.reachDoneOne r st) = s₀.canonVia (s₀.canon s) (s.reachDoneOne r st) := by
  refine canon_via ?_
  simp only [State.reachDoneOne]
  repeat' split
  all_goals simp

@[simp] theorem canon_reachDone (s : State) (r : Req) (st : ReachStatus) :
    s₀.canon (s.reachDone r st) = s₀.canonVia (s₀.canon s) (s.reachDone r st) :=
  canon_via (canon_if (canon_refl _) ((canon_if ((canon_refl _).via (canon_bump ..)) (canon_refl _)).via (canon_foldl (fun _
    _ => (canon_refl _).via (canon_reachDoneOne ..)) ..)))

theorem canonOut_execReachCompletion (id : Nat) (st : ReachStatus) (s : State) : s.canonOut (execReachCompletion id st s) := by
  rw [execReachCompletion, canonOut_next]
  split <;> simp

theorem canonOut_execReachTimeout (id : Nat) (s : State) : s.canonOut (execReachTimeout id s) := by
  rw [execReachTimeout, canonOut_next]
  split <;> simp

theorem mwfFrom_memFree {p : Nat → Bool} {m : Mem} {b : Nat} (hm : mwfFrom b m = true) (n : Nat) :
    mwfFrom b (memFree p m n).1 = true := by
  induction m generalizing b n with
  | nil => rfl
  | cons e m ih =>
    obtain ⟨k, v⟩ := e
    simp only [mwfFrom, Bool.and_eq_true, decide_eq_true_eq] at hm
    unfold memFree
    split
    · extract_lets r v'
      dsimp only
      split
      · exact mwfFrom_weaken (by omega) (ih hm.2 _)
      · simp [mwfFrom, hm.1, r, ih hm.2]
    · simp [mwfFrom, hm.1, ih hm.2]

theorem all_memFree {p : Nat → Bool} {m : Mem} (hm : m.all (fun c => c.2 != 0) = true) (n : Nat) :
    (memFree p m n).1.all (fun c => c.2 != 0) = true := by
  induction m generalizing n with
  | nil => rfl
  | cons e m ih =>
    obtain ⟨k, v⟩ := e
    simp only [List.all_cons, Bool.and_eq_true] at hm
    unfold memFree
    split
    · extract_lets r v'
      dsimp only
      split
      · exact ih hm.2 _
      · next hv =>
        rw [List.all_cons, ih hm.2 (n + 1), Bool.and_true]
        exact bne_iff_ne.mpr hv
    · rw [List.all_cons, hm.1, ih hm.2 n, Bool.and_true]

theorem Memory.wf_memFree {p : Nat → Bool} {m : Mem} (hm : Memory.wf m = true) (n : Nat) :
    Memory.wf (memFree p m n).1 = true := by
  simp only [Memory.wf, Bool.and_eq_true] at hm ⊢
  refine ⟨?_, all_memFree hm.2 n⟩
  cases m with
  | nil => rfl
  | cons e m =>
    obtain ⟨k, v⟩ := e
    have hm' : mwfFrom k m = true := hm.1
    unfold memFree
    split
    · extract_lets r v'
      dsimp only
      split
      · exact mwf_of_mwfFrom (mwfFrom_memFree hm' _)
      · exact mwfFrom_memFree hm' _
    · exact mwfFrom_memFree hm' _

@[simp] theorem canon_reachForgets (s : State) (p : Nat → Bool) :
    s₀.canon (s.reachForgets p) = s₀.canonVia (s₀.canon s) (s.reachForgets p) :=
  canon_via (canon_reach (canon_refl s) (Memory.wf_memFree · _))

@[simp] theorem canon_reachDown (s : State) (n : Nat) : s₀.canon (s.reachDown n) = s₀.canonVia (s₀.canon s) (s.reachDown n) := by
  refine canon_via ?_
  unfold State.reachDown
  extract_lets s₁ s₂ out
  rw [canon_foldl fun t r => by split <;> simp]
  simp [s₁, s₂]

@[simp] theorem canon_putFlds (s : State) (a : Nat) (v : Word32) (fs : List FieldPos) :
    s₀.canon (s.putFlds a v fs) = s₀.canonVia (s₀.canon s) (s.putFlds a v fs) :=
  canon_via ((canon_refl _).via (canon_foldl (fun _ _ => (canon_refl _).via (canon_setFld ..)) ..))

@[simp] theorem canon_marginRefuse (s : State) (a : Nat) (f : FieldPos) (busy : Bool) (code detail : Nat) :
    s₀.canon (s.marginRefuse a f busy code detail) = s₀.canonVia (s₀.canon s) (s.marginRefuse a f busy code detail) :=
  canon_via (canon_if (((canon_refl _).via (canon_setFld ..)).via (canon_report ..)) ((canon_refl _).via (canon_setFld ..)))

@[simp] theorem canon_nearMarginGo (s : State) (h : Nat) (v : Word32) :
    s₀.canon (s.nearMarginGo h v) = s₀.canonVia (s₀.canon s) (s.nearMarginGo h v) :=
  canon_via (canon_if ((canon_refl _).via (canon_putFlds ..)) (canon_if (((canon_refl _).via (canon_putFlds ..)).via
    (canon_marginRefuse ..)) ((canon_mk ..).mpr (((canon_refl _).via (canon_putFlds ..)).via (canon_setFld ..)).mems)))

@[simp] theorem canon_nearScrubs (s : State) :
    s₀.canon s.nearScrubs = s₀.canonVia (s₀.canon s) s.nearScrubs :=
  canon_via (((canon_mk ..).mpr (canon_refl _).mems).via (canon_foldl (fun _ _ => (canon_refl _).via (canon_setReg ..)) ..))

@[simp] theorem canon_reachMarginGo (s : State) (n : Nat) (v : Word32) :
    s₀.canon (s.reachMarginGo n v) = s₀.canonVia (s₀.canon s) (s.reachMarginGo n v) :=
  canon_via (canon_if ((canon_refl _).via (canon_putFlds ..)) (canon_if (((canon_refl _).via (canon_putFlds ..)).via
    (canon_marginRefuse ..)) (((canon_refl _).via (canon_putFlds ..)).via (canon_setFld ..))))

@[simp] theorem canon_scrubTiers (s : State) (x : Nat) :
    s₀.canon (s.scrubTiers x) = s₀.canonVia (s₀.canon s) (s.scrubTiers x) := by
  refine canon_via ?_
  unfold State.scrubTiers
  extract_lets sets s₁
  have h₁ : s.canon s₁ := by simp [s₁]
  refine h₁.via (canon_foldl (fun t n => ?_) _ _ _)
  extract_lets segs u
  have hu : t.canon u := by simp [u]
  clear_value u segs
  cases segs <;> simp [hu]

@[simp] theorem canon_nearScrubbed (s : State) (n : Nat) :
    s₀.canon (s.nearScrubbed n) = s₀.canonVia (s₀.canon s) (s.nearScrubbed n) := by
  refine canon_via ?_
  unfold State.nearScrubbed
  extract_lets a ch s₁
  have h₁ : s.canon s₁ := canon_near (canon_refl s) (Memory.wf_filter · _)
  split <;> simp [h₁]

@[simp] theorem canon_returnScrubbed (s : State) :
    s₀.canon s.returnScrubbed = s₀.canonVia (s₀.canon s) s.returnScrubbed :=
  canon_via (canon_if ((canon_refl _).via (canon_setFld ..)) (canon_refl _))

@[simp] theorem canon_reachScrubbed (s : State) (n : Nat) :
    s₀.canon (s.reachScrubbed n) = s₀.canonVia (s₀.canon s) (s.reachScrubbed n) := by
  refine canon_via ?_
  unfold State.reachScrubbed
  extract_lets a segs ds s₁ s₂ s₃
  have h₁ : s.canon s₁ := canon_reach (canon_refl s) (Memory.wf_filter · _)
  split <;> simp [s₂, s₃, h₁]

/-! Chains of routers. -/

@[simp] theorem canon_unitSignaller (s : State) :
    s₀.canon s.unitSignaller.2 = s₀.canonVia (s₀.canon s) s.unitSignaller.2 := canon_via id

@[simp] theorem canon_unitSignal (s : State) (ctx : Option Nat) (vid : Nat) :
    s₀.canon (s.unitSignal ctx vid) = s₀.canonVia (s₀.canon s) (s.unitSignal ctx vid) := by
  refine canon_via ?_
  simp only [State.unitSignal]
  repeat' split
  all_goals simp

@[simp] theorem canon_wrSec (s : State) (x : Option Nat) (a : Nat) (d : Sector) (be : Word32) :
    s₀.canon (s.wrSec x a d be) = s₀.canonVia (s₀.canon s) (s.wrSec x a d be) := canon_via (by unfold State.wrSec; split <;> simp)

@[simp] theorem canon_wrBytes (s : State) (x : Option Nat) (a : Nat) (bs : List Byte) :
    s₀.canon (s.wrBytes x a bs) = s₀.canonVia (s₀.canon s) (s.wrBytes x a bs) :=
  canon_via ((canon_refl _).via (canon_foldl (fun _ _ => (canon_refl _).via (canon_wrSec ..)) ..))

@[simp] theorem canon_setChain (s : State) (g c : Nat) (x : ChainState) :
    s₀.canon (s.setChain g c x) = s₀.canonVia (s₀.canon s) (s.setChain g c x) := canon_via id

@[simp] theorem canon_chainErr (s : State) (e : ChainCfg) (code : Nat) :
    s₀.canon (s.chainErr e code) = s₀.canonVia (s₀.canon s) (s.chainErr e code) :=
  canon_via ((canon_refl _).via (canon_portErr ..))

@[simp] theorem canon_noteWrote (s : State) (a : Nat) (be : Word32) :
    s₀.canon (s.noteWrote a be) = s₀.canonVia (s₀.canon s) (s.noteWrote a be) :=
  canon_via ((canon_refl _).via (canon_foldl (fun _ _ => canon_if ((canon_refl _).via (canon_setChain ..)) (canon_refl _))
    ..))

@[simp] theorem canon_chainWrite (s : State) (e : ChainCfg) (ws : List (Nat × Sector × Word32)) :
    s₀.canon (s.chainWrite e ws) = s₀.canonVia (s₀.canon s) (s.chainWrite e ws) :=
  canon_via (by unfold State.chainWrite; split <;> simp)

@[simp] theorem canon_tailFlag (s : State) (e : ChainCfg) (pos : Nat) (flag : Bool) (batch : Nat × Nat) :
    s₀.canon (s.tailFlag e pos flag batch) = s₀.canonVia (s₀.canon s) (s.tailFlag e pos flag batch) :=
  canon_via (canon_if ((canon_refl _).via (canon_setChain ..)) (((canon_refl _).via (canon_setChain ..)).via
    (canon_chainWrite ..)))

@[simp] theorem canon_chainOut (s : State) (e : ChainCfg) (pos addr : Nat) (d : Sector) (flag : Bool) (number : Nat)
    (batch : Nat × Nat) :
    s₀.canon (s.chainOut e pos addr d flag number batch) = s₀.canonVia (s₀.canon s) (s.chainOut e pos addr d flag number batch) :=
  canon_via (canon_if (canon_if ((canon_refl _).via (canon_setChain ..)) (canon_if (((canon_refl _).via (canon_chainWrite
    ..)).via (canon_tailFlag ..)) ((canon_refl _).via (canon_chainWrite ..)))) ((canon_mk ..).mpr ((canon_refl _).via
    (canon_nirloSend ..)).mems))

@[simp] theorem canon_doneSignal (s : State) (e : ChainCfg) :
    s₀.canon (s.doneSignal e) = s₀.canonVia (s₀.canon s) (s.doneSignal e) :=
  canon_via (canon_if ((canon_refl _).via (canon_unitSignal ..)) (canon_refl _))

@[simp] theorem canon_commitSlot (s : State) (e : ChainCfg) (l : ChainIn) (late : Bool) :
    s₀.canon (s.commitSlot e l late) = s₀.canonVia (s₀.canon s) (s.commitSlot e l late) := by
  refine canon_via ?_
  unfold State.commitSlot
  split
  · exact canon_refl s
  · extract_lets x used s₁ qs s₂ s₃ s₄
    have h₁ : s.canon s₁ := (canon_refl s).via (canon_wrSec ..)
    have h₂ : s.canon s₂ := by
      unfold s₂
      split
      · exact h₁.via (canon_foldl (fun t j => (canon_refl t).via (canon_wrSec ..)) ..)
      · exact h₁
    have h₃ : s.canon s₃ := by
      unfold s₃
      split <;> simp [h₂]
    have h₄ : s.canon s₄ := by
      unfold s₄
      split
      · simp [h₃]
      · simp [h₃]
      · split <;> simp [h₃]
    exact h₄.via (canon_doneSignal ..)

@[simp] theorem canon_chainPair (s : State) (e : ChainCfg) (p l : ChainIn) :
    s₀.canon (s.chainPair e p l) = s₀.canonVia (s₀.canon s) (s.chainPair e p l) :=
  canon_via ((canon_if (((canon_refl _).via (canon_commitSlot ..)).via (canon_bump ..)) ((canon_refl _).via (canon_commitSlot
    ..))).via (canon_chainOut ..))

@[simp] theorem canon_chainSkip (s : State) (e : ChainCfg) (p : ChainIn) :
    s₀.canon (s.chainSkip e p) = s₀.canonVia (s₀.canon s) (s.chainSkip e p) :=
  canon_via ((((canon_refl _).via (canon_setChain ..)).via (canon_bump ..)).via (canon_chainOut ..))

@[simp] theorem canon_chainLocal (s : State) (e : ChainCfg) (l : ChainIn) :
    s₀.canon (s.chainLocal e l) = s₀.canonVia (s₀.canon s) (s.chainLocal e l) := by
  refine canon_via ?_
  simp only [State.chainLocal]
  repeat' split
  all_goals simp

@[simp] theorem canon_chainPartialSec (s : State) (e : ChainCfg) (addr : Nat) (d : Sector) (flag : Bool) (batch : Nat × Nat) :
    s₀.canon (s.chainPartialSec e addr d flag batch) = s₀.canonVia (s₀.canon s) (s.chainPartialSec e addr d flag batch) := by
  refine canon_via ?_
  simp only [State.chainPartialSec]
  repeat' split
  all_goals simp

@[simp] theorem canon_quietDrop (s : State) :
    s₀.canon s.quietDrop = s₀.canonVia (s₀.canon s) s.quietDrop := canon_via id

@[simp] theorem canon_nirloIn (s : State) (p : Nat) (m : Msg) (kinds : List Nat) {f : State → State}
    (h : ∀ t : State, t.canon (f t)) :
    s₀.canon (s.nirloIn p m kinds f) = s₀.canonVia (s₀.canon s) (s.nirloIn p m kinds f) :=
  canon_via (by simp [State.nirloIn, canon_via (h _)])

@[simp] theorem canon_chainFeed (e : ChainCfg) (batch : Nat × Nat) (l : List (Nat × Sector × Word32 × Bool)) (s : State) :
    s₀.canon (chainFeed e batch l s).2 = s₀.canonVia (s₀.canon s) (chainFeed e batch l s).2 := by
  refine canon_via ?_
  induction l generalizing s with
  | nil => exact canon_refl _
  | cons x l ih =>
    unfold chainFeed
    split <;> simp [canon_via (ih _)]

@[simp] theorem canon_partialIn (s : State) (e : ChainCfg) (p : Nat) (m : Msg) :
    s₀.canon (s.partialIn e p m) = s₀.canonVia (s₀.canon s) (s.partialIn e p m) := canon_via (by simp [State.partialIn])

@[simp] theorem canon_chainPartial (s : State) (p : Nat) (m : Msg) :
    s₀.canon (s.chainPartial p m) = s₀.canonVia (s₀.canon s) (s.chainPartial p m) :=
  canon_via (by unfold State.chainPartial; split <;> simp)

@[simp] theorem canon_chainTake (s : State) (f : RedFlit) :
    s₀.canon (s.chainTake f) = s₀.canonVia (s₀.canon s) (s.chainTake f) :=
  canon_via (((canon_mk ..).mpr (canon_refl _).mems).via (canon_foldl (fun _ _ => (canon_refl _).via (canon_notice ..)) ..))

@[simp] theorem canon_chainLocalSector (s : State) (g tag addr : Nat) (d : Sector) :
    s₀.canon (s.chainLocalSector g tag addr d) = s₀.canonVia (s₀.canon s) (s.chainLocalSector g tag addr d) := by
  refine canon_via ?_
  simp only [State.chainLocalSector]
  repeat' split
  all_goals simp

@[simp] theorem canon_chainDeadline (s : State) (g c : Nat) :
    s₀.canon (s.chainDeadline g c) = s₀.canonVia (s₀.canon s) (s.chainDeadline g c) :=
  canon_via (by unfold State.chainDeadline; split <;> simp)

@[simp] theorem canon_shareSlot (s : State) (g c addr : Nat) (xs : List Sector) :
    s₀.canon (s.shareSlot g c addr xs) = s₀.canonVia (s₀.canon s) (s.shareSlot g c addr xs) := by
  refine canon_via ?_
  simp only [State.shareSlot]
  repeat' split
  all_goals simp

@[simp] theorem canon_settleSlot (s : State) (g c addr : Nat) (sum : Sector) :
    s₀.canon (s.settleSlot g c addr sum) = s₀.canonVia (s₀.canon s) (s.settleSlot g c addr sum) := by
  refine canon_via ?_
  simp only [State.settleSlot]
  repeat' split
  all_goals simp

@[simp] theorem canon_checkSlot (s : State) (g c addr : Nat) (d : Sector) :
    s₀.canon (s.checkSlot g c addr d) = s₀.canonVia (s₀.canon s) (s.checkSlot g c addr d) := by
  refine canon_via ?_
  simp only [State.checkSlot]
  repeat' split
  all_goals simp

@[simp] theorem canon_checkCompare (s : State) (g c k : Nat) (sum : Sector) (flag : Bool) :
    s₀.canon (s.checkCompare g c k sum flag) = s₀.canonVia (s₀.canon s) (s.checkCompare g c k sum flag) :=
  canon_via (by unfold State.checkCompare; split <;> simp)

@[simp] theorem canon_chainsFresh (s : State) :
    s₀.canon s.chainsFresh = s₀.canonVia (s₀.canon s) s.chainsFresh := canon_via id

/-! The Nirlo ports and their messages. -/

@[simp] theorem canon_linkFail (s : State) (p : Nat) :
    s₀.canon (s.linkFail p) = s₀.canonVia (s₀.canon s) (s.linkFail p) :=
  canon_via (canon_if (((((((canon_refl _).via (canon_setPort ..)).via (canon_setPortState ..)).via (canon_bump ..)).via
    (canon_setReg ..)).via (canon_portErr ..)).via (canon_deviceReport ..)) ((((((canon_refl _).via (canon_setPort ..)).via
    (canon_setPortState ..)).via (canon_bump ..)).via (canon_setReg ..)).via (canon_portErr ..)))

@[simp] theorem canon_quietCheck (s : State) :
    s₀.canon s.quietCheck = s₀.canonVia (s₀.canon s) s.quietCheck :=
  canon_via (canon_if ((canon_mk ..).mpr ((canon_refl _).via (canon_emit ..)).mems) (canon_refl _))

@[simp] theorem canon_replayPort (s : State) (p : Nat) :
    s₀.canon (s.replayPort p) = s₀.canonVia (s₀.canon s) (s.replayPort p) :=
  canon_via (canon_if ((canon_if (((canon_refl _).via (canon_setPort ..)).via (canon_bump ..)) ((((canon_refl _).via
    (canon_setPort ..)).via (canon_bump ..)).via (canon_irrepro ..))).via (canon_linkFail ..)) ((canon_if (((canon_refl
    _).via (canon_setPort ..)).via (canon_bump ..)) ((((canon_refl _).via (canon_setPort ..)).via (canon_bump ..)).via
    (canon_irrepro ..))).via (canon_foldl (fun _ _ => (canon_refl _).via (canon_emit ..)) ..)))

@[simp] theorem canon_msgArrive (s : State) (p : Nat) (m : Msg) :
    s₀.canon (s.msgArrive p m) = s₀.canonVia (s₀.canon s) (s.msgArrive p m) :=
  canon_via (canon_if ((canon_refl _).via (canon_setPort ..)) (canon_if (((canon_refl _).via (canon_setPort ..)).via
    (canon_rxTake ..)) (canon_if ((((canon_refl _).via (canon_setPort ..)).via (canon_rxTake ..)).via (canon_quietDrop ..))
    ((canon_refl _).via (canon_setPort ..)))))

@[simp] theorem canon_slotTake (s : State) (p : Nat) (x : Slot) :
    s₀.canon (s.slotTake p x) = s₀.canonVia (s₀.canon s) (s.slotTake p x) := by
  refine canon_via ?_
  simp only [State.slotTake]
  repeat' split
  all_goals simp

@[simp] theorem canon_ackTake (s : State) (p : Nat) (f : Flit) :
    s₀.canon (s.ackTake p f) = s₀.canonVia (s₀.canon s) (s.ackTake p f) :=
  canon_via (canon_if (((canon_refl _).via (canon_setPort ..)).via (canon_replayPort ..)) ((canon_refl _).via (canon_setPort
    ..)))

@[simp] theorem canon_flitTake (s : State) (p : Nat) (f : Flit) :
    s₀.canon (s.flitTake p f) = s₀.canonVia (s₀.canon s) (s.flitTake p f) :=
  canon_via (canon_if (((((((canon_refl _).via (canon_setPort ..)).via (canon_setFld ..)).via (canon_foldl (fun _ _ =>
    (canon_refl _).via (canon_slotTake ..)) ..)).via (canon_ackTake ..)).via (canon_portDrain ..)).via (canon_portTell ..))
    ((((((canon_refl _).via (canon_setPort ..)).via (canon_setFld ..)).via (canon_foldl (fun _ _ => (canon_refl _).via
    (canon_slotTake ..)) ..)).via (canon_ackTake ..)).via (canon_portDrain ..)))

@[simp] theorem canon_flitReceive (s : State) (p : Nat) (f : Flit) :
    s₀.canon (s.flitReceive p f) = s₀.canonVia (s₀.canon s) (s.flitReceive p f) := canon_via (by simp [State.flitReceive])

@[simp] theorem canon_portTrain (s : State) (p : Nat) :
    s₀.canon (s.portTrain p) = s₀.canonVia (s₀.canon s) (s.portTrain p) :=
  canon_via (canon_if (canon_refl _) (((((canon_refl _).via (canon_setPort ..)).via (canon_setFld ..)).via (canon_setFld
    ..)).via (canon_setPortState ..)))

@[simp] theorem canon_keepTraining (s : State) (u : Nat) (t : Trained) :
    s₀.canon (s.keepTraining u t) = s₀.canonVia (s₀.canon s) (s.keepTraining u t) := canon_via id

@[simp] theorem canon_keepPort (s : State) (p : Nat) (temp : Byte) (values : Word) :
    s₀.canon (s.keepPort p temp values) = s₀.canonVia (s₀.canon s) (s.keepPort p temp values) :=
  canon_via (canon_if (canon_refl _) ((canon_refl _).via (canon_keepTraining ..)))

@[simp] theorem canon_margDone (s : State) (p : Nat) :
    s₀.canon (s.margDone p) = s₀.canonVia (s₀.canon s) (s.margDone p) :=
  canon_via (canon_if (((canon_refl _).via (canon_setFld ..)).via (canon_setPort ..)) (canon_refl _))

@[simp] theorem canon_portUp (s : State) (p : Nat) :
    s₀.canon (s.portUp p) = s₀.canonVia (s₀.canon s) (s.portUp p) :=
  canon_via ((canon_if ((((canon_refl _).via (canon_setReg ..)).via (canon_setPortState ..)).via (canon_setFld ..))
    (((canon_refl _).via (canon_setReg ..)).via (canon_setPortState ..))).via (canon_margDone ..))

@[simp] theorem canon_capExchange (s : State) (p : Nat) (word : Word) :
    s₀.canon (s.capExchange p word) = s₀.canonVia (s₀.canon s) (s.capExchange p word) := by
  refine canon_via ?_
  simp only [State.capExchange]
  repeat' split
  all_goals simp

@[simp] theorem canon_portBoundary (s : State) (p : Nat) :
    s₀.canon (s.portBoundary p) = s₀.canonVia (s₀.canon s) (s.portBoundary p) :=
  canon_via (canon_if (canon_if (canon_refl _) (((((canon_refl _).via (canon_setPort ..)).via (canon_setReg ..)).via
    (canon_setFld ..)).via (canon_setPortState ..))) (canon_if (canon_if (((canon_refl _).via (canon_setFld ..)).via
    (canon_portTrain ..)) ((canon_refl _).via (canon_setFld ..))) (canon_if (canon_if ((canon_refl _).via (canon_setFld ..))
    (canon_refl _)) (canon_if ((canon_refl _).via (canon_setFld ..)) (canon_refl _)))))

@[simp] theorem canon_nirloBoundary (s : State) :
    s₀.canon s.nirloBoundary = s₀.canonVia (s₀.canon s) s.nirloBoundary :=
  canon_via ((canon_mk ..).mpr (((canon_refl _).via (canon_applyHeld ..)).via (canon_foldl (fun _ _ => (canon_refl _).via
    (canon_portBoundary ..)) ..)).mems)

@[simp] theorem canon_nirloMarginGo (s : State) (p : Nat) (v : Word32) :
    s₀.canon (s.nirloMarginGo p v) = s₀.canonVia (s₀.canon s) (s.nirloMarginGo p v) :=
  canon_via (canon_if ((canon_refl _).via (canon_putFlds ..)) (canon_if ((((canon_refl _).via (canon_putFlds ..)).via
    (canon_setFld ..)).via (canon_portErr ..)) (canon_if (((canon_refl _).via (canon_putFlds ..)).via (canon_setFld ..))
    (canon_if (((canon_refl _).via (canon_putFlds ..)).via (canon_setFld ..)) ((((canon_refl _).via (canon_putFlds ..)).via
    (canon_setFld ..)).via (canon_setPortState ..))))))

@[simp] theorem canon_writeMsgSec (s : State) (p : Nat) (m : Msg) (a : Nat) (d : Sector) (be : Word32) :
    s₀.canon (s.writeMsgSec p m a d be) = s₀.canonVia (s₀.canon s) (s.writeMsgSec p m a d be) := by
  refine canon_via ?_
  simp only [State.writeMsgSec]
  repeat' split
  all_goals simp

@[simp] theorem canon_readMsgSecs (ls : List (Option Loc)) (s : State) :
    s₀.canon (readMsgSecs ls s).2 = s₀.canonVia (s₀.canon s) (readMsgSecs ls s).2 := by
  refine canon_via ?_
  induction ls generalizing s with
  | nil => exact canon_refl _
  | cons x ls ih =>
    cases x with
    | none => simp [readMsgSecs, canon_via (ih _)]
    | some l =>
      unfold readMsgSecs
      split <;> next h => simp [canon_via (ih _), canon_fst h]

theorem canonOut_execNirloReadRequest (p : Port) (m : Msg) (s : State) : s.canonOut (execNirloReadRequest p m s) := by
  simp only [execNirloReadRequest, canonOut_next]
  refine (canon_refl s).via (canon_holdFor _ _ _ ((canon_refl s).via (canon_nirloIn _ _ _ _ fun t => ?_)))
  split <;> next h => simp [canon_snd h]

end Sys2Proof.Machine
end

section
/-! PROOFS. Memories stay in their canonical form (R169, R217, R224): power, the tables, step control, routing and
images. -/

namespace Sys2Proof.Machine

open Sys2Proof

variable {s₀ : State}

/-! Power states, clocks and caps. -/

@[simp] theorem canon_pwrErr (s : State) (code loc : Nat) :
    s₀.canon (s.pwrErr code loc) = s₀.canonVia (s₀.canon s) (s.pwrErr code loc) := canon_via (by simp [State.pwrErr])

@[simp] theorem canon_driveRails (s : State) (q core sram : Nat) :
    s₀.canon (s.driveRails q core sram) = s₀.canonVia (s₀.canon s) (s.driveRails q core sram) := canon_via id

@[simp] theorem canon_retarget (s : State) (q : Nat) :
    s₀.canon (s.retarget q) = s₀.canonVia (s₀.canon s) (s.retarget q) :=
  canon_via (canon_if (canon_refl _) (canon_if (((((canon_refl _).via (canon_setFld ..)).via (canon_setFld ..)).via
    (canon_driveRails ..)).via (canon_setFld ..)) ((((canon_refl _).via (canon_setFld ..)).via (canon_setFld ..)).via
    (canon_driveRails ..))))

@[simp] theorem canon_retargetAll (s : State) :
    s₀.canon s.retargetAll = s₀.canonVia (s₀.canon s) s.retargetAll :=
  canon_via ((canon_refl _).via (canon_foldl (fun _ _ => (canon_refl _).via (canon_retarget ..)) ..))

@[simp] theorem canon_showCap (s : State) (q : Nat) :
    s₀.canon (s.showCap q) = s₀.canonVia (s₀.canon s) (s.showCap q) :=
  canon_via ((((canon_refl _).via (canon_setFld ..)).via (canon_setFld ..)).via (canon_retarget ..))

@[simp] theorem canon_restartPatterns (s : State) :
    s₀.canon s.restartPatterns = s₀.canonVia (s₀.canon s) s.restartPatterns := canon_via id

@[simp] theorem canon_railsFollow (s : State) :
    s₀.canon s.railsFollow = s₀.canonVia (s₀.canon s) s.railsFollow :=
  canon_via ((canon_refl _).via (canon_foldl (fun _ _ => (canon_refl _).via (canon_driveRails ..)) ..))

@[simp] theorem canon_applyOvr (s : State) :
    s₀.canon s.applyOvr = s₀.canonVia (s₀.canon s) s.applyOvr :=
  canon_via ((((canon_refl _).via (canon_applyHeld ..)).via (canon_foldl (fun _ _ => canon_if ((canon_refl _).via
    (canon_pwrErr ..)) (canon_refl _)) ..)).via (canon_retargetAll ..))

@[simp] theorem canon_patternBoundary (s : State) :
    s₀.canon s.patternBoundary = s₀.canonVia (s₀.canon s) s.patternBoundary :=
  canon_via (canon_if ((canon_if (canon_refl _) ((canon_refl _).via (canon_applyOvr ..))).via (canon_restartPatterns ..))
    (((canon_if (canon_refl _) ((canon_refl _).via (canon_applyOvr ..))).via (canon_restartPatterns ..)).via
    (canon_railsFollow ..)))

@[simp] theorem canon_oppSettle (s : State) (q : Nat) :
    s₀.canon (s.oppSettle q) = s₀.canonVia (s₀.canon s) (s.oppSettle q) := canon_via (by
  unfold State.oppSettle
  extract_lets a t s₁ s₂
  have h₁ : s.canon s₁ := ((canon_refl s).via (canon_setFld ..)).via (canon_setFld ..)
  have h₂ : s.canon s₂ := h₁.via (canon_setFld ..)
  exact canon_if ((canon_mk ..).mpr h₂.mems) (canon_refl s))

@[simp] theorem canon_coresLost (s : State) :
    s₀.canon s.coresLost = s₀.canonVia (s₀.canon s) s.coresLost :=
  canon_via (canon_spad (s := s.unsetRegs _) (by simp) fun _ => Memory.wf_nil)

@[simp] theorem canon_railsOff (s : State) :
    s₀.canon s.railsOff = s₀.canonVia (s₀.canon s) s.railsOff := canon_via id

@[simp] theorem canon_tripNow (s : State) (kind code loc : Nat) :
    s₀.canon (s.tripNow kind code loc) = s₀.canonVia (s₀.canon s) (s.tripNow kind code loc) :=
  canon_via (canon_if (canon_refl _) ((canon_mk ..).mpr ((((canon_refl _).via (canon_pwrErr ..)).via (canon_railsOff ..)).via
    (canon_coresLost ..)).mems))

@[simp] theorem canon_clockLoss (s : State) (xb : Bool) :
    s₀.canon (s.clockLoss xb) = s₀.canonVia (s₀.canon s) (s.clockLoss xb) := canon_via (by
  unfold State.clockLoss
  extract_lets lock s₁ b pb a pa
  have h₁ : s.canon s₁ := (canon_refl s).via (canon_clkErr ..)
  have hb : s.canon b := (h₁.via (canon_setFld ..)).via (canon_setFld ..)
  have ha : s.canon a := (h₁.via (canon_setFld ..)).via (canon_setFld ..)
  split
  · simp [pb, hb]
  · simp [pa, ha])

@[simp] theorem canon_throttled (s : State) (code : Nat) (logged : Bool) :
    s₀.canon (s.throttled code logged) = s₀.canonVia (s₀.canon s) (s.throttled code logged) :=
  canon_via (canon_if (canon_if (((canon_refl _).via (canon_setFld ..)).via (canon_irrepro ..)) ((((canon_refl _).via
    (canon_setFld ..)).via (canon_irrepro ..)).via (canon_pwrErr ..))) (canon_refl _))

@[simp] theorem canon_powerCap (s : State) (raise : Bool) :
    s₀.canon (s.powerCap raise) = s₀.canonVia (s₀.canon s) (s.powerCap raise) :=
  canon_via (canon_if (((canon_mk ..).mpr (((canon_refl _).via (canon_bump ..)).via (canon_throttled ..)).mems).via
    (canon_foldl (fun _ _ => (canon_refl _).via (canon_showCap ..)) ..)) (canon_if (((canon_mk ..).mpr (canon_refl
    _).mems).via (canon_foldl (fun _ _ => (canon_refl _).via (canon_showCap ..)) ..)) (canon_refl _)))

@[simp] theorem canon_thermalSample (s : State) (ts : List Byte) :
    s₀.canon (s.thermalSample ts) = s₀.canonVia (s₀.canon s) (s.thermalSample ts) := canon_via (by
  unfold State.thermalSample
  extract_lets h a s₁ thr of p s₂
  have h₁ : s.canon s₁ := (((canon_refl s).via (canon_setFld ..)).via (canon_setFld ..)).via (canon_setFld ..)
  have h₂ : s.canon s₂ := (canon_mk ..).mpr h₁.mems
  exact canon_if (h₂.via (canon_tripNow ..)) h₂)

@[simp] theorem canon_thermalCap (s : State) (q : Nat) (raise : Bool) :
    s₀.canon (s.thermalCap q raise) = s₀.canonVia (s₀.canon s) (s.thermalCap q raise) :=
  canon_via (canon_if (((canon_mk ..).mpr (((canon_refl _).via (canon_bump ..)).via (canon_throttled ..)).mems).via
    (canon_showCap ..)) (canon_if (((canon_mk ..).mpr (canon_refl _).mems).via (canon_showCap ..)) (canon_refl _)))

@[simp] theorem canon_pmbusPoll (s : State) (r : Nat) (answered fault pgood : Bool) (mv : Nat) :
    s₀.canon (s.pmbusPoll r answered fault pgood mv) = s₀.canonVia (s₀.canon s) (s.pmbusPoll r answered fault pgood mv) :=
  canon_via (by
  have hput (n : Nat) {t : State} (ht : s.canon t) :
      s.canon { t with power := { t.power with missed := t.power.missed.set r n } } := (canon_mk ..).mpr ht.mems
  unfold State.pmbusPoll
  extract_lets a put s₁ n s₂
  have h₁ : s.canon s₁ := hput 0 (((canon_refl s).via (canon_setFld ..)).via (canon_setFld ..))
  have h₂ : s.canon s₂ := hput n (canon_refl s)
  exact canon_if (canon_if ((h₁.via (canon_setFld ..)).via (canon_tripNow ..)) h₁)
    (canon_if ((h₂.via (canon_setFld ..)).via (canon_tripNow ..)) h₂))

@[simp] theorem canon_showAllowed (s : State) :
    s₀.canon s.showAllowed = s₀.canonVia (s₀.canon s) s.showAllowed := canon_via id

@[simp] theorem canon_powerEntry (s : State) :
    s₀.canon s.powerEntry = s₀.canonVia (s₀.canon s) s.powerEntry :=
  canon_via (canon_if (((canon_refl _).via (canon_setFld ..)).via (canon_setFld ..)) (canon_refl _))

@[simp] theorem canon_fullEnds (s : State) :
    s₀.canon s.fullEnds = s₀.canonVia (s₀.canon s) s.fullEnds :=
  canon_via (canon_if (((canon_refl _).via (canon_setFld ..)).via (canon_setFld ..)) (canon_refl _))

@[simp] theorem canon_debugEnds (s : State) :
    s₀.canon s.debugEnds = s₀.canonVia (s₀.canon s) s.debugEnds := canon_via id

@[simp] theorem canon_selfRefresh (s : State) (v : Nat) :
    s₀.canon (s.selfRefresh v) = s₀.canonVia (s₀.canon s) (s.selfRefresh v) := canon_via id

@[simp] theorem canon_powerEntered (s : State) :
    s₀.canon s.powerEntered = s₀.canonVia (s₀.canon s) s.powerEntered := canon_via (by simp [State.powerEntered])

@[simp] theorem canon_latTolWrite (s : State) (fn ns : Nat) :
    s₀.canon (s.latTolWrite fn ns) = s₀.canonVia (s₀.canon s) (s.latTolWrite fn ns) :=
  canon_via (canon_if ((((canon_refl _).via (canon_setReg ..)).via (canon_showAllowed ..)).via (canon_wake ..)) (((canon_refl
    _).via (canon_setReg ..)).via (canon_showAllowed ..)))

/-! The profiler. -/

@[simp] theorem canon_setLog (s : State) (i : Nat) (h : Hash) :
    s₀.canon (s.setLog i h) = s₀.canonVia (s₀.canon s) (s.setLog i h) := canon_via id

@[simp] theorem canon_showProfiles (s : State) :
    s₀.canon s.showProfiles = s₀.canonVia (s₀.canon s) s.showProfiles := canon_via id

@[simp] theorem canon_takeProfile (s : State) (p : Nat) :
    s₀.canon (s.takeProfile p) = s₀.canonVia (s₀.canon s) (s.takeProfile p) :=
  canon_via ((((((canon_mk ..).mpr ((canon_refl _).via (canon_setFld ..)).mems).via (canon_setFld ..)).via (canon_setFld
    ..)).via (canon_setLog ..)).via (canon_retargetAll ..))

@[simp] theorem canon_profLoad (s : State) (f : Profile) :
    s₀.canon (s.profLoad f) = s₀.canonVia (s₀.canon s) (s.profLoad f) := canon_via (by unfold State.profLoad; split <;> simp)

@[simp] theorem canon_profSwitch (s : State) :
    s₀.canon s.profSwitch = s₀.canonVia (s₀.canon s) s.profSwitch := canon_via (by simp [State.profSwitch])

/-! The tables of steps and headers. -/

@[simp] theorem canon_putItem (s : State) (x : Item) :
    s₀.canon (s.putItem x) = s₀.canonVia (s₀.canon s) (s.putItem x) := canon_via (by unfold State.putItem; split <;> simp)

@[simp] theorem canon_putItems (s : State) (l : List Item) :
    s₀.canon (s.putItems l) = s₀.canonVia (s₀.canon s) (s.putItems l) :=
  canon_via ((canon_refl _).via (canon_foldl (fun _ _ => (canon_refl _).via (canon_putItem ..)) ..))

@[simp] theorem canon_residentPut (s : State) (a : Nat) (ds : List Sector) :
    s₀.canon (s.residentPut a ds) = s₀.canonVia (s₀.canon s) (s.residentPut a ds) := by
  refine canon_via ?_
  induction ds generalizing a s with
  | nil => exact canon_refl _
  | cons d ds ih =>
    unfold State.residentPut
    extract_lets s₁
    have h₁ : s.canon s₁ := by
      simp only [s₁]
      split <;> simp
    exact h₁.trans (ih _ _)

@[simp] theorem canon_residentSec (s : State) (a : Nat) :
    s₀.canon (s.residentSec a).1 = s₀.canonVia (s₀.canon s) (s.residentSec a).1 := by
  refine canon_via ?_
  unfold State.residentSec
  split
  · exact canon_refl _
  · split <;> next h => simp [canon_fst h]

@[simp] theorem canon_residentItems (n a : Nat) (s : State) :
    s₀.canon (State.residentItems n a s).1 = s₀.canonVia (s₀.canon s) (State.residentItems n a s).1 := by
  refine canon_via ?_
  induction n generalizing a s with
  | zero => exact canon_refl _
  | succ n ih =>
    unfold State.residentItems
    split
    next h =>
      split
      · simp [canon_fst h]
      · split
        next h' => simp [canon_via (ih _ _), canon_fst h', canon_fst h]

@[simp] theorem canon_resident (s : State) :
    s₀.canon s.resident.1 = s₀.canonVia (s₀.canon s) s.resident.1 := canon_via (by simp [State.resident])

@[simp] theorem canon_reload (s : State) (x : Nat) :
    s₀.canon (s.reload x) = s₀.canonVia (s₀.canon s) (s.reload x) := canon_via (by simp [State.reload])

@[simp] theorem canon_loadEval (s : State) :
    s₀.canon s.loadEval = s₀.canonVia (s₀.canon s) s.loadEval := canon_via (by unfold State.loadEval; split <;> simp)

@[simp] theorem canon_unloadEval (s : State) :
    s₀.canon s.unloadEval = s₀.canonVia (s₀.canon s) s.unloadEval := canon_via (by simp [State.unloadEval])

/-! The manager of steps. -/

@[simp] theorem canon_relay (s : State) (m : OutMsg) :
    s₀.canon (s.relay m) = s₀.canonVia (s₀.canon s) (s.relay m) :=
  canon_via (canon_if (canon_refl _) ((canon_refl _).via (canon_emit ..)))

@[simp] theorem canon_relayUp (s : State) (rank : Nat) (m : OutMsg) :
    s₀.canon (s.relayUp rank m) = s₀.canonVia (s₀.canon s) (s.relayUp rank m) :=
  canon_via (canon_if (canon_refl _) ((canon_refl _).via (canon_emit ..)))

@[simp] theorem canon_modRun (s : State) (f : StepRun → StepRun) :
    s₀.canon (s.modRun f) = s₀.canonVia (s₀.canon s) (s.modRun f) := canon_via id

@[simp] theorem canon_modMgr (s : State) (f : Manager → Manager) :
    s₀.canon (s.modMgr f) = s₀.canonVia (s₀.canon s) (s.modMgr f) := canon_via id

@[simp] theorem canon_stepErr (s : State) (code dev : Nat) :
    s₀.canon (s.stepErr code dev) = s₀.canonVia (s₀.canon s) (s.stepErr code dev) := canon_via (by simp [State.stepErr])

@[simp] theorem canon_showPhase (s : State) (v : Nat) :
    s₀.canon (s.showPhase v) = s₀.canonVia (s₀.canon s) (s.showPhase v) := canon_via id

@[simp] theorem canon_clearDetectors (s : State) :
    s₀.canon s.clearDetectors = s₀.canonVia (s₀.canon s) s.clearDetectors := canon_via id

@[simp] theorem canon_verifySend (s : State) :
    s₀.canon s.verifySend = s₀.canonVia (s₀.canon s) s.verifySend :=
  canon_via (canon_if (canon_refl _) ((((canon_refl _).via (canon_emit ..)).via (canon_clearDetectors ..)).via (canon_modRun
    ..)))

@[simp] theorem canon_stepT0 (s : State) : s₀.canon s.stepT0 = s₀.canonVia (s₀.canon s) s.stepT0 :=
  canon_via (canon_if (canon_refl _) (canon_if ((canon_refl _).via (canon_modRun ..)) (canon_if (((((((canon_mk ..).mpr
    (canon_refl _).mems).via (canon_modRun ..)).via (canon_modRun ..)).via (canon_showPhase ..)).via (canon_retargetAll
    ..)).via (canon_unitSignal ..)) ((((((canon_mk ..).mpr (canon_refl _).mems).via (canon_modRun ..)).via (canon_modRun
    ..)).via (canon_showPhase ..)).via (canon_retargetAll ..)))))

@[simp] theorem canon_exchDeadlines (s : State) : s₀.canon s.exchDeadlines = s₀.canonVia (s₀.canon s) s.exchDeadlines := by
  refine canon_via ?_
  simp only [State.exchDeadlines]
  repeat' split
  all_goals simp

@[simp] theorem canon_stepBoundary (s : State) (next : Bool) :
    s₀.canon (s.stepBoundary next) = s₀.canonVia (s₀.canon s) (s.stepBoundary next) := canon_via (by
  unfold State.stepBoundary
  extract_lets n s₁ p s₂ s₃ t e s₄ s₅ s₆ s₇
  have h₁ : s.canon s₁ := (canon_refl s).via (canon_modMgr ..)
  have h₃ : s.canon s₃ := by simp [s₃, s₂, h₁]
  have ht : s.canon t := h₃.via (canon_setReg ..)
  have h₄ : s.canon s₄ := by
    unfold s₄
    split
    · simp [ht]
    · exact h₃
  have h₅ : s.canon s₅ := by simp [s₅, h₄]
  have h₆ : s.canon s₆ := h₅.via (canon_applyHeld ..)
  have h₇ : s.canon s₇ := by simp [s₇, h₆]
  split <;> simp [h₇])

@[simp] theorem canon_planMismatch (s : State) :
    s₀.canon s.planMismatch = s₀.canonVia (s₀.canon s) s.planMismatch := canon_via (by simp [State.planMismatch])

@[simp] theorem canon_startMessage (s : State) (m : StartMsg) :
    s₀.canon (s.startMessage m) = s₀.canonVia (s₀.canon s) (s.startMessage m) := canon_via (by
  unfold State.startMessage
  split
  · simp
  · extract_lets s₁ s₂ s₃ s₄ t g s₅ s₆ s₇ r s₈
    have h₁ : s.canon s₁ := by
      unfold s₁
      split <;> simp
    have h₃ : s.canon s₃ := by simp [s₃, s₂, h₁]
    have h₄ : s.canon s₄ := h₃.via (canon_modMgr ..)
    have ht : s.canon t := h₄.via (canon_setFld ..)
    have h₅ : s.canon s₅ := by
      unfold s₅
      split
      · simp [ht]
      · exact h₄
    have h₆ : s.canon s₆ := h₅.via (canon_clearDetectors ..)
    have h₇ : s.canon s₇ := h₆.via (canon_wrBytes ..)
    have h₈ : s.canon s₈ := by simp [s₈, h₇]
    split
    · exact (h₈.via (canon_modRun ..)).via (canon_stepT0 ..)
    · exact h₈)

@[simp] theorem canon_muster (s : State) : s₀.canon s.muster = s₀.canonVia (s₀.canon s) s.muster := canon_via (by
  unfold State.muster
  extract_lets s₁ p s₂
  have h₁ : s.canon s₁ := ((canon_refl s).via (canon_patternBoundary ..)).via (canon_setFld ..)
  have h₂ : s.canon s₂ := (canon_mk ..).mpr h₁.mems
  exact canon_if ((h₂.via (canon_modRun ..)).via (canon_stepT0 ..)) h₂)

@[simp] theorem canon_tryStart (s : State) :
    s₀.canon s.tryStart = s₀.canonVia (s₀.canon s) s.tryStart :=
  canon_via (canon_if (canon_refl _) (((canon_mk ..).mpr (canon_refl _).mems).via (canon_emit ..)))

@[simp] theorem canon_wantStep (s : State) :
    s₀.canon s.wantStep = s₀.canonVia (s₀.canon s) s.wantStep :=
  canon_via (canon_if (((canon_refl _).via (canon_modMgr ..)).via (canon_tryStart ..)) (canon_refl _))

@[simp] theorem canon_groupBit (s : State) (known all : Bool) :
    s₀.canon (s.groupBit known all).2 = s₀.canonVia (s₀.canon s) (s.groupBit known all).2 := by
  refine canon_via ?_
  simp only [State.groupBit]
  repeat' split
  all_goals exact id

@[simp] theorem canon_recordBytes (s : State) (e : StepEnd) :
    s₀.canon (s.recordBytes e).2 = s₀.canonVia (s₀.canon s) (s.recordBytes e).2 := by
  refine canon_via ?_
  unfold State.recordBytes
  extract_lets g dets ends all known vers shown nfApply ls kept unknown fw irr uns thr s₁
  have hfw : s.canon fw.2 := by simp [fw]
  have hirr : s.canon irr.2 := by
    simp only [irr]
    split <;> simp [hfw]
  have h₁ : s.canon s₁ := by simp [s₁, thr, uns, hirr]
  simp only [canon_mk, canon_eta, h₁]

@[simp] theorem canon_writeRecord (s : State) (e : StepEnd) :
    s₀.canon (s.writeRecord e) = s₀.canonVia (s₀.canon s) (s.writeRecord e) := canon_via (by simp [State.writeRecord])

@[simp] theorem canon_groupHalt (s : State) (applied incomplete : Bool) :
    s₀.canon (s.groupHalt applied incomplete) = s₀.canonVia (s₀.canon s) (s.groupHalt applied incomplete) :=
  canon_via ((((canon_if (canon_refl _) ((canon_refl _).via (canon_modMgr ..))).via (canon_writeRecord ..)).via (canon_emit
    ..)).via (canon_modMgr ..))

@[simp] theorem canon_repeatCause (s : State) (bit : Nat) :
    s₀.canon (s.repeatCause bit) = s₀.canonVia (s₀.canon s) (s.repeatCause bit) :=
  canon_via (canon_if ((canon_refl _).via (canon_modMgr ..)) (canon_if (canon_refl _) (canon_if (((((canon_refl _).via
    (canon_modMgr ..)).via (canon_modMgr ..)).via (canon_stepErr ..)).via (canon_groupHalt ..)) ((((canon_refl _).via
    (canon_modMgr ..)).via (canon_modMgr ..)).via (canon_emit ..)))))

@[simp] theorem canon_finishStep (s : State) (skipped : Bool) :
    s₀.canon (s.finishStep skipped) = s₀.canonVia (s₀.canon s) (s.finishStep skipped) :=
  canon_via (canon_if ((((canon_refl _).via (canon_writeRecord ..)).via (canon_modMgr ..)).via (canon_emit ..))
    ((((canon_refl _).via (canon_writeRecord ..)).via (canon_modMgr ..)).via (canon_wantStep ..)))

@[simp] theorem canon_checkFinish (s : State) :
    s₀.canon s.checkFinish = s₀.canonVia (s₀.canon s) s.checkFinish :=
  canon_via (canon_if ((canon_refl _).via (canon_finishStep ..)) (canon_refl _))

@[simp] theorem canon_learnLoss (s : State) (x : Nat) :
    s₀.canon (s.learnLoss x) = s₀.canonVia (s₀.canon s) (s.learnLoss x) := canon_via id

@[simp] theorem canon_stepDone (s : State) :
    s₀.canon s.stepDone = s₀.canonVia (s₀.canon s) s.stepDone :=
  canon_via (((((canon_if ((canon_refl _).via (canon_unloadEval ..)) (canon_refl _)).via (canon_verifySend ..)).via
    (canon_emit ..)).via (canon_stepBoundary ..)).via (canon_checkFinish ..))

@[simp] theorem canon_enterPhase (s : State) (prev : Nat) :
    s₀.canon (s.enterPhase prev) = s₀.canonVia (s₀.canon s) (s.enterPhase prev) := canon_via (by simp [State.enterPhase])

@[simp] theorem canon_phaseDone (s : State) (p : Nat) :
    s₀.canon (s.phaseDone p) = s₀.canonVia (s₀.canon s) (s.phaseDone p) :=
  canon_via (canon_if ((canon_refl _).via (canon_modRun ..)) (((canon_refl _).via (canon_modRun ..)).via (canon_enterPhase
    ..)))

@[simp] theorem canon_stepReleased (s : State) (h : Nat) :
    s₀.canon (s.stepReleased h) = s₀.canonVia (s₀.canon s) (s.stepReleased h) := by
  refine canon_via ?_
  simp only [State.stepReleased]
  repeat' split
  all_goals simp

@[simp] theorem canon_verdictCheck (s : State) :
    s₀.canon s.verdictCheck = s₀.canonVia (s₀.canon s) s.verdictCheck := canon_via (by unfold State.verdictCheck; split <;> simp)

@[simp] theorem canon_verifyArrived (s : State) (h : Nat) :
    s₀.canon (s.verifyArrived h) = s₀.canonVia (s₀.canon s) (s.verifyArrived h) :=
  canon_via (canon_if ((canon_refl _).via (canon_verifySend ..)) (canon_refl _))

@[simp] theorem canon_stopStepCores (s : State) :
    s₀.canon s.stopStepCores = s₀.canonVia (s₀.canon s) s.stopStepCores :=
  canon_via ((canon_refl _).via (canon_foldl (fun _ _ => canon_if ((canon_refl _).via (canon_stopCore ..)) (canon_refl _))
    ..))

@[simp] theorem canon_evalHalt (s : State) :
    s₀.canon s.evalHalt = s₀.canonVia (s₀.canon s) s.evalHalt :=
  canon_via (((((canon_refl _).via (canon_modMgr ..)).via (canon_stopStepCores ..)).via (canon_modRun ..)).via
    (canon_stepDone ..))

@[simp] theorem canon_hardTimeout (s : State) (p : Nat) :
    s₀.canon (s.hardTimeout p) = s₀.canonVia (s₀.canon s) (s.hardTimeout p) := canon_via (by simp [State.hardTimeout])

@[simp] theorem canon_reportArrives (s : State) (k : ReportKind) :
    s₀.canon (s.reportArrives k) = s₀.canonVia (s₀.canon s) (s.reportArrives k) :=
  canon_via (canon_if ((canon_refl _).via (canon_repeatCause ..)) (canon_if (canon_refl _) (canon_if ((canon_refl _).via
    (canon_repeatCause ..)) (canon_if (canon_refl _) (canon_if ((canon_refl _).via (canon_evalHalt ..)) ((canon_refl _).via
    (canon_groupHalt ..)))))))

@[simp] theorem canon_verifyArrives (s : State) (rank : Nat) (r : VerifyReport) :
    s₀.canon (s.verifyArrives rank r) = s₀.canonVia (s₀.canon s) (s.verifyArrives rank r) :=
  canon_via (canon_if (canon_refl _) (canon_if (((canon_refl _).via (canon_modMgr ..)).via (canon_verdictCheck ..))
    (((canon_refl _).via (canon_modMgr ..)).via (canon_checkFinish ..))))

@[simp] theorem canon_haltMessage (s : State) :
    s₀.canon s.haltMessage = s₀.canonVia (s₀.canon s) s.haltMessage :=
  canon_via ((canon_if (((canon_refl _).via (canon_stopStepCores ..)).via (canon_stepBoundary ..)) ((canon_refl _).via
    (canon_stopStepCores ..))).via (canon_setFld ..))

@[simp] theorem canon_resetCores (s : State) (x : Nat) :
    s₀.canon (s.resetCores x) = s₀.canonVia (s₀.canon s) (s.resetCores x) :=
  canon_via (((canon_refl _).via (canon_foldl (fun _ _ => (canon_refl _).via (canon_scrubCore ..)) ..)).via (canon_penKilled
    ..))

@[simp] theorem canon_repeatMessage (s : State) (again : Bool) :
    s₀.canon (s.repeatMessage again) = s₀.canonVia (s₀.canon s) (s.repeatMessage again) := by
  refine canon_via ?_
  simp only [State.repeatMessage]
  repeat' split
  all_goals simp

theorem canonOut_execRepeatMessage (k : RepeatKind) (s : State) : s.canonOut (execRepeatMessage k s) := by
  simp only [execRepeatMessage, canonOut_next]
  split <;> simp

@[simp] theorem canon_quietArrives (s : State) (rank : Nat) :
    s₀.canon (s.quietArrives rank) = s₀.canonVia (s₀.canon s) (s.quietArrives rank) :=
  canon_via (canon_if (canon_refl _) (canon_if (((canon_refl _).via (canon_modMgr ..)).via (canon_emit ..)) ((canon_refl
    _).via (canon_modMgr ..))))

theorem canonOut_execResumeMessage (s : State) : s.canonOut (execResumeMessage s) := by
  simp only [execResumeMessage, canonOut_next]
  split
  · split <;> simp
  · simp

@[simp] theorem canon_nextAttempt (s : State) :
    s₀.canon s.nextAttempt = s₀.canonVia (s₀.canon s) s.nextAttempt := canon_via id

@[simp] theorem canon_reloadDone (s : State) : s₀.canon s.reloadDone = s₀.canonVia (s₀.canon s) s.reloadDone := by
  refine canon_via ?_
  simp only [State.reloadDone]
  repeat' split
  all_goals simp

@[simp] theorem canon_groupHash (s : State) (grp : Nat) (h : Hash) :
    s₀.canon (s.groupHash grp h) = s₀.canonVia (s₀.canon s) (s.groupHash grp h) :=
  canon_via (canon_if ((canon_refl _).via (canon_modMgr ..)) (((canon_refl _).via (canon_modMgr ..)).via (canon_tryStart
    ..)))

@[simp] theorem canon_haltNow (s : State) : s₀.canon s.haltNow = s₀.canonVia (s₀.canon s) s.haltNow := by
  refine canon_via ?_
  simp only [State.haltNow]
  repeat' split
  all_goals simp

@[simp] theorem canon_timeSync (s : State) (offset : BitVec 8) :
    s₀.canon (s.timeSync offset) = s₀.canonVia (s₀.canon s) (s.timeSync offset) :=
  canon_via (canon_if ((canon_mk ..).mpr (canon_if ((((canon_refl _).via (canon_setFld ..)).via (canon_setFld ..)).via
    (canon_stepErr ..)) ((canon_refl _).via (canon_setFld ..))).mems) (canon_if ((((canon_refl _).via (canon_setFld ..)).via
    (canon_setFld ..)).via (canon_stepErr ..)) ((canon_refl _).via (canon_setFld ..))))

@[simp] theorem canon_tickAtLeast (s : State) (t : Nat) :
    s₀.canon (s.tickAtLeast t) = s₀.canonVia (s₀.canon s) (s.tickAtLeast t) := canon_via id

@[simp] theorem canon_tickAlign (s : State) (down : Bool) (t : Nat) :
    s₀.canon (s.tickAlign down t) = s₀.canonVia (s₀.canon s) (s.tickAlign down t) := canon_via (by
  unfold State.tickAlign
  extract_lets u m s₁ delay v s₂
  have hu : s.canon u := (canon_refl s).via (canon_tickAtLeast ..)
  have h₁ : s.canon s₁ := (canon_mk ..).mpr (canon_refl s).mems
  have hv : s.canon v := h₁.via (canon_tickAtLeast ..)
  have h₂ : s.canon s₂ := (canon_mk ..).mpr hv.mems
  exact canon_if (hu.via (canon_emit ..)) (canon_if (h₂.via (canon_emit ..)) (h₁.via (canon_emit ..))))

@[simp] theorem canon_profRefused (s : State) (sel : Nat) :
    s₀.canon (s.profRefused sel) = s₀.canonVia (s₀.canon s) (s.profRefused sel) :=
  canon_via ((canon_refl _).via (canon_report ..))

@[simp] theorem canon_profSchedule (s : State) (sel : Nat) :
    s₀.canon (s.profSchedule sel) = s₀.canonVia (s₀.canon s) (s.profSchedule sel) := canon_via (by simp [State.profSchedule])

@[simp] theorem canon_profCommand (s : State) (sel : Nat) (groupRuns : Bool) :
    s₀.canon (s.profCommand sel groupRuns) = s₀.canonVia (s₀.canon s) (s.profCommand sel groupRuns) :=
  canon_via (canon_if (((canon_refl _).via (canon_modMgr ..)).via (canon_emit ..)) (canon_if ((canon_refl _).via
    (canon_profRefused ..)) ((canon_refl _).via (canon_profSchedule ..))))

@[simp] theorem canon_profAnswer (s : State) (rank sel : Nat) (valid : Bool) :
    s₀.canon (s.profAnswer rank sel valid) = s₀.canonVia (s₀.canon s) (s.profAnswer rank sel valid) :=
  canon_via (canon_if (canon_refl _) (canon_if (((canon_refl _).via (canon_modMgr ..)).via (canon_profRefused ..)) (canon_if
    ((((canon_refl _).via (canon_modMgr ..)).via (canon_modMgr ..)).via (canon_emit ..)) ((canon_refl _).via (canon_modMgr
    ..)))))

/-! The commands of pennants and hoists. -/

@[simp] theorem canon_hostSignal (s : State) (fn : Nat) (v : Word32) :
    s₀.canon (s.hostSignal fn v) = s₀.canonVia (s₀.canon s) (s.hostSignal fn v) :=
  canon_via ((canon_refl _).via (canon_penHost ..))

@[simp] theorem canon_remoteSignal (s : State) (p : Nat) (m : Msg) :
    s₀.canon (s.remoteSignal p m) = s₀.canonVia (s₀.canon s) (s.remoteSignal p m) := by
  refine canon_via ?_
  unfold State.remoteSignal
  split
  · split
    · simp
    · split
      · simp
      · split
        · next h => simp [canon_via (canon_of_pendEnter h)]
        · exact canon_refl _
  · exact canon_refl _

@[simp] theorem canon_hoistIn (s : State) (n : Nat) {f : State → State} (h : ∀ t : State, t.canon (f t)) :
    s₀.canon (s.hoistIn n f) = s₀.canonVia (s₀.canon s) (s.hoistIn n f) := canon_via (by simp [State.hoistIn, canon_via (h _)])

@[simp] theorem canon_hoistRow (s : State) (id : Nat) (arrive : Bool) :
    s₀.canon (s.hoistRow id arrive) = s₀.canonVia (s₀.canon s) (s.hoistRow id arrive) := by
  refine canon_via ?_
  simp only [State.hoistRow]
  repeat' split
  all_goals simp

@[simp] theorem canon_arriveRow (s : State) (h round : Nat) :
    s₀.canon (s.arriveRow h round) = s₀.canonVia (s₀.canon s) (s.arriveRow h round) := by
  refine canon_via ?_
  simp only [State.arriveRow]
  repeat' split
  all_goals simp

@[simp] theorem canon_finishRow (s : State) (h round : Nat) :
    s₀.canon (s.finishRow h round) = s₀.canonVia (s₀.canon s) (s.finishRow h round) :=
  canon_via (((canon_mk ..).mpr ((canon_refl _).via (canon_deviceFinish ..)).mems).via (canon_foldl (fun _ _ => (canon_refl
    _).via (canon_arriveRow ..)) ..))

/-! Routing and the combine rows. -/

@[simp] theorem canon_modRoute (s : State) (c : Nat) (f : RouteState → RouteState) :
    s₀.canon (s.modRoute c f) = s₀.canonVia (s₀.canon s) (s.modRoute c f) := canon_via id

@[simp] theorem canon_takeEntries (s : State) (c off : Nat) (d : Sector) (be : Word32) :
    s₀.canon (s.takeEntries c off d be) = s₀.canonVia (s₀.canon s) (s.takeEntries c off d be) :=
  canon_via id

@[simp] theorem canon_routeWrite (s : State) (c off : Nat) (d : Sector) (be : Word32) :
    s₀.canon (s.routeWrite c off d be) = s₀.canonVia (s₀.canon s) (s.routeWrite c off d be) :=
  canon_via (canon_if (canon_refl _) (canon_if (canon_refl _) (((canon_refl _).via (canon_modRoute ..)).via
    (canon_takeEntries ..))))

@[simp] theorem canon_routeBuild (s : State) (c : Nat) :
    s₀.canon (s.routeBuild c) = s₀.canonVia (s₀.canon s) (s.routeBuild c) :=
  canon_via (canon_if (canon_refl _) (((((canon_if ((canon_refl _).via (canon_combErr ..)) (canon_refl _)).via
    (canon_modRoute ..)).via (canon_setReg ..)).via (canon_bump ..)).via (canon_bump ..)))

@[simp] theorem canon_spadPut (s : State) (c off : Nat) (bs : List Byte) :
    s₀.canon (s.spadPut c off bs) = s₀.canonVia (s₀.canon s) (s.spadPut c off bs) :=
  canon_via (canon_spad (canon_refl s) (Memory.wf_memPut · _ _))

@[simp] theorem canon_routeDone (s : State) (c : Nat) :
    s₀.canon (s.routeDone c) = s₀.canonVia (s₀.canon s) (s.routeDone c) :=
  canon_via (canon_if (canon_refl _) (((((canon_refl _).via (canon_foldl (fun _ _ => (canon_refl _).via (canon_spadPut ..))
    ..)).via (canon_modRoute ..)).via (canon_setFld ..)).via (canon_raiseLocal ..)))

@[simp] theorem canon_combDrop (s : State) (c : Nat) :
    s₀.canon (s.combDrop c) = s₀.canonVia (s₀.canon s) (s.combDrop c) := canon_via id

@[simp] theorem canon_combStore (s : State) (c off : Nat) (d : Sector) (be : Word32) :
    s₀.canon (s.combStore c off d be) = s₀.canonVia (s₀.canon s) (s.combStore c off d be) := by
  refine canon_via ?_
  -- Unfolded as a function: applied, the kernel would evaluate `stLoc` at numerals too large to recurse on.
  generalize hf : State.combStore = f
  delta State.combStore at hf
  subst hf
  beta_reduce
  extract_lets l
  split <;> next h => simp [canon_fst h]

@[simp] theorem canon_combHeader (s : State) (c lane : Nat) (d : Sector) :
    s₀.canon (s.combHeader c lane d) = s₀.canonVia (s₀.canon s) (s.combHeader c lane d) := by
  refine canon_via ?_
  simp only [State.combHeader]
  repeat' split
  all_goals simp

@[simp] theorem canon_combRow (s : State) (c lane off : Nat) (d : Sector) :
    s₀.canon (s.combRow c lane off d) = s₀.canonVia (s₀.canon s) (s.combRow c lane off d) := by
  refine canon_via ?_
  simp only [State.combRow]
  repeat' split
  all_goals simp

end Sys2Proof.Machine
end

section
/-! PROOFS. Memories stay in their canonical form (R169, R217, R224): resets, security and the host. -/

namespace Sys2Proof.Machine

open Sys2Proof

variable {s₀ : State}

/-! Images, their load and their checks. -/

@[simp] theorem canon_imageStart (s : State) (who : Writer) (x : Nat) :
    s₀.canon (s.imageStart who x) = s₀.canonVia (s₀.canon s) (s.imageStart who x) := canon_via (by
  unfold State.imageStart
  extract_lets a s₁ s₂ b
  have h₁ : s.canon s₁ := (canon_refl s).via (canon_setFld ..)
  have h₂ : s.canon s₂ := h₁.via (canon_setFld ..)
  exact canon_if ((canon_refl s).via (canon_report ..)) (canon_if ((canon_refl s).via (canon_report ..))
    (canon_if (h₁.via (canon_cfgError ..)) ((canon_mk ..).mpr h₂.mems))))

theorem canonOut_execImageLoadStart (who : Writer) (part : Ctx) (s : State) : s.canonOut (execImageLoadStart who part s) := by
  simp only [execImageLoadStart, canonOut_next]
  split <;> simp

@[simp] theorem canon_putData (s : State) (x : Nat × Nat × Nat) :
    s₀.canon (s.putData x) = s₀.canonVia (s₀.canon s) (s.putData x) := canon_via (by unfold State.putData; split <;> simp)

@[simp] theorem canon_setBit (s : State) (a i : Nat) :
    s₀.canon (s.setBit a i) = s₀.canonVia (s₀.canon s) (s.setBit a i) := canon_via id

@[simp] theorem canon_enableFor (s : State) (b : ImageBody) :
    s₀.canon (s.enableFor b) = s₀.canonVia (s₀.canon s) (s.enableFor b) :=
  canon_via (((((canon_refl _).via (canon_foldl (fun _ _ => canon_if ((canon_refl _).via (canon_setBit ..)) ((canon_refl
    _).via (canon_setBit ..))) ..)).via (canon_foldl (fun _ _ => (canon_refl _).via (canon_setBit ..)) ..)).via (canon_foldl
    (fun _ _ => (canon_refl _).via (canon_setBit ..)) ..)).via (canon_foldl (fun _ _ => (canon_refl _).via (canon_setBit ..))
    ..))

@[simp] theorem canon_bindLandings (s : State) (x : Nat) (l : List Nat) :
    s₀.canon (s.bindLandings x l) = s₀.canonVia (s₀.canon s) (s.bindLandings x l) := canon_via id

@[simp] theorem canon_putRed (s : State) (f : Nat → Option Nat) (x : Nat × RedImage) :
    s₀.canon (s.putRed f x) = s₀.canonVia (s₀.canon s) (s.putRed f x) := canon_via ((canon_refl _).via (canon_imgPut ..))

@[simp] theorem canon_putSections (s : State) (x : Nat) (f : Nat → Option Nat) (b : ImageBody) :
    s₀.canon (s.putSections x f b) = s₀.canonVia (s₀.canon s) (s.putSections x f b) :=
  canon_via ((((canon_mk ..).mpr (((((((canon_refl _).via (canon_imgPuts ..)).via (canon_enableFor ..)).via (canon_putItems
    ..)).via (canon_foldl (fun _ _ => (canon_refl _).via (canon_putData ..)) ..)).via (canon_bindLandings ..)).via
    (canon_unsetRegs ..)).mems).via (canon_foldl (fun _ _ => (canon_refl _).via (canon_putRed ..)) ..)).via (canon_foldl (fun
    _ _ => ((canon_refl _).via (canon_setFld ..)).via (canon_setFld ..)) ..))

@[simp] theorem canon_putResident (s : State) (b : ImageBody) :
    s₀.canon (s.putResident b) = s₀.canonVia (s₀.canon s) (s.putResident b) :=
  canon_via (((canon_refl _).via (canon_residentPut ..)).via (canon_setFld ..))

@[simp] theorem canon_imageCommit (s : State) (j : ImgLoad) (l : List (ImgSection × SectionBody)) :
    s₀.canon (s.imageCommit j l) = s₀.canonVia (s₀.canon s) (s.imageCommit j l) := canon_via (by simp [State.imageCommit])

@[simp] theorem canon_imageFails (s : State) (j : ImgLoad) (l : List (ImgSection × SectionBody)) (n : Nat) :
    s₀.canon (s.imageFails j l n) = s₀.canonVia (s₀.canon s) (s.imageFails j l n) := canon_via (by simp [State.imageFails])

@[simp] theorem canon_imageWrites (s : State) (j : ImgLoad) (l : List (ImgSection × SectionBody)) :
    s₀.canon (s.imageWrites j l) = s₀.canonVia (s₀.canon s) (s.imageWrites j l) :=
  canon_via (by unfold State.imageWrites; split <;> simp)

@[simp] theorem canon_imageRefused (s : State) (j : ImgLoad) (code : Nat) :
    s₀.canon (s.imageRefused j code) = s₀.canonVia (s₀.canon s) (s.imageRefused j code) :=
  canon_via ((((canon_refl _).via (canon_setFld ..)).via (canon_setFld ..)).via (canon_report ..))

/-! Resets. -/

@[simp] theorem canon_afterReset (s : State) (lvl : Nat) :
    s₀.canon (s.afterReset lvl) = s₀.canonVia (s₀.canon s) (s.afterReset lvl) := by
  refine canon_via ?_
  have hf : s.canon (s.reachForgets fun _ => true) := by simp
  unfold State.afterReset
  extract_lets warm s₁ e
  refine fun hw => ?_
  obtain ⟨hnear, hreach, -, hhost, hflash, -⟩ := hf hw
  refine ⟨?_, hreach, Memory.wf_nil, hhost, hflash, Memory.wf_nil⟩
  split
  · exact hnear
  · exact Memory.wf_nil

@[simp] theorem canon_setStep (s : State) (n : Nat) :
    s₀.canon (s.setStep n) = s₀.canonVia (s₀.canon s) (s.setStep n) := canon_via id

@[simp] theorem canon_setCause (s : State) (c : Nat) :
    s₀.canon (s.setCause c) = s₀.canonVia (s₀.canon s) (s.setCause c) := canon_via id

@[simp] theorem canon_modBoot (s : State) (f : Boot → Boot) :
    s₀.canon (s.modBoot f) = s₀.canonVia (s₀.canon s) (s.modBoot f) := canon_via id

@[simp] theorem canon_sampleStrap (s : State) (a0 a1 a2 a3 : Byte) :
    s₀.canon (s.sampleStrap a0 a1 a2 a3) = s₀.canonVia (s₀.canon s) (s.sampleStrap a0 a1 a2 a3) :=
  canon_via id

@[simp] theorem canon_rstErr (s : State) (code : Nat) :
    s₀.canon (s.rstErr code) = s₀.canonVia (s₀.canon s) (s.rstErr code) := canon_via (by simp [State.rstErr])

@[simp] theorem canon_markRecovery (s : State) :
    s₀.canon s.markRecovery = s₀.canonVia (s₀.canon s) s.markRecovery :=
  canon_via (canon_if ((canon_refl _).via (canon_setFld ..)) (canon_refl _))

@[simp] theorem canon_beginCold (s : State) (step : Nat) :
    s₀.canon (s.beginCold step) = s₀.canonVia (s₀.canon s) (s.beginCold step) :=
  canon_via ((((canon_refl _).via (canon_setStep ..)).via (canon_modBoot ..)).via (canon_markRecovery ..))

@[simp] theorem canon_takeHeader (s : State) (h : FlashHdr) (ok : Bool) :
    s₀.canon (s.takeHeader h ok) = s₀.canonVia (s₀.canon s) (s.takeHeader h ok) := canon_via id

@[simp] theorem canon_takeHostHeader (s : State) :
    s₀.canon s.takeHostHeader = s₀.canonVia (s₀.canon s) s.takeHostHeader :=
  canon_via (by unfold State.takeHostHeader; split <;> exact id)

@[simp] theorem canon_hostPathGoes (s : State) :
    s₀.canon s.hostPathGoes = s₀.canonVia (s₀.canon s) s.hostPathGoes :=
  canon_via (canon_if ((((canon_refl _).via (canon_setFld ..)).via (canon_setFld ..)).via (canon_setFld ..)) (canon_refl _))

@[simp] theorem canon_enterHostPath (s : State) :
    s₀.canon s.enterHostPath = s₀.canonVia (s₀.canon s) s.enterHostPath :=
  canon_via ((canon_if (((canon_refl _).via (canon_setStep ..)).via (canon_modBoot ..)) (((((canon_refl _).via (canon_setStep
    ..)).via (canon_modBoot ..)).via (canon_setFld ..)).via (canon_setFld ..))).via (canon_hostPathGoes ..))

@[simp] theorem canon_beginWarm (s : State) (recovering : Bool) :
    s₀.canon (s.beginWarm recovering) = s₀.canonVia (s₀.canon s) (s.beginWarm recovering) :=
  canon_via ((((canon_refl _).via (canon_setStep ..)).via (canon_modBoot ..)).via (canon_markRecovery ..))

@[simp] theorem canon_warmReset (s : State) (cause : Nat) :
    s₀.canon (s.warmReset cause) = s₀.canonVia (s₀.canon s) (s.warmReset cause) :=
  canon_via (((((canon_refl _).via (canon_afterReset ..)).via (canon_nearScrubs ..)).via (canon_setCause ..)).via
    (canon_beginWarm ..))

@[simp] theorem canon_warmSource (s : State) (cause : Nat) :
    s₀.canon (s.warmSource cause) = s₀.canonVia (s₀.canon s) (s.warmSource cause) :=
  canon_via (canon_if (canon_refl _) (canon_if ((canon_refl _).via (canon_rstErr ..)) ((canon_refl _).via (canon_warmReset
    ..))))

@[simp] theorem canon_unitErr (s : State) (code unit : Nat) :
    s₀.canon (s.unitErr code unit) = s₀.canonVia (s₀.canon s) (s.unitErr code unit) :=
  canon_via (canon_if ((canon_refl _).via (canon_clkErr ..)) (canon_if ((canon_refl _).via (canon_pwrErr ..)) (canon_refl
    _)))

@[simp] theorem canon_beginRecovery (s : State) :
    s₀.canon s.beginRecovery = s₀.canonVia (s₀.canon s) s.beginRecovery :=
  canon_via (((((canon_refl _).via (canon_modBoot ..)).via (canon_markRecovery ..)).via (canon_takeHostHeader ..)).via
    (canon_enterHostPath ..))

@[simp] theorem canon_failStart (s : State) (code : Nat) :
    s₀.canon (s.failStart code) = s₀.canonVia (s₀.canon s) (s.failStart code) :=
  canon_via (canon_if (((((canon_mk ..).mpr (((((canon_refl _).via (canon_rstErr ..)).via (canon_setFld ..)).via
    (canon_railsOff ..)).via (canon_modBoot ..)).mems).via (canon_setStep ..)).via (canon_rstErr ..)).via
    (canon_beginRecovery ..)) (((canon_mk ..).mpr (((((canon_refl _).via (canon_rstErr ..)).via (canon_setFld ..)).via
    (canon_railsOff ..)).via (canon_modBoot ..)).mems).via (canon_setStep ..)))

@[simp] theorem canon_startRetry (s : State) :
    s₀.canon s.startRetry = s₀.canonVia (s₀.canon s) s.startRetry :=
  canon_via (canon_if (canon_refl _) (canon_if ((canon_refl _).via (canon_beginWarm ..)) (canon_if ((canon_refl _).via
    (canon_beginRecovery ..)) ((canon_refl _).via (canon_beginCold ..)))))

@[simp] theorem canon_restartKind (s : State) (cause : Nat) :
    s₀.canon (s.restartKind cause) = s₀.canonVia (s₀.canon s) (s.restartKind cause) :=
  canon_via (canon_if ((((canon_refl _).via (canon_afterReset ..)).via (canon_setCause ..)).via (canon_beginWarm ..))
    (canon_if ((((canon_refl _).via (canon_afterReset ..)).via (canon_setCause ..)).via (canon_beginRecovery ..))
    ((((canon_refl _).via (canon_afterReset ..)).via (canon_setCause ..)).via (canon_beginCold ..))))

@[simp] theorem canon_resetCtx (s : State) (x : Nat) :
    s₀.canon (s.resetCtx x) = s₀.canonVia (s₀.canon s) (s.resetCtx x) := canon_via (by simp [State.resetCtx])

@[simp] theorem canon_partReset (s : State) (x : Nat) :
    s₀.canon (s.partReset x) = s₀.canonVia (s₀.canon s) (s.partReset x) := canon_via (by simp [State.partReset])

@[simp] theorem canon_arrayReset (s : State) :
    s₀.canon s.arrayReset = s₀.canonVia (s₀.canon s) s.arrayReset := canon_via (by simp [State.arrayReset])

@[simp] theorem canon_hostPortReset (s : State) :
    s₀.canon s.hostPortReset = s₀.canonVia (s₀.canon s) s.hostPortReset := canon_via id

@[simp] theorem canon_powerOn (s : State) (a0 a1 a2 a3 : Byte) :
    s₀.canon (s.powerOn a0 a1 a2 a3) = s₀.canonVia (s₀.canon s) (s.powerOn a0 a1 a2 a3) :=
  canon_via (canon_if ((canon_refl _).via (canon_afterReset ..)) ((((canon_refl _).via (canon_afterReset ..)).via
    (canon_sampleStrap ..)).via (canon_beginCold ..)))

@[simp] theorem canon_perst (s : State) : s₀.canon s.perst = s₀.canonVia (s₀.canon s) s.perst := by
  refine canon_via ?_
  simp only [State.perst]
  repeat' split
  all_goals simp

@[simp] theorem canon_watchdogFires (s : State) :
    s₀.canon s.watchdogFires = s₀.canonVia (s₀.canon s) s.watchdogFires :=
  canon_via (canon_if (canon_refl _) (canon_if ((canon_refl _).via (canon_failStart ..)) (((canon_refl _).via (canon_rstErr
    ..)).via (canon_warmSource ..))))

@[simp] theorem canon_inband (s : State) : s₀.canon s.inband = s₀.canonVia (s₀.canon s) s.inband :=
  canon_via (canon_if ((canon_refl _).via (canon_warmSource ..)) ((canon_refl _).via (canon_rstErr ..)))

@[simp] theorem canon_violation (s : State) :
    s₀.canon s.violation = s₀.canonVia (s₀.canon s) s.violation :=
  canon_via (canon_if (canon_refl _) (((((canon_refl _).via (canon_bump ..)).via (canon_report ..)).via (canon_foldl (fun _ _
    => (canon_refl _).via (canon_scrubTiers ..)) ..)).via (canon_warmReset ..)))

/-! Life cycle, debug access and the enclave. -/

@[simp] theorem canon_secOk (s : State) : s₀.canon s.secOk = s₀.canonVia (s₀.canon s) s.secOk := canon_via id

@[simp] theorem canon_secFail (s : State) (code : Nat) :
    s₀.canon (s.secFail code) = s₀.canonVia (s₀.canon s) (s.secFail code) := canon_via (by simp [State.secFail])

theorem canon_of_putSectors {s t : State} {a : Nat} {ds : List Sector} (h : s.putSectors a ds = some t) : s.canon t := by
  induction ds generalizing a s with
  | nil =>
    cases h
    exact canon_refl _
  | cons d ds ih =>
    unfold State.putSectors at h
    split at h
    · split at h
      · simp [canon_via (ih h)]
      · cases h
    · cases h

@[simp] theorem canon_modEnclave (s : State) (f : Enclave → Enclave) :
    s₀.canon (s.modEnclave f) = s₀.canonVia (s₀.canon s) (s.modEnclave f) := canon_via id

@[simp] theorem canon_attest (s : State) (fn : Nat) : s₀.canon (s.attest fn) = s₀.canonVia (s₀.canon s) (s.attest fn) := by
  refine canon_via ?_
  unfold State.attest
  split
  · simp
  · split
    · simp
    · next h => simp [canon_via (canon_of_putSectors h)]

@[simp] theorem canon_attestBegins (s : State) :
    s₀.canon s.attestBegins = s₀.canonVia (s₀.canon s) s.attestBegins := canon_via id

@[simp] theorem canon_attestAsked (s : State) (fn : Nat) :
    s₀.canon (s.attestAsked fn) = s₀.canonVia (s₀.canon s) (s.attestAsked fn) := by
  refine canon_via ?_
  simp only [State.attestAsked]
  repeat' split
  all_goals simp

@[simp] theorem canon_setSaHash (s : State) (h : Hash) :
    s₀.canon (s.setSaHash h) = s₀.canonVia (s₀.canon s) (s.setSaHash h) := canon_via id

@[simp] theorem canon_attestEnds (s : State) (ue : Bool) :
    s₀.canon (s.attestEnds ue) = s₀.canonVia (s₀.canon s) (s.attestEnds ue) :=
  canon_via (canon_if (canon_refl _) (((canon_if ((((((canon_refl _).via (canon_setFld ..)).via (canon_setSaHash ..)).via
    (canon_setFld ..)).via (canon_setFld ..)).via (canon_report ..)) (((((canon_refl _).via (canon_setFld ..)).via
    (canon_setSaHash ..)).via (canon_setFld ..)).via (canon_modEnclave ..))).via (canon_emit ..)).via (canon_tryStart ..)))

@[simp] theorem canon_setChallenge (s : State) (v : BitVec 256) (live : Bool) :
    s₀.canon (s.setChallenge v live) = s₀.canonVia (s₀.canon s) (s.setChallenge v live) := canon_via id

@[simp] theorem canon_newChallenge (s : State) :
    s₀.canon s.newChallenge = s₀.canonVia (s₀.canon s) s.newChallenge := canon_via id

@[simp] theorem canon_installBurgee (s : State) :
    s₀.canon s.installBurgee = s₀.canonVia (s₀.canon s) s.installBurgee :=
  canon_via (by unfold State.installBurgee; split <;> simp)

@[simp] theorem canon_signedCheck (s : State) (op : Nat) :
    s₀.canon (s.signedCheck op).2 = s₀.canonVia (s₀.canon s) (s.signedCheck op).2 := by
  refine canon_via ?_
  simp only [State.signedCheck]
  repeat' split
  all_goals exact id

@[simp] theorem canon_signed (s : State) (op : Nat) {f : SignedCmd → State → State} (h : ∀ c (t : State), t.canon (f c t)) :
    s₀.canon (s.signed op f) = s₀.canonVia (s₀.canon s) (s.signed op f) := by
  refine canon_via ?_
  unfold State.signed
  split <;> next hc => simp [canon_via (h _ _), canon_snd hc]

@[simp] theorem canon_setKey (s : State) (slot : Nat) (valid : Bool) (role pub : Nat) :
    s₀.canon (s.setKey slot valid role pub) = s₀.canonVia (s₀.canon s) (s.setKey slot valid role pub) :=
  canon_via id

@[simp] theorem canon_showIdPub (s : State) :
    s₀.canon s.showIdPub = s₀.canonVia (s₀.canon s) s.showIdPub := canon_via id

@[simp] theorem canon_transition (s : State) (target : Nat) :
    s₀.canon (s.transition target) = s₀.canonVia (s₀.canon s) (s.transition target) := canon_via (by simp [State.transition])

theorem canonOut_execLifecycleTransition (s : State) : s.canonOut (execLifecycleTransition s) := by
  rw [execLifecycleTransition, canonOut_next]
  refine (canon_refl s).via (canon_awake _ _ fun t => ?_)
  split <;> next h => simp [canon_snd h]

@[simp] theorem canon_dbgRefuse (s : State) (code addr : Nat) :
    s₀.canon (s.dbgRefuse code addr) = s₀.canonVia (s₀.canon s) (s.dbgRefuse code addr) :=
  canon_via ((((canon_refl _).via (canon_setFld ..)).via (canon_setFld ..)).via (canon_report ..))

@[simp] theorem canon_setLevel (s : State) (level part : Nat) (slot : Option Nat) :
    s₀.canon (s.setLevel level part slot) = s₀.canonVia (s₀.canon s) (s.setLevel level part slot) :=
  canon_via id

@[simp] theorem canon_unlockFails (s : State) :
    s₀.canon s.unlockFails = s₀.canonVia (s₀.canon s) s.unlockFails :=
  canon_via (canon_if (((canon_refl _).via (canon_setFld ..)).via (canon_setFld ..)) ((canon_refl _).via (canon_setFld ..)))

@[simp] theorem canon_unlock (s : State) : s₀.canon s.unlock = s₀.canonVia (s₀.canon s) s.unlock := by
  refine canon_via ?_
  unfold State.unlock
  split
  · simp
  · split <;> next h => simp [canon_snd h]

@[simp] theorem canon_observe (s : State) :
    s₀.canon s.observe = s₀.canonVia (s₀.canon s) s.observe :=
  canon_via (canon_if ((canon_refl _).via (canon_dbgRefuse ..)) ((canon_refl _).via (canon_setLevel ..)))

@[simp] theorem canon_dbgOnCore (s : State) (c : Nat) {f : State → State} (h : ∀ t : State, t.canon (f t)) :
    s₀.canon (s.dbgOnCore c f) = s₀.canonVia (s₀.canon s) (s.dbgOnCore c f) :=
  canon_via (by simp [State.dbgOnCore, canon_via (h _)])

@[simp] theorem canon_dbgHalt (s : State) (c : Nat) :
    s₀.canon (s.dbgHalt c) = s₀.canonVia (s₀.canon s) (s.dbgHalt c) := canon_via (by simp [State.dbgHalt])

@[simp] theorem canon_dbgIndex (s : State) (c : Nat) (t : Strm) :
    s₀.canon (s.dbgIndex c t) = s₀.canonVia (s₀.canon s) (s.dbgIndex c t) :=
  canon_via (canon_if ((canon_refl _).via (canon_goTo ..)) (canon_refl _))

@[simp] theorem canon_dbgResume (s : State) (c : Nat) :
    s₀.canon (s.dbgResume c) = s₀.canonVia (s₀.canon s) (s.dbgResume c) := canon_via (by simp [State.dbgResume])

@[simp] theorem canon_dbgStep (s : State) (c : Nat) (t : Strm) :
    s₀.canon (s.dbgStep c t) = s₀.canonVia (s₀.canon s) (s.dbgStep c t) := canon_via (by simp [State.dbgStep])

@[simp] theorem canon_putAccWord (s : State) (c off : Nat) (v : Word32) :
    s₀.canon (s.putAccWord c off v) = s₀.canonVia (s₀.canon s) (s.putAccWord c off v) := canon_via id

@[simp] theorem canon_dbgMem (s : State) (l : Loc) (i : Nat) :
    s₀.canon (s.dbgMem l i).2 = s₀.canonVia (s₀.canon s) (s.dbgMem l i).2 := by
  refine canon_via ?_
  simp only [State.dbgMem]
  repeat' split
  all_goals exact id

@[simp] theorem canon_dbgTouched (s : State) :
    s₀.canon s.dbgTouched = s₀.canonVia (s₀.canon s) s.dbgTouched := canon_via id

@[simp] theorem canon_dbgData (s : State) (write : Bool) (a : Nat) (v : Word32) :
    s₀.canon (s.dbgData write a v).2.1 = s₀.canonVia (s₀.canon s) (s.dbgData write a v).2.1 := by
  refine canon_via ?_
  unfold State.dbgData
  split
  · exact canon_refl _
  · split
    · extract_lets c
      split
      · exact canon_refl _
      · split
        · exact canon_refl _
        · split <;> simp
    · split
      · split
        · exact canon_refl _
        · split <;> simp
      · exact canon_refl _

@[simp] theorem canon_dbgWord (s : State) (write : Bool) (a : Nat) (v : Word32) :
    s₀.canon (s.dbgWord write a v).2.1 = s₀.canonVia (s₀.canon s) (s.dbgWord write a v).2.1 := by
  refine canon_via ?_
  unfold State.dbgWord
  repeat' split
  all_goals simp

theorem canon_of_dbgWord {s t : State} {write : Bool} {a code : Nat} {v d : Word32}
    (h : s.dbgWord write a v = (d, t, code)) : s.canon t := by
  have hw := (canon_refl s).via (canon_dbgWord s write a v)
  rwa [h] at hw

@[simp] theorem canon_dbgAccess (s : State) (write : Bool) :
    s₀.canon (s.dbgAccess write) = s₀.canonVia (s₀.canon s) (s.dbgAccess write) := by
  refine canon_via ?_
  unfold State.dbgAccess
  extract_lets a
  split
  next h => simp [canon_via (canon_of_dbgWord h)]

@[simp] theorem canon_dbgapDebug (s : State) (a : Nat) (v : Word32) :
    s₀.canon (s.dbgapDebug a v) = s₀.canonVia (s₀.canon s) (s.dbgapDebug a v) := canon_via (by simp [State.dbgapDebug])

@[simp] theorem canon_dbgap (s : State) (dr : BitVec 81) : s₀.canon (s.dbgap dr) = s₀.canonVia (s₀.canon s) (s.dbgap dr) := by
  refine canon_via ?_
  unfold State.dbgap
  extract_lets write a v
  split
  · simp
  · split
    · simp
    · split
      next h => simp [canon_via (canon_of_dbgWord h)]

/-! The host interface. -/

@[simp] theorem canon_completes (s : State) (fn status : Nat) (data : List Byte) :
    s₀.canon (s.completes fn status data) = s₀.canonVia (s₀.canon s) (s.completes fn status data) :=
  canon_via id

@[simp] theorem canon_bar2Read (s : State) (i : Instr) (fn off len : Nat) :
    s₀.canon (s.bar2Read i fn off len) = s₀.canonVia (s₀.canon s) (s.bar2Read i fn off len) := by
  refine canon_via ?_
  unfold State.bar2Read
  split
  · simp
  · extract_lets qs ls
    split
    · simp
    · split
      · simp
      · refine (canon_refl s).via (canon_holdFor _ _ _ ?_)
        split <;> next h => simp [canon_fst h]

@[simp] theorem canon_bar2Write (s : State) (fn off : Nat) (bs : List Byte) :
    s₀.canon (s.bar2Write fn off bs) = s₀.canonVia (s₀.canon s) (s.bar2Write fn off bs) := by
  refine canon_via ?_
  unfold State.bar2Write
  split
  · exact canon_refl _
  · extract_lets qs s₁ s₂
    have h₁ : s.canon s₁ := by
      simp only [s₁]
      split <;> simp
    refine State.canon.via (by simp [s₂, h₁]) (canon_foldl (fun t q => ?_) _ _ _)
    split <;> simp

@[simp] theorem canon_bar0Read (s : State) (fn off len : Nat) :
    s₀.canon (s.bar0Read fn off len) = s₀.canonVia (s₀.canon s) (s.bar0Read fn off len) := by
  refine canon_via ?_
  simp only [State.bar0Read]
  repeat' split
  all_goals simp

theorem canonOut_execHostBar0Read (fn : Fn) (off : BitVec 29) (len : Fin 9) (s : State) :
    s.canonOut (execHostBar0Read fn off len s) := by
  simp only [execHostBar0Read, canonOut_next]
  split <;> simp

@[simp] theorem canon_cplPut (s : State) (p : PendingCpl) :
    s₀.canon (s.cplPut p) = s₀.canonVia (s₀.canon s) (s.cplPut p) :=
  canon_via (canon_if ((canon_if ((canon_mk ..).mpr ((canon_refl _).via (canon_ringPut ..)).mems) ((canon_refl _).via
    (canon_ringPut ..))).via (canon_emit ..)) (canon_if ((canon_mk ..).mpr ((canon_refl _).via (canon_ringPut ..)).mems)
    ((canon_refl _).via (canon_ringPut ..))))

@[simp] theorem canon_drainCpls (ps : List PendingCpl) (stuck : List Nat) (s : State) :
    s₀.canon (drainCpls ps stuck s) = s₀.canonVia (s₀.canon s) (drainCpls ps stuck s) := by
  refine canon_via ?_
  induction ps generalizing stuck s with
  | nil => exact canon_refl _
  | cons p ps ih =>
    unfold drainCpls
    split <;> simp [canon_via (ih _ _)]

@[simp] theorem canon_drain (s : State) : s₀.canon s.drain = s₀.canonVia (s₀.canon s) s.drain :=
  canon_via (((canon_mk ..).mpr (canon_refl _).mems).via (canon_drainCpls ..))

@[simp] theorem canon_complete (s : State) (p : PendingCpl) :
    s₀.canon (s.complete p) = s₀.canonVia (s₀.canon s) (s.complete p) :=
  canon_via (((canon_mk ..).mpr (canon_refl _).mems).via (canon_drain ..))

@[simp] theorem canon_cmdPop (s : State) (fn : Nat) :
    s₀.canon (s.cmdPop fn) = s₀.canonVia (s₀.canon s) (s.cmdPop fn) := canon_via (by unfold State.cmdPop; split <;> exact id)

@[simp] theorem canon_ringAdvance (fn n : Nat) (s : State) :
    s₀.canon (ringAdvance fn n s) = s₀.canonVia (s₀.canon s) (ringAdvance fn n s) := by
  refine canon_via ?_
  induction n generalizing s with
  | zero => exact canon_refl _
  | succ n ih =>
    unfold ringAdvance
    split
    · split <;> simp [canon_via (ih _)]
    · exact canon_refl _

@[simp] theorem canon_advance (s : State) (fn : Nat) :
    s₀.canon (s.advance fn) = s₀.canonVia (s₀.canon s) (s.advance fn) := canon_via ((canon_refl _).via (canon_ringAdvance ..))

@[simp] theorem canon_advanceAll (s : State) :
    s₀.canon s.advanceAll = s₀.canonVia (s₀.canon s) s.advanceAll := canon_via (by simp [State.advanceAll])

@[simp] theorem canon_starts (s : State) (fn op : Nat) {f : List Byte → CmdHdr → State → State}
    (h : ∀ bs c (t : State), t.canon (f bs c t)) : s₀.canon (s.starts fn op f) = s₀.canonVia (s₀.canon s) (s.starts fn op f) := by
  refine canon_via ?_
  unfold State.starts
  split
  · split <;> simp [canon_via (h _ _ _)]
  · exact canon_refl _

@[simp] theorem canon_doorbell (s : State) (fn prod : Nat) :
    s₀.canon (s.doorbell fn prod) = s₀.canonVia (s₀.canon s) (s.doorbell fn prod) := canon_via (by
  unfold State.doorbell
  extract_lets s₁ c new s₂
  have h₁ : s.canon s₁ := (canon_refl s).via (canon_setFld ..)
  have h₂ : s.canon s₂ := h₁.via (canon_setFld ..)
  exact canon_if (canon_refl s) (canon_if ((canon_refl s).via (canon_report ..))
    (canon_if h₁ (canon_if h₂ (State.canon.via ((canon_mk ..).mpr h₂.mems) (canon_advance ..))))))

@[simp] theorem canon_consWrite (s : State) (fn r cons : Nat) :
    s₀.canon (s.consWrite fn r cons) = s₀.canonVia (s₀.canon s) (s.consWrite fn r cons) :=
  canon_via (canon_if ((canon_refl _).via (canon_report ..)) ((((canon_refl _).via (canon_setFld ..)).via (canon_drain
    ..)).via (canon_advance ..)))

@[simp] theorem canon_openCmd (s : State) (fn : Nat) (bs : List Byte) (h : CmdHdr) :
    s₀.canon (s.openCmd fn bs h) = s₀.canonVia (s₀.canon s) (s.openCmd fn bs h) :=
  canon_via (canon_if ((canon_refl _).via (canon_complete ..)) (canon_if ((((canon_refl _).via (canon_setFld ..)).via
    (canon_setFld ..)).via (canon_complete ..)) ((((canon_refl _).via (canon_setFld ..)).via (canon_setFld ..)).via
    (canon_complete ..))))

@[simp] theorem canon_dmaStart (s : State) (fn : Nat) (bs : List Byte) (h : CmdHdr) :
    s₀.canon (s.dmaStart fn bs h) = s₀.canonVia (s₀.canon s) (s.dmaStart fn bs h) := by
  refine canon_via ?_
  unfold State.dmaStart
  extract_lets ch len host dev bad
  have hbad (code : Nat) : s.canon (bad code) := (canon_refl s).via (canon_complete ..)
  refine canon_if (hbad _) ?_
  split
  · exact hbad _
  · exact canon_if (hbad _) (canon_if (hbad _) (State.canon.via ((canon_mk ..).mpr (canon_refl s).mems) (canon_irrepro ..)))

@[simp] theorem canon_dmaMove (j : DmaJob) (n m : Nat) (s : State) :
    s₀.canon (dmaMove j n m s).1 = s₀.canonVia (s₀.canon s) (dmaMove j n m s).1 := by
  refine canon_via ?_
  induction n generalizing m s with
  | zero => exact canon_refl _
  | succ n ih =>
    unfold dmaMove
    split
    · exact canon_refl _
    · split
      · exact canon_refl _
      · split
        · simp [canon_via (ih _ _)]
        · split
          · next h => simp [canon_fst h]
          · next h => exact (canon_hostMem (by simp [canon_fst h]) (Memory.wf_memPut · _ _)).trans (ih _ _)

@[simp] theorem canon_chanNext (s : State) (ch : Nat) :
    s₀.canon (s.chanNext ch) = s₀.canonVia (s₀.canon s) (s.chanNext ch) :=
  canon_via (by unfold State.chanNext; split <;> exact id)

@[simp] theorem canon_dmaMapIdle (s : State) : s₀.canon s.dmaMapIdle = s₀.canonVia (s₀.canon s) s.dmaMapIdle := by
  refine canon_via ?_
  simp only [State.dmaMapIdle]
  repeat' split
  all_goals exact id

@[simp] theorem canon_dmaSignal (s : State) (j : DmaJob) :
    s₀.canon (s.dmaSignal j).1 = s₀.canonVia (s₀.canon s) (s.dmaSignal j).1 := by
  refine canon_via ?_
  unfold State.dmaSignal
  split
  · exact canon_refl _
  · split
    · exact canon_refl _
    · split
      · next h => exact canon_of_penSignal h
      · exact canon_refl _

@[simp] theorem canon_dmaDone (s : State) (ch : Nat) : s₀.canon (s.dmaDone ch) = s₀.canonVia (s₀.canon s) (s.dmaDone ch) := by
  refine canon_via ?_
  simp only [State.dmaDone]
  repeat' split
  all_goals simp

@[simp] theorem canon_writeCtx (s : State) (x : Nat) (pcs segs : List Nat) :
    s₀.canon (s.writeCtx x pcs segs) = s₀.canonVia (s₀.canon s) (s.writeCtx x pcs segs) :=
  canon_via (((canon_refl _).via (canon_foldl (fun _ _ => canon_if ((canon_refl _).via (canon_setFld ..)) (canon_refl _))
    ..)).via (canon_foldl (fun _ _ => (canon_refl _).via (canon_setFld ..)) ..))

@[simp] theorem canon_ownAll (s : State) (x vf : Nat) (isl pcs ports segs : List Nat) :
    s₀.canon (s.ownAll x vf isl pcs ports segs) = s₀.canonVia (s₀.canon s) (s.ownAll x vf isl pcs ports segs) :=
  canon_via (((canon_mk ..).mpr (((canon_refl _).via (canon_setFld ..)).via (canon_setFld ..)).mems).via (canon_writeCtx ..))

@[simp] theorem canon_partCreate (s : State) (fn : Nat) (bs : List Byte) (h : CmdHdr) :
    s₀.canon (s.partCreate fn bs h) = s₀.canonVia (s₀.canon s) (s.partCreate fn bs h) :=
  canon_via (canon_if ((canon_refl _).via (canon_complete ..)) (canon_if ((canon_refl _).via (canon_complete ..)) (canon_if
    ((canon_refl _).via (canon_complete ..)) (canon_if ((canon_refl _).via (canon_complete ..)) ((((canon_refl _).via
    (canon_ownAll ..)).via (canon_showAllowed ..)).via (canon_complete ..))))))

@[simp] theorem canon_abortDma (s : State) (x : Nat) : s₀.canon (s.abortDma x) = s₀.canonVia (s₀.canon s) (s.abortDma x) := by
  refine canon_via ?_
  unfold State.abortDma
  extract_lets one
  have hone : ∀ (t : State) ch first j, t.canon (one t ch first j) := fun t ch first j => by
    unfold one
    split
    · simp
    · extract_lets n
      split
      next h => simp [canon_fst h]
  refine State.canon.via (by simp) (canon_foldl (fun t e => ?_) _ _ _)
  split <;> simp [canon_via (hone _ _ _ _)]

@[simp] theorem canon_killBegins (s : State) (x : Nat) (k : KillState) :
    s₀.canon (s.killBegins x k) = s₀.canonVia (s₀.canon s) (s.killBegins x k) := by
  refine canon_via ?_
  unfold State.killBegins
  extract_lets s₁ s₂ s₃ t s₄
  have h₁ : s.canon s₁ := (canon_refl s).via (canon_setFld ..)
  have h₂ : s.canon s₂ := (h₁.via (canon_abortDma ..)).via (canon_resetCores ..)
  have h₃ : s.canon s₃ := h₂.via (canon_scrubTiers ..)
  have ht : s.canon t := h₃.via (canon_setFld ..)
  have h₄ : s.canon s₄ := by
    unfold s₄
    split
    · split
      · simp [ht]
      · exact h₃
    · exact h₃
  exact State.canon.via (s := { s₄ with kills := _, killed := _ }) h₄ (canon_dmaMapIdle ..)

@[simp] theorem canon_partKill (s : State) (fn : Nat) (bs : List Byte) (h : CmdHdr) :
    s₀.canon (s.partKill fn bs h) = s₀.canonVia (s₀.canon s) (s.partKill fn bs h) := by
  refine canon_via ?_
  simp only [State.partKill]
  repeat' split
  all_goals simp

@[simp] theorem canon_closeVf (s : State) (vf : Nat) :
    s₀.canon (s.closeVf vf) = s₀.canonVia (s₀.canon s) (s.closeVf vf) :=
  canon_via (canon_if (canon_refl _) ((canon_mk ..).mpr ((((canon_refl _).via (canon_setFld ..)).via (canon_setFld ..)).via
    (canon_foldl (fun _ _ => (canon_refl _).via (canon_setFld ..)) ..)).mems))

@[simp] theorem canon_releaseAll (s : State) (x : Nat) :
    s₀.canon (s.releaseAll x) = s₀.canonVia (s₀.canon s) (s.releaseAll x) :=
  canon_via (((canon_mk ..).mpr ((canon_refl _).via (canon_setReg ..)).mems).via (canon_closeVf ..))

@[simp] theorem canon_killDone (s : State) (x : Nat) :
    s₀.canon (s.killDone x) = s₀.canonVia (s₀.canon s) (s.killDone x) := canon_via (by unfold State.killDone; split <;> simp)

@[simp] theorem canon_configRequest (s : State) (fn : Nat) (d3hot : Option Bool) (bar2 : Option (Fin 12)) :
    s₀.canon (s.configRequest fn d3hot bar2) = s₀.canonVia (s₀.canon s) (s.configRequest fn d3hot bar2) := by
  refine canon_via ?_
  simp only [State.configRequest]
  repeat' split
  all_goals exact id

end Sys2Proof.Machine
end

section
/-! PROOFS. Memories stay in their canonical form (R169, R217, R224): the start, register writes, the end of a wake and
the tick, and so every step. -/

namespace Sys2Proof.Machine

open Sys2Proof

variable {s₀ : State}

/-! The start of the part. -/

@[simp] theorem canon_readHeader (s : State) : s₀.canon s.readHeader = s₀.canonVia (s₀.canon s) s.readHeader := by
  refine canon_via ?_
  simp only [State.readHeader]
  repeat' split
  all_goals simp

@[simp] theorem canon_enterClocks (s : State) :
    s₀.canon s.enterClocks = s₀.canonVia (s₀.canon s) s.enterClocks :=
  canon_via (canon_if (((canon_refl _).via (canon_setStep ..)).via (canon_modBoot ..)) (((((canon_refl _).via (canon_setStep
    ..)).via (canon_modBoot ..)).via (canon_setFld ..)).via (canon_setFld ..)))

@[simp] theorem canon_firmwareRuns (s : State) (l : List State.FwImage) (tested : Bool) :
    s₀.canon (s.firmwareRuns l tested) = s₀.canonVia (s₀.canon s) (s.firmwareRuns l tested) :=
  canon_via (((((((canon_refl _).via (canon_setFld ..)).via (canon_setFld ..)).via (canon_setFld ..)).via (canon_setFld
    ..)).via (canon_setFld ..)).via (canon_foldl (fun _ _ => (canon_refl _).via (canon_setLog ..)) ..))

@[simp] theorem canon_firmwareDone (s : State) :
    s₀.canon s.firmwareDone = s₀.canonVia (s₀.canon s) s.firmwareDone :=
  canon_via (canon_if ((canon_refl _).via (canon_failStart ..)) (canon_if ((canon_refl _).via (canon_failStart ..)) (canon_if
    ((canon_refl _).via (canon_failStart ..)) (canon_if ((((canon_refl _).via (canon_firmwareRuns ..)).via (canon_modBoot
    ..)).via (canon_setStep ..)) ((((canon_refl _).via (canon_firmwareRuns ..)).via (canon_modBoot ..)).via
    (canon_enterClocks ..))))))

@[simp] theorem canon_xtalOk (s : State) (f : FieldPos) :
    s₀.canon (s.xtalOk f) = s₀.canonVia (s₀.canon s) (s.xtalOk f) :=
  canon_via (((canon_refl _).via (canon_setFld ..)).via (canon_hostPathGoes ..))

@[simp] theorem canon_xtalSettled (s : State) (xb : Bool) :
    s₀.canon (s.xtalSettled xb) = s₀.canonVia (s₀.canon s) (s.xtalSettled xb) :=
  canon_via (canon_if ((canon_refl _).via (canon_xtalOk ..)) (canon_refl _))

@[simp] theorem canon_xtalWindow (s : State) (count : Nat) :
    s₀.canon (s.xtalWindow count) = s₀.canonVia (s₀.canon s) (s.xtalWindow count) := canon_via (by simp [State.xtalWindow])

@[simp] theorem canon_xtalLate (s : State) (xb : Bool) :
    s₀.canon (s.xtalLate xb) = s₀.canonVia (s₀.canon s) (s.xtalLate xb) :=
  canon_via (canon_if (canon_refl _) (((canon_refl _).via (canon_clkErr ..)).via (canon_failStart ..)))

@[simp] theorem canon_clocksDone (s : State) (xbPresent : Bool) :
    s₀.canon (s.clocksDone xbPresent) = s₀.canonVia (s₀.canon s) (s.clocksDone xbPresent) :=
  canon_via (canon_if ((canon_refl _).via (canon_setStep ..)) (canon_refl _))

@[simp] theorem canon_pllsDone (s : State) :
    s₀.canon s.pllsDone = s₀.canonVia (s₀.canon s) s.pllsDone :=
  canon_via (((((canon_refl _).via (canon_setFld ..)).via (canon_patternBoundary ..)).via (canon_setFld ..)).via
    (canon_setStep ..))

@[simp] theorem canon_railsDone (s : State) :
    s₀.canon s.railsDone = s₀.canonVia (s₀.canon s) s.railsDone := canon_via (by simp [State.railsDone])

@[simp] theorem canon_trained (s : State) (u : Nat) (t : Trained) :
    s₀.canon (s.trained u t) = s₀.canonVia (s₀.canon s) (s.trained u t) :=
  canon_via (canon_if (canon_refl _) ((canon_refl _).via (canon_keepTraining ..)))

@[simp] theorem canon_stackTrained (s : State) (h : Nat) (t : Trained) :
    s₀.canon (s.stackTrained h t) = s₀.canonVia (s₀.canon s) (s.stackTrained h t) :=
  canon_via ((((((canon_refl _).via (canon_setFld ..)).via (canon_setFld ..)).via (canon_setFld ..)).via (canon_setFld
    ..)).via (canon_trained ..))

@[simp] theorem canon_reachTrained (s : State) (n : Nat) (t : Trained) (rate width cap : Nat) :
    s₀.canon (s.reachTrained n t rate width cap) = s₀.canonVia (s₀.canon s) (s.reachTrained n t rate width cap) :=
  canon_via (((((((canon_refl _).via (canon_setFld ..)).via (canon_setFld ..)).via (canon_setFld ..)).via (canon_setFld
    ..)).via (canon_setFld ..)).via (canon_trained ..))

@[simp] theorem canon_trainingDone (s : State) (perStack : List (Option Trained))
    (reach : List (Fin 4 × Trained × BitVec 4 × BitVec 5 × BitVec 10)) :
    s₀.canon (s.trainingDone perStack reach) = s₀.canonVia (s₀.canon s) (s.trainingDone perStack reach) :=
  canon_via (canon_if ((canon_refl _).via (canon_failStart ..)) ((canon_if (((canon_refl _).via (canon_foldl (fun _ _ =>
    (canon_refl _).via (canon_stackTrained ..)) ..)).via (canon_foldl (fun _ _ => (canon_refl _).via (canon_reachTrained ..))
    ..)) ((canon_refl _).via (canon_foldl (fun _ _ => (canon_refl _).via (canon_stackTrained ..)) ..))).via (canon_setStep
    ..)))

@[simp] theorem canon_enterImage (s : State) : s₀.canon s.enterImage = s₀.canonVia (s₀.canon s) s.enterImage := by
  refine canon_via ?_
  unfold State.enterImage
  extract_lets s₁ p s₂ s₃ s₄ t
  have h₁ : s.canon s₁ := by simp [s₁]
  have h₂ : s.canon s₂ := by simp [s₂, h₁]
  have h₃ : s.canon s₃ := by
    unfold s₃
    split <;> simp [h₂]
  have h₄ : s.canon s₄ := h₃.via (canon_showAllowed ..)
  have ht : s.canon t := h₄.via (canon_setFld ..)
  split
  · exact h₁.via (canon_failStart ..)
  · split
    · simp [ht]
    · exact h₄.via (canon_modBoot ..)

@[simp] theorem canon_selfTestDone (s : State) (ok : Bool) :
    s₀.canon (s.selfTestDone ok) = s₀.canonVia (s₀.canon s) (s.selfTestDone ok) := by
  refine canon_via ?_
  have h : s.canon { s with spad := [], spUe := [], spWeak := [] } := canon_spad (canon_refl s) fun _ => Memory.wf_nil
  unfold State.selfTestDone
  split
  · simp
  · exact h.via (canon_enterImage _)

@[simp] theorem canon_startPartition (s : State) (j : ImgLoad) (l : List (ImgSection × SectionBody)) :
    s₀.canon (s.startPartition j l) = s₀.canonVia (s₀.canon s) (s.startPartition j l) :=
  canon_via (canon_if ((canon_refl _).via (canon_ownAll ..)) (canon_refl _))

@[simp] theorem canon_imageDone (s0 : State) (j : ImgLoad) (img : List SectionBody) :
    s₀.canon (s0.imageDone j img) = s₀.canonVia (s₀.canon s0) (s0.imageDone j img) := by
  refine canon_via ?_
  simp only [State.imageDone]
  repeat' split
  all_goals simp

@[simp] theorem canon_enterLinks (s : State) :
    s₀.canon s.enterLinks = s₀.canonVia (s₀.canon s) s.enterLinks :=
  canon_via (canon_if ((((canon_refl _).via (canon_setStep ..)).via (canon_modBoot ..)).via (canon_foldl (fun _ _ => canon_if
    (canon_refl _) ((canon_refl _).via (canon_portTrain ..))) ..)) (((canon_refl _).via (canon_setStep ..)).via
    (canon_modBoot ..)))

@[simp] theorem canon_afterLoad (s : State) (flash : Bool) :
    s₀.canon (s.afterLoad flash) = s₀.canonVia (s₀.canon s) (s.afterLoad flash) :=
  canon_via (canon_if (canon_refl _) (canon_if ((canon_refl _).via (canon_enterLinks ..)) (canon_if ((canon_refl _).via
    (canon_failStart ..)) ((canon_refl _).via (canon_modBoot ..)))))

@[simp] theorem canon_loadOver (s : State) (img : List SectionBody) :
    s₀.canon (s.loadOver img) = s₀.canonVia (s₀.canon s) (s.loadOver img) := canon_via (by unfold State.loadOver; split <;> simp)

@[simp] theorem canon_startOver (s : State) :
    s₀.canon s.startOver = s₀.canonVia (s₀.canon s) s.startOver := canon_via id

@[simp] theorem canon_stepEnds (s : State) (r : StepResult) :
    s₀.canon (s.stepEnds r) = s₀.canonVia (s₀.canon s) (s.stepEnds r) := by
  refine canon_via ?_
  cases r with
  | done => simp [stepEnds_done]
  | clocks xb => simp [stepEnds_clocks]
  | training perStack reach => simp [stepEnds_training]
  | selfTest ok => simp [stepEnds_selfTest]
  | failed code unit => simp [stepEnds_failed]

@[simp] theorem canon_bootGo (s : State) : s₀.canon s.bootGo = s₀.canonVia (s₀.canon s) s.bootGo :=
  canon_via (canon_if (((canon_refl _).via (canon_modBoot ..)).via (canon_setStep ..)) (canon_refl _))

/-! Register writes. -/

@[simp] theorem canon_afterWrite (s : State) (name : String) (is : List Nat) (a : Nat) :
    s₀.canon (s.afterWrite name is a) = s₀.canonVia (s₀.canon s) (s.afterWrite name is a) :=
  canon_via (by unfold State.afterWrite; split <;> simp)

@[simp] theorem canon_putWhole (s : State) (who : Writer) (r : RegSpec) (is : List Nat) (a : Nat) (v0 : Word) :
    s₀.canon (s.putWhole who r is a v0) = s₀.canonVia (s₀.canon s) (s.putWhole who r is a v0) :=
  canon_via (canon_if ((canon_refl _).via (canon_report ..)) (canon_if (canon_refl _) (canon_if (canon_if ((canon_refl _).via
    (canon_setReg ..)) (((canon_refl _).via (canon_setReg ..)).via (canon_cfgError ..))) (((canon_refl _).via (canon_putReg
    ..)).via (canon_afterWrite ..)))))

/-- What a command that a register's bits give (R396) leaves canonical, from its own `exec`. -/
theorem canon_row {i : Instr} {s t : State} (h : exec i s = .next t) (hr : runRow i s = after s (exec i s)) (ht : s.canon t) :
    s.canon (runRow i s) := by
  rw [hr]
  exact canon_after ⟨t, h, ht⟩

@[simp] theorem canon_runRow (i : Instr) (s : State) : s₀.canon (runRow i s) = s₀.canonVia (s₀.canon s) (runRow i s) := by
  refine canon_via ?_
  cases i
  case imageLoadStart => exact canon_after (canonOut_execImageLoadStart ..)
  case hostBar0Read => exact canon_after (canonOut_execHostBar0Read ..)
  case nirloReadRequest => exact canon_after (canonOut_execNirloReadRequest ..)
  case lifecycleTransition => exact canon_after (canonOut_execLifecycleTransition ..)
  case coreStart | coreStop | queueClear | imemLoadStart | arrayCntClr | nfCntClr | maskCntClr | spCntClr | mrCntClr
      | detCntClr | nearCntClr | rchCntClr | nrlCntClr | nrlChCntClr | xchCntClr | expCntClr | pwrCntClr | penHostSig
      | nearMarginStart | rchMarginStart | nrlTrain | nrlMarginStart | flitReceive | stepRun | stepSingle | stepHaltNow
      | profileSwitchCmd | latTolWrite | inbandReset | hostWarmReset | coreArrayReset | partitionReset | recoveryRestart
      | bootGo | fscClr | attest | stepAttestRequest | newChallenge | installBurgee | keyInstall | keyRevoke
      | debugUnlock | dbgObserve | dbgClose | dbgHalt | dbgStep | dbgResume | dbgRead | dbgWrite | dbgapAccess
      | hostBar2Read | hostBar2Write | ringDoorbell | ringConsWrite =>
    exact canon_row rfl rfl (by simp)
  all_goals exact canon_refl s

@[simp] theorem canon_regPut (s : State) (who : Writer) (r : RegSpec) (is : List Nat) (a : Nat) (v : Word) :
    s₀.canon (s.regPut who r is a v) = s₀.canonVia (s₀.canon s) (s.regPut who r is a v) :=
  canon_via (canon_if (((canon_refl _).via (canon_putWhole ..)).via (canon_secFail ..)) (((canon_refl _).via (canon_putWhole
    ..)).via (canon_foldl (fun _ _ => (canon_refl _).via (canon_runRow ..)) ..)))

@[simp] theorem canon_wordPut (s : State) (who : Writer) (a : Nat) (v : Word32) :
    s₀.canon (s.wordPut who a v) = s₀.canonVia (s₀.canon s) (s.wordPut who a v) := by
  refine canon_via ?_
  unfold State.wordPut
  split
  · exact canon_bootBuf (canon_refl s) (Memory.wf_memPut · _ _)
  · split
    · exact canon_flash (canon_refl s) (Memory.wf_memPut · _ _)
    · split
      · exact canon_refl s
      · split
        · simp
        · split <;> simp

@[simp] theorem canon_regPutAt (s : State) (who : Writer) (a : Nat) (wide : Bool) (v : Word) :
    s₀.canon (s.regPutAt who a wide v) = s₀.canonVia (s₀.canon s) (s.regPutAt who a wide v) := by
  refine canon_via ?_
  unfold State.regPutAt
  extract_lets whole
  clear_value whole
  split <;> simp

@[simp] theorem canon_regWrite (s : State) (who : Writer) (a0 : Nat) (wide : Bool) (v : Word) :
    s₀.canon (s.regWrite who a0 wide v) = s₀.canonVia (s₀.canon s) (s.regWrite who a0 wide v) := by
  refine canon_via ?_
  unfold State.regWrite
  extract_lets a host
  generalize (if wide = true then 8 else 4) = n
  split
  · split <;> simp
  · split <;> next h => simp [canon_snd h]

theorem canonOut_execRegisterWrite (who : Writer) (addr : BitVec 48) (wide : Bool) (v : Word) (s : State) :
    s.canonOut (execRegisterWrite who addr wide v s) := by
  simp only [execRegisterWrite, canonOut_next]
  split <;> simp

/-! The end of a wake. -/

@[simp] theorem canon_serveOne (s : State) (i : Instr) : s₀.canon (serveOne s i) = s₀.canonVia (s₀.canon s) (serveOne s i) := by
  refine canon_via ?_
  unfold serveOne
  split
  · exact canon_after (canonOut_execRegisterWrite ..)
  · simp

@[simp] theorem canon_serveHeld (s : State) :
    s₀.canon s.serveHeld = s₀.canonVia (s₀.canon s) s.serveHeld := canon_via (by simp [State.serveHeld])

@[simp] theorem canon_deepExit (s : State) :
    s₀.canon s.deepExit = s₀.canonVia (s₀.canon s) s.deepExit :=
  canon_via ((canon_mk ..).mpr ((canon_refl _).via (canon_warmReset ..)).mems)

@[simp] theorem canon_powerExit (s : State) :
    s₀.canon s.powerExit = s₀.canonVia (s₀.canon s) s.powerExit := canon_via (by simp [State.powerExit])

@[simp] theorem canon_margEnds (s : State) : s₀.canon s.margEnds = s₀.canonVia (s₀.canon s) s.margEnds := by
  refine canon_via ?_
  unfold State.margEnds
  extract_lets t
  have ht : s.canon t := by
    refine State.canon.via (by simp) (canon_foldl (fun u x => ?_) _ _ _)
    split <;> simp
  simp [ht]

theorem canonOut_row {i : Instr} {s t : State} (h : exec i s = .next t) (hr : runRow i s = after s (exec i s)) :
    s.canonOut (exec i s) := by
  have ht : runRow i s = t := by rw [hr, h, after]
  exact ⟨t, h, ht ▸ (canon_refl s).via (canon_runRow ..)⟩

/-- The commands named are those whose effect is a choice between cases, and those that a register's bits give too; every other
one runs functions of the state, each with its own lemma above. -/
theorem canonOut_exec (i : Instr) (s : State) : s.canonOut (exec i s) := by
  cases i
  case fillCopyEngineDone => exact canonOut_execFillCopyEngineDone ..
  case readDataReturn => exact canonOut_execReadDataReturn ..
  case writeAck => exact canonOut_execWriteAck ..
  case remoteSpRequest => exact canonOut_execRemoteSpRequest ..
  case nearRequest => exact canonOut_execNearRequest ..
  case reachRequest => exact canonOut_execReachRequest ..
  case reachCompletion => exact canonOut_execReachCompletion ..
  case reachTimeout => exact canonOut_execReachTimeout ..
  case nirloReadRequest => exact canonOut_execNirloReadRequest ..
  case repeatMessage => exact canonOut_execRepeatMessage ..
  case resumeMessage => exact canonOut_execResumeMessage ..
  case imageLoadStart => exact canonOut_execImageLoadStart ..
  case lifecycleTransition => exact canonOut_execLifecycleTransition ..
  case hostBar0Read => exact canonOut_execHostBar0Read ..
  case registerWrite => exact canonOut_execRegisterWrite ..
  case coreStart | coreStop | queueClear | imemLoadStart | arrayCntClr | nfCntClr | maskCntClr | spCntClr | mrCntClr
      | detCntClr | nearCntClr | rchCntClr | nrlCntClr | nrlChCntClr | xchCntClr | expCntClr | pwrCntClr | penHostSig
      | nearMarginStart | rchMarginStart | nrlTrain | nrlMarginStart | flitReceive | stepRun | stepSingle | stepHaltNow
      | profileSwitchCmd | latTolWrite | inbandReset | hostWarmReset | coreArrayReset | partitionReset | recoveryRestart
      | bootGo | fscClr | attest | stepAttestRequest | newChallenge | installBurgee | keyInstall | keyRevoke
      | debugUnlock | dbgObserve | dbgClose | dbgHalt | dbgStep | dbgResume | dbgRead | dbgWrite | dbgapAccess
      | hostBar2Read | hostBar2Write | ringDoorbell | ringConsWrite =>
    exact canonOut_row rfl rfl
  all_goals exact canonOut_of (by simp)

/-! The tick. -/

@[simp] theorem canon_upset (s : State) : s₀.canon s.upset = s₀.canonVia (s₀.canon s) s.upset := by
  refine canon_via ?_
  unfold State.upset
  extract_lets n k s₁ sp nr two
  have h₁ : s.canon s₁ := (canon_mk ..).mpr (canon_refl s).mems
  split
  · exact (canon_mk ..).mpr h₁.mems
  · exact (canon_mk ..).mpr h₁.mems
  · exact (canon_mk ..).mpr h₁.mems
  · exact (canon_mk ..).mpr h₁.mems
  · exact h₁.via (canon_modCore ..)
  · exact h₁.via (canon_modCore ..)
  · exact (canon_mk ..).mpr h₁.mems
  · exact h₁

@[simp] theorem canon_coreTick (s : State) (c : Nat) : s₀.canon (s.coreTick c) = s₀.canonVia (s₀.canon s) (s.coreTick c) :=
  canon_via ((canon_if (canon_refl _) ((((canon_mk ..).mpr (canon_refl _).mems).via (canon_engineGo ..)).via (canon_pump
    ..))).via (canon_foldl (fun _ _ => canon_if ((canon_refl _).via (canon_issueNext ..)) (canon_refl _)) ..))

@[simp] theorem canon_nearZero (s : State) (n mib : Nat) : s₀.canon (s.nearZero n mib) = s₀.canonVia (s₀.canon s) (s.nearZero n mib) :=
  canon_via (canon_near (canon_refl s) (Memory.wf_filter · _))

@[simp] theorem canon_nearScrubGo (s : State) (n : Nat) : s₀.canon (s.nearScrubGo n) = s₀.canonVia (s₀.canon s) (s.nearScrubGo n) :=
  canon_via (canon_if ((canon_mk ..).mpr (((canon_refl _).via (canon_nearZero ..)).via (canon_setFld ..)).mems) (canon_refl _))

@[simp] theorem canon_reachScrubGo (s : State) (n : Nat) :
    s₀.canon (s.reachScrubGo n) = s₀.canonVia (s₀.canon s) (s.reachScrubGo n) := by
  refine canon_via ?_
  unfold State.reachScrubGo
  extract_lets a segs pos total p done s₁
  have h₁ : s.canon s₁ := canon_reach (canon_refl s) (Memory.wf_filter · _)
  split <;> simp [h₁]

@[simp] theorem canon_linksGo (s : State) : s₀.canon s.linksGo = s₀.canonVia (s₀.canon s) s.linksGo :=
  canon_via ((canon_refl _).via (canon_foldl (fun _ _ => canon_if ((canon_refl _).via (canon_portBoundary ..)) (canon_refl
    _)) ..))

@[simp] theorem canon_goesOn (s : State) : s₀.canon s.goesOn = s₀.canonVia (s₀.canon s) s.goesOn :=
  canon_via (((((canon_refl _).via (canon_foldl (fun _ _ => canon_if ((canon_refl _).via (canon_coreTick ..)) (canon_refl _))
    ..)).via (canon_foldl (fun _ _ => (canon_refl _).via (canon_nearScrubGo ..)) ..)).via (canon_foldl (fun _ _ =>
    (canon_refl _).via (canon_reachScrubGo ..)) ..)).via (canon_linksGo ..))

@[simp] theorem canon_tickPasses (s : State) : s₀.canon s.tickPasses = s₀.canonVia (s₀.canon s) s.tickPasses :=
  canon_via (by simp [State.tickPasses, State.tickCounts])

theorem canonOut_step (s : State) : s.canonOut (step s) := by
  unfold step
  split
  · simp
  · next c cs _ =>
    obtain ⟨t, ht, h⟩ := canonOut_exec c { s with pending := cs }
    exact ⟨t, ht, h⟩

/-- Settles O56, by a lemma for each function of the state that a command or a tick calls. -/
theorem everyStepKeepsMemoriesCanonical : Obligations.EveryStepKeepsMemoriesCanonical := by
  intro s hs
  obtain ⟨t, ht, h⟩ := canonOut_step s
  exact ⟨t, ht, (canon_iff s t).1 h hs⟩

end Sys2Proof.Machine
end

section
/-! PROOFS. The patrols of the scratchpads and of near memory (R177, R182, R219, R234). -/

namespace Sys2Proof.Machine

open Sys2Proof

/-! Counters that saturate, and what a frame says of a field. -/

theorem fld_bump_self (s : State) (a : Nat) (f : FieldPos) (n : Nat) (h : f.lo + f.width ≤ 64) :
    (s.bump a f n).fld a f = min (2 ^ f.width - 1) (s.fld a f + n) := by
  rw [State.bump, fld_setFld_self _ _ _ _ h]
  exact Nat.mod_eq_of_lt (by have := Nat.two_pow_pos f.width; omega)

theorem fld_bump_apart (s : State) (a b : Nat) (f g : FieldPos) (n : Nat) (h : f.lo + f.width ≤ 64)
    (d : g.lo + g.width ≤ f.lo ∨ f.lo + f.width ≤ g.lo) : (s.bump a f n).fld b g = s.fld b g :=
  fld_setFld_apart s a b f g _ h d

theorem fld_bump_ne (s : State) {a b : Nat} (f g : FieldPos) (n : Nat) (h : b ≠ a) : (s.bump a f n).fld b g = s.fld b g :=
  fld_setFld_ne s f g _ h

theorem fld_of_reg {s t : State} {a : Nat} (h : t.reg a = s.reg a) (f : FieldPos) : t.fld a f = s.fld a f := by
  rw [State.fld, State.fld, h]

theorem fld_lt (s : State) (a : Nat) (f : FieldPos) : s.fld a f < 2 ^ f.width := wordFld_lt _ f

theorem fld_eq_zero_of_flag {s : State} {a : Nat} {f : FieldPos} (h : s.flag a f = false) : s.fld a f = 0 := by
  simpa [State.flag] using h

theorem fld_ne_zero_of_flag {s : State} {a : Nat} {f : FieldPos} (h : s.flag a f = true) : s.fld a f ≠ 0 := by
  simpa [State.flag] using h

/-! The patrol's read of a line. -/

theorem onlyRegs_noteSpUe (s : State) (c src off : Nat) :
    onlyRegs s (s.noteSpUe c src off) [Reg.SP_ECC c, Reg.SP_UE_LOC c] := by
  unfold State.noteSpUe
  dsimp only
  split
  · exact onlyRegs_refl _ _
  · apply_rules [onlyRegs_setFld, onlyRegs_setReg, onlyRegs_refl]
    all_goals simp

theorem spUeLoc_ne_spEcc (c : Nat) : Reg.SP_UE_LOC c ≠ Reg.SP_ECC c := by
  unfold Reg.SP_UE_LOC Reg.SP_ECC
  omega

theorem spPatrol_ne_spEcc (c : Nat) : Reg.SP_ECC c ≠ Reg.SP_PATROL c := by
  unfold Reg.SP_PATROL Reg.SP_ECC
  omega

theorem spPatrol_ne_spUeLoc (c : Nat) : Reg.SP_UE_LOC c ≠ Reg.SP_PATROL c := by
  unfold Reg.SP_PATROL Reg.SP_UE_LOC
  omega

/-- An uncorrectable word is recorded where none was (R182). -/
theorem noteSpUe_records {s : State} {c : Nat} (h : s.flag (Reg.SP_ECC c) Fld.SP_ECC_UE = false) (src off : Nat) :
    (s.noteSpUe c src off).fld (Reg.SP_ECC c) Fld.SP_ECC_UE = 1
      ∧ (s.noteSpUe c src off).fld (Reg.SP_ECC c) Fld.SP_ECC_UE_SRC = src % 8
      ∧ (s.noteSpUe c src off).reg (Reg.SP_UE_LOC c) = BitVec.ofNat 64 (off / 4 * 4) := by
  have hne := (spUeLoc_ne_spEcc c).symm
  simp only [State.noteSpUe, h, Bool.false_eq_true, if_false]
  refine ⟨?_, ?_, reg_setReg_self ..⟩
  · rw [fld_setReg_ne _ _ _ hne, fld_setFld_apart _ _ _ _ _ _ (by decide) (by decide), fld_setFld_self _ _ _ _ (by decide)]
    rfl
  · rw [fld_setReg_ne _ _ _ hne, fld_setFld_self _ _ _ _ (by decide)]
    rfl

theorem noteSpUe_of_recorded {s : State} {c : Nat} (h : s.flag (Reg.SP_ECC c) Fld.SP_ECC_UE = true) (src off : Nat) :
    s.noteSpUe c src off = s := by
  simp only [State.noteSpUe, h, if_true]

theorem corrCnt_noteSpUe (s : State) (c src off : Nat) :
    (s.noteSpUe c src off).fld (Reg.SP_ECC c) Fld.SP_ECC_CORR_CNT = s.fld (Reg.SP_ECC c) Fld.SP_ECC_CORR_CNT := by
  unfold State.noteSpUe
  dsimp only
  split
  · rfl
  · rw [fld_setReg_ne _ _ _ (spUeLoc_ne_spEcc c).symm, fld_setFld_apart _ _ _ _ _ _ (by decide) (by decide),
      fld_setFld_apart _ _ _ _ _ _ (by decide) (by decide)]

/-- The record of a line's first uncorrectable word. -/
def State.lineNoted (s : State) (c off : Nat) : State :=
  match (List.range 4).find? fun i => s.spUe.contains ((c * 0x20_0000 + off) / 4 + i) with
  | some i => s.noteSpUe c 5 (off + 4 * i)
  | none => s

/-- Words of a line that the patrol corrects. -/
def State.lineCorrected (s : State) (c off : Nat) : List Nat :=
  (List.range 4).filter fun i => s.spWeak.contains ((c * 0x20_0000 + off) / 4 + i)
    && !s.spUe.contains ((c * 0x20_0000 + off) / 4 + i)

/-- A line's words that hold one wrong bit hold none any longer. -/
def State.lineWeak (s : State) (c off : Nat) : List Nat :=
  s.spWeak.filter fun x => !((List.range 4).map fun i => (c * 0x20_0000 + off) / 4 + i).contains x || s.spUe.contains x

theorem onlyRegs_lineNoted (s : State) (c off : Nat) : onlyRegs s (s.lineNoted c off) [Reg.SP_ECC c, Reg.SP_UE_LOC c] := by
  unfold State.lineNoted
  split
  · exact onlyRegs_noteSpUe ..
  · exact onlyRegs_refl _ _

/-- The record of a line, and the count of its corrected words. -/
def State.lineCounted (s : State) (c off : Nat) : State :=
  if (s.lineCorrected c off).length = 0 then s.lineNoted c off
  else (s.lineNoted c off).bump (Reg.SP_ECC c) Fld.SP_ECC_CORR_CNT (s.lineCorrected c off).length

theorem patrolLine_eq (s : State) (c off : Nat) :
    s.patrolLine c off = { s.lineCounted c off with spWeak := s.lineWeak c off } := by
  have hn := onlyRegs_lineNoted s c off
  have hue : (s.lineNoted c off).spUe = s.spUe := by rw [hn.1]
  have hweak : (s.lineNoted c off).spWeak = s.spWeak := by rw [hn.1]
  have hlen : (((List.range 4).map fun i => (c * 0x20_0000 + off) / 4 + i).filter fun w =>
      (s.lineNoted c off).spWeak.contains w && !(s.lineNoted c off).spUe.contains w).length
        = (s.lineCorrected c off).length := by
    rw [hue, hweak, List.filter_map, List.length_map]
    rfl
  unfold State.patrolLine
  extract_lets w0 ws u n v
  have hu : u = s.lineNoted c off := rfl
  have hv : v = s.lineCounted c off := by
    simp only [v, n, hu, ws, w0, hlen]
    rfl
  have hvu : v.spUe = s.spUe ∧ v.spWeak = s.spWeak := by
    simp only [v, apply_ite State.spUe, apply_ite State.spWeak, State.bump, State.setFld, spUe_setReg, spWeak_setReg, ite_self]
    exact ⟨hue, hweak⟩
  have hkept : (v.spWeak.filter fun w => !ws.contains w || v.spUe.contains w) = s.lineWeak c off := by
    rw [hvu.1, hvu.2]
    rfl
  exact congrArg₂ (fun (x : State) l => { x with spWeak := l }) hv hkept

theorem onlyRegs_lineCounted (s : State) (c off : Nat) :
    onlyRegs s (s.lineCounted c off) [Reg.SP_ECC c, Reg.SP_UE_LOC c] := by
  unfold State.lineCounted
  split
  · exact onlyRegs_lineNoted ..
  · exact onlyRegs_bump (onlyRegs_lineNoted ..) (by simp) ..

theorem reg_lineCounted (s : State) (c off a : Nat) : (s.lineCounted c off).reg a
    = ((s.lineNoted c off).bump (Reg.SP_ECC c) Fld.SP_ECC_CORR_CNT (s.lineCorrected c off).length).reg a := by
  unfold State.lineCounted
  split
  · next h => rw [h, reg_bump_zero]
  · rfl

theorem corrCnt_lineNoted (s : State) (c off : Nat) :
    (s.lineNoted c off).fld (Reg.SP_ECC c) Fld.SP_ECC_CORR_CNT = s.fld (Reg.SP_ECC c) Fld.SP_ECC_CORR_CNT := by
  unfold State.lineNoted
  split
  · exact corrCnt_noteSpUe ..
  · rfl

/-- The words corrected are counted, saturating. -/
theorem corrCnt_lineCounted (s : State) (c off : Nat) : (s.lineCounted c off).fld (Reg.SP_ECC c) Fld.SP_ECC_CORR_CNT
    = min 65535 (s.fld (Reg.SP_ECC c) Fld.SP_ECC_CORR_CNT + (s.lineCorrected c off).length) := by
  rw [State.fld, reg_lineCounted, ← State.fld, fld_bump_self _ _ _ _ (by decide), corrCnt_lineNoted]
  rfl

/-- The counting keeps the record. -/
theorem record_lineCounted (s : State) (c off : Nat) :
    (s.lineCounted c off).fld (Reg.SP_ECC c) Fld.SP_ECC_UE = (s.lineNoted c off).fld (Reg.SP_ECC c) Fld.SP_ECC_UE
      ∧ (s.lineCounted c off).fld (Reg.SP_ECC c) Fld.SP_ECC_UE_SRC
          = (s.lineNoted c off).fld (Reg.SP_ECC c) Fld.SP_ECC_UE_SRC
      ∧ (s.lineCounted c off).reg (Reg.SP_UE_LOC c) = (s.lineNoted c off).reg (Reg.SP_UE_LOC c) := by
  refine ⟨?_, ?_, ?_⟩
  · rw [State.fld, reg_lineCounted, ← State.fld]
    exact fld_bump_apart _ _ _ _ _ _ (by decide) (by decide)
  · rw [State.fld, reg_lineCounted, ← State.fld]
    exact fld_bump_apart _ _ _ _ _ _ (by decide) (by decide)
  · rw [reg_lineCounted, reg_bump_ne _ _ _ (spUeLoc_ne_spEcc c)]

theorem lineNoted_first {s : State} {c off i : Nat} (hi : i < 4) (h : (c * 0x20_0000 + off) / 4 + i ∈ s.spUe)
    (hfirst : ∀ j < i, (c * 0x20_0000 + off) / 4 + j ∉ s.spUe) : s.lineNoted c off = s.noteSpUe c 5 (off + 4 * i) := by
  have hfind : (List.range 4).find? (fun j => s.spUe.contains ((c * 0x20_0000 + off) / 4 + j)) = some i := by
    rw [List.find?_range_eq_some]
    exact ⟨by simpa using h, by simpa using hi, fun j hj => by simpa using hfirst j hj⟩
  simp only [State.lineNoted, hfind]

theorem lineNoted_kept {s : State} {c off : Nat} (h : (∀ i < 4, (c * 0x20_0000 + off) / 4 + i ∉ s.spUe)
    ∨ s.flag (Reg.SP_ECC c) Fld.SP_ECC_UE = true) : s.lineNoted c off = s := by
  unfold State.lineNoted
  split
  · next i hi =>
    rw [List.find?_range_eq_some] at hi
    obtain ⟨hue, hlt, -⟩ := hi
    rcases h with h | h
    · exact absurd (by simpa using hue) (h i (by simpa using hlt))
    · exact noteSpUe_of_recorded h _ _
  · rfl

/-! The row that the patrol has reached. -/

/-- The row goes on with the last bank, and its last one ends a sweep (R177). -/
def State.rowNext (s : State) (c bank row : Nat) : State :=
  if bank < 63 then s
  else if row = 2047 then
    (s.setFld (Reg.SP_PATROL c) Fld.SP_PATROL_ROW (row + 1)).bump (Reg.SP_PATROL c) Fld.SP_PATROL_SWEEPS 1
  else s.setFld (Reg.SP_PATROL c) Fld.SP_PATROL_ROW (row + 1)

theorem onlyRegs_rowNext (s : State) (c bank row : Nat) : onlyRegs s (s.rowNext c bank row) [Reg.SP_PATROL c] := by
  unfold State.rowNext
  split
  · exact onlyRegs_refl _ _
  · split
    · exact onlyRegs_bump (onlyRegs_setFld (onlyRegs_refl _ _) (by simp) ..) (by simp) ..
    · exact onlyRegs_setFld (onlyRegs_refl _ _) (by simp) ..

theorem row_rowNext (s : State) (c : Nat) (bank : Fin 64) :
    (s.rowNext c bank.val (s.fld (Reg.SP_PATROL c) Fld.SP_PATROL_ROW)).fld (Reg.SP_PATROL c) Fld.SP_PATROL_ROW
      = if bank.val = 63 then (s.fld (Reg.SP_PATROL c) Fld.SP_PATROL_ROW + 1) % 2048
        else s.fld (Reg.SP_PATROL c) Fld.SP_PATROL_ROW := by
  have hb := bank.isLt
  unfold State.rowNext
  split
  · next h => rw [if_neg (by omega)]
  · next h =>
    rw [if_pos (show bank.val = 63 by omega)]
    split
    · rw [fld_bump_apart _ _ _ _ _ _ (by decide) (by decide), fld_setFld_self _ _ _ _ (by decide)]
      rfl
    · rw [fld_setFld_self _ _ _ _ (by decide)]
      rfl

theorem sweeps_rowNext (s : State) (c : Nat) (bank : Fin 64) (row : Nat) :
    (s.rowNext c bank.val row).fld (Reg.SP_PATROL c) Fld.SP_PATROL_SWEEPS
      = if bank.val = 63 ∧ row = 2047 then min (2 ^ 21 - 1) (s.fld (Reg.SP_PATROL c) Fld.SP_PATROL_SWEEPS + 1)
        else s.fld (Reg.SP_PATROL c) Fld.SP_PATROL_SWEEPS := by
  have hb := bank.isLt
  have hset : (s.setFld (Reg.SP_PATROL c) Fld.SP_PATROL_ROW (row + 1)).fld (Reg.SP_PATROL c) Fld.SP_PATROL_SWEEPS
      = s.fld (Reg.SP_PATROL c) Fld.SP_PATROL_SWEEPS := fld_setFld_apart _ _ _ _ _ _ (by decide) (by decide)
  unfold State.rowNext
  split
  · next h => rw [if_neg (by omega)]
  · next h =>
    split
    · next hrow =>
      rw [if_pos ⟨by omega, hrow⟩, fld_bump_self _ _ _ _ (by decide), hset]
      rfl
    · next hrow => rw [if_neg fun h => hrow h.2, hset]

/-! One grant. -/

/-- What the check finds at a word (R177): bits wrong from now on. -/
def State.spFound (s : State) (w : Nat) (e : Ecc) : State :=
  { s with
    spUe := if e = .uncorrectable ∧ w ∉ s.spUe then w :: s.spUe else s.spUe
    spWeak := if e = .corrected ∧ w ∉ s.spUe ∧ w ∉ s.spWeak then w :: s.spWeak else s.spWeak }

theorem spUe_spFound (s : State) (w : Nat) (e : Ecc) :
    (s.spFound w e).spUe = if e = .uncorrectable ∧ w ∉ s.spUe then w :: s.spUe else s.spUe := (rfl)

theorem spWeak_spFound (s : State) (w : Nat) (e : Ecc) :
    (s.spFound w e).spWeak = if e = .corrected ∧ w ∉ s.spUe ∧ w ∉ s.spWeak then w :: s.spWeak else s.spWeak := (rfl)

/-- Held writes of a core's patrol take effect with the last bank (R326). -/
def State.patrolHeld (s : State) (c bank : Nat) : State :=
  if bank < 63 then s else s.applyHeld fun r is => r.boundary == .patrolRow && is.headD 0 == c

theorem patrolSp_off {s : State} {c bank word : Nat} {e : Ecc} (hisl : s.islEnabled (coreIsland c) = true)
    (hcore : s.coreEnabled c = true) (hen : s.flag (Reg.SP_CFG c) Fld.SP_CFG_PATROL_EN = false) :
    s.patrolSp c bank word e = s.patrolHeld c bank := by
  simp [State.patrolSp, State.patrolHeld, hisl, hcore, fld_eq_zero_of_flag hen]

theorem patrolSp_on {s : State} {c bank word : Nat} {e : Ecc} (hisl : s.islEnabled (coreIsland c) = true)
    (hcore : s.coreEnabled c = true) (hen : s.flag (Reg.SP_CFG c) Fld.SP_CFG_PATROL_EN = true) :
    s.patrolSp c bank word e
      = ((((s.spFound ((c * 0x20_0000 + (s.fld (Reg.SP_PATROL c) Fld.SP_PATROL_ROW * 1024 + bank * 16)) / 4 + word) e).patrolLine
          c (s.fld (Reg.SP_PATROL c) Fld.SP_PATROL_ROW * 1024 + bank * 16)).rowNext c bank
            (s.fld (Reg.SP_PATROL c) Fld.SP_PATROL_ROW)).patrolHeld c bank) := by
  have hfound : ∀ w, s.spFound w e = { s with
      spUe := if (e == Ecc.uncorrectable && !s.spUe.contains w) = true then w :: s.spUe else s.spUe
      spWeak := if (e == Ecc.corrected && !s.spUe.contains w && !s.spWeak.contains w) = true then w :: s.spWeak
        else s.spWeak } := by
    intro w
    simp [State.spFound, and_assoc]
  rw [hfound]
  unfold State.patrolSp State.patrolHeld State.rowNext
  simp only [hisl, hcore, fld_ne_zero_of_flag hen, Bool.not_true, Bool.false_eq_true, or_self, if_false]
  split <;> rfl

end Sys2Proof.Machine
end

section
/-! PROOFS. A grant of the scratchpad patrol (R177, R182). -/

namespace Sys2Proof.Machine

open Sys2Proof

theorem lineCorrected_spFound (s : State) (c off : Nat) (word : Fin 4) (e : Ecc) :
    (s.spFound ((c * 0x20_0000 + off) / 4 + word.val) e).lineCorrected c off
      = (List.range 4).filter fun i =>
          (s.spWeak.contains ((c * 0x20_0000 + off) / 4 + i) || (e == .corrected && i == word.val))
            && !(s.spFound ((c * 0x20_0000 + off) / 4 + word.val) e).spUe.contains ((c * 0x20_0000 + off) / 4 + i) := by
  unfold State.lineCorrected
  refine List.filter_congr fun i _ => ?_
  cases e with
  | clean => simp [spUe_spFound, spWeak_spFound, show (Ecc.clean == Ecc.corrected) = false from rfl]
  | uncorrectable => simp [spUe_spFound, spWeak_spFound, show (Ecc.uncorrectable == Ecc.corrected) = false from rfl]
  | corrected =>
    by_cases hi : i = word.val
    · subst hi
      by_cases hu : (c * 0x20_0000 + off) / 4 + word.val ∈ s.spUe
      · simp [spUe_spFound, spWeak_spFound, hu]
      · by_cases hw : (c * 0x20_0000 + off) / 4 + word.val ∈ s.spWeak <;> simp [spUe_spFound, spWeak_spFound, hu, hw]
    · by_cases hp : (c * 0x20_0000 + off) / 4 + word.val ∉ s.spUe ∧ (c * 0x20_0000 + off) / 4 + word.val ∉ s.spWeak
      · simp [spUe_spFound, spWeak_spFound, hp, hi, beq_false_of_ne hi]
      · simp [spUe_spFound, spWeak_spFound, hp, beq_false_of_ne hi]

theorem mem_line {w x : Nat} : x ∈ (List.range 4).map (fun i => w + i) ↔ w ≤ x ∧ x < w + 4 := by
  simp only [List.mem_map, List.mem_range]
  exact ⟨by rintro ⟨i, hi, rfl⟩; omega, fun h => ⟨x - w, by omega, by omega⟩⟩

theorem lineWeak_spFound (s : State) (c off : Nat) (word : Fin 4) (e : Ecc) :
    (s.spFound ((c * 0x20_0000 + off) / 4 + word.val) e).lineWeak c off
      = s.spWeak.filter fun x => decide (x < (c * 0x20_0000 + off) / 4 ∨ (c * 0x20_0000 + off) / 4 + 4 ≤ x
          ∨ x ∈ (s.spFound ((c * 0x20_0000 + off) / 4 + word.val) e).spUe) := by
  have hline : ∀ (w : Nat) (l : List Nat) (x : Nat), (!((List.range 4).map fun i => w + i).contains x || l.contains x)
      = decide (x < w ∨ w + 4 ≤ x ∨ x ∈ l) := by
    intro w l x
    rw [Bool.eq_iff_iff]
    simp only [Bool.or_eq_true, Bool.not_eq_true', List.contains_eq_mem, decide_eq_true_eq, decide_eq_false_iff_not, mem_line]
    by_cases hx : x ∈ l
    · simp [hx]
    · simp only [hx, or_false]
      omega
  unfold State.lineWeak
  simp only [hline]
  set w := (c * 0x20_0000 + off) / 4 with hw
  by_cases h : e = .corrected ∧ w + word.val ∉ s.spUe ∧ w + word.val ∉ s.spWeak
  · obtain ⟨rfl, hue, hweak⟩ := h
    have hword := word.isLt
    have hdrop : ¬ (w + word.val < w ∨ w + 4 ≤ w + word.val ∨ w + word.val ∈ s.spUe) := by
      rintro (h | h | h)
      · omega
      · omega
      · exact hue h
    have hkept : (s.spFound (w + word.val) .corrected).spUe = s.spUe := by simp [spUe_spFound]
    rw [hkept, show (s.spFound (w + word.val) .corrected).spWeak = (w + word.val) :: s.spWeak from if_pos ⟨rfl, hue, hweak⟩,
      List.filter_cons_of_neg (by simpa using hdrop)]
  · simp only [spUe_spFound, spWeak_spFound, if_neg h]

/-- A grant with patrol enabled, before held writes take effect. -/
def State.spGrant (s : State) (c bank word : Nat) (e : Ecc) : State :=
  let row := s.fld (Reg.SP_PATROL c) Fld.SP_PATROL_ROW
  let off := row * 1024 + bank * 16
  ((s.spFound ((c * 0x20_0000 + off) / 4 + word) e).patrolLine c off).rowNext c bank row

theorem patrolLine_memory (s : State) (c off : Nat) : sameMemory s (s.patrolLine c off) := by
  rw [patrolLine_eq]
  exact (framed_of_onlyRegs (onlyRegs_lineCounted s c off)).2

theorem reg_patrolLine (s : State) (c off a : Nat) : (s.patrolLine c off).reg a = (s.lineCounted c off).reg a := by
  rw [patrolLine_eq]
  rfl

/-- A grant changes three registers, no memory, and nothing of the cores. -/
theorem framed_spGrant (s : State) (c bank word : Nat) (e : Ecc) :
    framed s (s.spGrant c bank word e) [Reg.SP_ECC c, Reg.SP_UE_LOC c, Reg.SP_PATROL c] := by
  unfold State.spGrant
  extract_lets row off
  set u := s.spFound ((c * 0x20_0000 + off) / 4 + word) e with hu
  have hline : framed s (u.patrolLine c off) [Reg.SP_ECC c, Reg.SP_UE_LOC c] :=
    ⟨fun a ha => (reg_patrolLine u c off a).trans ((onlyRegs_lineCounted u c off).2 a ha), patrolLine_memory u c off⟩
  exact framed_trans hline (framed_of_onlyRegs (onlyRegs_rowNext _ c bank row))

theorem fields_spGrant (s : State) (c bank word : Nat) (e : Ecc) :
    let row := s.fld (Reg.SP_PATROL c) Fld.SP_PATROL_ROW
    let off := row * 1024 + bank * 16
    let u := s.spFound ((c * 0x20_0000 + off) / 4 + word) e
    (s.spGrant c bank word e).cores = s.cores ∧ (s.spGrant c bank word e).held = s.held
      ∧ (s.spGrant c bank word e).spUe = u.spUe ∧ (s.spGrant c bank word e).spWeak = u.lineWeak c off := by
  intro row off u
  have hrow := (onlyRegs_rowNext (u.patrolLine c off) c bank row).1
  have hline := (onlyRegs_lineCounted u c off).1
  have hgrant : s.spGrant c bank word e = (u.patrolLine c off).rowNext c bank row := rfl
  rw [hgrant, hrow, patrolLine_eq, hline]
  exact ⟨rfl, rfl, rfl, rfl⟩

/-- A register of the line's record reads after the grant as after the line. -/
theorem reg_spGrant {s : State} {c bank word : Nat} {e : Ecc} {a : Nat} (ha : a ≠ Reg.SP_PATROL c) :
    let off := s.fld (Reg.SP_PATROL c) Fld.SP_PATROL_ROW * 1024 + bank * 16
    (s.spGrant c bank word e).reg a = ((s.spFound ((c * 0x20_0000 + off) / 4 + word) e).lineCounted c off).reg a :=
  ((onlyRegs_rowNext _ c bank _).2 a (by simpa using ha)).trans (reg_patrolLine _ _ _ a)

theorem spPatrol_of_enabled {c : CoreId} {bank : Fin 64} {word : Fin 4} {e : Ecc} {s : State}
    (hisl : s.islEnabled (coreIsland c.val) = true) (hcore : s.coreEnabled c.val = true)
    (hen : s.flag (Reg.SP_CFG c.val) Fld.SP_CFG_PATROL_EN = true) :
    exec (.spPatrol c bank word e) s = .next ((s.spGrant c.val bank.val word.val e).patrolHeld c.val bank.val) :=
  congrArg _ (patrolSp_on hisl hcore hen)

end Sys2Proof.Machine
end

section
/-! PROOFS. A grant of the near patrol (R219, R234). -/

namespace Sys2Proof.Machine

open Sys2Proof

/-! The record of an uncorrectable sector. -/

theorem onlyRegs_noteNearUe (s : State) (pc src addr : Nat) :
    onlyRegs s (s.noteNearUe pc src addr) [Reg.NEAR_ECC (pc / 32), Reg.NEAR_UE_ADDR (pc / 32)] := by
  unfold State.noteNearUe
  dsimp only
  split
  · exact onlyRegs_refl _ _
  · apply_rules [onlyRegs_setFld, onlyRegs_setReg, onlyRegs_refl]
    all_goals simp

theorem nearUeAddr_ne_nearEcc (h : Nat) : Reg.NEAR_UE_ADDR h ≠ Reg.NEAR_ECC h := by
  unfold Reg.NEAR_UE_ADDR Reg.NEAR_ECC
  omega

theorem noteNearUe_records {s : State} {pc : Nat} (h : s.flag (Reg.NEAR_ECC (pc / 32)) Fld.NEAR_ECC_UE = false)
    (src addr : Nat) :
    let t := s.noteNearUe pc src addr
    t.fld (Reg.NEAR_ECC (pc / 32)) Fld.NEAR_ECC_UE = 1
      ∧ t.fld (Reg.NEAR_ECC (pc / 32)) Fld.NEAR_ECC_UE_SRC = src % 2
      ∧ t.fld (Reg.NEAR_ECC (pc / 32)) Fld.NEAR_ECC_UE_PC = pc % 32 % 32
      ∧ t.reg (Reg.NEAR_UE_ADDR (pc / 32)) = BitVec.ofNat 64 addr := by
  have hne := (nearUeAddr_ne_nearEcc (pc / 32)).symm
  simp only [State.noteNearUe, h, Bool.false_eq_true, if_false]
  refine ⟨?_, ?_, ?_, reg_setReg_self ..⟩ <;> rw [fld_setReg_ne _ _ _ hne]
  · rw [fld_setFld_apart _ _ _ _ _ _ (by decide) (by decide), fld_setFld_apart _ _ _ _ _ _ (by decide) (by decide),
      fld_setFld_self _ _ _ _ (by decide)]
    rfl
  · rw [fld_setFld_apart _ _ _ _ _ _ (by decide) (by decide), fld_setFld_self _ _ _ _ (by decide)]
    rfl
  · rw [fld_setFld_self _ _ _ _ (by decide)]
    rfl

theorem noteNearUe_of_recorded {s : State} {pc : Nat} (h : s.flag (Reg.NEAR_ECC (pc / 32)) Fld.NEAR_ECC_UE = true)
    (src addr : Nat) : s.noteNearUe pc src addr = s := by
  simp only [State.noteNearUe, h, if_true]

theorem corrCnt_noteNearUe (s : State) (pc src addr : Nat) :
    (s.noteNearUe pc src addr).fld (Reg.NEAR_ECC (pc / 32)) Fld.NEAR_ECC_CORR_CNT
      = s.fld (Reg.NEAR_ECC (pc / 32)) Fld.NEAR_ECC_CORR_CNT := by
  unfold State.noteNearUe
  dsimp only
  split
  · rfl
  · rw [fld_setReg_ne _ _ _ (nearUeAddr_ne_nearEcc (pc / 32)).symm, fld_setFld_apart _ _ _ _ _ _ (by decide) (by decide),
      fld_setFld_apart _ _ _ _ _ _ (by decide) (by decide), fld_setFld_apart _ _ _ _ _ _ (by decide) (by decide)]

/-! What a grant finds. -/

/-- The die's count of corrections grows. -/
def State.dieCounted (s : State) (h n : Nat) : State := s.bump (Reg.NEAR_DIE_CORR h) Fld.NEAR_DIE_CORR_COUNT n

/-- The key of a pseudo-channel's sector in the sets of wrong sectors. -/
def sectorKey (h pc n : Nat) : Nat := ((32 * h + pc) * 2 ^ 31 + 32 * n) / 32

/-- An uncorrectable sector found. -/
def State.sectorBad (s : State) (key : Nat) : State :=
  { s with
    nearUe := if s.nearUe.contains key then s.nearUe else key :: s.nearUe
    nearWeak := s.nearWeak.filter (· != key) }

/-- A sector's finding: uncorrectable and recorded, or corrected and counted, or clean. -/
def State.nearFound (s : State) (h pc n : Nat) (e : Ecc) : State :=
  let key := sectorKey h pc n
  if e = .uncorrectable ∨ key ∈ s.nearUe then
    match s.nearAddr (32 * h + pc) (32 * n) with
    | some a => (s.sectorBad key).noteNearUe (32 * h + pc) 1 a
    | none => { (s.sectorBad key).noteNearUe (32 * h + pc) 1 (Config.freeNat s.free % 2 ^ 48) with free := s.free + 1 }
  else if e = .corrected ∨ key ∈ s.nearWeak then
    { s with nearWeak := s.nearWeak.filter (· != key) }.bump (Reg.NEAR_ECC h) Fld.NEAR_ECC_CORR_CNT 1
  else s

/-- The sector goes on with the last pseudo-channel, and its last one ends a sweep. -/
def State.sectorNext (s : State) (h pc n : Nat) : State :=
  if pc < 31 then s
  else if n + 1 = 2 ^ 26 then
    (s.setFld (Reg.NEAR_PATROL h) Fld.NEAR_PATROL_SECTOR (n + 1)).bump (Reg.NEAR_PATROL h) Fld.NEAR_PATROL_SWEEPS 1
  else s.setFld (Reg.NEAR_PATROL h) Fld.NEAR_PATROL_SECTOR (n + 1)

theorem patrolNear_on {s : State} {h pc : Nat} {e : Ecc} {n : Nat} (hen : s.flag (Reg.NEAR_CTL h) Fld.NEAR_CTL_PATROL_EN = true)
    (hclk : s.uncEnabled (8 + h) = true) (hself : s.flag (Reg.NEAR_STAT h) Fld.NEAR_STAT_SELFREF = false) :
    s.patrolNear h pc e n
      = ((s.dieCounted h n).nearFound h pc (s.fld (Reg.NEAR_PATROL h) Fld.NEAR_PATROL_SECTOR) e).sectorNext h pc
          (s.fld (Reg.NEAR_PATROL h) Fld.NEAR_PATROL_SECTOR) := by
  have hcond : ¬ (s.fld (Reg.NEAR_CTL h) Fld.NEAR_CTL_PATROL_EN = 0 ∨ (!s.uncEnabled (8 + h)) = true
      ∨ s.flag (Reg.NEAR_STAT h) Fld.NEAR_STAT_SELFREF = true) := by
    simp [fld_ne_zero_of_flag hen, hclk, hself]
  unfold State.patrolNear State.nearFound State.sectorNext State.dieCounted
  rw [if_neg hcond]
  simp only [← List.contains_iff_mem]
  split <;> rfl

/-! What depends on the sets' tables alone. -/

/-- The tables of the interleave sets are the same (R217). -/
def sameSets (s t : State) : Prop :=
  ∀ n < 8, t.reg (Reg.NEAR_SET_CFG n) = s.reg (Reg.NEAR_SET_CFG n)
    ∧ ∀ i < 64, t.reg (Reg.NEAR_SET_LIST n i) = s.reg (Reg.NEAR_SET_LIST n i)

variable {s t : State} (hsets : sameSets s t)

include hsets

theorem setOwner_of_sameSets {n : Nat} (hn : n < 8) : t.setOwner n = s.setOwner n := by
  have hcfg := (hsets n hn).1
  rw [State.setOwner, State.setOwner, State.flag, State.flag, fld_of_reg hcfg, fld_of_reg hcfg]

theorem setChannels_of_sameSets {n : Nat} (hn : n < 8) : t.setChannels n = s.setChannels n := by
  obtain ⟨hcfg, hlist⟩ := hsets n hn
  rw [State.setChannels, State.setChannels, fld_of_reg hcfg]
  split
  · rfl
  · next hlog =>
    refine List.map_congr_left fun i hi => ?_
    have h256 : i < 2 ^ 8 := (List.mem_range.1 hi).trans_le (Nat.pow_le_pow_right (by decide) (by omega))
    rw [State.setEntry, State.setEntry, hlist _ (by omega)]

theorem nearAddr_of_sameSets (pc pa : Nat) : t.nearAddr pc pa = s.nearAddr pc pa := by
  unfold State.nearAddr
  rw [← List.head?_filterMap, ← List.head?_filterMap]
  refine congrArg List.head? (List.filterMap_congr fun n hn => ?_)
  have hn : n < 8 := List.mem_range.1 hn
  have hcfg := (hsets n hn).1
  dsimp only
  rw [setOwner_of_sameSets hsets hn, setChannels_of_sameSets hsets hn, fld_of_reg hcfg, fld_of_reg hcfg]

omit hsets

/-- What a stack's controller registers hold is in no table of a set. -/
theorem sameSets_of_regs {as : List Nat} (h : sameRegsBut s t as)
    (has : ∀ a ∈ as, a < Reg.NEAR_SET_CFG 0 ∨ Reg.NEAR_SET_LIST 8 0 ≤ a ∨ a % 0x10 = 8 ∧ a < Reg.NEAR_SET_LIST 0 0) :
    sameSets s t := by
  refine fun n hn => ⟨h _ fun hm => ?_, fun i hi => h _ fun hm => ?_⟩
  · have := has _ hm
    unfold Reg.NEAR_SET_CFG Reg.NEAR_SET_LIST at this
    omega
  · have := has _ hm
    unfold Reg.NEAR_SET_CFG Reg.NEAR_SET_LIST at this
    omega

end Sys2Proof.Machine
end

section
/-! PROOFS. What a near patrol's grant leaves (R219), and the patrols' statement. -/

namespace Sys2Proof.Machine

open Sys2Proof

/-- An uncorrectable sector is recorded under its device address, where a set lists it. -/
theorem nearFound_bad {s : State} {h pc n : Nat} {e : Ecc} (hbad : e = .uncorrectable ∨ sectorKey h pc n ∈ s.nearUe) :
    ∃ a f, s.nearFound h pc n e = { (s.sectorBad (sectorKey h pc n)).noteNearUe (32 * h + pc) 1 a with free := f }
      ∧ ∀ b, s.nearAddr (32 * h + pc) (32 * n) = some b → a = b := by
  unfold State.nearFound
  dsimp only
  rw [if_pos hbad]
  split
  · next a ha => exact ⟨a, _, rfl, fun b hb => Option.some.inj (ha.symm.trans hb)⟩
  · next ha => exact ⟨_, _, rfl, fun b hb => absurd (ha.symm.trans hb) nofun⟩

theorem nearFound_corrected {s : State} {h pc n : Nat} {e : Ecc} (hbad : ¬ (e = .uncorrectable ∨ sectorKey h pc n ∈ s.nearUe))
    (hcorr : e = .corrected ∨ sectorKey h pc n ∈ s.nearWeak) :
    s.nearFound h pc n e
      = { s with nearWeak := s.nearWeak.filter (· != sectorKey h pc n) }.bump (Reg.NEAR_ECC h) Fld.NEAR_ECC_CORR_CNT 1 := by
  unfold State.nearFound
  dsimp only
  rw [if_neg hbad, if_pos hcorr]

theorem nearFound_clean {s : State} {h pc n : Nat} {e : Ecc} (hbad : ¬ (e = .uncorrectable ∨ sectorKey h pc n ∈ s.nearUe))
    (hcorr : ¬ (e = .corrected ∨ sectorKey h pc n ∈ s.nearWeak)) : s.nearFound h pc n e = s := by
  unfold State.nearFound
  dsimp only
  rw [if_neg hbad, if_neg hcorr]

/-- A state whose wrong bits and whose next free value may differ, and some registers. -/
def onlyWrongBits (s t : State) (as : List Nat) : Prop :=
  framed s t as ∧ t.cores = s.cores ∧ t.held = s.held

theorem onlyWrongBits_of_onlyRegs {s t : State} {as : List Nat} (h : onlyRegs s t as) : onlyWrongBits s t as := by
  refine ⟨framed_of_onlyRegs h, ?_, ?_⟩ <;> rw [h.1]

theorem onlyWrongBits_trans {s t u : State} {as bs : List Nat} (h : onlyWrongBits s t as) (h' : onlyWrongBits t u bs) :
    onlyWrongBits s u (as ++ bs) :=
  ⟨framed_trans h.1 h'.1, h'.2.1.trans h.2.1, h'.2.2.trans h.2.2⟩

theorem onlyWrongBits_nearFound (s : State) (h n : Nat) (pc : Fin 32) (e : Ecc) :
    onlyWrongBits s (s.nearFound h pc.val n e) [Reg.NEAR_ECC h, Reg.NEAR_UE_ADDR h] := by
  have hdie : (32 * h + pc.val) / 32 = h := by omega
  by_cases hbad : e = .uncorrectable ∨ sectorKey h pc.val n ∈ s.nearUe
  · obtain ⟨a, f, hf, -⟩ := nearFound_bad hbad
    have hnote := onlyRegs_noteNearUe (s.sectorBad (sectorKey h pc.val n)) (32 * h + pc.val) 1 a
    rw [hdie] at hnote
    rw [hf]
    obtain ⟨hframe, hcores, hheld⟩ := onlyWrongBits_of_onlyRegs hnote
    exact ⟨hframe, hcores, hheld⟩
  · by_cases hcorr : e = .corrected ∨ sectorKey h pc.val n ∈ s.nearWeak
    · rw [nearFound_corrected hbad hcorr]
      have hbump := onlyWrongBits_of_onlyRegs (onlyRegs_bump
        (onlyRegs_refl { s with nearWeak := s.nearWeak.filter (· != sectorKey h pc.val n) }
          [Reg.NEAR_ECC h, Reg.NEAR_UE_ADDR h]) (List.mem_cons_self ..) Fld.NEAR_ECC_CORR_CNT 1)
      exact hbump
    · rw [nearFound_clean hbad hcorr]
      exact onlyWrongBits_of_onlyRegs (onlyRegs_refl _ _)

theorem wrongBits_nearFound (s : State) (h pc n : Nat) (e : Ecc) :
    (s.nearFound h pc n e).nearWeak = s.nearWeak.filter (· != sectorKey h pc n)
      ∧ (s.nearFound h pc n e).nearUe
          = if e = .uncorrectable ∧ sectorKey h pc n ∉ s.nearUe then sectorKey h pc n :: s.nearUe else s.nearUe := by
  by_cases hbad : e = .uncorrectable ∨ sectorKey h pc n ∈ s.nearUe
  · obtain ⟨a, f, hf, -⟩ := nearFound_bad hbad
    rw [hf, (onlyRegs_noteNearUe _ _ 1 a).1]
    refine ⟨rfl, ?_⟩
    by_cases hkey : sectorKey h pc n ∈ s.nearUe
    · simp [State.sectorBad, hkey]
    · simp [State.sectorBad, hkey, hbad.resolve_right hkey]
  · have hue : ¬ (e = .uncorrectable ∧ sectorKey h pc n ∉ s.nearUe) := fun hu => hbad (.inl hu.1)
    rw [if_neg hue]
    by_cases hcorr : e = .corrected ∨ sectorKey h pc n ∈ s.nearWeak
    · rw [nearFound_corrected hbad hcorr]
      exact ⟨rfl, rfl⟩
    · rw [nearFound_clean hbad hcorr]
      refine ⟨(List.filter_eq_self.2 fun x hx => ?_).symm, rfl⟩
      simpa using fun heq : x = sectorKey h pc n => hcorr (.inr (heq ▸ hx))

theorem corrCnt_nearFound (s : State) (h n : Nat) (pc : Fin 32) (e : Ecc) :
    (s.nearFound h pc.val n e).fld (Reg.NEAR_ECC h) Fld.NEAR_ECC_CORR_CNT
      = if ¬ (e = .uncorrectable ∨ sectorKey h pc.val n ∈ s.nearUe) ∧ (e = .corrected ∨ sectorKey h pc.val n ∈ s.nearWeak)
        then min 65535 (s.fld (Reg.NEAR_ECC h) Fld.NEAR_ECC_CORR_CNT + 1)
        else s.fld (Reg.NEAR_ECC h) Fld.NEAR_ECC_CORR_CNT := by
  have hdie : (32 * h + pc.val) / 32 = h := by omega
  by_cases hbad : e = .uncorrectable ∨ sectorKey h pc.val n ∈ s.nearUe
  · obtain ⟨a, f, hf, -⟩ := nearFound_bad hbad
    have hcnt := corrCnt_noteNearUe (s.sectorBad (sectorKey h pc.val n)) (32 * h + pc.val) 1 a
    rw [hdie] at hcnt
    rw [hf, if_neg fun hx => hx.1 hbad]
    exact hcnt
  · by_cases hcorr : e = .corrected ∨ sectorKey h pc.val n ∈ s.nearWeak
    · rw [nearFound_corrected hbad hcorr, if_pos ⟨hbad, hcorr⟩]
      exact fld_bump_self _ _ _ _ (by decide)
    · rw [nearFound_clean hbad hcorr, if_neg fun hx => hcorr hx.2]

theorem record_nearFound {s : State} {h n : Nat} {pc : Fin 32} {e : Ecc}
    (hbad : e = .uncorrectable ∨ sectorKey h pc.val n ∈ s.nearUe) (hfree : s.flag (Reg.NEAR_ECC h) Fld.NEAR_ECC_UE = false) :
    let t := s.nearFound h pc.val n e
    t.fld (Reg.NEAR_ECC h) Fld.NEAR_ECC_UE = 1 ∧ t.fld (Reg.NEAR_ECC h) Fld.NEAR_ECC_UE_SRC = 1
      ∧ t.fld (Reg.NEAR_ECC h) Fld.NEAR_ECC_UE_PC = pc.val
      ∧ ∀ a, s.nearAddr (32 * h + pc.val) (32 * n) = some a → t.reg (Reg.NEAR_UE_ADDR h) = BitVec.ofNat 64 a := by
  have hdie : (32 * h + pc.val) / 32 = h := by omega
  have hpc : (32 * h + pc.val) % 32 % 32 = pc.val := by omega
  obtain ⟨a, f, hf, haddr⟩ := nearFound_bad hbad
  obtain ⟨hue, hsrc, hupc, hreg⟩ := noteNearUe_records (s := s.sectorBad (sectorKey h pc.val n)) (pc := 32 * h + pc.val)
    (by rw [hdie]; exact hfree) 1 a
  rw [hdie] at hue hsrc hupc hreg
  rw [hpc] at hupc
  intro t
  have ht : t = _ := hf
  rw [ht]
  exact ⟨hue, hsrc, hupc, fun b hb => by rw [← haddr b hb]; exact hreg⟩

theorem record_nearFound_kept {s : State} {h n : Nat} {pc : Fin 32} {e : Ecc}
    (hkept : ¬ (e = .uncorrectable ∨ sectorKey h pc.val n ∈ s.nearUe) ∨ s.flag (Reg.NEAR_ECC h) Fld.NEAR_ECC_UE = true) :
    (s.nearFound h pc.val n e).fld (Reg.NEAR_ECC h) Fld.NEAR_ECC_UE = s.fld (Reg.NEAR_ECC h) Fld.NEAR_ECC_UE
      ∧ (s.nearFound h pc.val n e).reg (Reg.NEAR_UE_ADDR h) = s.reg (Reg.NEAR_UE_ADDR h) := by
  have hdie : (32 * h + pc.val) / 32 = h := by omega
  by_cases hbad : e = .uncorrectable ∨ sectorKey h pc.val n ∈ s.nearUe
  · obtain ⟨a, f, hf, -⟩ := nearFound_bad hbad
    rw [hf, noteNearUe_of_recorded (by rw [hdie]; exact hkept.resolve_left (not_not_intro hbad))]
    exact ⟨rfl, rfl⟩
  · by_cases hcorr : e = .corrected ∨ sectorKey h pc.val n ∈ s.nearWeak
    · rw [nearFound_corrected hbad hcorr]
      exact ⟨fld_bump_apart _ _ _ _ _ _ (by decide) (by decide), reg_bump_ne _ _ _ (nearUeAddr_ne_nearEcc h)⟩
    · rw [nearFound_clean hbad hcorr]
      exact ⟨rfl, rfl⟩

/-! The sector that the patrol has reached. -/

theorem onlyRegs_sectorNext (s : State) (h pc n : Nat) : onlyRegs s (s.sectorNext h pc n) [Reg.NEAR_PATROL h] := by
  unfold State.sectorNext
  split
  · exact onlyRegs_refl _ _
  · split
    · exact onlyRegs_bump (onlyRegs_setFld (onlyRegs_refl _ _) (by simp) ..) (by simp) ..
    · exact onlyRegs_setFld (onlyRegs_refl _ _) (by simp) ..

theorem sector_sectorNext (s : State) (h : Nat) (pc : Fin 32) :
    (s.sectorNext h pc.val (s.fld (Reg.NEAR_PATROL h) Fld.NEAR_PATROL_SECTOR)).fld (Reg.NEAR_PATROL h) Fld.NEAR_PATROL_SECTOR
      = if pc.val = 31 then (s.fld (Reg.NEAR_PATROL h) Fld.NEAR_PATROL_SECTOR + 1) % 2 ^ 26
        else s.fld (Reg.NEAR_PATROL h) Fld.NEAR_PATROL_SECTOR := by
  unfold State.sectorNext
  split
  · next hpc => rw [if_neg (show ¬ pc.val = 31 by omega)]
  · next hpc =>
    rw [if_pos (show pc.val = 31 by omega)]
    split
    · rw [fld_bump_apart _ _ _ _ _ _ (by decide) (by decide), fld_setFld_self _ _ _ _ (by decide)]
      rfl
    · rw [fld_setFld_self _ _ _ _ (by decide)]
      rfl

theorem sweeps_sectorNext (s : State) (h n : Nat) (pc : Fin 32) :
    (s.sectorNext h pc.val n).fld (Reg.NEAR_PATROL h) Fld.NEAR_PATROL_SWEEPS
      = if pc.val = 31 ∧ n = 2 ^ 26 - 1 then min 63 (s.fld (Reg.NEAR_PATROL h) Fld.NEAR_PATROL_SWEEPS + 1)
        else s.fld (Reg.NEAR_PATROL h) Fld.NEAR_PATROL_SWEEPS := by
  have hset : (s.setFld (Reg.NEAR_PATROL h) Fld.NEAR_PATROL_SECTOR (n + 1)).fld (Reg.NEAR_PATROL h) Fld.NEAR_PATROL_SWEEPS
      = s.fld (Reg.NEAR_PATROL h) Fld.NEAR_PATROL_SWEEPS := fld_setFld_apart _ _ _ _ _ _ (by decide) (by decide)
  unfold State.sectorNext
  split
  · next hpc => rw [if_neg fun hx => by omega]
  · next hpc =>
    split
    · next hn =>
      rw [if_pos ⟨by omega, by omega⟩, fld_bump_self _ _ _ _ (by decide), hset]
      rfl
    · next hn => rw [if_neg fun hx => hn (by omega), hset]

end Sys2Proof.Machine
end

section
/-! PROOFS. The patrols count and record (R177, R182, R219, R234, R326). -/

namespace Sys2Proof.Machine

open Sys2Proof

theorem nearPatrol_of_enabled {h : Fin 8} {pc : Fin 32} {e : Ecc} {n : BitVec 16} {s : State}
    (hen : s.flag (Reg.NEAR_CTL h.val) Fld.NEAR_CTL_PATROL_EN = true) (hclk : s.uncEnabled (8 + h.val) = true)
    (hself : s.flag (Reg.NEAR_STAT h.val) Fld.NEAR_STAT_SELFREF = false) :
    exec (.nearPatrol h pc e n) s
      = .next (((s.dieCounted h.val n.toNat).nearFound h.val pc.val (s.fld (Reg.NEAR_PATROL h.val) Fld.NEAR_PATROL_SECTOR) e).sectorNext
          h.val pc.val (s.fld (Reg.NEAR_PATROL h.val) Fld.NEAR_PATROL_SECTOR)) :=
  congrArg _ (patrolNear_on hen hclk hself)

/-- A scratchpad grant with patrol enabled, in the terms of O22. -/
theorem spGrant_counts_and_records (s : State) (c : CoreId) (bank : Fin 64) (word : Fin 4) (e : Ecc) :
    let row := s.fld (Reg.SP_PATROL c.val) Fld.SP_PATROL_ROW
    let off := row * 1024 + bank.val * 16
    let w := (c.val * 0x20_0000 + off) / 4
    let u := s.spFound (w + word.val) e
    let t := s.spGrant c.val bank.val word.val e
    t.fld (Reg.SP_ECC c.val) Fld.SP_ECC_CORR_CNT
        = min 65535 (s.fld (Reg.SP_ECC c.val) Fld.SP_ECC_CORR_CNT + (u.lineCorrected c.val off).length)
      ∧ (∀ i < 4, w + i ∈ u.spUe → (∀ j < i, w + j ∉ u.spUe) → s.flag (Reg.SP_ECC c.val) Fld.SP_ECC_UE = false →
          t.fld (Reg.SP_ECC c.val) Fld.SP_ECC_UE = 1 ∧ t.fld (Reg.SP_ECC c.val) Fld.SP_ECC_UE_SRC = 5
            ∧ (t.reg (Reg.SP_UE_LOC c.val)).toNat = off + 4 * i)
      ∧ ((∀ i < 4, w + i ∉ u.spUe) ∨ s.flag (Reg.SP_ECC c.val) Fld.SP_ECC_UE = true →
          t.fld (Reg.SP_ECC c.val) Fld.SP_ECC_UE = s.fld (Reg.SP_ECC c.val) Fld.SP_ECC_UE
            ∧ t.fld (Reg.SP_ECC c.val) Fld.SP_ECC_UE_SRC = s.fld (Reg.SP_ECC c.val) Fld.SP_ECC_UE_SRC
            ∧ t.reg (Reg.SP_UE_LOC c.val) = s.reg (Reg.SP_UE_LOC c.val)) := by
  intro row off w u t
  have hecc : t.reg (Reg.SP_ECC c.val) = (u.lineCounted c.val off).reg (Reg.SP_ECC c.val) :=
    reg_spGrant (spPatrol_ne_spEcc c.val)
  have hloc : t.reg (Reg.SP_UE_LOC c.val) = (u.lineCounted c.val off).reg (Reg.SP_UE_LOC c.val) :=
    reg_spGrant (spPatrol_ne_spUeLoc c.val)
  obtain ⟨hue, hsrc, hword⟩ := record_lineCounted u c.val off
  rw [fld_of_reg hecc, fld_of_reg hecc, fld_of_reg hecc, hloc, hue, hsrc, hword, corrCnt_lineCounted]
  refine ⟨rfl, fun i hi hin hfirst hfree => ?_, fun hkept => ?_⟩
  · rw [lineNoted_first hi hin hfirst]
    obtain ⟨hue, hsrc, hword⟩ := noteSpUe_records (s := u) hfree 5 (off + 4 * i)
    refine ⟨hue, hsrc, ?_⟩
    have hrow : row < 2 ^ 11 := fld_lt s (Reg.SP_PATROL c.val) Fld.SP_PATROL_ROW
    rw [hword, BitVec.toNat_ofNat]
    omega
  · rw [lineNoted_kept hkept]
    exact ⟨rfl, rfl, rfl⟩

/-- The row and the sweeps after a scratchpad grant. -/
theorem next_spGrant (s : State) (c : Nat) (bank : Fin 64) (word : Nat) (e : Ecc) :
    let row := s.fld (Reg.SP_PATROL c) Fld.SP_PATROL_ROW
    let t := s.spGrant c bank.val word e
    t.fld (Reg.SP_PATROL c) Fld.SP_PATROL_ROW = (if bank.val = 63 then (row + 1) % 2048 else row)
      ∧ t.fld (Reg.SP_PATROL c) Fld.SP_PATROL_SWEEPS
        = (if bank.val = 63 ∧ row = 2047 then min (2 ^ 21 - 1) (s.fld (Reg.SP_PATROL c) Fld.SP_PATROL_SWEEPS + 1)
           else s.fld (Reg.SP_PATROL c) Fld.SP_PATROL_SWEEPS) := by
  intro row t
  let off := row * 1024 + bank.val * 16
  let v := (s.spFound ((c * 0x20_0000 + off) / 4 + word) e).patrolLine c off
  have hpatrol : v.reg (Reg.SP_PATROL c) = s.reg (Reg.SP_PATROL c) :=
    (reg_patrolLine ..).trans ((onlyRegs_lineCounted ..).2 _
      (by simp [(spPatrol_ne_spEcc c).symm, (spPatrol_ne_spUeLoc c).symm]))
  have hnext := row_rowNext v c bank
  have hsweeps := sweeps_rowNext v c bank row
  rw [fld_of_reg hpatrol] at hnext hsweeps
  exact ⟨hnext, hsweeps⟩

/-- A near grant of an enabled patrol, in the terms of O22. -/
theorem nearGrant_counts_and_records (s : State) (h : Fin 8) (pc : Fin 32) (e : Ecc) (n : Nat) :
    let k := s.fld (Reg.NEAR_PATROL h.val) Fld.NEAR_PATROL_SECTOR
    let key := sectorKey h.val pc.val k
    let bad : Prop := e = .uncorrectable ∨ key ∈ s.nearUe
    let t := ((s.dieCounted h.val n).nearFound h.val pc.val k e).sectorNext h.val pc.val k
    t.cores = s.cores ∧ t.held = s.held
      ∧ framed s t [Reg.NEAR_ECC h.val, Reg.NEAR_UE_ADDR h.val, Reg.NEAR_PATROL h.val, Reg.NEAR_DIE_CORR h.val]
      ∧ t.fld (Reg.NEAR_DIE_CORR h.val) Fld.NEAR_DIE_CORR_COUNT
          = min (2 ^ 32 - 1) (s.fld (Reg.NEAR_DIE_CORR h.val) Fld.NEAR_DIE_CORR_COUNT + n)
      ∧ t.nearWeak = s.nearWeak.filter (· != key)
      ∧ t.nearUe = (if e = .uncorrectable ∧ key ∉ s.nearUe then key :: s.nearUe else s.nearUe)
      ∧ (¬ bad → (e = .corrected ∨ key ∈ s.nearWeak) → t.fld (Reg.NEAR_ECC h.val) Fld.NEAR_ECC_CORR_CNT
          = min 65535 (s.fld (Reg.NEAR_ECC h.val) Fld.NEAR_ECC_CORR_CNT + 1))
      ∧ (bad ∨ (e ≠ .corrected ∧ key ∉ s.nearWeak) →
          t.fld (Reg.NEAR_ECC h.val) Fld.NEAR_ECC_CORR_CNT = s.fld (Reg.NEAR_ECC h.val) Fld.NEAR_ECC_CORR_CNT)
      ∧ (bad → s.flag (Reg.NEAR_ECC h.val) Fld.NEAR_ECC_UE = false →
          t.fld (Reg.NEAR_ECC h.val) Fld.NEAR_ECC_UE = 1 ∧ t.fld (Reg.NEAR_ECC h.val) Fld.NEAR_ECC_UE_SRC = 1
          ∧ t.fld (Reg.NEAR_ECC h.val) Fld.NEAR_ECC_UE_PC = pc.val
          ∧ ∀ a, s.nearAddr (32 * h.val + pc.val) (32 * k) = some a → t.reg (Reg.NEAR_UE_ADDR h.val) = BitVec.ofNat 64 a)
      ∧ (¬ bad ∨ s.flag (Reg.NEAR_ECC h.val) Fld.NEAR_ECC_UE = true →
          t.fld (Reg.NEAR_ECC h.val) Fld.NEAR_ECC_UE = s.fld (Reg.NEAR_ECC h.val) Fld.NEAR_ECC_UE
          ∧ t.reg (Reg.NEAR_UE_ADDR h.val) = s.reg (Reg.NEAR_UE_ADDR h.val))
      ∧ t.fld (Reg.NEAR_PATROL h.val) Fld.NEAR_PATROL_SECTOR = (if pc.val = 31 then (k + 1) % 2 ^ 26 else k)
      ∧ t.fld (Reg.NEAR_PATROL h.val) Fld.NEAR_PATROL_SWEEPS
          = (if pc.val = 31 ∧ k = 2 ^ 26 - 1 then min 63 (s.fld (Reg.NEAR_PATROL h.val) Fld.NEAR_PATROL_SWEEPS + 1)
             else s.fld (Reg.NEAR_PATROL h.val) Fld.NEAR_PATROL_SWEEPS) := by
  intro k key bad t
  set u := s.dieCounted h.val n with hu
  set v := u.nearFound h.val pc.val k e with hv
  -- the three registers of the record and the sector lie apart
  have hecc_die : Reg.NEAR_ECC h.val ≠ Reg.NEAR_DIE_CORR h.val := by unfold Reg.NEAR_ECC Reg.NEAR_DIE_CORR; omega
  have hloc_die : Reg.NEAR_UE_ADDR h.val ≠ Reg.NEAR_DIE_CORR h.val := by unfold Reg.NEAR_UE_ADDR Reg.NEAR_DIE_CORR; omega
  have hpat_die : Reg.NEAR_PATROL h.val ≠ Reg.NEAR_DIE_CORR h.val := by unfold Reg.NEAR_PATROL Reg.NEAR_DIE_CORR; omega
  have hecc_pat : Reg.NEAR_ECC h.val ≠ Reg.NEAR_PATROL h.val := by unfold Reg.NEAR_ECC Reg.NEAR_PATROL; omega
  have hloc_pat : Reg.NEAR_UE_ADDR h.val ≠ Reg.NEAR_PATROL h.val := by unfold Reg.NEAR_UE_ADDR Reg.NEAR_PATROL; omega
  have hloc_ecc := nearUeAddr_ne_nearEcc h.val
  -- before the finding
  have hdie : onlyRegs s u [Reg.NEAR_DIE_CORR h.val] := onlyRegs_bump (onlyRegs_refl _ _) (by simp) ..
  have hueU : u.nearUe = s.nearUe := rfl
  have hweakU : u.nearWeak = s.nearWeak := rfl
  have heccU : u.reg (Reg.NEAR_ECC h.val) = s.reg (Reg.NEAR_ECC h.val) := hdie.2 _ (by simpa using hecc_die)
  have hlocU : u.reg (Reg.NEAR_UE_ADDR h.val) = s.reg (Reg.NEAR_UE_ADDR h.val) := hdie.2 _ (by simpa using hloc_die)
  have hflagU : u.flag (Reg.NEAR_ECC h.val) Fld.NEAR_ECC_UE = s.flag (Reg.NEAR_ECC h.val) Fld.NEAR_ECC_UE := by
    rw [State.flag, State.flag, fld_of_reg heccU]
  -- the finding, then the sector
  have hfound := onlyWrongBits_nearFound u h.val k pc e
  have hnext := onlyRegs_sectorNext v h.val pc.val k
  have hpatV : v.reg (Reg.NEAR_PATROL h.val) = s.reg (Reg.NEAR_PATROL h.val) :=
    (hfound.1.1 _ (by simp [hecc_pat.symm, hloc_pat.symm])).trans (hdie.2 _ (by simpa using hpat_die))
  have heccT : t.reg (Reg.NEAR_ECC h.val) = v.reg (Reg.NEAR_ECC h.val) := hnext.2 _ (by simpa using hecc_pat)
  have hlocT : t.reg (Reg.NEAR_UE_ADDR h.val) = v.reg (Reg.NEAR_UE_ADDR h.val) := hnext.2 _ (by simpa using hloc_pat)
  have hdieT : t.reg (Reg.NEAR_DIE_CORR h.val) = u.reg (Reg.NEAR_DIE_CORR h.val) :=
    (hnext.2 _ (by simpa using hpat_die.symm)).trans (hfound.1.1 _ (by simp [hecc_die.symm, hloc_die.symm]))
  have hall := onlyWrongBits_trans (onlyWrongBits_trans (onlyWrongBits_of_onlyRegs hdie) hfound)
    (onlyWrongBits_of_onlyRegs hnext)
  have hcnt := corrCnt_nearFound u h.val k pc e
  rw [hueU, hweakU, fld_of_reg heccU, ← hv] at hcnt
  obtain ⟨hweak, hue⟩ := wrongBits_nearFound u h.val pc.val k e
  have hkV : v.fld (Reg.NEAR_PATROL h.val) Fld.NEAR_PATROL_SECTOR = k := fld_of_reg hpatV _
  refine ⟨hall.2.1, hall.2.2, framed_mono hall.1 (by simp), ?_, ?_, ?_, fun hb hc => ?_, fun hb => ?_, fun hb hfree => ?_,
    fun hb => ?_, ?_, ?_⟩
  · rw [fld_of_reg hdieT, hu, State.dieCounted, fld_bump_self _ _ _ _ (by decide)]
    rfl
  · rw [show t = v.sectorNext h.val pc.val k from rfl, hnext.1]
    exact hweak
  · rw [show t = v.sectorNext h.val pc.val k from rfl, hnext.1]
    exact hue
  · rw [fld_of_reg heccT, hcnt, if_pos ⟨hb, hc⟩]
  · rw [fld_of_reg heccT, hcnt, if_neg fun hx => hb.elim hx.1 fun hc => hx.2.elim hc.1 hc.2]
  · obtain ⟨h₁, h₂, h₃, h₄⟩ := record_nearFound (s := u) hb (hflagU.trans hfree)
    rw [fld_of_reg heccT, fld_of_reg heccT, fld_of_reg heccT, hlocT]
    refine ⟨h₁, h₂, h₃, fun a ha => h₄ a ?_⟩
    rw [nearAddr_of_sameSets (sameSets_of_regs hdie.2 fun a ha => ?_), ha]
    rw [List.mem_singleton.1 ha]
    unfold Reg.NEAR_DIE_CORR Reg.NEAR_SET_LIST Reg.NEAR_SET_CFG
    omega
  · obtain ⟨h₁, h₂⟩ := record_nearFound_kept (s := u) (hb.imp id hflagU.trans)
    rw [fld_of_reg heccT, hlocT, h₁, h₂, fld_of_reg heccU, hlocU]
    exact ⟨rfl, rfl⟩
  · have hsector := sector_sectorNext v h.val pc
    rw [hkV] at hsector
    exact hsector
  · have hsweeps := sweeps_sectorNext v h.val k pc
    rw [fld_of_reg hpatV] at hsweeps
    exact hsweeps

/-- Settles O22: a grant of either patrol is the finding, the record and the count, then the next row or sector. -/
theorem patrolsCountAndRecord : Obligations.PatrolsCountAndRecord := by
  refine ⟨fun c bank word e s hisl hcore => ⟨fun hoff => congrArg _ (patrolSp_off hisl hcore hoff), fun hon => ?_⟩,
    fun h pc e n s hen hclk hself => ?_⟩
  · obtain ⟨hcnt, hrecord, hkept⟩ := spGrant_counts_and_records s c bank word e
    obtain ⟨hcores, hheld, hue, hweak⟩ := fields_spGrant s c.val bank.val word.val e
    obtain ⟨hrow, hsweeps⟩ := next_spGrant s c.val bank word.val e
    rw [lineCorrected_spFound] at hcnt
    rw [lineWeak_spFound] at hweak
    exact ⟨_, spPatrol_of_enabled hisl hcore hon, framed_spGrant .., hcores, hheld, hcnt, hue, hweak, hrecord, hkept, hrow,
      hsweeps⟩
  · exact ⟨_, nearPatrol_of_enabled hen hclk hself, nearGrant_counts_and_records s h pc e n.toNat⟩

end Sys2Proof.Machine
end

section
/-! PROOFS. Requests served at the scratchpads and at near memory (R176, R218–R222). -/

namespace Sys2Proof.Machine

open Sys2Proof

/-! Where no bit is wrong. -/

/-- A place answers reads with what it holds and no word of its memory is known to be wrong. -/
structure State.Clean (s : State) (l : Loc) : Prop where
  clocked : s.gated l = false
  hidden : s.scrubHides l = false
  tier : l.space ≠ .reach
  idle : l.space = .spad → s.scrubs (l.key / 0x20_0000) = false
  spRight : l.space = .spad → s.spUe = [] ∧ s.spWeak = []
  nearRight : l.space = .near → s.nearUe = [] ∧ s.nearWeak = []

/-- The memory of a place. -/
def State.memOf (s : State) (l : Loc) : Mem :=
  match l.space with
  | .near => s.near
  | .reach => s.reach
  | .spad => s.spad

/-- The register of a place's unit that counts corrections. -/
def eccReg (l : Loc) : Nat :=
  match l.space with
  | .near => Reg.NEAR_ECC (l.key / 2 ^ 31 / 32)
  | .reach => Reg.RCH_ECC (l.key / 2 ^ 39)
  | .spad => Reg.SP_ECC (l.key / 0x20_0000)

/-- A state with other memories at the two tiers that a clean place can lie in, and other sets of wrong words. -/
def State.placed (s : State) (near spad : Mem) (spUe nearUe spWeak nearWeak : List Nat) : State :=
  { s with near := near, spad := spad, spUe := spUe, nearUe := nearUe, spWeak := spWeak, nearWeak := nearWeak }

/-- A word, or a near sector, in which the check finds one wrong bit. -/
def State.noted (s : State) (l : Loc) (e : Ecc) : State :=
  { s with
    spWeak := if e = .corrected ∧ l.space = Space.spad then l.key / 4 :: s.spWeak else s.spWeak
    nearWeak := if e = .corrected ∧ l.space = Space.near then l.key / 32 :: s.nearWeak else s.nearWeak }

variable {s : State} {l : Loc}

theorem noUe_of_clean (h : s.Clean l) : s.ueLoc l = none := by
  unfold State.ueLoc
  rw [h.clocked]
  cases hspace : l.space with
  | reach => exact absurd hspace h.tier
  | near => simp [(h.nearRight hspace).1]
  | spad => simp [(h.spRight hspace).1]

theorem noWeak_of_clean (h : s.Clean l) : s.weakIn l = 0 := by
  unfold State.weakIn
  rw [h.clocked]
  cases hspace : l.space with
  | reach => rfl
  | near => simp [(h.nearRight hspace).2]
  | spad => simp [(h.spRight hspace).2]

theorem rdLoc_of_clean (h : s.Clean l) : s.rdLoc l = memSector (s.memOf l) l.key := by
  unfold State.rdLoc State.memOf
  rw [h.clocked]
  cases hspace : l.space with
  | reach => rfl
  | near => rfl
  | spad => simp [h.idle hspace]

theorem takeLoc_noted (h : s.Clean l) (e : Ecc) :
    (s.noted l e).takeLoc l = ((s.noted l e).corrects l (if e = .corrected then 1 else 0), some (memSector (s.memOf l) l.key)) := by
  have hue : (s.noted l e).ueLoc l = none := (show _ = s.ueLoc l from rfl).trans (noUe_of_clean h)
  have hhidden : (s.noted l e).scrubHides l = false := h.hidden
  have hgated : (s.noted l e).gated l = false := h.clocked
  have hread : (s.noted l e).rdLoc l = memSector (s.memOf l) l.key :=
    (show _ = s.rdLoc l from rfl).trans (rdLoc_of_clean h)
  have hweak : (s.noted l e).weakIn l = if e = .corrected then 1 else 0 := by
    by_cases he : e = .corrected
    · unfold State.weakIn
      rw [hgated, if_pos he]
      cases hspace : l.space with
      | reach => exact absurd hspace h.tier
      | near => simp [State.noted, he, hspace]
      | spad =>
        have hidle : (s.noted l e).scrubs (l.key / 0x20_0000) = false := h.idle hspace
        have hfound : (s.noted l e).spWeak = [l.key / 4] := by simp [State.noted, he, hspace, (h.spRight hspace).2]
        simp [hidle, hfound]
        decide
    · rw [if_neg he, show s.noted l e = s by simp [State.noted, he]]
      exact noWeak_of_clean h
  rw [State.takeLoc, hue, hhidden, hweak, hread]
  rfl

/-- A read of a clean place is answered with what memory holds, and one wrong bit that the check finds is counted. -/
theorem answerRead_of_clean (h : s.Clean l) (r : Req) {e : Ecc} (he : e ≠ .uncorrectable) :
    s.answerRead r l e
      = ((s.noted l e).corrects l (if e = .corrected then 1 else 0)).serveReq r.id (memSector (s.memOf l) l.key) := by
  unfold State.answerRead
  extract_lets w live add ue weak t
  have hue : ue = false := by
    cases e with
    | uncorrectable => exact absurd rfl he
    | clean => simp [ue, show (Ecc.clean == Ecc.uncorrectable) = false from rfl]
    | corrected => simp [ue, show (Ecc.corrected == Ecc.uncorrectable) = false from rfl]
  have hlive : live = true := by
    cases hspace : l.space with
    | reach => exact absurd hspace h.tier
    | near => simp [live, h.clocked, hspace]
    | spad => simp [live, h.clocked, hspace, h.idle hspace]
  have hweak : weak = (e == .corrected) := by
    simp only [weak, hlive, noWeak_of_clean h, noUe_of_clean h]
    simp
  have hkept : ∀ m : List Nat, add false m = m := fun m => by simp [add]
  have hsp : add (weak && l.space == Space.spad) s.spWeak
      = if e = .corrected ∧ l.space = Space.spad then l.key / 4 :: s.spWeak else s.spWeak := by
    rw [hweak]
    cases hspace : l.space with
    | reach => exact absurd hspace h.tier
    | near => simp [hkept, show (Space.near == Space.spad) = false from rfl]
    | spad => cases e <;> simp [add, w, hspace, (h.spRight hspace).2]
  have hnear : add (weak && l.space == Space.near) s.nearWeak
      = if e = .corrected ∧ l.space = Space.near then l.key / 32 :: s.nearWeak else s.nearWeak := by
    rw [hweak]
    cases hspace : l.space with
    | reach => exact absurd hspace h.tier
    | near => cases e <;> simp [add, w, hspace, (h.nearRight hspace).2]
    | spad => simp [hkept, show (Space.spad == Space.near) = false from rfl]
  have ht : t = s.noted l e := by
    change s.placed s.near s.spad (add (ue && l.space == Space.spad) s.spUe) (add (ue && l.space == Space.near) s.nearUe)
      (add (weak && l.space == Space.spad) s.spWeak) (add (weak && l.space == Space.near) s.nearWeak)
      = s.placed s.near s.spad s.spUe s.nearUe _ _
    rw [hsp, hnear, hue, Bool.false_and, Bool.false_and, hkept, hkept]
  rw [ht, takeLoc_noted h]

/-! Writes. -/

/-- A memory written. -/
def State.wrote (s : State) (l : Loc) (d : Sector) (be : Word32) : State :=
  { s with
    near := if l.space = Space.near then memPutBe s.near l.key d.toNat be.toNat 32 else s.near
    spad := if l.space = Space.spad then memPutBe s.spad l.key d.toNat be.toNat 32 else s.spad }

theorem corrects_zero (s : State) (l : Loc) : s.corrects l 0 = s := if_pos rfl

theorem stLoc_of_clean (h : s.Clean l) (hroute : l.space = .spad → s.flag (Reg.RT_CFG (l.key / 0x20_0000)) Fld.RT_CFG_EN = false)
    (d : Sector) (be : Word32) : s.stLoc l d be = (s.wrote l d be, none) := by
  obtain ⟨space, key, addr⟩ := l
  have hweak := noWeak_of_clean h
  refine (if_neg (ne_true_of_eq_false h.clocked)).trans ?_
  cases space with
  | reach => exact absurd rfl h.tier
  | near =>
    obtain ⟨hue, hwrong⟩ := h.nearRight rfl
    have hsame : (if be = beAll ∨ be = 0 then s else s.corrects ⟨.near, key, addr⟩ (s.weakIn ⟨.near, key, addr⟩)) = s := by
      rw [hweak, corrects_zero, ite_self]
    refine (if_neg fun hx => by simp [hue] at hx).trans (congrArg (·, none) ?_)
    change State.placed (if be = beAll ∨ be = 0 then s else s.corrects ⟨.near, key, addr⟩ (s.weakIn ⟨.near, key, addr⟩)) _ _ _ _ _ _
      = s.placed _ s.spad s.spUe s.nearUe s.spWeak s.nearWeak
    rw [hsame, hue, hwrong]
    simp
  | spad =>
    obtain ⟨hue, hwrong⟩ := h.spRight rfl
    refine (if_neg (ne_true_of_eq_false (h.idle rfl))).trans ?_
    extract_lets win s₁ be₁ merges s₂ whole some_
    have hwin : win = 0 := by simp [win, State.windowBe, hroute rfl]
    have hbe : be₁ = be := by rw [show be₁ = be &&& ~~~win from rfl, hwin]; exact BitVec.and_allOnes
    have hs₁ : s₁ = s := by rw [show s₁ = s.pushWindow _ _ d win from rfl, hwin]; exact if_pos rfl
    have hfind : (List.range 8).find? (fun i => merges i && s₁.spUe.contains (key / 4 + i)) = none := by
      rw [hs₁, hue]
      simp
    have hs₂ : s₂ = s := by
      rw [show s₂ = s₁.corrects _ ((List.range 8).filter fun i => merges i && s₁.spWeak.contains (key / 4 + i)).length from rfl,
        hs₁, hwrong]
      simp [corrects_zero]
    rw [hfind]
    refine congrArg (·, none) ?_
    change s₂.placed s₂.near (memPutBe s₂.spad key d.toNat be₁.toNat 32) (s₂.spUe.filter fun w => !whole w) s₂.nearUe
      (s₂.spWeak.filter fun w => !some_ w) s₂.nearWeak
      = s.placed s.near _ s.spUe s.nearUe s.spWeak s.nearWeak
    rw [hs₂, hbe, hue, hwrong]
    simp

/-- A write of a request at a clean place puts its bytes there, and a SEND's sector is noticed. -/
theorem landWrite_of_clean (h : s.Clean l)
    (hroute : l.space = .spad → s.flag (Reg.RT_CFG (l.key / 0x20_0000)) Fld.RT_CFG_EN = false)
    (hcomb : l.space = .spad → s.inCombine (l.key / 0x20_0000) (l.key % 0x20_0000) = false) (r : Req) (d : Sector) (be : Word32) :
    s.landWrite r l d be
      = (if r.sent then (s.wrote l d be).notice s.rank r.core else s.wrote l d be).serveReq r.id 0 := by
  have hmesh : s.meshTry l d be = s.stLoc l d be := if_neg fun hx => by simp [hcomb hx.1] at hx
  rw [State.landWrite, hmesh, stLoc_of_clean h hroute]
  rfl

theorem gateFails_of_clean (h : s.Clean l) (r : Req) : s.gateFails r l = none := by
  simp [State.gateFails, h.clocked]

theorem serveAt_read (h : s.Clean l) {r : Req} (hread : r.kind.isWrite = false) {e : Ecc} (he : e ≠ .uncorrectable) :
    s.serveAt r l e
      = ((s.noted l e).corrects l (if e = .corrected then 1 else 0)).serveReq r.id (memSector (s.memOf l) l.key) := by
  rw [State.serveAt, gateFails_of_clean h, ← answerRead_of_clean h r he]
  cases hkind : r.kind with
  | read gid pos => rfl
  | feed key => rfl
  | write d be => simp [hkind, ReqKind.isWrite] at hread

theorem serveAt_write (h : s.Clean l)
    (hroute : l.space = .spad → s.flag (Reg.RT_CFG (l.key / 0x20_0000)) Fld.RT_CFG_EN = false)
    (hcomb : l.space = .spad → s.inCombine (l.key / 0x20_0000) (l.key % 0x20_0000) = false) {r : Req} {d : Sector} {be : Word32}
    (hwrite : r.kind = .write d be) (e : Ecc) :
    s.serveAt r l e
      = (if r.sent then (s.wrote l d be).notice s.rank r.core else s.wrote l d be).serveReq r.id 0 := by
  rw [State.serveAt, gateFails_of_clean h, ← landWrite_of_clean h hroute hcomb, hwrite]

/-- What a read leaves but for the request: the count of corrections. -/
theorem onlyRegs_corrects (s : State) (l : Loc) (n : Nat) : onlyRegs s (s.corrects l n) [eccReg l] := by
  unfold State.corrects eccReg
  split
  · exact onlyRegs_refl _ _
  · cases l.space with
    | near => exact onlyRegs_bump (onlyRegs_refl _ _) (by simp) ..
    | reach => exact onlyRegs_refl _ _
    | spad => exact onlyRegs_bump (onlyRegs_refl _ _) (by simp) ..

end Sys2Proof.Machine
end

section
/-! PROOFS. Requests are served in their slots (R176, R218–R222). -/

namespace Sys2Proof.Machine

open Sys2Proof

variable {s : State} {r : Req} {l : Loc} {o : Option Nat}

theorem reqLoc_of_place (h : s.place r.addr = some (l, o)) : s.reqLoc r = some l := by rw [State.reqLoc, h]; rfl

theorem id_of_reqOf {id : Nat} (h : s.reqOf id = some r) : r.id = id := by
  simpa using List.find?_some h

theorem restaged_serveReq {t : State} (h : t.reqs = s.reqs) (id : Nat) (d : Sector) :
    restaged s (t.serveReq id d) id (.served d) := by rw [restaged, State.serveReq, h]

/-! At a scratchpad. -/

theorem clean_of_spadOpen (hspace : l.space = .spad) (hopen : s.spadOpen (l.key / 0x20_0000) = true) : s.Clean l where
  clocked := by simp [State.gated, hspace, (spadOpen_parts hopen).2.2.1]
  hidden := by simp [State.scrubHides, hspace]
  tier := by simp [hspace]
  idle _ := (spadOpen_parts hopen).2.2.2.1
  spRight _ := ⟨(spadOpen_parts hopen).2.2.2.2.1, (spadOpen_parts hopen).2.2.2.2.2.1⟩
  nearRight h := absurd (hspace.symm.trans h) nofun

theorem remoteSpRequest_eq {id : Nat} (hreq : s.reqOf id = some r) (hpath : r.path = .remote) (hstage : r.stage = .issued)
    (hplace : s.place r.addr = some (l, o)) (harr : s.arrives r l = true) (e : Ecc) :
    exec (.remoteSpRequest id e) s = .next (s.serveAt r l e) := by
  have hserve : s.serveRemote r e = s.serveAt r l e := by
    rw [State.serveRemote, reqLoc_of_place hplace]
    exact if_pos harr
  rw [← hserve]
  change execRemoteSpRequest id e s = _
  rw [execRemoteSpRequest, hreq]
  exact congrArg _ (if_pos ⟨hpath, hstage⟩)

/-! At near memory. -/

/-- A read counted in its window, and the side that had the slot last (R222). -/
def State.windowed (s : State) (r : Req) (pc : Nat) : State :=
  let s := if r.critical then s.countNear pc else s
  { s with lcrLast := mset s.lcrLast pc r.critical }

theorem nearRequest_eq {id : Nat} (hreq : s.reqOf id = some r) (hpath : r.path = .near) (hstage : r.stage = .issued)
    (hplace : s.place r.addr = some (l, o)) (harr : s.arrives r l = true) (hmarg : s.margined l = false)
    (hturn : s.nearTurn r (l.key / 2 ^ 31) = true) (e : Ecc) :
    exec (.nearRequest id e) s = .next ((s.windowed r (l.key / 2 ^ 31)).serveAt r l e) := by
  have hserve : s.serveNear r e = (s.windowed r (l.key / 2 ^ 31)).serveAt r l e := by
    rw [State.serveNear, reqLoc_of_place hplace]
    exact if_neg (by rw [hmarg, harr, hturn]; decide)
  rw [← hserve]
  change execNearRequest id e s = _
  rw [execNearRequest, hreq]
  exact congrArg _ (if_pos ⟨hpath, hstage⟩)

/-- The 600th latency-critical read of a window caps it (R222). -/
def State.cappedBy (s : State) (r : Req) (pc : Nat) : State :=
  if r.critical = true ∧ mget s.lcrWin 0 pc = 599 then
    s.bump (Reg.NEAR_LCR_CAPPED (pc / 32)) Fld.NEAR_LCR_CAPPED_COUNT 1
  else s

/-- What a window's count leaves alone of a state. -/
structure State.KeptByWindow (s t : State) : Prop where
  cores : t.cores = s.cores
  spad : t.spad = s.spad
  reach : t.reach = s.reach
  near : t.near = s.near
  reqs : t.reqs = s.reqs
  nearWait : t.nearWait = s.nearWait
  nearUe : t.nearUe = s.nearUe
  nearWeak : t.nearWeak = s.nearWeak

theorem keptByWindow (s : State) (r : Req) (pc : Nat) : s.KeptByWindow (s.windowed r pc) := by
  unfold State.windowed State.countNear
  extract_lets n s₁ s₂
  have h₂ : s.KeptByWindow s₂ := by
    unfold s₂
    split
    · split <;> exact ⟨rfl, rfl, rfl, rfl, rfl, rfl, rfl, rfl⟩
    · exact ⟨rfl, rfl, rfl, rfl, rfl, rfl, rfl, rfl⟩
  exact ⟨h₂.cores, h₂.spad, h₂.reach, h₂.near, h₂.reqs, h₂.nearWait, h₂.nearUe, h₂.nearWeak⟩

theorem lcrWin_windowed (s : State) (r : Req) (pc : Nat) :
    (s.windowed r pc).lcrWin = if r.critical then mset s.lcrWin pc (mget s.lcrWin 0 pc + 1) else s.lcrWin := by
  unfold State.windowed
  cases r.critical with
  | false => rfl
  | true =>
    change (s.countNear pc).lcrWin = _
    unfold State.countNear
    extract_lets n s₁
    split <;> rfl

theorem regs_windowed (s : State) (r : Req) (pc : Nat) : (s.windowed r pc).regs = (s.cappedBy r pc).regs := by
  unfold State.windowed State.cappedBy
  cases r.critical with
  | false => rfl
  | true =>
    change (s.countNear pc).regs = _
    unfold State.countNear
    by_cases hn : mget s.lcrWin 0 pc = 599
    · rw [if_pos (by rw [hn]), if_pos ⟨rfl, hn⟩]
      rfl
    · rw [if_neg (by omega), if_neg fun h => hn h.2]

theorem onlyRegs_cappedBy (s : State) (r : Req) (pc : Nat) :
    onlyRegs s (s.cappedBy r pc) [Reg.NEAR_LCR_CAPPED (pc / 32)] := by
  unfold State.cappedBy
  split
  · exact onlyRegs_bump (onlyRegs_refl _ _) (by simp) ..
  · exact onlyRegs_refl _ _

theorem reg_windowed (s : State) (r : Req) (pc a : Nat) : (s.windowed r pc).reg a = (s.cappedBy r pc).reg a := by
  exact reg_of_regs (regs_windowed s r pc) a

/-- Registers of the sets, their scrubs and the clocks are not the count of capped windows. -/
theorem reg_windowed_ne (s : State) (r : Req) {pc a : Nat} (ha : a % 0x10_0000 ≠ 0x14) :
    (s.windowed r pc).reg a = s.reg a := by
  rw [reg_windowed]
  refine (onlyRegs_cappedBy s r pc).2 a ?_
  rw [List.mem_singleton]
  unfold Reg.NEAR_LCR_CAPPED
  omega

theorem sameSets_windowed (s : State) (r : Req) (pc : Nat) : sameSets s (s.windowed r pc) := by
  refine fun n hn => ⟨reg_windowed_ne s r ?_, fun i hi => reg_windowed_ne s r ?_⟩
  · unfold Reg.NEAR_SET_CFG
    omega
  · unfold Reg.NEAR_SET_LIST
    omega

theorem clean_windowed (hspace : l.space = .near) (hgated : s.gated l = false) (hhides : s.scrubHides l = false)
    (hue : s.nearUe = []) (hweak : s.nearWeak = []) (r : Req) (pc : Nat) : (s.windowed r pc).Clean l where
  clocked := by
    have hclk : (s.windowed r pc).reg Reg.CLK_EN_UNC = s.reg Reg.CLK_EN_UNC := reg_windowed_ne s r (by decide)
    simpa only [State.gated, hspace, State.uncEnabled, hclk] using hgated
  hidden := by
    have hscrub : ∀ n < 8, (s.windowed r pc).flag (Reg.NEAR_SCRUB n) Fld.NEAR_SCRUB_BUSY
        = s.flag (Reg.NEAR_SCRUB n) Fld.NEAR_SCRUB_BUSY := fun n hn => by
      rw [State.flag, State.flag, fld_of_reg (reg_windowed_ne s r _)]
      unfold Reg.NEAR_SCRUB
      omega
    simp only [State.scrubHides, hspace, List.any_eq_false, List.mem_range] at hhides ⊢
    intro n hn
    rw [hscrub n hn, (keptByWindow s r pc).nearWait, setChannels_of_sameSets (sameSets_windowed s r pc) hn]
    exact hhides n hn
  tier := by simp [hspace]
  idle h := absurd (hspace.symm.trans h) nofun
  spRight h := absurd (hspace.symm.trans h) nofun
  nearRight _ := by
    obtain ⟨-, -, -, -, -, -, hkeptUe, hkeptWeak⟩ := keptByWindow s r pc
    exact ⟨hkeptUe.trans hue, hkeptWeak.trans hweak⟩

end Sys2Proof.Machine
end

section
/-! PROOFS. A request's data and its count (R176, R218–R222). -/

namespace Sys2Proof.Machine

open Sys2Proof

variable {s : State} {r : Req} {l : Loc} {o : Option Nat}

/-- A read that has been served: `d` is its data. -/
def State.readServed (s : State) (l : Loc) (e : Ecc) (id : Nat) (d : Sector) : State :=
  ((s.noted l e).corrects l (if e = .corrected then 1 else 0)).serveReq id d

/-- What a request served leaves alone of a state, but for its memory. -/
structure State.KeptByServing (s t : State) : Prop where
  cores : t.cores = s.cores
  lcrWin : t.lcrWin = s.lcrWin
  reach : t.reach = s.reach

theorem keptByServing_readServed (s : State) (l : Loc) (e : Ecc) (id : Nat) (d : Sector) :
    s.KeptByServing (s.readServed l e id d) := by
  have h := (onlyRegs_corrects (s.noted l e) l (if e = .corrected then 1 else 0)).1
  unfold State.readServed
  rw [h]
  exact ⟨rfl, rfl, rfl⟩

theorem reqs_readServed (s : State) (l : Loc) (e : Ecc) (id : Nat) (d : Sector) :
    (s.readServed l e id d).reqs = (s.serveReq id d).reqs := by
  have h := (onlyRegs_corrects (s.noted l e) l (if e = .corrected then 1 else 0)).1
  unfold State.readServed
  rw [h]
  rfl

theorem regs_readServed (s : State) (l : Loc) (e : Ecc) (id : Nat) (d : Sector) :
    sameRegsBut s (s.readServed l e id d) [eccReg l] :=
  (onlyRegs_corrects (s.noted l e) l (if e = .corrected then 1 else 0)).2

theorem memories_readServed (s : State) (l : Loc) (e : Ecc) (id : Nat) (d : Sector) :
    (s.readServed l e id d).memories = s.memories := by
  have h := (onlyRegs_corrects (s.noted l e) l (if e = .corrected then 1 else 0)).1
  unfold State.readServed
  rw [h]
  rfl

theorem corrCnt_corrects (s : State) (l : Loc) (e : Ecc) {f : FieldPos}
    (hf : f = match l.space with
      | .near => Fld.NEAR_ECC_CORR_CNT
      | _ => Fld.SP_ECC_CORR_CNT) (htier : l.space ≠ .reach) :
    (s.corrects l (if e = .corrected then 1 else 0)).fld (eccReg l) f
      = if e = .corrected then min 65535 (s.fld (eccReg l) f + 1) else s.fld (eccReg l) f := by
  by_cases he : e = .corrected
  · rw [if_pos he, if_pos he]
    unfold State.corrects eccReg
    rw [if_neg one_ne_zero]
    cases hspace : l.space with
    | reach => exact absurd hspace htier
    | near =>
      rw [hspace] at hf
      subst hf
      exact fld_bump_self _ _ _ _ (by decide)
    | spad =>
      rw [hspace] at hf
      subst hf
      exact fld_bump_self _ _ _ _ (by decide)
  · rw [if_neg he, if_neg he]
    rfl

/-- A write that has been served; a SEND's sector is noticed where it lands. -/
def State.writeServed (s : State) (r : Req) (l : Loc) (d : Sector) (be : Word32) : State :=
  (if r.sent then (s.wrote l d be).notice s.rank r.core else s.wrote l d be).serveReq r.id 0

theorem keptByServing_writeServed (s : State) (r : Req) (l : Loc) (d : Sector) (be : Word32) :
    s.KeptByServing (s.writeServed r l d be) := by
  unfold State.writeServed
  split <;> exact ⟨rfl, rfl, rfl⟩

theorem reqs_writeServed (s : State) (r : Req) (l : Loc) (d : Sector) (be : Word32) :
    (s.writeServed r l d be).reqs = (s.serveReq r.id 0).reqs ∧ (s.writeServed r l d be).regs = s.regs := by
  unfold State.writeServed
  split <;> exact ⟨rfl, rfl⟩

theorem memories_writeServed (s : State) (r : Req) (l : Loc) (d : Sector) (be : Word32) :
    (s.writeServed r l d be).memories
      = ((s.wrote l d be).near, s.reach, s.hostMem, s.flash, s.bootBuf, (s.wrote l d be).spad) := by
  unfold State.writeServed
  split <;> rfl

theorem near_of_memories {t : State} (h : t.memories = s.memories) : t.near = s.near := congrArg Prod.fst h

theorem spad_of_memories {t : State} (h : t.memories = s.memories) : t.spad = s.spad := congrArg (·.2.2.2.2.2) h

theorem wrote_spad (hspace : l.space = .spad) (d : Sector) (be : Word32) :
    (s.wrote l d be).spad = memPutBe s.spad l.key d.toNat be.toNat 32 ∧ (s.wrote l d be).near = s.near := by
  simp [State.wrote, hspace]

theorem wrote_near (hspace : l.space = .near) (d : Sector) (be : Word32) :
    (s.wrote l d be).near = memPutBe s.near l.key d.toNat be.toNat 32 ∧ (s.wrote l d be).spad = s.spad := by
  simp [State.wrote, hspace]

theorem write_of_isWrite (h : r.kind.isWrite = true) : ∃ d be, r.kind = .write d be := by
  cases hk : r.kind with
  | read gid pos => simp [hk, ReqKind.isWrite] at h
  | feed key => simp [hk, ReqKind.isWrite] at h
  | write d be => exact ⟨d, be, rfl⟩

/-- A remote request of O23. -/
theorem remote_served {id : Nat} {e : Ecc} (hreq : s.reqOf id = some r) (hpath : r.path = .remote)
    (hstage : r.stage = .issued) (hplace : s.place r.addr = some (l, o)) (harr : s.arrives r l = true)
    (hspace : l.space = .spad) (hopen : s.spadOpen (l.key / 0x20_0000) = true)
    (hcomb : s.inCombine (l.key / 0x20_0000) (l.key % 0x20_0000) = false) (he : e ≠ .uncorrectable) :
    (r.kind.isWrite = false → exec (.remoteSpRequest id e) s = .next (s.readServed l e id (memSector s.spad l.key)))
      ∧ ∀ d be, r.kind = .write d be → exec (.remoteSpRequest id e) s = .next (s.writeServed r l d be) := by
  have hclean := clean_of_spadOpen hspace hopen
  have hroute : s.flag (Reg.RT_CFG (l.key / 0x20_0000)) Fld.RT_CFG_EN = false := (spadOpen_parts hopen).2.2.2.2.2.2
  rw [remoteSpRequest_eq hreq hpath hstage hplace harr]
  refine ⟨fun hread => ?_, fun d be hwrite => ?_⟩
  · rw [serveAt_read hclean hread he, id_of_reqOf hreq, State.memOf, hspace]
    rfl
  · rw [serveAt_write hclean (fun _ => hroute) (fun _ => hcomb) hwrite]
    rfl

/-- A near request of O23. -/
theorem near_served {id : Nat} {e : Ecc} (hreq : s.reqOf id = some r) (hpath : r.path = .near)
    (hstage : r.stage = .issued) (hplace : s.place r.addr = some (l, o)) (harr : s.arrives r l = true)
    (hspace : l.space = .near) (hgated : s.gated l = false) (hmarg : s.margined l = false)
    (hturn : s.nearTurn r (l.key / 2 ^ 31) = true) (hhides : s.scrubHides l = false) (hue : s.nearUe = [])
    (hweak : s.nearWeak = []) (he : e ≠ .uncorrectable) :
    (r.kind.isWrite = false → exec (.nearRequest id e) s
        = .next ((s.windowed r (l.key / 2 ^ 31)).readServed l e id (memSector s.near l.key)))
      ∧ ∀ d be, r.kind = .write d be → exec (.nearRequest id e) s
        = .next ((s.windowed r (l.key / 2 ^ 31)).writeServed r l d be) := by
  have hclean := clean_windowed hspace hgated hhides hue hweak r (l.key / 2 ^ 31)
  have hmem : (s.windowed r (l.key / 2 ^ 31)).near = s.near := (keptByWindow s r _).near
  rw [nearRequest_eq hreq hpath hstage hplace harr hmarg hturn]
  refine ⟨fun hread => ?_, fun d be hwrite => ?_⟩
  · rw [serveAt_read hclean hread he, id_of_reqOf hreq, State.memOf, hspace, ← hmem]
    rfl
  · rw [serveAt_write hclean (fun h => absurd (hspace.symm.trans h) nofun) (fun h => absurd (hspace.symm.trans h) nofun) hwrite]
    rfl

/-- A write is no latency-critical read. -/
theorem critical_of_write {d : Sector} {be : Word32} (h : r.kind = .write d be) : r.critical = false := by
  simp [Req.critical, h, ReqKind.isWrite]

theorem cappedBy_of_not_critical (h : r.critical = false) (s : State) (pc : Nat) : s.cappedBy r pc = s := by
  simp [State.cappedBy, h]

theorem capped_cappedBy (s : State) (r : Req) (pc : Nat) :
    (s.cappedBy r pc).fld (Reg.NEAR_LCR_CAPPED (pc / 32)) Fld.NEAR_LCR_CAPPED_COUNT
      = if r.critical = true ∧ mget s.lcrWin 0 pc = 599 then
          min (2 ^ 32 - 1) (s.fld (Reg.NEAR_LCR_CAPPED (pc / 32)) Fld.NEAR_LCR_CAPPED_COUNT + 1)
        else s.fld (Reg.NEAR_LCR_CAPPED (pc / 32)) Fld.NEAR_LCR_CAPPED_COUNT := by
  unfold State.cappedBy
  split
  · exact fld_bump_self _ _ _ _ (by decide)
  · rfl

/-- Settles O23: at a place where no bit is known to be wrong the request is served, once its window has counted it. -/
theorem requestsAreServed : Obligations.RequestsAreServed := by
  refine ⟨fun id e r l o s hreq hpath hstage hplace harr hspace hopen hcomb hwf he => ?_,
    fun id e r l o s hreq hpath hstage hplace harr hspace hgated hmarg hturn hhides hue hweak hwf he => ?_⟩
  · obtain ⟨hread, hwrite⟩ := remote_served hreq hpath hstage hplace harr hspace hopen hcomb he
    have hecc : eccReg l = Reg.SP_ECC (l.key / 0x20_0000) := by rw [eccReg, hspace]
    cases hw : r.kind.isWrite with
    | false =>
      have hmem := memories_readServed s l e id (memSector s.spad l.key)
      exact ⟨_, hread hw, (keptByServing_readServed ..).cores, (sameMemory_of_memories hmem).1,
        fun _ => ⟨(reqs_readServed ..).trans (restaged_serveReq rfl id _), spad_of_memories hmem,
          hecc ▸ regs_readServed s l e id _,
          hecc ▸ corrCnt_corrects (s.noted l e) l e (by rw [hspace]) (by rw [hspace]; nofun)⟩,
        fun d be hkind => by simp [hkind, ReqKind.isWrite] at hw⟩
    | true =>
      obtain ⟨d, be, hkind⟩ := write_of_isWrite hw
      obtain ⟨hspad, hnear⟩ := wrote_spad (s := s) hspace d be
      obtain ⟨hreqs, hregs⟩ := reqs_writeServed s r l d be
      have hmem := memories_writeServed s r l d be
      simp only [State.memories, Prod.mk.injEq] at hmem
      obtain ⟨hn, hr, hh, hf, hb, hs⟩ := hmem
      refine ⟨_, hwrite d be hkind, (keptByServing_writeServed ..).cores, fun a => ?_, nofun, fun d' be' hkind' => ?_⟩
      · rw [hn, hnear, hr, hh, hf, hb]
        exact ⟨rfl, rfl, rfl, rfl, rfl⟩
      · obtain ⟨rfl, rfl⟩ : d = d' ∧ be = be' := by simpa using hkind.symm.trans hkind'
        refine ⟨hreqs.trans (id_of_reqOf hreq ▸ restaged_serveReq rfl r.id 0), ?_, fun a _ => reg_of_regs hregs a⟩
        rw [hs, hspad]
        exact wroteBytes_memPutBe hwf _ _ _
  · obtain ⟨hread, hwrite⟩ := near_served hreq hpath hstage hplace harr hspace hgated hmarg hturn hhides hue hweak he
    set pc := l.key / 2 ^ 31 with hpc
    have hecc : eccReg l = Reg.NEAR_ECC (pc / 32) := by rw [eccReg, hspace]
    have hcapEcc : Reg.NEAR_LCR_CAPPED (pc / 32) ≠ Reg.NEAR_ECC (pc / 32) := by
      unfold Reg.NEAR_LCR_CAPPED Reg.NEAR_ECC
      omega
    have hcapRegs := (onlyRegs_cappedBy s r pc).2
    have hcap := capped_cappedBy s r pc
    have hkept := keptByWindow s r pc
    have hwin : (r.critical = false → (s.windowed r pc).lcrWin = s.lcrWin)
        ∧ (r.critical = true → mget (s.windowed r pc).lcrWin 0 pc = mget s.lcrWin 0 pc + 1) := by
      rw [lcrWin_windowed]
      exact ⟨fun hc => by simp [hc], fun hc => by simp [hc]⟩
    cases hw : r.kind.isWrite with
    | false =>
      have hregs := regs_readServed (s.windowed r pc) l e id (memSector s.near l.key)
      rw [hecc] at hregs
      have hcount : ((s.windowed r pc).readServed l e id (memSector s.near l.key)).reg (Reg.NEAR_LCR_CAPPED (pc / 32))
          = (s.cappedBy r pc).reg (Reg.NEAR_LCR_CAPPED (pc / 32)) :=
        (hregs _ (by simpa using hcapEcc)).trans (reg_windowed s r pc _)
      have hfirst : (s.windowed r pc).reg (Reg.NEAR_ECC (pc / 32)) = s.reg (Reg.NEAR_ECC (pc / 32)) :=
        (reg_windowed s r pc _).trans (hcapRegs _ (by simpa using hcapEcc.symm))
      have hcnt := corrCnt_corrects ((s.windowed r pc).noted l e) l e (f := Fld.NEAR_ECC_CORR_CNT) (by rw [hspace])
        (by rw [hspace]; nofun)
      rw [hecc, show ((s.windowed r pc).noted l e).fld = (s.windowed r pc).fld from rfl, fld_of_reg hfirst] at hcnt
      have hserved := keptByServing_readServed (s.windowed r pc) l e id (memSector s.near l.key)
      have hmem := memories_readServed (s.windowed r pc) l e id (memSector s.near l.key)
      refine ⟨_, hread hw, hserved.cores.trans hkept.cores, (spad_of_memories hmem).trans hkept.spad,
        hserved.reach.trans hkept.reach, fun hc => hserved.lcrWin.trans (hwin.1 hc), fun hc => hserved.lcrWin ▸ hwin.2 hc,
        (fld_of_reg hcount _).trans hcap,
        fun _ => ⟨(reqs_readServed ..).trans (restaged_serveReq hkept.reqs id _), (near_of_memories hmem).trans hkept.near,
          fun a ha => ?_, hcnt⟩,
        fun d be hkind => by simp [hkind, ReqKind.isWrite] at hw⟩
      simp only [List.mem_cons, List.not_mem_nil, or_false, not_or] at ha
      exact (hregs a (by simpa using ha.1)).trans ((reg_windowed s r pc a).trans (hcapRegs a (by simpa using ha.2)))
    | true =>
      obtain ⟨d, be, hkind⟩ := write_of_isWrite hw
      have hcrit := critical_of_write hkind
      obtain ⟨hnear, hspad⟩ := wrote_near (s := s.windowed r pc) hspace d be
      obtain ⟨hreqs, hregs⟩ := reqs_writeServed (s.windowed r pc) r l d be
      have hfirst : (s.windowed r pc).regs = s.regs := by rw [regs_windowed, cappedBy_of_not_critical hcrit]
      have hserved := keptByServing_writeServed (s.windowed r pc) r l d be
      have hmem := memories_writeServed (s.windowed r pc) r l d be
      simp only [State.memories, Prod.mk.injEq] at hmem
      obtain ⟨hn, -, -, -, -, hs⟩ := hmem
      refine ⟨_, hwrite d be hkind, hserved.cores.trans hkept.cores, (hs.trans hspad).trans hkept.spad,
        hserved.reach.trans hkept.reach, fun hc => hserved.lcrWin.trans (hwin.1 hc), fun hc => hserved.lcrWin ▸ hwin.2 hc,
        ?_, nofun, fun d' be' hkind' => ?_⟩
      · rw [if_neg fun h => by simp [hcrit] at h]
        exact fld_of_regs (hregs.trans hfirst) _ _
      · obtain ⟨rfl, rfl⟩ : d = d' ∧ be = be' := by simpa using hkind.symm.trans hkind'
        refine ⟨hreqs.trans (id_of_reqOf hreq ▸ restaged_serveReq hkept.reqs r.id 0), ?_,
          fun a _ => reg_of_regs (hregs.trans hfirst) a⟩
        rw [hn, hnear, hkept.near]
        exact wroteBytes_memPutBe hwf _ _ _

end Sys2Proof.Machine
end

section
/-! PROOFS. Fields put into a register, and who runs when a register outside the cores is written. -/

namespace Sys2Proof.Machine

open Sys2Proof

/-! Fields taken from a written value. -/

/-- Two fields lie apart. -/
def FieldPos.apart (f g : FieldPos) : Prop := g.lo + g.width ≤ f.lo ∨ f.lo + f.width ≤ g.lo

theorem onlyRegs_putFlds (s : State) (a : Nat) (v : Word32) (fs : List FieldPos) : onlyRegs s (s.putFlds a v fs) [a] := by
  suffices h : ∀ t : State, onlyRegs s t [a] → onlyRegs s (t.putFlds a v fs) [a] from h s (onlyRegs_refl _ _)
  induction fs with
  | nil => exact fun t h => h
  | cons f fs ih => exact fun t h => ih _ (onlyRegs_setFld h (List.mem_singleton_self a) ..)

theorem fld_putFlds_apart {a : Nat} {v : Word32} {f : FieldPos} {fs : List FieldPos}
    (hfs : ∀ g ∈ fs, g.lo + g.width ≤ 64 ∧ g.apart f) (s : State) : (s.putFlds a v fs).fld a f = s.fld a f := by
  induction fs generalizing s with
  | nil => rfl
  | cons g fs ih =>
    obtain ⟨hfit, hapart⟩ := hfs g (List.mem_cons_self ..)
    exact (ih (fun x hx => hfs x (List.mem_cons_of_mem _ hx)) _).trans (fld_setFld_apart _ _ _ _ _ _ hfit hapart)

theorem fld_putFlds {a : Nat} {v : Word32} {f : FieldPos} {fs : List FieldPos} (hfit : ∀ g ∈ fs, g.lo + g.width ≤ 64)
    (hpair : fs.Pairwise fun g f => f.apart g) (hf : f ∈ fs) (s : State) :
    (s.putFlds a v fs).fld a f = wordFld (v.setWidth 64) f := by
  induction fs generalizing s with
  | nil => simp at hf
  | cons g fs ih =>
    rw [List.pairwise_cons] at hpair
    obtain ⟨hhead, htail⟩ := hpair
    rcases List.mem_cons.1 hf with rfl | hf
    · exact (fld_putFlds_apart (fun x hx => ⟨hfit x (List.mem_cons_of_mem _ hx), hhead x hx⟩) _).trans
        (fld_setFld_wordFld s a f _ (hfit f (List.mem_cons_self ..)))
    · exact ih (fun x hx => hfit x (List.mem_cons_of_mem _ hx)) htail hf _

/-! Who runs. -/

/-- A register that holds no stream's state. -/
def notStrmStat (a : Nat) : Prop :=
  ¬ (ctrlBase ≤ a ∧ a < ctrlBase + nCores * 0x1_0000 ∧ (a % 0x1_0000 = 0x104 ∨ a % 0x1_0000 = 0x204))

theorem notStrmStat_of_global {a : Nat} (h : globalBase ≤ a) : notStrmStat a := by
  have hg : globalBase = ctrlBase + 0x80_0000_0000 := rfl
  have hn : nCores = 2304 := rfl
  unfold notStrmStat
  omega

theorem filterMap_mset {α β : Type} {f : Nat × α → Option β} {a : Nat} (hf : ∀ v, f (a, v) = none) (m : SMap α) (v : α) :
    (mset m a v).filterMap f = m.filterMap f := by
  induction m with
  | nil => simp [mset, hf]
  | cons e m ih =>
    obtain ⟨j, w⟩ := e
    unfold mset
    split
    · rw [List.filterMap_cons, hf]
    · split
      · next h => subst h; rw [List.filterMap_cons, List.filterMap_cons, hf, hf]
      · rw [List.filterMap_cons, List.filterMap_cons, ih]

theorem runningCores_setReg {a : Nat} (h : notStrmStat a) (s : State) (v : Word) :
    (s.setReg a v).runningCores = s.runningCores :=
  filterMap_mset (fun _ => if_neg fun hx => h ⟨hx.1, hx.2.1, hx.2.2.1⟩) s.regs v

theorem optRuns_setReg {a : Nat} (h : notStrmStat a) (s : State) (v : Word) (o : Option Nat) :
    optRuns (s.setReg a v) o = optRuns s o := by
  cases o with
  | none => rfl
  | some x =>
    change (s.setReg a v).runningCores.any _ = s.runningCores.any _
    rw [runningCores_setReg h]
    rfl

theorem optRuns_putFlds {a : Nat} (h : notStrmStat a) (v : Word32) (fs : List FieldPos) (s : State) (o : Option Nat) :
    optRuns (s.putFlds a v fs) o = optRuns s o := by
  induction fs generalizing s with
  | nil => rfl
  | cons f fs ih => exact (ih _).trans (optRuns_setReg h s _ o)

/-! A run that ends. -/

/-- A margining run's result shown: BUSY, DONE, PASS, ERRS of the status registers, which have them at the same bits. -/
def State.runShown (s : State) (a pass errs : Nat) : State :=
  (((s.setFld a Fld.NEAR_MRG_STAT_BUSY 0).setFld a Fld.NEAR_MRG_STAT_DONE 1).setFld a Fld.NEAR_MRG_STAT_PASS pass).setFld a
    Fld.NEAR_MRG_STAT_ERRS errs

theorem onlyRegs_runShown (s : State) (a pass errs : Nat) : onlyRegs s (s.runShown a pass errs) [a] := by
  unfold State.runShown
  apply_rules [onlyRegs_setFld, onlyRegs_refl]
  all_goals simp

theorem fields_runShown (s : State) (a : Nat) (pass : BitVec 6) (errs : BitVec 16) :
    (s.runShown a pass.toNat errs.toNat).flag a Fld.NEAR_MRG_STAT_BUSY = false
      ∧ (s.runShown a pass.toNat errs.toNat).fld a Fld.NEAR_MRG_STAT_DONE = 1
      ∧ (s.runShown a pass.toNat errs.toNat).fld a Fld.NEAR_MRG_STAT_PASS = pass.toNat
      ∧ (s.runShown a pass.toNat errs.toNat).fld a Fld.NEAR_MRG_STAT_ERRS = errs.toNat := by
  have apart : ∀ (u : State) (f g : FieldPos) (v : Nat), f.lo + f.width ≤ 64 →
      (g.lo + g.width ≤ f.lo ∨ f.lo + f.width ≤ g.lo) → (u.setFld a f v).fld a g = u.fld a g :=
    fun u f g v => fld_setFld_apart u a a f g v
  unfold State.runShown State.flag
  refine ⟨?_, ?_, ?_, ?_⟩
  · rw [apart _ _ _ _ (by decide) (by decide), apart _ _ _ _ (by decide) (by decide), apart _ _ _ _ (by decide) (by decide),
      fld_setFld_self _ _ _ _ (by decide)]
    rfl
  · rw [apart _ _ _ _ (by decide) (by decide), apart _ _ _ _ (by decide) (by decide), fld_setFld_self _ _ _ _ (by decide)]
    rfl
  · rw [apart _ _ _ _ (by decide) (by decide), fld_setFld_self _ _ _ _ (by decide)]
    exact Nat.mod_eq_of_lt pass.isLt
  · rw [fld_setFld_self _ _ _ _ (by decide)]
    exact Nat.mod_eq_of_lt errs.isLt

end Sys2Proof.Machine
end

section
/-! PROOFS. Margining runs of near memory, the reach ports and the Nirlo ports (R229, R230, R252, R254). -/

namespace Sys2Proof.Machine

open Sys2Proof

theorem ungated_of {s : State} {a : Nat} (h : s.regGated a = false) (f : State → State) : s.ungated a f = f s :=
  if_neg (by simp [h])

/-! Near memory. -/

/-- The fields of a near margining command. -/
def nearMrgFlds : List FieldPos :=
  [Fld.NEAR_MRG_CTL_KIND, Fld.NEAR_MRG_CTL_DIR, Fld.NEAR_MRG_CTL_STEPS, Fld.NEAR_MRG_CTL_PC]

theorem fld_nearMrg (s : State) (a : Nat) (v : Word32) {f : FieldPos} (hf : f ∈ nearMrgFlds) :
    (s.putFlds a v nearMrgFlds).fld a f = wordFld (v.setWidth 64) f := by
  refine fld_putFlds (fun g hg => ?_) ?_ hf s
  · fin_cases hg <;> decide
  · simp only [nearMrgFlds, List.pairwise_cons]
    unfold FieldPos.apart
    decide

theorem nearMrgStat_ne (h : Nat) : Reg.NEAR_MRG_STAT h ≠ Reg.NEAR_MRG_CTL h := by
  unfold Reg.NEAR_MRG_STAT Reg.NEAR_MRG_CTL
  omega

theorem pcRuns_putFlds (s : State) {h : Nat} (v : Word32) (fs : List FieldPos) (pc : Nat) :
    (s.putFlds (Reg.NEAR_MRG_CTL h) v fs).pcRuns pc = s.pcRuns pc := by
  have hsets : sameSets s (s.putFlds (Reg.NEAR_MRG_CTL h) v fs) := by
    refine sameSets_of_regs (onlyRegs_putFlds s _ v fs).2 fun a ha => ?_
    rw [List.mem_singleton.1 ha]
    unfold Reg.NEAR_MRG_CTL Reg.NEAR_SET_LIST Reg.NEAR_SET_CFG
    omega
  have hglobal : notStrmStat (Reg.NEAR_MRG_CTL h) :=
    notStrmStat_of_global (by unfold Reg.NEAR_MRG_CTL globalBase; omega)
  rw [Bool.eq_iff_iff]
  simp only [State.pcRuns, List.any_eq_true, List.mem_range]
  refine exists_congr fun n => and_congr_right fun hn => ?_
  rw [setChannels_of_sameSets hsets hn, setOwner_of_sameSets hsets hn, optRuns_putFlds hglobal]

/-- The pseudo-channels being margined are others. -/
def State.withMargin (s : State) (m : SMap Nat) : State := { s with nearMargin := m }

theorem fld_withMargin (s : State) (m : SMap Nat) (a : Nat) (f : FieldPos) : (s.withMargin m).fld a f = s.fld a f := (rfl)

theorem framed_withMargin (s t : State) (m : SMap Nat) (as : List Nat) :
    framed s (t.withMargin m) as ↔ framed s t as := (Iff.rfl)

/-- A near margining run under way. -/
def State.nearMarginBegun (s : State) (h : Nat) (v : Word32) : State :=
  ((s.putFlds (Reg.NEAR_MRG_CTL h) v nearMrgFlds).setFld (Reg.NEAR_MRG_STAT h) Fld.NEAR_MRG_STAT_BUSY 1).withMargin
    (mset s.nearMargin h (wordFld (v.setWidth 64) Fld.NEAR_MRG_CTL_PC))

theorem nearMarginGo_begins {s : State} {h : Nat} {v : Word32}
    (hstart : wordFld (v.setWidth 64) Fld.NEAR_MRG_CTL_START = 1) (hsteps : wordFld (v.setWidth 64) Fld.NEAR_MRG_CTL_STEPS ≠ 0)
    (hfree : s.flag (Reg.NEAR_MRG_STAT h) Fld.NEAR_MRG_STAT_BUSY = false)
    (hidle : s.pcRuns (32 * h + wordFld (v.setWidth 64) Fld.NEAR_MRG_CTL_PC) = false) :
    s.nearMarginGo h v = s.nearMarginBegun h v := by
  unfold State.nearMarginGo
  extract_lets c st u pc busy w
  have hu : u = s.putFlds (Reg.NEAR_MRG_CTL h) v nearMrgFlds := rfl
  have hnear : u.nearMargin = s.nearMargin := by rw [hu, (onlyRegs_putFlds s _ v _).1]
  have hstat : u.reg st = s.reg st := (onlyRegs_putFlds s _ v _).2 _ (by simpa using nearMrgStat_ne h)
  rw [if_neg (by omega)]
  have hpc : pc = wordFld (v.setWidth 64) Fld.NEAR_MRG_CTL_PC := fld_nearMrg s c v (by simp [nearMrgFlds])
  have hu5 : u.fld c Fld.NEAR_MRG_CTL_STEPS = wordFld (v.setWidth 64) Fld.NEAR_MRG_CTL_STEPS :=
    fld_nearMrg s c v (by simp [nearMrgFlds])
  have hbusy : busy = false := by
    have hflag : u.flag st Fld.NEAR_MRG_STAT_BUSY = false := by rw [State.flag, fld_of_reg hstat]; exact hfree
    have hruns : u.pcRuns (32 * h + pc) = false := by rw [hpc, hu, pcRuns_putFlds, hidle]
    simp only [busy, hflag, hruns, Bool.or_false]
  rw [if_neg (by simp [hbusy, hu5, hsteps]), hpc, hnear]
  rfl

theorem nearMarginStart_begins {h : Fin 8} {v : Word32} {s : State} (hclk : s.uncEnabled (8 + h.val) = true)
    (hstart : wordFld (v.setWidth 64) Fld.NEAR_MRG_CTL_START = 1) (hsteps : wordFld (v.setWidth 64) Fld.NEAR_MRG_CTL_STEPS ≠ 0)
    (hfree : s.flag (Reg.NEAR_MRG_STAT h.val) Fld.NEAR_MRG_STAT_BUSY = false)
    (hidle : s.pcRuns (32 * h.val + wordFld (v.setWidth 64) Fld.NEAR_MRG_CTL_PC) = false) :
    exec (.nearMarginStart h v) s = .next (s.nearMarginBegun h.val v) :=
  congrArg _ ((ungated_of (regGated_near (off := 0x100) h.isLt (by decide) hclk) _).trans
    (nearMarginGo_begins hstart hsteps hfree hidle))

theorem nearMarginBegun_shows (s : State) (h : Nat) (v : Word32) :
    (s.nearMarginBegun h v).flag (Reg.NEAR_MRG_STAT h) Fld.NEAR_MRG_STAT_BUSY = true
      ∧ mfind (s.nearMarginBegun h v).nearMargin h = some (wordFld (v.setWidth 64) Fld.NEAR_MRG_CTL_PC)
      ∧ (s.nearMarginBegun h v).fld (Reg.NEAR_MRG_CTL h) Fld.NEAR_MRG_CTL_STEPS
          = wordFld (v.setWidth 64) Fld.NEAR_MRG_CTL_STEPS
      ∧ framed s (s.nearMarginBegun h v) [Reg.NEAR_MRG_CTL h, Reg.NEAR_MRG_STAT h] := by
  have hput := onlyRegs_putFlds s (Reg.NEAR_MRG_CTL h) v nearMrgFlds
  unfold State.nearMarginBegun State.flag
  simp only [fld_withMargin, framed_withMargin]
  refine ⟨?_, mfind_mset_self .., ?_, ?_⟩
  · rw [fld_setFld_self _ _ _ _ (by decide)]
    rfl
  · rw [fld_setFld_ne _ _ _ _ (nearMrgStat_ne h).symm, fld_nearMrg s _ v (by simp [nearMrgFlds])]
  · exact framed_setFld (framed_mono (framed_of_onlyRegs hput) (by simp)) (by simp) ..

theorem nearScrubs_of_none {s : State} (h : s.nearWait = []) : s.nearScrubs = s := by
  obtain ⟨⟩ := s
  subst h
  rfl

theorem margEnds_of_none {s : State} (hparked : s.parked = []) (hheld : s.margHeld = []) : s.margEnds = s := by
  obtain ⟨⟩ := s
  subst hparked hheld
  rfl

/-- A near run that ends with nothing waiting for it. -/
theorem nearMarginDone_ends {h : Fin 8} {pass : BitVec 6} {errs : BitVec 16} {s : State}
    (hwait : s.nearWait = []) (hparked : s.parked = []) (hheld : s.margHeld = [])
    (hbusy : s.flag (Reg.NEAR_MRG_STAT h.val) Fld.NEAR_MRG_STAT_BUSY = true) :
    exec (.nearMarginDone h pass errs) s
      = .next ((s.runShown (Reg.NEAR_MRG_STAT h.val) pass.toNat errs.toNat).withMargin (mdel s.nearMargin h.val)) := by
  set u := (s.runShown (Reg.NEAR_MRG_STAT h.val) pass.toNat errs.toNat).withMargin (mdel s.nearMargin h.val) with hu
  have hends : u.nearScrubs.margEnds = u := by
    rw [nearScrubs_of_none (s := u) hwait, margEnds_of_none (s := u) hparked hheld]
  exact congrArg _ ((if_pos hbusy).trans hends)

/-! Reach ports. -/

/-- The fields of a reach margining command. -/
def rchMrgFlds : List FieldPos :=
  [Fld.RCH_MRG_CTL_SIDE, Fld.RCH_MRG_CTL_KIND, Fld.RCH_MRG_CTL_DIR, Fld.RCH_MRG_CTL_STEPS, Fld.RCH_MRG_CTL_LANE]

theorem fld_rchMrg (s : State) (a : Nat) (v : Word32) {f : FieldPos} (hf : f ∈ rchMrgFlds) :
    (s.putFlds a v rchMrgFlds).fld a f = wordFld (v.setWidth 64) f := by
  refine fld_putFlds (fun g hg => ?_) ?_ hf s
  · fin_cases hg <;> decide
  · simp only [rchMrgFlds, List.pairwise_cons]
    unfold FieldPos.apart
    decide

theorem rchMrgStat_ne (n : Nat) : Reg.RCH_MRG_STAT n ≠ Reg.RCH_MRG_CTL n := by
  unfold Reg.RCH_MRG_STAT Reg.RCH_MRG_CTL
  omega

theorem portSegsRun_putFlds (s : State) {n : Nat} (v : Word32) (fs : List FieldPos) :
    (s.putFlds (Reg.RCH_MRG_CTL n) v fs).portSegsRun n = s.portSegsRun n := by
  have hglobal : notStrmStat (Reg.RCH_MRG_CTL n) :=
    notStrmStat_of_global (by unfold Reg.RCH_MRG_CTL globalBase; omega)
  rw [Bool.eq_iff_iff]
  simp only [State.portSegsRun, List.any_eq_true, List.mem_range]
  refine exists_congr fun i => and_congr_right fun hi => ?_
  have hseg : (s.putFlds (Reg.RCH_MRG_CTL n) v fs).reg (Reg.RCH_SEG n i) = s.reg (Reg.RCH_SEG n i) := by
    refine (onlyRegs_putFlds s _ v fs).2 _ ?_
    rw [List.mem_singleton]
    unfold Reg.RCH_SEG Reg.RCH_MRG_CTL
    omega
  rw [State.segCtx, State.segCtx, State.flag, State.flag, fld_of_reg hseg, fld_of_reg hseg, optRuns_putFlds hglobal]

theorem rchMarginStart_begins {n : Fin 4} {v : Word32} {s : State} (hclk : s.uncEnabled (16 + n.val) = true)
    (hstart : wordFld (v.setWidth 64) Fld.RCH_MRG_CTL_START = 1)
    (hfree : s.flag (Reg.RCH_MRG_STAT n.val) Fld.RCH_MRG_STAT_BUSY = false) (hidle : s.portSegsRun n.val = false) :
    exec (.rchMarginStart n v) s = .next ((s.putFlds (Reg.RCH_MRG_CTL n.val) v rchMrgFlds).setFld (Reg.RCH_MRG_STAT n.val)
      Fld.RCH_MRG_STAT_BUSY 1) := by
  refine congrArg _ ((ungated_of (regGated_reach (off := 0x300) n.isLt (by decide) hclk) _).trans ?_)
  unfold State.reachMarginGo
  extract_lets c st u
  have hstat : u.reg st = s.reg st := (onlyRegs_putFlds s _ v _).2 _ (by simpa using rchMrgStat_ne n.val)
  have hflag : u.flag st Fld.RCH_MRG_STAT_BUSY = false := by rw [State.flag, fld_of_reg hstat]; exact hfree
  have hruns : u.portSegsRun n.val = false := (portSegsRun_putFlds s v rchMrgFlds).trans hidle
  rw [if_neg (by omega), hflag, hruns]
  rfl

theorem rchMarginDone_ends {n : Fin 4} {pass : BitVec 6} {errs : BitVec 16} {s : State} (hxb : s.power.xbLost = false)
    (hbusy : s.flag (Reg.RCH_MRG_STAT n.val) Fld.RCH_MRG_STAT_BUSY = true) :
    exec (.rchMarginDone n pass errs) s = .next (s.runShown (Reg.RCH_MRG_STAT n.val) pass.toNat errs.toNat) :=
  congrArg _ (if_pos ⟨hbusy, by simp [hxb]⟩)

end Sys2Proof.Machine
end

section
/-! PROOFS. Margining runs of the Nirlo ports (R252, R254). -/

namespace Sys2Proof.Machine

open Sys2Proof

/-- The fields of a Nirlo margining command. -/
def nrlMrgFlds : List FieldPos :=
  [Fld.NRL_MRG_CTL_KIND, Fld.NRL_MRG_CTL_DIR, Fld.NRL_MRG_CTL_EYE, Fld.NRL_MRG_CTL_STEPS, Fld.NRL_MRG_CTL_LANE]

theorem fld_nrlMrg (s : State) (a : Nat) (v : Word32) {f : FieldPos} (hf : f ∈ nrlMrgFlds) :
    (s.putFlds a v nrlMrgFlds).fld a f = wordFld (v.setWidth 64) f := by
  refine fld_putFlds (fun g hg => ?_) ?_ hf s
  · fin_cases hg <;> decide
  · simp only [nrlMrgFlds, List.pairwise_cons]
    unfold FieldPos.apart
    decide

theorem nrlMrgStat_ne (g i j : Nat) : Reg.NRL_MRG_STAT g i ≠ Reg.NRL_MRG_CTL g j := by
  unfold Reg.NRL_MRG_STAT Reg.NRL_MRG_CTL
  omega

theorem nrlStat_ne_mrgCtl (g i : Nat) : Reg.NRL_MRG_CTL g i ≠ Reg.NRL_STAT g i := by
  unfold Reg.NRL_MRG_CTL Reg.NRL_STAT
  omega

theorem nrlStat_ne_mrgStat (g i : Nat) : Reg.NRL_MRG_STAT g i ≠ Reg.NRL_STAT g i := by
  unfold Reg.NRL_MRG_STAT Reg.NRL_STAT
  omega

/-- A Nirlo margining run under way: the port is in TEST. -/
def State.nirloMarginBegun (s : State) (p : Nat) (v : Word32) : State :=
  ((s.putFlds (Reg.NRL_MRG_CTL (p / 4) (p % 4)) v nrlMrgFlds).setFld (Reg.NRL_MRG_STAT (p / 4) (p % 4))
    Fld.NRL_MRG_STAT_BUSY 1).setPortState p 5

theorem nirloMarginGo_begins {s : State} {p : Nat} {v : Word32} (hxb : s.xbOk = true)
    (hstart : wordFld (v.setWidth 64) Fld.NRL_MRG_CTL_START = 1) (heye : wordFld (v.setWidth 64) Fld.NRL_MRG_CTL_EYE ≠ 3)
    (hsteps : wordFld (v.setWidth 64) Fld.NRL_MRG_CTL_STEPS ≠ 0)
    (hfree : ∀ i < 4, s.flag (Reg.NRL_MRG_STAT (p / 4) i) Fld.NRL_MRG_STAT_BUSY = false) (hown : s.portOwner = []) :
    s.nirloMarginGo p v = s.nirloMarginBegun p v := by
  unfold State.nirloMarginGo
  extract_lets c st u running other
  have hc : c = Reg.NRL_MRG_CTL (p / 4) (p % 4) := rfl
  have hput : onlyRegs s u [c] := onlyRegs_putFlds s c v nrlMrgFlds
  have hrun : running = false := by
    have hctx : u.portCtx p = none := by
      rw [State.portCtx, hput.1]
      exact congrArg (mfind · p) hown
    simp only [running, hctx, optRuns, Bool.and_false]
  have hother : other = false := by
    simp only [other, List.any_eq_false, List.mem_range]
    intro i hi
    have hne : Reg.NRL_MRG_STAT (p / 4) i ∉ [c] := by
      rw [List.mem_singleton, hc]
      exact nrlMrgStat_ne _ _ _
    rw [State.flag, fld_of_reg (hput.2 _ hne), ← State.flag, hfree i hi]
    decide
  have hclk : u.xbOk = true := by
    have hne : Reg.CLK_STAT ∉ [c] := by
      rw [List.mem_singleton, hc]
      unfold Reg.CLK_STAT Reg.NRL_MRG_CTL
      omega
    rw [State.xbOk, State.flag, fld_of_reg (hput.2 _ hne)]
    exact hxb
  have hfldEye : u.fld c Fld.NRL_MRG_CTL_EYE = wordFld (v.setWidth 64) Fld.NRL_MRG_CTL_EYE :=
    fld_nrlMrg s c v (by simp [nrlMrgFlds])
  have hfldSteps : u.fld c Fld.NRL_MRG_CTL_STEPS = wordFld (v.setWidth 64) Fld.NRL_MRG_CTL_STEPS :=
    fld_nrlMrg s c v (by simp [nrlMrgFlds])
  rw [if_neg (by omega), if_neg (by simp [hrun, hother]), if_neg (by rw [hfldEye, hfldSteps]; omega), if_neg (by simp [hclk])]
  rfl

theorem nrlMarginStart_begins {p : Port} {v : Word32} {s : State} (hclk : s.uncEnabled (20 + p.val / 4) = true)
    (hxb : s.xbOk = true) (hstart : wordFld (v.setWidth 64) Fld.NRL_MRG_CTL_START = 1)
    (heye : wordFld (v.setWidth 64) Fld.NRL_MRG_CTL_EYE ≠ 3) (hsteps : wordFld (v.setWidth 64) Fld.NRL_MRG_CTL_STEPS ≠ 0)
    (hfree : ∀ i < 4, s.flag (Reg.NRL_MRG_STAT (p.val / 4) i) Fld.NRL_MRG_STAT_BUSY = false) (hown : s.portOwner = []) :
    exec (.nrlMarginStart p v) s = .next (s.nirloMarginBegun p.val v) := by
  have hgate : s.regGated (nrlMrgCtl p.val) = false := by
    rw [show nrlMrgCtl p.val = 0x380_0300_0000 + (0x100 + p.val % 4 * 0x1000) + p.val / 4 * 0x10_0000 by
      unfold nrlMrgCtl Reg.NRL_MRG_CTL; omega]
    exact regGated_nirlo (by omega) (by omega) hclk
  exact congrArg _ ((ungated_of hgate _).trans (nirloMarginGo_begins hxb hstart heye hsteps hfree hown))

theorem nirloMarginBegun_shows (s : State) (p : Nat) (v : Word32) :
    (s.nirloMarginBegun p v).flag (Reg.NRL_MRG_STAT (p / 4) (p % 4)) Fld.NRL_MRG_STAT_BUSY = true
      ∧ (s.nirloMarginBegun p v).fld (Reg.NRL_MRG_CTL (p / 4) (p % 4)) Fld.NRL_MRG_CTL_EYE
          = wordFld (v.setWidth 64) Fld.NRL_MRG_CTL_EYE
      ∧ (s.nirloMarginBegun p v).portState p = 5
      ∧ framed s (s.nirloMarginBegun p v)
          [Reg.NRL_MRG_CTL (p / 4) (p % 4), Reg.NRL_MRG_STAT (p / 4) (p % 4), Reg.NRL_STAT (p / 4) (p % 4)] := by
  have hput := onlyRegs_putFlds s (Reg.NRL_MRG_CTL (p / 4) (p % 4)) v nrlMrgFlds
  unfold State.nirloMarginBegun State.setPortState State.portState State.flag nrlStat
  refine ⟨?_, ?_, ?_, ?_⟩
  · rw [fld_setFld_ne _ _ _ _ (nrlStat_ne_mrgStat _ _), fld_setFld_self _ _ _ _ (by decide)]
    rfl
  · rw [fld_setFld_ne _ _ _ _ (nrlStat_ne_mrgCtl _ _), fld_setFld_ne _ _ _ _ (nrlMrgStat_ne _ _ _).symm,
      fld_nrlMrg s _ v (by simp [nrlMrgFlds])]
  · rw [fld_setFld_self _ _ _ _ (by decide)]
    rfl
  · exact framed_setFld (framed_setFld (framed_mono (framed_of_onlyRegs hput) (by simp)) (by simp) ..) (by simp) ..

/-! The end of a run. -/

/-- A Nirlo run's result: DONE waits for the retraining. -/
def State.nirloShown (s : State) (p pass errs : Nat) : State :=
  (((s.setFld (Reg.NRL_MRG_STAT (p / 4) (p % 4)) Fld.NRL_MRG_STAT_BUSY 0).setFld (Reg.NRL_MRG_STAT (p / 4) (p % 4))
    Fld.NRL_MRG_STAT_PASS pass).setFld (Reg.NRL_MRG_STAT (p / 4) (p % 4)) Fld.NRL_MRG_STAT_ERRS errs).setPort p
      { s.port p with margined := true }

theorem fld_setPort (s : State) (p : Nat) (x : PortState) (a : Nat) (f : FieldPos) : (s.setPort p x).fld a f = s.fld a f := (rfl)

theorem framed_setPort (s t : State) (p : Nat) (x : PortState) (as : List Nat) :
    framed s (t.setPort p x) as ↔ framed s t as := (Iff.rfl)

theorem port_setPort (s : State) (p : Nat) (x : PortState) : (s.setPort p x).port p = x := mget_mset_self ..

theorem port_setFld (s : State) (p a : Nat) (f : FieldPos) (v : Nat) : (s.setFld a f v).port p = s.port p := (rfl)

theorem nirloShown_shows (s : State) (p : Nat) (pass : BitVec 6) (errs : BitVec 16) :
    let st := Reg.NRL_MRG_STAT (p / 4) (p % 4)
    let t := s.nirloShown p pass.toNat errs.toNat
    t.fld st Fld.NRL_MRG_STAT_BUSY = 0 ∧ t.fld st Fld.NRL_MRG_STAT_DONE = s.fld st Fld.NRL_MRG_STAT_DONE
      ∧ t.fld st Fld.NRL_MRG_STAT_PASS = pass.toNat ∧ t.fld st Fld.NRL_MRG_STAT_ERRS = errs.toNat
      ∧ (t.port p).margined = true ∧ framed s t [st] := by
  have apart : ∀ (u : State) (a : Nat) (f g : FieldPos) (v : Nat), f.lo + f.width ≤ 64 →
      (g.lo + g.width ≤ f.lo ∨ f.lo + f.width ≤ g.lo) → (u.setFld a f v).fld a g = u.fld a g :=
    fun u a f g v => fld_setFld_apart u a a f g v
  unfold State.nirloShown
  dsimp only
  refine ⟨?_, ?_, ?_, ?_, ?_, ?_⟩
  · rw [fld_setPort, apart _ _ _ _ _ (by decide) (by decide), apart _ _ _ _ _ (by decide) (by decide),
      fld_setFld_self _ _ _ _ (by decide)]
    rfl
  · rw [fld_setPort, apart _ _ _ _ _ (by decide) (by decide), apart _ _ _ _ _ (by decide) (by decide),
      apart _ _ _ _ _ (by decide) (by decide)]
  · rw [fld_setPort, apart _ _ _ _ _ (by decide) (by decide), fld_setFld_self _ _ _ _ (by decide)]
    exact Nat.mod_eq_of_lt pass.isLt
  · rw [fld_setPort, fld_setFld_self _ _ _ _ (by decide)]
    exact Nat.mod_eq_of_lt errs.isLt
  · rw [port_setPort]
  · rw [framed_setPort]
    refine framed_of_onlyRegs ?_
    apply_rules [onlyRegs_setFld, onlyRegs_refl]
    all_goals simp

theorem portDisabled_of_framed {s t : State} {p : Nat}
    (h : framed s t [Reg.NRL_MRG_STAT (p / 4) (p % 4), Reg.NRL_STAT (p / 4) (p % 4)]) : t.portDisabled p = s.portDisabled p := by
  have hne : nrlCtl p ∉ [Reg.NRL_MRG_STAT (p / 4) (p % 4), Reg.NRL_STAT (p / 4) (p % 4)] := by
    rw [List.mem_cons, List.mem_singleton]
    unfold nrlCtl Reg.NRL_CTL Reg.NRL_MRG_STAT Reg.NRL_STAT
    omega
  rw [State.portDisabled, State.portDisabled, State.flag, State.flag, fld_of_reg (h.1 _ hne)]

theorem xbOk_of_framed {s t : State} {p : Nat} (hp : p < 32)
    (h : framed s t [Reg.NRL_MRG_STAT (p / 4) (p % 4), Reg.NRL_STAT (p / 4) (p % 4)]) : t.xbOk = s.xbOk := by
  have hne : Reg.CLK_STAT ∉ [Reg.NRL_MRG_STAT (p / 4) (p % 4), Reg.NRL_STAT (p / 4) (p % 4)] := by
    rw [List.mem_cons, List.mem_singleton]
    unfold Reg.CLK_STAT Reg.NRL_MRG_STAT Reg.NRL_STAT
    omega
  rw [State.xbOk, State.xbOk, State.flag, State.flag, fld_of_reg (h.1 _ hne)]

/-- A run whose port is disabled is complete at once; else the port retrains first. -/
theorem nrlMarginDone_ends {p : Port} {pass : BitVec 6} {errs : BitVec 16} {s : State} (hxb : s.xbOk = true)
    (hbusy : s.flag (Reg.NRL_MRG_STAT (p.val / 4) (p.val % 4)) Fld.NRL_MRG_STAT_BUSY = true) :
    exec (.nrlMarginDone p pass errs) s = .next (if s.portDisabled p.val
      then ((s.nirloShown p.val pass.toNat errs.toNat).setPortState p.val 0).margDone p.val
      else (s.nirloShown p.val pass.toNat errs.toNat).portTrain p.val) := by
  have hframe := (nirloShown_shows s p.val pass errs).2.2.2.2.2
  rw [← portDisabled_of_framed (framed_mono hframe (by simp))]
  exact congrArg _ (if_pos ⟨hbusy, hxb⟩)

theorem margDone_of_margined {s : State} {p : Nat} (h : (s.port p).margined = true) :
    s.margDone p = (s.setFld (Reg.NRL_MRG_STAT (p / 4) (p % 4)) Fld.NRL_MRG_STAT_DONE 1).setPort p
      { s.port p with margined := false } := if_pos h

theorem portTrain_of_xbOk {s : State} {p : Nat} (h : s.xbOk = true) :
    s.portTrain p = (((s.setPort p { PortState.reset with margined := (s.port p).margined }).setFld (nrlStat p)
      Fld.NRL_STAT_LANES 0).setFld (nrlStat p) Fld.NRL_STAT_VER 0).setPortState p 1 := if_neg (by simp [h])

theorem portState_setPortState (s : State) (p v : Nat) : (s.setPortState p v).portState p = v % 8 :=
  fld_setFld_self s (nrlStat p) Fld.NRL_STAT_STATE v (by decide)

theorem port_setPortState (s : State) (p q v : Nat) : (s.setPortState p v).port q = s.port q := (rfl)

theorem framed_setPortState {s t : State} {as : List Nat} (h : framed s t as) {p : Nat} (hp : nrlStat p ∈ as) (v : Nat) :
    framed s (t.setPortState p v) as := framed_setFld h hp _ v

theorem fld_setPortState_mrgStat (s : State) (p v : Nat) (f : FieldPos) :
    (s.setPortState p v).fld (Reg.NRL_MRG_STAT (p / 4) (p % 4)) f = s.fld (Reg.NRL_MRG_STAT (p / 4) (p % 4)) f :=
  fld_setFld_ne s _ f v (nrlStat_ne_mrgStat _ _)

/-- The retraining changes no margining status. -/
theorem fld_portTrain_mrgStat (s : State) (p : Nat) (f : FieldPos) :
    (s.portTrain p).fld (Reg.NRL_MRG_STAT (p / 4) (p % 4)) f = s.fld (Reg.NRL_MRG_STAT (p / 4) (p % 4)) f := by
  have hne : Reg.NRL_MRG_STAT (p / 4) (p % 4) ≠ nrlStat p := nrlStat_ne_mrgStat _ _
  unfold State.portTrain
  split
  · rfl
  · rw [fld_setPortState_mrgStat, fld_setFld_ne _ _ _ _ hne, fld_setFld_ne _ _ _ _ hne, fld_setPort]

theorem nrlMarginDone_shows {p : Port} {pass : BitVec 6} {errs : BitVec 16} {s : State} (hxb : s.xbOk = true)
    (hbusy : s.flag (Reg.NRL_MRG_STAT (p.val / 4) (p.val % 4)) Fld.NRL_MRG_STAT_BUSY = true) :
    let st := Reg.NRL_MRG_STAT (p.val / 4) (p.val % 4)
    ∃ t, exec (.nrlMarginDone p pass errs) s = .next t ∧ t.flag st Fld.NRL_MRG_STAT_BUSY = false
      ∧ t.fld st Fld.NRL_MRG_STAT_DONE = (if s.portDisabled p.val then 1 else s.fld st Fld.NRL_MRG_STAT_DONE)
      ∧ (t.port p.val).margined = !s.portDisabled p.val ∧ t.fld st Fld.NRL_MRG_STAT_PASS = pass.toNat
      ∧ t.fld st Fld.NRL_MRG_STAT_ERRS = errs.toNat ∧ t.portState p.val = (if s.portDisabled p.val then 0 else 1)
      ∧ framed s t [st, Reg.NRL_STAT (p.val / 4) (p.val % 4)] := by
  obtain ⟨hbusy', hdone, hpass, herrs, hmarg, hframe⟩ := nirloShown_shows s p.val pass errs
  have hxb' := (xbOk_of_framed p.isLt (framed_mono hframe (by simp))).trans hxb
  have hne : nrlStat p.val ≠ Reg.NRL_MRG_STAT (p.val / 4) (p.val % 4) := (nrlStat_ne_mrgStat _ _).symm
  have hmem : nrlStat p.val ∈ [Reg.NRL_MRG_STAT (p.val / 4) (p.val % 4), Reg.NRL_STAT (p.val / 4) (p.val % 4)] := by
    simp [nrlStat]
  refine ⟨_, nrlMarginDone_ends hxb hbusy, ?_⟩
  set u := s.nirloShown p.val pass.toNat errs.toNat with hu
  cases s.portDisabled p.val with
  | true =>
    have kept : ∀ f : FieldPos, (f.lo + f.width ≤ 30 ∨ 31 ≤ f.lo) → ((u.setPortState p.val 0).margDone p.val).fld
        (Reg.NRL_MRG_STAT (p.val / 4) (p.val % 4)) f = u.fld (Reg.NRL_MRG_STAT (p.val / 4) (p.val % 4)) f := fun f hf => by
      rw [margDone_of_margined (by rw [port_setPortState, hmarg]), fld_setPort,
        fld_setFld_apart _ _ _ _ _ _ (by decide) hf, fld_setPortState_mrgStat]
    rw [if_pos rfl, if_pos rfl, if_pos rfl, State.flag, kept Fld.NRL_MRG_STAT_BUSY (by decide),
      kept Fld.NRL_MRG_STAT_PASS (by decide), kept Fld.NRL_MRG_STAT_ERRS (by decide), hbusy',
      hpass, herrs, margDone_of_margined (by rw [port_setPortState, hmarg]), fld_setPort, port_setPort, framed_setPort,
      State.portState, fld_setPort, fld_setFld_self _ _ _ _ (by decide), fld_setFld_ne _ _ _ _ hne, ← State.portState,
      portState_setPortState]
    exact ⟨rfl, rfl, rfl, rfl, rfl, rfl, framed_setFld (framed_setPortState (framed_mono hframe (by simp)) hmem _) (by simp) ..⟩
  | false =>
    rw [if_neg Bool.false_ne_true, if_neg Bool.false_ne_true, if_neg Bool.false_ne_true, State.flag, fld_portTrain_mrgStat,
      fld_portTrain_mrgStat, fld_portTrain_mrgStat, fld_portTrain_mrgStat, hbusy', hdone, hpass, herrs,
      portTrain_of_xbOk hxb', portState_setPortState, port_setPortState, port_setFld, port_setFld, port_setPort]
    have hport := (framed_setPort s u p.val { PortState.reset with margined := (u.port p.val).margined } _).2
      (framed_mono hframe (List.subset_append_left _ [Reg.NRL_STAT (p.val / 4) (p.val % 4)]))
    exact ⟨rfl, rfl, hmarg, rfl, rfl, rfl, framed_setPortState (framed_setFld (framed_setFld hport hmem ..) hmem ..) hmem _⟩

end Sys2Proof.Machine
end

section
/-! PROOFS. Scrubs end (R180, R232). -/

namespace Sys2Proof.Machine

open Sys2Proof

theorem memories_of_onlyRegs {s t : State} {as : List Nat} (h : onlyRegs s t as) : t.memories = s.memories := by
  rw [h.1]
  rfl

theorem mwf_of_wf {m : Mem} (h : Memory.wf m = true) : mwf m = true := by
  rw [Memory.wf, Bool.and_eq_true] at h
  exact h.1

/-- A memory of which only the bytes of some places are kept. -/
theorem memGet_filter {m : Mem} (h : Memory.wf m = true) (p : Nat → Bool) (a : Nat) :
    memGet (m.filter fun c => p c.1) a = if p a then memGet m a else 0 := by
  rw [memGet, mget, mfind_filter (mwf_of_wf h) p a]
  cases p a <;> rfl

/-! A core's scrub. -/

/-- A core's counters at 0. -/
def State.zeroCnt (s : State) (c : Nat) : State :=
  (List.range 8).foldl (fun s k => (s.setReg (Reg.CNT c 0 k) 0).setReg (Reg.CNT c 1 k) 0) s

theorem onlyRegs_zeroCnt (s : State) (c : Nat) :
    onlyRegs s (s.zeroCnt c) ((List.range 8).flatMap fun k => [Reg.CNT c 0 k, Reg.CNT c 1 k]) := by
  have hstep : ∀ (l : List Nat), l ⊆ List.range 8 → ∀ t : State,
      onlyRegs s t ((List.range 8).flatMap fun k => [Reg.CNT c 0 k, Reg.CNT c 1 k]) →
      onlyRegs s (l.foldl (fun s k => (s.setReg (Reg.CNT c 0 k) 0).setReg (Reg.CNT c 1 k) 0) t)
        ((List.range 8).flatMap fun k => [Reg.CNT c 0 k, Reg.CNT c 1 k]) := by
    intro l
    induction l with
    | nil => exact fun _ t h => h
    | cons k l ih =>
      intro hl t h
      rw [List.cons_subset] at hl
      refine ih hl.2 _ (onlyRegs_setReg (onlyRegs_setReg h ?_ _) ?_ _) <;>
        exact List.mem_flatMap.2 ⟨k, hl.1, by simp⟩
  exact hstep _ (List.Subset.refl _) s (onlyRegs_refl _ _)

theorem reg_foldl_zero {a : Nat} {r q : Nat → Nat} (l : List Nat) (s : State)
    (h : s.reg a = 0 ∨ ∃ k ∈ l, a = r k ∨ a = q k) :
    (l.foldl (fun s k => (s.setReg (r k) 0).setReg (q k) 0) s).reg a = 0 := by
  induction l generalizing s with
  | nil =>
    rcases h with h | ⟨k, hk, -⟩
    · exact h
    · simp at hk
  | cons k l ih =>
    refine ih _ ?_
    rw [reg_setReg, reg_setReg]
    by_cases hq : a = q k
    · exact .inl (if_pos hq)
    · by_cases hr : a = r k
      · exact .inl (by rw [if_neg hq, if_pos hr])
      · rw [if_neg hq, if_neg hr]
        refine h.imp_right ?_
        rintro ⟨j, hj, ha⟩
        rcases List.mem_cons.1 hj with rfl | hj
        · exact absurd ha (not_or.2 ⟨hr, hq⟩)
        · exact ⟨j, hj, ha⟩

theorem cnt_zeroCnt (s : State) (c : Nat) (t : Strm) {k : Nat} (hk : k < 8) : (s.zeroCnt c).cnt c t k = 0 := by
  have hreg : (s.zeroCnt c).reg (Reg.CNT c (sidx t) k) = 0 :=
    reg_foldl_zero _ s (.inr ⟨k, List.mem_range.2 hk, by cases t <;> simp [sidx]⟩)
  rw [State.cnt, hreg]
  rfl

/-- A core's scratchpad, and its state, as the end of its scrub leaves them. -/
def State.scrubbedCore (s : State) (c : Nat) : State :=
  { s with
    spad := memClear s.spad (c * 0x20_0000) 0x20_0000
    spUe := s.spUe.filter fun w => w / 0x8_0000 != c
    spWeak := s.spWeak.filter fun w => w / 0x8_0000 != c }.modCore c fun k =>
    { k with acc := [], side := [], slots := [], wout := [], winRun := [], winLoad := [], accUe := [], accWeak := [], queues := [], scrubbing := false }

theorem coreScrubDone_eq {c : CoreId} {s : State} (h : (s.core c.val).scrubbing = true) :
    exec (.coreScrubDone c) s
      = .next (((s.scrubbedCore c.val).zeroCnt c.val).setReg (Reg.SP_SCRUB c.val) (BitVec.ofNat 64 (2 ^ 30 + 2048))) := by
  change execCoreScrubDone c s = _
  rw [execCoreScrubDone, State.scrubEnd, if_pos h]
  rfl

theorem memGet_scrubbedCore {s : State} (h : Memory.wf s.spad = true) (c a : Nat) :
    memGet (s.scrubbedCore c).spad a = if a / 0x20_0000 = c then 0 else memGet s.spad a := by
  refine (memGet_filter h (fun x => decide (x < c * 0x20_0000) || decide (c * 0x20_0000 + 0x20_0000 ≤ x)) a).trans ?_
  by_cases ha : a / 0x20_0000 = c
  · rw [if_pos ha, if_neg]
    simp only [Bool.or_eq_true, decide_eq_true_eq]
    omega
  · rw [if_neg ha, if_pos]
    simp only [Bool.or_eq_true, decide_eq_true_eq]
    omega

theorem core_scrubbedCore (s : State) (c : Nat) : (s.scrubbedCore c).core c = { s.core c with
    acc := [], side := [], slots := [], wout := [], winRun := [], winLoad := [], accUe := [], accWeak := [], queues := []
    scrubbing := false } :=
  core_modCore_self ..

theorem coreScrubDone_scrubs {c : CoreId} {s : State} (h : (s.core c.val).scrubbing = true) (hwf : Memory.wf s.spad = true) :
    ∃ s', exec (.coreScrubDone c) s = .next s' ∧ s'.flag (Reg.SP_SCRUB c.val) Fld.SP_SCRUB_DONE = true
      ∧ s'.flag (Reg.SP_SCRUB c.val) Fld.SP_SCRUB_BUSY = false ∧ (s'.core c.val).scrubbing = false
      ∧ (∀ a, memGet s'.spad a = if a / 0x20_0000 = c.val then 0 else memGet s.spad a) ∧ sameFar s s'
      ∧ (s'.core c.val).acc = [] ∧ (s'.core c.val).slots = [] ∧ (s'.core c.val).queues = []
      ∧ (∀ t : Strm, ∀ k < 8, s'.cnt c.val t k = 0) ∧ sameCoresBut s s' c.val := by
  refine ⟨_, coreScrubDone_eq h, ?_⟩
  set u := s.scrubbedCore c.val with hu
  have hz := onlyRegs_zeroCnt u c.val
  have hcore : ∀ k v, ((u.zeroCnt c.val).setReg (Reg.SP_SCRUB c.val) v).core k = u.core k := fun k v => by
    rw [core_setReg, core_of_onlyRegs hz]
  have hmem : ∀ v, ((u.zeroCnt c.val).setReg (Reg.SP_SCRUB c.val) v).memories = u.memories := fun v => by
    rw [memories_setReg, memories_of_onlyRegs hz]
  have hfar := sameMemory_of_memories (hmem (BitVec.ofNat 64 (2 ^ 30 + 2048)))
  have hself := core_scrubbedCore s c.val
  rw [hcore]
  refine ⟨?_, ?_, ?_, fun a => ?_, fun a => ?_, ?_, ?_, ?_, fun t k hk => ?_, fun k hk => ?_⟩
  · rw [State.flag, fld_setReg_self]
    rfl
  · rw [State.flag, fld_setReg_self]
    rfl
  · rw [hu, hself]
  · exact (hfar.2 a).trans (memGet_scrubbedCore hwf c.val a)
  · exact hfar.1 a
  · rw [hu, hself]
  · rw [hu, hself]
  · rw [hu, hself]
  · have hne : Reg.CNT c.val (sidx t) k ≠ Reg.SP_SCRUB c.val := by
      unfold Reg.CNT Reg.SP_SCRUB
      cases t <;> simp only [sidx] <;> omega
    rw [State.cnt, reg_setReg_ne _ _ hne]
    exact cnt_zeroCnt u c.val t hk
  · rw [hcore]
    exact core_modCore_ne _ _ hk

end Sys2Proof.Machine
end

section
/-! PROOFS. The tiers' scrubs end (R232), and with them the statement of scrubs and margining runs. -/

namespace Sys2Proof.Machine

open Sys2Proof

theorem onlyRegs_returnScrubbed (s : State) : onlyRegs s s.returnScrubbed [Reg.SEC_STAT] := by
  unfold State.returnScrubbed
  dsimp only
  split
  · exact onlyRegs_setFld (onlyRegs_refl _ _) (by simp) ..
  · exact onlyRegs_refl _ _

/-! Near memory. -/

/-- The memory of an interleave set's channels is empty. -/
def State.emptiedSet (s : State) (n : Nat) : State :=
  { s with
    near := s.near.filter fun c => !(s.setChannels n).contains (c.1 / 2 ^ 31)
    nearUe := s.nearUe.filter fun k => !(s.setChannels n).contains (k / 2 ^ 26)
    nearWeak := s.nearWeak.filter fun k => !(s.setChannels n).contains (k / 2 ^ 26) }

theorem nearScrubDone_eq {n : Fin 8} {s : State} (h : s.flag (Reg.NEAR_SCRUB n.val) Fld.NEAR_SCRUB_BUSY = true) :
    exec (.nearScrubDone n) s = .next ((s.emptiedSet n.val).setReg (Reg.NEAR_SCRUB n.val)
      (BitVec.ofNat 64 (2 ^ 30 + 2048 * (s.setChannels n.val).length))).returnScrubbed := by
  change execNearScrubDone n s = _
  rw [execNearScrubDone, State.nearScrubbed, if_pos h]
  rfl

theorem length_setChannels_le (s : State) (n : Nat) : (s.setChannels n).length ≤ 256 := by
  unfold State.setChannels
  dsimp only
  split
  · exact Nat.zero_le _
  · next h =>
    rw [List.length_map, List.length_range]
    exact Nat.pow_le_pow_right (n := 2) (by decide) (Nat.le_of_not_lt h)

/-- A scrub register that shows DONE: bit 30 over a progress below it. -/
theorem wordFld_scrubDone {v : Nat} (h : v < 2 ^ 30) :
    wordFld (BitVec.ofNat 64 (2 ^ 30 + v)) ⟨30, 1⟩ = 1 ∧ wordFld (BitVec.ofNat 64 (2 ^ 30 + v)) ⟨31, 1⟩ = 0 := by
  have hv : (BitVec.ofNat 64 (2 ^ 30 + v)).toNat = 2 ^ 30 + v := by
    rw [BitVec.toNat_ofNat]
    omega
  unfold wordFld
  rw [hv]
  dsimp only
  omega

theorem nearScrubDone_scrubs {n : Fin 8} {s : State} (h : s.flag (Reg.NEAR_SCRUB n.val) Fld.NEAR_SCRUB_BUSY = true)
    (hwf : Memory.wf s.near = true) :
    ∃ s', exec (.nearScrubDone n) s = .next s' ∧ s'.flag (Reg.NEAR_SCRUB n.val) Fld.NEAR_SCRUB_DONE = true
      ∧ s'.flag (Reg.NEAR_SCRUB n.val) Fld.NEAR_SCRUB_BUSY = false
      ∧ (∀ a, memGet s'.near a = if a / 2 ^ 31 ∈ s.setChannels n.val then 0 else memGet s.near a)
      ∧ s'.spad = s.spad ∧ s'.reach = s.reach ∧ s'.cores = s.cores
      ∧ sameRegsBut s s' [Reg.NEAR_SCRUB n.val, Reg.SEC_STAT] := by
  refine ⟨_, nearScrubDone_eq h, ?_⟩
  set v := BitVec.ofNat 64 (2 ^ 30 + 2048 * (s.setChannels n.val).length) with hv
  set u := (s.emptiedSet n.val).setReg (Reg.NEAR_SCRUB n.val) v with hu
  obtain ⟨heq, hregs⟩ := onlyRegs_returnScrubbed u
  have hlen := length_setChannels_le s n.val
  obtain ⟨hdone, hbusy⟩ := wordFld_scrubDone (v := 2048 * (s.setChannels n.val).length) (by omega)
  have hne : Reg.NEAR_SCRUB n.val ≠ Reg.SEC_STAT := by
    unfold Reg.NEAR_SCRUB Reg.SEC_STAT
    omega
  have hreg : u.returnScrubbed.reg (Reg.NEAR_SCRUB n.val) = v :=
    (hregs _ (by simpa using hne)).trans (reg_setReg_self ..)
  refine ⟨?_, ?_, fun a => ?_, ?_, ?_, ?_, fun a ha => ?_⟩
  · rw [State.flag, State.fld, hreg]
    exact congrArg (· != 0) hdone
  · rw [State.flag, State.fld, hreg]
    exact congrArg (· != 0) hbusy
  · rw [heq]
    refine (memGet_filter hwf (fun k => !(s.setChannels n.val).contains (k / 2 ^ 31)) a).trans ?_
    by_cases ha : a / 2 ^ 31 ∈ s.setChannels n.val
    · rw [if_pos ha, if_neg (by simpa using ha)]
    · rw [if_neg ha, if_pos (by simpa using ha)]
  · rw [heq]; rfl
  · rw [heq]; rfl
  · rw [heq]; rfl
  · simp only [List.mem_cons, List.not_mem_nil, or_false, not_or] at ha
    exact (hregs a (by simpa using ha.2)).trans (reg_setReg_ne _ _ ha.1)

/-! Reach memory. -/

theorem onlyRegs_foldl_setFld {r : Nat → Nat} {f : FieldPos} {v : Nat} {as : List Nat} (l : List Nat)
    (hl : ∀ i ∈ l, r i ∈ as) (s : State) : onlyRegs s (l.foldl (fun s i => s.setFld (r i) f v) s) as := by
  suffices h : ∀ t, onlyRegs s t as → onlyRegs s (l.foldl (fun s i => s.setFld (r i) f v) t) as from h s (onlyRegs_refl _ _)
  induction l with
  | nil => exact fun t h => h
  | cons i l ih =>
    exact fun t h => ih (fun j hj => hl j (List.mem_cons_of_mem _ hj)) _ (onlyRegs_setFld h (hl i (List.mem_cons_self ..)) ..)

theorem fld_foldl_zero {r : Nat → Nat} {a : Nat} {f : FieldPos} (hf : f.lo + f.width ≤ 64) (l : List Nat) (s : State)
    (h : s.fld a f = 0 ∨ ∃ i ∈ l, a = r i) : (l.foldl (fun s i => s.setFld (r i) f 0) s).fld a f = 0 := by
  induction l generalizing s with
  | nil =>
    rcases h with h | ⟨i, hi, -⟩
    · exact h
    · simp at hi
  | cons i l ih =>
    refine ih _ ?_
    by_cases ha : a = r i
    · subst ha
      exact .inl ((fld_setFld_self s _ f 0 hf).trans (Nat.zero_mod _))
    · rw [fld_setFld_ne _ _ _ _ ha]
      refine h.imp_right ?_
      rintro ⟨j, hj, he⟩
      rcases List.mem_cons.1 hj with rfl | hj
      · exact absurd he ha
      · exact ⟨j, hj, he⟩

/-- Device segments that a port's scrub covers. -/
def State.scrubPlaces (s : State) (n : Nat) : List Nat :=
  (s.scrubSegs n).map fun i => n * 32 + s.fld (Reg.RCH_SEG n i) Fld.RCH_SEG_DSEG

/-- The memory of a port's marked segments is empty. -/
def State.emptiedSegs (s : State) (n : Nat) : State :=
  { s with
    reach := s.reach.filter fun c => !(s.scrubPlaces n).contains (c.1 / 2 ^ 34)
    reachUe := mfilter (fun k => !(s.scrubPlaces n).contains (k / 2 ^ 29)) s.reachUe }

/-- The segments of a port that its scrub covered are marked no longer. -/
def State.unmarked (s : State) (n : Nat) (segs : List Nat) : State :=
  segs.foldl (fun s i => s.setFld (Reg.RCH_SEG n i) Fld.RCH_SEG_SCRUB 0) s

/-- The next free value is used. -/
def State.withFree (s : State) (k : Nat) : State := { s with free := k }

/-- What a port's scrub register shows at the end: DONE, the last segment, and a free MIB. -/
def State.rchScrubWord (s : State) (n : Nat) : Word :=
  BitVec.ofNat 64 (2 ^ 30 + ((s.scrubSegs n).getLastD 0 * 2 ^ 14 + Config.freeNat s.free % 2 ^ 14))

theorem unmarked_free (s : State) (n : Nat) (segs : List Nat) : (s.unmarked n segs).free = s.free := by
  rw [State.unmarked, (onlyRegs_foldl_setFld (as := segs.map (Reg.RCH_SEG n)) segs
    (fun i hi => List.mem_map_of_mem hi) s).1]

theorem reachScrubDone_eq {n : Fin 4} {s : State} (h : s.flag (Reg.RCH_SCRUB n.val) Fld.RCH_SCRUB_BUSY = true) :
    exec (.reachScrubDone n) s = .next ((((s.emptiedSegs n.val).unmarked n.val (s.scrubSegs n.val)).setReg
      (Reg.RCH_SCRUB n.val) (s.rchScrubWord n.val)).withFree (s.free + 1)).returnScrubbed := by
  have hfree := unmarked_free (s.emptiedSegs n.val) n.val (s.scrubSegs n.val)
  have hword : s.rchScrubWord n.val = BitVec.ofNat 64 (2 ^ 30 + (s.scrubSegs n.val).getLastD 0 * 2 ^ 14
      + Config.freeNat ((s.emptiedSegs n.val).unmarked n.val (s.scrubSegs n.val)).free % 2 ^ 14) := by
    rw [hfree, Nat.add_assoc]
    rfl
  change execReachScrubDone n s = _
  rw [execReachScrubDone, State.reachScrubbed, if_pos h, hword, show s.free + 1
    = ((s.emptiedSegs n.val).unmarked n.val (s.scrubSegs n.val)).free + 1 by rw [hfree]; rfl]
  rfl

theorem mem_scrubPlaces (s : State) (n x : Nat) : x ∈ s.scrubPlaces n ↔ ((List.range 16).any fun i =>
    s.flag (Reg.RCH_SEG n i) Fld.RCH_SEG_SCRUB && decide (x = n * 32 + s.fld (Reg.RCH_SEG n i) Fld.RCH_SEG_DSEG)) = true := by
  simp only [State.scrubPlaces, State.scrubSegs, List.mem_map, List.mem_filter, List.any_eq_true, Bool.and_eq_true,
    decide_eq_true_eq]
  exact exists_congr fun i => ⟨fun ⟨⟨hi, hf⟩, he⟩ => ⟨hi, hf, he.symm⟩, fun ⟨hi, hf, he⟩ => ⟨⟨hi, hf⟩, he.symm⟩⟩

theorem getLastD_scrubSegs_lt (s : State) (n : Nat) : (s.scrubSegs n).getLastD 0 < 16 := by
  rw [List.getLastD_eq_getLast?]
  cases hlast : (s.scrubSegs n).getLast? with
  | none => simp
  | some i =>
    have hi := List.mem_of_getLast? hlast
    rw [State.scrubSegs, List.mem_filter, List.mem_range] at hi
    exact hi.1

theorem reachScrubDone_scrubs {n : Fin 4} {s : State} (h : s.flag (Reg.RCH_SCRUB n.val) Fld.RCH_SCRUB_BUSY = true)
    (hwf : Memory.wf s.reach = true) :
    ∃ s', exec (.reachScrubDone n) s = .next s' ∧ s'.flag (Reg.RCH_SCRUB n.val) Fld.RCH_SCRUB_DONE = true
      ∧ s'.flag (Reg.RCH_SCRUB n.val) Fld.RCH_SCRUB_BUSY = false
      ∧ (∀ i < 16, s'.flag (Reg.RCH_SEG n.val i) Fld.RCH_SEG_SCRUB = false)
      ∧ (∀ a, memGet s'.reach a
          = if (List.range 16).any fun i => s.flag (Reg.RCH_SEG n.val i) Fld.RCH_SEG_SCRUB
              && decide (a / 2 ^ 34 = n.val * 32 + s.fld (Reg.RCH_SEG n.val i) Fld.RCH_SEG_DSEG)
            then 0 else memGet s.reach a)
      ∧ s'.spad = s.spad ∧ s'.near = s.near ∧ s'.cores = s.cores := by
  refine ⟨_, reachScrubDone_eq h, ?_⟩
  set segs := s.scrubSegs n.val with hsegs
  set t := (s.emptiedSegs n.val).unmarked n.val segs with ht
  set u := (t.setReg (Reg.RCH_SCRUB n.val) (s.rchScrubWord n.val)).withFree (s.free + 1) with hu
  have hmarks : onlyRegs (s.emptiedSegs n.val) t (segs.map (Reg.RCH_SEG n.val)) :=
    onlyRegs_foldl_setFld segs (fun i hi => List.mem_map_of_mem hi) _
  have hregs := (onlyRegs_returnScrubbed u).2
  have hmems : u.returnScrubbed.reach = (s.emptiedSegs n.val).reach ∧ u.returnScrubbed.spad = s.spad
      ∧ u.returnScrubbed.near = s.near ∧ u.returnScrubbed.cores = s.cores := by
    have hback : t.reach = (s.emptiedSegs n.val).reach ∧ t.spad = s.spad ∧ t.near = s.near ∧ t.cores = s.cores := by
      rw [hmarks.1]
      exact ⟨rfl, rfl, rfl, rfl⟩
    rw [(onlyRegs_returnScrubbed u).1]
    exact hback
  obtain ⟨hreach, hspad, hnear, hcores⟩ := hmems
  have hlast := getLastD_scrubSegs_lt s n.val
  have hmib : Config.freeNat s.free % 2 ^ 14 < 2 ^ 14 := Nat.mod_lt _ (by decide)
  obtain ⟨hdone, hbusy⟩ := wordFld_scrubDone
    (v := (s.scrubSegs n.val).getLastD 0 * 2 ^ 14 + Config.freeNat s.free % 2 ^ 14) (by omega)
  have hne : Reg.RCH_SCRUB n.val ≠ Reg.SEC_STAT := by
    unfold Reg.RCH_SCRUB Reg.SEC_STAT
    omega
  have hreg : u.returnScrubbed.reg (Reg.RCH_SCRUB n.val) = s.rchScrubWord n.val :=
    (hregs _ (by simpa using hne)).trans (reg_setReg_self ..)
  refine ⟨?_, ?_, fun i hi => ?_, fun a => ?_, hspad, hnear, hcores⟩
  · rw [State.flag, State.fld, hreg]
    exact congrArg (· != 0) hdone
  · rw [State.flag, State.fld, hreg]
    exact congrArg (· != 0) hbusy
  · have hneSec : Reg.RCH_SEG n.val i ≠ Reg.SEC_STAT := by
      unfold Reg.RCH_SEG Reg.SEC_STAT
      omega
    have hneScrub : Reg.RCH_SEG n.val i ≠ Reg.RCH_SCRUB n.val := by
      unfold Reg.RCH_SEG Reg.RCH_SCRUB
      omega
    have hseg : u.returnScrubbed.reg (Reg.RCH_SEG n.val i) = t.reg (Reg.RCH_SEG n.val i) :=
      (hregs _ (by simpa using hneSec)).trans (reg_setReg_ne _ _ hneScrub)
    have hzero : t.fld (Reg.RCH_SEG n.val i) Fld.RCH_SEG_SCRUB = 0 := by
      refine fld_foldl_zero (by decide) segs _ ?_
      cases hf : s.flag (Reg.RCH_SEG n.val i) Fld.RCH_SEG_SCRUB with
      | false => exact .inl (fld_eq_zero_of_flag hf)
      | true => exact .inr ⟨i, List.mem_filter.2 ⟨List.mem_range.2 hi, hf⟩, rfl⟩
    rw [State.flag, fld_of_reg hseg, hzero]
    rfl
  · rw [hreach]
    refine (memGet_filter hwf (fun k => !(s.scrubPlaces n.val).contains (k / 2 ^ 34)) a).trans ?_
    by_cases ha : a / 2 ^ 34 ∈ s.scrubPlaces n.val
    · rw [if_pos ((mem_scrubPlaces ..).1 ha), if_neg (by simpa using ha)]
    · rw [if_neg fun hx => ha ((mem_scrubPlaces ..).2 hx), if_pos (by simpa using ha)]

/-- Settles O26: each scrub's end empties what it covered, a margining run that may begin does, and its end shows its result. -/
theorem scrubsAndMarginRunsEnd : Obligations.ScrubsAndMarginRunsEnd := by
  refine ⟨⟨fun c s h hwf => coreScrubDone_scrubs h hwf, fun n s h hwf => nearScrubDone_scrubs h hwf,
    fun n s h hwf => reachScrubDone_scrubs h hwf⟩, fun h v s hclk hstart hsteps hfree hidle => ?_,
    fun h pass errs s hm hwait hparked hheld hbusy => ?_, fun n v s hclk hstart hfree hidle => ?_,
    fun n pass errs s hxb hbusy => ?_, fun p v s hclk hxb hstart heye hsteps hfree hown => ?_,
    fun p pass errs s hxb hbusy => nrlMarginDone_shows hxb hbusy⟩
  · exact ⟨_, nearMarginStart_begins hclk hstart hsteps hfree hidle, nearMarginBegun_shows s h.val v⟩
  · obtain ⟨hoff, hdone, hpass, herrs⟩ := fields_runShown s (Reg.NEAR_MRG_STAT h.val) pass errs
    refine ⟨_, nearMarginDone_ends hwait hparked hheld hbusy, ?_⟩
    rw [State.flag, fld_withMargin, fld_withMargin, fld_withMargin, fld_withMargin, framed_withMargin]
    exact ⟨hoff, hdone, hpass, herrs, mfind_mdel_self hm, framed_of_onlyRegs (onlyRegs_runShown ..)⟩
  · have hput := onlyRegs_putFlds s (Reg.RCH_MRG_CTL n.val) v rchMrgFlds
    refine ⟨_, rchMarginStart_begins hclk hstart hfree hidle, ?_, ?_, ?_⟩
    · rw [State.flag, fld_setFld_self _ _ _ _ (by decide)]
      rfl
    · rw [fld_setFld_ne _ _ _ _ (rchMrgStat_ne n.val).symm, fld_rchMrg s _ v (by simp [rchMrgFlds])]
    · exact framed_setFld (framed_mono (framed_of_onlyRegs hput) (by simp)) (by simp) ..
  · obtain ⟨hoff, hdone, hpass, herrs⟩ := fields_runShown s (Reg.RCH_MRG_STAT n.val) pass errs
    exact ⟨_, rchMarginDone_ends hxb hbusy, hoff, hdone, hpass, herrs, framed_of_onlyRegs (onlyRegs_runShown ..)⟩
  · exact ⟨_, nrlMarginStart_begins hclk hxb hstart heye hsteps hfree hown, nirloMarginBegun_shows s p.val v⟩

end Sys2Proof.Machine
end

section
/-! PROOFS. Warm resets (R356, R357, R391): what a reset by the watchdog leaves of its error record. -/

namespace Sys2Proof.Machine

open Sys2Proof

/-! An error record changes nothing that a reset asks about. -/

/-- What a source of a reset reads beside the registers, and the scrubs that wait. -/
def State.resetView (s : State) : Boot × Power × List Nat := (s.boot, s.power, s.nearWait)

theorem resetView_setReg (s : State) (a : Nat) (v : Word) : (s.setReg a v).resetView = s.resetView := (rfl)

theorem resetView_bump (s : State) (a : Nat) (f : FieldPos) (n : Nat) : (s.bump a f n).resetView = s.resetView := (rfl)

theorem resetView_ringPut (s : State) (f r esz : Nat) (bs : List Byte) : (ringPut s f r esz bs).resetView = s.resetView := (rfl)

theorem resetView_emit (s : State) (m : OutMsg) : (s.emit m).resetView = s.resetView := (rfl)

theorem resetView_errRingPut (s : State) (f : Nat) (bs : List Byte) : (errRingPut s f bs).resetView = s.resetView := by
  unfold errRingPut
  split
  · rfl
  · split
    · exact resetView_bump ..
    · extract_lets lost s₁
      have h₁ : s₁.resetView = s.resetView := by
        unfold s₁
        split
        · rfl
        · exact (resetView_emit ..).trans (resetView_ringPut ..)
      split
      · exact (resetView_bump ..).trans h₁
      · exact ((resetView_emit ..).trans (resetView_ringPut ..)).trans h₁

theorem resetView_rstErr (s : State) (code : Nat) : (s.rstErr code).resetView = s.resetView := by
  unfold State.rstErr
  split
  · exact resetView_errRingPut ..
  · exact (resetView_errRingPut ..).trans (resetView_setReg ..)

theorem rstStat_rstErr (s : State) (code : Nat) : (s.rstErr code).reg Reg.RST_STAT = s.reg Reg.RST_STAT := by
  unfold State.rstErr
  dsimp only
  rw [reg_report_of_lt _ _ _ _ _ (by decide)]
  split
  · rfl
  · exact reg_setReg_ne _ _ (by decide)

theorem mayReset_rstErr {s : State} (h : s.mayReset) (code : Nat) : (s.rstErr code).mayReset := by
  have hview := resetView_rstErr s code
  simp only [State.resetView, Prod.mk.injEq] at hview
  obtain ⟨hboot, hpower, -⟩ := hview
  rw [State.mayReset, State.outranked, State.inStart, State.startStep, hboot, hpower, fld_of_reg (rstStat_rstErr s code)]
  exact h

/-! What a warm reset leaves of a register outside the start's own. -/

theorem reg_modBoot (s : State) (f : Boot → Boot) (a : Nat) : (s.modBoot f).reg a = s.reg a := (rfl)

theorem reg_markRecovery (s : State) {a : Nat} (ha : a ≠ Reg.RST_STAT) : s.markRecovery.reg a = s.reg a := by
  unfold State.markRecovery
  split
  · exact reg_setFld_ne _ _ _ ha
  · rfl

theorem reg_warmReset (s : State) (cause : Nat) {a : Nat} (ha : a ≠ Reg.RST_STAT) :
    (s.warmReset cause).reg a = (s.afterReset 2).nearScrubs.reg a := by
  rw [State.warmReset, State.beginWarm, reg_markRecovery _ ha, reg_modBoot, State.setStep, reg_setFld_ne _ _ _ ha,
    State.setCause, reg_setFld_ne _ _ _ ha]

/-- A scrub that waited begins, where nothing is being margined. -/
theorem scrub_nearScrubs {s : State} {n : Nat} (hmargin : s.nearMargin = []) (hwait : s.nearWait = [n]) :
    s.nearScrubs.reg (Reg.NEAR_SCRUB n) = BitVec.ofNat 64 (2 ^ 31) := by
  have hfree : s.setMargined n = false := by
    simp only [State.setMargined, hmargin, List.any_eq_false]
    exact fun _ _ => Bool.false_ne_true
  unfold State.nearScrubs
  simp only [hwait, List.filter_cons, hfree, Bool.not_false, if_true, List.filter_nil, List.foldl_cons, List.foldl_nil,
    reg_setReg_self]

/-- A watchdog's warm reset. -/
theorem watchdogFires_resets {s : State} (h : s.mayReset) (hdog : s.boot.watchdog = true) (hwait : s.boot.waitImage = false) :
    s.watchdogFires = (s.rstErr 0x0689).warmReset 3 := by
  obtain ⟨hrank, hstart⟩ := mayReset_rstErr h 0x0689
  unfold State.watchdogFires State.warmSource
  rw [if_neg (by simp [hdog, hwait]), if_neg (by simp [h.2]), if_neg (by simp [hrank]), if_neg (by simp [hstart])]

/-! A state in which a scrub waits for a set beyond the eight. -/

/-- The number whose NEAR_SCRUB would lie where RST_ERR lies. -/
def straySet : Nat := 0x61_8001

theorem nearScrub_straySet : Reg.NEAR_SCRUB straySet = Reg.RST_ERR := by decide

/-- A running part with its watchdog armed, no error recorded, and a scrub of `straySet` waiting. -/
def strayState : State :=
  { State.reset with
    regs := [(Reg.RST_STAT, 0), (Reg.RST_ERR, 0)], nearWait := [straySet], boot := { Boot.reset with watchdog := true } }

theorem strayState_mayReset : strayState.mayReset := ⟨by decide, by decide⟩

theorem strayState_tablesWf : strayState.tablesWf := ⟨by decide, by decide⟩

/-- The scrub that the reset begins overwrites the error record. -/
theorem rstErr_strayState : strayState.watchdogFires.fld Reg.RST_ERR Fld.RST_ERR_CODE = 0 := by
  have hview := resetView_rstErr strayState 0x0689
  simp only [State.resetView, Prod.mk.injEq] at hview
  have hscrub := scrub_nearScrubs (s := (strayState.rstErr 0x0689).afterReset 2) (n := straySet) rfl hview.2.2
  rw [nearScrub_straySet] at hscrub
  rw [watchdogFires_resets strayState_mayReset rfl rfl, State.fld, reg_warmReset _ _ (by decide), hscrub]
  decide

/-- Refutes O45, by its clause on the watchdog's error record: `strayState` meets the hypotheses, which do not bound the sets
whose scrubs wait, and the scrub of set 0x618001 that the warm reset begins (R232) is written over RST_ERR, so CODE reads 0
and not 0x0689. -/
theorem not_warmAndPartialResetsAct : ¬ Obligations.WarmAndPartialResetsAct := by
  intro h
  obtain ⟨-, -, -, hdog, -⟩ := h.1 strayState strayState_mayReset strayState_tablesWf
  obtain ⟨t, ht, -, hcode⟩ := hdog rfl rfl
  obtain rfl : strayState.watchdogFires = t := by
    have hnext : exec .watchdogExpiry strayState = .next strayState.watchdogFires := rfl
    exact (Host.Outcome.next.inj (hnext.symm.trans ht))
  have hfree : strayState.flag Reg.RST_ERR Fld.RST_ERR_VALID = false := by decide
  exact absurd (rstErr_strayState.symm.trans (hcode hfree)) (by decide)

end Sys2Proof.Machine
end
